-- ==== Sys2Proof/Word.lean ====
section
/-! DEFINITION. The word types of the Kwazo Q9 and the index types of its register files (02 R35 to R37, 04 R110). -/

namespace Sys2Proof

/-- A byte of memory. -/
abbrev Byte := BitVec 8

/-- A 64-bit x register, predicate register or CSR (04 R110). -/
abbrev Word := BitVec 64

/-- A 512-bit vector register, capability image or 64-byte granule (04 R115, 05 R154). -/
abbrev Vec := BitVec 512

/-- A 32-bit instruction word (02 R35). -/
abbrev Insn := BitVec 32

/-- The index of an x register. -/
abbrev XReg := BitVec 5

/-- The index of a capability register c0 to c15 (02 R37). -/
abbrev CReg := BitVec 4

/-- The index of a vector register. -/
abbrev VReg := BitVec 5

/-- The index of a predicate register p0 to p7. -/
abbrev PReg := BitVec 3

end Sys2Proof
end

