-- ==== Sys2Proof/Config.lean ====
section
/-! DEFINITION. What is fixed for the part: the numbers of its units and the places of its memories, and the values
the spec leaves open, as constants without a body (assumption log 4, 6 to 8). -/

namespace Sys2Proof.Config

/-- Logical cores of the package (R20). -/
def cores : Nat := 1024
/-- Clusters, vaults, transfer engines and matrix engines of the package (R15, R26). -/
def clusters : Nat := 128
/-- Functions, and so tenants, of the package (R442, R443). -/
def functions : Nat := 513
/-- Odpa ports (R27). -/
def ports : Nat := 4
/-- Bytes of one scratchpad (R186). -/
def spadBytes : Nat := 0x20000
/-- Bytes of one vault (R186). -/
def vaultBytes : Nat := 0x200000
/-- Bytes of device memory (R195). -/
def deviceBytes : Nat := 0x3000000000
/-- End of program memory (R195). -/
def programBytes : Nat := 0x2F00000000
/-- The revocation bitmap (R195, R412). -/
def bitmapBase : Nat := 0x2FF8000000
/-- The closed-stacks area (R195). -/
def closedBase : Nat := 0x2FD8000000
/-- The first byte of the service region, which holds firmware, page tables and tenant tables (R195, R389). -/
def serviceBase : Nat := 0x2FF8800000
/-- The end of the closed-stacks area (R195). -/
def closedEnd : Nat := 0x2FF8000000

/-- Where the model's one memory list keeps the scratchpads: byte o of core L is at this address plus 0x20000 L + o
(the model's own numbering, log 2). -/
def spadFlat : Nat := 0x1000000000000
/-- Where the memory list keeps the vaults. -/
def vaultFlat : Nat := 0x2000000000000
/-- Where the memory list keeps host memory: the 44-bit I/O address of function f is at this plus 2^44 f (log 2). -/
def hostFlat : Nat := 0x10000000000000
/-- The bytes of one function's host I/O space (R204: 44-bit addresses). -/
def hostSpan : Nat := 0x100000000000

/-- Posted-store queue entries of a core (R217). -/
def postedEntries : Nat := 32
/-- Command records of an engine and of one tenant in it (R239). -/
def cmdEntries : Nat := 256
/-- Command records one tenant may hold in an engine (R239). -/
def cmdShare : Nat := 64
/-- Waiter entries of a home unit (R271). -/
def waiterEntries : Nat := 256
/-- Reading-room slots for units and bookplates, and one tenant's share (R319). -/
def roomSlots : Nat := 4032
/-- Reading-room slots one tenant may hold (R319). -/
def roomShare : Nat := 3072
/-- Reserve slots of the closed stacks for each partition a tenant holds (R320). -/
def reservePerPartition : Nat := 65
/-- Calls one tenant may hold queued, and slip cells (R340, R341). -/
def callEntries : Nat := 256
/-- Slip cells of a tenant (R341). -/
def slipCells : Nat := 4096

/-- Which entry a full cache or TLB gives up: the spec names no rule (log 6). Applied to the state's counter of
choices; nothing can prove a value of it. -/
opaque victim : Nat → Nat

/-- Which free partition index a tenant receives on a core: software must not assume any rule (R402; log 7). -/
opaque partChoice : Nat → Nat

/-- The c-cycles that a path takes where the spec gives only a ceiling: a time up to it (R497; log 12). Applied to the
state's counter of choices. -/
opaque delay : Nat → Nat

/-- The service register that holds the return offset of SRET: the spec does not number it (R151; log 8). -/
opaque sretReg : BitVec 8

/-- The service register that names the cause of a service exception, and the offset of its handler: the spec gives neither
(R151; log 8). -/
opaque causeReg : BitVec 8
/-- The offset of the service exception handler (R151; log 8). -/
opaque handler : BitVec 64

/-- Silicon stepping, per part (R467). -/
opaque stepping : BitVec 16
/-- Security version of the firmware the part ships with (R467). -/
opaque svn : BitVec 16
/-- Serial number, per part (R467). -/
opaque serial : BitVec 64
/-- Configuration-space offset of the DOE capability, per part (R470). -/
opaque doeOff : BitVec 16
/-- Digest of the certificate chain, per part (R470). -/
opaque chainDigest : BitVec 512
/-- The measurement digests of the part as shipped, by block number (R463). -/
opaque measurement : Nat → BitVec 512
/-- The Ed448 signature of the Curator over a report, as the report's octets give it (R463): its bits are not modelled. -/
opaque signature : List (BitVec 512) → BitVec 912

/-- BAR 0 offset, in units of 8 bytes, of the entry of a feature in a function's list: NEXT is given per function (R419). -/
opaque featureOff : Nat → Nat → Nat
/-- BAR 0 offset of a function's error log ring, in units of 32 bytes (R471: LOGOFF is given per function). -/
opaque logOff : Nat → Nat
/-- The body of feature 0x0004, by word: the release notes of the device OS give it (R420). -/
opaque callBody : Nat → BitVec 64
/-- The tenant of the peer that exports entry e of the counter region of a port, as the service sides have agreed (R459). -/
opaque peerOwner : Nat → Nat → BitVec 10
/-- The layout of a link fault record in a mailbox message, by port, cause and the entries of unanswered flits (R458). -/
opaque linkRecord : Nat → BitVec 3 → List (BitVec 192) → BitVec 480

end Sys2Proof.Config
end

