-- ==== Sys2Proof/Syntax.lean ====
section
/-! DEFINITION. The abstract syntax of the Kwazo Q9: the operand types and the one inductive `Instr`, a constructor for
each row of the opcode table (02 Tables 3 to 11; 95 for the events). -/

namespace Sys2Proof

/-- The scopes of R45 and R290. -/
inductive Scope where
  | core | clus | die | pkg | sys
  deriving DecidableEq, Repr

/-- The scope codes of R45. -/
def Scope.code : Scope → BitVec 3
  | .core => 0 | .clus => 1 | .die => 2 | .pkg => 3 | .sys => 4

/-- The element types of OP-V and MADD (R48). -/
inductive IntEt where
  | s8 | s16 | s32 | s64 | z8 | z16 | z32 | z64
  deriving DecidableEq, Repr

/-- The et codes of OP-V and MADD (R48). -/
def IntEt.code : IntEt → BitVec 3
  | .s8 => 0 | .s16 => 1 | .s32 => 2 | .s64 => 3 | .z8 => 4 | .z16 => 5 | .z32 => 6 | .z64 => 7

/-- The element types of OP-FP and MSUB (R48). -/
inductive FpEt where
  | bf16 | f16 | f32 | e4m3 | e5m2
  deriving DecidableEq, Repr

/-- The et codes of OP-FP and MSUB (R48). -/
def FpEt.code : FpEt → BitVec 3
  | .bf16 => 0 | .f16 => 1 | .f32 => 2 | .e4m3 => 3 | .e5m2 => 4

/-- The element widths of the VM form (R50). -/
inductive Ew where
  | z8 | z16 | z32 | z64
  deriving DecidableEq, Repr

/-- The ew codes of R50. -/
def Ew.code : Ew → BitVec 3
  | .z8 => 0 | .z16 => 1 | .z32 => 2 | .z64 => 3

/-- The operations of XRED (R46, R250). -/
inductive RedOp where
  | add | max | min
  deriving DecidableEq, Repr

/-- The sub codes of XRED (R46). -/
def RedOp.code : RedOp → BitVec 3
  | .add => 0 | .max => 1 | .min => 2

/-- A Page Request Group Response (R211). On success the host has given the page the read and write permission of
`perm` (bit 0 read, bit 1 write) before translation is tried again. -/
inductive PageResponse where
  | success (perm : BitVec 2) | invalidRequest | responseFailure
  deriving DecidableEq, Repr

/-- How the host completes a request of the part (R228, R287). -/
inductive HostStatus where
  | ok | unsupportedRequest | completerAbort
  deriving DecidableEq, Repr

/-- The AtomicOps the part completes (R442, R444). -/
inductive HostAtomic where
  | fetchAdd | swap | cas
  deriving DecidableEq, Repr

/-- The stream a host request came on and its T bit (R453); none for a request outside a selective stream. -/
abbrev IdeTag := Option (Nat × Bool)

/-- An operand of a host write of BAR 0, with the tag of the stream that the write came on (R453, R455). -/
structure OfTlp (α : Type) where
  val : α
  ide : IdeTag
  deriving DecidableEq, Repr

/-- The header fields of a received flit that carry meaning (R456). -/
structure FlitHeader where
  seq  : BitVec 12
  ack  : BitVec 12
  cred : BitVec 8
  gen  : BitVec 8
  func : BitVec 10
  deriving DecidableEq, Repr

/-- The answer of a CANS flit (R288, R459): applied with a value, refused, or a watch satisfied with the value. -/
inductive CansAnswer where
  | applied (value : Word) | refusedWrap | refusedHome | watch (value : Word)
  deriving DecidableEq, Repr

/-- What a receiver finds wrong with a flit (R456 to R458). -/
inductive FlitError where
  | crc | gap | mac | reserved (seq : BitVec 64) (type : BitVec 8)
  deriving DecidableEq, Repr

/-- An SPDM request to the Curator of die 0 (R463). -/
inductive SpdmReq where
  | measurements (block : Nat) | openSession | interfaceReport (fn : Nat)
  deriving DecidableEq, Repr

/-- One `.task` of a load (R71, R76). -/
structure LoadTask where
  index : BitVec 6
  entry : Nat
  prio  : BitVec 2
  comp  : BitVec 16
  deriving DecidableEq, Repr

/-- The sections that are mapped into segments (02 Table 16). -/
inductive SectionKind where
  | text | rodata | data | bss | caps
  deriving DecidableEq, Repr

/-- A segment of a load (R70): the section mapped into it, its device virtual address and bytes, and whether the root of a .text
segment holds INVOKE (R76). -/
structure Segment where
  kind   : SectionKind
  base   : Nat
  bytes  : Nat
  invoke : Bool := false
  deriving DecidableEq, Repr

/-- An image of a load (R75, R77): the address it lies at, its 64 bytes, and, where a JQ_CAPBASE patches it, the segment and
offset of the symbol and the addend. -/
structure LoadImage where
  place  : Nat
  img    : Vec
  target : Option (Nat × Nat × Int) := none
  deriving DecidableEq, Repr

/-- What a submitter gives the loader (R75 to R77): the segments of the object, its images, the further roots and wrapping keys
supplied, the tasks and the placed cores. -/
structure LoadRequest where
  tenant   : Nat
  segments : List Segment
  images   : List LoadImage
  roots    : List Vec
  tasks    : List LoadTask
  cores    : List Nat
  deriving DecidableEq, Repr

/-- The fields the service pair gives a tenant entry when it builds or rewrites it (R400, R446, R447), and the engines whose job
ports it has issued to the tenant (R361, R401). -/
structure TenantInit where
  tenant   : Nat
  ptroot   : Nat
  csbase   : Nat
  cssize   : Nat
  slippage : Nat
  ctbase   : Nat
  ctlen    : Nat
  dispw    : BitVec 8
  xferw    : BitVec 8
  callw    : BitVec 8
  steal    : Nat
  mxw      : List (Nat × BitVec 8)
  class0   : BitVec 128
  barrier  : BitVec 1024
  ports    : List Nat := []
  deriving DecidableEq, Repr

/-- What bring-up finds in the part (R446): the step that fails, the self-test results of the two service pairs (bit d
for die d), the fuse images of the remap tables, and the physical function's tenant entry. -/
structure BringUpInput where
  failStep : Option Nat
  selfTest : BitVec 2
  remap0   : List (BitVec 16)
  remap1   : List (BitVec 16)
  pf       : TenantInit
  deriving DecidableEq, Repr

/-- A staged firmware image (R464): whether it verifies, its security version and the digests of its measurement
blocks 2, 3 and 5. -/
structure FirmwareImage where
  verified : Bool
  svn      : BitVec 16
  digest2  : Vec
  digest3  : Vec
  digest5  : Vec
  deriving DecidableEq, Repr

/-- The instructions and events of the part: one constructor per row of the opcode table. The instruction words
stand first, destination operand first where the written form has one; then the steps that the part, the service side,
the host and the peers take (95); then what has no operand, words and steps. -/
inductive Instr where
  /-- ADDI (R137). Adds a sign-extended 12-bit immediate to xa and writes xd. -/
  | addi (d : XReg) (a : XReg) (imm : BitVec 12)
  /-- SLTI (R137). Writes 1 to xd when xa is below the immediate as a signed number, else 0. -/
  | slti (d : XReg) (a : XReg) (imm : BitVec 12)
  /-- SLTIU (R137). Writes 1 to xd when xa is below the sign-extended immediate as an unsigned number, else 0. -/
  | sltiu (d : XReg) (a : XReg) (imm : BitVec 12)
  /-- XORI (R137). Bitwise XOR of xa with the sign-extended immediate. -/
  | xori (d : XReg) (a : XReg) (imm : BitVec 12)
  /-- ORI (R137). Bitwise OR of xa with the sign-extended immediate. -/
  | ori (d : XReg) (a : XReg) (imm : BitVec 12)
  /-- ANDI (R137). Bitwise AND of xa with the sign-extended immediate. -/
  | andi (d : XReg) (a : XReg) (imm : BitVec 12)
  /-- SLLI (R137). Shifts xa left by a 6-bit immediate amount. -/
  | slli (d : XReg) (a : XReg) (sh : BitVec 6)
  /-- SRLI (R137). Shifts xa right with zero fill by a 6-bit immediate amount. -/
  | srli (d : XReg) (a : XReg) (sh : BitVec 6)
  /-- SRAI (R137). Shifts xa right with sign fill by a 6-bit immediate amount. -/
  | srai (d : XReg) (a : XReg) (sh : BitVec 6)
  /-- CLZ (R137). Counts the leading zero bits of xa, 64 when xa is 0. -/
  | clz (d : XReg) (a : XReg)
  /-- CTZ (R137). Counts the trailing zero bits of xa, 64 when xa is 0. -/
  | ctz (d : XReg) (a : XReg)
  /-- CPOP (R137). Counts the one bits of xa. -/
  | cpop (d : XReg) (a : XReg)
  /-- ADD (R137). Adds xa and xb modulo 2^64. -/
  | add (d : XReg) (a : XReg) (b : XReg)
  /-- SUB (R137). Subtracts xb from xa modulo 2^64. -/
  | sub (d : XReg) (a : XReg) (b : XReg)
  /-- SLL (R137). Shifts xa left by xb[5:0]. -/
  | sll (d : XReg) (a : XReg) (b : XReg)
  /-- SLT (R137). Writes 1 when xa is below xb signed, else 0. -/
  | slt (d : XReg) (a : XReg) (b : XReg)
  /-- SLTU (R137). Writes 1 when xa is below xb unsigned, else 0. -/
  | sltu (d : XReg) (a : XReg) (b : XReg)
  /-- XOR (R137). Bitwise XOR of xa and xb. -/
  | xor (d : XReg) (a : XReg) (b : XReg)
  /-- SRL (R137). Shifts xa right with zero fill by xb[5:0]. -/
  | srl (d : XReg) (a : XReg) (b : XReg)
  /-- SRA (R137). Shifts xa right with sign fill by xb[5:0]. -/
  | sra (d : XReg) (a : XReg) (b : XReg)
  /-- OR (R137). Bitwise OR of xa and xb. -/
  | or (d : XReg) (a : XReg) (b : XReg)
  /-- AND (R137). Bitwise AND of xa and xb. -/
  | and (d : XReg) (a : XReg) (b : XReg)
  /-- MUL (R137). Writes the low 64 bits of xa times xb. -/
  | mul (d : XReg) (a : XReg) (b : XReg)
  /-- MULH (R137). Writes the high 64 bits of the signed-by-signed product. -/
  | mulh (d : XReg) (a : XReg) (b : XReg)
  /-- MULHSU (R137). Writes the high 64 bits of the signed-by-unsigned product. -/
  | mulhsu (d : XReg) (a : XReg) (b : XReg)
  /-- MULHU (R137). Writes the high 64 bits of the unsigned-by-unsigned product. -/
  | mulhu (d : XReg) (a : XReg) (b : XReg)
  /-- DIV (R138). Signed division rounded toward zero, with the fixed boundary results of R138 and no fault. -/
  | div (d : XReg) (a : XReg) (b : XReg)
  /-- DIVU (R138). Unsigned division, with the fixed boundary results of R138 and no fault. -/
  | divu (d : XReg) (a : XReg) (b : XReg)
  /-- REM (R138). Signed remainder with the sign of xa, with the boundary results of R138. -/
  | rem (d : XReg) (a : XReg) (b : XReg)
  /-- REMU (R138). Unsigned remainder, with the boundary results of R138. -/
  | remu (d : XReg) (a : XReg) (b : XReg)
  /-- MIN (R137). Writes the signed lesser of xa and xb. -/
  | min (d : XReg) (a : XReg) (b : XReg)
  /-- MINU (R137). Writes the unsigned lesser of xa and xb. -/
  | minu (d : XReg) (a : XReg) (b : XReg)
  /-- MAX (R137). Writes the signed greater of xa and xb. -/
  | max (d : XReg) (a : XReg) (b : XReg)
  /-- MAXU (R137). Writes the unsigned greater of xa and xb. -/
  | maxu (d : XReg) (a : XReg) (b : XReg)
  /-- LUI (R137). Writes the sign-extended 20-bit immediate shifted left by 12 into xd. -/
  | lui (d : XReg) (imm : BitVec 20)
  /-- AUIPC (R137). Writes pc plus the shifted 20-bit immediate, a pcc offset, into xd. -/
  | auipc (d : XReg) (imm : BitVec 20)
  /-- BEQ (R139). Branches to pc + imm when xa equals xb, after checking the target under R59. -/
  | beq (a : XReg) (b : XReg) (imm : BitVec 11)
  /-- BNE (R139). Branches when xa differs from xb. -/
  | bne (a : XReg) (b : XReg) (imm : BitVec 11)
  /-- BLT (R139). Branches when xa is below xb signed. -/
  | blt (a : XReg) (b : XReg) (imm : BitVec 11)
  /-- BGE (R139). Branches when xa is at least xb signed. -/
  | bge (a : XReg) (b : XReg) (imm : BitVec 11)
  /-- BLTU (R139). Branches when xa is below xb unsigned. -/
  | bltu (a : XReg) (b : XReg) (imm : BitVec 11)
  /-- BGEU (R139). Branches when xa is at least xb unsigned. -/
  | bgeu (a : XReg) (b : XReg) (imm : BitVec 11)
  /-- JAL (R140). Checks the target pc + imm, writes pc + 4 to xd and jumps. -/
  | jal (d : XReg) (imm : BitVec 19)
  /-- JALR (R140). Jumps to (xa + imm) with bit 0 cleared after the R59 checks, writing pc + 4 to xd. -/
  | jalr (d : XReg) (a : XReg) (imm : BitVec 12)
  /-- CCALL (R132). Enters another compartment through a sealed code and data pair, building the return sentry and sealed return data. -/
  | ccall (a : CReg) (b : CReg)
  /-- LB_OFFSET (R222). Loads a sign-extended byte at an offset in the first row of ca. -/
  | lbOffset (d : XReg) (a : CReg) (imm : BitVec 12)
  /-- LB_INDEX (R222). Loads a sign-extended byte element indexed by xi through ca. -/
  | lbIndex (d : XReg) (a : CReg) (x : XReg)
  /-- LH_OFFSET (R222). Loads a sign-extended halfword at an offset through ca. -/
  | lhOffset (d : XReg) (a : CReg) (imm : BitVec 12)
  /-- LH_INDEX (R222). Loads a sign-extended halfword element indexed by xi. -/
  | lhIndex (d : XReg) (a : CReg) (x : XReg)
  /-- LW_OFFSET (R222). Loads a sign-extended word at an offset through ca. -/
  | lwOffset (d : XReg) (a : CReg) (imm : BitVec 12)
  /-- LW_INDEX (R222). Loads a sign-extended word element indexed by xi. -/
  | lwIndex (d : XReg) (a : CReg) (x : XReg)
  /-- LD_OFFSET (R222). Loads a doubleword at an offset through ca. -/
  | ldOffset (d : XReg) (a : CReg) (imm : BitVec 12)
  /-- LD_INDEX (R222). Loads a doubleword element indexed by xi. -/
  | ldIndex (d : XReg) (a : CReg) (x : XReg)
  /-- LBU_OFFSET (R222). Loads a zero-extended byte at an offset through ca. -/
  | lbuOffset (d : XReg) (a : CReg) (imm : BitVec 12)
  /-- LBU_INDEX (R222). Loads a zero-extended byte element indexed by xi. -/
  | lbuIndex (d : XReg) (a : CReg) (x : XReg)
  /-- LHU_OFFSET (R222). Loads a zero-extended halfword at an offset through ca. -/
  | lhuOffset (d : XReg) (a : CReg) (imm : BitVec 12)
  /-- LHU_INDEX (R222). Loads a zero-extended halfword element indexed by xi. -/
  | lhuIndex (d : XReg) (a : CReg) (x : XReg)
  /-- LWU_OFFSET (R222). Loads a zero-extended word at an offset through ca. -/
  | lwuOffset (d : XReg) (a : CReg) (imm : BitVec 12)
  /-- LWU_INDEX (R222). Loads a zero-extended word element indexed by xi. -/
  | lwuIndex (d : XReg) (a : CReg) (x : XReg)
  /-- CLC_OFFSET (R223). Loads a 64-byte capability image at an offset, tagged only under LDC and the revocation check. -/
  | clcOffset (d : CReg) (a : CReg) (imm : BitVec 12)
  /-- CLC_INDEX (R223). Loads a capability element of a CAP-format tensor indexed by xi. -/
  | clcIndex (d : CReg) (a : CReg) (x : XReg)
  /-- SB_OFFSET (R222). Posts a byte store at an offset through ca, clearing the granule tag. -/
  | sbOffset (s : XReg) (a : CReg) (imm : BitVec 12)
  /-- SB_INDEX (R222). Posts a byte store to the element indexed by xi. -/
  | sbIndex (s : XReg) (a : CReg) (x : XReg)
  /-- SH_OFFSET (R222). Posts a halfword store at an offset through ca. -/
  | shOffset (s : XReg) (a : CReg) (imm : BitVec 12)
  /-- SH_INDEX (R222). Posts a halfword store to the element indexed by xi. -/
  | shIndex (s : XReg) (a : CReg) (x : XReg)
  /-- SW_OFFSET (R222). Posts a word store at an offset through ca. -/
  | swOffset (s : XReg) (a : CReg) (imm : BitVec 12)
  /-- SW_INDEX (R222). Posts a word store to the element indexed by xi. -/
  | swIndex (s : XReg) (a : CReg) (x : XReg)
  /-- SD_OFFSET (R222). Posts a doubleword store at an offset through ca. -/
  | sdOffset (s : XReg) (a : CReg) (imm : BitVec 12)
  /-- SD_INDEX (R222). Posts a doubleword store to the element indexed by xi. -/
  | sdIndex (s : XReg) (a : CReg) (x : XReg)
  /-- CSC_OFFSET (R224). Stores a capability image and its tag at an offset, under STC and STLOCAL rules. -/
  | cscOffset (s : CReg) (a : CReg) (imm : BitVec 12)
  /-- CSC_INDEX (R224). Stores a capability image and its tag to the element indexed by xi. -/
  | cscIndex (s : CReg) (a : CReg) (x : XReg)
  /-- CGETB (R125). Reads the base of ca into xd without checks. -/
  | cgetb (d : XReg) (a : CReg)
  /-- CGETX (R125). Reads the extent of one axis of ca into xd. -/
  | cgetx (d : XReg) (a : CReg) (axis : BitVec 2)
  /-- CGETS (R125). Reads the sign-extended stride of one axis of ca into xd. -/
  | cgets (d : XReg) (a : CReg) (axis : BitVec 2)
  /-- CGETF (R125). Reads bytes 48 to 55 or 56 to 63 of ca into xd. -/
  | cgetf (d : XReg) (a : CReg) (w : BitVec 1)
  /-- CTAG (R125). Writes 1 to xd when ca is tagged and not revoked, else 0. -/
  | ctag (d : XReg) (a : CReg)
  /-- CIDX (R126). Turns a linear element index of ca into a byte address in xd. -/
  | cidx (d : XReg) (a : CReg) (b : XReg)
  /-- CSLICE (R127). Narrows one axis of cd to elements xa to xa + xb - 1. -/
  | cslice (d : CReg) (a : XReg) (b : XReg) (axis : BitVec 2)
  /-- CNARROW (R128). Fixes one axis of cd at index xa and removes it. -/
  | cnarrow (d : CReg) (a : XReg) (axis : BitVec 2)
  /-- CPERM (R129). Drops permissions of cd and may narrow its scope as xa gives. -/
  | cperm (d : CReg) (a : XReg)
  /-- CWRAP (R130). Seals cd with the object type in xa under the wrapping key cb. -/
  | cwrap (d : CReg) (b : CReg) (a : XReg)
  /-- CUNWRAP (R131). Unseals cd under the wrapping key cb. -/
  | cunwrap (d : CReg) (b : CReg)
  /-- CMOV (R125). Copies ca with its image, tag and revoked mark into cd. -/
  | cmov (d : CReg) (a : CReg)
  /-- KADD (R280). Adds x[xb] to a counter cell under the wrap rule, applied resident when near and posted when far. -/
  | kadd (a : CReg) (b : XReg)
  /-- KADD_REL (R280). Drains and then adds to a counter cell as a release at the given scope. -/
  | kaddRel (scope : Scope) (a : CReg) (b : XReg)
  /-- KMAX (R281). Raises a counter cell to x[xb] when that is greater unsigned. -/
  | kmax (a : CReg) (b : XReg)
  /-- KMAX_REL (R281). Drains and then applies KMAX as a release at the given scope. -/
  | kmaxRel (scope : Scope) (a : CReg) (b : XReg)
  /-- KREAD (R282). Reads a counter cell's VALUE into xd, ending the strand when far. -/
  | kread (d : XReg) (a : CReg)
  /-- KWAIT (R283). Continues if the cell satisfies the threshold, otherwise deposits a COUNTER bookmark at the cell's home. -/
  | kwait (a : CReg) (b : XReg)
  /-- KWAIT_ACQ (R283). KWAIT that acquires at the given scope once satisfied. -/
  | kwaitAcq (scope : Scope) (a : CReg) (b : XReg)
  /-- SPAWN (R334). Places a NEW strand record for a task on a named core, waiting resident for the dispatcher's answer. -/
  | spawn (a : XReg) (b : CReg)
  /-- MSEND (R337). Appends 1 to 8 registers to an inbox, returning status 0, 1 or 2 without waiting. -/
  | msend (d : XReg) (b : CReg) (a : XReg) (n : BitVec 3)
  /-- MSEND_W (R337). Appends to an inbox, ending the strand with wait kind SEND on FREE when the inbox is full. -/
  | msendW (b : CReg) (a : XReg) (n : BitVec 3)
  /-- SCALL (R340). Submits a call to the device OS and returns a call slip capability in cd. -/
  | scall (d : CReg) (a : XReg) (b : CReg)
  /-- TBLK (R342). Sets the blocked bit of a task entry on a named core. -/
  | tblk (a : XReg)
  /-- TUBLK (R342). Clears the blocked bit of a task entry on a named core. -/
  | tublk (a : XReg)
  /-- XCOPY (R247). Queues a copy of the source tensor into the destination on the cluster's transfer engine. -/
  | xcopy (m : Bool) (d : CReg) (b : CReg) (k : CReg)
  /-- XGATH (R248). Queues a gather along the top axis through an index tensor. -/
  | xgath (m : Bool) (d : CReg) (b : CReg) (e : CReg) (k : CReg)
  /-- XSCAT (R248). Queues a scatter along the top axis through an index tensor. -/
  | xscat (m : Bool) (d : CReg) (b : CReg) (e : CReg) (k : CReg)
  /-- XFILL (R249). Queues a fill of every destination element with the value in xa. -/
  | xfill (m : Bool) (d : CReg) (a : XReg) (k : CReg)
  /-- XRED (R250). Queues an element-wise add, max or min of the source into the destination. -/
  | xred (m : Bool) (op : RedOp) (d : CReg) (b : CReg) (k : CReg)
  /-- XCRYP (R251). Queues an AES-256-GCM decryption of the source into the destination under a sealed key block. -/
  | xcryp (m : Bool) (d : CReg) (b : CReg) (e : CReg) (k : CReg)
  /-- XBIND (R253). Queues an axis rearrangement on the quadrant's bindery under a dimension-mapping word. -/
  | xbind (m : Bool) (d : CReg) (b : CReg) (a : XReg) (k : CReg)
  /-- XFLUSH (R255). Queues the write-back of every dirty L2 line covering the capability's shape. -/
  | xflush (m : Bool) (d : CReg) (k : CReg)
  /-- XINVAL (R255). Queues the write-back and discard of every L2 line covering the capability's shape. -/
  | xinval (m : Bool) (d : CReg) (k : CReg)
  /-- XRESUME (R244). Requeues a faulted command record from its walk index, or frees and abandons it without INVOKE. -/
  | xresume (b : CReg)
  /-- MJOB (R359). Drains, then submits a matrix job descriptor to an engine and waits resident for its accept or refuse answer. -/
  | mjob (d : XReg) (e : CReg) (k : CReg)
  /-- SBIND (R232). Binds one of v24 to v31 as a stream register over a tensor and pattern word. -/
  | sbind (v : BitVec 3) (b : CReg) (a : XReg)
  /-- SFREE (R236). Unbinds a stream register, discards its strips and zeroes it. -/
  | sfree (v : BitVec 3)
  /-- EXPH (R376). Closes any open phase, adds 1 to the gate cell and arms for the next exchange phase or deposits a bound waiter. -/
  | exph (a : CReg) (b : XReg)
  /-- EXSND (R384). Sends a vector to a barrier-domain member in the current slot after slot checks. -/
  | exsnd (b : VReg) (a : XReg)
  /-- EXRCV (R385). Takes the first-arrived vector from a named member out of the receive buffer. -/
  | exrcv (d : VReg) (a : XReg)
  /-- ACLAIM (R409). Claims an adapter slot, returning a storage capability or a BUSY answer. -/
  | aclaim (d : XReg) (a : CReg) (b : XReg)
  /-- AFREE (R410). Drains, releases an adapter slot claim and returns the sealed slot capability. -/
  | afree (a : CReg)
  /-- WEED (R415). Drains and queues a revocation request for a heap region with a completion counter. -/
  | weed (a : CReg) (b : CReg)
  /-- FMT (R53). Checks and records a format, rounding and saturation prefix for the next instruction. -/
  | fmt (fd : BitVec 5) (fa : BitVec 5) (fb : BitVec 5) (rm : BitVec 3) (sat : BitVec 2)
  /-- WAKE (R151). Makes a cluster's dispatcher rescan its ready queue and a core's task table. -/
  | wake (a : XReg)
  /-- OWNSET (R151). The Curator writes a core's owner register. -/
  | ownset (a : XReg) (b : XReg)
  /-- CSRWR (R142). Writes xa to a CSR field by field under the access codes. -/
  | csrwr (csr : BitVec 12) (a : XReg)
  /-- CSRRD (R142). Reads a CSR into xd. -/
  | csrrd (d : XReg) (csr : BitVec 12)
  /-- TRAP (R149). Ends the strand as a TRAP fault carrying a 12-bit code, pc at the next word. -/
  | trap (code : BitVec 12)
  /-- FENCE (R230). Orders the strand's predecessor accesses before its successor accesses at a scope. -/
  | fence (scope : Scope) (pred : BitVec 3) (succ : BitVec 3)
  /-- IFENCE (R231). Drains, waits for earlier stores and invalidates the tenant's instruction-cache lines over a scope. -/
  | ifence (scope : Scope)
  /-- AMOADD (R227). Atomically adds xb to element 0 of ca at its home, returning the old value. -/
  | amoadd (w : Bool) (d : XReg) (a : CReg) (b : XReg)
  /-- AMOSWAP (R227). Atomically swaps xb with element 0 of ca. -/
  | amoswap (w : Bool) (d : XReg) (a : CReg) (b : XReg)
  /-- AMOXOR (R227). Atomically XORs xb into element 0 of ca. -/
  | amoxor (w : Bool) (d : XReg) (a : CReg) (b : XReg)
  /-- AMOOR (R227). Atomically ORs xb into element 0 of ca. -/
  | amoor (w : Bool) (d : XReg) (a : CReg) (b : XReg)
  /-- AMOAND (R227). Atomically ANDs xb into element 0 of ca. -/
  | amoand (w : Bool) (d : XReg) (a : CReg) (b : XReg)
  /-- AMOCAS (R227). Atomically replaces element 0 with xb when it equals the expected value in rd. -/
  | amocas (w : Bool) (d : XReg) (a : CReg) (b : XReg)
  /-- AMOMIN (R227). Atomically stores the signed minimum of element 0 and xb. -/
  | amomin (w : Bool) (d : XReg) (a : CReg) (b : XReg)
  /-- AMOMAX (R227). Atomically stores the signed maximum of element 0 and xb. -/
  | amomax (w : Bool) (d : XReg) (a : CReg) (b : XReg)
  /-- AMOMINU (R227). Atomically stores the unsigned minimum of element 0 and xb. -/
  | amominu (w : Bool) (d : XReg) (a : CReg) (b : XReg)
  /-- AMOMAXU (R227). Atomically stores the unsigned maximum of element 0 and xb. -/
  | amomaxu (w : Bool) (d : XReg) (a : CReg) (b : XReg)
  /-- VADD (R164). Element-wise integer add modulo 2^w. -/
  | vadd (et : IntEt) (d : VReg) (a : VReg) (b : VReg) (pg : PReg)
  /-- VSUB (R164). Element-wise integer subtract. -/
  | vsub (et : IntEt) (d : VReg) (a : VReg) (b : VReg) (pg : PReg)
  /-- VMUL (R164). Element-wise low product. -/
  | vmul (et : IntEt) (d : VReg) (a : VReg) (b : VReg) (pg : PReg)
  /-- VMULH (R164). Element-wise high product. -/
  | vmulh (et : IntEt) (d : VReg) (a : VReg) (b : VReg) (pg : PReg)
  /-- VMIN (R164). Element-wise integer minimum. -/
  | vmin (et : IntEt) (d : VReg) (a : VReg) (b : VReg) (pg : PReg)
  /-- VMAX (R164). Element-wise integer maximum. -/
  | vmax (et : IntEt) (d : VReg) (a : VReg) (b : VReg) (pg : PReg)
  /-- VAND (R164). Element-wise bitwise AND. -/
  | vand (et : IntEt) (d : VReg) (a : VReg) (b : VReg) (pg : PReg)
  /-- VOR (R164). Element-wise bitwise OR. -/
  | vor (et : IntEt) (d : VReg) (a : VReg) (b : VReg) (pg : PReg)
  /-- VXOR (R164). Element-wise bitwise XOR. -/
  | vxor (et : IntEt) (d : VReg) (a : VReg) (b : VReg) (pg : PReg)
  /-- VSLL (R164). Element-wise shift left by b mod w. -/
  | vsll (et : IntEt) (d : VReg) (a : VReg) (b : VReg) (pg : PReg)
  /-- VSR (R164). Element-wise shift right, sign or zero fill. -/
  | vsr (et : IntEt) (d : VReg) (a : VReg) (b : VReg) (pg : PReg)
  /-- VADC (R169). Element-wise add with carry through a carry predicate. -/
  | vadc (et : IntEt) (d : VReg) (a : VReg) (b : VReg) (pg : PReg)
  /-- VSBC (R169). Element-wise subtract with borrow through a carry predicate. -/
  | vsbc (et : IntEt) (d : VReg) (a : VReg) (b : VReg) (pg : PReg)
  /-- VMULADC (R170). Element-wise multiply-add with carry writing low and high halves to vd and vd + 1. -/
  | vmuladc (et : IntEt) (d : VReg) (a : VReg) (b : VReg) (pg : PReg)
  /-- VCEQ (R164). Element-wise integer equality into a predicate. -/
  | vceq (et : IntEt) (d : PReg) (a : VReg) (b : VReg) (pg : PReg)
  /-- VCLT (R164). Element-wise integer less-than into a predicate. -/
  | vclt (et : IntEt) (d : PReg) (a : VReg) (b : VReg) (pg : PReg)
  /-- VFADD (R171). Element-wise floating add, rounded once. -/
  | vfadd (et : FpEt) (d : VReg) (a : VReg) (b : VReg) (pg : PReg)
  /-- VFSUB (R171). Element-wise floating subtract. -/
  | vfsub (et : FpEt) (d : VReg) (a : VReg) (b : VReg) (pg : PReg)
  /-- VFMUL (R171). Element-wise floating multiply. -/
  | vfmul (et : FpEt) (d : VReg) (a : VReg) (b : VReg) (pg : PReg)
  /-- VFMA (R171). Element-wise fused a*b + d, rounded once. -/
  | vfma (et : FpEt) (d : VReg) (a : VReg) (b : VReg) (pg : PReg)
  /-- VFNMA (R171). Element-wise fused -(a*b) + d, rounded once. -/
  | vfnma (et : FpEt) (d : VReg) (a : VReg) (b : VReg) (pg : PReg)
  /-- VFMIN (R173). Element-wise floating minimum without rounding. -/
  | vfmin (et : FpEt) (d : VReg) (a : VReg) (b : VReg) (pg : PReg)
  /-- VFMAX (R173). Element-wise floating maximum without rounding. -/
  | vfmax (et : FpEt) (d : VReg) (a : VReg) (b : VReg) (pg : PReg)
  /-- VFABS (R173). Clears the sign bit of each element. -/
  | vfabs (et : FpEt) (d : VReg) (a : VReg) (pg : PReg)
  /-- VFNEG (R173). Inverts the sign bit of each element. -/
  | vfneg (et : FpEt) (d : VReg) (a : VReg) (pg : PReg)
  /-- VFCEQ (R171). Element-wise floating equality into a predicate. -/
  | vfceq (et : FpEt) (d : PReg) (a : VReg) (b : VReg) (pg : PReg)
  /-- VFCLT (R171). Element-wise floating less-than into a predicate. -/
  | vfclt (et : FpEt) (d : PReg) (a : VReg) (b : VReg) (pg : PReg)
  /-- VFCLE (R171). Element-wise floating less-or-equal into a predicate. -/
  | vfcle (et : FpEt) (d : PReg) (a : VReg) (b : VReg) (pg : PReg)
  /-- VEXP2 (R174). Element-wise 2^a, correctly rounded. -/
  | vexp2 (et : FpEt) (d : VReg) (a : VReg) (pg : PReg)
  /-- VRCP (R174). Element-wise reciprocal, correctly rounded. -/
  | vrcp (et : FpEt) (d : VReg) (a : VReg) (pg : PReg)
  /-- VRSQ (R174). Element-wise reciprocal square root, correctly rounded. -/
  | vrsq (et : FpEt) (d : VReg) (a : VReg) (pg : PReg)
  /-- VLOG2 (R174). Element-wise base-2 logarithm, correctly rounded. -/
  | vlog2 (et : FpEt) (d : VReg) (a : VReg) (pg : PReg)
  /-- VSEL (R165). Selects each element from va or vb by a predicate. -/
  | vsel (et : IntEt) (d : VReg) (a : VReg) (b : VReg) (pg : PReg)
  /-- VPERM (R166). Gathers elements of va across lanes by indices in vb. -/
  | vperm (et : IntEt) (d : VReg) (a : VReg) (b : VReg) (pg : PReg)
  /-- VBCAST (R167). Writes the low w bits of an x register into every active element. -/
  | vbcast (et : IntEt) (d : VReg) (a : XReg) (pg : PReg)
  /-- VCLE (R164). Element-wise integer less-or-equal into a predicate. -/
  | vcle (et : IntEt) (d : PReg) (a : VReg) (b : VReg) (pg : PReg)
  /-- VCNE (R164). Element-wise integer inequality into a predicate. -/
  | vcne (et : IntEt) (d : PReg) (a : VReg) (b : VReg) (pg : PReg)
  /-- VRADD (R176). Reduces active elements by exact integer sum in the fixed tree. -/
  | vradd (et : IntEt) (d : VReg) (a : VReg) (pg : PReg)
  /-- VRMIN (R176). Reduces active elements by integer minimum. -/
  | vrmin (et : IntEt) (d : VReg) (a : VReg) (pg : PReg)
  /-- VRMAX (R176). Reduces active elements by integer maximum. -/
  | vrmax (et : IntEt) (d : VReg) (a : VReg) (pg : PReg)
  /-- VCVT_INT (R178). Converts integer elements to a floating-point format. -/
  | vcvtInt (et : IntEt) (d : VReg) (a : VReg) (pg : PReg)
  /-- VABS (R164). Element-wise integer absolute value. -/
  | vabs (et : IntEt) (d : VReg) (a : VReg) (pg : PReg)
  /-- VEXT (R168). Copies one element of va, selected by an x register, into an x register. -/
  | vext (et : IntEt) (d : XReg) (a : VReg) (b : XReg)
  /-- VCVT_FP (R179). Converts floating-point elements to another floating or integer format. -/
  | vcvtFp (et : FpEt) (d : VReg) (a : VReg) (pg : PReg)
  /-- VQUANT (R180). Quantises floating-point elements into packed codes under one scale. -/
  | vquant (et : FpEt) (d : VReg) (a : VReg) (b : VReg) (pg : PReg)
  /-- VDEQ (R181). Dequantises packed codes under their scales into floating-point elements. -/
  | vdeq (et : FpEt) (d : VReg) (a : VReg) (b : VReg) (pg : PReg)
  /-- VFRSUM (R177). Reduces active elements by floating sum in the fixed tree. -/
  | vfrsum (et : FpEt) (d : VReg) (a : VReg) (pg : PReg)
  /-- VFRMAX (R177). Reduces active elements by floating maximum. -/
  | vfrmax (et : FpEt) (d : VReg) (a : VReg) (pg : PReg)
  /-- VFRMIN (R177). Reduces active elements by floating minimum. -/
  | vfrmin (et : FpEt) (d : VReg) (a : VReg) (pg : PReg)
  /-- VLD (R225). Loads consecutive elements from a linear index into a vector register. -/
  | vld (ew : Ew) (v : VReg) (a : CReg) (x : XReg) (pg : PReg)
  /-- VLDS_A1 (R225). Loads elements stepping along axis 1. -/
  | vldsA1 (ew : Ew) (v : VReg) (a : CReg) (x : XReg) (pg : PReg)
  /-- VLDS_A2 (R225). Loads elements stepping along axis 2. -/
  | vldsA2 (ew : Ew) (v : VReg) (a : CReg) (x : XReg) (pg : PReg)
  /-- VLDS_A3 (R225). Loads elements stepping along axis 3. -/
  | vldsA3 (ew : Ew) (v : VReg) (a : CReg) (x : XReg) (pg : PReg)
  /-- VLDG (R225). Gathers elements at lane indices held in a vector register. -/
  | vldg (ew : Ew) (v : VReg) (a : CReg) (x : VReg) (pg : PReg)
  /-- VST (R225). Stores consecutive elements from a linear index. -/
  | vst (ew : Ew) (v : VReg) (a : CReg) (x : XReg) (pg : PReg)
  /-- VSTS_A1 (R225). Stores elements stepping along axis 1. -/
  | vstsA1 (ew : Ew) (v : VReg) (a : CReg) (x : XReg) (pg : PReg)
  /-- VSTS_A2 (R225). Stores elements stepping along axis 2. -/
  | vstsA2 (ew : Ew) (v : VReg) (a : CReg) (x : XReg) (pg : PReg)
  /-- VSTS_A3 (R225). Stores elements stepping along axis 3. -/
  | vstsA3 (ew : Ew) (v : VReg) (a : CReg) (x : XReg) (pg : PReg)
  /-- VSTG (R225). Scatters elements to lane indices held in a vector register. -/
  | vstg (ew : Ew) (v : VReg) (a : CReg) (x : VReg) (pg : PReg)
  /-- PAND (R184). pd := pa and pb. -/
  | pand (d : PReg) (a : PReg) (b : PReg)
  /-- POR (R184). pd := pa or pb. -/
  | por (d : PReg) (a : PReg) (b : PReg)
  /-- PXOR (R184). pd := pa xor pb. -/
  | pxor (d : PReg) (a : PReg) (b : PReg)
  /-- PANDN (R184). pd := pa and not pb. -/
  | pandn (d : PReg) (a : PReg) (b : PReg)
  /-- PNOT (R184). pd := not pa. -/
  | pnot (d : PReg) (a : PReg)
  /-- PFROMX (R184). Copies an x register into a predicate. -/
  | pfromx (d : PReg) (a : XReg)
  /-- PTOX (R184). Copies a predicate into an x register. -/
  | ptox (d : XReg) (a : PReg)
  /-- PCNT (R184). Counts the one bits of a predicate into an x register. -/
  | pcnt (d : XReg) (a : PReg)
  /-- ILLEGAL_INSN_WORD (R39). A fetched word that decodes to no instruction, or breaks a fixed field, reserved code or register field, raises ILLEGAL_INSN and changes nothing. -/
  | illegalInsnWord (w : Insn)
  /-- POSTED_STORE_ACCEPT (R217). A posted store or posted counter operation is applied or refused at its home and leaves the posted-store queue. -/
  | postedStoreAccept (core index : Nat)
  /-- CORE_DRAIN_COMPLETE (R332). Every posted operation of an ending strand has been accepted and the core finishes saving and becomes idle. -/
  | coreDrainComplete (core : Nat)
  /-- FAR_ACCESS_COMPLETE (R216). A far access returns its data into the bookmark, which is released unbound, or turns it into a fault bookmark. -/
  | farAccessComplete (id : Nat)
  /-- TLB_WALK_COMPLETE (R217). A page-table walk fills the cluster TLB and releases XLATE bookmarks, or faults them. -/
  | tlbWalkComplete (id : Nat)
  /-- FETCH_LINE_FILL (R63). An instruction-cache line is written and its FETCH bookmark is released bound to its core. -/
  | fetchLineFill (core line : Nat)
  /-- STREAM_STRIP_ARRIVAL (R234). A stream strip arrives in its buffer and releases a STREAM bookmark bound to its core. -/
  | streamStripArrival (core reg : Nat)
  /-- PAGE_REQUEST_GROUP_RESPONSE (R211). A PRI response relaunches PAGE bookmarks and parked commands on success, or raises PRI_DENIED. -/
  | pageRequestGroupResponse (group : Nat) (resp : PageResponse)
  /-- ATS_INVALIDATE_REQUEST (R210). The host invalidates translation-cache entries, answered once every access using them has completed. -/
  | atsInvalidateRequest (fn page count : Nat) (perm : BitVec 2)
  /-- ENGINE_TURN (R246). A transfer engine or bindery serves one tenant turn of up to 4,096 bytes of command elements. -/
  | engineTurn (engine : Nat)
  /-- COUNTER_OPERATION_APPLY (R268). A counter home applies one far, engine, job, remote or watch operation under the wrap rule. -/
  | counterOperationApply (id : Nat)
  /-- SPILLED_WAITER_READ_COMPLETE (R274). The home finishes reading a cell's spilled waiters and releases the satisfied ones in one order. -/
  | spilledWaiterReadComplete (cell : Nat)
  /-- HOST_CELL_POLL (R286). The host-interface home issues a periodic Memory Read of a host-homed cell with a pending waiter. -/
  | hostCellPoll (cell : Nat)
  /-- HOST_READ_COMPLETION (R285). A read of a host-homed cell returns and the home tests its waiters against the value. -/
  | hostReadCompletion (id : Nat) (status : HostStatus)
  /-- HOST_ATOMIC_COMPLETION (R287). An AtomicOp completion returns, or on Unsupported Request the home switches to the cell's fallback. -/
  | hostAtomicCompletion (id : Nat) (status : HostStatus)
  /-- DISPATCH_CHOOSE (R325). An idle core chooses a ready entry or inbox head record by deficit, priority and age. -/
  | dispatchChoose (core : Nat)
  /-- DISPATCH_LOAD_COMPLETE (R329). The bookmark's header and units have arrived and the strand's first instruction issues. -/
  | dispatchLoadComplete (core : Nat)
  /-- PREEMPT_REQUEST (R429). The dispatcher raises a tenant-turn or priority-turn pre-emption request when its condition holds. -/
  | preemptRequest (core : Nat) (service : Bool)
  /-- PREEMPTION (R430). At the next instruction boundary the core drains and writes a PREEMPT bookmark. -/
  | preemption (core : Nat)
  /-- LAUNCH_DOORBELL (R448). A write of LQTAIL starts reading launch slots, or is discarded with QERR set. -/
  | launchDoorbell (fn : OfTlp Nat) (tail : BitVec 16)
  /-- LAUNCH_SLOT (R321). A launch descriptor is checked and either writes one NEW record per group or a refusal STATUS. -/
  | launchSlot (fn : Nat)
  /-- INGEST_FLIT (R461). An INGEST flit's units are received and records are placed in the ring under R346. -/
  | ingestFlit (port : Nat) (hdr : FlitHeader) (start : Bool) (u0 u1 u2 : Vec)
  /-- INGEST_HELD_RECORD (R347). In HOLD mode a waiting record is placed once FREE has risen far enough. -/
  | ingestHeldRecord (port : Nat)
  /-- EXCHANGE_ARMED (R377). A core finishes loading, filling phase lines and draining, and reports READY or a fault to the gate's home. -/
  | exchangeArmed (core : Nat)
  /-- PHASE_START (R377). At CYCLE = S every armed core of the domain begins the exchange phase. -/
  | phaseStart (gate : Nat)
  /-- PHASE_TIMEOUT (R380). The phase closes at the end of the c-cycle with XC = 4,095. -/
  | phaseTimeout (core : Nat)
  /-- EXCHANGE_VECTOR_ARRIVAL (R383). A vector sent in slot u enters the receiver's buffer at slot u + 6, or sets overrun when full. -/
  | exchangeVectorArrival (id : Nat)
  /-- KSTEP_BOUNDARY (R369). At a k-step boundary the matrix engine chooses the next job to run. -/
  | kstepBoundary (engine : Nat)
  /-- SERVICE_CALL (R439). The leader service pair runs a slice of a queued call or escalated fault chosen by deficit. -/
  | serviceCall (us : Nat)
  /-- RESET_GENERATION_ADVANCE (R434). Once no transaction carries the next generation, GEN advances and the rest of the reset sequence runs. -/
  | resetGenerationAdvance (tenant : Nat)
  /-- MEDIATED_COMPLETION (R449). An incoming TYPE 0x81 message completes a mediated counter operation. -/
  | mediatedCompletion (fn : Nat)
  /-- FAULT_REPORT_ANSWER (R449). An incoming TYPE 0x82 message applies BMRESUME or BMDROP to a reported fault. -/
  | faultReportAnswer (fn : Nat)
  /-- PARTITION_RESTORE (R191). The service pair restores an absent partition and held accesses then complete. -/
  | partitionRestore (tenant core : Nat)
  /-- PARTITION_SWAP_OUT (R191). The service pair swaps a displaced tenant's partition image to its heap and marks it absent. -/
  | partitionSwapOut (core part : Nat)
  /-- PARTITION_MODE_CHANGE (R188). The service pair changes a core's partition mode while it holds no partition. -/
  | partitionModeChange (core : Nat) (mode : BitVec 2)
  /-- MAPPING_SHOOTDOWN (R213). A mapping change takes effect once every TLB entry is removed and every access through it has completed. -/
  | mappingShootdown (tenant va pteAddr : Nat) (pte : Word)
  /-- VAULT_BLOCK_ASSIGN (R194). The service pair zeroes a vault block and gives it to a new holder. -/
  | vaultBlockAssign (vault block : Nat) (tenant : Option Nat)
  /-- PROGRAM_LOAD (R75). The loader checks and tags capability images and writes task entries, or refuses the whole load. -/
  | programLoad (req : LoadRequest)
  /-- ADAPTER_SLOT_ALLOT (R408). The service pair allots an adapter slot and issues its sealed slot capability. -/
  | adapterSlotAllot (slot tenant dbase dsize dest : Nat)
  /-- NODE_SPLIT (R397). The service pair splits a free buddy-tree node into two free children. -/
  | nodeSplit (node : Nat)
  /-- NODE_MERGE (R397). The service pair merges a split node whose children are free. -/
  | nodeMerge (node : Nat)
  /-- NODE_ALLOT (R397). The service pair allots a free node to a tenant. -/
  | nodeAllot (node tenant : Nat)
  /-- NODE_SHARE (R397). The service pair adds a tenant as a sharer of an allotted node. -/
  | nodeShare (node tenant : Nat)
  /-- NODE_RELEASE (R397). The service pair removes a tenant from an allotted node, freeing it at zero sharers. -/
  | nodeRelease (node tenant : Nat)
  /-- NODE_LOCK (R397). The service pair locks an allotted node with one sharer. -/
  | nodeLock (node : Nat)
  /-- NODE_UNLOCK (R397). The service pair unlocks a node once the Curator has scrubbed every core. -/
  | nodeUnlock (node : Nat)
  /-- FUNCTION_LEVEL_RESET (R432). A Function Level Reset of a virtual or physical function resets the affected tenants. -/
  | functionLevelReset (fn : Nat)
  /-- VF_ENABLE_SET (R447). Setting VF Enable builds each virtual function's tenant entry and raises its READY. -/
  | vfEnableSet (vfs : List TenantInit)
  /-- SERVICE_TENANT_RESET (R432). The service pair resets a tenant under R428 or R387. -/
  | serviceTenantReset (tenant : Nat)
  /-- BRING_UP (R446). After PERST# deassertion the package verifies firmware, writes the remap table, trains GDDR7 and raises the PF's READY. -/
  | bringUp (inp : BringUpInput)
  /-- APERTURE_MEMORY_READ (R444). A host Memory Read of a BAR 2 or BAR 4 offset reads the tenant's bytes or a cell's VALUE. -/
  | apertureMemoryRead (fn bar off len : Nat) (ide : IdeTag)
  /-- APERTURE_MEMORY_WRITE (R444). A host Memory Write into BAR 2 writes the tenant's bytes and clears their tags. -/
  | apertureMemoryWrite (fn off : Nat) (data : List Byte) (ide : IdeTag)
  /-- APERTURE_ATOMICOP (R444). A host AtomicOp on BAR 2 acts as a data atomic of the tenant. -/
  | apertureAtomicop (fn off : Nat) (op : HostAtomic) (wide : Bool) (a b : Word) (ide : IdeTag)
  /-- COUNTER_APERTURE_FETCHADD (R444). A 64-bit FetchAdd on BAR 4 is a remote add under the wrap rule, returning the old VALUE. -/
  | counterApertureFetchadd (fn off : Nat) (amount : Word) (ide : IdeTag)
  /-- MAILBOX_DOORBELL (R449). A write of MITAIL makes the part read incoming mailbox messages in ring order. -/
  | mailboxDoorbell (fn : OfTlp Nat) (tail : BitVec 16)
  /-- MOHEAD_WRITE (R449). The host advances MOHEAD, letting held outgoing messages be written. -/
  | moheadWrite (fn : OfTlp Nat) (head : BitVec 16)
  /-- QERR_CLEAR (R445). A write of 1 to QERR clears it. -/
  | qerrClear (fn : OfTlp Nat)
  /-- BAR0_REGISTER_WRITE (R445). A write to any other BAR 0 register or feature field takes effect or is discarded under its access code. -/
  | bar0RegisterWrite (fn : OfTlp Nat) (off size : Nat) (value : Word)
  /-- PORT_MODE_WRITE (R469). A write of an Odpa port's MODE, TENANT or RINGVA takes the link down and retrains it in the mode held. -/
  | portModeWrite (port : OfTlp Nat) (off : Nat) (value : Word)
  /-- BINDERR_CLEAR (R469). A write of 1 clears a port's BINDERR bit. -/
  | binderrClear (port : OfTlp Nat)
  /-- PLIMIT_WRITE (R470). A write of PLIMIT sets the power limit from the next 1 ms average, or is discarded out of range. -/
  | plimitWrite (value : OfTlp (BitVec 16))
  /-- LOCK_INTERFACE_REQUEST (R450). The Curator locks a TDI's cores and nodes when R451 holds, or answers INVALID_REQUEST. -/
  | lockInterfaceRequest (fn : Nat)
  /-- START_INTERFACE_REQUEST (R450). A locked TDI moves to RUN and doorbells are admitted again. -/
  | startInterfaceRequest (fn : Nat)
  /-- STOP_INTERFACE_REQUEST (R450). The Curator carries out STOP as a Function Level Reset and unlocks the TDI. -/
  | stopInterfaceRequest (fn : Nat)
  /-- QUIESCE (R452). A TDI in RUN moves to QUIESCED and its traffic is held. -/
  | quiesce (fn : Nat)
  /-- UNQUIESCE (R450). A quiesced TDI returns to RUN and held traffic proceeds in order. -/
  | unquiesce (fn : Nat)
  /-- TDI_CONFIG_WRITE (R450). A write to a BAR, Memory Space Enable or IDE registers of a locked function moves its TDI to ERROR. -/
  | tdiConfigWrite (fn : Nat)
  /-- IDE_TLP_FAILURE (R455). A received TLP failing MAC or PCRC is discarded and its stream becomes Insecure. -/
  | ideTlpFailure (fn stream : Nat)
  /-- IDE_KEY_PROGRAM (R453). IDE_KM programs a selective stream's key set over a secured SPDM session. -/
  | ideKeyProgram (fn stream set : Nat)
  /-- K_SET_GO (R453). A selective stream switches to its other key set. -/
  | kSetGo (fn stream : Nat)
  /-- SPDM_REQUEST (R463). The Curator answers an SPDM request with Ed448-signed measurements. -/
  | spdmRequest (req : SpdmReq)
  /-- POWER_STATE_D3HOT (R466). A function entering D3hot is held as in QUIESCED. -/
  | powerStateD3hot (fn : Nat)
  /-- POWER_STATE_D0 (R466). A function returning to D0 resumes its held traffic in order. -/
  | powerStateD0 (fn : Nat)
  /-- FIRMWARE_ACTIVATION (R464). A verified staged firmware image is activated, restarting the Curators and service pairs. -/
  | firmwareActivation (image : FirmwareImage)
  /-- WRITE_FLIT (R459). An incoming WRITE flit is applied into a KIND 1 export entry or refused and logged. -/
  | writeFlit (port : Nat) (hdr : FlitHeader) (addr : BitVec 46) (data : List Byte)
  /-- CADD_FLIT (R459). An incoming CADD flit is applied at the local home and answered with CANS. -/
  | caddFlit (port : Nat) (hdr : FlitHeader) (addr : BitVec 46) (amount : Word)
  /-- CMAX_FLIT (R459). An incoming CMAX flit is applied at the local home and answered with CANS. -/
  | cmaxFlit (port : Nat) (hdr : FlitHeader) (addr : BitVec 46) (candidate : Word)
  /-- CREAD_FLIT (R459). An incoming CREAD flit reads a local cell and is answered with CANS. -/
  | creadFlit (port : Nat) (hdr : FlitHeader) (addr : BitVec 46)
  /-- CWATCH_FLIT (R288). An incoming CWATCH flit registers a watch at the local home that counts under the wrap rule. -/
  | cwatchFlit (port : Nat) (hdr : FlitHeader) (addr : BitVec 46) (threshold : Word)
  /-- CANS_FLIT (R288). An answer flit reports application, refusal or a satisfied watch, releasing local waiters. -/
  | cansFlit (port : Nat) (hdr : FlitHeader) (op : Nat) (answer : CansAnswer)
  /-- ABORT_FLIT (R438). An incoming abort record removes the function's watches, faults its waiters and closes its export. -/
  | abortFlit (port : Nat) (hdr : FlitHeader) (oldGen newGen : BitVec 8) (func : BitVec 10)
  /-- LINKCTL_FLIT (R457). A link control flit, such as a NAK, makes the sender resend from the named flit. -/
  | linkctlFlit (port : Nat) (hdr : FlitHeader) (nak : BitVec 12)
  /-- IDLE_FLIT (R456). An IDLE flit carries acknowledgements and credits only. -/
  | idleFlit (port : Nat) (hdr : FlitHeader)
  /-- FLIT_RECEIVE_ERROR (R457). A flit failing CRC or out of sequence is discarded with every later one and a NAK is sent. -/
  | flitReceiveError (port : Nat) (kind : FlitError)
  /-- LINK_UP (R458). An Odpa link trains and derives its keys through the Curators' X448 exchange. -/
  | linkUp (port : Nat) (peerEnc : Bool)
  /-- LINK_DOWN (R458). An Odpa link goes down, writing a link fault record and faulting waiters and posted operations. -/
  | linkDown (port : Nat) (cause : BitVec 3)
  /-- LINK_REKEY (R458). After 2^40 flits the link key is replaced at a LINKCTL boundary. -/
  | linkRekey (port : Nat)
  /-- POWER_SAMPLE (R465). Package power is sampled every 10 µs against PLIMIT and temperature limits. -/
  | powerSample (watts temp0 temp1 : Nat)
  /-- PRI_ENABLE_WRITE (R211). Host software enables PRI for a function again, ending the PRI_DENIED answers that a Response Failure left. -/
  | priEnableWrite (fn : Nat)
  /-- ATOMICOP_REQUESTER_ENABLE_WRITE (R287). Host software writes a function's AtomicOp Requester Enable again, clearing the record that sends every host-homed counter operation to its FB fallback. -/
  | atomicopRequesterEnableWrite (fn : Nat)
  /-- CRET (R133). Returns through the sentry in c14, restoring pcc, pc, COMP and c15 and nulling c8 to c14. -/
  | cret
  /-- YIELD (R338). Ends the strand with a YIELD bookmark placed unbound at the back of its cluster's ready queue. -/
  | yield
  /-- FIN (R339). Drains posted stores, frees bound streams and ends the strand without a bookmark. -/
  | fin
  /-- BRK (R150). Ends the strand as a BREAK fault with pc at the BRK. -/
  | brk
  /-- SRET (R151). Returns the service pair from its exception handler; PRIV for a strand. -/
  | sret
  /-- SHALT (R151). Stops the service pair's fetch until an interrupt or chime timer event. -/
  | shalt
  /-- ENGINE_DEFICIT_RAISE (R246). Every 4,096 m-cycles each transfer engine and bindery raises the tenant deficits. -/
  | engineDeficitRaise
  /-- DISPATCH_DEFICIT_RAISE (R326). Every 4,096 c-cycles each partition deficit is raised by 16 times its dispatcher weight. -/
  | dispatchDeficitRaise
  /-- MATRIX_DEFICIT_RAISE (R371). Every 4,096 m-cycles each matrix engine raises tenant deficits by 16 times MXW. -/
  | matrixDeficitRaise
  /-- SWEEP_MARK (R416). A sweep starts and marks the revocation bitmap for each covered page. -/
  | sweepMark
  /-- SWEEP_CORES (R416). The sweep clears tags into the region in running registers at instruction boundaries. -/
  | sweepCores
  /-- SWEEP_RECORDS (R416). The sweep clears tags in bookmarks, records and task entries, stopping commands and jobs and faulting waiters. -/
  | sweepRecords
  /-- SWEEP_MEMORY (R416). The sweep clears tags of granules into the region in partitions, vault blocks, L2 and the tag store. -/
  | sweepMemory
  /-- SWEEP_CLOSE (R416). The sweep clears bitmap bits and makes each covered request's completion add in acceptance order. -/
  | sweepClose
  /-- LAUNCH_CALL (R321). Device OS call 1 checks a program launch descriptor and writes its records. -/
  | launchCall
  /-- BMREAD (R426). Device OS call 2 writes a pending fault bookmark's pc, STATUS, LIVE and x registers to a block. -/
  | bmread
  /-- BMRESUME (R426). Device OS call 3 applies a block to a pending fault bookmark and relaunches it, or requeues a faulted command. -/
  | bmresume
  /-- BMDROP (R426). Device OS call 4 frees a pending fault bookmark or faulted command record and its handle. -/
  | bmdrop
  /-- SERVICE_DEFICIT_RAISE (R404). Every 100 µs the leader raises each queued tenant's service deficit by CALLW µs. -/
  | serviceDeficitRaise
  /-- VF_ENABLE_CLEAR (R432). Clearing VF Enable resets every virtual function. -/
  | vfEnableClear
  /-- CHIME (R29). The leader service pair sends its heartbeat every 100 µs. -/
  | chime
  /-- LEADER_TAKEOVER (R440). Three missed chimes make the follower declare the leader lost and take over. -/
  | leaderTakeover
  /-- CLOCK_STEP_CHANGE (R465). Both dies change clock step together at one c-cycle boundary and the change is logged. -/
  | clockStepChange
  /-- INSTRUCTION_FETCH (R63). The fetch of the next word through pcc either misses the instruction cache and ends the strand with wait kind FETCH, or faults with CAP_BOUNDS past the end, CAP_REVOKED after a cleared pcc, or EXCH_PHASE outside the phase lines. -/
  | instructionFetch
  /-- PACKAGE_RESET (R432). A conventional reset (PERST# asserted) or a hot reset of the PCI Express link resets the whole package. -/
  | packageReset
  deriving DecidableEq, Repr

end Sys2Proof
end

