-- ==== Sys2Proof/WellFormed.lean ====
section
/-! DEFINITION. Which instructions are well formed: the operand combinations that the encoding tables exclude (02 R39,
R45, R49) and, for events, operands that name a unit of the part. -/

namespace Sys2Proof

/-- A CSR number an instruction may carry: listed in 04 Table 11, or a service register (R141). -/
def csrListed (n : BitVec 12) : Bool :=
  n == 0x000#12 || n == 0x001#12 || n == 0x002#12 || n == 0x003#12 || n == 0xC00#12 || n == 0xC01#12 ||
    n == 0xC02#12 || n == 0xC03#12 || n.extractLsb' 8 4 == 0x8#4

/-- The 8-bit formats are excluded from this OP-FP instruction (R49). -/
def wideFp : FpEt → Bool
  | .bf16 => true | .f16 => true | .f32 => true | .e4m3 => false | .e5m2 => false

/-- An MSEND or MSEND.W names registers xa to xa + n - 1, none above x31; n is the field plus 1 (R45, R333). -/
def msendFits (a : XReg) (n : BitVec 3) : Bool := a.toNat + n.toNat ≤ 31

/-- A logical core of the part (R20). -/
def coreOk (k : Nat) : Bool := k < Config.cores
/-- A function of the part (R443). -/
def fnOk (f : Nat) : Bool := f < Config.functions
/-- An Odpa port of the part (R27). -/
def portOk (p : Nat) : Bool := p < Config.ports
/-- A buddy-tree node (R396). -/
def nodeOk (n : Nat) : Bool := 1 ≤ n && n < 2048

/-- Well-formed instructions and events. -/
def Instr.wf : Instr → Bool
  | .csrrd _ csr => csrListed csr
  | .csrwr csr _ => csrListed csr
  | .msend _ _ a n => msendFits a n
  | .msendW _ a n => msendFits a n
  | .vfadd et _ _ _ _ => wideFp et
  | .vfsub et _ _ _ _ => wideFp et
  | .vfmul et _ _ _ _ => wideFp et
  | .vfma et _ _ _ _ => wideFp et
  | .vfnma et _ _ _ _ => wideFp et
  | .vexp2 et _ _ _ => wideFp et
  | .vrcp et _ _ _ => wideFp et
  | .vrsq et _ _ _ => wideFp et
  | .vlog2 et _ _ _ => wideFp et
  | .vquant et _ _ _ _ => wideFp et
  | .vfrsum et _ _ _ => wideFp et
  | .vfrmax et _ _ _ => wideFp et
  | .vfrmin et _ _ _ => wideFp et
  | .postedStoreAccept k _ => coreOk k
  | .coreDrainComplete k => coreOk k
  | .fetchLineFill k _ => coreOk k
  | .streamStripArrival k r => coreOk k && (24 ≤ r && r < 32)
  | .engineTurn e => e < 136
  | .dispatchChoose k => coreOk k
  | .dispatchLoadComplete k => coreOk k
  | .preemptRequest k _ => coreOk k
  | .preemption k => coreOk k
  | .launchDoorbell f _ => fnOk f.val
  | .launchSlot f => fnOk f
  | .ingestFlit p _ _ _ _ _ => portOk p
  | .ingestHeldRecord p => portOk p
  | .exchangeArmed k => coreOk k
  | .phaseTimeout k => coreOk k
  | .kstepBoundary e => e < 128
  | .partitionSwapOut k i => coreOk k && i < 4
  | .partitionRestore t k => fnOk t && coreOk k
  | .partitionModeChange k m => coreOk k && m != 3
  | .vaultBlockAssign v b t => v < 128 && b < 24 && t.all fnOk
  | .adapterSlotAllot n t _ _ _ => n < 8192 && fnOk t
  | .nodeSplit n => nodeOk n
  | .nodeMerge n => nodeOk n
  | .nodeAllot n t => nodeOk n && fnOk t
  | .nodeShare n t => nodeOk n && fnOk t
  | .nodeRelease n t => nodeOk n && fnOk t
  | .nodeLock n => nodeOk n
  | .nodeUnlock n => nodeOk n
  | .functionLevelReset f => fnOk f
  | .serviceTenantReset t => fnOk t
  | .resetGenerationAdvance t => fnOk t
  | .serviceCall us => us ≤ 50
  | .apertureMemoryRead f bar _ _ _ => fnOk f && (bar == 0 || bar == 2 || bar == 4)
  | .apertureMemoryWrite f _ _ _ => fnOk f
  | .apertureAtomicop f _ _ _ _ _ _ => fnOk f
  | .counterApertureFetchadd f _ _ _ => fnOk f
  | .mailboxDoorbell f _ => fnOk f.val
  | .mediatedCompletion f => fnOk f
  | .faultReportAnswer f => fnOk f
  | .moheadWrite f _ => fnOk f.val
  | .qerrClear f => fnOk f.val
  | .bar0RegisterWrite f _ size _ => fnOk f.val && (size == 4 || size == 8)
  | .portModeWrite p off _ => portOk p.val && (off == 0 || off == 8)
  | .binderrClear p => portOk p.val
  | .lockInterfaceRequest f => fnOk f
  | .startInterfaceRequest f => fnOk f
  | .stopInterfaceRequest f => fnOk f
  | .quiesce f => fnOk f
  | .unquiesce f => fnOk f
  | .tdiConfigWrite f => fnOk f
  | .ideTlpFailure f st => fnOk f && st < 2
  | .ideKeyProgram f st set => fnOk f && st < 2 && set < 2
  | .kSetGo f st => fnOk f && st < 2
  | .powerStateD3hot f => fnOk f
  | .powerStateD0 f => fnOk f
  | .writeFlit p _ _ _ => portOk p
  | .caddFlit p _ _ _ => portOk p
  | .cmaxFlit p _ _ _ => portOk p
  | .creadFlit p _ _ => portOk p
  | .cwatchFlit p _ _ _ => portOk p
  | .cansFlit p _ _ _ => portOk p
  | .abortFlit p _ _ _ _ => portOk p
  | .linkctlFlit p _ _ => portOk p
  | .idleFlit p _ => portOk p
  | .flitReceiveError p _ => portOk p
  | .linkUp p _ => portOk p
  | .linkDown p _ => portOk p
  | .linkRekey p => portOk p
  | .priEnableWrite f => fnOk f
  | .atomicopRequesterEnableWrite f => fnOk f
  | .atsInvalidateRequest f _ _ _ => fnOk f
  | _ => true

end Sys2Proof
end

