-- ==== Sys2Proof/Decode.lean ====
section
/-! DEFINITION. Decoding and encoding of instruction words (02 R35 to R50): total on any word, rejecting by name. -/

namespace Sys2Proof

/-- Why a word decodes to no instruction (R39); each raises ILLEGAL_INSN. -/
inductive DecodeError where
  /-- Bits 1:0 are not 0b11. -/
  | lowBits
  /-- The major opcode is reserved in 02 Table 2. -/
  | reservedMajor
  /-- The selection is not listed, or a fixed or register field of it is broken. -/
  | unlisted
  /-- A fixed field is non-zero. -/
  | fixedField
  /-- A register field breaks its rule (R37, R45). -/
  | registerField
  deriving DecidableEq, Repr

/-! ### The fields of a word (02 Table 1) -/

/-- Bits 6:0, the opcode byte. -/
def fOp (w : Insn) : BitVec 7 := w.extractLsb' 0 7
/-- Bits 11:7. -/
def fRd (w : Insn) : BitVec 5 := w.extractLsb' 7 5
/-- Bits 14:12. -/
def fF3 (w : Insn) : BitVec 3 := w.extractLsb' 12 3
/-- Bits 19:15. -/
def fRs1 (w : Insn) : BitVec 5 := w.extractLsb' 15 5
/-- Bits 24:20. -/
def fRs2 (w : Insn) : BitVec 5 := w.extractLsb' 20 5
/-- Bits 31:25. -/
def fF7 (w : Insn) : BitVec 7 := w.extractLsb' 25 7
/-- Bits 31:20, the I immediate. -/
def fI (w : Insn) : BitVec 12 := fF7 w ++ fRs2 w
/-- Bits 31:12, the U immediate. -/
def fU (w : Insn) : BitVec 20 := fF7 w ++ fRs2 w ++ fRs1 w ++ fF3 w
/-- The CS immediate: bits 31:25 and 11:7. -/
def fS (w : Insn) : BitVec 12 := fF7 w ++ fRd w
/-- Bits 31:26. -/
def fHi6 (w : Insn) : BitVec 6 := (fF7 w).extractLsb' 1 6
/-- Bits 25:20, a shift amount. -/
def fSh (w : Insn) : BitVec 6 := (fF7 w).extractLsb' 0 1 ++ fRs2 w
/-- Bit 25. -/
def fBit25 (w : Insn) : BitVec 1 := (fF7 w).extractLsb' 0 1
/-- Bits 31:27, within funct7. -/
def fF7Hi5 (w : Insn) : BitVec 5 := (fF7 w).extractLsb' 2 5
/-- Bits 31:28, within funct7. -/
def fF7Hi4 (w : Insn) : BitVec 4 := (fF7 w).extractLsb' 3 4
/-- Bits 26:25, within funct7. -/
def fF7Lo (w : Insn) : BitVec 2 := (fF7 w).extractLsb' 0 2
/-- Bits 26:25, the axis of the capability instructions. -/
def fAxis (w : Insn) : BitVec 2 := (fF7 w).extractLsb' 0 2
/-- Bits 27:25, the count of MSEND less 1. -/
def fN (w : Insn) : BitVec 3 := (fF7 w).extractLsb' 0 3
/-- Bit 19: M of the CL and CS forms, and bit 4 of a capability field. -/
def fRs1Hi (w : Insn) : BitVec 1 := (fRs1 w).extractLsb' 4 1
/-- Bit 24, bit 4 of a capability field. -/
def fRs2Hi (w : Insn) : BitVec 1 := (fRs2 w).extractLsb' 4 1
/-- Bit 11, bit 4 of a capability field. -/
def fRdHi (w : Insn) : BitVec 1 := (fRd w).extractLsb' 4 1
/-- The capability index in bits 18:15 (R37). -/
def fCRs1 (w : Insn) : CReg := (fRs1 w).extractLsb' 0 4
/-- The capability index in bits 23:20 (R37). -/
def fCRs2 (w : Insn) : CReg := (fRs2 w).extractLsb' 0 4
/-- The capability index in bits 10:7 (R37). -/
def fCRd (w : Insn) : CReg := (fRd w).extractLsb' 0 4
/-- Bits 19:18, fixed zero beside a predicate index. -/
def fRs1P (w : Insn) : BitVec 2 := (fRs1 w).extractLsb' 3 2
/-- Bits 24:23, fixed zero beside a predicate index. -/
def fRs2P (w : Insn) : BitVec 2 := (fRs2 w).extractLsb' 3 2
/-- Bits 11:10, fixed zero beside a predicate index. -/
def fRdP (w : Insn) : BitVec 2 := (fRd w).extractLsb' 3 2
/-- The predicate index in bits 17:15. -/
def fPRs1 (w : Insn) : PReg := (fRs1 w).extractLsb' 0 3
/-- The predicate index in bits 22:20. -/
def fPRs2 (w : Insn) : PReg := (fRs2 w).extractLsb' 0 3
/-- The predicate index in bits 9:7. -/
def fPRd (w : Insn) : PReg := (fRd w).extractLsb' 0 3
/-- Bits 31:28, op4 of the V form and kind of the VM form. -/
def fOp4 (w : Insn) : BitVec 4 := (fF7 w).extractLsb' 3 4
/-- Bits 27:25, pg. -/
def fPg (w : Insn) : PReg := (fF7 w).extractLsb' 0 3
/-- Bits 28:25 of the K form: ord and the fixed zeros. -/
def fOrd (w : Insn) : BitVec 4 := (fF7 w).extractLsb' 0 4
/-- Bits 31:29, the scope of the K form. -/
def fScope (w : Insn) : BitVec 3 := (fF7 w).extractLsb' 4 3
/-- Bits 17:15, the scope of the M form. -/
def fMScope (w : Insn) : BitVec 3 := (fRs1 w).extractLsb' 0 3
/-- Bits 26:24, pred. -/
def fPred (w : Insn) : BitVec 3 := (fF7 w).extractLsb' 0 2 ++ (fRs2 w).extractLsb' 4 1
/-- Bits 22:20, succ. -/
def fSucc (w : Insn) : BitVec 3 := (fRs2 w).extractLsb' 0 3
/-- The fixed zeros of the M form: bits 31:27, 23 and 19:18. -/
def fMz (w : Insn) : BitVec 8 := (fF7 w).extractLsb' 2 5 ++ (fRs2 w).extractLsb' 3 1 ++ (fRs1 w).extractLsb' 3 2
/-- Bits 14:13, fixed 01 in AMO. -/
def fF3Hi (w : Insn) : BitVec 2 := (fF3 w).extractLsb' 1 2
/-- Bit 12: a 64-bit atomic. -/
def fWide (w : Insn) : Bool := (fF3 w).extractLsb' 0 1 == 1#1
/-- Bits 31:27 of the F form. -/
def fFa (w : Insn) : BitVec 5 := (fF7 w).extractLsb' 2 5
/-- Bits 26:22 of the F form. -/
def fFb (w : Insn) : BitVec 5 := (fF7 w).extractLsb' 0 2 ++ (fRs2 w).extractLsb' 2 3
/-- Bits 21:20 of the F form, fixed zero. -/
def fFz (w : Insn) : BitVec 2 := (fRs2 w).extractLsb' 0 2
/-- Bits 19:17 of the F form. -/
def fRm (w : Insn) : BitVec 3 := (fRs1 w).extractLsb' 2 3
/-- Bits 16:15 of the F form. -/
def fSat (w : Insn) : BitVec 2 := (fRs1 w).extractLsb' 0 2
/-- The branch offset, imm[12:2] (R42, R139). -/
def fB (w : Insn) : BitVec 11 :=
  (fF7 w).extractLsb' 6 1 ++ (fRd w).extractLsb' 0 1 ++ (fF7 w).extractLsb' 0 6 ++ (fRd w).extractLsb' 2 3
/-- Bit 8, imm[1] of a branch, fixed zero (R42). -/
def fBz (w : Insn) : BitVec 1 := (fRd w).extractLsb' 1 1
/-- The JAL offset, imm[20:2] (R42, R140). -/
def fJ (w : Insn) : BitVec 19 :=
  (fF7 w).extractLsb' 6 1 ++ (fRs1 w ++ fF3 w) ++ (fRs2 w).extractLsb' 0 1 ++
    ((fF7 w).extractLsb' 0 6 ++ (fRs2 w).extractLsb' 2 3)
/-- Bit 21, imm[1] of a JAL, fixed zero (R42). -/
def fJz (w : Insn) : BitVec 1 := (fRs2 w).extractLsb' 1 1

/-- Bits 31:27, funct5 of the X and AM forms. -/
def xF5 (w : Insn) : BitVec 5 := w.extractLsb' 27 5
/-- Bit 26, the count mode. -/
def xMb (w : Insn) : BitVec 1 := w.extractLsb' 26 1
/-- The count mode of an engine command: true counts commands (.c). -/
def xM (w : Insn) : Bool := xMb w == 1#1
/-- Bits 25:23. -/
def xSub (w : Insn) : BitVec 3 := w.extractLsb' 23 3
/-- Bits 22:19. -/
def xCe (w : Insn) : CReg := w.extractLsb' 19 4
/-- Bits 18:15. -/
def xCk (w : Insn) : CReg := w.extractLsb' 15 4
/-- Bits 14:11. -/
def xCb (w : Insn) : CReg := w.extractLsb' 11 4
/-- Bits 10:7. -/
def xCd (w : Insn) : CReg := w.extractLsb' 7 4
/-- Bits 25:24, fixed zero where an x register stands in the X form (R46). -/
def xSubHi (w : Insn) : BitVec 2 := (xSub w).extractLsb' 1 2
/-- Bits 23:19, an x register of the X form (R46). -/
def xX (w : Insn) : XReg := (xSub w).extractLsb' 0 1 ++ xCe w
/-- cd[3], fixed zero in SBIND and SFREE. -/
def xCdHi (w : Insn) : BitVec 1 := (xCd w).extractLsb' 3 1
/-- cd[2:0]: the stream register less 24. -/
def xV (w : Insn) : BitVec 3 := (xCd w).extractLsb' 0 3

/-! ### Packing a word -/

/-- The A cut of a word, which every form but X refines. -/
def packA (f7 : BitVec 7) (rs2 rs1 : BitVec 5) (f3 : BitVec 3) (rd : BitVec 5) (op : BitVec 7) : Insn :=
  f7 ++ rs2 ++ rs1 ++ f3 ++ rd ++ op
/-- The I form. -/
def packI (imm : BitVec 12) (rs1 : BitVec 5) (f3 : BitVec 3) (rd : BitVec 5) (op : BitVec 7) : Insn :=
  packA (imm.extractLsb' 5 7) (imm.extractLsb' 0 5) rs1 f3 rd op
/-- The U form. -/
def packU (imm : BitVec 20) (rd : BitVec 5) (op : BitVec 7) : Insn :=
  packA (imm.extractLsb' 13 7) (imm.extractLsb' 8 5) (imm.extractLsb' 3 5) (imm.extractLsb' 0 3) rd op
/-- The CS form of a STORE. -/
def packS (imm : BitVec 12) (rs2 rs1 : BitVec 5) (f3 : BitVec 3) : Insn :=
  packA (imm.extractLsb' 5 7) rs2 rs1 f3 (imm.extractLsb' 0 5) 0x23#7
/-- The B form; `imm` is imm[12:2]. -/
def packB (imm : BitVec 11) (rs2 rs1 : BitVec 5) (f3 : BitVec 3) : Insn :=
  packA (imm.extractLsb' 10 1 ++ imm.extractLsb' 3 6) rs2 rs1 f3
    (imm.extractLsb' 0 3 ++ 0#1 ++ imm.extractLsb' 9 1) 0x63#7
/-- The J form; `imm` is imm[20:2]. -/
def packJ (imm : BitVec 19) (rd : BitVec 5) : Insn :=
  packA (imm.extractLsb' 18 1 ++ imm.extractLsb' 3 6)
    (imm.extractLsb' 0 3 ++ 0#1 ++ imm.extractLsb' 9 1)
    (imm.extractLsb' 13 5) (imm.extractLsb' 10 3) rd 0x6F#7
/-- The X form. -/
def packX (f5 : BitVec 5) (m : BitVec 1) (sub : BitVec 3) (ce ck cb cd : BitVec 4) : Insn :=
  f5 ++ m ++ sub ++ ce ++ ck ++ cb ++ cd ++ 0x5B#7
/-- The F form of FMT. -/
def packF (fa fb : BitVec 5) (rm : BitVec 3) (sat : BitVec 2) (fd : BitVec 5) : Insn :=
  packA (fa ++ fb.extractLsb' 3 2) (fb.extractLsb' 0 3 ++ 0#2) (rm ++ sat) 7#3 fd 0x7B#7
/-- A capability index as a 5-bit field (R37). -/
def cField (c : CReg) : BitVec 5 := 0#1 ++ c

/-! ### Selections -/

/-- The scope a code names (R45), or the refusal of a reserved code. -/
def withScope (c : BitVec 3) (k : Scope → Instr) : Except DecodeError Instr :=
  if c = 0 then .ok (k .core) else if c = 1 then .ok (k .clus) else if c = 2 then .ok (k .die)
  else if c = 3 then .ok (k .pkg) else if c = 4 then .ok (k .sys) else .error .unlisted

/-- The integer element type of a V-form word (R48): every code is assigned. -/
def intEt (w : Insn) : IntEt :=
  if fF3 w = 0 then .s8 else if fF3 w = 1 then .s16 else if fF3 w = 2 then .s32 else if fF3 w = 3 then .s64
  else if fF3 w = 4 then .z8 else if fF3 w = 5 then .z16 else if fF3 w = 6 then .z32 else .z64

/-- The floating element type of a V-form word (R48), or the refusal of codes 101 to 111. -/
def withFp (w : Insn) (k : FpEt → Insn → Except DecodeError Instr) : Except DecodeError Instr :=
  if fF3 w = 0 then k .bf16 w else if fF3 w = 1 then k .f16 w else if fF3 w = 2 then k .f32 w
  else if fF3 w = 3 then k .e4m3 w else if fF3 w = 4 then k .e5m2 w else .error .unlisted

/-- The element width of a VM-form word (R50), or the refusal of codes 100 to 111. -/
def withEw (w : Insn) (k : Ew → Insn → Except DecodeError Instr) : Except DecodeError Instr :=
  if fF3 w = 0 then k .z8 w else if fF3 w = 1 then k .z16 w else if fF3 w = 2 then k .z32 w
  else if fF3 w = 3 then k .z64 w else .error .unlisted

/-! ### The majors -/

/-- OP-IMM (02 Table 3). -/
def decodeOpImm (w : Insn) : Except DecodeError Instr :=
  if fF3 w = 0 then .ok (.addi (fRd w) (fRs1 w) (fI w))
  else if fF3 w = 2 then .ok (.slti (fRd w) (fRs1 w) (fI w))
  else if fF3 w = 3 then .ok (.sltiu (fRd w) (fRs1 w) (fI w))
  else if fF3 w = 4 then .ok (.xori (fRd w) (fRs1 w) (fI w))
  else if fF3 w = 6 then .ok (.ori (fRd w) (fRs1 w) (fI w))
  else if fF3 w = 7 then .ok (.andi (fRd w) (fRs1 w) (fI w))
  else if fF3 w = 1 ∧ fHi6 w = 0x00 then .ok (.slli (fRd w) (fRs1 w) (fSh w))
  else if fF3 w = 5 ∧ fHi6 w = 0x00 then .ok (.srli (fRd w) (fRs1 w) (fSh w))
  else if fF3 w = 5 ∧ fHi6 w = 0x10 then .ok (.srai (fRd w) (fRs1 w) (fSh w))
  else if fF3 w = 1 ∧ fI w = 0x600 then .ok (.clz (fRd w) (fRs1 w))
  else if fF3 w = 1 ∧ fI w = 0x601 then .ok (.ctz (fRd w) (fRs1 w))
  else if fF3 w = 1 ∧ fI w = 0x602 then .ok (.cpop (fRd w) (fRs1 w))
  else .error .unlisted

/-- OP (02 Table 3). -/
def decodeOp (w : Insn) : Except DecodeError Instr :=
  if fF7 w = 0x00 ∧ fF3 w = 0 then .ok (.add (fRd w) (fRs1 w) (fRs2 w))
  else if fF7 w = 0x00 ∧ fF3 w = 1 then .ok (.sll (fRd w) (fRs1 w) (fRs2 w))
  else if fF7 w = 0x00 ∧ fF3 w = 2 then .ok (.slt (fRd w) (fRs1 w) (fRs2 w))
  else if fF7 w = 0x00 ∧ fF3 w = 3 then .ok (.sltu (fRd w) (fRs1 w) (fRs2 w))
  else if fF7 w = 0x00 ∧ fF3 w = 4 then .ok (.xor (fRd w) (fRs1 w) (fRs2 w))
  else if fF7 w = 0x00 ∧ fF3 w = 5 then .ok (.srl (fRd w) (fRs1 w) (fRs2 w))
  else if fF7 w = 0x00 ∧ fF3 w = 6 then .ok (.or (fRd w) (fRs1 w) (fRs2 w))
  else if fF7 w = 0x00 ∧ fF3 w = 7 then .ok (.and (fRd w) (fRs1 w) (fRs2 w))
  else if fF7 w = 0x20 ∧ fF3 w = 0 then .ok (.sub (fRd w) (fRs1 w) (fRs2 w))
  else if fF7 w = 0x20 ∧ fF3 w = 5 then .ok (.sra (fRd w) (fRs1 w) (fRs2 w))
  else if fF7 w = 0x01 ∧ fF3 w = 0 then .ok (.mul (fRd w) (fRs1 w) (fRs2 w))
  else if fF7 w = 0x01 ∧ fF3 w = 1 then .ok (.mulh (fRd w) (fRs1 w) (fRs2 w))
  else if fF7 w = 0x01 ∧ fF3 w = 2 then .ok (.mulhsu (fRd w) (fRs1 w) (fRs2 w))
  else if fF7 w = 0x01 ∧ fF3 w = 3 then .ok (.mulhu (fRd w) (fRs1 w) (fRs2 w))
  else if fF7 w = 0x01 ∧ fF3 w = 4 then .ok (.div (fRd w) (fRs1 w) (fRs2 w))
  else if fF7 w = 0x01 ∧ fF3 w = 5 then .ok (.divu (fRd w) (fRs1 w) (fRs2 w))
  else if fF7 w = 0x01 ∧ fF3 w = 6 then .ok (.rem (fRd w) (fRs1 w) (fRs2 w))
  else if fF7 w = 0x01 ∧ fF3 w = 7 then .ok (.remu (fRd w) (fRs1 w) (fRs2 w))
  else if fF7 w = 0x05 ∧ fF3 w = 4 then .ok (.min (fRd w) (fRs1 w) (fRs2 w))
  else if fF7 w = 0x05 ∧ fF3 w = 5 then .ok (.minu (fRd w) (fRs1 w) (fRs2 w))
  else if fF7 w = 0x05 ∧ fF3 w = 6 then .ok (.max (fRd w) (fRs1 w) (fRs2 w))
  else if fF7 w = 0x05 ∧ fF3 w = 7 then .ok (.maxu (fRd w) (fRs1 w) (fRs2 w))
  else .error .unlisted

/-- BRANCH (02 Table 3, R42). -/
def decodeBranch (w : Insn) : Except DecodeError Instr :=
  if fF3 w = 0 ∧ fBz w = 0 then .ok (.beq (fRs1 w) (fRs2 w) (fB w))
  else if fF3 w = 1 ∧ fBz w = 0 then .ok (.bne (fRs1 w) (fRs2 w) (fB w))
  else if fF3 w = 4 ∧ fBz w = 0 then .ok (.blt (fRs1 w) (fRs2 w) (fB w))
  else if fF3 w = 5 ∧ fBz w = 0 then .ok (.bge (fRs1 w) (fRs2 w) (fB w))
  else if fF3 w = 6 ∧ fBz w = 0 then .ok (.bltu (fRs1 w) (fRs2 w) (fB w))
  else if fF3 w = 7 ∧ fBz w = 0 then .ok (.bgeu (fRs1 w) (fRs2 w) (fB w))
  else .error .unlisted

/-- The JALR major: JALR, CCALL, CRET (02 Table 3). -/
def decodeJalr (w : Insn) : Except DecodeError Instr :=
  if fF3 w = 0 then .ok (.jalr (fRd w) (fRs1 w) (fI w))
  else if fF3 w = 1 ∧ fF7 w = 0 ∧ fRd w = 0 ∧ fRs2Hi w = 0 ∧ fRs1Hi w = 0 then .ok (.ccall (fCRs1 w) (fCRs2 w))
  else if fF3 w = 2 ∧ fF7 w = 0 ∧ fRs2 w = 0 ∧ fRs1 w = 0 ∧ fRd w = 0 then .ok (.cret)
  else .error .unlisted

/-- LOAD (02 Table 4). -/
def decodeLoad (w : Insn) : Except DecodeError Instr :=
  if fF3 w = 0 ∧ fRs1Hi w = 0 then .ok (.lbOffset (fRd w) (fCRs1 w) (fI w))
  else if fF3 w = 0 ∧ fRs1Hi w = 1 ∧ fF7 w = 0 then .ok (.lbIndex (fRd w) (fCRs1 w) (fRs2 w))
  else if fF3 w = 1 ∧ fRs1Hi w = 0 then .ok (.lhOffset (fRd w) (fCRs1 w) (fI w))
  else if fF3 w = 1 ∧ fRs1Hi w = 1 ∧ fF7 w = 0 then .ok (.lhIndex (fRd w) (fCRs1 w) (fRs2 w))
  else if fF3 w = 2 ∧ fRs1Hi w = 0 then .ok (.lwOffset (fRd w) (fCRs1 w) (fI w))
  else if fF3 w = 2 ∧ fRs1Hi w = 1 ∧ fF7 w = 0 then .ok (.lwIndex (fRd w) (fCRs1 w) (fRs2 w))
  else if fF3 w = 3 ∧ fRs1Hi w = 0 then .ok (.ldOffset (fRd w) (fCRs1 w) (fI w))
  else if fF3 w = 3 ∧ fRs1Hi w = 1 ∧ fF7 w = 0 then .ok (.ldIndex (fRd w) (fCRs1 w) (fRs2 w))
  else if fF3 w = 4 ∧ fRs1Hi w = 0 then .ok (.lbuOffset (fRd w) (fCRs1 w) (fI w))
  else if fF3 w = 4 ∧ fRs1Hi w = 1 ∧ fF7 w = 0 then .ok (.lbuIndex (fRd w) (fCRs1 w) (fRs2 w))
  else if fF3 w = 5 ∧ fRs1Hi w = 0 then .ok (.lhuOffset (fRd w) (fCRs1 w) (fI w))
  else if fF3 w = 5 ∧ fRs1Hi w = 1 ∧ fF7 w = 0 then .ok (.lhuIndex (fRd w) (fCRs1 w) (fRs2 w))
  else if fF3 w = 6 ∧ fRs1Hi w = 0 then .ok (.lwuOffset (fRd w) (fCRs1 w) (fI w))
  else if fF3 w = 6 ∧ fRs1Hi w = 1 ∧ fF7 w = 0 then .ok (.lwuIndex (fRd w) (fCRs1 w) (fRs2 w))
  else if fF3 w = 7 ∧ fRs1Hi w = 0 ∧ fRdHi w = 0 then .ok (.clcOffset (fCRd w) (fCRs1 w) (fI w))
  else if fF3 w = 7 ∧ fRs1Hi w = 1 ∧ fF7 w = 0 ∧ fRdHi w = 0 then .ok (.clcIndex (fCRd w) (fCRs1 w) (fRs2 w))
  else .error .unlisted

/-- STORE (02 Table 4). -/
def decodeStore (w : Insn) : Except DecodeError Instr :=
  if fF3 w = 0 ∧ fRs1Hi w = 0 then .ok (.sbOffset (fRs2 w) (fCRs1 w) (fS w))
  else if fF3 w = 0 ∧ fRs1Hi w = 1 ∧ fF7 w = 0 then .ok (.sbIndex (fRs2 w) (fCRs1 w) (fRd w))
  else if fF3 w = 1 ∧ fRs1Hi w = 0 then .ok (.shOffset (fRs2 w) (fCRs1 w) (fS w))
  else if fF3 w = 1 ∧ fRs1Hi w = 1 ∧ fF7 w = 0 then .ok (.shIndex (fRs2 w) (fCRs1 w) (fRd w))
  else if fF3 w = 2 ∧ fRs1Hi w = 0 then .ok (.swOffset (fRs2 w) (fCRs1 w) (fS w))
  else if fF3 w = 2 ∧ fRs1Hi w = 1 ∧ fF7 w = 0 then .ok (.swIndex (fRs2 w) (fCRs1 w) (fRd w))
  else if fF3 w = 3 ∧ fRs1Hi w = 0 then .ok (.sdOffset (fRs2 w) (fCRs1 w) (fS w))
  else if fF3 w = 3 ∧ fRs1Hi w = 1 ∧ fF7 w = 0 then .ok (.sdIndex (fRs2 w) (fCRs1 w) (fRd w))
  else if fF3 w = 4 ∧ fRs1Hi w = 0 ∧ fRs2Hi w = 0 then .ok (.cscOffset (fCRs2 w) (fCRs1 w) (fS w))
  else if fF3 w = 4 ∧ fRs1Hi w = 1 ∧ fF7 w = 0 ∧ fRs2Hi w = 0 then .ok (.cscIndex (fCRs2 w) (fCRs1 w) (fRd w))
  else .error .unlisted

/-- custom-0, the capability instructions (02 Table 5). -/
def decodeCap (w : Insn) : Except DecodeError Instr :=
  if fF3 w = 0 ∧ fF7 w = 0x00 ∧ fRs2 w = 0 ∧ fRs1Hi w = 0 then .ok (.cgetb (fRd w) (fCRs1 w))
  else if fF3 w = 0 ∧ fF7Hi5 w = 0x01 ∧ fRs2 w = 0 ∧ fRs1Hi w = 0 then .ok (.cgetx (fRd w) (fCRs1 w) (fAxis w))
  else if fF3 w = 0 ∧ fF7Hi5 w = 0x02 ∧ fRs2 w = 0 ∧ fRs1Hi w = 0 then .ok (.cgets (fRd w) (fCRs1 w) (fAxis w))
  else if fF3 w = 0 ∧ fHi6 w = 0x06 ∧ fRs2 w = 0 ∧ fRs1Hi w = 0 then .ok (.cgetf (fRd w) (fCRs1 w) (fBit25 w))
  else if fF3 w = 0 ∧ fF7 w = 0x10 ∧ fRs2 w = 0 ∧ fRs1Hi w = 0 then .ok (.ctag (fRd w) (fCRs1 w))
  else if fF3 w = 0 ∧ fF7 w = 0x14 ∧ fRs1Hi w = 0 then .ok (.cidx (fRd w) (fCRs1 w) (fRs2 w))
  else if fF3 w = 1 ∧ fF7Hi5 w = 0x02 ∧ fRdHi w = 0 then .ok (.cslice (fCRd w) (fRs1 w) (fRs2 w) (fAxis w))
  else if fF3 w = 1 ∧ fF7Hi5 w = 0x03 ∧ fRdHi w = 0 ∧ fRs2 w = 0 then .ok (.cnarrow (fCRd w) (fRs1 w) (fAxis w))
  else if fF3 w = 1 ∧ fF7 w = 0x10 ∧ fRdHi w = 0 ∧ fRs2 w = 0 then .ok (.cperm (fCRd w) (fRs1 w))
  else if fF3 w = 1 ∧ fF7 w = 0x20 ∧ fRdHi w = 0 ∧ fRs2Hi w = 0 then .ok (.cwrap (fCRd w) (fCRs2 w) (fRs1 w))
  else if fF3 w = 1 ∧ fF7 w = 0x21 ∧ fRdHi w = 0 ∧ fRs2Hi w = 0 ∧ fRs1 w = 0 then .ok (.cunwrap (fCRd w) (fCRs2 w))
  else if fF3 w = 1 ∧ fF7 w = 0x30 ∧ fRdHi w = 0 ∧ fRs2 w = 0 ∧ fRs1Hi w = 0 then .ok (.cmov (fCRd w) (fCRs1 w))
  else .error .unlisted

/-- custom-1: counters, strands and queues (02 Table 6). -/
def decodeCounter (w : Insn) : Except DecodeError Instr :=
  if fF3 w = 0 ∧ fF7 w = 0 ∧ fRs1Hi w = 0 ∧ fRd w = 0 then .ok (.kadd (fCRs1 w) (fRs2 w))
  else if fF3 w = 0 ∧ fOrd w = 0x8 ∧ fRs1Hi w = 0 ∧ fRd w = 0 then withScope (fScope w) fun sc => .kaddRel sc (fCRs1 w) (fRs2 w)
  else if fF3 w = 1 ∧ fF7 w = 0 ∧ fRs1Hi w = 0 ∧ fRd w = 0 then .ok (.kmax (fCRs1 w) (fRs2 w))
  else if fF3 w = 1 ∧ fOrd w = 0x8 ∧ fRs1Hi w = 0 ∧ fRd w = 0 then withScope (fScope w) fun sc => .kmaxRel sc (fCRs1 w) (fRs2 w)
  else if fF3 w = 3 ∧ fF7 w = 0 ∧ fRs1Hi w = 0 ∧ fRd w = 0 then .ok (.kwait (fCRs1 w) (fRs2 w))
  else if fF3 w = 3 ∧ fOrd w = 0x8 ∧ fRs1Hi w = 0 ∧ fRd w = 0 then withScope (fScope w) fun sc => .kwaitAcq sc (fCRs1 w) (fRs2 w)
  else if fF3 w = 2 ∧ fF7 w = 0 ∧ fRs1Hi w = 0 ∧ fRs2 w = 0 then .ok (.kread (fRd w) (fCRs1 w))
  else if fF3 w = 4 ∧ fF7 w = 0x00 ∧ fRd w = 0 ∧ fRs2Hi w = 0 then .ok (.spawn (fRs1 w) (fCRs2 w))
  else if fF3 w = 4 ∧ fF7Hi4 w = 0x1 ∧ fRs2Hi w = 0 then if msendFits (fRs1 w) (fN w) then .ok (.msend (fRd w) (fCRs2 w) (fRs1 w) (fN w)) else .error .registerField
  else if fF3 w = 4 ∧ fF7Hi4 w = 0x2 ∧ fRs2Hi w = 0 ∧ fRd w = 0 then if msendFits (fRs1 w) (fN w) then .ok (.msendW (fCRs2 w) (fRs1 w) (fN w)) else .error .registerField
  else if fF3 w = 4 ∧ fF7 w = 0x20 ∧ fRs2 w = 0 ∧ fRs1 w = 0 ∧ fRd w = 0 then .ok (.yield)
  else if fF3 w = 4 ∧ fF7 w = 0x21 ∧ fRs2 w = 0 ∧ fRs1 w = 0 ∧ fRd w = 0 then .ok (.fin)
  else if fF3 w = 4 ∧ fF7 w = 0x22 ∧ fRdHi w = 0 ∧ fRs2Hi w = 0 then .ok (.scall (fCRd w) (fRs1 w) (fCRs2 w))
  else if fF3 w = 4 ∧ fF7 w = 0x24 ∧ fRs2 w = 0 ∧ fRd w = 0 then .ok (.tblk (fRs1 w))
  else if fF3 w = 4 ∧ fF7 w = 0x25 ∧ fRs2 w = 0 ∧ fRd w = 0 then .ok (.tublk (fRs1 w))
  else .error .unlisted

/-- custom-2: engines, matrix jobs, streams (02 Table 7). -/
def decodeEngine (w : Insn) : Except DecodeError Instr :=
  if xF5 w = 0x00 ∧ xSub w = 0 ∧ xCe w = 0 then .ok (.xcopy (xM w) (xCd w) (xCb w) (xCk w))
  else if xF5 w = 0x01 ∧ xSub w = 0 then .ok (.xgath (xM w) (xCd w) (xCb w) (xCe w) (xCk w))
  else if xF5 w = 0x02 ∧ xSub w = 0 then .ok (.xscat (xM w) (xCd w) (xCb w) (xCe w) (xCk w))
  else if xF5 w = 0x03 ∧ xSubHi w = 0 ∧ xCb w = 0 then .ok (.xfill (xM w) (xCd w) (xX w) (xCk w))
  else if xF5 w = 0x04 ∧ xSub w = 0 ∧ xCe w = 0 then .ok (.xred (xM w) .add (xCd w) (xCb w) (xCk w))
  else if xF5 w = 0x04 ∧ xSub w = 1 ∧ xCe w = 0 then .ok (.xred (xM w) .max (xCd w) (xCb w) (xCk w))
  else if xF5 w = 0x04 ∧ xSub w = 2 ∧ xCe w = 0 then .ok (.xred (xM w) .min (xCd w) (xCb w) (xCk w))
  else if xF5 w = 0x05 ∧ xSub w = 0 then .ok (.xcryp (xM w) (xCd w) (xCb w) (xCe w) (xCk w))
  else if xF5 w = 0x06 ∧ xSubHi w = 0 then .ok (.xbind (xM w) (xCd w) (xCb w) (xX w) (xCk w))
  else if xF5 w = 0x07 ∧ xSub w = 0 ∧ xCe w = 0 ∧ xCb w = 0 then .ok (.xflush (xM w) (xCd w) (xCk w))
  else if xF5 w = 0x08 ∧ xSub w = 0 ∧ xCe w = 0 ∧ xCb w = 0 then .ok (.xinval (xM w) (xCd w) (xCk w))
  else if xF5 w = 0x09 ∧ xMb w = 0 ∧ xSub w = 0 ∧ xCe w = 0 ∧ xCk w = 0 ∧ xCd w = 0 then .ok (.xresume (xCb w))
  else if xF5 w = 0x0A ∧ xMb w = 0 ∧ xSub w = 0 ∧ fF3 w = 0 then .ok (.mjob (fRd w) (xCe w) (xCk w))
  else if xF5 w = 0x0B ∧ xMb w = 0 ∧ xSubHi w = 0 ∧ xCk w = 0 ∧ xCdHi w = 0 then .ok (.sbind (xV w) (xCb w) (xX w))
  else if xF5 w = 0x0C ∧ xMb w = 0 ∧ xSub w = 0 ∧ xCe w = 0 ∧ xCk w = 0 ∧ xCb w = 0 ∧ xCdHi w = 0 then .ok (.sfree (xV w))
  else .error .unlisted

/-- custom-3: exchange, adapters, WEED, FMT (02 Table 8). -/
def decodeExchange (w : Insn) : Except DecodeError Instr :=
  if fF3 w = 7 ∧ fFz w = 0 then .ok (.fmt (fRd w) (fFa w) (fFb w) (fRm w) (fSat w))
  else if fF3 w = 0 ∧ fF7 w = 0x00 ∧ fRd w = 0 ∧ fRs1Hi w = 0 then .ok (.exph (fCRs1 w) (fRs2 w))
  else if fF3 w = 0 ∧ fF7 w = 0x01 ∧ fRd w = 0 then .ok (.exsnd (fRs2 w) (fRs1 w))
  else if fF3 w = 0 ∧ fF7 w = 0x02 ∧ fRs2 w = 0 then .ok (.exrcv (fRd w) (fRs1 w))
  else if fF3 w = 0 ∧ fF7 w = 0x08 ∧ fRs1Hi w = 0 then .ok (.aclaim (fRd w) (fCRs1 w) (fRs2 w))
  else if fF3 w = 0 ∧ fF7 w = 0x09 ∧ fRs2 w = 0 ∧ fRd w = 0 ∧ fRs1Hi w = 0 then .ok (.afree (fCRs1 w))
  else if fF3 w = 0 ∧ fF7 w = 0x10 ∧ fRd w = 0 ∧ fRs2Hi w = 0 ∧ fRs1Hi w = 0 then .ok (.weed (fCRs1 w) (fCRs2 w))
  else .error .unlisted

/-- SYSTEM (02 Table 8). -/
def decodeSystem (w : Insn) : Except DecodeError Instr :=
  if fF3 w = 0 ∧ fF7 w = 0x00 ∧ fRs2 w = 1 ∧ fRs1 w = 0 ∧ fRd w = 0 then .ok (.brk)
  else if fF3 w = 0 ∧ fF7 w = 0x08 ∧ fRs2 w = 2 ∧ fRs1 w = 0 ∧ fRd w = 0 then .ok (.sret)
  else if fF3 w = 0 ∧ fF7 w = 0x09 ∧ fRs2 w = 0 ∧ fRs1 w = 0 ∧ fRd w = 0 then .ok (.shalt)
  else if fF3 w = 0 ∧ fF7 w = 0x0A ∧ fRs2 w = 0 ∧ fRd w = 0 then .ok (.wake (fRs1 w))
  else if fF3 w = 0 ∧ fF7 w = 0x0B ∧ fRd w = 0 then .ok (.ownset (fRs1 w) (fRs2 w))
  else if fF3 w = 1 ∧ fRd w = 0 then if csrListed (fI w) then .ok (.csrwr (fI w) (fRs1 w)) else .error .unlisted
  else if fF3 w = 2 ∧ fRs1 w = 0 then if csrListed (fI w) then .ok (.csrrd (fRd w) (fI w)) else .error .unlisted
  else if fF3 w = 4 ∧ fRs1 w = 0 ∧ fRd w = 0 then .ok (.trap (fI w))
  else .error .unlisted

/-- MISC-MEM (02 Table 8, R47). -/
def decodeMiscMem (w : Insn) : Except DecodeError Instr :=
  if fF3 w = 0 ∧ fMz w = 0 ∧ fRd w = 0 then withScope (fMScope w) fun sc => .fence sc (fPred w) (fSucc w)
  else if fF3 w = 1 ∧ fMz w = 0 ∧ fPred w = 0 ∧ fSucc w = 0 ∧ fRd w = 0 then withScope (fMScope w) fun sc => .ifence sc
  else .error .unlisted

/-- AMO (02 Table 8). -/
def decodeAmo (w : Insn) : Except DecodeError Instr :=
  if fF3Hi w = 1 ∧ fF7Lo w = 0 ∧ fRs1Hi w = 0 ∧ xF5 w = 0x00 then .ok (.amoadd (fWide w) (fRd w) (fCRs1 w) (fRs2 w))
  else if fF3Hi w = 1 ∧ fF7Lo w = 0 ∧ fRs1Hi w = 0 ∧ xF5 w = 0x01 then .ok (.amoswap (fWide w) (fRd w) (fCRs1 w) (fRs2 w))
  else if fF3Hi w = 1 ∧ fF7Lo w = 0 ∧ fRs1Hi w = 0 ∧ xF5 w = 0x04 then .ok (.amoxor (fWide w) (fRd w) (fCRs1 w) (fRs2 w))
  else if fF3Hi w = 1 ∧ fF7Lo w = 0 ∧ fRs1Hi w = 0 ∧ xF5 w = 0x08 then .ok (.amoor (fWide w) (fRd w) (fCRs1 w) (fRs2 w))
  else if fF3Hi w = 1 ∧ fF7Lo w = 0 ∧ fRs1Hi w = 0 ∧ xF5 w = 0x0C then .ok (.amoand (fWide w) (fRd w) (fCRs1 w) (fRs2 w))
  else if fF3Hi w = 1 ∧ fF7Lo w = 0 ∧ fRs1Hi w = 0 ∧ xF5 w = 0x05 then .ok (.amocas (fWide w) (fRd w) (fCRs1 w) (fRs2 w))
  else if fF3Hi w = 1 ∧ fF7Lo w = 0 ∧ fRs1Hi w = 0 ∧ xF5 w = 0x10 then .ok (.amomin (fWide w) (fRd w) (fCRs1 w) (fRs2 w))
  else if fF3Hi w = 1 ∧ fF7Lo w = 0 ∧ fRs1Hi w = 0 ∧ xF5 w = 0x14 then .ok (.amomax (fWide w) (fRd w) (fCRs1 w) (fRs2 w))
  else if fF3Hi w = 1 ∧ fF7Lo w = 0 ∧ fRs1Hi w = 0 ∧ xF5 w = 0x18 then .ok (.amominu (fWide w) (fRd w) (fCRs1 w) (fRs2 w))
  else if fF3Hi w = 1 ∧ fF7Lo w = 0 ∧ fRs1Hi w = 0 ∧ xF5 w = 0x1C then .ok (.amomaxu (fWide w) (fRd w) (fCRs1 w) (fRs2 w))
  else .error .unlisted

/-- OP-V (02 Table 9). -/
def decodeOpV (et : IntEt) (w : Insn) : Except DecodeError Instr :=
  if fOp4 w = 0x0 then .ok (.vadd et (fRd w) (fRs1 w) (fRs2 w) (fPg w))
  else if fOp4 w = 0x1 then .ok (.vsub et (fRd w) (fRs1 w) (fRs2 w) (fPg w))
  else if fOp4 w = 0x2 then .ok (.vmul et (fRd w) (fRs1 w) (fRs2 w) (fPg w))
  else if fOp4 w = 0x3 then .ok (.vmulh et (fRd w) (fRs1 w) (fRs2 w) (fPg w))
  else if fOp4 w = 0x4 then .ok (.vmin et (fRd w) (fRs1 w) (fRs2 w) (fPg w))
  else if fOp4 w = 0x5 then .ok (.vmax et (fRd w) (fRs1 w) (fRs2 w) (fPg w))
  else if fOp4 w = 0x6 then .ok (.vand et (fRd w) (fRs1 w) (fRs2 w) (fPg w))
  else if fOp4 w = 0x7 then .ok (.vor et (fRd w) (fRs1 w) (fRs2 w) (fPg w))
  else if fOp4 w = 0x8 then .ok (.vxor et (fRd w) (fRs1 w) (fRs2 w) (fPg w))
  else if fOp4 w = 0x9 then .ok (.vsll et (fRd w) (fRs1 w) (fRs2 w) (fPg w))
  else if fOp4 w = 0xA then .ok (.vsr et (fRd w) (fRs1 w) (fRs2 w) (fPg w))
  else if fOp4 w = 0xB then .ok (.vadc et (fRd w) (fRs1 w) (fRs2 w) (fPg w))
  else if fOp4 w = 0xC then .ok (.vsbc et (fRd w) (fRs1 w) (fRs2 w) (fPg w))
  else if fOp4 w = 0xD then .ok (.vmuladc et (fRd w) (fRs1 w) (fRs2 w) (fPg w))
  else if fOp4 w = 0xE ∧ fRdP w = 0 then .ok (.vceq et (fPRd w) (fRs1 w) (fRs2 w) (fPg w))
  else if fOp4 w = 0xF ∧ fRdP w = 0 then .ok (.vclt et (fPRd w) (fRs1 w) (fRs2 w) (fPg w))
  else .error .unlisted

/-- OP-FP (02 Tables 9 and 10). -/
def decodeOpFp (et : FpEt) (w : Insn) : Except DecodeError Instr :=
  if fOp4 w = 0x0 ∧ wideFp et = true then .ok (.vfadd et (fRd w) (fRs1 w) (fRs2 w) (fPg w))
  else if fOp4 w = 0x1 ∧ wideFp et = true then .ok (.vfsub et (fRd w) (fRs1 w) (fRs2 w) (fPg w))
  else if fOp4 w = 0x2 ∧ wideFp et = true then .ok (.vfmul et (fRd w) (fRs1 w) (fRs2 w) (fPg w))
  else if fOp4 w = 0x3 ∧ wideFp et = true then .ok (.vfma et (fRd w) (fRs1 w) (fRs2 w) (fPg w))
  else if fOp4 w = 0x4 ∧ wideFp et = true then .ok (.vfnma et (fRd w) (fRs1 w) (fRs2 w) (fPg w))
  else if fOp4 w = 0x5 then .ok (.vfmin et (fRd w) (fRs1 w) (fRs2 w) (fPg w))
  else if fOp4 w = 0x6 then .ok (.vfmax et (fRd w) (fRs1 w) (fRs2 w) (fPg w))
  else if fOp4 w = 0x7 ∧ fRs2 w = 0 then .ok (.vfabs et (fRd w) (fRs1 w) (fPg w))
  else if fOp4 w = 0x8 ∧ fRs2 w = 0 then .ok (.vfneg et (fRd w) (fRs1 w) (fPg w))
  else if fOp4 w = 0x9 ∧ fRdP w = 0 then .ok (.vfceq et (fPRd w) (fRs1 w) (fRs2 w) (fPg w))
  else if fOp4 w = 0xA ∧ fRdP w = 0 then .ok (.vfclt et (fPRd w) (fRs1 w) (fRs2 w) (fPg w))
  else if fOp4 w = 0xB ∧ fRdP w = 0 then .ok (.vfcle et (fPRd w) (fRs1 w) (fRs2 w) (fPg w))
  else if fOp4 w = 0xC ∧ fRs2 w = 0 ∧ wideFp et = true then .ok (.vexp2 et (fRd w) (fRs1 w) (fPg w))
  else if fOp4 w = 0xD ∧ fRs2 w = 0 ∧ wideFp et = true then .ok (.vrcp et (fRd w) (fRs1 w) (fPg w))
  else if fOp4 w = 0xE ∧ fRs2 w = 0 ∧ wideFp et = true then .ok (.vrsq et (fRd w) (fRs1 w) (fPg w))
  else if fOp4 w = 0xF ∧ fRs2 w = 0 ∧ wideFp et = true then .ok (.vlog2 et (fRd w) (fRs1 w) (fPg w))
  else .error .unlisted

/-- MADD (02 Tables 9 and 10). -/
def decodeMadd (et : IntEt) (w : Insn) : Except DecodeError Instr :=
  if fOp4 w = 0x0 then .ok (.vsel et (fRd w) (fRs1 w) (fRs2 w) (fPg w))
  else if fOp4 w = 0x1 then .ok (.vperm et (fRd w) (fRs1 w) (fRs2 w) (fPg w))
  else if fOp4 w = 0x2 ∧ fRs2 w = 0 then .ok (.vbcast et (fRd w) (fRs1 w) (fPg w))
  else if fOp4 w = 0x3 ∧ fRdP w = 0 then .ok (.vcle et (fPRd w) (fRs1 w) (fRs2 w) (fPg w))
  else if fOp4 w = 0x4 ∧ fRdP w = 0 then .ok (.vcne et (fPRd w) (fRs1 w) (fRs2 w) (fPg w))
  else if fOp4 w = 0x5 ∧ fRs2 w = 0 then .ok (.vradd et (fRd w) (fRs1 w) (fPg w))
  else if fOp4 w = 0x6 ∧ fRs2 w = 0 then .ok (.vrmin et (fRd w) (fRs1 w) (fPg w))
  else if fOp4 w = 0x7 ∧ fRs2 w = 0 then .ok (.vrmax et (fRd w) (fRs1 w) (fPg w))
  else if fOp4 w = 0x8 ∧ fRs2 w = 0 then .ok (.vcvtInt et (fRd w) (fRs1 w) (fPg w))
  else if fOp4 w = 0x9 ∧ fRs2 w = 0 then .ok (.vabs et (fRd w) (fRs1 w) (fPg w))
  else if fOp4 w = 0xA ∧ fPg w = 0 then .ok (.vext et (fRd w) (fRs1 w) (fRs2 w))
  else .error .unlisted

/-- MSUB (02 Tables 9 and 10). -/
def decodeMsub (et : FpEt) (w : Insn) : Except DecodeError Instr :=
  if fOp4 w = 0x0 ∧ fRs2 w = 0 then .ok (.vcvtFp et (fRd w) (fRs1 w) (fPg w))
  else if fOp4 w = 0x1 ∧ wideFp et = true then .ok (.vquant et (fRd w) (fRs1 w) (fRs2 w) (fPg w))
  else if fOp4 w = 0x2 then .ok (.vdeq et (fRd w) (fRs1 w) (fRs2 w) (fPg w))
  else if fOp4 w = 0x3 ∧ fRs2 w = 0 ∧ wideFp et = true then .ok (.vfrsum et (fRd w) (fRs1 w) (fPg w))
  else if fOp4 w = 0x4 ∧ fRs2 w = 0 ∧ wideFp et = true then .ok (.vfrmax et (fRd w) (fRs1 w) (fPg w))
  else if fOp4 w = 0x5 ∧ fRs2 w = 0 ∧ wideFp et = true then .ok (.vfrmin et (fRd w) (fRs1 w) (fPg w))
  else .error .unlisted

/-- LOAD-FP (02 Table 11). -/
def decodeLoadFp (ew : Ew) (w : Insn) : Except DecodeError Instr :=
  if fOp4 w = 0 ∧ fRs1Hi w = 0 then .ok (.vld ew (fRd w) (fCRs1 w) (fRs2 w) (fPg w))
  else if fOp4 w = 1 ∧ fRs1Hi w = 0 then .ok (.vldsA1 ew (fRd w) (fCRs1 w) (fRs2 w) (fPg w))
  else if fOp4 w = 2 ∧ fRs1Hi w = 0 then .ok (.vldsA2 ew (fRd w) (fCRs1 w) (fRs2 w) (fPg w))
  else if fOp4 w = 3 ∧ fRs1Hi w = 0 then .ok (.vldsA3 ew (fRd w) (fCRs1 w) (fRs2 w) (fPg w))
  else if fOp4 w = 4 ∧ fRs1Hi w = 0 then .ok (.vldg ew (fRd w) (fCRs1 w) (fRs2 w) (fPg w))
  else .error .unlisted

/-- STORE-FP (02 Table 11). -/
def decodeStoreFp (ew : Ew) (w : Insn) : Except DecodeError Instr :=
  if fOp4 w = 0 ∧ fRs1Hi w = 0 then .ok (.vst ew (fRd w) (fCRs1 w) (fRs2 w) (fPg w))
  else if fOp4 w = 1 ∧ fRs1Hi w = 0 then .ok (.vstsA1 ew (fRd w) (fCRs1 w) (fRs2 w) (fPg w))
  else if fOp4 w = 2 ∧ fRs1Hi w = 0 then .ok (.vstsA2 ew (fRd w) (fCRs1 w) (fRs2 w) (fPg w))
  else if fOp4 w = 3 ∧ fRs1Hi w = 0 then .ok (.vstsA3 ew (fRd w) (fCRs1 w) (fRs2 w) (fPg w))
  else if fOp4 w = 4 ∧ fRs1Hi w = 0 then .ok (.vstg ew (fRd w) (fCRs1 w) (fRs2 w) (fPg w))
  else .error .unlisted

/-- NMSUB, the predicates (02 Table 11). -/
def decodePred (w : Insn) : Except DecodeError Instr :=
  if fF3 w = 0 ∧ fF7 w = 0x00 ∧ fRs2P w = 0 ∧ fRs1P w = 0 ∧ fRdP w = 0 then .ok (.pand (fPRd w) (fPRs1 w) (fPRs2 w))
  else if fF3 w = 0 ∧ fF7 w = 0x01 ∧ fRs2P w = 0 ∧ fRs1P w = 0 ∧ fRdP w = 0 then .ok (.por (fPRd w) (fPRs1 w) (fPRs2 w))
  else if fF3 w = 0 ∧ fF7 w = 0x02 ∧ fRs2P w = 0 ∧ fRs1P w = 0 ∧ fRdP w = 0 then .ok (.pxor (fPRd w) (fPRs1 w) (fPRs2 w))
  else if fF3 w = 0 ∧ fF7 w = 0x03 ∧ fRs2P w = 0 ∧ fRs1P w = 0 ∧ fRdP w = 0 then .ok (.pandn (fPRd w) (fPRs1 w) (fPRs2 w))
  else if fF3 w = 0 ∧ fF7 w = 0x04 ∧ fRs2 w = 0 ∧ fRs1P w = 0 ∧ fRdP w = 0 then .ok (.pnot (fPRd w) (fPRs1 w))
  else if fF3 w = 1 ∧ fF7 w = 0 ∧ fRs2 w = 0 ∧ fRdP w = 0 then .ok (.pfromx (fPRd w) (fRs1 w))
  else if fF3 w = 2 ∧ fF7 w = 0 ∧ fRs2 w = 0 ∧ fRs1P w = 0 then .ok (.ptox (fRd w) (fPRs1 w))
  else if fF3 w = 3 ∧ fF7 w = 0 ∧ fRs2 w = 0 ∧ fRs1P w = 0 then .ok (.pcnt (fRd w) (fPRs1 w))
  else .error .unlisted

/-- The decoder of one word (R38, R39): the instruction, or why the word is none. -/
def decode (w : Insn) : Except DecodeError Instr :=
  if fOp w = 0x13 then decodeOpImm w
  else if fOp w = 0x33 then decodeOp w
  else if fOp w = 0x37 then .ok (.lui (fRd w) (fU w))
  else if fOp w = 0x17 then .ok (.auipc (fRd w) (fU w))
  else if fOp w = 0x63 then decodeBranch w
  else if fOp w = 0x6F then if fJz w = 0 then .ok (.jal (fRd w) (fJ w)) else .error .fixedField
  else if fOp w = 0x67 then decodeJalr w
  else if fOp w = 0x03 then decodeLoad w
  else if fOp w = 0x23 then decodeStore w
  else if fOp w = 0x0B then decodeCap w
  else if fOp w = 0x2B then decodeCounter w
  else if fOp w = 0x5B then decodeEngine w
  else if fOp w = 0x7B then decodeExchange w
  else if fOp w = 0x73 then decodeSystem w
  else if fOp w = 0x0F then decodeMiscMem w
  else if fOp w = 0x2F then decodeAmo w
  else if fOp w = 0x57 then decodeOpV (intEt w) w
  else if fOp w = 0x53 then withFp w decodeOpFp
  else if fOp w = 0x43 then decodeMadd (intEt w) w
  else if fOp w = 0x47 then withFp w decodeMsub
  else if fOp w = 0x07 then withEw w decodeLoadFp
  else if fOp w = 0x27 then withEw w decodeStoreFp
  else if fOp w = 0x4B then decodePred w
  else if fOp w &&& 3 = 3 then .error .reservedMajor
  else .error .lowBits

/-- The word of an instruction, laid out field by field from the formats of 02 Table 1; an event has none. -/
def encode : Instr → Option Insn
  | .addi d a imm => some (packI imm a 0#3 d 0x13#7)
  | .slti d a imm => some (packI imm a 2#3 d 0x13#7)
  | .sltiu d a imm => some (packI imm a 3#3 d 0x13#7)
  | .xori d a imm => some (packI imm a 4#3 d 0x13#7)
  | .ori d a imm => some (packI imm a 6#3 d 0x13#7)
  | .andi d a imm => some (packI imm a 7#3 d 0x13#7)
  | .slli d a sh => some (packI (0x00#6 ++ sh) a 1#3 d 0x13#7)
  | .srli d a sh => some (packI (0x00#6 ++ sh) a 5#3 d 0x13#7)
  | .srai d a sh => some (packI (0x10#6 ++ sh) a 5#3 d 0x13#7)
  | .clz d a => some (packI 0x600#12 a 1#3 d 0x13#7)
  | .ctz d a => some (packI 0x601#12 a 1#3 d 0x13#7)
  | .cpop d a => some (packI 0x602#12 a 1#3 d 0x13#7)
  | .add d a b => some (packA 0x00#7 b a 0#3 d 0x33#7)
  | .sub d a b => some (packA 0x20#7 b a 0#3 d 0x33#7)
  | .sll d a b => some (packA 0x00#7 b a 1#3 d 0x33#7)
  | .slt d a b => some (packA 0x00#7 b a 2#3 d 0x33#7)
  | .sltu d a b => some (packA 0x00#7 b a 3#3 d 0x33#7)
  | .xor d a b => some (packA 0x00#7 b a 4#3 d 0x33#7)
  | .srl d a b => some (packA 0x00#7 b a 5#3 d 0x33#7)
  | .sra d a b => some (packA 0x20#7 b a 5#3 d 0x33#7)
  | .or d a b => some (packA 0x00#7 b a 6#3 d 0x33#7)
  | .and d a b => some (packA 0x00#7 b a 7#3 d 0x33#7)
  | .mul d a b => some (packA 0x01#7 b a 0#3 d 0x33#7)
  | .mulh d a b => some (packA 0x01#7 b a 1#3 d 0x33#7)
  | .mulhsu d a b => some (packA 0x01#7 b a 2#3 d 0x33#7)
  | .mulhu d a b => some (packA 0x01#7 b a 3#3 d 0x33#7)
  | .div d a b => some (packA 0x01#7 b a 4#3 d 0x33#7)
  | .divu d a b => some (packA 0x01#7 b a 5#3 d 0x33#7)
  | .rem d a b => some (packA 0x01#7 b a 6#3 d 0x33#7)
  | .remu d a b => some (packA 0x01#7 b a 7#3 d 0x33#7)
  | .min d a b => some (packA 0x05#7 b a 4#3 d 0x33#7)
  | .minu d a b => some (packA 0x05#7 b a 5#3 d 0x33#7)
  | .max d a b => some (packA 0x05#7 b a 6#3 d 0x33#7)
  | .maxu d a b => some (packA 0x05#7 b a 7#3 d 0x33#7)
  | .lui d imm => some (packU imm d 0x37#7)
  | .auipc d imm => some (packU imm d 0x17#7)
  | .beq a b imm => some (packB imm b a 0#3)
  | .bne a b imm => some (packB imm b a 1#3)
  | .blt a b imm => some (packB imm b a 4#3)
  | .bge a b imm => some (packB imm b a 5#3)
  | .bltu a b imm => some (packB imm b a 6#3)
  | .bgeu a b imm => some (packB imm b a 7#3)
  | .jal d imm => some (packJ imm d)
  | .jalr d a imm => some (packI imm a 0#3 d 0x67#7)
  | .ccall a b => some (packA 0x00#7 (cField b) (cField a) 1#3 0#5 0x67#7)
  | .cret => some (packA 0x00#7 0#5 0#5 2#3 0#5 0x67#7)
  | .lbOffset d a imm => some (packI imm (0#1 ++ a) 0#3 d 0x03#7)
  | .lbIndex d a x => some (packA 0#7 x (1#1 ++ a) 0#3 d 0x03#7)
  | .lhOffset d a imm => some (packI imm (0#1 ++ a) 1#3 d 0x03#7)
  | .lhIndex d a x => some (packA 0#7 x (1#1 ++ a) 1#3 d 0x03#7)
  | .lwOffset d a imm => some (packI imm (0#1 ++ a) 2#3 d 0x03#7)
  | .lwIndex d a x => some (packA 0#7 x (1#1 ++ a) 2#3 d 0x03#7)
  | .ldOffset d a imm => some (packI imm (0#1 ++ a) 3#3 d 0x03#7)
  | .ldIndex d a x => some (packA 0#7 x (1#1 ++ a) 3#3 d 0x03#7)
  | .lbuOffset d a imm => some (packI imm (0#1 ++ a) 4#3 d 0x03#7)
  | .lbuIndex d a x => some (packA 0#7 x (1#1 ++ a) 4#3 d 0x03#7)
  | .lhuOffset d a imm => some (packI imm (0#1 ++ a) 5#3 d 0x03#7)
  | .lhuIndex d a x => some (packA 0#7 x (1#1 ++ a) 5#3 d 0x03#7)
  | .lwuOffset d a imm => some (packI imm (0#1 ++ a) 6#3 d 0x03#7)
  | .lwuIndex d a x => some (packA 0#7 x (1#1 ++ a) 6#3 d 0x03#7)
  | .clcOffset d a imm => some (packI imm (0#1 ++ a) 7#3 (cField d) 0x03#7)
  | .clcIndex d a x => some (packA 0#7 x (1#1 ++ a) 7#3 (cField d) 0x03#7)
  | .sbOffset s a imm => some (packS imm s (0#1 ++ a) 0#3)
  | .sbIndex s a x => some (packA 0#7 s (1#1 ++ a) 0#3 x 0x23#7)
  | .shOffset s a imm => some (packS imm s (0#1 ++ a) 1#3)
  | .shIndex s a x => some (packA 0#7 s (1#1 ++ a) 1#3 x 0x23#7)
  | .swOffset s a imm => some (packS imm s (0#1 ++ a) 2#3)
  | .swIndex s a x => some (packA 0#7 s (1#1 ++ a) 2#3 x 0x23#7)
  | .sdOffset s a imm => some (packS imm s (0#1 ++ a) 3#3)
  | .sdIndex s a x => some (packA 0#7 s (1#1 ++ a) 3#3 x 0x23#7)
  | .cscOffset s a imm => some (packS imm (cField s) (0#1 ++ a) 4#3)
  | .cscIndex s a x => some (packA 0#7 (cField s) (1#1 ++ a) 4#3 x 0x23#7)
  | .cgetb d a => some (packA 0x00#7 0#5 (cField a) 0#3 d 0x0B#7)
  | .cgetx d a axis => some (packA (0x01#5 ++ axis) 0#5 (cField a) 0#3 d 0x0B#7)
  | .cgets d a axis => some (packA (0x02#5 ++ axis) 0#5 (cField a) 0#3 d 0x0B#7)
  | .cgetf d a w => some (packA (0x06#6 ++ w) 0#5 (cField a) 0#3 d 0x0B#7)
  | .ctag d a => some (packA 0x10#7 0#5 (cField a) 0#3 d 0x0B#7)
  | .cidx d a b => some (packA 0x14#7 b (cField a) 0#3 d 0x0B#7)
  | .cslice d a b axis => some (packA (0x02#5 ++ axis) b a 1#3 (cField d) 0x0B#7)
  | .cnarrow d a axis => some (packA (0x03#5 ++ axis) 0#5 a 1#3 (cField d) 0x0B#7)
  | .cperm d a => some (packA 0x10#7 0#5 a 1#3 (cField d) 0x0B#7)
  | .cwrap d b a => some (packA 0x20#7 (cField b) a 1#3 (cField d) 0x0B#7)
  | .cunwrap d b => some (packA 0x21#7 (cField b) 0#5 1#3 (cField d) 0x0B#7)
  | .cmov d a => some (packA 0x30#7 0#5 (cField a) 1#3 (cField d) 0x0B#7)
  | .kadd a b => some (packA 0#7 b (cField a) 0#3 0#5 0x2B#7)
  | .kaddRel scope a b => some (packA (scope.code ++ 1#1 ++ 0#3) b (cField a) 0#3 0#5 0x2B#7)
  | .kmax a b => some (packA 0#7 b (cField a) 1#3 0#5 0x2B#7)
  | .kmaxRel scope a b => some (packA (scope.code ++ 1#1 ++ 0#3) b (cField a) 1#3 0#5 0x2B#7)
  | .kread d a => some (packA 0#7 0#5 (cField a) 2#3 d 0x2B#7)
  | .kwait a b => some (packA 0#7 b (cField a) 3#3 0#5 0x2B#7)
  | .kwaitAcq scope a b => some (packA (scope.code ++ 1#1 ++ 0#3) b (cField a) 3#3 0#5 0x2B#7)
  | .spawn a b => some (packA 0x00#7 (cField b) a 4#3 0#5 0x2B#7)
  | .msend d b a n => some (packA (0x1#4 ++ n) (cField b) a 4#3 d 0x2B#7)
  | .msendW b a n => some (packA (0x2#4 ++ n) (cField b) a 4#3 0#5 0x2B#7)
  | .yield => some (packA 0x20#7 0#5 0#5 4#3 0#5 0x2B#7)
  | .fin => some (packA 0x21#7 0#5 0#5 4#3 0#5 0x2B#7)
  | .scall d a b => some (packA 0x22#7 (cField b) a 4#3 (cField d) 0x2B#7)
  | .tblk a => some (packA 0x24#7 0#5 a 4#3 0#5 0x2B#7)
  | .tublk a => some (packA 0x25#7 0#5 a 4#3 0#5 0x2B#7)
  | .xcopy m d b k => some (packX 0x00#5 (BitVec.ofBool m) 0#3 0#4 k b d)
  | .xgath m d b e k => some (packX 0x01#5 (BitVec.ofBool m) 0#3 e k b d)
  | .xscat m d b e k => some (packX 0x02#5 (BitVec.ofBool m) 0#3 e k b d)
  | .xfill m d a k => some (packX 0x03#5 (BitVec.ofBool m) (0#2 ++ a.extractLsb' 4 1) (a.extractLsb' 0 4) k 0#4 d)
  | .xred m op d b k => some (packX 0x04#5 (BitVec.ofBool m) op.code 0#4 k b d)
  | .xcryp m d b e k => some (packX 0x05#5 (BitVec.ofBool m) 0#3 e k b d)
  | .xbind m d b a k => some (packX 0x06#5 (BitVec.ofBool m) (0#2 ++ a.extractLsb' 4 1) (a.extractLsb' 0 4) k b d)
  | .xflush m d k => some (packX 0x07#5 (BitVec.ofBool m) 0#3 0#4 k 0#4 d)
  | .xinval m d k => some (packX 0x08#5 (BitVec.ofBool m) 0#3 0#4 k 0#4 d)
  | .xresume b => some (packX 0x09#5 0#1 0#3 0#4 0#4 b 0#4)
  | .mjob d e k => some (packX 0x0A#5 0#1 0#3 e k (0#3 ++ d.extractLsb' 4 1) (d.extractLsb' 0 4))
  | .sbind v b a => some (packX 0x0B#5 0#1 (0#2 ++ a.extractLsb' 4 1) (a.extractLsb' 0 4) 0#4 b (0#1 ++ v))
  | .sfree v => some (packX 0x0C#5 0#1 0#3 0#4 0#4 0#4 (0#1 ++ v))
  | .exph a b => some (packA 0x00#7 b (cField a) 0#3 0#5 0x7B#7)
  | .exsnd b a => some (packA 0x01#7 b a 0#3 0#5 0x7B#7)
  | .exrcv d a => some (packA 0x02#7 0#5 a 0#3 d 0x7B#7)
  | .aclaim d a b => some (packA 0x08#7 b (cField a) 0#3 d 0x7B#7)
  | .afree a => some (packA 0x09#7 0#5 (cField a) 0#3 0#5 0x7B#7)
  | .weed a b => some (packA 0x10#7 (cField b) (cField a) 0#3 0#5 0x7B#7)
  | .fmt fd fa fb rm sat => some (packF fa fb rm sat fd)
  | .brk => some (packA 0x00#7 1#5 0#5 0#3 0#5 0x73#7)
  | .sret => some (packA 0x08#7 2#5 0#5 0#3 0#5 0x73#7)
  | .shalt => some (packA 0x09#7 0#5 0#5 0#3 0#5 0x73#7)
  | .wake a => some (packA 0x0A#7 0#5 a 0#3 0#5 0x73#7)
  | .ownset a b => some (packA 0x0B#7 b a 0#3 0#5 0x73#7)
  | .csrwr csr a => some (packI csr a 1#3 0#5 0x73#7)
  | .csrrd d csr => some (packI csr 0#5 2#3 d 0x73#7)
  | .trap code => some (packI code 0#5 4#3 0#5 0x73#7)
  | .fence scope pred succ => some (packA (0#5 ++ pred.extractLsb' 1 2) (pred.extractLsb' 0 1 ++ 0#1 ++ succ) (0#2 ++ scope.code) 0#3 0#5 0x0F#7)
  | .ifence scope => some (packA 0#7 0#5 (0#2 ++ scope.code) 1#3 0#5 0x0F#7)
  | .amoadd w d a b => some (packA (0x00#5 ++ 0#2) b (cField a) (1#2 ++ BitVec.ofBool w) d 0x2F#7)
  | .amoswap w d a b => some (packA (0x01#5 ++ 0#2) b (cField a) (1#2 ++ BitVec.ofBool w) d 0x2F#7)
  | .amoxor w d a b => some (packA (0x04#5 ++ 0#2) b (cField a) (1#2 ++ BitVec.ofBool w) d 0x2F#7)
  | .amoor w d a b => some (packA (0x08#5 ++ 0#2) b (cField a) (1#2 ++ BitVec.ofBool w) d 0x2F#7)
  | .amoand w d a b => some (packA (0x0C#5 ++ 0#2) b (cField a) (1#2 ++ BitVec.ofBool w) d 0x2F#7)
  | .amocas w d a b => some (packA (0x05#5 ++ 0#2) b (cField a) (1#2 ++ BitVec.ofBool w) d 0x2F#7)
  | .amomin w d a b => some (packA (0x10#5 ++ 0#2) b (cField a) (1#2 ++ BitVec.ofBool w) d 0x2F#7)
  | .amomax w d a b => some (packA (0x14#5 ++ 0#2) b (cField a) (1#2 ++ BitVec.ofBool w) d 0x2F#7)
  | .amominu w d a b => some (packA (0x18#5 ++ 0#2) b (cField a) (1#2 ++ BitVec.ofBool w) d 0x2F#7)
  | .amomaxu w d a b => some (packA (0x1C#5 ++ 0#2) b (cField a) (1#2 ++ BitVec.ofBool w) d 0x2F#7)
  | .vadd et d a b pg => some (packA (0x0#4 ++ pg) b a et.code d 0x57#7)
  | .vsub et d a b pg => some (packA (0x1#4 ++ pg) b a et.code d 0x57#7)
  | .vmul et d a b pg => some (packA (0x2#4 ++ pg) b a et.code d 0x57#7)
  | .vmulh et d a b pg => some (packA (0x3#4 ++ pg) b a et.code d 0x57#7)
  | .vmin et d a b pg => some (packA (0x4#4 ++ pg) b a et.code d 0x57#7)
  | .vmax et d a b pg => some (packA (0x5#4 ++ pg) b a et.code d 0x57#7)
  | .vand et d a b pg => some (packA (0x6#4 ++ pg) b a et.code d 0x57#7)
  | .vor et d a b pg => some (packA (0x7#4 ++ pg) b a et.code d 0x57#7)
  | .vxor et d a b pg => some (packA (0x8#4 ++ pg) b a et.code d 0x57#7)
  | .vsll et d a b pg => some (packA (0x9#4 ++ pg) b a et.code d 0x57#7)
  | .vsr et d a b pg => some (packA (0xA#4 ++ pg) b a et.code d 0x57#7)
  | .vadc et d a b pg => some (packA (0xB#4 ++ pg) b a et.code d 0x57#7)
  | .vsbc et d a b pg => some (packA (0xC#4 ++ pg) b a et.code d 0x57#7)
  | .vmuladc et d a b pg => some (packA (0xD#4 ++ pg) b a et.code d 0x57#7)
  | .vceq et d a b pg => some (packA (0xE#4 ++ pg) b a et.code (0#2 ++ d) 0x57#7)
  | .vclt et d a b pg => some (packA (0xF#4 ++ pg) b a et.code (0#2 ++ d) 0x57#7)
  | .vfadd et d a b pg => some (packA (0x0#4 ++ pg) b a et.code d 0x53#7)
  | .vfsub et d a b pg => some (packA (0x1#4 ++ pg) b a et.code d 0x53#7)
  | .vfmul et d a b pg => some (packA (0x2#4 ++ pg) b a et.code d 0x53#7)
  | .vfma et d a b pg => some (packA (0x3#4 ++ pg) b a et.code d 0x53#7)
  | .vfnma et d a b pg => some (packA (0x4#4 ++ pg) b a et.code d 0x53#7)
  | .vfmin et d a b pg => some (packA (0x5#4 ++ pg) b a et.code d 0x53#7)
  | .vfmax et d a b pg => some (packA (0x6#4 ++ pg) b a et.code d 0x53#7)
  | .vfabs et d a pg => some (packA (0x7#4 ++ pg) 0#5 a et.code d 0x53#7)
  | .vfneg et d a pg => some (packA (0x8#4 ++ pg) 0#5 a et.code d 0x53#7)
  | .vfceq et d a b pg => some (packA (0x9#4 ++ pg) b a et.code (0#2 ++ d) 0x53#7)
  | .vfclt et d a b pg => some (packA (0xA#4 ++ pg) b a et.code (0#2 ++ d) 0x53#7)
  | .vfcle et d a b pg => some (packA (0xB#4 ++ pg) b a et.code (0#2 ++ d) 0x53#7)
  | .vexp2 et d a pg => some (packA (0xC#4 ++ pg) 0#5 a et.code d 0x53#7)
  | .vrcp et d a pg => some (packA (0xD#4 ++ pg) 0#5 a et.code d 0x53#7)
  | .vrsq et d a pg => some (packA (0xE#4 ++ pg) 0#5 a et.code d 0x53#7)
  | .vlog2 et d a pg => some (packA (0xF#4 ++ pg) 0#5 a et.code d 0x53#7)
  | .vsel et d a b pg => some (packA (0x0#4 ++ pg) b a et.code d 0x43#7)
  | .vperm et d a b pg => some (packA (0x1#4 ++ pg) b a et.code d 0x43#7)
  | .vbcast et d a pg => some (packA (0x2#4 ++ pg) 0#5 a et.code d 0x43#7)
  | .vcle et d a b pg => some (packA (0x3#4 ++ pg) b a et.code (0#2 ++ d) 0x43#7)
  | .vcne et d a b pg => some (packA (0x4#4 ++ pg) b a et.code (0#2 ++ d) 0x43#7)
  | .vradd et d a pg => some (packA (0x5#4 ++ pg) 0#5 a et.code d 0x43#7)
  | .vrmin et d a pg => some (packA (0x6#4 ++ pg) 0#5 a et.code d 0x43#7)
  | .vrmax et d a pg => some (packA (0x7#4 ++ pg) 0#5 a et.code d 0x43#7)
  | .vcvtInt et d a pg => some (packA (0x8#4 ++ pg) 0#5 a et.code d 0x43#7)
  | .vabs et d a pg => some (packA (0x9#4 ++ pg) 0#5 a et.code d 0x43#7)
  | .vext et d a b => some (packA (0xA#4 ++ 0#3) b a et.code d 0x43#7)
  | .vcvtFp et d a pg => some (packA (0x0#4 ++ pg) 0#5 a et.code d 0x47#7)
  | .vquant et d a b pg => some (packA (0x1#4 ++ pg) b a et.code d 0x47#7)
  | .vdeq et d a b pg => some (packA (0x2#4 ++ pg) b a et.code d 0x47#7)
  | .vfrsum et d a pg => some (packA (0x3#4 ++ pg) 0#5 a et.code d 0x47#7)
  | .vfrmax et d a pg => some (packA (0x4#4 ++ pg) 0#5 a et.code d 0x47#7)
  | .vfrmin et d a pg => some (packA (0x5#4 ++ pg) 0#5 a et.code d 0x47#7)
  | .vld ew v a x pg => some (packA (0x0#4 ++ pg) x (cField a) ew.code v 0x07#7)
  | .vldsA1 ew v a x pg => some (packA (0x1#4 ++ pg) x (cField a) ew.code v 0x07#7)
  | .vldsA2 ew v a x pg => some (packA (0x2#4 ++ pg) x (cField a) ew.code v 0x07#7)
  | .vldsA3 ew v a x pg => some (packA (0x3#4 ++ pg) x (cField a) ew.code v 0x07#7)
  | .vldg ew v a x pg => some (packA (0x4#4 ++ pg) x (cField a) ew.code v 0x07#7)
  | .vst ew v a x pg => some (packA (0x0#4 ++ pg) x (cField a) ew.code v 0x27#7)
  | .vstsA1 ew v a x pg => some (packA (0x1#4 ++ pg) x (cField a) ew.code v 0x27#7)
  | .vstsA2 ew v a x pg => some (packA (0x2#4 ++ pg) x (cField a) ew.code v 0x27#7)
  | .vstsA3 ew v a x pg => some (packA (0x3#4 ++ pg) x (cField a) ew.code v 0x27#7)
  | .vstg ew v a x pg => some (packA (0x4#4 ++ pg) x (cField a) ew.code v 0x27#7)
  | .pand d a b => some (packA 0x00#7 (0#2 ++ b) (0#2 ++ a) 0#3 (0#2 ++ d) 0x4B#7)
  | .por d a b => some (packA 0x01#7 (0#2 ++ b) (0#2 ++ a) 0#3 (0#2 ++ d) 0x4B#7)
  | .pxor d a b => some (packA 0x02#7 (0#2 ++ b) (0#2 ++ a) 0#3 (0#2 ++ d) 0x4B#7)
  | .pandn d a b => some (packA 0x03#7 (0#2 ++ b) (0#2 ++ a) 0#3 (0#2 ++ d) 0x4B#7)
  | .pnot d a => some (packA 0x04#7 0#5 (0#2 ++ a) 0#3 (0#2 ++ d) 0x4B#7)
  | .pfromx d a => some (packA 0x00#7 0#5 a 1#3 (0#2 ++ d) 0x4B#7)
  | .ptox d a => some (packA 0x00#7 0#5 (0#2 ++ a) 2#3 d 0x4B#7)
  | .pcnt d a => some (packA 0x00#7 0#5 (0#2 ++ a) 3#3 d 0x4B#7)
  | .postedStoreAccept _ _ => none
  | .coreDrainComplete _ => none
  | .farAccessComplete _ => none
  | .tlbWalkComplete _ => none
  | .fetchLineFill _ _ => none
  | .streamStripArrival _ _ => none
  | .pageRequestGroupResponse _ _ => none
  | .atsInvalidateRequest _ _ _ _ => none
  | .engineTurn _ => none
  | .engineDeficitRaise => none
  | .counterOperationApply _ => none
  | .spilledWaiterReadComplete _ => none
  | .hostCellPoll _ => none
  | .hostReadCompletion _ _ => none
  | .hostAtomicCompletion _ _ => none
  | .dispatchChoose _ => none
  | .dispatchLoadComplete _ => none
  | .dispatchDeficitRaise => none
  | .preemptRequest _ _ => none
  | .preemption _ => none
  | .launchDoorbell _ _ => none
  | .launchSlot _ => none
  | .ingestFlit _ _ _ _ _ _ => none
  | .ingestHeldRecord _ => none
  | .exchangeArmed _ => none
  | .phaseStart _ => none
  | .phaseTimeout _ => none
  | .exchangeVectorArrival _ => none
  | .kstepBoundary _ => none
  | .matrixDeficitRaise => none
  | .sweepMark => none
  | .sweepCores => none
  | .sweepRecords => none
  | .sweepMemory => none
  | .sweepClose => none
  | .serviceCall _ => none
  | .launchCall => none
  | .bmread => none
  | .bmresume => none
  | .bmdrop => none
  | .serviceDeficitRaise => none
  | .partitionSwapOut _ _ => none
  | .partitionRestore _ _ => none
  | .partitionModeChange _ _ => none
  | .mappingShootdown _ _ _ _ => none
  | .vaultBlockAssign _ _ _ => none
  | .programLoad _ => none
  | .adapterSlotAllot _ _ _ _ _ => none
  | .nodeSplit _ => none
  | .nodeMerge _ => none
  | .nodeAllot _ _ => none
  | .nodeShare _ _ => none
  | .nodeRelease _ _ => none
  | .nodeLock _ => none
  | .nodeUnlock _ => none
  | .functionLevelReset _ => none
  | .vfEnableSet _ => none
  | .vfEnableClear => none
  | .serviceTenantReset _ => none
  | .resetGenerationAdvance _ => none
  | .chime => none
  | .leaderTakeover => none
  | .bringUp _ => none
  | .apertureMemoryRead _ _ _ _ _ => none
  | .apertureMemoryWrite _ _ _ _ => none
  | .apertureAtomicop _ _ _ _ _ _ _ => none
  | .counterApertureFetchadd _ _ _ _ => none
  | .mailboxDoorbell _ _ => none
  | .mediatedCompletion _ => none
  | .faultReportAnswer _ => none
  | .moheadWrite _ _ => none
  | .qerrClear _ => none
  | .bar0RegisterWrite _ _ _ _ => none
  | .portModeWrite _ _ _ => none
  | .binderrClear _ => none
  | .plimitWrite _ => none
  | .lockInterfaceRequest _ => none
  | .startInterfaceRequest _ => none
  | .stopInterfaceRequest _ => none
  | .quiesce _ => none
  | .unquiesce _ => none
  | .tdiConfigWrite _ => none
  | .ideTlpFailure _ _ => none
  | .ideKeyProgram _ _ _ => none
  | .kSetGo _ _ => none
  | .spdmRequest _ => none
  | .powerStateD3hot _ => none
  | .powerStateD0 _ => none
  | .firmwareActivation _ => none
  | .writeFlit _ _ _ _ => none
  | .caddFlit _ _ _ _ => none
  | .cmaxFlit _ _ _ _ => none
  | .creadFlit _ _ _ => none
  | .cwatchFlit _ _ _ _ => none
  | .cansFlit _ _ _ _ => none
  | .abortFlit _ _ _ _ _ => none
  | .linkctlFlit _ _ _ => none
  | .idleFlit _ _ => none
  | .flitReceiveError _ _ => none
  | .linkUp _ _ => none
  | .linkDown _ _ => none
  | .linkRekey _ => none
  | .powerSample _ _ _ => none
  | .clockStepChange => none
  | .illegalInsnWord _ => none
  | .instructionFetch => none
  | .packageReset => none
  | .priEnableWrite _ => none
  | .atomicopRequesterEnableWrite _ => none

/-- A word as its four bytes in memory, the first at the lowest address (R1, R35). -/
def wordBytes (w : Insn) : List Byte :=
  [w.extractLsb' 0 8, w.extractLsb' 8 8, w.extractLsb' 16 8, w.extractLsb' 24 8]

/-- The word of four bytes in memory, little-endian (R1, R35). -/
def bytesWord : List Byte → Option Insn
  | [b0, b1, b2, b3] => some (b3 ++ b2 ++ b1 ++ b0)
  | _ => none

/-- The instruction the decoder reads from bytes in memory. -/
def decodeBytes (bs : List Byte) : Option Instr :=
  match bytesWord bs with
  | some w => (decode w).toOption
  | none => none

/-- The instruction of an opcode-table word: its bits numbered from bit 0 of the first byte. -/
def decodeTableWord (nbits w : Nat) : Option Instr :=
  if nbits ≤ 32 then decodeBytes (wordBytes (BitVec.ofNat 32 w)) else none

end Sys2Proof
end

