-- ==== Sys2Proof/Machine/State.lean ====
section
/-! DEFINITION. The state of the package, its reasons to stop, and the state after package reset. Every field is plain
data. Tables over a large index range are sparse lists of (index, entry) pairs, an unlisted index holding the entry's
reset value. -/

namespace Sys2Proof.Machine

/-- A sparse table: (index, entry) pairs. -/
abbrev Table (α : Type) := List (Nat × α)

/-! ### A strand's registers (04 Table 1) -/

/-- A capability register: a 512-bit image, a tag and a revoked mark (R110, R115, R121). -/
structure CapReg where
  img : Vec := 0
  tag : Bool := false
  rev : Bool := false
  deriving DecidableEq, Repr

/-- The registers of one strand (R110). `bind k` is the stream descriptor of v24+k when it is bound (R232, R235). -/
structure Strand where
  x : Vector Word 32 := Vector.replicate 32 0
  c : Vector CapReg 16 := Vector.replicate 16 {}
  pcc : CapReg := {}
  pc : Word := 0
  v : Vector Vec 32 := Vector.replicate 32 0
  p : Vector Word 8 := Vector.replicate 8 0
  status : Word := 0
  livemask : Word := 0x0000FFFFFFFFFFFF#64
  faultinfo : Word := 0
  bind : Vector (Option Vec) 8 := Vector.replicate 8 none
  prio : BitVec 2 := 0
  lstamp : Nat := 0
  /-- The model's own: the number of the strand's launch, by which an engine knows the commands of one strand (R245; log 3). -/
  sid : Nat := 0
  deriving DecidableEq, Repr

/-! ### Bookmarks (10 R312 to R320) -/

/-- The wait kinds of 10 Table 2. -/
inductive WKind where
  | fault | new | counter | far | xlate | fetch | stream | slot | page | send | yield | preempt
  deriving DecidableEq, Repr

/-- The start registers of a fault-channel strand (R425). -/
structure FaultStart where
  x10 : Word
  x11 : Word
  x12 : Word
  x13 : Word
  c1 : CapReg
  c2 : CapReg
  faultinfo : Word
  deriving DecidableEq, Repr

/-- A bookmark or strand record (R312, R313): `strand` holds the registers it saved, every other one as R317 gives it
at a relaunch; `saved` is SAVED. `arg` is the argument unit of a NEW record, `comp` the spawner's compartment of one
made by SPAWN (R323), `start` the start registers of a fault-channel record (R425). The header's reserved bits, and a reserved
WKIND in it, are the service pair's writing. -/
structure Bookmark where
  strand : Strand := {}
  saved : BitVec 48 := 0
  kind : WKind := .new
  cause : BitVec 8 := 0
  wcap : BitVec 4 := 0
  warg : Word := 0
  gen : BitVec 8 := 0
  bind : Bool := false
  lcore : Nat := 0
  prio : BitVec 2 := 0
  task : BitVec 6 := 0
  arg : Option CapReg := none
  comp : Option (BitVec 16) := none
  start : Option FaultStart := none
  reserved : BitVec 26 := 0
  badKind : Option (BitVec 4) := none
  deriving DecidableEq, Repr

/-- Where the slots of a bookmark lie (R319, R320). -/
inductive Room where
  | reading (cluster : Nat) | closed | reserve | none
  deriving DecidableEq, Repr

/-- The data atomics (R227). -/
inductive AmoOp where
  | add | swap | xor | or | and | cas | min | max | minu | maxu
  deriving DecidableEq, Repr

/-- What a far access does when it reaches its memory (R216, R228, R282). -/
inductive FarOp where
  | load (size : Nat) (signed : Bool)
  | capLoad (ldc : Bool)
  | vecLoad (size n : Nat) (merge : Bool) (units : List (Nat × Nat))
  | atomic (op : AmoOp) (wide : Bool) (b expect : Word)
  | kread
  /-- The bytes of a store, by elements of a size: of one element where it is 0 (R225). -/
  | store (cells : List (Nat × Byte)) (size : Nat := 0)
  | capStore (img : Vec)
  deriving DecidableEq, Repr

/-- What holds a bookmark (10 Table 2). -/
inductive Holder where
  /-- A ready queue. -/
  | ready
  /-- A counter home: the cell's place and address, the threshold, the deposit number, spilled or not, marked for
  exchange or not (R271, R274, R376). -/
  | counter (cell va : Nat) (thr : Word) (dep : Nat) (spilled exch : Bool)
  /-- A far KWAIT or watch on its way to the home that `counterOps` names. -/
  | travelling (op : Nat)
  /-- The issuing core's access path: the address and what is done there. -/
  | far (va : Nat) (op : FarOp)
  /-- The cluster's TLB miss queue: the page's address and whether the access writes. -/
  | xlate (va : Nat)
  /-- The core's fetch unit. -/
  | fetch (line : Nat)
  /-- The core's stream unit. -/
  | stream (reg : Nat)
  /-- An engine: 0 to 127 transfer engines, 128 to 135 binderies, 136 the weeding engine. -/
  | slot (engine : Nat)
  /-- A page request group of the host interface (R211). -/
  | page (group : Nat)
  /-- A pending fault bookmark and its handle; escalated or not (R423, R428). -/
  | fault (handle : Nat) (escalated : Bool)
  deriving DecidableEq, Repr

/-- A held bookmark: its number, its home cluster, its ready stamp, its room, the c-cycle in which it entered its ready
queue (R328), the bound registers less 24 of which its far access consumed a strip (R225, R234), and the c-cycle by which a far
KREAD has its answer at the latest, 0 where its path has no bound (R499). The list of them is in the order of entry. -/
structure Held where
  id : Nat
  bm : Bookmark
  holder : Holder
  cluster : Nat
  stamp : Nat
  room : Room
  entered : Nat := 0
  took : List Nat := []
  due : Nat := 0
  deriving DecidableEq, Repr

/-! ### A logical core -/

/-- What an instruction raises (R13): its cause, its DETAIL (R146), and the pc of the bookmark where it is not the
instruction's own. -/
structure Trap where
  cause : BitVec 8
  detail : BitVec 56 := 0
  pc : Option Word := none
  deriving DecidableEq, Repr

/-- The states of 10 Table 9. -/
inductive CoreMode where
  | idle | loading | running | draining | saving
  deriving DecidableEq, Repr

/-- Where a place lies, and so which unit homes a counter there and which L2 slice a line (R196, R207, R265). -/
inductive Home where
  | spad (core : Nat) | vault (v : Nat) | slice (k : Nat) | channel (c : Nat) | hostSlice (k : Nat) | host
  | peer (port : Nat)
  deriving DecidableEq, Repr

/-- A place in the model's one memory list, and its home. -/
structure Place where
  flat : Nat
  home : Home
  deriving DecidableEq, Repr

/-- What a posted entry does at its home (R217, R278). -/
inductive PostOp where
  | data (cells : List (Place × Byte))
  | cap (place : Place) (img : Vec) (tag : Bool)
  | atomic (place : Place) (op : AmoOp) (wide : Bool) (b expect : Word)
  | counter (place : Place) (max : Bool) (arg : Word)
  deriving DecidableEq, Repr

/-- An entry of a posted-store queue, oldest first; `no` numbers it in program order and `va` is its address for
DETAIL (R217, R218), `vas` the addresses it has translated. `sent` names the request in flight of a host- or peer-homed
counter operation; a counter operation reaches its home by c-cycle `due` at the latest, 0 where its path has no bound, or once it
waits at its home (R499). -/
structure Posted where
  no : Nat
  va : Nat
  vas : List Nat := []
  op : PostOp
  tenant : Nat
  gen : BitVec 8
  sent : Option Nat := none
  due : Nat := 0
  deriving DecidableEq, Repr

/-- An instruction-cache line (R62, R63, R379): `base` is its device virtual address div 64, `held` the strands it is
held for, and `lead` the three bytes before it as they stood when it was filled, for a word that reaches into it, where the
tenant could fetch them then (R64). -/
structure ILine where
  tenant : Nat
  gen : BitVec 8
  base : Nat
  data : Vec
  lead : Option (BitVec 24) := none
  held : List Nat := []
  phase : Bool := false
  deriving DecidableEq, Repr

/-- The contents of a strip (R233, R234): its bytes, or the cause and DETAIL it is marked for. -/
inductive StripData where
  | ok (bytes : Vec) | marked (cause : BitVec 8) (detail : BitVec 56)
  deriving DecidableEq, Repr

/-- A strip in the core's buffers (R234): register less 24, position and contents; `owner` is 0 for the running strand,
else the number of the STREAM bookmark that waits for it. -/
structure Strip where
  reg : Nat
  pos : Nat
  data : StripData
  owner : Nat := 0
  deriving DecidableEq, Repr

/-- Where a core stands in a timed exchange (R376 to R380). -/
inductive Phase where
  | none
  /-- Its own EXPH was satisfied, or its marked bookmark was released: it arms for the gate. -/
  | arming (gate : Nat)
  /-- It has reported READY. -/
  | armed (gate : Nat)
  /-- GO was sent: the phase begins at the cycle. -/
  | starting (gate start : Nat)
  /-- Inside the phase that began at the cycle. -/
  | inside (gate start : Nat)
  deriving DecidableEq, Repr

/-- An entry of a task table (R390). -/
structure TaskEntry where
  codetag : Bool := false
  code : Vec := 0
  v : Bool := false
  blk : Bool := false
  prio : BitVec 2 := 0
  tenant : BitVec 10 := 0
  comp : BitVec 16 := 0
  entry : BitVec 34 := 0
  deriving DecidableEq, Repr

/-- An entry of a residency table (R402). -/
structure Residency where
  v : Bool := false
  tenant : Nat := 0
  gen : BitVec 8 := 0
  deriving DecidableEq, Repr

/-- One logical core and the units beside it (R26). -/
structure Core where
  mode : CoreMode := .idle
  strand : Strand := {}
  /-- The strand's posted-store queue, oldest first, and the failures its next drain point raises (R217, R218). -/
  posted : List Posted := []
  failed : List (Nat × BitVec 8 × Nat) := []
  icache : List ILine := []
  /-- Line addresses the fetch unit has been asked for beside those of FETCH bookmarks (R62). -/
  prefetches : List Nat := []
  /-- The line fetched from last (R62). -/
  lastLine : Option Nat := none
  strips : List Strip := []
  /-- By bound register less 24, the number that the stores before its SBIND lie below (R233). -/
  boundAt : Vector Nat 8 := Vector.replicate 8 0
  phase : Phase := .none
  /-- The barrier domain of the phase the core is armed for or in (R375, R387). -/
  domain : BitVec 1024 := 0
  /-- Marked bookmarks of this core whose wait was released: their numbers and gates (R377). -/
  released : List (Nat × Nat) := []
  rxbuf : List (Nat × Vec) := []
  overrun : Bool := false
  sentSlot : Option Nat := none
  /-- MODE and ABSENT of the partition register (R188). -/
  pmode : BitVec 2 := 0
  absent : BitVec 4 := 0
  residency : Vector Residency 4 := Vector.replicate 4 {}
  /-- Holders of absent partitions whose index another tenant has meanwhile, with that index (R191, R397). -/
  away : List (Nat × Residency) := []
  /-- Tenants whose restore a held access of a strand, or an MSEND, has asked for (R191). -/
  asked : List Nat := []
  /-- The deficits of those tenants (R503). -/
  awayDef : Table Int := []
  owner : Word := 0
  tasks : Table TaskEntry := []
  deficit : Vector Int 4 := Vector.replicate 4 0
  /-- The cycle at which the strand left LOADING (R429). -/
  runStart : Nat := 0
  preemptReq : Bool := false
  /-- The service pair has found a strand of the core in the way of a swap, a mode change, a lock or a node release (R429). -/
  svcWant : Bool := false
  /-- The instruction in execution waits resident, and which it is (R430). -/
  waiting : Bool := false
  inExec : Option Instr := none
  /-- The exception that the waiting instruction has raised, taken once the posted stores are drained (R13, R218). -/
  trap : Option Trap := none
  /-- The number of the bookmark that the running strand was launched from. -/
  runId : Nat := 0
  rescan : Bool := false
  /-- The first c-cycle the next instruction may issue in (when idle again after SAVING), the cycles at which register
  results are ready, and the cycle at which the divider is free (R152, R161, R185, R332). -/
  nextIssue : Nat := 0
  ready : Table Nat := []
  divFree : Nat := 0
  deriving DecidableEq, Repr

/-! ### Engines, homes and jobs -/

/-- The operations of engine commands (07 Table 6). -/
inductive CmdOp where
  | copy | gath | scat | fill | red (op : RedOp) | cryp | bind | flush | inval
  deriving DecidableEq, Repr

/-- Where a command stands: waiting for a turn, parked for a page (R211), held at an absent partition (R191), waiting for the
answers to its adds at its end, or at a stop with its cause (R241). -/
inductive CmdState where
  | queued | parked (group va : Nat) | held (va : Nat) | finishing
  | stopping (cause : BitVec 8) (detail : BitVec 56) (resumable : Bool)
  deriving DecidableEq, Repr

/-- An engine command record (R238, R241, R252). -/
structure Cmd where
  id : Nat
  engine : Nat
  op : CmdOp
  perCmd : Bool
  dst : CapReg
  src : CapReg
  idx : CapReg
  ctr : CapReg
  val : Word
  tenant : Nat
  gen : BitVec 8
  comp : BitVec 16
  lcore : Nat
  state : CmdState := .queued
  walk : Nat := 0
  /-- Bytes written, bytes covered by adds sent, bytes of adds applied (R241). -/
  written : Nat := 0
  covered : Nat := 0
  applied : Nat := 0
  /-- The key block read at the start of an XCRYP (R251), the additional data and ciphertext read so far, oldest first, and
  whether its tag has matched (R252). -/
  key : Option Vec := none
  cipher : List Byte := []
  tagOk : Bool := false
  /-- The strand that issued it, and whether it has started (R245). -/
  sid : Nat := 0
  started : Bool := false
  deriving DecidableEq, Repr

/-- A faulted command record (R243): pending until resumed, abandoned, dropped or reset. -/
structure FaultedCmd where
  handle : Nat
  cmd : Cmd
  cause : BitVec 8
  detail : BitVec 56
  resumable : Bool
  live : Bool
  escalated : Bool
  deriving DecidableEq, Repr

/-- What a counter operation does at its home (R268, R283, R288). -/
inductive CtrKind where
  | add (amount : Word) | max (candidate : Word) | wait (thr : Word) (bm : Nat)
  /-- A CREAD of a peer, and a CWATCH by the tenant number and generation that it names (R288, R459). -/
  | read | watch (thr : Word) (func : BitVec 10) (gen : BitVec 8)
  /-- A WRITE flit of a peer, in its port's order with the counter flits (R310, R459). -/
  | write (off : BitVec 46) (data : List Byte)
  /-- The abort record of a peer's function, in the same order (R438). -/
  | abort (func : BitVec 10)
  deriving DecidableEq, Repr

/-- Who made a counter operation, and so who learns of its outcome (R241, R277, R417, R459). -/
inductive CtrOrigin where
  | engine (cmd : Nat) (bytes : Nat)
  | sweep
  | strand
  | remote (port : Nat) (op : Nat)
  | posted (core : Nat)
  /-- A FetchAdd of the host on the counter aperture (R444). -/
  | aperture (fn : Nat)
  deriving DecidableEq, Repr

/-- A counter operation on its way to a home, which it reaches by c-cycle `due` at the latest; 0 where its path has no bound, or once
it waits at its home (R499). -/
structure CtrOp where
  id : Nat
  place : Nat
  va : Nat
  kind : CtrKind
  tenant : Nat
  gen : BitVec 8
  origin : CtrOrigin
  due : Nat := 0
  deriving DecidableEq, Repr

/-- The steps of a request of the part to a host-homed cell (08 Table 9, R286, R287). -/
inductive HostReq where
  | fetchAdd (amount : Word) | readForMax (candidate : Word) | cas (old new : Word) (candidate : Word)
  | readForWait (bm : Nat) | poll | readValue (bm : Nat) | readForWatch (thr : Word) (func : BitVec 10) (gen : BitVec 8)
  | mediated (seq : BitVec 16) (kind : CtrKind)
  /-- An AtomicOp of a data atomic of a strand on the host window (R228). -/
  | dataAtomic (bm : Nat)
  deriving DecidableEq, Repr

/-- A request of the part to host memory that is in flight. -/
structure HostOp where
  id : Nat
  place : Nat
  va : Nat
  tenant : Nat
  gen : BitVec 8
  req : HostReq
  origin : CtrOrigin
  held : Bool
  deriving DecidableEq, Repr

/-- A host-homed cell the home polls: its place, the interval and the TIME of the next poll (R286). -/
structure Poll where
  place : Nat
  tenant : Nat
  every : Nat
  next : Nat
  deriving DecidableEq, Repr

/-- A spilled-waiter read in progress at a home (R274): the operation released these bookmarks, all released when the
last batch has been read, by c-cycle `due` at the latest. -/
structure SpillRead where
  cell : Nat
  order : List Nat
  due : Nat := 0
  deriving DecidableEq, Repr

/-- A watch registered here for a peer, on a cell that tenant `owner` exports, at its device virtual address (R288, R459); `ans` is the
value that has satisfied it, while its answer is held with its owner's traffic (R452). -/
structure Watch where
  port : Nat
  owner : Nat
  func : BitVec 10
  gen : BitVec 8
  cell : Nat
  thr : Word
  op : Nat
  va : Nat := 0
  deriving DecidableEq, Repr

/-- Where a job's accumulator values are (R368). -/
inductive Bank where
  | notStarted | bank (n : Nat) | spilled (n : Nat)
  deriving DecidableEq, Repr

/-- A matrix job record (R363 to R372). -/
structure Job where
  id : Nat
  engine : Nat
  seq : BitVec 16
  tenant : Nat
  gen : BitVec 8
  comp : BitVec 16
  desc : CapReg
  control : Vec
  a : CapReg
  b : CapReg
  scale : CapReg
  cc : CapReg
  /-- The pair capability of a group-scaled B slot (R356, R364). -/
  pair : CapReg := {}
  accepted : Nat
  lastRun : Nat
  bank : Bank := .notStarted
  /-- The accumulator values of the current block, row-major, as FP32 bits. -/
  acc : List (BitVec 32) := []
  block : Nat := 0
  kstep : Nat := 0
  flags : BitVec 6 := 0
  /-- The c-cycle of the boundary that ends what the job does now, 0 before its first k-step, and the elements of the
  current block written so far (R365, R367). -/
  due : Nat := 0
  wrote : Nat := 0
  stop : BitVec 8 := 0
  revokedDesc : Bool := false
  deriving DecidableEq, Repr

/-- One matrix engine: jobs accepted since package reset, who had the turn, the m-cycles of that turn, the tenants' deficits, and the
m-cycles charged so far that are not over: tenant, first, and the one after the last (R363, R371). -/
structure MxEngine where
  count : BitVec 16 := 0
  turn : Nat := 0
  turnCycles : Nat := 0
  running : Option Nat := none
  deficit : Table Int := []
  busy : List (Nat × Nat × Nat) := []
  deriving DecidableEq, Repr

/-- One transfer engine or bindery: the last turn's tenant, the bytes left of a turn that has begun and its command, and the tenants'
deficits (R246). -/
structure XferEngine where
  last : Nat := 513
  left : Nat := 0
  cmd : Nat := 0
  deficit : Table Int := []
  deriving DecidableEq, Repr

/-- A vector on the exchange plane (R383). -/
structure Flight where
  id : Nat
  core : Nat
  sender : Nat
  due : Nat
  data : Vec
  deriving DecidableEq, Repr

/-- A gate: its cell, its tenant, the barrier domain that its READY count is held against, the count since the last start,
and the start it has sent (R377, R387). -/
structure Gate where
  cell : Nat
  tenant : Nat
  mask : BitVec 1024
  ready : Nat
  start : Option Nat
  deriving DecidableEq, Repr

/-! ### Tables of the part (12) -/

/-- A tenant-table entry (R400). -/
structure Tenant where
  barrier : BitVec 1024 := 0
  mxw : Table (BitVec 8) := []
  class0 : BitVec 128 := 0
  nodes : List (BitVec 11) := []
  ctbase : Nat := 0
  ctlen : Nat := 0
  callw : BitVec 8 := 0
  xferw : BitVec 8 := 0
  dispw : BitVec 8 := 0
  steal : Nat := 0
  slippage : Nat := 0
  cssize : Nat := 0
  csbase : Nat := 0
  ptroot : Nat := 0
  v : Bool := false
  conf : Bool := false
  gen : BitVec 8 := 0
  sweepPending : Bool := false
  deriving DecidableEq, Repr

/-- The states of a buddy-tree node (R397). -/
inductive NodeState where
  | free | split | allotted
  deriving DecidableEq, Repr

/-- A node state entry (R397). -/
structure Node where
  state : NodeState := .free
  lock : Bool := false
  sharers : BitVec 8 := 0
  deriving DecidableEq, Repr

/-- An adapter slot entry (R406). -/
structure Slot where
  dbase : Nat := 0
  dsize : Nat := 0
  vault : BitVec 7 := 0
  hot : Bool := false
  adid : BitVec 48 := 0
  comp : BitVec 16 := 0
  cgen : BitVec 16 := 0
  tgen : BitVec 8 := 0
  tenant : Nat := 0
  claimed : Bool := false
  allot : Bool := false
  deriving DecidableEq, Repr

/-- A vault block map entry (R194). -/
structure Block where
  v : Bool := false
  tenant : Nat := 0
  gen : BitVec 8 := 0
  deriving DecidableEq, Repr

/-- A request at the weeding engine (R415): the region, the counter and, once withdrawn, no completion add. -/
structure WeedReq where
  base : Nat
  len : Nat
  ctr : CapReg
  tenant : Nat
  gen : BitVec 8
  comp : BitVec 16
  lcore : Nat
  swept : Bool
  withdrawn : Bool
  deriving DecidableEq, Repr

/-- The phase the running sweep has completed (R416). -/
inductive Sweep where
  | none | marked | coresDone | recordsDone | memoryDone
  deriving DecidableEq, Repr

/-! ### Translation, the L2 and the host's side -/

/-- A TLB entry (R206): its structure (cluster, or 128 + die), tenant, generation, page base, page size and leaf. -/
structure TlbEntry where
  unit : Nat
  tenant : Nat
  gen : BitVec 8
  base : Nat
  size : Nat
  pte : Word
  deriving DecidableEq, Repr

/-- An L2 line (R208): its slice, its place in the memory list, tenant, generation, tag, dirty bit and data. -/
structure L2Line where
  slice : Nat
  place : Nat
  tenant : Nat
  gen : BitVec 8
  tag : Bool
  dirty : Bool
  data : Vec
  deriving DecidableEq, Repr

/-- A byte that a write has replaced, as an engine may still read it to which no order has carried the write (R292, R304, R306): the
engine, the tenant, the place, the older byte, and whether the host has written. -/
structure OldByte where
  unit : Nat
  tenant : Nat
  flat : Nat
  byte : Byte
  host : Bool := false
  deriving DecidableEq, Repr

/-- An entry of the address translation cache (R210): a 4 KiB page of a function's I/O addresses and its permission. -/
structure AtcEntry where
  fn : Nat
  page : Nat
  perm : BitVec 2
  deriving DecidableEq, Repr

/-- A stream refill that waits for a page (R211, R234): the core, the register less 24, the number that the strand was launched
from or of its STREAM bookmark, the number of the binding (`Core.boundAt`), and the strip's position and failing element's
address. -/
structure StripReq where
  core : Nat
  reg : Nat
  run : Nat
  bound : Nat := 0
  pos : Nat
  va : Nat
  deriving DecidableEq, Repr

/-- A page-table walk in progress on a die (R206). -/
structure Walk where
  die : Nat
  tenant : Nat
  gen : BitVec 8
  va : Nat
  deriving DecidableEq, Repr

/-- An outstanding page request (R211): its group, function, page and the permission asked for; issued or waiting; and the
stream refills that it serves. -/
structure PageReq where
  group : Nat
  fn : Nat
  gen : BitVec 8
  page : Nat
  perm : BitVec 2
  issued : Bool
  strips : List StripReq := []
  deriving DecidableEq, Repr

/-- The image of a swapped-out partition in the partition image area of its tenant's heap, which the spec gives no place (R191;
log 18): its bytes, tagged granules, failing 512-byte units and the append cycles of its inbox slots (R324), by partition
offset. -/
structure Image where
  tenant : Nat
  core : Nat
  cells : List Host.Cell
  tags : List Nat
  bad : List Nat := []
  stamps : Table Nat := []
  deriving DecidableEq, Repr

/-- The states of a TDI (R450). -/
inductive Tdi where
  | unlocked | locked | run | error | quiesced
  deriving DecidableEq, Repr

/-- A selective IDE stream (R453, R455): key sets 0 and 1 programmed, the set in use, and Secure or not. -/
structure IdeStream where
  keys : BitVec 2 := 0
  current : Nat := 0
  secure : Bool := false
  deriving DecidableEq, Repr

/-- The steps of a tenant reset in progress (R433). -/
inductive ResetStep where
  | idle
  /-- Step 1 is done: the generation has still to advance. -/
  | refusing (trigger : Nat)
  deriving DecidableEq, Repr

/-- A flit sent, as first sent: its number, ACK and CRED, the sending tenant and its generation, type and payload words, and how often
in a row it has been resent (R456, R457). -/
structure Flit where
  no : Nat
  ack : BitVec 12 := 0
  cred : BitVec 8 := 0
  func : BitVec 10 := 0
  gen : BitVec 8 := 0
  type : BitVec 8
  payload : List Word
  resent : Nat := 0
  deriving DecidableEq, Repr

/-- An error log entry (14 Table 13). -/
structure LogEntry where
  time : Word
  kind : BitVec 8
  die : BitVec 8
  unit : BitVec 16
  func : BitVec 16
  addr : Word
  arg : Word
  deriving DecidableEq, Repr

/-- What the host interface holds for one function (R444 to R453, R466 to R471). -/
structure Fn where
  bootErr : BitVec 8 := 0
  qerr : Bool := false
  resetting : Bool := false
  ready : Bool := false
  apbase : Word := 0
  cbase : Word := 0
  lqbase : Word := 0
  lqtail : BitVec 16 := 0
  lqhead : BitVec 16 := 0
  /-- The page request that the launch slot read now waits for, and whether one was denied (R211, R321). -/
  lqWait : Option Nat := none
  lqDenied : Bool := false
  mobase : Word := 0
  motail : BitVec 16 := 0
  mohead : BitVec 16 := 0
  mibase : Word := 0
  mitail : BitVec 16 := 0
  mihead : BitVec 16 := 0
  accepted : Word := 0
  refused : Word := 0
  ignored : Word := 0
  preempts : Word := 0
  /-- Corrected soft errors of the package, kept with function 0 (R471). -/
  softerr : Word := 0
  loghead : BitVec 16 := 0
  log : List LogEntry := []
  tdi : Tdi := .unlocked
  d3hot : Bool := false
  ide : Vector IdeStream 2 := Vector.replicate 2 {}
  noAtomics : Bool := false
  priOff : Bool := false
  /-- ATS Invalidate Requests not answered yet, each with the requests it waits for, and the Invalidation Completions answered
  (R210). -/
  invals : List (List Nat) := []
  invalsDone : Nat := 0
  /-- Messages held for a full outgoing ring, oldest first, and the next SEQ (R449). -/
  outbox : List (BitVec 512) := []
  seq : BitVec 16 := 0
  reset : ResetStep := .idle
  /-- A reset of the physical function that waits for a virtual function's (R435), and a STOP to be answered (R450). -/
  flrWaits : Bool := false
  stopping : Bool := false
  /-- The reset in progress has merged with a Function Level Reset, which unlocks the TDI (R435, R450); the virtual function is gone
  with its end, and the entry that VF Enable has it built with (R447). -/
  unlock : Bool := false
  vfGone : Bool := false
  rebuild : Option TenantInit := none
  /-- The vectors signalled so far, newest first (R442), and those held with the function's other requests (R452). -/
  msix : List Nat := []
  msixHeld : List Nat := []
  /-- CANS flits held with the function's other traffic, oldest first: the port and the payload (R452, R459). -/
  cans : List (Nat × List Word) := []
  deriving DecidableEq, Repr

/-- How a TDISP request is answered (R450). -/
inductive TdispCode where
  | success | invalidRequest | invalidInterfaceState
  deriving DecidableEq, Repr

/-- What the last host or SPDM request was answered with (R442, R444, R450, R463). -/
inductive Answer where
  | none | data (bytes : List Byte) | unsupported | aborted | held
  | tdisp (code : TdispCode) | loaded (status : BitVec 8) | signed (sig : BitVec 912) (report : List (BitVec 512))
  deriving DecidableEq, Repr

/-- A request of the host on an aperture, or a WRITE of a peer, at the device virtual address it had when it arrived (R444,
R459). -/
inductive ApertureReq where
  | read (va len : Nat) | cell (va : Nat) | write (va : Nat) (data : List Byte)
  | atomic (va : Nat) (op : HostAtomic) (wide : Bool) (a b : Word)
  deriving DecidableEq, Repr

/-- A host request held for an absent partition (R191, R444). -/
structure HeldReq where
  tenant : Nat
  core : Nat
  req : ApertureReq
  deriving DecidableEq, Repr

/-! ### Odpa ports (14 R456 to R462) -/

/-- An entry of a port's export table (R459). -/
structure Export where
  v : Bool := false
  data : Bool := false
  tenant : Nat := 0
  gen : BitVec 8 := 0
  peer : BitVec 10 := 0
  peerGen : BitVec 8 := 0
  base : Nat := 0
  len : Nat := 0
  deriving DecidableEq, Repr

/-- A counter operation sent to the peer and not answered yet (R288, R458). -/
structure PeerOp where
  id : Nat
  tenant : Nat
  gen : BitVec 8
  off : Nat
  place : Nat
  va : Nat
  kind : CtrKind
  read : Option Nat
  watch : Bool
  origin : CtrOrigin
  /-- The peer's answer, while the function's traffic is held (R452). -/
  answer : Option CansAnswer := none
  deriving DecidableEq, Repr

/-- A record being assembled or held by an ingest port (R346, R347, R461). -/
structure IngestRec where
  units : List Vec := []
  want : Nat := 0
  deriving DecidableEq, Repr

/-- One Odpa port. `peerArea` is the length of the counter area the peer exports, by tenant (R267). -/
structure Port where
  mode : BitVec 2 := 0
  enc : Bool := true
  tenant : Nat := 0
  ringva : Word := 0
  bindErr : Bool := false
  up : Bool := false
  downCause : BitVec 3 := 0
  rxflits : Word := 0
  txseq : Nat := 0
  rxseq : Nat := 0
  /-- Flits retained for a resend, oldest first (R457). -/
  retained : List Flit := []
  /-- ACK and the sum of CRED as received, the credits that the next flits sent return, and whether a gap has been answered with a NAK
  (R456, R457). -/
  acked : BitVec 12 := 0
  peerCred : Nat := 0
  owed : Nat := 0
  nakked : Bool := false
  rekeys : Nat := 0
  exports : Table Export := []
  pending : List PeerOp := []
  /-- Functions whose abort records have arrived, with the generation that is refused since, and those whose exported area is
  closed (R438). -/
  closedTo : List (BitVec 10 × BitVec 8) := []
  closedAreas : List (BitVec 10) := []
  asm : Option IngestRec := none
  skipping : Bool := false
  waiting : List (List Vec) := []
  /-- Units that the link partner may still send, and FREE as far as its rise has been returned as credits (R349). -/
  credits : Nat := 0
  freeSeen : Word := 0
  ringGen : BitVec 8 := 0
  deriving DecidableEq, Repr

/-! ### The service side (01 R28 to R30, 10 R340, 12 R404, 13 R428 to R441) -/

/-- A queued call, or an escalated fault (R340, R428). -/
structure Call where
  id : Nat
  tenant : Nat
  gen : BitVec 8
  comp : BitVec 16
  word : Word
  cap : CapReg
  slip : Option Nat
  fault : Option Nat
  /-- The page request that the call waits for, and whether one was denied (R211, R321). -/
  wait : Option Nat := none
  denied : Bool := false
  deriving DecidableEq, Repr

/-- A service pair (R28, R29, R151, R440). -/
structure Pair where
  passed : Bool := false
  halted : Bool := false
  lost : Bool := false
  /-- The pair has failed: it sends no chime any more (R440). -/
  failed : Bool := false
  pc : Word := 0
  x : Vector Word 32 := Vector.replicate 32 0
  regs : Table Word := []
  deriving DecidableEq, Repr

/-- A Curator, as far as it executes instructions (R151). -/
structure Curator where
  pc : Word := 0
  x : Vector Word 32 := Vector.replicate 32 0
  deriving DecidableEq, Repr

/-- A tenant's slip page: the next cell to issue, the cells in use and those collected (R341). -/
structure Slips where
  next : Nat := 0
  used : List Nat := []
  collected : List Nat := []
  deriving DecidableEq, Repr

/-- The service side. -/
structure Service where
  pairs : Vector Pair 2 := Vector.replicate 2 {}
  curators : Vector Curator 2 := Vector.replicate 2 {}
  leader : Option Nat := none
  lastChime : Nat := 0
  calls : List Call := []
  active : Option Call := none
  /-- The TIME from which the active call's service time is not charged yet (R404). -/
  since : Nat := 0
  /-- Shootdowns asked for and not ended: tenant, address, place of the entry, and the entry (R213). -/
  shootdowns : List (Nat × Nat × Nat × Word) := []
  slips : Table Slips := []
  /-- The deficits of the tenants in service time, in ticks of 10 ns (R404, R503). -/
  deficit : Table Int := []
  remap : List (List (BitVec 16)) := []
  remapLocked : Bool := false
  sessions : Word := 0
  svnNow : Option (BitVec 16) := none
  digests : Table Vec := []
  vfEnabled : Nat := 0
  booted : Bool := false
  /-- The service side has stopped: no service pair is left, and the part reports an uncorrectable internal error through PCI
  Express and refuses every launch (R441). -/
  stopped : Bool := false
  deriving DecidableEq, Repr

/-- Power and clock control (R465, R470). -/
structure Power where
  plimit : BitVec 16 := 600
  pavg : BitVec 16 := 0
  step : BitVec 3 := 0
  throttled : Bool := false
  hot : Bool := false
  temp0 : BitVec 16 := 0
  temp1 : BitVec 16 := 0
  changes : BitVec 32 := 0
  /-- The last 100 samples, newest first (1 ms of samples taken every 10 us), and how long the average has been below
  95 % of the limit, in samples. -/
  samples : List Nat := []
  below : Nat := 0
  want : Option (BitVec 3) := none
  deriving DecidableEq, Repr

/-- An entry that a core has taken from a ready queue: the c-cycle, the core, and where it stood among the held bookmarks (R328). -/
structure Taken where
  cycle : Nat
  core : Nat
  index : Nat
  entry : Held
  deriving DecidableEq, Repr

/-! ### Who acts next (the model's own; log 1) -/

/-- The agent whose instruction executes: a strand, a service pair or a Curator (R51, R151). -/
inductive Agent where
  | strand | service (die : Nat) | curator (die : Nat)
  deriving DecidableEq, Repr

/-- What happens outside the part, by itself or by the service pair's doing, and is no row of the opcode table. -/
inductive HostAct where
  /-- The host's processors write bytes of a function's host memory (R212, R309, R310). -/
  | write (fn io : Nat) (data : List Byte)
  /-- The host completes, or no longer completes, reads of a page of a function with an error (R216, R243, R421). -/
  | failReads (fn page : Nat) (fails : Bool)
  /-- A soft error corrected in an SRAM: the tenant it concerns, if any, the die, the unit and the address (R199). -/
  | softError (func : Option Nat) (die : BitVec 8) (unit : BitVec 16) (addr : Word)
  /-- An uncorrectable error in a 512-byte unit of memory (R200). -/
  | failUnit (unit : Nat)
  /-- An interrupt or a chime timer event of a service pair's own (R151). -/
  | interrupt (die : Nat)
  /-- The service pair writes reserved bits, or a reserved wait kind, into the header of a queued bookmark (R313). -/
  | header (id : Nat) (reserved : BitVec 26) (kind : Option (BitVec 4))
  /-- A device OS call rewrites a task entry, naming its BLK or not (R391, R392). -/
  | taskWrite (core : Nat) (index : BitVec 6) (e : TaskEntry) (blk : Bool)
  /-- The service pair rewrites the fields of a tenant entry within their rules (R400, R401). -/
  | tenantWrite (i : TenantInit)
  /-- The service pair writes CONF of a tenant entry, which only the Curator may (R9, R400). -/
  | confWrite (tenant : Nat) (conf : Bool)
  /-- The service pair writes a compartment-table entry of a tenant (R393). -/
  | compWrite (tenant : Nat) (comp : BitVec 16) (entry : Word)
  /-- The service pair writes an entry of a port's export table, on a device OS call of the exporting tenant (R459). -/
  | exportWrite (port index : Nat) (e : Export)
  /-- The service pair sends a WRITE flit on a device OS call of a tenant; the peer has refused one (R459). -/
  | sendWrite (port tenant : Nat) (addr : BitVec 46) (data : List Byte)
  | writeRefused (port : Nat) (addr : BitVec 46)
  /-- A service pair fails (R29, R440). -/
  | pairFails (die : Nat)
  /-- A host request that uses an absent feature: to BAR 4 of another kind than R444's read and FetchAdd, to BAR 2 a 128-bit CAS, to
  BAR 0 an AtomicOp (R442, R444). -/
  | barOther (fn bar : Nat) (ide : IdeTag)
  /-- An engine moves a number of bytes of its turn at most, and goes on with that turn later (R246). -/
  | partTurn (engine bytes : Nat)
  /-- From now on, or no longer, an engine's commands read what was written before wherever no order has carried a write to it (R245,
  R292, R304, R306; log 16). -/
  | late (engine : Nat) (on : Bool)
  /-- A function of the peer exports its counter area again (R438). -/
  | peerExport (port : Nat) (func : BitVec 10)
  deriving DecidableEq, Repr

/-- What a turn runs: the strand of a core, an event of the opcode table, an instruction of the service side, or what the host
does. -/
inductive Actor where
  | core (k : Nat) | event (i : Instr) | unit (a : Agent) (i : Instr) | host (a : HostAct)
  deriving DecidableEq, Repr

/-- A turn: c-cycles that pass first, and who then acts. -/
structure Turn where
  wait : Nat := 0
  actor : Actor
  deriving DecidableEq, Repr

/-! ### The package -/

/-- The state of the package. -/
structure State where
  /-- c-cycles since package reset, and TIME in 1/12,600 of a tick (R147, R148, R465). -/
  cycle : Nat := 0
  timeAcc : Nat := 0
  cores : Table Core := []
  /-- All memory: device memory, scratchpads, vaults and host memory, at the places of Config (R186, R195, R204). -/
  mem : List Host.Cell := []
  /-- The tagged granules: their places div 64, rising (R120, R201). -/
  tags : List Nat := []
  /-- The 512-byte units whose integrity code or ECC fails: their places div 512 (R200). -/
  badUnits : List Nat := []
  l2 : List L2Line := []
  /-- Dirty lines of host memory that have left the L2 while their function's requests are held, oldest first: the host interface
  holds the writes (R207, R452). -/
  heldWrites : List L2Line := []
  tlb : List TlbEntry := []
  atc : List AtcEntry := []
  hostPerm : List AtcEntry := []
  /-- The pages of functions whose reads the host completes with an error. -/
  hostFails : List (Nat × Nat) := []
  /-- The walks in progress, and by die the tenant that a walker last went to (R206). -/
  walks : List Walk := []
  walkTurn : Table Nat := []
  /-- Whose key the frames of program memory were last written under, by frame number (R197, R214). -/
  frames : Table (Nat × BitVec 8) := []
  /-- The model's own: the engines that at present see writes late, and what they may still read (R292, R306; log 16). -/
  late : List Nat := []
  old : List OldByte := []
  pageReqs : List PageReq := []
  images : List Image := []
  blocks : Table Block := []
  bms : List Held := []
  counterOps : List CtrOp := []
  hostOps : List HostOp := []
  /-- The c-cycle of the last append into an inbox slot, by the slot's place (R324). -/
  slotStamps : Table Nat := []
  polls : List Poll := []
  /-- The home words of host-homed cells, as their homes read them at the first need (R285). -/
  hostWords : Table Word := []
  spillReads : List SpillRead := []
  /-- By home, the c-cycle in which it last sent a released bookmark (R273). -/
  sends : List (Home × Nat) := []
  /-- The entries that cores have taken in this c-cycle, in their order (R328). -/
  taken : List Taken := []
  watches : List Watch := []
  cmds : List Cmd := []
  faulted : List FaultedCmd := []
  xfer : Table XferEngine := []
  jobs : List Job := []
  mx : Table MxEngine := []
  flights : List Flight := []
  gates : List Gate := []
  tenants : Table Tenant := []
  nodes : Table Node := []
  slots : Table Slot := []
  weeds : List WeedReq := []
  sweep : Sweep := .none
  /-- The c-cycle in which the second phase of the sweep began (R416). -/
  sweepFrom : Nat := 0
  fns : Table Fn := []
  ports : Table Port := []
  heldReqs : List HeldReq := []
  answer : Answer := .none
  pkgLog : List LogEntry := []
  service : Service := {}
  power : Power := {}
  /-- The model's own: the core whose strand executes, who executes, and the turns to be taken (log 1). -/
  cur : Nat := 0
  agent : Agent := .strand
  schedule : List Turn := []
  /-- The model's own: the raises made at this instant (bit 0 dispatcher, 1 engines, 2 matrix engines, 3 service), and the turns
  taken so far (log 1). -/
  raised : BitVec 4 := 15
  tick : Nat := 0
  /-- The model's own: the counter applied to the free values, and the next number of a record (log 3). -/
  fresh : Nat := 0
  nextId : Nat := 1
  nextHandle : Nat := 1
  deriving DecidableEq, Repr

/-- Why the machine stops with a fault: there is no reason. Faults of strands and of the service pairs are taken as exceptions,
and those of engines, homes and jobs end in records. -/
inductive Fault where
  deriving DecidableEq, Repr

/-- Why the machine gives an instruction no meaning. -/
inductive Refusal where
  /-- An instruction that the model does not cover, by its mnemonic (safe). -/
  | notModelled (mnemonic : String)
  /-- An instruction that the spec gives no meaning for the agent that executes it: a service pair or a Curator
  executes an instruction of strands, whose effect there the spec does not give (safe). -/
  | notOfThisAgent
  deriving DecidableEq, Repr

/-- The package as it leaves package reset (R10, R29, R113, R147): no strand runs, nothing is queued, every table and
register field is at the reset value of its map, and a register the spec gives no reset value is zero (log 5). -/
def State.reset : State := {}

end Sys2Proof.Machine
end

