-- ==== Sys2Proof/Machine/Bits.lean ====
section
/-! DEFINITION. Sparse tables, the memory list, and the bit-field and byte-order helpers (00 R1, R2, R12). -/

namespace Sys2Proof.Machine

/-! ### Sparse tables -/

/-- The entry at index k, or d where none is listed. -/
def Table.get {α : Type} (t : Table α) (k : Nat) (d : α) : α :=
  match t with
  | [] => d
  | (i, a) :: r => if i = k then a else Table.get r k d

/-- The table without index k. -/
def Table.del {α : Type} (t : Table α) (k : Nat) : Table α :=
  match t with
  | [] => []
  | (i, a) :: r => if i = k then Table.del r k else (i, a) :: Table.del r k

/-- Puts an entry before the first larger index. -/
def Table.ins {α : Type} (t : Table α) (k : Nat) (a : α) : Table α :=
  match t with
  | [] => [(k, a)]
  | (i, b) :: r => if k < i then (k, a) :: (i, b) :: r else (i, b) :: Table.ins r k a

/-- The table with a at index k. -/
def Table.set {α : Type} (t : Table α) (k : Nat) (a : α) : Table α := (t.del k).ins k a

/-- The table with f applied at index k. -/
def Table.upd {α : Type} (t : Table α) (k : Nat) (d : α) (f : α → α) : Table α := t.set k (f (t.get k d))

/-! ### Bit fields -/

/-- w with x in bits lo+n-1 down to lo. -/
def putBits {m : Nat} (w : BitVec m) (lo : Nat) {n : Nat} (x : BitVec n) : BitVec m :=
  (w &&& ~~~(((BitVec.allOnes n).setWidth m) <<< lo)) ||| ((x.setWidth m) <<< lo)

/-- Bit b of w set to v. -/
def putBit {m : Nat} (w : BitVec m) (b : Nat) (v : Bool) : BitVec m := putBits w b (BitVec.ofBool v)

/-- The number of one bits. -/
def popcount {n : Nat} (w : BitVec n) : Nat := (List.range n).foldl (fun acc i => if w.getLsbD i then acc + 1 else acc) 0

/-- 64 bits of a natural number. -/
def w64 (n : Nat) : Word := BitVec.ofNat 64 n

/-- The bit length of n. -/
def bitLen (n : Nat) : Nat := if n = 0 then 0 else Nat.log2 n + 1

/-- ⌈a / b⌉. -/
def ceilDiv (a b : Nat) : Nat := (a + b - 1) / b

/-! ### Bytes, little-endian (R1) -/

/-- The value of bytes, the first the least significant. -/
def bytesNat (bs : List Byte) : Nat := bs.foldr (fun b acc => b.toNat + 256 * acc) 0

/-- The low n bytes of a value, the least significant first. -/
def natBytes : Nat → Nat → List Byte
  | 0, _ => []
  | n + 1, v => BitVec.ofNat 8 v :: natBytes n (v / 256)

/-- The value of elements of w bits, the first the least significant. -/
def packElems (w : Nat) (es : List Nat) : Nat := es.foldr (fun e acc => e % 2 ^ w + 2 ^ w * acc) 0

/-- Element i of w bits. -/
def elemAt (w : Nat) (v : Vec) (i : Nat) : Nat := (v.extractLsb' (i * w) w).toNat

/-- All elements of w bits of a vector. -/
def elems (w : Nat) (v : Vec) : List Nat := (List.range (512 / w)).map (elemAt w v)

/-- A vector from its elements of w bits. -/
def ofElems (w : Nat) (es : List Nat) : Vec := BitVec.ofNat 512 (packElems w es)

/-- The value v of w bits read as signed. -/
def sextNat (w v : Nat) : Int := if 2 ^ (w - 1) ≤ v % 2 ^ w then (v % 2 ^ w : Nat) - (2 ^ w : Nat) else (v % 2 ^ w : Nat)

/-- An integer modulo 2^w. -/
def wrapInt (w : Nat) (i : Int) : Nat := (i % (2 ^ w : Nat)).toNat

/-! ### The memory list -/

/-- The byte at a place: 0 where none is listed (log 2). -/
def memGet (m : List Host.Cell) (a : Nat) : Byte := Table.get m a 0

/-- The memory with one byte written, in its canonical form. -/
def memPut (m : List Host.Cell) (a : Nat) (b : Byte) : List Host.Cell :=
  if b = 0 then Table.del m a else Table.set m a b

/-- n bytes from a. -/
def memRead (m : List Host.Cell) (a n : Nat) : List Byte := (List.range n).map fun i => memGet m (a + i)

/-- The value of n bytes from a. -/
def memNat (m : List Host.Cell) (a n : Nat) : Nat := bytesNat (memRead m a n)

/-- The memory with the listed bytes written, in order. -/
def memPuts (m : List Host.Cell) (cs : List Host.Cell) : List Host.Cell :=
  cs.foldl (fun acc c => memPut acc c.1 c.2) m

/-- The cells of bytes laid from a on. -/
def cellsFrom (a : Nat) : List Byte → List Host.Cell
  | [] => []
  | b :: bs => (a, b) :: cellsFrom (a + 1) bs

/-- The memory with the bytes lo to hi - 1 zero. -/
def memClear (m : List Host.Cell) (lo hi : Nat) : List Host.Cell :=
  m.filter fun c => !(decide (lo ≤ c.1) && decide (c.1 < hi))

/-- The canonical form of a memory list above a bound: places rising, no zero byte listed. -/
def memSorted : Nat → List Host.Cell → Bool
  | _, [] => true
  | lo, (a, b) :: r => decide (lo ≤ a) && b != 0 && memSorted (a + 1) r

/-- The canonical form of the memory list. -/
def Memory.wf (m : List Host.Cell) : Bool := memSorted 0 m

/-! ### Tag lists: the places div 64 of tagged granules, rising -/

/-- The tag list without granule g. -/
def tagDel (ts : List Nat) (g : Nat) : List Nat := ts.filter (· != g)

/-- Puts a granule in order. -/
def tagIns : List Nat → Nat → List Nat
  | [], g => [g]
  | t :: r, g => if g < t then g :: t :: r else if g = t then t :: r else t :: tagIns r g

/-- The tag list with granule g tagged or not. -/
def tagPut (ts : List Nat) (g : Nat) (v : Bool) : List Nat := if v then tagIns (tagDel ts g) g else tagDel ts g

/-! ### Lists of records -/

/-- The list with f applied to the records that p selects. -/
def updWhere {α : Type} (l : List α) (p : α → Bool) (f : α → α) : List α := l.map fun a => if p a then f a else a

/-- The list without the records that p selects. -/
def dropWhere {α : Type} (l : List α) (p : α → Bool) : List α := l.filter fun a => !p a

end Sys2Proof.Machine
end

