-- ==== Sys2Proof/Machine/Causes.lean ====
section
/-! DEFINITION. The cause codes (13 Table 1) and what an instruction part answers. -/

namespace Sys2Proof.Machine

/-- An instruction part that may raise a trap, making no change then (R13). -/
abbrev Raises := Except Trap

/-- ILLEGAL_INSN (13 Table 1). -/
def cIllegal : BitVec 8 := 0x01
/-- PREFIX_INVALID. -/
def cPrefix : BitVec 8 := 0x02
/-- PRIV. -/
def cPriv : BitVec 8 := 0x03
/-- BREAK. -/
def cBreak : BitVec 8 := 0x04
/-- TRAP. -/
def cTrap : BitVec 8 := 0x05
/-- CAP_TAG. -/
def cTag : BitVec 8 := 0x10
/-- CAP_BOUNDS. -/
def cBounds : BitVec 8 := 0x11
/-- CAP_PERM. -/
def cPerm : BitVec 8 := 0x12
/-- CAP_SEALED. -/
def cSealed : BitVec 8 := 0x13
/-- CAP_FORMAT. -/
def cFormat : BitVec 8 := 0x14
/-- CAP_WIDEN. -/
def cWiden : BitVec 8 := 0x15
/-- CAP_SCOPE. -/
def cScope : BitVec 8 := 0x16
/-- CAP_REVOKED. -/
def cRevoked : BitVec 8 := 0x17
/-- XLATE_MISS. -/
def cMiss : BitVec 8 := 0x20
/-- XLATE_PERM. -/
def cXperm : BitVec 8 := 0x21
/-- PRI_DENIED. -/
def cPri : BitVec 8 := 0x22
/-- MEM_INTEGRITY. -/
def cIntegrity : BitVec 8 := 0x23
/-- HOST_ABORT. -/
def cHostAbort : BitVec 8 := 0x24
/-- HOST_UNSUPPORTED. -/
def cHostUnsup : BitVec 8 := 0x25
/-- COPY_BOUNDS. -/
def cCopyBounds : BitVec 8 := 0x30
/-- LAYOUT_WORD. -/
def cLayout : BitVec 8 := 0x31
/-- STREAM_EXHAUSTED. -/
def cStream : BitVec 8 := 0x32
/-- CTR_WRAP. -/
def cWrap : BitVec 8 := 0x40
/-- CTR_HOME. -/
def cHome : BitVec 8 := 0x41
/-- WAITER_SPILL_FULL. -/
def cSpillFull : BitVec 8 := 0x42
/-- TASK_DENIED. -/
def cTaskDenied : BitVec 8 := 0x43
/-- SPAWN_FULL. -/
def cSpawnFull : BitVec 8 := 0x44
/-- INBOX_CLOSED. -/
def cInboxClosed : BitVec 8 := 0x45
/-- MJOB_FORMAT. -/
def cJobFormat : BitVec 8 := 0x50
/-- MJOB_CAP_DENIED. -/
def cJobDenied : BitVec 8 := 0x51
/-- EXCH_SLOT. -/
def cExSlot : BitVec 8 := 0x52
/-- EXCH_MISS. -/
def cExMiss : BitVec 8 := 0x53
/-- EXCH_PHASE. -/
def cExPhase : BitVec 8 := 0x54
/-- GCM_TAG. -/
def cGcm : BitVec 8 := 0x70
/-- TENANT_RESET. -/
def cReset : BitVec 8 := 0x81

/-- DETAIL of a capability cause: operand, axis and index (R146). -/
def capDetail (opnd : BitVec 5) (axis : BitVec 2 := 0) (index : BitVec 48 := 0) : BitVec 56 :=
  index ++ (0 : BitVec 1) ++ axis ++ opnd

/-- DETAIL holding a device virtual address (R146). -/
def vaDetail (va : Nat) : BitVec 56 := BitVec.ofNat 56 va

/-- Raises a trap. -/
def raise {α : Type} (cause : BitVec 8) (detail : BitVec 56 := 0) : Raises α := .error { cause, detail }

/-- Raises unless the condition holds. -/
def need (ok : Bool) (cause : BitVec 8) (detail : BitVec 56 := 0) : Raises Unit :=
  if ok then .ok () else .error { cause, detail }

/-- The operand number of a capability register in DETAIL[4:0] (R146). -/
def opC (c : CReg) : BitVec 5 := 0#1 ++ c
/-- The operand number of pcc (R146). -/
def opPcc : BitVec 5 := 16
/-- The operand number of a capability in memory or in an engine command (R146). -/
def opMem : BitVec 5 := 31

end Sys2Proof.Machine
end

