-- ==== Sys2Proof/Machine/Caps.lean ====
section
/-! DEFINITION. Tensor capabilities: the fields of an image, the address of an element, the checks of an operand and
the derivations (04 R115 to R133). -/

namespace Sys2Proof.Machine

/-! ### Fields (R115) -/

/-- BASE. -/
def cBase (c : Vec) : Nat := (c.extractLsb' 0 56).toNat
/-- The extent of axis k. -/
def cExt (c : Vec) (k : Nat) : Nat := (c.extractLsb' (64 + 32 * k) 32).toNat
/-- The stride of axis k, signed. -/
def cStr (c : Vec) (k : Nat) : Int := (c.extractLsb' (192 + 48 * k) 48).toInt
/-- FMT. -/
def cFmt (c : Vec) : Nat := (c.extractLsb' 384 8).toNat
/-- RANKM1. -/
def cRankm1 (c : Vec) : Nat := (c.extractLsb' 392 2).toNat
/-- SCOPE. -/
def cScp (c : Vec) : BitVec 2 := c.extractLsb' 394 2
/-- PERM. -/
def cPrm (c : Vec) : BitVec 16 := c.extractLsb' 400 16
/-- OTYPE. -/
def cOty (c : Vec) : BitVec 16 := c.extractLsb' 416 16
/-- OWNER. -/
def cOwn (c : Vec) : BitVec 16 := c.extractLsb' 432 16
/-- PADMODE. -/
def cPadMode (c : Vec) : BitVec 8 := c.extractLsb' 448 8
/-- PADVAL. -/
def cPadVal (c : Vec) : BitVec 16 := c.extractLsb' 456 16

/-- c with BASE. -/
def setBase (c : Vec) (b : Int) : Vec := putBits c 0 (BitVec.ofInt 56 b)
/-- c with the extent of axis k. -/
def setExt (c : Vec) (k n : Nat) : Vec := putBits c (64 + 32 * k) (BitVec.ofNat 32 n)
/-- c with the stride of axis k. -/
def setStr (c : Vec) (k : Nat) (s : Int) : Vec := putBits c (192 + 48 * k) (BitVec.ofInt 48 s)
/-- c with FMT. -/
def setFmt (c : Vec) (f : Nat) : Vec := putBits c 384 (BitVec.ofNat 8 f)
/-- c with RANKM1. -/
def setRankm1 (c : Vec) (r : Nat) : Vec := putBits c 392 (BitVec.ofNat 2 r)
/-- c with SCOPE. -/
def setScp (c : Vec) (s : BitVec 2) : Vec := putBits c 394 s
/-- c with PERM. -/
def setPrm (c : Vec) (p : BitVec 16) : Vec := putBits c 400 p
/-- c with OTYPE. -/
def setOty (c : Vec) (t : BitVec 16) : Vec := putBits c 416 t
/-- c with OWNER. -/
def setOwn (c : Vec) (o : BitVec 16) : Vec := putBits c 432 o

/-- The null capability (R112). -/
def nullCap : CapReg := {}

/-! ### Formats (R78, R101, R117): codes 0 to 16 -/

/-- BYTE. -/
def fByte : Nat := 0
/-- INT32. -/
def fInt32 : Nat := 3
/-- INT64. -/
def fInt64 : Nat := 4
/-- CNT. -/
def fCnt : Nat := 14
/-- CAP. -/
def fCap : Nat := 15

/-- INT4G, INT3G and E2M1G. -/
def isGroup (f : Nat) : Bool := f == 11 || f == 12 || f == 13

/-- Bytes of one element (R117); of the group-scaled formats none is given and 1 stands. -/
def sizeOf (f : Nat) : Nat :=
  if f = 2 ∨ f = 6 ∨ f = 7 then 2 else if f = 3 ∨ f = 8 then 4 else if f = 4 then 8
  else if f = 14 then 16 else if f = 15 then 64 else 1

/-- Bytes of one group (R101, R117). -/
def groupBytes (f : Nat) : Nat := if f = 12 then 12 else 16

/-! ### Addresses (R117, R126, R220) -/

/-- The elements of a capability. -/
def cCount (c : Vec) : Nat := cExt c 0 * cExt c 1 * cExt c 2 * cExt c 3

/-- An element's indices. -/
abbrev Idx := Nat × Nat × Nat × Nat

/-- A linear index decomposed with axis 0 fastest (R126). -/
def decompose (c : Vec) (q : Nat) : Idx :=
  (q % cExt c 0, q / cExt c 0 % cExt c 1, q / (cExt c 0 * cExt c 1) % cExt c 2,
    q / (cExt c 0 * cExt c 1 * cExt c 2) % cExt c 3)

/-- The indices lie inside the shape. -/
def inShape (c : Vec) (i : Idx) : Bool :=
  decide (i.1 < cExt c 0) && decide (i.2.1 < cExt c 1) && decide (i.2.2.1 < cExt c 2) && decide (i.2.2.2 < cExt c 3)

/-- The address of an element inside the shape (R117). -/
def elemAddrInt (c : Vec) (i : Idx) : Int :=
  if isGroup (cFmt c) then
    (cBase c : Int) + ((i.1 / 32 : Nat) +
      (i.2.1 * cStr c 1 + i.2.2.1 * cStr c 2 + i.2.2.2 * cStr c 3) / 32) * (groupBytes (cFmt c) : Nat)
  else
    (cBase c : Int) + (i.1 * cStr c 0 + i.2.1 * cStr c 1 + i.2.2.1 * cStr c 2 + i.2.2.2 * cStr c 3) *
      (sizeOf (cFmt c) : Nat)

/-- The address as a 56-bit device virtual address. -/
def elemAddr (c : Vec) (i : Idx) : Nat := ((elemAddrInt c i) % (2 ^ 56 : Nat)).toNat

/-- The indices of the element with the lowest or highest address on each axis. -/
def extremeIdx (c : Vec) (high : Bool) : Idx :=
  let pick (k : Nat) : Nat := if (decide (0 ≤ cStr c k)) == high then cExt c k - 1 else 0
  (pick 0, pick 1, pick 2, pick 3)

/-- The lowest byte a capability reaches (R117). -/
def lowByte (c : Vec) : Int := elemAddrInt c (extremeIdx c false)

/-- The highest element address of a capability (R117). -/
def highElem (c : Vec) : Int := elemAddrInt c (extremeIdx c true)

/-- The highest byte a capability reaches (R117). -/
def highByte (c : Vec) : Int := highElem c + (if isGroup (cFmt c) then groupBytes (cFmt c) else sizeOf (cFmt c)) - 1

/-- Whether an image is well formed (R116); the return sentry keeps its offset in S1. -/
def wellFormedImg (c : Vec) : Bool :=
  let axes := [0, 1, 2, 3]
  axes.all (fun k => decide (1 ≤ cExt c k)) &&
  axes.all (fun k => decide (k ≤ cRankm1 c) ||
    (cExt c k == 1 && (cStr c k == 0 || (cOty c == 0xFFFF#16 && k == 1)))) &&
  decide (cFmt c ≤ 16) && cScp c != 3 && decide ((cPadMode c).toNat ≤ 1) &&
  (!isGroup (cFmt c) || (cStr c 0 == 1 && cStr c 1 % 32 == 0 && cStr c 2 % 32 == 0 && cStr c 3 % 32 == 0)) &&
  c.extractLsb' 472 40 == 0 && c.extractLsb' 414 2 == 0 && c.extractLsb' 396 4 == 0 && c.extractLsb' 56 8 == 0 &&
  decide (0 ≤ lowByte c) && decide (highElem c < (2 ^ 56 : Nat))

/-! ### Permissions (R118) -/

/-- LD. -/
def pLd : BitVec 16 := 0x0001
/-- ST. -/
def pSt : BitVec 16 := 0x0002
/-- LDC. -/
def pLdc : BitVec 16 := 0x0004
/-- STC. -/
def pStc : BitVec 16 := 0x0008
/-- EXE. -/
def pExe : BitVec 16 := 0x0010
/-- SEAL. -/
def pSeal : BitVec 16 := 0x0020
/-- UNSEAL. -/
def pUnseal : BitVec 16 := 0x0040
/-- INVOKE. -/
def pInvoke : BitVec 16 := 0x0080
/-- MOP. -/
def pMop : BitVec 16 := 0x0100
/-- XSRC. -/
def pXsrc : BitVec 16 := 0x0200
/-- XDST. -/
def pXdst : BitVec 16 := 0x0400
/-- KCTR. -/
def pKctr : BitVec 16 := 0x0800
/-- STLOCAL. -/
def pStlocal : BitVec 16 := 0x1000
/-- PADOK. -/
def pPadok : BitVec 16 := 0x2000

/-- The image grants every permission of p. -/
def grants (c : Vec) (p : BitVec 16) : Bool := cPrm c &&& p == p

/-! ### The checks of an operand (R123) -/

/-- Steps 1 to 3: revoked mark, tag, scope. -/
def checkHeld (c : CapReg) (comp : BitVec 16) (o : BitVec 5) : Raises Vec :=
  if c.rev then raise cRevoked (capDetail o)
  else if !c.tag then raise cTag (capDetail o)
  else if cScp c.img != 2 && cOwn c.img != comp then raise cScope (capDetail o)
  else .ok c.img

/-- Steps 1 to 4 of R123 with an unsealed operand required. -/
def checkUnsealed (c : CapReg) (comp : BitVec 16) (o : BitVec 5) : Raises Vec := do
  let i ← checkHeld c comp o
  need (cOty i == 0) cSealed (capDetail o)
  .ok i

/-- Steps 1 to 6 of R123 with an unsealed operand, a form and permissions required. -/
def checkOpnd (c : CapReg) (comp : BitVec 16) (o : BitVec 5) (form : Vec → Bool) (perm : BitVec 16) :
    Raises Vec := do
  let i ← checkUnsealed c comp o
  need (decide (cFmt i ≤ 16) && form i) cFormat (capDetail o)
  need (grants i perm) cPerm (capDetail o)
  .ok i

/-- The address of an element for a strand access: CAP_BOUNDS outside the shape (R117). -/
def elemOf (c : Vec) (o : BitVec 5) (i : Idx) (index : Nat) : Raises Nat :=
  if inShape c i then .ok (elemAddr c i) else raise cBounds (capDetail o 0 (BitVec.ofNat 48 index))

/-- The address of the element at a linear index (R126, R220). -/
def linearOf (c : Vec) (o : BitVec 5) (q : Nat) : Raises Nat :=
  if q < cCount c then .ok (elemAddr c (decompose c q)) else raise cBounds (capDetail o 0 (BitVec.ofNat 48 q))

/-! ### Derivations -/

/-- The base moved by a elements of axis k (R127, R128). -/
def moveBase (c : Vec) (k a : Nat) : Vec :=
  if isGroup (cFmt c) then setBase c (cBase c + (a * cStr c k / 32) * (groupBytes (cFmt c) : Nat))
  else setBase c (cBase c + a * cStr c k * (sizeOf (cFmt c) : Nat))

/-- The image CSLICE writes (R127). -/
def sliceImg (c : Vec) (o : BitVec 5) (axis : BitVec 2) (a b : Nat) : Raises Vec := do
  let k := axis.toNat
  need (decide (k ≤ cRankm1 c) && decide (b ≠ 0) && decide (a + b ≤ cExt c k)) cWiden (capDetail o axis)
  if isGroup (cFmt c) then
    need ((a * cStr c k) % 32 == 0 && (k != 0 || b % 32 == 0)) cFormat (capDetail o axis)
  .ok (setExt (moveBase c k a) k b)

/-- The axes from k on moved down by one (R128). -/
def dropAxis (c : Vec) (k : Nat) : Vec :=
  let down := (List.range 3).foldl (fun acc j =>
    if k ≤ j then setStr (setExt acc j (cExt acc (j + 1))) j (cStr acc (j + 1)) else acc) c
  setRankm1 (setStr (setExt down 3 1) 3 0) (cRankm1 c - 1)

/-- The image CNARROW writes (R128). -/
def narrowImg (c : Vec) (o : BitVec 5) (axis : BitVec 2) (a : Nat) : Raises Vec := do
  let k := axis.toNat
  need (decide (k ≤ cRankm1 c) && decide (a < cExt c k)) cWiden (capDetail o axis)
  if isGroup (cFmt c) then
    need (k != 0 && (a * cStr c k) % 32 == 0) cFormat (capDetail o axis)
  let m := moveBase c k a
  .ok (if cRankm1 c = 0 then setExt m 0 1 else dropAxis m k)

/-- The image CPERM writes (R129). -/
def permImg (c : Vec) (x : Word) : Vec :=
  let p := setPrm c (cPrm c &&& (x.extractLsb' 0 14).setWidth 16)
  let sc := x.extractLsb' 16 2
  if sc = 3 then p else if sc.toNat < (cScp p).toNat then setScp p sc else p

/-- The form of a wrapping key: a BYTE tensor of rank 1 (R130, R131). -/
def keyForm (c : Vec) : Bool := cFmt c == fByte && cRankm1 c == 0

/-- The form of a code capability: INT32, rank 1, s0 = 1 (R58, R316). -/
def codeForm (c : Vec) : Bool := cFmt c == fInt32 && cRankm1 c == 0 && cStr c 0 == 1

/-- A BYTE tensor of rank 1 with e0 = n and s0 = 1. -/
def byteForm (n : Nat) (c : Vec) : Bool := cFmt c == fByte && cRankm1 c == 0 && cExt c 0 == n && cStr c 0 == 1

/-- A CNT capability (R266). -/
def cntForm (c : Vec) : Bool := cFmt c == fCnt

/-- An image made by the part: rank 1, unit stride, other axes of extent 1. -/
def mkCap (fmt base e0 : Nat) (perm otype owner : BitVec 16) (scope : BitVec 2) : Vec :=
  setOwn (setOty (setPrm (setScp (setStr (setExt (setExt (setExt (setExt (setFmt (setBase 0 base) fmt) 0 e0) 1 1) 2 1)
    3 1) 0 1) scope) perm) otype) owner

/-- Whether the program counter can be fetched from through an image (R58, R59): the first condition that fails. -/
def checkFetch (c : CapReg) (pc : Word) : Raises Unit := do
  let d := capDetail opPcc 0 (pc.extractLsb' 0 48)
  need c.tag cTag d
  need (cOty c.img == 0) cSealed d
  need (codeForm c.img) cFormat d
  need (grants c.img pExe) cPerm d
  need (pc.toNat % 4 == 0 && decide (pc.toNat + 4 ≤ 4 * cExt c.img 0)) cBounds d

end Sys2Proof.Machine
end

