-- ==== Sys2Proof/Machine/Numbers.lean ====
section
/-! DEFINITION. Number formats and rounding (03 R78 to R109): exact values, one rounding, the flags raised, and the
fixed trees of the reductions. -/

namespace Sys2Proof.Machine

/-- A finite value: (-1)^neg × m × 2^e; with `st` the true magnitude lies strictly between m and m + 1 units of 2^e. -/
structure Num where
  neg : Bool
  m : Nat
  e : Int
  st : Bool := false
  deriving DecidableEq, Repr

/-- A value of a floating-point format or an exact result: a NaN with the sign it entered with, an infinity, or a
finite value. -/
inductive FVal where
  | nan (neg : Bool) | inf (neg : Bool) | fin (n : Num)
  deriving DecidableEq, Repr

/-- The rounding modes of R89, coded as STATUS.RM (R143). -/
inductive Mode where
  | rne | rtz | rdn | rup
  deriving DecidableEq, Repr

/-- The flags of 03 Table 5. -/
abbrev Flags := BitVec 6
/-- INEXACT. -/
def fgInexact : Flags := 1
/-- UNDERFLOW. -/
def fgUnder : Flags := 2
/-- OVERFLOW. -/
def fgOver : Flags := 4
/-- DIVZERO. -/
def fgDivz : Flags := 8
/-- INVALID. -/
def fgInvalid : Flags := 16
/-- SAT. -/
def fgSat : Flags := 32

/-- A flag raised or not. -/
def fgIf (b : Bool) (f : Flags) : Flags := if b then f else 0

/-- A floating-point format of 03 Table 2: exponent and mantissa widths, bias, the largest finite encoding, whether it
has infinities and NaNs, and its canonical NaN. -/
structure FFmt where
  ew : Nat
  mw : Nat
  bias : Nat
  maxEnc : Nat
  hasInf : Bool
  hasNan : Bool
  nan : Nat
  deriving DecidableEq, Repr

/-- The format of an element-format code, for the codes with a sign, an exponent and a mantissa (R82). -/
def ffmt : Nat → Option FFmt
  | 6 => some ⟨8, 7, 127, 0x7F7F, true, true, 0x7FC0⟩
  | 7 => some ⟨5, 10, 15, 0x7BFF, true, true, 0x7E00⟩
  | 8 => some ⟨8, 23, 127, 0x7F7FFFFF, true, true, 0x7FC00000⟩
  | 9 => some ⟨4, 3, 7, 0x7E, false, true, 0x7F⟩
  | 10 => some ⟨5, 2, 15, 0x7B, true, true, 0x7E⟩
  | 13 => some ⟨2, 1, 1, 0x7, false, false, 0x7⟩
  | _ => none

/-- FP32. -/
def fp32 : FFmt := ⟨8, 23, 127, 0x7F7FFFFF, true, true, 0x7FC00000⟩
/-- E2M1 (R83). -/
def fpE2m1 : FFmt := ⟨2, 1, 1, 0x7, false, false, 0x7⟩
/-- E4M3. -/
def fpE4m3 : FFmt := ⟨4, 3, 7, 0x7E, false, true, 0x7F⟩

/-- The width of a format in bits. -/
def FFmt.width (f : FFmt) : Nat := 1 + f.ew + f.mw

/-- The value of a magnitude encoding that is neither infinity nor NaN (R83). -/
def magNum (f : FFmt) (neg : Bool) (enc : Nat) : Num :=
  let ef := enc / 2 ^ f.mw
  let mf := enc % 2 ^ f.mw
  if ef = 0 then { neg, m := mf, e := 1 - (f.bias : Int) - f.mw }
  else { neg, m := 2 ^ f.mw + mf, e := (ef : Int) - f.bias - f.mw }

/-- The value of an encoding (R82 to R84). -/
def decodeFp (f : FFmt) (bits : Nat) : FVal :=
  let neg := bits / 2 ^ (f.ew + f.mw) % 2 == 1
  let enc := bits % 2 ^ (f.ew + f.mw)
  if enc ≤ f.maxEnc then .fin (magNum f neg enc)
  else if f.hasInf && enc == f.maxEnc + 1 then .inf neg
  else .nan neg

/-- The value of an E8M0 code (R83): 0xFF is its NaN. -/
def decodeE8m0 (bits : Nat) : FVal :=
  if bits % 256 = 255 then .nan false else .fin { neg := false, m := 1, e := (bits % 256 : Nat) - 127 }

/-- a × 2^i at least b × 2^j, for magnitudes. -/
def magLe (b : Nat) (j : Int) (a : Nat) (i : Int) : Bool :=
  if j ≤ i then decide (b ≤ a * 2 ^ (i - j).toNat) else decide (b * 2 ^ (j - i).toNat ≤ a)

/-- Rounds the magnitude to a multiple of 2^q under a mode (R89): the count of units and whether it is inexact. -/
def roundAt (mode : Mode) (n : Num) (q : Int) : Nat × Bool :=
  if q ≤ n.e then (n.m * 2 ^ (n.e - q).toNat, n.st)
  else
    let d := 2 ^ (q - n.e).toNat
    let quo := n.m / d
    let rem := n.m % d
    let inexact := rem != 0 || n.st
    let up := match mode with
      | .rne => decide (d < 2 * rem) || (2 * rem == d && (n.st || quo % 2 == 1))
      | .rtz => false
      | .rdn => n.neg && inexact
      | .rup => !n.neg && inexact
    (if up then quo + 1 else quo, inexact)

/-- The sign bit of a format with a magnitude below it. -/
def withSign (f : FFmt) (neg : Bool) (enc : Nat) : Nat := if neg then 2 ^ (f.ew + f.mw) + enc else enc

/-- The result of an overflow (03 Table 4), with its flags (R91). -/
def overflowFp (f : FFmt) (mode : Mode) (sat neg : Bool) : Nat × Flags :=
  let big := withSign f neg f.maxEnc
  if sat then (big, fgOver ||| fgInexact ||| fgSat)
  else if !f.hasNan then (big, fgOver ||| fgInexact ||| fgSat)
  else
    let toMax := match mode with
      | .rne => false
      | .rtz => true
      | .rdn => !neg
      | .rup => neg
    if toMax then (big, fgOver ||| fgInexact)
    else if f.hasInf then (withSign f neg (f.maxEnc + 1), fgOver ||| fgInexact)
    else (f.nan, fgOver ||| fgInexact)

/-- An infinite result written to a format (R92). With saturation in effect R92's first bullet names SAT alone, and R104 names INVALID and SAT
for E2M1G: a format without NaN sets both, DEDUCED (log 85). -/
def writeInf (f : FFmt) (sat neg : Bool) : Nat × Flags :=
  if sat then (withSign f neg f.maxEnc, if f.hasNan then fgSat else fgSat ||| fgInvalid)
  else if f.hasInf then (withSign f neg (f.maxEnc + 1), 0)
  else if f.hasNan then (f.nan, fgInvalid)
  else (withSign f neg f.maxEnc, fgInvalid ||| fgSat)

/-- A NaN written to a format (R86, R93). -/
def writeNan (f : FFmt) (neg : Bool) : Nat × Flags :=
  if f.hasNan then (f.nan, 0) else (withSign f neg f.maxEnc, fgInvalid)

/-- A finite result rounded once and written (R90, R91, R95). The sign of an exact zero that is no sum, which the spec does not give, is
kept as it was formed: DESIGN CHOICE (log 71). -/
def writeNum (f : FFmt) (mode : Mode) (sat : Bool) (n : Num) : Nat × Flags :=
  if n.m = 0 && !n.st then (withSign f n.neg 0, 0)
  else
    let emin : Int := 1 - (f.bias : Int)
    let lead : Int := n.e + bitLen n.m - 1
    let free := roundAt mode n (lead - f.mw)
    let mx := magNum f false f.maxEnc
    if !magLe free.1 (lead - f.mw) mx.m mx.e then overflowFp f mode sat n.neg
    else
      let tiny := !magLe 1 emin free.1 (lead - f.mw)
      let q : Int := (if lead < emin then emin else lead) - f.mw
      let r := roundAt mode n q
      let enc := if r.1 < 2 ^ f.mw then r.1
        else ((q + f.mw + f.bias).toNat) * 2 ^ f.mw + (r.1 - 2 ^ f.mw)
      (withSign f n.neg enc, fgIf r.2 fgInexact ||| fgIf (tiny && r.2) fgUnder)

/-- A result written to a format under a mode and saturation (R90 to R95). -/
def writeFp (f : FFmt) (mode : Mode) (sat : Bool) : FVal → Nat × Flags
  | .nan neg => writeNan f neg
  | .inf neg => writeInf f sat neg
  | .fin n => writeNum f mode sat n

/-- A conversion to E8M0 (R96). -/
def writeE8m0 : FVal → Nat × Flags
  | .nan _ => (0xFF, 0)
  | .inf _ => (0xFE, fgOver)
  | .fin n =>
    if n.m = 0 then (0, fgUnder)
    else
      let k : Int := n.e + bitLen n.m - 1
      let exact := n.m == 2 ^ (bitLen n.m - 1) && !n.st
      if k < -127 then (0, fgUnder ||| fgInexact)
      else if 127 < k then (0xFE, fgOver ||| fgInexact)
      else ((k + 127).toNat, fgIf (!exact) fgInexact)

/-- A value rounded to an integer and clamped to lo to hi (R80). -/
def toIntClamped (mode : Mode) (lo hi : Int) : FVal → Int × Flags
  | .nan _ => (0, fgInvalid)
  | .inf neg => (if neg then lo else hi, fgInvalid ||| fgSat)
  | .fin n =>
    let r := roundAt mode n 0
    let i : Int := if n.neg then -(r.1 : Int) else r.1
    if i < lo then (lo, fgInvalid ||| fgSat ||| fgInexact)
    else if hi < i then (hi, fgInvalid ||| fgSat ||| fgInexact)
    else (i, fgIf r.2 fgInexact)

/-- An integer as an exact value (R81). -/
def intVal (i : Int) : FVal := .fin { neg := decide (i < 0), m := i.natAbs, e := 0 }

/-! ### Exact operations -/

/-- A finite value as an integer number of units of 2^q, q at most its exponent. -/
def numUnits (n : Num) (q : Int) : Int :=
  let k : Int := (n.m * 2 ^ (n.e - q).toNat : Nat)
  if n.neg then -k else k

/-- The exact sum of finite values; an exact zero has the given sign (R95). -/
def sumNums (zeroNeg : Bool) (ns : List Num) : Num :=
  let q := ns.foldl (fun acc n => if n.e < acc then n.e else acc) (match ns with | [] => 0 | n :: _ => n.e)
  let s := ns.foldl (fun acc n => acc + numUnits n q) 0
  if s = 0 then { neg := zeroNeg, m := 0, e := q } else { neg := decide (s < 0), m := s.natAbs, e := q }

/-- An exact sum with the flags of an invalid operation (R94, R95). -/
def addVal (mode : Mode) (a b : FVal) : FVal × Flags :=
  match a, b with
  | .nan s, _ => (.nan s, 0)
  | _, .nan s => (.nan s, 0)
  | .inf s, .inf t => if s = t then (.inf s, 0) else (.nan false, fgInvalid)
  | .inf s, .fin _ => (.inf s, 0)
  | .fin _, .inf s => (.inf s, 0)
  | .fin x, .fin y =>
    let zeroNeg := if x.m = 0 && y.m = 0 && x.neg == y.neg then x.neg else mode == .rdn
    (.fin (sumNums zeroNeg [x, y]), 0)

/-- The value with its sign changed. -/
def negVal : FVal → FVal
  | .nan s => .nan s
  | .inf s => .inf (!s)
  | .fin n => .fin { n with neg := !n.neg }

/-- An exact product with the flags of an invalid operation (R94). A zero product has the exclusive-or of the signs: DESIGN CHOICE (log
71). -/
def mulVal (a b : FVal) : FVal × Flags :=
  match a, b with
  | .nan s, _ => (.nan s, 0)
  | _, .nan s => (.nan s, 0)
  | .inf s, .inf t => (.inf (s != t), 0)
  | .inf s, .fin y => if y.m = 0 then (.nan false, fgInvalid) else (.inf (s != y.neg), 0)
  | .fin x, .inf t => if x.m = 0 then (.nan false, fgInvalid) else (.inf (x.neg != t), 0)
  | .fin x, .fin y => (.fin { neg := x.neg != y.neg, m := x.m * y.m, e := x.e + y.e }, 0)

/-- A product added to a value, exactly (R90, R172). -/
def fmaVal (mode : Mode) (a b c : FVal) : FVal × Flags :=
  let p := mulVal a b
  let s := addVal mode p.1 c
  (s.1, p.2 ||| s.2)

/-- The quotient of finite values with a non-zero divisor, exact but for the sticky mark. A zero quotient has the exclusive-or of the
signs: DESIGN CHOICE (log 71). -/
def divNum (a b : Num) : Num :=
  if a.m = 0 then { neg := a.neg != b.neg, m := 0, e := 0 }
  else
    let k := bitLen b.m + 80
    let n := a.m * 2 ^ k
    { neg := a.neg != b.neg, m := n / b.m, e := a.e - b.e - k, st := n % b.m != 0 }

/-- a below b, for values that are no NaN; +0 and -0 are equal (R85). -/
def ltVal (a b : FVal) : Bool :=
  match a, b with
  | .nan _, _ => false
  | _, .nan _ => false
  | .inf s, .inf t => s && !t
  | .inf s, .fin _ => s
  | .fin _, .inf t => !t
  | .fin x, .fin y =>
    let q := if x.e < y.e then x.e else y.e
    decide (numUnits x q < numUnits y q)

/-- a equal to b, for comparisons (R85). -/
def eqVal (a b : FVal) : Bool :=
  match a, b with
  | .nan _, _ => false
  | _, .nan _ => false
  | .inf s, .inf t => s == t
  | .inf _, .fin _ => false
  | .fin _, .inf _ => false
  | .fin x, .fin y =>
    let q := if x.e < y.e then x.e else y.e
    numUnits x q == numUnits y q

/-- The sign of a value. -/
def signOf : FVal → Bool
  | .nan s => s
  | .inf s => s
  | .fin n => n.neg

/-- Whether a value is a NaN. -/
def isNan : FVal → Bool
  | .nan _ => true
  | _ => false

/-- The lesser of two encodings, or the greater (R85): -0 below +0, the canonical NaN for a NaN. -/
def selectFp (f : FFmt) (max : Bool) (a b : Nat) : Nat :=
  let x := decodeFp f a
  let y := decodeFp f b
  if isNan x || isNan y then f.nan
  else
    let aLess := ltVal x y || (eqVal x y && signOf x && !signOf y)
    if aLess == max then b else a

/-! ### Group-scaled codes (R101, R104) -/

/-- Code j of a group of bytes (03 Table 6). -/
def groupCode (fmt : Nat) (bytes : Nat) (j : Nat) : Nat :=
  if fmt = 12 then bytes / 2 ^ (3 * j) % 8 else bytes / 2 ^ (4 * j) % 16

/-- The value of a code (R101). -/
def codeVal (fmt : Nat) (code : Nat) : FVal :=
  if fmt = 13 then decodeFp fpE2m1 code
  else if fmt = 12 then intVal (sextNat 3 code)
  else intVal (sextNat 4 code)

/-- The value of a scale: E8M0 or E4M3 (R102). -/
def scaleVal (e8m0 : Bool) (bits : Nat) : FVal := if e8m0 then decodeE8m0 bits else decodeFp fpE4m3 bits

/-- The exact value of a group-scaled element (R102). -/
def groupVal (fmt : Nat) (e8m0 : Bool) (code scale : Nat) : FVal :=
  (mulVal (codeVal fmt code) (scaleVal e8m0 scale)).1

/-- Whether a value is zero. -/
def isZero : FVal → Bool
  | .fin n => n.m == 0
  | _ => false

/-- An exact quotient by a scale that is finite and not zero; an infinity keeps the quotient's sign (R104). -/
def divScale (x s : FVal) : FVal :=
  match x, s with
  | .fin a, .fin b => .fin (divNum a b)
  | .inf n, _ => .inf (n != signOf s)
  | v, _ => v

/-- Quantisation of one input into a code (R104). -/
def quantise (fmt : Nat) (mode : Mode) (sat e8m0 : Bool) (x : FVal) (scale : Nat) : Nat × Flags :=
  let s := scaleVal e8m0 scale
  if isNan x then
    if fmt = 13 then (writeNan fpE2m1 (signOf x)).1 |> fun c => (c, fgInvalid) else (0, fgInvalid)
  else if isNan s || isZero s then (0, fgInvalid)
  else
    let q := divScale x s
    if fmt = 13 then writeFp fpE2m1 mode sat q
    else
      let w := if fmt = 12 then 3 else 4
      let hi : Int := (2 ^ (w - 1) : Nat) - 1
      let lo : Int := -((2 ^ (w - 1) : Nat) : Int)
      match q with
      | .fin n =>
        let r := roundAt mode n 0
        let i : Int := if n.neg then -(r.1 : Int) else r.1
        let c := if i < lo then lo else if hi < i then hi else i
        (wrapInt w c, fgIf (c != i) fgSat ||| fgIf r.2 fgInexact)
      | .inf n => (wrapInt w (if n then lo else hi), fgInvalid ||| fgSat)
      | .nan _ => (0, fgInvalid)

/-! ### Reductions (R108, R109) -/

/-- One level of the tree: adjacent nodes combined, an inactive input passed over. -/
def treeLevel {α : Type} (op : α → α → α) : List (Option α) → List (Option α)
  | some a :: some b :: r => some (op a b) :: treeLevel op r
  | some a :: none :: r => some a :: treeLevel op r
  | none :: b :: r => b :: treeLevel op r
  | [a] => [a]
  | [] => []

/-- The root of the tree after a number of levels; none when every lane is inactive. -/
def treeRoot {α : Type} (op : α → α → α) : Nat → List (Option α) → Option α
  | 0, l => (l.head?).join
  | n + 1, l => treeRoot op n (treeLevel op l)

/-! ### The matrix accumulator (R106) -/

/-- One k-step of an accumulator element: the terms are the exact products, each with its invalid flag. -/
def accStep (acc : Nat) (ps : List (FVal × Flags)) : Nat × Flags :=
  let a := decodeFp fp32 acc
  let fl := ps.foldl (fun f p => f ||| p.2) 0
  let terms := a :: ps.map (·.1)
  if terms.any isNan then (fp32.nan, fl)
  else
    let pinf := terms.any (· == .inf false)
    let ninf := terms.any (· == .inf true)
    if pinf && ninf then (fp32.nan, fl ||| fgInvalid)
    else if pinf then (0x7F800000, fl)
    else if ninf then (0xFF800000, fl)
    else
      let nums := terms.filterMap fun t => match t with | .fin n => some n | _ => none
      let allNeg := nums.all fun n => n.m == 0 && n.neg
      let r := writeNum fp32 .rne false (sumNums allNeg nums)
      (r.1, fl ||| r.2)

end Sys2Proof.Machine
end

