-- ==== Sys2Proof/Machine/Flags.lean ====
section
/-! DEFINITION. STATUS and the other control registers: their fields, the effective modes and the sticky flags
(04 R143 to R147, 03 R89, R97). -/

namespace Sys2Proof.Machine

/-- STATUS.TENANT (R143). -/
def stTenant (s : Word) : Nat := (s.extractLsb' 54 10).toNat
/-- STATUS.COMP. -/
def stComp (s : Word) : BitVec 16 := s.extractLsb' 38 16
/-- STATUS.PP: a prefix is pending. -/
def stPP (s : Word) : Bool := s.getLsbD 37
/-- STATUS.PREFIX: bits 31:7 of the last FMT word. -/
def stPrefix (s : Word) : BitVec 25 := s.extractLsb' 12 25
/-- STATUS.RM. -/
def stRM (s : Word) : BitVec 2 := s.extractLsb' 7 2
/-- STATUS.SM. -/
def stSM (s : Word) : Bool := s.getLsbD 6
/-- STATUS.FLAGS. -/
def stFlags (s : Word) : Flags := s.extractLsb' 0 6

/-- STATUS with COMP. -/
def setComp (s : Word) (k : BitVec 16) : Word := putBits s 38 k
/-- STATUS with PP. -/
def setPP (s : Word) (b : Bool) : Word := putBit s 37 b
/-- STATUS with PREFIX. -/
def setPrefix (s : Word) (p : BitVec 25) : Word := putBits s 12 p
/-- STATUS with flags ORed in (R97). -/
def orFlags (s : Word) (f : Flags) : Word := s ||| f.setWidth 64

/-- STATUS as a launch gives it (R112, R143, R322). -/
def mkStatus (tenant : Nat) (comp : BitVec 16) : Word :=
  setComp (putBits 0 54 (BitVec.ofNat 10 tenant)) comp

/-- The bits a CSRWR of STATUS replaces: RM, SM and FLAGS (R142, R143). -/
def statusRw : Word := 0x1FF#64

/-- The bits a CSRWR of LIVEMASK replaces (R145). -/
def livemaskRw : Word := 0x0000FFFFFFFFFFFF#64

/-- A rounding mode from its STATUS code (R143). -/
def modeOf (rm : BitVec 2) : Mode :=
  if rm = 0 then .rne else if rm = 1 then .rtz else if rm = 2 then .rdn else .rup

/-- The overrides of a prefix (R52), from PREFIX, which holds bits 31:7 of the FMT word. -/
structure Overrides where
  fa : Nat := 31
  fb : Nat := 31
  rm : BitVec 3 := 0
  sat : BitVec 2 := 0
  fd : Nat := 31
  deriving DecidableEq, Repr

/-- The fields of a saved prefix (02 Table 12). -/
def overridesOf (p : BitVec 25) : Overrides :=
  { fa := (p.extractLsb' 20 5).toNat, fb := (p.extractLsb' 15 5).toNat, rm := p.extractLsb' 10 3,
    sat := p.extractLsb' 8 2, fd := (p.extractLsb' 0 5).toNat }

/-- The overrides in force: those of a pending prefix, or none (R55). -/
def overrides (status : Word) : Overrides := if stPP status then overridesOf (stPrefix status) else {}

/-- The effective rounding mode (R89). -/
def effMode (status : Word) : Mode :=
  let o := overrides status
  if o.rm = 0 then modeOf (stRM status) else modeOf ((o.rm - 1).extractLsb' 0 2)

/-- The effective saturation mode (R89). -/
def effSat (status : Word) : Bool :=
  let o := overrides status
  if o.sat = 0 then stSM status else o.sat == 1

/-- FAULTINFO of a cause and DETAIL (R146). -/
def mkFaultinfo (cause : BitVec 8) (detail : BitVec 56) : Word := cause ++ detail

end Sys2Proof.Machine
end

