-- ==== Sys2Proof/Machine/Operands.lean ====
section
/-! DEFINITION. Operand forms: reading and writing the registers of a strand, immediates, element types and memory
operands (02 R36, R37, 04 R111, 07 R219 to R221). -/

namespace Sys2Proof.Machine

/-! ### Registers -/

/-- x[r]; x0 reads as zero (R111). -/
def Strand.getX (t : Strand) (r : XReg) : Word := if r = 0 then 0 else t.x[r.toNat]
/-- The strand with x[r] written; a write of x0 is discarded (R111). -/
def Strand.setX (t : Strand) (r : XReg) (v : Word) : Strand :=
  if r = 0 then t else { t with x := t.x.set r.toNat v }
/-- c[r]. -/
def Strand.getC (t : Strand) (r : CReg) : CapReg := t.c[r.toNat]
/-- The strand with c[r] written. -/
def Strand.setC (t : Strand) (r : CReg) (v : CapReg) : Strand := { t with c := t.c.set r.toNat v }
/-- v[r]. -/
def Strand.getV (t : Strand) (r : VReg) : Vec := t.v[r.toNat]
/-- The strand with v[r] written. -/
def Strand.setV (t : Strand) (r : VReg) (v : Vec) : Strand := { t with v := t.v.set r.toNat v }
/-- p[r]. -/
def Strand.getP (t : Strand) (r : PReg) : Word := t.p[r.toNat]
/-- The strand with p[r] written. -/
def Strand.setP (t : Strand) (r : PReg) (v : Word) : Strand := { t with p := t.p.set r.toNat v }
/-- The strand's tenant. -/
def Strand.tenant (t : Strand) : Nat := stTenant t.status
/-- The strand's compartment. -/
def Strand.comp (t : Strand) : BitVec 16 := stComp t.status
/-- The pc moved past a word, and a consumed prefix no longer pending (R55). -/
def Strand.next (t : Strand) : Strand := { t with pc := t.pc + 4, status := setPP t.status false }
/-- The stream descriptor of v[r], when it is bound (R232). -/
def Strand.boundOf (t : Strand) (r : VReg) : Option Vec :=
  if r.toNat < 24 then none else t.bind[(r.extractLsb' 0 3).toNat]

/-! ### Immediates -/

/-- A 12-bit immediate, sign-extended. -/
def sext12 (i : BitVec 12) : Word := i.signExtend 64
/-- The value of a LUI or AUIPC immediate (R137). -/
def upper (i : BitVec 20) : Word := (i ++ 0#12 : BitVec 32).signExtend 64
/-- A branch offset (R139): the field is imm[12:2]. -/
def branchOff (i : BitVec 11) : Word := (i ++ 0#2 : BitVec 13).signExtend 64
/-- A JAL offset (R140): the field is imm[20:2]. -/
def jalOff (i : BitVec 19) : Word := (i ++ 0#2 : BitVec 21).signExtend 64

/-! ### Element types -/

/-- The width of an integer element type in bits (R48). -/
def etBits : IntEt → Nat
  | .s8 => 8 | .z8 => 8 | .s16 => 16 | .z16 => 16 | .s32 => 32 | .z32 => 32 | .s64 => 64 | .z64 => 64
/-- Signed element types. -/
def etSigned : IntEt → Bool
  | .s8 => true | .s16 => true | .s32 => true | .s64 => true
  | .z8 => false | .z16 => false | .z32 => false | .z64 => false
/-- The element-format code of a floating element type (R78). -/
def fpFmt : FpEt → Nat
  | .bf16 => 6 | .f16 => 7 | .f32 => 8 | .e4m3 => 9 | .e5m2 => 10
/-- The element width of a VM word in bits (R50). -/
def ewBits : Ew → Nat
  | .z8 => 8 | .z16 => 16 | .z32 => 32 | .z64 => 64

/-- The value of element bits under an integer type. -/
def etVal (et : IntEt) (v : Nat) : Int := if etSigned et then sextNat (etBits et) v else (v % 2 ^ etBits et : Nat)

/-- Whether lane i of w-bit elements is active under pg: 000 governs nothing, else predicate bit (w/8)·i (R48, R156). -/
def laneActive (t : Strand) (pg : PReg) (w i : Nat) : Bool :=
  pg == 0 || (t.getP pg).getLsbD (w / 8 * i)

/-! ### Memory operands (R219, R220) -/

/-- The address of an offset operand: bytes of the first row of axis 0 (R219). -/
def rowAddr (c : Vec) (o : BitVec 5) (off : BitVec 12) (size : Nat) : Raises Nat := do
  need (cStr c 0 == 1) cFormat (capDetail o)
  let i := off.toInt
  need (decide (0 ≤ i) && decide (i + size ≤ cExt c 0 * sizeOf (cFmt c))) cBounds
    (capDetail o 0 (off.signExtend 48))
  .ok ((cBase c + i.toNat) % 2 ^ 56)

/-- The address of an index operand of the given element size (R220). -/
def indexAddr (c : Vec) (o : BitVec 5) (x : Word) (size : Nat) : Raises Nat := do
  need (sizeOf (cFmt c) == size) cFormat (capDetail o)
  if x.toNat < cCount c then .ok (elemAddr c (decompose c x.toNat))
  else raise cBounds (capDetail o 0 (x.extractLsb' 0 48))

/-- A memory operand of the CL and CS forms: an offset or an index register. -/
inductive MemOpnd where
  | off (imm : BitVec 12) | idx (x : XReg)
  deriving DecidableEq, Repr

/-- The address of a memory operand (R219, R220). -/
def memAddr (t : Strand) (c : Vec) (o : BitVec 5) (size : Nat) : MemOpnd → Raises Nat
  | .off imm => rowAddr c o imm size
  | .idx x => indexAddr c o (t.getX x) size

/-- The formats no scalar access reaches memory through (R221). -/
def scalarForm (c : Vec) : Bool := cFmt c != fCnt && !isGroup (cFmt c)

end Sys2Proof.Machine
end

