-- ==== Sys2Proof/Machine/Memory.lean ====
section
/-! DEFINITION. The address map: windows and their rules, page tables, the L2, tags, and reading and writing bytes at
a place (06 R186 to R214). -/

namespace Sys2Proof.Machine

/-! ### Entries of the state's tables -/

/-- Logical core k. -/
def State.core (s : State) (k : Nat) : Core := Table.get s.cores k {}
/-- The state with logical core k replaced. -/
def State.setCore (s : State) (k : Nat) (c : Core) : State := { s with cores := Table.set s.cores k c }
/-- The state with f applied to logical core k. -/
def State.updCore (s : State) (k : Nat) (f : Core → Core) : State := s.setCore k (f (s.core k))
/-- Tenant t's table entry. -/
def State.tenant (s : State) (t : Nat) : Tenant := Table.get s.tenants t {}
/-- The state with f applied to tenant t's entry. -/
def State.updTenant (s : State) (t : Nat) (f : Tenant → Tenant) : State :=
  { s with tenants := Table.upd s.tenants t {} f }
/-- Function f's host structures. -/
def State.fn (s : State) (f : Nat) : Fn := Table.get s.fns f {}
/-- The state with g applied to function f. -/
def State.updFn (s : State) (f : Nat) (g : Fn → Fn) : State := { s with fns := Table.upd s.fns f {} g }
/-- Odpa port p. -/
def State.port (s : State) (p : Nat) : Port := Table.get s.ports p {}
/-- The state with g applied to port p. -/
def State.updPort (s : State) (p : Nat) (g : Port → Port) : State := { s with ports := Table.upd s.ports p {} g }
/-- The current generation of tenant t (R400). -/
def State.gen (s : State) (t : Nat) : BitVec 8 := (s.tenant t).gen
/-- TIME, in ticks of the 100 MHz reference (R147). -/
def State.time (s : State) : Nat := s.timeAcc / 12600
/-- A number for a new record. -/
def State.bump (s : State) : State := { s with nextId := s.nextId + 1 }

/-- The state with the counter of the free values advanced (log 3). -/
def State.fresher (s : State) : State := { s with fresh := s.fresh + 1 }
/-- The n-th of the free times of one event: every part of a path has its own (R497; log 12). -/
def State.delay (s : State) (n : Nat) : Nat := Config.delay (8 * s.fresh + n)
/-- One of the times up to a ceiling (R497; log 12). -/
def State.someTime (s : State) (ceiling : Nat) : Nat := 1 + s.delay 0 % ceiling
/-- The core is a spare standing in for its logical core (R22, 12 R405). -/
def State.isSpare (s : State) (k : Nat) : Bool :=
  (s.service.remap.getD (k / 512) []).any fun e => e.getLsbD 15 && (e.extractLsb' 0 10).toNat == k
/-- The c-cycles that R23 adds for a spare core where the rule of a figure states them: 4 (08 R273, R284, 10 R329). -/
def State.spareHop (s : State) (k : Nat) : Nat := if s.isSpare k then 4 else 0
/-- The c-cycles of the hop of a spare core where R23's ceiling of 4 alone bounds it, at the issuing end of a path or at its home's
(R23, R497; log 12). -/
def State.hop (s : State) (k : Nat) (atHome : Bool := false) : Nat :=
  if s.isSpare k then 1 + s.delay (if atHome then 2 else 1) % 4 else 0
/-- A time that the spec leaves open (R497; log 12). -/
def State.openTime (s : State) : Nat := 1 + s.delay 3

/-! ### Partitions (R188 to R191, R402) -/

/-- Bytes of one partition in a partition mode (R188). -/
def partBytes (mode : BitVec 2) : Nat := if mode = 0 then 0x20000 else if mode = 1 then 0x10000 else 0x8000
/-- Partitions of a core in a mode (R188). -/
def partCount (mode : BitVec 2) : Nat := if mode = 0 then 1 else if mode = 1 then 2 else 4

/-- The residency entry of partition i. -/
def Core.resid (c : Core) (i : Nat) : Residency := if h : i < 4 then c.residency[i] else {}

/-- The partition whose residency entry on a core names a tenant (R402). -/
def State.residentOn (s : State) (t k : Nat) : Option Nat :=
  (List.range (partCount (s.core k).pmode)).find? fun i =>
    let r := (s.core k).resid i
    r.v && r.tenant == t && r.gen == s.gen t

/-- The index of an absent partition of a tenant whose residency entry another tenant has meanwhile (R191, R397). -/
def State.awayOn (s : State) (t k : Nat) : Option Nat :=
  ((s.core k).away.find? fun a => a.2.v && a.2.tenant == t && a.2.gen == s.gen t).map (·.1)

/-- The partition that a tenant holds on a core, present or absent (R402). -/
def State.partOf (s : State) (t k : Nat) : Option Nat :=
  match s.residentOn t k with
  | some i => some i
  | none => s.awayOn t k

/-- Whether the partition a tenant holds on a core is absent (R191). -/
def State.absentOn (s : State) (t k : Nat) : Bool :=
  match s.residentOn t k with
  | some i => (s.core k).absent.getLsbD i
  | none => (s.awayOn t k).isSome

/-- Whether the tenant holds a present partition on the core (R323). -/
def State.presentOn (s : State) (t k : Nat) : Bool :=
  match s.residentOn t k with
  | some i => !(s.core k).absent.getLsbD i
  | none => false

/-- The partition register of a core (06 Table 2): HOLDER caches the residency table for partitions 0 to 2 (R402). -/
def Core.partReg (c : Core) : Word :=
  let holder (i : Nat) : BitVec 8 := BitVec.ofBool (c.resid i).v ++ BitVec.ofNat 7 (c.resid i).tenant
  0#32 ++ holder 2 ++ holder 1 ++ holder 0 ++ c.absent ++ 0#2 ++ c.pmode

/-! ### Places -/

/-- What an access needs of a page (R205). -/
structure Need where
  r : Bool := false
  w : Bool := false
  x : Bool := false
  deriving DecidableEq, Repr

/-- A load or KREAD. -/
def needR : Need := { r := true }
/-- A store. -/
def needW : Need := { w := true }
/-- An atomic or an add to a counter. -/
def needRW : Need := { r := true, w := true }
/-- A fetch. -/
def needX : Need := { x := true }

/-- The window of an address (R186). -/
inductive Window where
  | heap | host | spad (core off : Nat) | vault (v off : Nat) | counter (port off : Nat) | reserved
  deriving DecidableEq, Repr

/-- The window that VA[55:48] selects (06 Table 1). -/
def windowOf (va : Nat) : Window :=
  let o := va % 2 ^ 48
  let w := va / 2 ^ 48 % 256
  if w = 0 then .heap
  else if w = 1 then .host
  else if w = 0xF0 then if o < 0x8000000 then .spad (o / 0x20000) (o % 0x20000) else .reserved
  else if w = 0xF1 then if o < 0x10000000 then .vault (o / 0x200000) (o % 0x200000) else .reserved
  else if w = 0xF2 then .counter (o / 2 ^ 46) (o % 2 ^ 46)
  else .reserved

/-! ### Page tables (R203 to R205) -/

/-- A leaf found by a walk: the entry, the first address it maps and the size of its page. -/
structure Leaf where
  pte : Word
  base : Nat
  size : Nat
  deriving DecidableEq, Repr

/-- FRAME, as an address. -/
def pteFrame (p : Word) : Nat := (p.extractLsb' 16 28).toNat * 0x10000
/-- HM. -/
def pteHm (p : Word) : BitVec 2 := p.extractLsb' 6 2
/-- TGT. -/
def pteTgt (p : Word) : BitVec 2 := p.extractLsb' 8 2
/-- HOME. -/
def pteHome (p : Word) : BitVec 16 := p.extractLsb' 44 16
/-- QUAD. -/
def pteQuad (p : Word) : Nat := (p.extractLsb' 60 3).toNat

/-- The page size of a leaf at a level (R203). -/
def levelSize (level : Nat) : Nat := if level = 1 then 2 ^ 30 else if level = 2 then 2 ^ 21 else 2 ^ 16

/-- Whether a leaf is well formed in the window of its address (R205). A heap leaf whose frame ends beyond program memory maps nothing:
no strand reaches the reserved region as memory (R195, R389), and the cause is a DESIGN CHOICE (log 64). -/
def leafOk (host : Bool) (level : Nat) (p : Word) : Bool :=
  level != 0 && p.extractLsb' 63 1 == 0 && p.extractLsb' 10 6 == 0 && p.extractLsb' 5 1 == 0 &&
  pteFrame p % levelSize level == 0 && pteTgt p == (if host then 1 else 0) && pteHm p != 3 &&
  !(pteHm p == 0 && pteHome p == 0) && !(pteHm p == 1 && p.extractLsb' 54 6 != 0) &&
  (host || decide (pteFrame p + levelSize level ≤ Config.programBytes))

/-- Whether a non-leaf entry is well formed (R204, R205). -/
def tableOk (level : Nat) (p : Word) : Bool :=
  level != 3 && p.extractLsb' 44 20 == 0 && p.extractLsb' 2 14 == 0

/-- The walk from a level on, with its fuel (R203): the leaf that maps the 49-bit value t, or XLATE_MISS; MEM_INTEGRITY where
an entry lies in a unit that fails (R200). -/
def walkFrom (m : List Host.Cell) (bad : List Nat) (host : Bool) (t : Nat) :
    Nat → Nat → Nat → Except (BitVec 8) (Word × Nat)
  | 0, _, _ => .error cMiss
  | fuel + 1, level, table =>
    let shift := if level = 0 then 39 else if level = 1 then 30 else if level = 2 then 21 else 16
    let count := if level = 0 then 1024 else if level = 3 then 32 else 512
    let a := table + 8 * (t / 2 ^ shift % count)
    let p := w64 (memNat m a 8)
    if bad.contains (a / 512) then .error cIntegrity
    else if !p.getLsbD 0 then .error cMiss
    else if p.getLsbD 1 then (if leafOk host level p then .ok (p, level) else .error cMiss)
    else if tableOk level p then walkFrom m bad host t fuel (level + 1) (pteFrame p)
    else .error cMiss

/-- The leaf of a heap or host address of a tenant, by its page tables, or the cause that its walk raises (R200, R205). -/
def State.walk (s : State) (t va : Nat) : Except (BitVec 8) Leaf :=
  match walkFrom s.mem s.badUnits (va / 2 ^ 48 % 2 == 1) (va % 2 ^ 49) 4 0 (s.tenant t).ptroot with
  | .ok (p, level) => .ok { pte := p, base := va - va % levelSize level, size := levelSize level }
  | .error cause => .error cause

/-- An entry of a TLB unit holds the translation of an address of the tenant's current generation (R206). -/
def State.tlbEntry (s : State) (unit t va : Nat) (e : TlbEntry) : Bool :=
  e.unit == unit && e.tenant == t && e.gen == s.gen t && decide (e.base ≤ va) && decide (va < e.base + e.size)

/-- The leaf of a heap or host address of a tenant. Where its walk would read an entry that fails, the translation that a TLB holds
stands: a hit reads no entry (R200, R206). -/
def State.leafOf (s : State) (t va : Nat) : Except (BitVec 8) Leaf :=
  match s.walk t va with
  | .ok l => .ok l
  | .error cause =>
    match s.tlb.find? fun e => decide (cause = cIntegrity) && s.tlbEntry e.unit t va e with
    | some e => .ok { pte := e.pte, base := e.base, size := e.size }
    | none => .error cause

/-- Whether the leaf grants what the access needs (R205). -/
def leafGrants (p : Word) (n : Need) : Bool :=
  (!n.r || p.getLsbD 2) && (!n.w || p.getLsbD 3) && (!n.x || p.getLsbD 4)

/-- Whether a TLB unit holds the translation of an address of the tenant's current generation (R206). -/
def State.tlbHit (s : State) (unit t va : Nat) : Bool := s.tlb.any (s.tlbEntry unit t va)

/-- The list with one entry added, one given up when it is full (log 6). -/
def addCapped {α : Type} (choice cap : Nat) (l : List α) (a : α) : List α :=
  if l.length < cap then l ++ [a] else l.eraseIdx (choice % l.length) ++ [a]

/-- The state with a translation put into one TLB unit of the given capacity. -/
def State.tlbPut (s : State) (unit cap t : Nat) (l : Leaf) : State :=
  let mine := s.tlb.filter (·.unit == unit)
  let others := s.tlb.filter (·.unit != unit)
  let e : TlbEntry := { unit, tenant := t, gen := s.gen t, base := l.base, size := l.size, pte := l.pte }
  { s with tlb := others ++ addCapped (Config.victim s.fresh) cap (dropWhere mine (· == e)) e, fresh := s.fresh + 1 }

/-- The state with a walked translation in the cluster TLB and its die's TLB (R206). -/
def State.tlbFill (s : State) (cluster t : Nat) (l : Leaf) : State :=
  (s.tlbPut cluster 2048 t l).tlbPut (128 + cluster / 64) 32768 t l

/-- The die of a unit that translates: a cluster, or 128 + bindery. -/
def unitDie (unit : Nat) : Nat := if unit < 128 then unit / 64 else (unit - 128) / 4

/-- A unit's own TLB or its die's holds the translation of an address (R206). -/
def State.tlbHas (s : State) (unit t va : Nat) : Bool := s.tlbHit unit t va || s.tlbHit (128 + unitDie unit) t va

/-- A walker of a die is free (R206). -/
def State.walkerFree (s : State) (die : Nat) : Bool := decide ((s.walks.filter fun w => w.die == die).length < 32)

/-- The translation of an access that is no strand's store, brought into the TLBs that it goes through: a cluster's and its die's,
or of a bindery, which lies in no cluster, its die's; the die's entry serves where it has one (R206). -/
def State.tlbUse (s : State) (unit t va : Nat) : State :=
  let die := unitDie unit
  if !(decide (va / 2 ^ 48 % 256 ≤ 1)) || s.tlbHit (if unit < 128 then unit else 128 + die) t va then s
  else match s.leafOf t va with
    | .ok l =>
      if 128 ≤ unit then s.tlbPut (128 + die) 32768 t l
      else if s.tlbHit (128 + die) t va then s.tlbPut unit 2048 t l
      else s.tlbFill unit t l
    | .error _ => s

/-! ### Homes of lines and cells (R196, R207) -/

/-- The clusters of the package numbering in a quadrant, ascending (R19). -/
def quadClusters (quad : Nat) : List Nat :=
  (List.range 128).filter fun c => 4 * (c / 64) + (2 * (c % 64 / 8 / 4) + c % 8 / 4) == quad

/-- The logical cores a cluster mask selects, ascending (R207). -/
def maskCores (quad : Nat) (mask : BitVec 16) : List Nat :=
  let cs := (quadClusters quad).zipIdx.filter fun p => mask.getLsbD p.2
  cs.flatMap fun p => (List.range 8).map (p.1 * 8 + ·)

/-- The home slice of a line under HM 00 or 01 (R207). -/
def sliceOf (p : Word) (a : Nat) : Nat :=
  if pteHm p = 1 then (p.extractLsb' 44 10).toNat
  else
    let l := a / 64
    let cs := maskCores (pteQuad p) (pteHome p)
    cs.getD (((l % 65536) ^^^ (l / 65536 % 65536)) % cs.length) 0

/-- The place of an address on a leaf (R204, R207). -/
def leafPlace (t : Nat) (l : Leaf) (va : Nat) : Place :=
  let a := pteFrame l.pte + (va - l.base)
  if pteTgt l.pte = 1 then
    let io := a % Config.hostSpan
    { flat := Config.hostFlat + Config.hostSpan * t + io
      home := if pteHm l.pte = 2 then .host else .hostSlice (sliceOf l.pte io) }
  else { flat := a, home := if pteHm l.pte = 2 then .channel (a / 512 % 24) else .slice (sliceOf l.pte a) }

/-! ### The window rules (R186 to R194) -/

/-- The place of one byte of the tenant's address space, or the cause that its window rule or translation raises,
with the address of the access. `ctr`: a counter operation, which alone reaches the counter region (R187). -/
def State.placeOf (s : State) (t va : Nat) (n : Need) (ctr : Bool) (accVa : Nat) : Raises Place :=
  match windowOf va with
  | .reserved => raise cMiss (vaDetail accVa)
  | .spad k o =>
    match s.partOf t k with
    | none => raise cMiss (vaDetail accVa)
    | some i =>
      let sz := partBytes (s.core k).pmode
      if o < sz then .ok { flat := Config.spadFlat + 0x20000 * k + i * sz + o, home := .spad k }
      else raise cMiss (vaDetail accVa)
  | .vault v o =>
    if o < 0x180000 then
      let b := Table.get s.blocks (24 * v + o / 0x10000) {}
      if b.v && b.tenant == t && b.gen == s.gen t then
        .ok { flat := Config.vaultFlat + 0x200000 * v + o, home := .vault v }
      else raise cMiss (vaDetail accVa)
    else raise cXperm (vaDetail accVa)
  | .counter p o => if ctr then .ok { flat := 2 ^ 60 + 2 ^ 46 * p + o, home := .peer p } else raise cXperm (vaDetail accVa)
  | _ =>
    match s.leafOf t va with
    | .error cause => raise cause (vaDetail accVa)
    | .ok l => if leafGrants l.pte n then .ok (leafPlace t l va) else raise cXperm (vaDetail accVa)

/-- The places of n bytes from va: the first cause that one of them raises, in address order. -/
def State.placesOf (s : State) (t va n : Nat) (need : Need) : Raises (List Place) := do
  let p0 ← s.placeOf t va need false va
  let pl ← s.placeOf t ((va + (n - 1)) % 2 ^ 56) need false va
  if pl.flat = p0.flat + (n - 1) ∧ p0.flat % 64 + n ≤ 64 then
    .ok ((List.range n).map fun i => { flat := p0.flat + i, home := p0.home })
  else
    (List.range n).mapM fun i => s.placeOf t ((va + i) % 2 ^ 56) need false va

/-- Near for a core: its own scratchpad window or its cluster's vault window (R215, R265). -/
def nearAddr (core va : Nat) : Bool :=
  match windowOf va with
  | .spad k _ => k == core
  | .vault v _ => v == core / 8
  | _ => false

/-- In the heap or host window, which alone are translated (R186). -/
def translated (va : Nat) : Bool := match windowOf va with | .heap => true | .host => true | _ => false

/-- In the host window. -/
def hostAddr (va : Nat) : Bool := match windowOf va with | .host => true | _ => false

/-- The partition an address of a tenant reaches is absent, so the access is held (R191). -/
def State.heldAt (s : State) (t va : Nat) : Bool :=
  match windowOf va with
  | .spad k _ => s.absentOn t k
  | _ => false

/-- The last address of an access of n bytes. -/
def lastVa (va n : Nat) : Nat := (va + (n - 1)) % 2 ^ 56

/-- The first address of an access of n bytes whose partition is absent: an access whose bytes lie in two windows is held for either
(R191, R221). -/
def State.heldIn (s : State) (t va n : Nat) : Option Nat := [va, lastVa va n].find? fun a => s.heldAt t a

/-! ### Integrity and the L2 (R198 to R200, R207 to R209) -/

/-- The 512-byte unit of a place fails its integrity code or ECC (R200). -/
def State.badAt (s : State) (flat : Nat) : Bool := s.badUnits.contains (flat / 512)

/-- The tag of a granule outside the L2 (R201). -/
def State.rawTag (s : State) (flat : Nat) : Bool := s.tags.contains (flat / 64)

/-- Host memory holds no tags (R202). -/
def isHostPlace (flat : Nat) : Bool := decide (Config.hostFlat ≤ flat) && decide (flat < 2 ^ 60)

/-- The hit on a line: slice, line address, tenant and generation match (R208). -/
def L2Line.hits (l : L2Line) (slice flat t : Nat) (g : BitVec 8) : Bool :=
  l.slice == slice && l.place == flat / 64 * 64 && l.tenant == t && l.gen == g

/-- The L2 line of a place, when it is held (R208). -/
def State.l2Find (s : State) (slice flat t : Nat) : Option L2Line :=
  s.l2.find? fun l => l.hits slice flat t (s.gen t)

/-- The function's requests are held: QUIESCED, ERROR or D3hot (R450, R452, R466). -/
def Fn.halted (f : Fn) : Bool := f.tdi == .quiesced || f.tdi == .error || f.d3hot

/-- A TLP of an unlocked function on a stream that became Insecure and has not been keyed again: it is discarded (R455). -/
def Fn.lostOn (f : Fn) (ide : IdeTag) : Bool :=
  match ide with
  | some (st, _) => let d := f.ide.getD st {}; f.tdi == .unlocked && d.keys != 0 && !d.secure
  | none => false

/-- Vector n is signalled, or held with the function's other requests (R442, R452). -/
def Fn.signal (f : Fn) (n : Nat) : Fn :=
  if f.halted then { f with msixHeld := f.msixHeld ++ [n] } else { f with msix := n :: f.msix }

/-- Entries of the error log (R471): those that name a tenant go to its function, the others to function 0. That an entry signals
vector 2, the error vector of R442, is a DESIGN CHOICE (log 79). -/
def State.logAt (s : State) (kind : BitVec 8) (die : BitVec 8) (unit : BitVec 16) (func : Option Nat)
    (addr arg : Word) : State :=
  let e : LogEntry :=
    { time := w64 s.time, kind, die, unit, func := (func.map (BitVec.ofNat 16)).getD 0x3FF, addr, arg }
  let put (f : Fn) : Fn :=
    ({ f with loghead := f.loghead + 1, log := if f.log.length < 256 then f.log ++ [e] else f.log.drop 1 ++ [e] } : Fn).signal 2
  let s := s.updFn (func.getD 0) put
  if func.isNone then { s with pkgLog := s.pkgLog ++ [e] } else s

/-- The die and the number of the unit of a place, a logical core, a vault or a channel, as a log entry names them (R27, R196, 14
R471). -/
def unitAt (flat : Nat) : BitVec 8 × BitVec 16 :=
  if Config.hostFlat ≤ flat then (0, 0)
  else if Config.vaultFlat ≤ flat then
    let v := (flat - Config.vaultFlat) / 0x200000
    (BitVec.ofNat 8 (v / 64), BitVec.ofNat 16 v)
  else if Config.spadFlat ≤ flat then
    let k := (flat - Config.spadFlat) / 0x20000
    (BitVec.ofNat 8 (k / 512), BitVec.ofNat 16 k)
  else (BitVec.ofNat 8 (flat / 512 % 24 / 12), BitVec.ofNat 16 (flat / 512 % 24))

/-- The die of an Odpa port: ports 0 and 1 lie on die 0 (R27). -/
def portDie (port : Nat) : BitVec 8 := BitVec.ofNat 8 (port / 2)

/-- A line written back: its bytes and tag reach memory, or the read half of R198 fails and the loss is logged (R218);
the bytes of a host line reach host memory (R209), or the host interface holds them with the function's requests (R452). R218 gives
the lost write-back of an evicted line; that the lost write-back of an XFLUSH or XINVAL is logged the same, and its command goes on,
is a DESIGN CHOICE (log 73). The write-back of a host line asks for no ATS translation, whatever the host has withdrawn since: R209 and
R210 do not say, DESIGN CHOICE (log 93). -/
def State.writeBack (s : State) (l : L2Line) : State :=
  if !l.dirty then s
  else if s.badAt l.place then
    s.logAt 0x03 (unitAt l.place).1 (unitAt l.place).2 (some l.tenant) (w64 l.place) 0x23
  else if isHostPlace l.place && (s.fn l.tenant).halted then { s with heldWrites := s.heldWrites ++ [l] }
  else
    { s with
      mem := memPuts s.mem (cellsFrom l.place (natBytes 64 l.data.toNat))
      tags := if isHostPlace l.place then s.tags else tagPut s.tags (l.place / 64) l.tag }

/-- The state with the line of a place held in its slice, filled from memory, a line of a full set given up and written
back (R207, R209); MEM_INTEGRITY when the fill fails (R200). -/
def State.l2Fill (s : State) (slice flat t va : Nat) : Raises State :=
  match s.l2Find slice flat t with
  | some _ => .ok s
  | none =>
    if s.badAt flat then raise cIntegrity (vaDetail va)
    else
      let line := flat / 64 * 64
      let set := line / 64 % 128
      let ways := s.l2.filter fun l => l.slice == slice && l.place / 64 % 128 == set
      let (s, s') :=
        if ways.length < 8 then (s, s)
        else
          let v := ways.getD (Config.victim s.fresh % ways.length) (ways.headD
            { slice, place := line, tenant := t, gen := 0, tag := false, dirty := false, data := 0 })
          let s1 := { s with fresh := s.fresh + 1, l2 := s.l2.filter (· != v) }
          (s1, if v.gen == s.gen v.tenant then s1.writeBack v else s1)
      let new : L2Line :=
        { slice, place := line, tenant := t, gen := s.gen t, tag := s'.rawTag line, dirty := false,
          data := BitVec.ofNat 512 (memNat s'.mem line 64) }
      .ok { s' with l2 := new :: s'.l2 }

/-- The slice that homes a place, when it is cached. -/
def Home.sliceNo : Home → Option Nat
  | .slice k => some k
  | .hostSlice k => some k
  | .spad _ => none
  | .vault _ => none
  | .channel _ => none
  | .host => none
  | .peer _ => none

/-- A byte read at a place by a tenant (R208). -/
def State.peekByte (s : State) (t : Nat) (p : Place) : Byte :=
  match p.home.sliceNo with
  | some k =>
    match s.l2Find k p.flat t with
    | some l => l.data.extractLsb' (8 * (p.flat % 64)) 8
    | none => memGet s.mem p.flat
  | none => memGet s.mem p.flat

/-- The lines of the places held, or MEM_INTEGRITY with the address of the access (R200). -/
def State.touch (s : State) (t va : Nat) (ps : List Place) : Raises State :=
  ps.foldlM (fun s p =>
    match p.home.sliceNo with
    | some k => s.l2Fill k p.flat t va
    | none => if s.badAt p.flat then raise cIntegrity (vaDetail va) else .ok s) s

/-- The bytes of the places. -/
def State.readPlaces (s : State) (t va : Nat) (ps : List Place) : Raises (State × List Byte) := do
  let s ← s.touch t va ps
  .ok (s, ps.map (s.peekByte t))

/-- A byte written at a place, its granule's tag cleared (R120). -/
def State.pokeByte (s : State) (t : Nat) (p : Place) (b : Byte) : State :=
  match p.home.sliceNo with
  | some k =>
    { s with l2 := updWhere s.l2 (fun l => l.hits k p.flat t (s.gen t)) fun l =>
        { l with data := putBits l.data (8 * (p.flat % 64)) b, tag := false, dirty := true } }
  | none => { s with mem := memPut s.mem p.flat b, tags := tagPut s.tags (p.flat / 64) false }

/-- The 512-byte units that a write replaces whole fail no longer (R200). -/
def State.replaced (s : State) (fs : List Nat) : State :=
  if fs.length < 512 then s
  else { s with badUnits := s.badUnits.filter fun u => !((List.range 512).all fun i => fs.contains (512 * u + i)) }

/-- Whose key a frame of program memory is written under (R197, R214). -/
def State.frameKey (s : State) (frame : Nat) : Option (Nat × BitVec 8) := (s.frames.find? fun f => f.1 == frame).map (·.2)

/-! ### What an engine has not seen yet (R292, R304, R306; log 16) -/

/-- The cluster of a place in a scratchpad or a vault (R19). -/
def placeCluster (flat : Nat) : Option Nat :=
  if flat < Config.spadFlat || decide (Config.hostFlat ≤ flat) then none
  else if flat < Config.vaultFlat then some ((flat - Config.spadFlat) / 0x100000)
  else some ((flat - Config.vaultFlat) / 0x200000)

/-- A scope around core k contains an engine and a place (R290, R291). -/
def scopeHas (scope : Scope) (k unit flat : Nat) : Bool :=
  match scope with
  | .core => false
  | .clus => unit == k / 8 && placeCluster flat == some (k / 8)
  | .die => unitDie unit == k / 512 && (placeCluster flat).map (· / 64) == some (k / 512)
  | .pkg => !isHostPlace flat
  | .sys => true

/-- An order at a scope around core k carries the writes of a tenant to the engines and places that the scope contains; what the host has
written is ordered at SYS alone (R298 to R300, R304). -/
def State.ordered (s : State) (scope : Scope) (k t : Nat) : State :=
  { s with old := dropWhere s.old fun o => o.tenant == t && scopeHas scope k o.unit o.flat && (!o.host || scope == .sys) }

/-- The bytes at places before a write, kept for the engines that see writes late: of several writes the byte before the first. -/
def State.keepOld (s before : State) (t : Nat) (ps : List Place) : State :=
  { s with
    old := s.old ++ s.late.flatMap fun u =>
      (ps.filter fun p => !s.old.any fun o => o.unit == u && o.flat == p.flat).map fun p =>
        { unit := u, tenant := t, flat := p.flat, byte := before.peekByte t p } }

/-- What is kept of places was replaced by the host. -/
def State.byHost (s : State) (ps : List Place) : State :=
  { s with old := updWhere s.old (fun o => ps.any fun p => p.flat == o.flat) fun o => { o with host := true } }

/-- An engine's own writes are seen by it. -/
def State.seenBy (s : State) (unit : Nat) (ps : List Place) : State :=
  { s with old := dropWhere s.old fun o => o.unit == unit && ps.any fun p => p.flat == o.flat }

/-- The byte that a command of an engine reads where the newest is given. -/
def State.byteFor (s : State) (unit t : Nat) (p : Place) (b : Byte) : Byte :=
  match s.old.find? fun o => o.unit == unit && o.tenant == t && o.flat == p.flat with
  | some o => o.byte
  | none => b

/-- Bytes written at places, each applied by its home (R120, R217); MEM_INTEGRITY on a fill or a read half (R198). -/
def State.writePlaces (s : State) (t va : Nat) (ps : List (Place × Byte)) : Raises State := do
  let s ← (s.replaced (ps.map (·.1.flat))).touch t va (ps.map (·.1))
  .ok ((ps.foldl (fun s p => s.pokeByte t p.1 p.2) s).keepOld s t (ps.map (·.1)))

/-- The tag of a granule at a place (R201, R202). -/
def State.tagAt (s : State) (t : Nat) (p : Place) : Bool :=
  match p.home.sliceNo with
  | some k =>
    match s.l2Find k p.flat t with
    | some l => l.tag
    | none => s.rawTag p.flat
  | none => s.rawTag p.flat

/-- A whole granule written with its tag (R201, R224); host memory keeps no tag (R202). -/
def State.writeGranule (s : State) (t va : Nat) (p : Place) (img : Vec) (tag : Bool) : Raises State := do
  let ps := (List.range 64).map fun i => ({ flat := p.flat + i, home := p.home } : Place)
  let s ← s.writePlaces t va (ps.zip (natBytes 64 img.toNat))
  let tag := tag && !isHostPlace p.flat
  match p.home.sliceNo with
  | some k => .ok { s with l2 := updWhere s.l2 (fun l => l.hits k p.flat t (s.gen t)) fun l => { l with tag } }
  | none => .ok { s with tags := tagPut s.tags (p.flat / 64) tag }

/-- A whole granule read with its tag. -/
def State.readGranule (s : State) (t va : Nat) (p : Place) : Raises (State × Vec × Bool) := do
  let ps := (List.range 64).map fun i => ({ flat := p.flat + i, home := p.home } : Place)
  let (s, bs) ← s.readPlaces t va ps
  .ok (s, BitVec.ofNat 512 (bytesNat bs), s.tagAt t p)

/-! ### Revocation (R413, R414) -/

/-- The physical page of 4 KiB that holds a heap address on a leaf (R412). -/
def Leaf.page (l : Leaf) (va : Nat) : Nat := (pteFrame l.pte + (va - l.base)) / 4096

/-- The revocation bit of the page that holds an address of a tenant; an unmapped page counts as unmarked (R412, R413), and so does one
whose bit lies in a unit that fails (R200; log 98). -/
def State.pageMarked (s : State) (t va : Nat) : Bool :=
  match windowOf va with
  | .heap =>
    match s.leafOf t va with
    | .ok l => !s.badAt (Config.bitmapBase + l.page va / 8) &&
        (memGet s.mem (Config.bitmapBase + l.page va / 8)).getLsbD (l.page va % 8)
    | .error _ => false
  | _ => false

/-- The test of the page that holds an address reads an entry or a byte of the bitmap that fails (R200). -/
def State.pageFails (s : State) (t va : Nat) : Bool :=
  match windowOf va with
  | .heap =>
    match s.leafOf t va with
    | .ok l => s.badAt (Config.bitmapBase + l.page va / 8)
    | .error cause => cause == cIntegrity
  | _ => false

/-- The capability is into the marked region (R413). -/
def State.intoMarked (s : State) (t : Nat) (img : Vec) : Bool :=
  match windowOf (cBase img) with
  | .heap => s.pageMarked t (lowByte img).toNat || s.pageMarked t (highByte img).toNat
  | _ => false

/-- The revocation check of a tagged image: during a pending sweep of the tenant (R414). -/
def State.revoked (s : State) (t : Nat) (img : Vec) : Bool := (s.tenant t).sweepPending && s.intoMarked t img

/-- The addresses at which the test of an image against the marked region reads data that fails (R200, R413). -/
def State.testFails (s : State) (t : Nat) (img : Vec) : List Nat :=
  if windowOf (cBase img) == .heap then [(lowByte img).toNat, (highByte img).toNat].filter (s.pageFails t) else []

/-- The revocation check of an image consumes data that fails: MEM_INTEGRITY at the access that makes the check (R200, R414). -/
def State.checkFails (s : State) (t : Nat) (tag : Bool) (img : Vec) : Bool :=
  tag && (s.tenant t).sweepPending && !(s.testFails t img).isEmpty

/-! ### Adapter storage (R408) -/

/-- Addresses of a tenant from lo to hi - 1 meet the storage of a slot allotted to it, other than slot n. -/
def State.inStorage (s : State) (t n lo hi : Nat) : Bool :=
  s.slots.any fun x => x.1 != n && x.2.allot && x.2.tenant == t && x.2.tgen == s.gen t &&
    decide (lo < x.2.dbase + x.2.dsize) && decide (x.2.dbase < hi)

/-! ### The host's pages (R210, R211) -/

/-- The 4 KiB page of a function's I/O address. -/
def ioPage (flat : Nat) : Nat := (flat - Config.hostFlat) % Config.hostSpan / 4096

/-- The permission the host's own tables give a page: all, unless the host has said otherwise. -/
def State.hostPermOf (s : State) (fn page : Nat) : BitVec 2 :=
  match s.hostPerm.find? fun e => e.fn == fn && e.page == page with
  | some e => e.perm
  | none => 3

/-- What an access needs, as the permission bits of a page. -/
def needBits (n : Need) : BitVec 2 := BitVec.ofBool n.w ++ BitVec.ofBool (n.r || n.x)

/-- The ATS translation of a place of host memory (R210): the state with the entry cached, or none when ATS gives no
translation with the permission the access needs (R211). -/
def State.ats (s : State) (fn flat : Nat) (n : Need) : Option State :=
  let page := ioPage flat
  let want := needBits n
  match s.atc.find? fun e => e.fn == fn && e.page == page && e.perm &&& want == want with
  | some _ => some s
  | none =>
    let perm := s.hostPermOf fn page
    if perm &&& want = want then
      let kept := dropWhere s.atc fun e => e.fn == fn && e.page == page
      some { s with atc := addCapped (Config.victim s.fresh) 8192 kept { fn, page, perm }, fresh := s.fresh + 1 }
    else none

end Sys2Proof.Machine
end

