-- ==== Sys2Proof/Machine/HostPages.lean ====
section
/-! DEFINITION. Reaching host memory through ATS and PRI (06 R210, R211). -/

namespace Sys2Proof.Machine

/-- What an access to host memory meets: its translation, a page request, a cause, or a function whose requests are held. -/
inductive HostReach where
  | ok (s : State) | page (s : State) (group : Nat) | refused (cause : BitVec 8) | halted

/-- The function's page requests that are issued and unanswered. -/
def State.pagesOut (s : State) (fn : Nat) : Nat := (s.pageReqs.filter fun r => r.fn == fn && r.issued).length

/-- A page request for an access (R211): issued, or waiting beyond the 64 outstanding ones. One that is pending for the same
page and permission serves: DESIGN CHOICE (log 65). -/
def State.askPage (s : State) (fn flat : Nat) (n : Need) : HostReach :=
  if (s.fn fn).priOff then .refused cPri
  else match s.pageReqs.find? fun r => r.fn == fn && r.gen == s.gen fn && r.page == ioPage flat && r.perm == needBits n with
  | some r => .page s r.group
  | none =>
    let r : PageReq :=
      { group := s.nextId, fn, gen := s.gen fn, page := ioPage flat, perm := needBits n
        issued := !(s.fn fn).halted && decide (s.pagesOut fn < 64) }
    .page { s with pageReqs := s.pageReqs ++ [r], nextId := s.nextId + 1 } s.nextId

/-- The access reads host memory: it is a read, or it fills an L2 line, which the L2 does not hold (R207, R209). -/
def State.readsHost (s : State) (fn : Nat) (p : Place) (n : Need) : Bool :=
  match p.home.sliceNo with
  | some k => (s.l2Find k p.flat fn).isNone
  | none => n.r || n.x

/-- The access asks the host: what it needs of host memory is in no L2 line (R207, R209). -/
def State.asksHost (s : State) (fn : Nat) (p : Place) : Bool :=
  isHostPlace p.flat && (match p.home.sliceNo with
    | some k => (s.l2Find k p.flat fn).isNone
    | none => true)

/-- The translation of one place for an access; only host memory needs one (R210, R211). A read that the host does not complete
raises HOST_ABORT (R243, R421), and a function whose requests are held issues none (R452, R466). -/
def State.reach (s : State) (fn : Nat) (p : Place) (n : Need) : HostReach :=
  if isHostPlace p.flat then
    match s.ats fn p.flat n with
    | some s =>
      if s.asksHost fn p && (s.fn fn).halted then .halted
      else if s.readsHost fn p n && s.hostFails.contains (fn, ioPage p.flat) then .refused cHostAbort
      else .ok s
    | none => s.askPage fn p.flat n
  else .ok s

/-- The translations of the places of an access, in order: the first that is lacking stops it. -/
def State.reachAll (s : State) (fn : Nat) (n : Need) : List Place → HostReach
  | [] => .ok s
  | p :: ps =>
    match s.reach fn p n with
    | .ok s => s.reachAll fn n ps
    | r => r

/-- What the translation of an access of a unit meets beside its window rules. -/
inductive Xlate where
  | ok | busy | fails (cause : BitVec 8)
  deriving DecidableEq, Repr

/-- The translation that an access needs which goes through the TLBs of a unit, a cluster or 128 + bindery: its own TLB or its die's
has it, or a free walker walks for it; the walk fails where an entry is absent or lies in a unit that fails (R200, R206). The service
pair's accesses go through none. -/
def State.xlate (s : State) (unit : Option Nat) (t va : Nat) : Xlate :=
  match unit with
  | none => .ok
  | some u =>
    if !translated va || s.tlbHas u t va then .ok
    else if !s.walkerFree (unitDie u) then .busy
    else match s.walk t va with
      | .ok _ => .ok
      | .error cause => .fails cause

/-- The translation that an access of a unit has made, in its TLBs. -/
def State.xlated (s : State) (unit : Option Nat) (t va : Nat) : State :=
  match unit with
  | none => s
  | some u => s.tlbUse u t va

/-- The ATS translations of the places of an access, in order: the first that is lacking stops it (R210, R211). -/
def State.atsAll (s : State) (fn : Nat) (n : Need) : List Place → HostReach
  | [] => .ok s
  | p :: ps =>
    if isHostPlace p.flat then
      match s.ats fn p.flat n with
      | some s => s.atsAll fn n ps
      | none => s.askPage fn p.flat n
    else s.atsAll fn n ps

/-- The places of a request from outside: the function's tenant exists, and every byte passes the window rules and translation; a
page of host memory that ATS does not translate refuses it (log 23). -/
def State.aperturePlaces (s : State) (fn va n : Nat) (n' : Need) : Raises (State × List Place) := do
  need (s.tenant fn).v cMiss (vaDetail va)
  let ps ← if n = 0 then .ok [] else s.placesOf fn va n n'
  let s ← ps.foldlM (fun (s : State) p =>
    if isHostPlace p.flat then
      match s.ats fn p.flat n' with
      | some s => .ok s
      | none => raise cPri (vaDetail va)
    else .ok s) s
  .ok (s, ps)

/-- The first waiting page request of a function is issued once there is room for it (R211) and its requests are not held (R452).
-/
def State.issuePage (s : State) (fn : Nat) : State :=
  if !(s.fn fn).halted && decide (s.pagesOut fn < 64) then
    match s.pageReqs.find? fun r => r.fn == fn && !r.issued with
    | some r => { s with pageReqs := updWhere s.pageReqs (fun q => q.group == r.group) fun q => { q with issued := true } }
    | none => s
  else s

/-- An access of an engine or of an access path reaches host memory while the function's requests are held: it waits at its first
host element, whether the L2 holds the line or not (R452). -/
def State.parkedAt (s : State) (t : Nat) (ps : List Place) : Bool := (s.fn t).halted && ps.any fun p => isHostPlace p.flat

/-- Whether an access of a tenant is held: at an absent partition, or at host memory while the function's requests are (R191, R452).
-/
def State.blockedAt (s : State) (t va : Nat) : Bool :=
  s.heldAt t va || (match s.placeOf t va {} false va with
    | .ok p => s.parkedAt t [p]
    | .error _ => false)

/-- A strand whose descriptors supply the last strip of the given registers again (R234). -/
def Strand.retreat (t : Strand) (ks : List Nat) : Strand :=
  ks.foldl (fun t k => { t with bind := t.bind.set! k ((t.bind[k]?).join.map fun d =>
    putBits d 472 (d.extractLsb' 472 32 - 1)) }) t

/-- A far access that is to execute again, or that faults, has consumed no strip (R225, R234). -/
def State.giveBack (s : State) (id : Nat) : State :=
  { s with bms := updWhere s.bms (fun b => b.id == id) fun b => { b with
      took := [], bm := { b.bm with strand := b.bm.strand.retreat b.took } } }

/-- A held bookmark waits at the host interface with wait kind PAGE; its pc is that of the access (R211). -/
def State.toPage (s : State) (id va : Nat) (pc : Word) (group : Nat) : State :=
  { s with bms := updWhere s.bms (fun b => b.id == id) fun b => { b with
      holder := .page group
      bm := { b.bm with kind := .page, warg := w64 va, bind := false, strand := { b.bm.strand with pc } } } }

end Sys2Proof.Machine
end

