-- ==== Sys2Proof/Machine/Records.lean ====
section
/-! DEFINITION. Bookmarks and strand records: their layout and room, the ready queues, the task and compartment
tables, the host mailbox, and the delivery of faults (10 R312 to R331, 12 R390 to R393, 13 R423 to R428, 14 R449). -/

namespace Sys2Proof.Machine

/-! ### Layout (R312, R313) -/

/-- The wait-kind code of the header (R314). -/
def WKind.code : WKind → BitVec 4
  | .fault => 0 | .new => 1 | .counter => 2 | .far => 3 | .xlate => 4 | .fetch => 5 | .stream => 6 | .slot => 7
  | .page => 8 | .send => 9 | .yield => 10 | .preempt => 11

/-- SBOUND: which of v24 to v31 are bound (R313). -/
def Strand.sbound (t : Strand) : BitVec 8 :=
  (List.range 8).foldl (fun acc k => if h : k < 8 then (if t.bind[k].isSome then putBit acc k true else acc) else acc) 0

/-- The units of a bookmark (R312): a NEW record has a header and its argument unit. -/
def Bookmark.units (b : Bookmark) : Nat :=
  if b.kind = .new then (if b.arg.isSome then 2 else 1) else 5 + popcount b.saved + popcount b.strand.sbound

/-- The slots of 64 bytes a bookmark occupies: its units and, but for a NEW record, its bookplate (R320). -/
def Bookmark.slots (b : Bookmark) : Nat := if b.kind = .new then b.units else b.units + 1

/-- CTAG of the header. -/
def Bookmark.ctags (b : Bookmark) : BitVec 16 :=
  (List.range 16).foldl (fun acc n => if h : n < 16 then putBit acc n b.strand.c[n].tag else acc) 0

/-- CREV of the header. -/
def Bookmark.crevs (b : Bookmark) : BitVec 16 :=
  (List.range 16).foldl (fun acc n => if h : n < 16 then putBit acc n b.strand.c[n].rev else acc) 0

/-- The header unit (10 Table 1), field by field from the high end. -/
def Bookmark.header (b : Bookmark) : Vec :=
  b.strand.status ++ b.strand.livemask.extractLsb' 0 48 ++ b.cause ++ b.badKind.getD b.kind.code ++ b.wcap ++ b.warg ++
  b.strand.pc.extractLsb' 0 34 ++ b.ctags ++ b.crevs ++ b.strand.sbound ++ BitVec.ofNat 6 (b.units - 1) ++ b.gen ++
  BitVec.ofBool b.bind ++ BitVec.ofNat 10 b.lcore ++ b.prio ++ b.strand.pcc.img.extractLsb' 0 56 ++
  b.strand.pcc.img.extractLsb' 64 32 ++ b.strand.pcc.img.extractLsb' 400 14 ++ b.strand.pcc.img.extractLsb' 394 2 ++
  b.strand.pcc.img.extractLsb' 432 16 ++ b.strand.pcc.img.extractLsb' 456 16 ++ b.strand.pcc.img.extractLsb' 448 1 ++
  BitVec.ofBool b.strand.pcc.tag ++ b.task ++ b.saved ++ BitVec.ofBool b.strand.pcc.rev ++ b.reserved

/-- Doublewords laid little-endian into a unit (R315). -/
def unitOf (ws : List Word) : Vec := (ws.zipIdx.foldl (fun (v : Vec) w => putBits v (64 * w.2) w.1) 0)

/-- x registers from xn on, as a fixed register unit holds them (10 Table 3). -/
def Strand.xs (t : Strand) (n count : Nat) : List Word := (List.range count).map fun i => if h : n + i < 32 then t.x[n + i] else 0

/-- The units of a bookmark in their order (R312, 10 Tables 1 and 3): the header, the fixed register units, the images of the saved
capabilities, the saved vectors and the stream descriptors; a NEW record has its header and its argument unit. -/
def Bookmark.unitList (b : Bookmark) : List Vec :=
  let t := b.strand
  if b.kind = .new then b.header :: (b.arg.map (·.img)).toList
  else
    [b.header, unitOf (t.xs 1 8), unitOf (t.xs 9 8), unitOf (t.xs 17 8), unitOf (t.xs 25 7 ++ [t.p[0]])] ++
      ((List.range 16).filterMap fun n => if h : n < 16 then (if b.saved.getLsbD n then some t.c[n].img else none) else none) ++
      ((List.range 32).filterMap fun n => if h : n < 32 then (if b.saved.getLsbD (16 + n) then some t.v[n] else none) else none) ++
      (List.range 8).filterMap fun k => (t.bind[k]?).join

/-- The bookplate: p1 to p7 and LSTAMP (10 Table 3). -/
def Bookmark.bookplate (b : Bookmark) : Vec :=
  unitOf (((List.range 7).map fun i => if h : i + 1 < 8 then b.strand.p[i + 1] else 0) ++ [w64 b.strand.lstamp])

/-! ### Making a bookmark (R145, R314, R317) -/

/-- SAVED for a bookmark that LIVEMASK governs, with the registers saved whatever it holds; stream-bound registers are
saved as descriptors instead (R145). -/
def liveSaved (t : Strand) (extra : BitVec 48) : BitVec 48 :=
  (t.livemask.extractLsb' 0 48 ||| extra) &&& ~~~((t.sbound.setWidth 48) <<< 40)

/-- SAVED for a bookmark that saves every register (R145). -/
def allSaved (t : Strand) : BitVec 48 := (BitVec.allOnes 48) &&& ~~~((t.sbound.setWidth 48) <<< 40)

/-- The registers a bookmark keeps: every other c register is null and every other v register zero (R317). -/
def maskStrand (t : Strand) (saved : BitVec 48) : Strand :=
  { t with
    c := Vector.ofFn fun (i : Fin 16) => if saved.getLsbD i then t.c[i] else nullCap
    v := Vector.ofFn fun (i : Fin 32) => if saved.getLsbD (16 + i) then t.v[i] else 0 }

/-- The SAVED bit of a c register. -/
def saveC (r : CReg) : BitVec 48 := 1#48 <<< r.toNat
/-- The SAVED bit of a v register. -/
def saveV (r : VReg) : BitVec 48 := 1#48 <<< (16 + r.toNat)

/-- The bookmark of the strand on core k (R313, R314): a kind other than FAULT and PREEMPT keeps only FAULTINFO.CAUSE. -/
def State.mkBookmark (s : State) (k : Nat) (t : Strand) (kind : WKind) (saved : BitVec 48) (wcap : BitVec 4)
    (warg : Word) (bind : Bool) : Bookmark :=
  let fi := t.faultinfo.extractLsb' 56 8
  let keep := if kind = .preempt then t.faultinfo else mkFaultinfo fi 0
  { strand := { maskStrand t saved with faultinfo := keep }
    saved, kind, cause := fi, wcap, warg, gen := s.gen t.tenant, bind, lcore := k, prio := t.prio }

/-- The tenant of a bookmark. -/
def Bookmark.tenant (b : Bookmark) : Nat := stTenant b.strand.status

/-! ### Room (R319, R320, R500) -/

/-- The partitions a tenant holds on the package. -/
def State.partitions (s : State) (t : Nat) : Nat :=
  (List.range Config.cores).countP fun k => (s.partOf t k).isSome

/-- The slots of held bookmarks that p selects. -/
def State.slotsOf (s : State) (p : Held → Bool) : Nat :=
  s.bms.foldl (fun acc h => if p h then acc + h.bm.slots else acc) 0

/-- Slots that 1,024 units of closed stacks keep for other uses than the reserve: those of the 1,023 waiters of R472, of 12 slots
each. -/
def spillRoom : Nat := 12288

/-- The reserve of a tenant's closed stacks: 65 slots for each partition (R320). For a tenant with a partition on each of the 1,024 cores,
R320's figure would leave closed stacks of 1,024 units or more without the room that R472 and R474 promise them, and the reserve is
the smaller: DEDUCED (log 82). -/
def State.reserveSlots (s : State) (t : Nat) : Nat :=
  let all := (s.tenant t).cssize * 64
  min (Config.reservePerPartition * s.partitions t)
    (if 1024 ≤ (s.tenant t).cssize ∧ s.partitions t = Config.cores then all - spillRoom else all)

/-- Slots of the closed stacks that a tenant may use beside its reserve (R320). -/
def State.closedCap (s : State) (t : Nat) : Nat := (s.tenant t).cssize * 64 - s.reserveSlots t

/-- Slots of the closed stacks in use beside the reserve: bookmarks and faulted records. -/
def State.closedUsed (s : State) (t : Nat) : Nat :=
  s.slotsOf (fun h => h.bm.tenant == t && h.room == .closed) +
    5 * (s.faulted.filter fun f => f.cmd.tenant == t).length

/-- Room for slots in the closed stacks. -/
def State.closedFits (s : State) (t n : Nat) : Bool := decide (s.closedUsed t + n ≤ s.closedCap t)

/-- Where a bookmark of n slots finds room: the reading room within the tenant's share, else the closed stacks. -/
def State.roomFor (s : State) (cluster t n : Nat) : Option Room :=
  let all := s.slotsOf fun h => h.room == .reading cluster
  let mine := s.slotsOf fun h => h.room == .reading cluster && h.bm.tenant == t
  if all + n ≤ Config.roomSlots ∧ mine + n ≤ Config.roomShare then some (.reading cluster)
  else if s.closedFits t n then some .closed else none

/-! ### Queues -/

/-- The state with a bookmark held. -/
def State.hold (s : State) (b : Bookmark) (h : Holder) (cluster stamp : Nat) (room : Room) : State :=
  let e : Held := { id := s.nextId, bm := b, holder := h, cluster, stamp, room, entered := s.cycle }
  { s with bms := s.bms ++ [e], nextId := s.nextId + 1 }

/-- The held bookmark of a number. -/
def State.heldOf (s : State) (id : Nat) : Option Held := s.bms.find? (·.id == id)

/-- The state without a held bookmark: its slots are freed. -/
def State.unhold (s : State) (id : Nat) : State := { s with bms := s.bms.filter (·.id != id) }

/-- A held bookmark enters the ready queue of its home cluster, last, after some c-cycles and stamped then (R272, R331, R500). A
marked one asks for the pre-emption of its core (R377). -/
def State.releaseAfter (s : State) (late id : Nat) (bind : Bool) : State :=
  match s.heldOf id with
  | none => s
  | some h =>
    let gate : Option Nat := match h.holder with | .counter c _ _ _ _ e => if e then some c else none | _ => none
    let exch := gate.isSome
    let at' := s.cycle + late
    let h' := { h with holder := .ready, stamp := at', entered := at', bm := { h.bm with bind := bind || exch } }
    let s := { s with bms := (s.bms.filter (·.id != id)) ++ [h'] }
    match gate with
    | some g => s.updCore h.bm.lcore fun c =>
      { c with
        released := c.released ++ [(id, g)]
        preemptReq := c.preemptReq || c.mode == .running || c.mode == .loading }
    | none => s

/-- A held bookmark enters its ready queue in this c-cycle. -/
def State.release (s : State) (id : Nat) (bind : Bool) : State := s.releaseAfter 0 id bind

/-! ### The task and compartment tables (R390 to R393) -/

/-- A compartment-table entry of a tenant; 0 beyond CTLEN. -/
def State.compEntry (s : State) (t : Nat) (k : BitVec 16) : Word :=
  if k.toNat < (s.tenant t).ctlen then w64 (memNat s.mem ((s.tenant t).ctbase + 8 * k.toNat) 8) else 0

/-- Compartment k of tenant t is valid (R393). -/
def State.compValid (s : State) (t : Nat) (k : BitVec 16) : Bool := (s.compEntry t k).getLsbD 63

/-- The task entry n of core k. -/
def State.task (s : State) (k : Nat) (n : BitVec 6) : TaskEntry := Table.get (s.core k).tasks n.toNat {}

/-- A code image has the form of R316. -/
def codeImageOk (c : Vec) : Bool :=
  codeForm c && cOty c == 0 && wellFormedImg c && cExt c 1 == 1 && cExt c 2 == 1 && cExt c 3 == 1

/-- A task entry is valid on core k (R391). -/
def State.taskValid (s : State) (k : Nat) (e : TaskEntry) : Bool :=
  e.v && e.codetag && codeImageOk e.code && grants e.code pExe && cOwn e.code == e.comp &&
  e.entry.toNat % 4 == 0 && decide (e.entry.toNat + 4 ≤ 4 * cExt e.code 0) &&
  s.compValid e.tenant.toNat e.comp && (s.partOf e.tenant.toNat k).isSome

/-- The nodes of a tenant cover a logical core (R396, R401). -/
def State.inNodes (s : State) (t k : Nat) : Bool :=
  (s.tenant t).nodes.any fun n =>
    let n := n.toNat
    let span := 1024 / 2 ^ Nat.log2 n
    decide (1 ≤ n) && (1024 + k) / span == n

/-- A logical core lies in a buddy-tree node (R396). -/
def inNode (n k : Nat) : Bool := decide (1 ≤ n) && (1024 + k) / (1024 / 2 ^ Nat.log2 n) == n

/-- LOCK of the owner register of core k (R398). -/
def State.coreLocked (s : State) (k : Nat) : Bool := (s.core k).owner.getLsbD 63

/-- What a lock keeps the service pair from, as it is logged: the core, and the address of the access, or of the partition where the
attempt is on the whole of it (R399, 14 Table 14 kind 0x0A). -/
def State.logLocked (s : State) (k : Nat) (va : Nat := 0xF0 * 2 ^ 48 + 0x20000 * k) : State :=
  s.logAt 0x0A (BitVec.ofNat 8 (k / 512)) (BitVec.ofNat 16 k) none (w64 va) 0

/-- The first of some addresses that lies in the partition of a locked core, and that core: the service pair neither reads nor writes
it (R399). -/
def State.firstLocked (s : State) (vas : List Nat) : Option (Nat × Nat) :=
  vas.findSome? fun va => match windowOf va with
    | .spad k _ => if s.coreLocked k then some (k, va) else none
    | _ => none

/-- The locked core whose partition an address lies in (R399). -/
def State.lockedAt (s : State) (va : Nat) : Option Nat :=
  match windowOf va with
  | .spad k _ => if s.coreLocked k then some k else none
  | _ => none

/-! ### The host mailbox (R449) -/

/-- The place of a function's host I/O address. -/
def hostPlace (fn io : Nat) : Nat := Config.hostFlat + Config.hostSpan * fn + io % Config.hostSpan

/-- log₂ of a ring's slots, when its base register has been written within its rules (R445). -/
def ringLog (base : Word) : Option Nat :=
  let l := (base.extractLsb' 0 4).toNat
  if 4 ≤ l ∧ l ≤ 12 then some l else none

/-- The base address of a ring. -/
def ringBase (base : Word) : Nat := base.toNat / 4096 * 4096

/-- Held outgoing messages written while the ring has room (R449): one message per unit of fuel. -/
def State.pump (s : State) (fn : Nat) : Nat → State
  | 0 => s
  | fuel + 1 =>
    let f := s.fn fn
    match f.outbox, ringLog f.mobase with
    | m :: rest, some l =>
      if f.halted || decide (2 ^ l ≤ (f.motail - f.mohead).toNat) then s
      else
        let a := hostPlace fn (ringBase f.mobase + 64 * (f.motail.toNat % 2 ^ l))
        let s := { s with mem := memPuts s.mem (cellsFrom a (natBytes 64 m.toNat)) }
        (s.updFn fn fun f => { f with outbox := rest, motail := f.motail + 1, msix := 1 :: f.msix }).pump fn fuel
    | _, _ => s

/-- A message posted to a function's host mailbox, with the next SEQ (R449): bytes from 4 on given as a value. -/
def State.post (s : State) (fn : Nat) (type : BitVec 8) (rest : BitVec 480) : State :=
  let m : Vec := rest ++ (s.fn fn).seq ++ 0#8 ++ type
  let s := s.updFn fn fun f => { f with outbox := f.outbox ++ [m], seq := f.seq + 1 }
  s.pump fn ((s.fn fn).outbox.length)

/-- Bytes placed from byte `b` of a message on: `rest` of `post` starts at byte 4. -/
def atByte (b n v : Nat) : BitVec 480 := BitVec.ofNat 480 (v % 2 ^ (8 * n) * 2 ^ (8 * (b - 4)))

/-! ### Tenant reset, step 1 (R433) -/

/-- A tenant reset begins, or merges into the one in progress (R433 step 1, R435), which then unlocks the TDI as a Function Level Reset
does (R450). -/
def State.beginReset (s : State) (t trigger : Nat) : State :=
  match (s.fn t).reset with
  | .refusing _ => if trigger = 4 then s else s.updFn t fun f => { f with unlock := true }
  | .idle => s.updFn t fun f => { f with reset := .refusing trigger, ready := false, resetting := true }

/-! ### Faults (R423 to R428) -/

/-- The escalated faults of a tenant that are unanswered (R428). -/
def State.escalations (s : State) (t : Nat) : Nat :=
  (s.bms.filter fun h => h.bm.tenant == t && (match h.holder with | .fault _ e => e | _ => false)).length +
    (s.faulted.filter fun f => f.cmd.tenant == t && f.escalated).length

/-- An escalated fault on its tenant's service queue (R404, R428); the 65th resets the tenant. -/
def State.escalate (s : State) (t : Nat) (comp : BitVec 16) (handle : Nat) : State :=
  if 64 < s.escalations t then s.beginReset t 4
  else
    let c : Call := { id := s.nextId, tenant := t, gen := s.gen t, comp, word := 0, cap := {}, slip := none
                      fault := some handle }
    { s with service := { s.service with calls := s.service.calls ++ [c] }, nextId := s.nextId + 1 }

/-- The pending fault bookmarks of a compartment (R424). -/
def State.pendingOf (s : State) (t : Nat) (k : BitVec 16) : Nat :=
  (s.bms.filter fun h => h.bm.tenant == t && stComp h.bm.strand.status == k &&
    (match h.holder with | .fault _ _ => true | _ => false)).length

/-- The fault-channel task of compartment k for a fault of core c (R393, R424): the core it runs on and its entry. -/
def State.faultChannel (s : State) (t : Nat) (k : BitVec 16) (c : Nat) : Option (Nat × BitVec 6 × TaskEntry) :=
  let e := s.compEntry t k
  let core := if e.getLsbD 55 then (e.extractLsb' 45 10).toNat else c
  let n := e.extractLsb' 56 6
  let te := s.task core n
  if e.getLsbD 63 && e.getLsbD 62 && s.taskValid core te && te.comp == k then
    some (core, n, te)
  else none

/-- The NEW record of a fault-channel strand, when there is room for it (R424, R425). -/
def State.placeFaultTask (s : State) (t : Nat) (core : Nat) (n : BitVec 6) (e : TaskEntry) (st : FaultStart) :
    Option State :=
  let b : Bookmark :=
    { strand := { status := mkStatus t e.comp }, kind := .new, gen := s.gen t, bind := true, lcore := core
      prio := e.prio, task := n, start := some st }
  (s.roomFor (core / 8) t b.slots).map fun r => s.hold b .ready (core / 8) s.cycle r

/-- Whether CSSIZE of a tenant can grow by n units of 4 KiB (R428): no other region and not the area's end above it. -/
def State.canGrow (s : State) (t n : Nat) : Bool :=
  let lo := (s.tenant t).csbase + 4096 * (s.tenant t).cssize
  let hi := lo + 4096 * n
  decide (hi ≤ Config.closedEnd) &&
    s.tenants.all fun e => e.1 == t || !e.2.v || e.2.cssize == 0 || decide (hi ≤ e.2.csbase) ||
      decide (e.2.csbase + 4096 * e.2.cssize ≤ lo)

/-- The slots of the reserve that a tenant's pending bookmarks use. -/
def State.reserveUsed (s : State) (t : Nat) : Nat := s.slotsOf fun h => h.bm.tenant == t && h.room == .reserve

/-- The handles that name something pending (R423, R427). -/
def State.handles (s : State) : List Nat :=
  (s.bms.filterMap fun h => match h.holder with | .fault n _ => some n | _ => none) ++ s.faulted.map (·.handle)

/-- The next handle: 32 bits, not 0, and of nothing that is pending (R423). -/
def State.newHandle (s : State) : Nat :=
  let used := s.handles
  (((List.range (used.length + 2)).map fun i => (s.nextHandle + i) % 2 ^ 32).find? fun n => n != 0 && !used.contains n).getD 0

/-- A FAULT bookmark becomes pending and is delivered (R423, R424): a NEW record of its compartment's fault-channel
task, or the service queue; a reserve in use extends the closed stacks or resets the tenant (R320, R428). -/
def State.deliver (s : State) (b : Bookmark) : State :=
  let t := b.tenant
  let k := stComp b.strand.status
  let handle := s.newHandle
  let cluster := b.lcore / 8
  let s := { s with nextHandle := handle + 1 }
  let n := ceilDiv b.slots 64
  if s.reserveUsed t + b.slots ≤ s.reserveSlots t then
    let start : FaultStart :=
      { x10 := w64 handle, x11 := b.strand.pc, x12 := w64 b.lcore, x13 := 0, c1 := {}, c2 := {}
        faultinfo := b.strand.faultinfo }
    let ch := if s.pendingOf t k < 16 then s.faultChannel t k b.lcore else none
    match ch.bind fun c => (s.placeFaultTask t c.1 c.2.1 c.2.2 start) with
    | some s' => s'.hold b (.fault handle false) cluster s.cycle .reserve
    | none => (s.hold b (.fault handle true) cluster s.cycle .reserve).escalate t k handle
  else if s.canGrow t n then
    let s := s.updTenant t fun e => { e with cssize := e.cssize + n }
    (s.hold b (.fault handle true) cluster s.cycle .closed).escalate t k handle
  else s.beginReset t 4

/-- A bookmark as a FAULT bookmark with a cause and DETAIL: it keeps the registers it saved (R423). -/
def Bookmark.toFault (b : Bookmark) (cause : BitVec 8) (detail : BitVec 56) (pc : Word) : Bookmark :=
  { b with
    strand := { b.strand with pc, faultinfo := mkFaultinfo cause detail }
    kind := .fault, cause, warg := detail.setWidth 64, wcap := 0, bind := false }

/-- An uncorrectable error that an access of core or unit k for a tenant has consumed is logged (R200, 14 Table 14 kind 0x02). -/
def State.noteConsumed (s : State) (t k : Nat) (cause : BitVec 8) (detail : BitVec 56) : State :=
  if cause = cIntegrity then
    s.logAt 0x02 (BitVec.ofNat 8 (k / 512)) (BitVec.ofNat 16 k) (some t) (detail.setWidth 64) (cause.setWidth 64)
  else s

/-- A held bookmark becomes a FAULT bookmark and is delivered (R216, R217, R276, R289). -/
def State.faultHeld (s : State) (id : Nat) (cause : BitVec 8) (detail : BitVec 56) (pc : Word) : State :=
  match s.heldOf id with
  | none => s
  | some h => ((s.unhold id).noteConsumed h.bm.tenant h.bm.lcore cause detail).deliver (h.bm.toFault cause detail pc)

end Sys2Proof.Machine
end

