-- ==== Sys2Proof/Machine/Counters.lean ====
section
/-! DEFINITION. Counter cells and their homes: the operand of a counter instruction, the wrap rule, waiters and their
release, and operations on their way to a home (08 R260 to R289). -/

namespace Sys2Proof.Machine

/-! ### Sorting -/

/-- Inserts an element before the first that it may precede. -/
def insertBy {α : Type} (le : α → α → Bool) (a : α) : List α → List α
  | [] => [a]
  | b :: r => if le a b then a :: b :: r else b :: insertBy le a r

/-- The list in order; equal elements keep theirs. -/
def sortBy {α : Type} (le : α → α → Bool) (l : List α) : List α := l.foldr (insertBy le) []

/-! ### Cells (R260 to R264) -/

/-- VALUE. -/
def State.cellVal (s : State) (cell : Nat) : Word := w64 (memNat s.mem cell 8)
/-- HOMEWORD. -/
def State.homeWord (s : State) (cell : Nat) : Word := w64 (memNat s.mem (cell + 8) 8)

/-- Eight bytes written by a home: a write that changes nothing leaves the granule's tag (R264). -/
def State.putWord (s : State) (place : Nat) (v : Word) : State :=
  if w64 (memNat s.mem place 8) = v then s
  else
    { s with mem := memPuts s.mem (cellsFrom place (natBytes 8 v.toNat)), tags := tagPut s.tags (place / 64) false }

/-- v satisfies the threshold t (R269). -/
def satisfied (v t : Word) : Bool := !(v - t).msb

/-- A counter in the counter region of Odpa port p (R187). -/
def peerFlat : Nat := 2 ^ 60

/-- The home of a cell by its place (R265); a waiter's cell lies on a page with HM = 10 where it lies in memory. -/
def homeOfFlat (flat : Nat) : Home :=
  if peerFlat ≤ flat then .peer ((flat - peerFlat) / 2 ^ 46)
  else if Config.hostFlat ≤ flat then .host
  else if Config.vaultFlat ≤ flat then .vault ((flat - Config.vaultFlat) / 0x200000)
  else if Config.spadFlat ≤ flat then .spad ((flat - Config.spadFlat) / 0x20000)
  else .channel (flat / 512 % 24)

/-! ### Waiters (R269 to R275) -/

/-- A pending waiter of a cell: its bookmark's number, its threshold, its deposit number and whether it is spilled. -/
structure Waiter where
  id : Nat
  thr : Word
  dep : Nat
  spilled : Bool
  deriving DecidableEq, Repr

/-- The waiter that a held bookmark is on a cell. -/
def Held.waiter (h : Held) (cell : Nat) : Option Waiter :=
  match h.holder with
  | .counter c _ thr dep spilled _ => if c = cell then some { id := h.id, thr, dep, spilled } else none
  | _ => none

/-- Released by an operation whose spilled waiters are still being read (R273, R274). -/
def State.beingReleased (s : State) (id : Nat) : Bool := s.spillReads.any fun r => r.order.contains id

/-- The waiters that lie at the home of a cell, in its table or the closed stacks, those being released among them (R261, R274). -/
def State.lyingOn (s : State) (cell : Nat) : List Waiter := s.bms.filterMap fun h => h.waiter cell

/-- The pending waiters of a cell. -/
def State.waitersOn (s : State) (cell : Nat) : List Waiter :=
  s.bms.filterMap fun h => if s.beingReleased h.id then none else h.waiter cell

/-- The watches of a cell, none of which is satisfied yet (R288). -/
def State.watchesOn (s : State) (cell : Nat) : List Watch := s.watches.filter fun w => w.cell == cell

/-- The distances of the cell's pending waiters and watches from a value (R269, R288). -/
def State.distances (s : State) (cell : Nat) (v : Word) : List Nat :=
  (s.waitersOn cell).map (fun w => (w.thr - v).toNat) ++ (s.watchesOn cell).map fun w => (w.thr - v).toNat

/-- WAIT and SPILL rewritten after a change of waiter state; host memory keeps them as created (R261, R263, R264). -/
def State.syncHome (s : State) (cell : Nat) : State :=
  if Config.hostFlat ≤ cell then s
  else
    let ws := s.lyingOn cell
    let h := putBit (putBit (s.homeWord cell) 63 (ws.any fun w => !w.spilled)) 62 (ws.any fun w => w.spilled)
    s.putWord (cell + 8) h

/-! ### Slips (R341) -/

/-- The slip of a tenant that an address names. -/
def State.slipOf (s : State) (t va : Nat) : Option Nat :=
  let p := (s.tenant t).slippage
  if p ≠ 0 ∧ p ≤ va ∧ va < p + 0x10000 then some ((va - p) / 16) else none

/-- A slip seen at 1 is collected (R341). -/
def State.collectSlip (s : State) (t va : Nat) (v : Word) : State :=
  match s.slipOf t va with
  | some n =>
    if v = 1 then
      { s with service := { s.service with
          slips := Table.upd s.service.slips t {} fun p =>
            if p.used.contains n then { p with used := p.used.filter (· != n), collected := p.collected ++ [n] } else p } }
    else s
  | none => s

/-! ### Flits sent (R456, R457) -/

/-- A flit sent on a port: numbered, with the last flit received in order and the credits that it returns, and retained for a resend,
the last 1,024 of them (R456, R457). FUNC and GEN are those of the tenant that sends it; a flit of the port's own names tenant 0 at
generation 0: DESIGN CHOICE (log 62). The payload is given as 64-bit words. -/
def State.sendFlit (s : State) (port : Nat) (t : Option Nat) (type : BitVec 8) (payload : List Word) : State :=
  s.updPort port fun p =>
    let cred := min p.owed 255
    let l := p.retained ++
      [{ no := p.txseq, ack := BitVec.ofNat 12 (p.rxseq + 4095), cred := BitVec.ofNat 8 cred
         func := BitVec.ofNat 10 (t.getD 0), gen := (t.map s.gen).getD 0, type, payload }]
    { p with txseq := p.txseq + 1, retained := l.drop (l.length - 1024), owed := p.owed - cred }

/-- The payload of a counter flit after its number: the offset in the counter region, and an operand (R459). -/
def ctrPayload (off : Nat) (arg : Word) : List Word := [w64 off, arg]

/-- A CANS flit of a tenant: held with its other traffic (R452, R459). -/
def State.sendCans (s : State) (port t : Nat) (payload : List Word) : State :=
  if (s.fn t).halted then s.updFn t fun f => { f with cans := f.cans ++ [(port, payload)] } else s.sendFlit port (some t) 0x06 payload

/-! ### Release (R272 to R274, R499) -/

/-- The first c-cycle in which a home may send a bookmark that an operation which arrives in this c-cycle releases: Table 6's 3,
later by a spare's hop; and one c-cycle after the last that it sent (R273). -/
def State.sendStart (s : State) (home : Home) : Nat :=
  let first := s.cycle + 3 + (match home with
    | .spad k => s.spareHop k
    | _ => 0)
  match s.sends.find? fun x => x.1 == home with
  | some x => max first (x.2 + 1)
  | none => first

/-- The c-cycles of a bookmark from its home to the ready queue of a cluster: Table 6's 2 of a core home in its own cluster, else a time
up to R499's bound; from a channel, the host interface or a port an open time (R273, R497; log 12). -/
def State.sendPath (s : State) (home : Home) (cluster : Nat) : Nat :=
  let far (c : Nat) : Nat := s.someTime (if c / 64 = cluster / 64 then 48 else 112)
  match home with
  | .spad k => if k / 8 = cluster then 2 else far (k / 8)
  | .vault v => if v = cluster then s.someTime 8 else far v
  | _ => s.openTime

/-- The c-cycles after which the first bookmark that an operation releases is in the ready queue of a cluster (R273, R499). -/
def State.deliveryCycles (s : State) (home : Home) (cluster : Nat) : Nat := s.sendStart home - s.cycle + s.sendPath home cluster

/-- The c-cycles within which an agent of a cluster reaches a counter home, `hop` those that R23 adds at the agent's own end (R499):
none where no bound is promised. -/
def State.homeBound (s : State) (cluster hop : Nat) (home : Home) : Option Nat :=
  let far (c : Nat) : Nat := if c = cluster then 8 else if c / 64 = cluster / 64 then 48 else 112
  match home with
  | .spad k => some (far (k / 8) + hop + s.spareHop k)
  | .vault v => some (far v + hop)
  | _ => none

/-- The c-cycle by which an operation that an agent of a cluster sends now reaches its home; 0 where no bound is promised (R499). -/
def State.homeDue (s : State) (cluster hop : Nat) (home : Home) : Nat :=
  ((s.homeBound cluster hop home).map (s.cycle + ·)).getD 0

/-- The c-cycle by which a far KREAD of core k has its answer: its way to the home and the way back (R23, R282, R499). -/
def State.readDue (s : State) (k : Nat) (home : Home) : Nat :=
  ((s.homeBound (k / 8) (s.spareHop k) home).map fun n => s.cycle + 2 * n).getD 0

/-- A waiter's bookmark released into its ready queue after some c-cycles, its slip collected (R272, R341). -/
def State.releaseWaiter (s : State) (v : Word) (late id : Nat) : State :=
  match s.heldOf id with
  | some h =>
    let s := match h.holder with
      | .counter _ va _ _ _ _ => s.collectSlip h.bm.tenant va v
      | _ => s
    s.releaseAfter late id false
  | none => s

/-- Waiters delivered in order, one per c-cycle of their home (R273). -/
def State.releaseAll (s : State) (cell : Nat) (v : Word) (ids : List Nat) : State :=
  let home := homeOfFlat cell
  let late (id : Nat) : Nat := s.deliveryCycles home ((s.heldOf id).map (·.cluster) |>.getD 0)
  let sends := if ids.isEmpty then s.sends
    else dropWhere s.sends (fun x => x.1 == home) ++ [(home, s.sendStart home + ids.length - 1)]
  { ids.zipIdx.foldl (fun s p => s.releaseWaiter v (late p.1 + p.2) p.1) s.fresher with sends }

/-- The peers' watches that a value satisfies are answered and end (R288). -/
def State.answerWatches (s : State) (cell : Nat) (v : Word) : State :=
  let hit (w : Watch) : Bool := w.cell == cell && satisfied v w.thr
  (s.watches.filter hit).foldl (fun s w => s.sendCans w.port w.owner [w64 w.op, 3, v]) { s with watches := dropWhere s.watches hit }

/-- The waiters that v satisfies are released in order of their distance from the value before, then of deposit;
where one of them is spilled, once every spilled waiter has been read (R272, R274). -/
def State.seen (s : State) (cell : Nat) (before v : Word) : State :=
  let sat := sortBy (fun (a b : Waiter) =>
      let x := (a.thr - before).toNat
      let y := (b.thr - before).toNat
      decide (x < y) || (x == y && decide (a.dep ≤ b.dep)))
    ((s.waitersOn cell).filter fun w => satisfied v w.thr)
  let s := s.answerWatches cell v
  match sat with
  | [] => s
  | _ :: _ =>
    let ids := sat.map (·.id)
    let spilled := ((s.waitersOn cell).filter (·.spilled)).length
    let s := if sat.any (·.spilled) then
        { s with spillReads := s.spillReads ++ [{ cell, order := ids, due := s.cycle + 2048 * ceilDiv spilled 32 }] }
      else s.releaseAll cell v ids
    s.syncHome cell

/-- A counter operation on a cell tests its pending waiters against VALUE, which a data write may have changed (R263). -/
def State.retest (s : State) (cell : Nat) : State := s.seen cell (s.cellVal cell) (s.cellVal cell)

/-- The wrap rule and its effects (R270): the cell takes the new value and its satisfied waiters are released. -/
def State.applyCell (s : State) (cell va : Nat) (new : Word) : Raises State :=
  let old := s.cellVal cell
  if (s.distances cell old).any (fun d => decide (d + 2 ^ 63 ≤ (new - old).toNat)) then raise cWrap (vaDetail va)
  else .ok ((s.putWord cell new).seen cell old new)

/-- The value that a KADD or KMAX gives (R280, R281). -/
def CtrKind.newValue (k : CtrKind) (v : Word) : Word :=
  match k with
  | .add a => v + a
  | .max c => if v < c then c else v
  | .wait _ _ => v
  | .read => v
  | .watch _ _ _ => v
  | .write _ _ => v
  | .abort _ => v

/-! ### Deposits (R271, R274, R275) -/

/-- Waiter-table entries that p selects at a home. -/
def State.tableUsed (s : State) (home : Home) (p : Held → Bool) : Nat :=
  (s.bms.filter fun h => p h && (match h.holder with
    | .counter c _ _ _ spilled _ => homeOfFlat c == home && !spilled
    | _ => false)).length

/-- The entries one tenant may hold (08 Table 5). -/
def State.tableShare (s : State) : Home → Nat
  | .spad k => let m := (s.core k).pmode; if m = 0 then 256 else if m = 1 then 128 else 64
  | .vault _ => 64
  | .slice _ => 64
  | .channel _ => 64
  | .hostSlice _ => 64
  | .host => 64
  | .peer _ => 64

/-- Whether a waiter of a tenant finds a table entry at the home of a cell (R274). -/
def State.tableFits (s : State) (cell t : Nat) : Bool :=
  let h := homeOfFlat cell
  decide (s.tableUsed h (fun b => b.bm.tenant == t) < s.tableShare h) &&
    decide (s.tableUsed h (fun _ => true) < Config.waiterEntries)

/-- The least threshold that the waiters of a peer-homed cell wait for, as watches count it (R288). -/
def leastThr : List Waiter → Option Word
  | [] => none
  | w :: r =>
    match leastThr r with
    | none => some w.thr
    | some t => if (t - w.thr).msb then some t else some w.thr

/-- The watch of a peer-homed cell registered afresh at the least pending threshold (R288). -/
def State.watchPeer (s : State) (cell t va : Nat) : State :=
  match homeOfFlat cell, leastThr (s.waitersOn cell) with
  | .peer p, some thr =>
    if (s.port p).pending.any fun o => o.watch && o.place == cell && o.kind == .wait thr 0 then s
    else
      let off := (cell - peerFlat) % 2 ^ 46
      let op : PeerOp :=
        { id := s.nextId, tenant := t, gen := s.gen t, off, place := cell, va, kind := .wait thr 0, read := none
          watch := true, origin := .strand }
      let s := { s with nextId := s.nextId + 1 }
      (s.updPort p fun q => { q with pending := dropWhere q.pending (fun o => o.watch && o.place == cell) ++ [op] }).sendFlit
        p (some t) 0x05 (w64 op.id :: ctrPayload off thr)
  | .peer p, none => s.updPort p fun q => { q with pending := dropWhere q.pending fun o => o.watch && o.place == cell }
  | _, _ => s

/-! ### Home words of host-homed cells (R285) -/

/-- The home of a host-homed cell holds waiters, watches or operations on it. -/
def State.hostBusy (s : State) (cell : Nat) : Bool :=
  !(s.lyingOn cell).isEmpty || (s.watches.any fun w => w.cell == cell) || s.hostOps.any fun o => o.place == cell

/-- The home word of a host-homed cell: as it was read at the first need while the home holds anything on the cell, else as it
stands (R285). -/
def State.hostWord (s : State) (cell : Nat) : Word :=
  if s.hostBusy cell then Table.get s.hostWords cell (s.homeWord cell) else s.homeWord cell

/-- The home keeps the word it has read. -/
def State.keepWord (s : State) (cell : Nat) : State :=
  { s with hostWords := Table.set s.hostWords cell (s.hostWord cell) }

/-- The poll of a host-homed cell joined by a waiter, or started from now where it is the cell's only one (R286): the
interval that POLL gives and TIME of the next read. That the interval counts from the completion of the arrival read, when the waiter is
deposited, is a DESIGN CHOICE (log 88). -/
def State.joinPoll (s : State) (cell t : Nat) : State :=
  match homeOfFlat cell with
  | .host =>
    if 1 < (s.waitersOn cell).length + (s.watchesOn cell).length then s
    else
      let every := (((s.hostWord cell).extractLsb' 0 8).toNat + 1) * 64
      { s with polls := dropWhere s.polls (fun p => p.place == cell) ++
          [{ place := cell, tenant := t, every, next := s.time + every }] }
  | _ => s

/-- A held bookmark becomes a waiter on a cell, in the table or spilled whole to the closed stacks;
WAITER_SPILL_FULL where it finds no room there (R271, R274, R275). -/
def State.depositHeld (s : State) (id cell va : Nat) (thr : Word) (exch : Bool) : Raises State :=
  match s.heldOf id with
  | none => .ok s
  | some h =>
    let t := h.bm.tenant
    let spill := !s.tableFits cell t
    if spill && h.room != .closed && !s.closedFits t h.bm.slots then raise cSpillFull (vaDetail va)
    else
      let h' := { h with
        holder := .counter cell va thr s.nextId spill exch
        room := if spill then .closed else h.room }
      let s := { s with bms := (s.bms.filter fun (b : Held) => b.id != id) ++ [h'], nextId := s.nextId + 1 }
      .ok ((((s.syncHome cell).joinPoll cell t)).watchPeer cell t va)

/-! ### The operand of a counter instruction (R266, R267) -/

/-- The exporter of a cell of the counter region has been reset, and its area is closed (R438). -/
def State.areaClosed (s : State) (port flat : Nat) : Bool :=
  (s.port port).closedAreas.contains (Config.peerOwner port ((flat - peerFlat) % 2 ^ 46 / 2 ^ 40))

/-- Whether the home refuses a cell for its place (R267). -/
def State.homeRefuses (s : State) (p : Place) : Bool :=
  match p.home with
  | .slice _ => true
  | .hostSlice _ => true
  | .peer q => !(s.port q).up || (s.port q).mode != 1 || s.areaClosed q p.flat
  | .host => (s.hostWord p.flat).getLsbD 11
  | .spad _ => false
  | .vault _ => false
  | .channel _ => false

/-- The cell of a checked image: alignment, window rules and translation (R266). -/
def State.cellPlace (s : State) (t : Nat) (img : Vec) (o : BitVec 5) (n : Need) : Raises Place := do
  need (cBase img % 16 == 0) cFormat (capDetail o)
  s.placeOf t (cBase img) n true (cBase img)

/-! ### Operations at their home (R278, R283, R285, R288) -/

/-- What becomes of an operation at its home: applied, a request sent on (the host's or the peer's home), refused, or
held for an absent partition or a page of the host (R191, R211). -/
inductive HomeAnswer where
  | applied (s : State) | sent (s : State) | refused (s : State) (cause : BitVec 8) | held (s : State)

/-- A host-homed add is refused for its amount: it exceeds 2^63 and the home holds a waiter or a watch on the cell (08 Table 9,
R288). -/
def State.tooMuch (s : State) (op : CtrOp) : Bool :=
  match op.kind with
  | .add a => decide (2 ^ 63 < a.toNat) && !(s.distances op.place 0).isEmpty
  | _ => false

/-- The fallback of a host-homed operation (R287): refused, or handed to the host's mailbox; a wait stands for the KREAD of
its bookmark. -/
def State.fallback (s : State) (op : CtrOp) : HomeAnswer :=
  if s.tooMuch op then .refused s cWrap
  else if (s.hostWord op.place).getLsbD 10 then
    let s := s.keepWord op.place
    let seq := (s.fn op.tenant).seq
    let (code, arg) : Nat × Word := match op.kind with
      | .add a => (0, a)
      | .max c => (1, c)
      | .wait _ _ => (2, 0)
      | .read => (2, 0)
      | .watch _ _ _ => (2, 0)
      | .write _ _ => (2, 0)
      | .abort _ => (2, 0)
    let io := (op.place - Config.hostFlat) % Config.hostSpan
    let h : HostOp :=
      { id := op.id, place := op.place, va := op.va, tenant := op.tenant, gen := op.gen
        req := .mediated seq op.kind, origin := op.origin, held := false }
    let s := s.post op.tenant 0x01 (atByte 4 1 code + atByte 8 8 io + atByte 16 8 arg.toNat)
    .sent { s with hostOps := s.hostOps ++ [h] }
  else .refused s cHostUnsup

/-- An operation on a host-homed cell, whose page is translated, as its home turns it into a request (08 Table 9, R285). -/
def State.toHost (s : State) (op : CtrOp) : HomeAnswer :=
  let s := s.keepWord op.place
  let mk (r : HostReq) : HomeAnswer :=
    .sent { s with hostOps := s.hostOps ++ [{ id := op.id, place := op.place, va := op.va, tenant := op.tenant
                                              gen := op.gen, req := r, origin := op.origin, held := (s.fn op.tenant).halted }] }
  match op.kind with
  | .add a =>
    if s.tooMuch op then .refused s cWrap
    else if (s.fn op.tenant).noAtomics then s.fallback op
    else mk (.fetchAdd a)
  | .max c => if (s.fn op.tenant).noAtomics then s.fallback op else mk (.readForMax c)
  | .wait _ bm => mk (.readForWait bm)
  | .read => mk (.readValue 0)
  | .watch thr func gen => mk (.readForWatch thr func gen)
  | .write _ _ => .applied s
  | .abort _ => .applied s

/-- An operation on a host-homed cell at its home (R210, R285). -/
def State.atHost (s : State) (op : CtrOp) : HomeAnswer :=
  let n := match op.kind with
    | .add _ => needRW
    | .max _ => needRW
    | .write _ _ => needW
    | _ => needR
  match s.reach op.tenant { flat := op.place, home := .host } n with
  | .ok s => s.toHost op
  | .page s _ => .held s
  | .refused cause => .refused s cause
  | .halted => .held s

/-- A watch of a peer registered on a cell, in the place of the function's earlier one: one that VALUE satisfies is answered at once
(R288). -/
def State.addWatch (s : State) (op : CtrOp) (thr : Word) (func : BitVec 10) (gen : BitVec 8) : State :=
  match op.origin with
  | .remote port n =>
    let v := s.cellVal op.place
    let s := { s with watches := s.watches.filter fun w => !(w.port == port && w.func == func && w.cell == op.place) }
    if satisfied v thr then s.sendCans port op.tenant [w64 n, 3, v]
    else
      let w : Watch := { port, owner := op.tenant, func, gen, cell := op.place, thr, op := n, va := op.va }
      { s with watches := s.watches ++ [w] }.joinPoll op.place op.tenant
  | _ => s

/-- An operation on a peer-homed cell sent as a counter flit; a wait joins the port's waiters and its watch (R288). -/
def State.atPeer (s : State) (port : Nat) (op : CtrOp) : HomeAnswer :=
  let off := (op.place - peerFlat) % 2 ^ 46
  let send (type : BitVec 8) (arg : Word) : HomeAnswer :=
    let o : PeerOp :=
      { id := op.id, tenant := op.tenant, gen := op.gen, off, place := op.place, va := op.va, kind := op.kind
        read := none, watch := false, origin := op.origin }
    .sent ((s.updPort port fun q => { q with pending := q.pending ++ [o] }).sendFlit port (some op.tenant) type
      (w64 op.id :: ctrPayload off arg))
  match op.kind with
  | .add a => send 0x02 a
  | .max c => send 0x03 c
  | .wait thr bm =>
    match s.depositHeld bm op.place op.va thr false with
    | .ok s => .applied s
    | .error f => .refused s f.cause
  | .read => send 0x04 0
  | .watch _ _ _ => .refused s cHome
  | .write _ _ => .refused s cHome
  | .abort _ => .refused s cHome

/-- A peer's WRITE at the tenant's memory (R459): the tags of its granules are cleared (R120). -/
def State.writeAt (s : State) (op : CtrOp) (data : List Byte) : HomeAnswer :=
  let r : Raises State := do
    let (s, ps) ← s.aperturePlaces op.tenant op.va data.length needW
    .ok ((← s.writePlaces op.tenant op.va (ps.zip data)).byHost ps)
  match r with
  | .ok s => .applied s
  | .error f => .refused s f.cause

/-- An operation before which its home tests the cell's waiters: a read releases none (R263, R282). -/
def CtrKind.tests : CtrKind → Bool
  | .read => false
  | _ => true

/-- The bytes that an operation reaches, which an absent partition under any of them holds (R191). -/
def CtrKind.span : CtrKind → Nat
  | .write _ data => Nat.max 1 data.length
  | _ => 1

/-- The port that a counter operation came from. -/
def CtrOp.port (o : CtrOp) : Option Nat := match o.origin with | .remote p _ => some p | _ => none

/-- A far operation when it reaches its home. What a peer asks of a function whose traffic is held waits (R452). -/
def State.atHome (s : State) (op : CtrOp) (p : Place) : HomeAnswer :=
  if let .abort _ := op.kind then .applied s
  else if (s.heldIn op.tenant op.va op.kind.span).isSome || (op.port.isSome && (s.fn op.tenant).halted) then .held s
  else if let .write _ data := op.kind then s.writeAt op data
  else if s.homeRefuses p then .refused s cHome
  else match p.home with
  | .host => s.atHost op
  | .peer q => if (s.fn op.tenant).halted then .held s else s.atPeer q op
  | _ =>
    if s.badAt p.flat then .refused s cIntegrity
    else
      let s := if op.kind.tests then s.retest p.flat else s
      let r : Raises State := match op.kind with
        | .wait thr bm =>
          if satisfied (s.cellVal p.flat) thr then
            .ok ((s.collectSlip op.tenant op.va (s.cellVal p.flat)).releaseAll p.flat (s.cellVal p.flat) [bm])
          else s.depositHeld bm p.flat op.va thr false
        | .read => .ok (s.collectSlip op.tenant op.va (s.cellVal p.flat))
        | .watch thr func gen => .ok (s.addWatch op thr func gen)
        | k => s.applyCell p.flat op.va (k.newValue (s.cellVal p.flat))
      match r with
      | .ok s => .applied s
      | .error f => .refused s f.cause

end Sys2Proof.Machine
end

