-- ==== Sys2Proof/Machine/Posted.lean ====
section
/-! DEFINITION. The posted-store queue of a core: entering it, acceptance at the home, forwarding to the strand's own
loads, and the drain (07 R217, R218, 08 R278). -/

namespace Sys2Proof.Machine

/-! ### Data atomics at their home (R227) -/

/-- The new value of an atomic on 32 or 64 bits. -/
def AmoOp.apply (op : AmoOp) {n : Nat} (old b expect : BitVec n) : BitVec n :=
  match op with
  | .add => old + b
  | .swap => b
  | .xor => old ^^^ b
  | .or => old ||| b
  | .and => old &&& b
  | .cas => if old = expect then b else old
  | .min => if old.slt b then old else b
  | .max => if old.slt b then b else old
  | .minu => if old < b then old else b
  | .maxu => if old < b then b else old

/-- The new value of an atomic of either size, as a number. -/
def AmoOp.value (op : AmoOp) (wide : Bool) (old : Nat) (b expect : Word) : Nat :=
  if wide then (op.apply (w64 old) b expect).toNat
  else (op.apply (BitVec.ofNat 32 old) (b.setWidth 32) (expect.setWidth 32)).toNat

/-- The bytes of an atomic. -/
def amoBytes (wide : Bool) : Nat := if wide then 8 else 4

/-- The places of n bytes from one. -/
def Place.run (p : Place) (n : Nat) : List Place := (List.range n).map fun i => { flat := p.flat + i, home := p.home }

/-- An atomic applied at its home: the state and the old value (R227). -/
def State.atomicAt (s : State) (t va : Nat) (p : Place) (op : AmoOp) (wide : Bool) (b expect : Word) :
    Raises (State × Nat) := do
  let n := amoBytes wide
  let ps := p.run n
  let (s, bs) ← s.readPlaces t va ps
  let old := bytesNat bs
  let s ← s.writePlaces t va (ps.zip (natBytes n (op.value wide old b expect)))
  .ok (s, old)

/-! ### Entries -/

/-- The places an entry reaches. -/
def PostOp.flats : PostOp → List Nat
  | .data cells => cells.map fun c => c.1.flat
  | .cap p _ _ => (List.range 64).map (p.flat + ·)
  | .atomic p _ wide _ _ => (List.range (amoBytes wide)).map (p.flat + ·)
  | .counter p _ _ => (List.range 16).map (p.flat + ·)

/-- Whether an entry reaches one of the places. -/
def Posted.touches (e : Posted) (fs : List Nat) : Bool := e.op.flats.any fs.contains

/-- What becomes of an entry: accepted, failed and discarded, a request sent for it, or not yet. -/
inductive Accept where
  | done (s : State) | failed (s : State) (cause : BitVec 8) | sent (s : State) (id : Nat) | waits (s : State)

/-- An entry at its home (R217, R278): an entry of an old generation is discarded (R214), and one of which a byte lies in an absent
partition is held whole (R191). -/
def State.acceptEntry (s : State) (k : Nat) (e : Posted) : Accept :=
  let ofRaises (r : Raises State) : Accept := match r with
    | .ok s => .done s
    | .error f => .failed s f.cause
  if e.sent.isSome then .waits s
  else if e.gen != s.gen e.tenant then .done s
  else if (e.va :: e.vas).any (s.heldAt e.tenant) then .waits s
  else match e.op with
    | .data cells => ofRaises (s.writePlaces e.tenant e.va cells)
    | .cap p img tag => ofRaises (s.writeGranule e.tenant e.va p img tag)
    | .atomic p op wide b x => ofRaises ((s.atomicAt e.tenant e.va p op wide b x).map (·.1))
    | .counter p max arg =>
      let op : CtrOp :=
        { id := s.nextId, place := p.flat, va := e.va, kind := if max then .max arg else .add arg, tenant := e.tenant
          gen := e.gen, origin := .posted k }
      match State.atHome { s with nextId := s.nextId + 1 } op p with
      | .applied s => .done s
      | .sent s => .sent s op.id
      | .refused s c => .failed s c
      | .held s => .waits s

/-- Entry i of core k's queue offered to its home, unless an older entry reaches the same bytes (R293, R296): the
state, and whether the entry has left the queue. -/
def State.acceptAt (s : State) (k i : Nat) : State × Bool :=
  let q := (s.core k).posted
  match q[i]? with
  | none => (s, false)
  | some e =>
    if (q.take i).any (fun o => o.touches e.op.flats) then (s, false)
    else
      let gone (s : State) : State := s.updCore k fun c => { c with posted := c.posted.eraseIdx i }
      match s.acceptEntry k e with
      | .done s => (gone s, true)
      | .failed s cause => ((gone s).updCore k fun c => { c with failed := c.failed ++ [(e.no, cause, e.va)] }, true)
      | .sent s id =>
        (s.updCore k fun c => { c with posted := c.posted.modify i fun e => { e with sent := some id, due := 0 } }, false)
      | .waits s => (s.updCore k fun c => { c with posted := c.posted.modify i fun e => { e with due := 0 } }, false)

/-- The entries i to n - 1 offered in order. -/
def State.acceptFrom (s : State) (k : Nat) : Nat → Nat → State
  | 0, _ => s
  | fuel + 1, i =>
    let r := s.acceptAt k i
    r.1.acceptFrom k fuel (if r.2 then i else i + 1)

/-- Every entry of the queue offered, oldest first (R218). -/
def State.offerAll (s : State) (k : Nat) : State := s.acceptFrom k (s.core k).posted.length 0

/-- The entries up to the last that reaches one of the places, offered: program order to one byte (R293). -/
def State.settle (s : State) (k : Nat) (fs : List Nat) : State :=
  let q := (s.core k).posted
  let n := (q.zipIdx.filter fun p => p.1.touches fs).foldl (fun _ p => p.2 + 1) 0
  s.acceptFrom k n 0

/-- What a strand on core k does at places, after its own earlier stores to them (R293, R296): while one of them stays in the queue, held
at an absent partition, it waits resident. -/
def State.ownFirst (s : State) (k : Nat) (fs : List Nat) (f : State → Raises State) : Raises State :=
  let s := s.settle k fs
  if (s.core k).posted.any (·.touches fs) then .ok (s.updCore k fun c => { c with waiting := true }) else f s

/-- The value the strand's own posted stores give a byte (R293, R297). -/
def Core.forwards (c : Core) (flat : Nat) : Option Byte :=
  c.posted.foldl (fun acc e => match e.op with
    | .data cells => match (cells.filter fun x => x.1.flat == flat).getLast? with
      | some x => some x.2
      | none => acc
    | .cap p img _ =>
      if p.flat ≤ flat ∧ flat < p.flat + 64 then some (img.extractLsb' (8 * (flat - p.flat)) 8) else acc
    | .atomic _ _ _ _ _ => acc
    | .counter _ _ _ => acc) none

/-- An entry whose result its home computes, so that a load cannot take it from the queue. -/
def Posted.computes (e : Posted) : Bool :=
  match e.op with
  | .atomic _ _ _ _ _ => true
  | .counter _ _ _ => true
  | .data _ => false
  | .cap _ _ _ => false

/-- What a load of the strand on core k does at places, after its own earlier atomics and counter operations on them, which no load can
take from the queue: while an entry that reaches them stays in the queue it waits resident (R293). `s` is the state in which the load
would execute again, `done` the one in which it is made. -/
def State.atomsFirst (s done : State) (k : Nat) (fs : List Nat) (f : State → Raises State) : Raises State :=
  if (s.core k).posted.any fun e => e.computes && e.touches fs then
    s.ownFirst k fs fun _ => f (done.settle k fs)
  else f done

/-- Bytes read by the strand on core k: its own posted stores first (R293). -/
def State.readOwn (s : State) (k t va : Nat) (ps : List Place) : Raises (State × List Byte) := do
  let (s, bs) ← s.readPlaces t va ps
  .ok (s, (ps.zip bs).map fun x => ((s.core k).forwards x.1.flat).getD x.2)

/-- An entry posted by core k (R217): the state, and whether it is in the queue; else the queue is full and the strand
waits resident for the oldest entry. `vas` are the addresses that it has translated. -/
def State.enqueue (s : State) (k t va : Nat) (op : PostOp) (vas : List Nat := [va]) : State × Bool :=
  let s := if (s.core k).posted.length < Config.postedEntries then s else (s.acceptAt k 0).1
  if (s.core k).posted.length < Config.postedEntries then
    let due := match op with
      | .counter p _ _ => s.homeDue (k / 8) (s.spareHop k) p.home
      | _ => 0
    let e : Posted := { no := s.nextId, va, vas, op, tenant := t, gen := s.gen t, due }
    ({ s with nextId := s.nextId + 1 }.updCore k fun c => { c with posted := c.posted ++ [e] }, true)
  else (s, false)

/-! ### The drain (R218) -/

/-- A drain: complete, with the oldest failure if one is raised, or the strand still waits resident. -/
inductive Drained where
  | done (s : State) | failed (s : State) (cause : BitVec 8) (va : Nat) | waits (s : State)

/-- The failures found: the oldest in program order is raised, each of the others logged (kind 0x03). -/
def State.takeFailed (s : State) (k : Nat) : Option (State × BitVec 8 × Nat) :=
  match sortBy (fun (a b : Nat × BitVec 8 × Nat) => decide (a.1 ≤ b.1)) (s.core k).failed with
  | [] => none
  | f :: rest =>
    let t := (s.core k).strand.tenant
    let s := s.updCore k fun c => { c with failed := [] }
    let s := rest.foldl (fun s g =>
      s.logAt 0x03 (BitVec.ofNat 8 (k / 512)) (BitVec.ofNat 16 k) (some t) (w64 g.2.2) (g.2.1.setWidth 64)) s
    some (s, f.2.1, f.2.2)

/-- The drain of core k (R218). -/
def State.drain (s : State) (k : Nat) : Drained :=
  let s := s.offerAll k
  if (s.core k).posted.isEmpty then
    match s.takeFailed k with
    | none => .done s
    | some (s, cause, va) => .failed s cause va
  else .waits s

end Sys2Proof.Machine
end

