-- ==== Sys2Proof/Machine/Ops.lean ====
section
/-! DEFINITION. The shared operations of the instructions: taking an exception and leaving the core otherwise, the
return to it, and the frames that an instruction of a strand runs in (13 R421 to R431, 10 R312 to R332, 02 R54). -/

namespace Sys2Proof.Machine

/-- What an instruction or event answers. -/
abbrev Out := Host.Outcome State Fault Refusal

/-- The strand that executes. -/
def State.strand (s : State) : Strand := (s.core s.cur).strand
/-- The state with the executing strand replaced. -/
def State.setStrand (s : State) (t : Strand) : State := s.updCore s.cur fun c => { c with strand := t }
/-- The tenant of the executing strand. -/
def State.ten (s : State) : Nat := s.strand.tenant
/-- The state with the executing strand's pc moved past the word (R55). -/
def State.adv (s : State) : State := s.setStrand s.strand.next
/-- The state with a held bookmark's holder replaced. -/
def State.setHolder (s : State) (id : Nat) (h : Holder) : State :=
  { s with bms := updWhere s.bms (fun b => b.id == id) fun b => { b with holder := h } }

/-! ### The paths of a core (R22, R23, R497) -/

/-- The cluster of the unit that an address names; 128 for one that lies in no cluster. -/
def clusterOf (va : Nat) : Nat :=
  match windowOf va with
  | .spad k _ => k / 8
  | .vault v _ => v
  | _ => 128

/-- The c-cycles of a message of core k to a cluster, or to the tables beside die 0: the figure in the own cluster, else a time
up to the ceiling (R343, R364, R411, R497). -/
def State.pathCycles (s : State) (k : Nat) (dest : Option Nat) (own die pkg : Nat) : Nat :=
  match dest with
  | some c => if c = k / 8 then own else s.someTime (if c / 64 = k / 512 then die else pkg)
  | none => s.someTime (if k < 512 then die else pkg)

/-- The hops of the spare cores at either end of a message of core k to an address: none to its own scratchpad (R23). -/
def State.pathHops (s : State) (k va : Nat) : Nat :=
  match windowOf va with
  | .spad j _ => if j = k then 0 else s.hop k + s.hop j true
  | _ => s.hop k

/-- The c-cycles of a counter instruction that its strand waits for (08 Table 8, R284). -/
def State.counterCycles (s : State) (k va : Nat) : Nat :=
  (match windowOf va with | .spad j _ => (if j = k then 3 else 1) | .vault v _ => (if v = k / 8 then 14 else 1) | _ => 1) +
    s.spareHop k

/-- The executing strand waits resident inside its instruction: no boundary falls until it completes (R430). -/
def State.resident (s : State) : State := s.updCore s.cur fun c => { c with waiting := true }

/-- The core whose window an address lies in. -/
def spadOf (va : Nat) : Option Nat := match windowOf va with | .spad k _ => some k | _ => none

/-- The restore of a tenant's partition on core k is asked for (R191). -/
def State.askRestore (s : State) (t k : Nat) : State :=
  s.updCore k fun c => { c with asked := if c.asked.contains t then c.asked else c.asked ++ [t] }

/-- The executing strand waits resident for the absent partition that an address of its lies in (R191). -/
def State.awaits (s : State) (va : Nat) : State :=
  (match spadOf va with | some k => s.askRestore s.ten k | none => s).resident

/-- The executing strand waits resident for the drain of an end of the strand: its core has left RUNNING (R332). -/
def State.leaving (s : State) (mode : CoreMode) : State := s.updCore s.cur fun c => { c with waiting := true, mode }

/-! ### Exchange phases (R378, R380) -/

/-- XCYC.INPH. -/
def Core.inPhase (c : Core) : Bool := match c.phase with | .inside _ _ => true | _ => false
/-- XCYC.XC in the current c-cycle: 0 outside a phase. -/
def State.xc (s : State) (k : Nat) : Nat := match (s.core k).phase with | .inside _ start => s.cycle - start | _ => 0
/-- DETAIL of the exchange causes (11 Table 10). -/
def exDetail (member xc reason : Nat) : BitVec 56 := BitVec.ofNat 56 (member % 1024 * 2 ^ 20 + xc % 4096 * 2 ^ 8 + reason)

/-- A core's phase closed (R380). -/
def Core.closePhase (c : Core) : Core :=
  { c with
    phase := .none, rxbuf := [], overrun := false, sentSlot := none
    icache := c.icache.map fun l => { l with phase := false } }

/-! ### Leaving the core (R326, R332) -/

/-- An integer held within bounds. -/
def clampInt (b i : Int) : Int := if i < -b then -b else if b < i then b else i

/-- The deficit of the strand's partition charged with the c-cycles it ran (R326). -/
def State.charge (s : State) (k : Nat) : State :=
  match s.partOf (s.core k).strand.tenant k with
  | some i =>
    s.updCore k fun c =>
      { c with deficit := c.deficit.set! i (clampInt 65536 (c.deficit.getD i 0 - (s.cycle - c.runStart : Nat))) }
  | none => s

/-- Core k without its strand: its phase closed, its strips discarded, in a state that it leaves after some c-cycles
(R235, R332, R380). A request for a line ahead that is still outstanding is dropped: DESIGN CHOICE (R62 names no end of it;
log 63). -/
def State.vacate (s : State) (k : Nat) (mode : CoreMode) (cycles : Nat) : State :=
  (s.charge k).updCore k fun c =>
    { c.closePhase with
      mode, strand := {}, strips := c.strips.filter (·.owner != 0), prefetches := [], lastLine := none, preemptReq := false
      svcWant := false, waiting := false, trap := none
      nextIssue := s.cycle + cycles, ready := [] }

/-! ### Taking an exception (R13, R218, R421, R423) -/

/-- The FAULT bookmark of a strand: every register saved, the cause and DETAIL in FAULTINFO, the pc that the cause's entry
gives, STATUS as it stood but for PP after PREFIX_INVALID (R54, R56, R145). -/
def State.faultBookmark (s : State) (k : Nat) (f : Trap) : Bookmark :=
  let t := (s.core k).strand
  let t := { t with
    pc := f.pc.getD t.pc
    faultinfo := mkFaultinfo f.cause f.detail
    status := if f.cause = cPrefix then setPP t.status false else t.status }
  let saved := allSaved t
  { strand := maskStrand t saved, saved, kind := .fault, cause := f.cause, warg := f.detail.setWidth 64
    gen := s.gen t.tenant, lcore := k, prio := t.prio }

/-- The strand of core k ends in a FAULT bookmark, which is delivered (R423, R424). -/
def State.enterFault (s : State) (k : Nat) (f : Trap) : State :=
  let b := s.faultBookmark k f
  (s.vacate k .saving (ceilDiv b.slots 2)).deliver b

/-- The executing strand takes an exception: its posted stores are drained, a failure among them taking the place of
the cause, and it becomes a FAULT bookmark (R218, R421, R423). Until the drain is complete it waits resident, and the exception stands
(R13). -/
def State.takeTrap (s : State) (f : Trap) : State :=
  match s.drain s.cur with
  | .waits s => (s.updCore s.cur fun c => { c with trap := some f }).leaving .saving
  | .failed s cause va => s.enterFault s.cur { cause, detail := vaDetail va }
  | .done s => (s.noteConsumed (s.core s.cur).strand.tenant s.cur f.cause f.detail).enterFault s.cur f

/-- What a strand does once the home of a cell has tested the cell's pending waiters against VALUE: those that it released stay
released whatever becomes of the operation (R13, R263). -/
def State.keeping (s : State) (r : Raises State) : Raises State :=
  match r with
  | .ok s => .ok s
  | .error f => .ok (s.takeTrap f)

/-! ### The long-latency end (R145, R216, R314, R320, R381) -/

/-- A strand ended by a long-latency instruction after some c-cycles, or by a fetch miss: inside a phase EXCH_PHASE; after the
drain, which it spends in SAVING, a bookmark with room for it, WAITER_SPILL_FULL where it finds none; the rest is given the
bookmark's number. -/
def State.endAfter (s : State) (late : Nat) (kind : WKind) (all : Bool) (extra : BitVec 48) (wcap : BitVec 4) (warg : Word)
    (bind advance : Bool) (full : BitVec 56) (holder : State → Nat → Raises State) : Raises State :=
  let k := s.cur
  if (s.core k).inPhase then raise cExPhase (exDetail 0 (s.xc k) 0)
  else match s.drain k with
    | .waits s => .ok (s.leaving .saving)
    | .failed _ cause va => raise cause (vaDetail va)
    | .done s =>
      let t := if advance then s.strand.next else s.strand
      let b := s.mkBookmark k t kind (if all then allSaved t else liveSaved t extra) wcap warg bind
      match s.roomFor (k / 8) t.tenant b.slots with
      | none => raise cSpillFull full
      | some r =>
        let id := s.nextId
        holder ((s.vacate k .saving (late + ceilDiv b.slots 2)).hold b .ready (k / 8) s.cycle r) id

/-- A strand ended in its own c-cycle. -/
def State.endStrand (s : State) (kind : WKind) (all : Bool) (extra : BitVec 48) (wcap : BitVec 4) (warg : Word)
    (bind advance : Bool) (full : BitVec 56) (holder : State → Nat → Raises State) : Raises State :=
  s.endAfter 0 kind all extra wcap warg bind advance full holder

/-! ### Misses and walkers (R206) -/

/-- The address whose walk a held bookmark waits for on a die. -/
def Held.miss (h : Held) (die : Nat) : Option Nat :=
  match h.holder with
  | .xlate va => if h.cluster / 64 = die then some va else none
  | _ => none

/-- The misses in flight on a die: the oldest 32 of each cluster, and of those 256, round robin over their tenants, so that one waits
behind at most one of each other tenant. -/
def State.missesOn (s : State) (die : Nat) : List Held :=
  let all := s.bms.filter fun h => (h.miss die).isSome
  let ms := (all.zipIdx.filter fun m => decide (((all.take m.2).filter fun h => h.cluster == m.1.cluster).length < 32)).map (·.1)
  let rank (m : Held × Nat) : Nat := ((ms.take m.2).filter fun h => h.bm.tenant == m.1.bm.tenant).length
  ((sortBy (fun a b => decide (rank a ≤ rank b)) ms.zipIdx).map (·.1)).take 256

/-- Two addresses of a tenant lie on one leaf. -/
def State.sameLeaf (s : State) (t a b : Nat) : Bool :=
  match s.walk t a with
  | .ok l => decide (l.base ≤ b) && decide (b < l.base + l.size)
  | .error _ => a / 65536 == b / 65536

/-- A walk in progress is for the leaf of a miss, which joins it. -/
def Walk.serves (w : Walk) (s : State) (h : Held) (va : Nat) : Bool :=
  w.die == h.cluster / 64 && w.tenant == h.bm.tenant && w.gen == h.bm.gen && s.sameLeaf w.tenant w.va va

/-- The misses on a die that neither its TLB nor a walk serves. -/
def State.unserved (s : State) (die : Nat) : List Held :=
  (s.missesOn die).filter fun h => !((h.miss die).any fun va =>
    s.tlbHit (128 + die) h.bm.tenant va || s.walks.any fun w => w.serves s h va)

/-- The free walkers of a die take misses: round robin over the tenants with one, the oldest of a tenant first. -/
def State.startWalks (s : State) (die : Nat) : Nat → State
  | 0 => s
  | fuel + 1 =>
    let last := Table.get s.walkTurn die 0
    let after (t : Nat) : Nat := (t + 1024 - last - 1) % 1024
    let best := (s.unserved die).foldl (fun b h => match b with
      | none => some h
      | some (b : Held) => if after h.bm.tenant < after b.bm.tenant then some h else some b) none
    if s.walkerFree die then
      match best with
      | some h =>
        let w : Walk := { die, tenant := h.bm.tenant, gen := h.bm.gen, va := (h.miss die).getD 0 }
        State.startWalks { s with walks := s.walks ++ [w], walkTurn := Table.set s.walkTurn die h.bm.tenant } die fuel
      | none => s
    else s

/-- The walkers of a die that are free take what waits for one. -/
def State.walkers (s : State) (die : Nat) : State := s.startWalks die 32

/-- An access that waits for its translation (R206, R217): the store or command executes again. -/
def State.endXlate (s : State) (va : Nat) : Raises State :=
  s.endStrand .xlate false 0 0 (w64 va) false false 0 fun s id => .ok ((s.setHolder id (.xlate va)).walkers (s.cur / 512))

/-- WARG of a FAR bookmark: the address and the destination (10 Table 2). -/
def farWarg (va : Nat) (space : BitVec 2) (index : Nat) : Word :=
  (space ++ 0#1 ++ BitVec.ofNat 5 index : BitVec 8) ++ BitVec.ofNat 56 va

/-- A far access: the strand ends with wait kind FAR, its destination saved, and the access proceeds (R215, R216), by c-cycle `due` at
the latest where its path has a bound (R499). -/
def State.endFar (s : State) (va : Nat) (space : BitVec 2) (index : Nat) (dest : BitVec 48) (op : FarOp) (due : Nat := 0) :
    Raises State :=
  s.endStrand .far false dest 0 (farWarg va space index) false true 0 fun s id =>
    .ok { s with bms := updWhere s.bms (fun b => b.id == id) fun b => { b with holder := .far va op, due } }

/-- A far access that has consumed a strip of each of the given bound registers, which its bookmark keeps (R225, R234). -/
def State.endFarTook (s : State) (took : List Nat) (va : Nat) (space : BitVec 2) (index : Nat) (dest : BitVec 48) (op : FarOp) :
    Raises State :=
  s.endStrand .far false dest 0 (farWarg va space index) false true 0 fun s id =>
    let s := s.setHolder id (.far va op)
    .ok { s with bms := updWhere s.bms (fun h => h.id == id) fun h => { h with took } }

/-- A far access of an instruction that consumes strips: `done` is the state after the consumption, which the wait for the
drain leaves unmade (R225, R234). -/
def State.endFarFrom (s done : State) (va : Nat) (space : BitVec 2) (index : Nat) (dest : BitVec 48) (op : FarOp) :
    Raises State :=
  let took := (List.range 8).filter fun k => s.strand.bind[k]? != done.strand.bind[k]?
  match (s.core s.cur).inPhase, s.drain s.cur with
  | false, .waits s => .ok (s.leaving .saving)
  | _, _ => done.endFarTook took va space index dest op

/-! ### The frames of an instruction -/

/-- An instruction of a strand: its effect, or the exception it raises (R13). Only strands execute it. -/
def State.runAny (s : State) (f : State → Raises State) : Out :=
  match s.agent with
  | .strand =>
    match f s with
    | .ok s' => .next s'
    | .error t => .next (s.takeTrap t)
  | .service _ => .refused .notOfThisAgent
  | .curator _ => .refused .notOfThisAgent

/-- DETAIL of causes 0x01 to 0x04: the instruction word (R146). -/
def wordDetail (i : Instr) : BitVec 56 := ((encode i).getD 0).setWidth 56

/-- An instruction that refuses a prefix: executed as a consumer it raises PREFIX_INVALID (R54). -/
def State.run (s : State) (i : Instr) (f : State → Raises State) : Out :=
  s.runAny fun s => if stPP s.strand.status then raise cPrefix (wordDetail i) else f s

/-- An instruction that computes on the strand's registers alone. -/
def State.runReg (s : State) (i : Instr) (f : Strand → Raises Strand) : Out :=
  s.run i fun s => do
    let t ← f s.strand
    .ok (s.setStrand t.next)

/-- An instruction that writes one x register. -/
def State.runX (s : State) (i : Instr) (d : XReg) (f : Strand → Word) : Out :=
  s.runReg i fun t => .ok (t.setX d (f t))

/-- A drain point: it waits resident for every posted store and operation, raises a failure found, and then makes its
effect (R218). -/
def State.afterDrain (s : State) (f : State → Raises State) : Raises State :=
  match s.drain s.cur with
  | .waits s => .ok s.resident
  | .failed _ cause va => raise cause (vaDetail va)
  | .done s => f s

/-! ### The return to a core (R317, R329, R426) -/

/-- The strand that a bookmark of any kind but NEW relaunches (R317): the bookmark holds it. -/
def Bookmark.relaunch (b : Bookmark) (stamp : Nat) : Strand := { b.strand with prio := b.prio, lstamp := stamp }

/-- The registers of a strand launched from a record, by the task entry on the core that takes it (R112, R322,
R425). -/
def Bookmark.launch (b : Bookmark) (e : TaskEntry) (stamp : Nat) : Strand :=
  let x10 := (b.warg.extractLsb' 0 32).setWidth 64
  let x11 := (b.warg.extractLsb' 32 32).setWidth 64
  let t : Strand :=
    { pcc := { img := e.code, tag := e.codetag }, pc := e.entry.setWidth 64, status := mkStatus b.tenant e.comp
      prio := b.prio, lstamp := stamp }
  match b.start with
  | some f =>
    { (((((((t.setX 10 f.x10).setX 11 f.x11).setX 12 f.x12).setX 13 f.x13).setC 1 f.c1).setC 2 f.c2)) with
      faultinfo := f.faultinfo }
  | none => ((t.setX 10 x10).setX 11 x11).setC 1 (b.arg.getD {})

/-- A strand is loaded on a core from the bookmark of a number, and the core leaves LOADING after some c-cycles (R329,
R332); a strip that the bookmark waited for is the strand's (R234). A new strand is numbered by its record (log 3). The launch and the
relaunch acquire at SYS (R299, R303). -/
def State.load (s : State) (k id : Nat) (t : Strand) (cycles : Nat) : State :=
  (s.ordered .sys k t.tenant).updCore k fun c =>
    { c with
      mode := .loading, strand := { t with sid := if t.sid = 0 then id else t.sid }, posted := [], failed := [], lastLine := none, preemptReq := false, waiting := false, trap := none
      strips := updWhere c.strips (fun p => p.owner == id) fun p => { p with owner := 0 }
      runId := id, rescan := false, nextIssue := s.cycle + cycles, ready := [] }

/-- An event that changes nothing where it is not enabled (log 10). -/
def State.event (s : State) (enabled : Bool) (f : State → State) : Out := .next (if enabled then f s else s)

end Sys2Proof.Machine
end

