-- ==== Sys2Proof/Machine/Streams.lean ====
section
/-! DEFINITION. Stream registers: the descriptor, the consumption of strips, the frame of an instruction that names vector
registers, and SBIND and SFREE (07 R232 to R236, 05 R162). -/

namespace Sys2Proof.Machine

/-! ### The stream descriptor (07 Table 5) -/

/-- TAG. -/
def sdTag (d : Vec) : Bool := d.getLsbD 511
/-- REVOKED. -/
def sdRevoked (d : Vec) : Bool := d.getLsbD 510
/-- NEXT. -/
def sdNext (d : Vec) : Nat := (d.extractLsb' 472 32).toNat
/-- COUNT. -/
def sdCount (d : Vec) : Nat := (d.extractLsb' 440 32).toNat
/-- STEP. -/
def sdStep (d : Vec) : Nat := (d.extractLsb' 416 24).toNat
/-- EW, as a width in bits. -/
def sdEw (d : Vec) : Nat := 8 * 2 ^ (d.extractLsb' 408 3).toNat
/-- PADEFF. -/
def sdPad (d : Vec) : Bool := d.getLsbD 386

/-- The capability of a descriptor, as far as its elements' addresses and pad values need it. -/
def sdCap (d : Vec) : Vec :=
  putBits (putBits (putBits (putBits (putBits (putBits (0 : Vec) 0 (d.extractLsb' 0 56)) 64 (d.extractLsb' 56 128)) 192
    (d.extractLsb' 184 192)) 384 (d.extractLsb' 376 8)) 392 (d.extractLsb' 384 2)) 456 (d.extractLsb' 392 16)

/-- The descriptor of a capability under a pattern word (R232, R235). -/
def mkStream (c : Vec) (x : Word) : Vec :=
  let pad := cPadMode c == 1 && grants c pPadok
  putBits (putBits (putBits (putBits (putBits (putBits (putBits (putBits (putBits (putBits (0 : Vec) 0
    (c.extractLsb' 0 56)) 56 (c.extractLsb' 64 128)) 184 (c.extractLsb' 192 192)) 376 (c.extractLsb' 384 8)) 384
    (c.extractLsb' 392 2)) 386 (BitVec.ofBool pad)) 392 (cPadVal c)) 408 (x.extractLsb' 56 3)) 416
    (x.extractLsb' 32 24)) 440 (x.extractLsb' 0 32) ||| putBit 0 511 true

/-- The addresses of the elements of a strip (R233). -/
def stripVas (d : Vec) (pos : Nat) : List Nat :=
  ((List.range (512 / sdEw d)).filter fun i => decide (pos * sdStep d + i < cCount (sdCap d))).map fun i =>
    elemAddr (sdCap d) (decompose (sdCap d) (pos * sdStep d + i))

/-! ### Consumption (R162, R234) -/

/-- The bound registers among the sources, each once, as numbers less 24. -/
def Strand.boundSrcs (t : Strand) (srcs : List VReg) : List Nat :=
  (srcs.filter fun r => (t.boundOf r).isSome).foldl (fun acc r =>
    let k := r.toNat - 24
    if acc.contains k then acc else acc ++ [k]) []

/-- The descriptor of v24+k. -/
def Strand.desc (t : Strand) (k : Nat) : Vec := ((t.bind[k]?).join).getD 0

/-- The addresses that a far access reaches beside its own. -/
def FarOp.addrs : FarOp → List Nat
  | .vecLoad _ _ _ units => units.map (·.2)
  | .store cells _ => cells.map (·.1)
  | _ => []

/-- The addresses whose accesses a held bookmark waits for (R194, R318). -/
def Held.accesses (h : Held) : List Nat :=
  match h.holder with
  | .far va op => va :: op.addrs
  | .fetch line => [64 * line]
  | .stream r => stripVas (h.bm.strand.desc r) (sdNext (h.bm.strand.desc r))
  | _ => []

/-- The strip that bound register 24+k supplies: none where it has not arrived (R234). -/
def Core.strip (c : Core) (k : Nat) : Raises (Option Vec) :=
  let d := c.strand.desc k
  if sdRevoked d then raise cRevoked (capDetail opMem)
  else if sdCount d ≤ sdNext d then raise cStream (BitVec.ofNat 56 k)
  else match c.strips.find? fun p => p.owner == 0 && p.reg == k && p.pos == sdNext d with
    | none => .ok none
    | some p =>
      match p.data with
      | .ok v => .ok (some v)
      | .marked cause detail => raise cause detail

/-- The strips of bound registers in the order of the instruction's fields: the first not arrived, or all of them. Of two that cannot supply
a strip the spec does not say which decides the wait or the fault: the first in that order, DESIGN CHOICE (log 91). -/
def Core.takeStrips (c : Core) : List Nat → Raises (Except Nat (List (Nat × Vec)))
  | [] => .ok (.ok [])
  | k :: r => do
    match ← c.strip k with
    | none => .ok (.error k)
    | some v =>
      match ← c.takeStrips r with
      | .error j => .ok (.error j)
      | .ok l => .ok (.ok ((k, v) :: l))

/-- The strands's stream registers after a strip of each was consumed: NEXT advanced (R234). -/
def Strand.advance (t : Strand) (ks : List Nat) : Strand :=
  ks.foldl (fun t k => { t with bind := t.bind.set! k ((t.bind[k]?).join.map fun d =>
    putBits d 472 (BitVec.ofNat 32 (sdNext d + 1))) }) t

/-- The strand's vector registers with the strips in the place of the bound ones. -/
def Strand.withStrips (t : Strand) (l : List (Nat × Vec)) : Strand :=
  l.foldl (fun t p => { t with v := t.v.set! (24 + p.1) p.2 }) t

/-- Core c after a strip of each of its bound sources was consumed. -/
def Core.advance (c : Core) (ks : List Nat) : Core :=
  { c with
    strand := c.strand.advance ks
    strips := dropWhere c.strips fun p => p.owner == 0 && ks.contains p.reg && p.pos == sdNext (c.strand.desc p.reg) }

/-- An instruction that reads vector registers: a strip of each bound source is consumed; a strip not yet arrived ends the
strand with wait kind STREAM, to execute again (R162, R234). The effect is given the state before and after the
consumption, and the strand with its strips in place. -/
def State.withSources (s : State) (srcs : List VReg) (f : State → State → Strand → Raises State) : Raises State := do
  let c := s.core s.cur
  let ks := c.strand.boundSrcs srcs
  match ← c.takeStrips ks with
  | .error k =>
    s.endStrand .stream false 0 0 (w64 k) true false 0 fun s id => .ok (s.setHolder id (.stream k))
  | .ok l => f s (s.updCore s.cur fun c => c.advance ks) (c.strand.withStrips l)

/-- An instruction of the vector unit: no destination may be a bound register; its sources are read before its
destinations are written; its prefix is consumed (R161, R162, R55). `accepts` says whether it admits the overrides of a
pending prefix (R54, R182). -/
def State.runVec (s : State) (i : Instr) (srcs dsts : List VReg) (accepts : Overrides → Bool)
    (f : Strand → Raises (Strand → Strand)) : Out :=
  s.runAny fun s => do
    let t := s.strand
    need (dsts.all fun r => (t.boundOf r).isNone) cIllegal (wordDetail i)
    need (!stPP t.status || accepts (overridesOf (stPrefix t.status))) cPrefix (wordDetail i)
    s.withSources srcs fun _ s t => do
      let g ← f t
      .ok (s.setStrand (g s.strand).next)

/-- No override is admitted: every pending prefix is refused (R54, R182). -/
def noPrefix (_ : Overrides) : Bool := false

/-! ### SBIND and SFREE (R232, R236) -/

/-- SBIND (R232). The strand's stores before it are seen by its refills: a strip is read once they are accepted (R233). R232 does not order
the test of the element size against EW among cb's checks and that of xa: it comes last, DESIGN CHOICE (log 86). -/
def execSbind (v : BitVec 3) (b : CReg) (a : XReg) (s : State) : Out :=
  s.run (.sbind v b a) fun s => do
    let t := s.strand
    let x := t.getX a
    let c ← checkUnsealed (t.getC b) t.comp (opC b)
    need (decide (cFmt c ≤ 16) && cFmt c != fCnt && cFmt c != fCap && !isGroup (cFmt c)) cFormat (capDetail (opC b))
    need (grants c pLd) cPerm (capDetail (opC b))
    let ew := (x.extractLsb' 56 3).toNat
    need (x.extractLsb' 59 5 == 0 && x.extractLsb' 0 32 != 0 && decide (ew < 4)) cFormat (capDetail opMem)
    need (8 * sizeOf (cFmt c) == 8 * 2 ^ ew) cFormat (capDetail (opC b))
    let s := s.offerAll s.cur
    .ok ((s.updCore s.cur fun k =>
      { k with
        strand := { k.strand with bind := k.strand.bind.set! v.toNat (some (mkStream c x)) }
        boundAt := k.boundAt.set! v.toNat s.nextId
        strips := dropWhere k.strips fun p => p.owner == 0 && p.reg == v.toNat }).adv)

/-- SFREE (R236). -/
def execSfree (v : BitVec 3) (s : State) : Out :=
  s.run (.sfree v) fun s =>
    .ok ((s.updCore s.cur fun k =>
      { k with
        strand := { (k.strand.setV (0b11#2 ++ v) 0) with bind := k.strand.bind.set! v.toNat none }
        strips := dropWhere k.strips fun p => p.owner == 0 && p.reg == v.toNat }).adv)

end Sys2Proof.Machine
end

