-- ==== Sys2Proof/Machine/Adapters.lean ====
section
/-! DEFINITION. The adapter slot table and WEED: ACLAIM, AFREE, the allotment of a slot, and revocation requests (12 R406 to
R411, R415). -/

namespace Sys2Proof.Machine

/-- Adapter slots of the part (R406). -/
def slotCount : Nat := 8192

/-- Entry n of the adapter slot table. -/
def State.slot (s : State) (n : Nat) : Slot := Table.get s.slots n {}
/-- The state with f applied to entry n of the adapter slot table. -/
def State.updSlot (s : State) (n : Nat) (f : Slot → Slot) : State := { s with slots := Table.upd s.slots n {} f }

/-- The slot capability of slot n (R408). -/
def slotCap (n : Nat) : CapReg := { img := mkCap fByte n 1 pInvoke 0xFFF2 0 2, tag := true }

/-- The storage capability of a claim (R409). -/
def storageCap (e : Slot) (comp : BitVec 16) : CapReg :=
  { img := mkCap fByte e.dbase e.dsize (pLd ||| pSt ||| pXsrc ||| pXdst ||| pMop) 0 comp 1, tag := true }

/-- BUSY (R409). -/
def busyAnswer (e : Slot) : Word := 1#1 ++ 0#15 ++ e.adid.extractLsb' 0 32 ++ e.cgen

/-- ACLAIM (R409). -/
def execAclaim (d : XReg) (a : CReg) (b : XReg) (s : State) : Out :=
  s.run (.aclaim d a b) fun s => do
    let t := s.strand
    let c ← checkHeld (t.getC a) t.comp (opC a)
    need (cOty c == 0xFFF2) cSealed (capDetail (opC a))
    need (cFmt c == fByte && cRankm1 c == 0 && cExt c 0 == 1) cFormat (capDetail (opC a))
    need (grants c pInvoke) cPerm (capDetail (opC a))
    let n := cBase c
    need (decide (n < slotCount)) cFormat (capDetail (opC a))
    let e := s.slot n
    need (e.allot && e.tenant == s.ten && e.tgen == s.gen s.ten) cPerm (capDetail (opC a))
    if e.claimed then .ok (s.setStrand (t.setX d (busyAnswer e)).next)
    else
      let e := { e with claimed := true, cgen := e.cgen + 1, comp := t.comp, adid := (t.getX b).extractLsb' 0 48 }
      let s := s.updSlot n fun _ => e
      .ok (s.setStrand ((t.setX d (e.cgen.setWidth 64)).setC a (storageCap e t.comp)).next)

/-- The claimed slot of a tenant whose storage begins at an address (R410). -/
def State.claimedSlot (s : State) (t base : Nat) : Option (Nat × Slot) :=
  s.slots.find? fun x => x.2.tenant == t && x.2.claimed && x.2.dbase == base

/-- AFREE (R410). -/
def execAfree (a : CReg) (s : State) : Out :=
  s.run (.afree a) fun s => do
    let t := s.strand
    let c ← checkUnsealed (t.getC a) t.comp (opC a)
    need (cFmt c == fByte && cRankm1 c == 0 && cStr c 0 == 1) cFormat (capDetail (opC a))
    match s.claimedSlot s.ten (cBase c) with
    | none => raise cPerm (capDetail (opC a))
    | some (n, e) =>
      need (cExt c 0 == e.dsize && e.comp == t.comp) cPerm (capDetail (opC a))
      s.afterDrain fun s =>
        let s := s.updSlot n fun e => { e with claimed := false, comp := 0 }
        .ok (s.setStrand (s.strand.setC a (slotCap n)).next)

/-- ADAPTER_SLOT_ALLOT: the service pair writes a slot's entry and issues its slot capability into the tenant's memory, where
the slot's fields are within their rules, its storage is no other slot's and the capability can be written (R406, R408; log 92); into no locked core (R399), and once the
partition is present (R191). -/
def execAdapterSlotAllot (slot tenant dbase dsize dest : Nat) (s : State) : Out :=
  if let some k := s.lockedAt dest then .next (s.logLocked k dest)
  else if s.heldAt tenant dest then .next s
  else
  let ok := decide (slot < slotCount) && (s.tenant tenant).v && dbase % 65536 == 0 && decide (dbase + dsize ≤ 2 ^ 48) &&
    dsize % 4096 == 0 && dsize != 0 && decide (dsize < 2 ^ 32) && dest % 64 == 0 && !s.inStorage tenant slot dbase (dbase + dsize)
  let issued : Raises State := do
    let p ← s.placeOf tenant dest needW false dest
    s.writeGranule tenant dest p (slotCap slot).img true
  match issued with
  | .error _ => .next s
  | .ok s' =>
    s.event ok fun _ => s'.updSlot slot fun e =>
      { e with dbase, dsize, tenant, tgen := s.gen tenant, allot := true, claimed := false }

/-! ### WEED (R415) -/

/-- The weeding engine, as the holder of SLOT bookmarks. -/
def weedEngine : Nat := 136

/-- Room for one more request of a tenant at the weeding engine; a withdrawn request counts no longer (R415). -/
def State.weedRoom (s : State) (t : Nat) : Bool :=
  let ws := s.weeds.filter fun w => !w.withdrawn
  decide (ws.length < 64) && decide ((ws.filter fun w => w.tenant == t).length < 8)

/-- A request leaves the counts: the oldest WEED bookmark that then has room is released, unbound (R415). -/
def State.leaveWeed (s : State) : State :=
  match s.bms.find? fun h => h.holder == .slot weedEngine && s.weedRoom h.bm.tenant with
  | some h => s.release h.id false
  | none => s

/-- WEED (R415). -/
def execWeed (a b : CReg) (s : State) : Out :=
  s.run (.weed a b) fun s => do
    let t := s.strand
    let r ← checkOpnd (t.getC a) t.comp (opC a)
      (fun c => cFmt c == fByte && cRankm1 c == 0 && cStr c 0 == 1) (pLd ||| pSt ||| pLdc ||| pStc)
    need (decide (cBase r < 2 ^ 48) && cBase r % 4096 == 0 && cExt r 0 % 4096 == 0) cFormat (capDetail (opC a))
    let k ← checkOpnd (t.getC b) t.comp (opC b) cntForm pKctr
    let va := cBase k
    need (va % 16 == 0) cFormat (capDetail (opC b))
    if translated va && !s.tlbHit (s.cur / 8) s.ten va then s.endXlate va
    else do
      let p ← s.cellPlace s.ten k (opC b) needRW
      need (!s.homeRefuses p) cHome (vaDetail va)
      s.afterDrain fun s =>
        if s.weedRoom s.ten then
          let w : WeedReq :=
            { base := cBase r, len := cExt r 0, ctr := { img := k, tag := true }, tenant := s.ten, gen := s.gen s.ten
              comp := t.comp, lcore := s.cur, swept := false, withdrawn := false }
          .ok { s.adv with weeds := s.weeds ++ [w] }
        else s.endStrand .slot false 0 0 2 false false 0 fun s id => .ok (s.setHolder id (.slot weedEngine))

end Sys2Proof.Machine
end

