-- ==== Sys2Proof/Machine/Aes.lean ====
section
/-! DEFINITION. AES-256 and GCM, as the standards that the spec names give them (07 R251, R252; log 14). -/

namespace Sys2Proof.Machine

/-! ### AES-256 -/

/-- Multiplication by x in GF(2^8) with the AES polynomial. -/
def xtime (a : Byte) : Byte := (a <<< 1) ^^^ (if a.msb then 0x1B else 0)

/-- Multiplication in GF(2^8): n bits of b still to be taken. -/
def gfMul : Nat → Byte → Byte → Byte
  | 0, _, _ => 0
  | n + 1, a, b => (if b.getLsbD 0 then a else 0) ^^^ gfMul n (xtime a) (b >>> 1)

/-- a to the power n in GF(2^8). -/
def gfPow (a : Byte) : Nat → Byte
  | 0 => 1
  | n + 1 => gfMul 8 a (gfPow a n)

/-- The S-box: the inverse in GF(2^8), then the affine map. -/
def sbox (a : Byte) : Byte :=
  let b := gfPow a 254
  b ^^^ b.rotateLeft 1 ^^^ b.rotateLeft 2 ^^^ b.rotateLeft 3 ^^^ b.rotateLeft 4 ^^^ 0x63

/-- The S-box as a table. -/
def sboxTable : List Byte := (List.range 256).map fun i => sbox (BitVec.ofNat 8 i)

/-- The S-box looked up. -/
def subByte (a : Byte) : Byte := sboxTable.getD a.toNat 0

/-- Bytes combined by exclusive or. -/
def xorBytes (a b : List Byte) : List Byte := (a.zip b).map fun p => p.1 ^^^ p.2

/-- The words of the key schedule: those made so far, newest first, and how many are still to be made. -/
def expandKey : Nat → List (List Byte) → List (List Byte)
  | 0, ws => ws
  | n + 1, ws =>
    let i := 60 - (n + 1)
    let prev := ws.headD []
    let t :=
      if i % 8 = 0 then xorBytes ((prev.drop 1 ++ prev.take 1).map subByte) [gfPow 2 (i / 8 - 1), 0, 0, 0]
      else if i % 8 = 4 then prev.map subByte
      else prev
    expandKey n (xorBytes (ws.getD 7 []) t :: ws)

/-- A list cut into pieces of n. -/
def piecesOf (n : Nat) (l : List Byte) : List (List Byte) :=
  (List.range (ceilDiv l.length n)).map fun i => (l.drop (n * i)).take n

/-- The fifteen round keys of a 32-byte key. -/
def roundKeys (key : List Byte) : List (List Byte) :=
  piecesOf 16 ((expandKey 52 (piecesOf 4 key).reverse).reverse.flatMap id)

/-- ShiftRows: byte r + 4 c of the block comes from column c + r. -/
def shiftRows (b : List Byte) : List Byte :=
  (List.range 16).map fun i => b.getD (i % 4 + 4 * ((i / 4 + i % 4) % 4)) 0

/-- MixColumns. -/
def mixColumns (b : List Byte) : List Byte :=
  (List.range 16).map fun i =>
    let a (j : Nat) : Byte := b.getD (i / 4 * 4 + (i + j) % 4) 0
    xtime (a 0) ^^^ (xtime (a 1) ^^^ a 1) ^^^ a 2 ^^^ a 3

/-- The rounds after the first key was added. -/
def aesRounds : List (List Byte) → List Byte → List Byte
  | [], b => b
  | [k], b => xorBytes (shiftRows (b.map subByte)) k
  | k :: ks, b => aesRounds ks (xorBytes (mixColumns (shiftRows (b.map subByte))) k)

/-- One block encrypted. -/
def aesEncrypt (key block : List Byte) : List Byte :=
  match roundKeys key with
  | [] => block
  | k :: ks => aesRounds ks (xorBytes block k)

/-! ### GCM -/

/-- A value of n bytes, the first byte the most significant. -/
def beNat (l : List Byte) : Nat := l.foldl (fun a b => 256 * a + b.toNat) 0

/-- n bytes of a value, the most significant first. -/
def beBytes (n v : Nat) : List Byte := (natBytes n v).reverse

/-- Multiplication in GF(2^128) as GCM orders its bits: n bits of x still to be taken, from the most significant. -/
def ghashMul : Nat → BitVec 128 → BitVec 128 → BitVec 128
  | 0, _, _ => 0
  | n + 1, x, v =>
    let v' := (v >>> 1) ^^^ (if v.getLsbD 0 then 0xE1000000000000000000000000000000#128 else 0)
    (if x.msb then v else 0) ^^^ ghashMul n (x <<< 1) v'

/-- Bytes padded with zeros to whole blocks. -/
def padBlocks (l : List Byte) : List Byte := l ++ List.replicate ((16 - l.length % 16) % 16) 0

/-- GHASH under h. -/
def ghash (h : BitVec 128) (l : List Byte) : BitVec 128 :=
  (piecesOf 16 l).foldl (fun y b => ghashMul 128 (y ^^^ BitVec.ofNat 128 (beNat b)) h) 0

/-- The counter block of an IV. -/
def ctrBlock (iv : List Byte) (n : Nat) : List Byte := iv ++ beBytes 4 n

/-- Byte q of the key stream for the text. -/
def gcmStream (key iv : List Byte) (q : Nat) : Byte := (aesEncrypt key (ctrBlock iv (q / 16 + 2))).getD (q % 16) 0

/-- The tag over additional data and ciphertext. -/
def gcmTag (key iv aad text : List Byte) : List Byte :=
  let h := BitVec.ofNat 128 (beNat (aesEncrypt key (List.replicate 16 0)))
  let y := ghash h (padBlocks aad ++ padBlocks text ++ beBytes 8 (8 * aad.length) ++ beBytes 8 (8 * text.length))
  xorBytes (beBytes 16 y.toNat) (aesEncrypt key (ctrBlock iv 1))

end Sys2Proof.Machine
end

