-- ==== Sys2Proof/Machine/Engine.lean ====
section
/-! DEFINITION. Engine commands at issue: their operands, their own checks and their records, and XRESUME (07 R237 to R244,
R247 to R255, 13 R422). -/

namespace Sys2Proof.Machine

/-! ### Operands (R237, R238) -/

/-- A data operand's format: CNT never, CAP and the group-scaled formats where the command allows them. -/
def dataForm (cap group : Bool) (c : Vec) : Bool :=
  decide (cFmt c ≤ 16) && cFmt c != fCnt && (cap || cFmt c != fCap) && (group || !isGroup (cFmt c))

/-- A data operand of a command: steps 1 to 6 of R123. -/
def Strand.dataOpnd (t : Strand) (r : CReg) (form : Vec → Bool) (perm : BitVec 16) : Raises Vec :=
  checkOpnd (t.getC r) t.comp (opC r) form perm

/-- The extent of the top axis (R248). -/
def topExt (c : Vec) : Nat := cExt c (cRankm1 c)

/-- An index tensor: INT32 of rank 1, one index for each slice of the other operand's top axis (07 Table 6). -/
def indexForm (n : Nat) (c : Vec) : Bool := cFmt c == fInt32 && cRankm1 c == 0 && cExt c 0 == n

/-- The transfer engine of a core's cluster. -/
def xferOf (k : Nat) : Nat := k / 8
/-- The bindery of a core's quadrant (R19). -/
def binderyOf (k : Nat) : Nat :=
  let c := k / 8
  128 + 4 * (c / 64) + (2 * (c % 64 / 8 / 4) + c % 8 / 4)

/-- Room for one more command of a tenant at an engine (R239). -/
def State.cmdRoom (s : State) (e t : Nat) : Bool :=
  decide ((s.cmds.filter fun c => c.engine == e).length < Config.cmdEntries) &&
  decide ((s.cmds.filter fun c => c.engine == e && c.tenant == t).length < Config.cmdShare)

/-- The strand waits for a command record (R239). -/
def State.endSlot (s : State) (e : Nat) : Raises State :=
  s.endStrand .slot false 0 0 (if e < 128 then 0 else 1) false false 0 fun s id => .ok (s.setHolder id (.slot e))

/-- A checked operand image, as a register holds it. -/
def held (img : Vec) : CapReg := { img, tag := true }

/-- The operands of a command once they are checked. -/
structure CmdOperands where
  op : CmdOp
  dst : Vec
  src : Vec := 0
  idx : Vec := 0
  val : Word := 0

/-- A command at issue (R238, R239): its data operands are checked by `operands`, then the counter, then its own checks
by `own`; it receives a record, or the strand waits for one. -/
def State.command (s : State) (engine : Nat) (m : Bool) (k : CReg) (operands : Strand → Raises CmdOperands)
    (own : CmdOperands → Raises Unit) : Raises State := do
  let t := s.strand
  let o ← operands t
  let ctr ← checkOpnd (t.getC k) t.comp (opC k) cntForm pKctr
  let va := cBase ctr
  need (va % 16 == 0) cFormat (capDetail (opC k))
  if translated va && !s.tlbHit (s.cur / 8) s.ten va then s.endXlate va
  else do
    let p ← s.cellPlace s.ten ctr (opC k) needRW
    need (!s.homeRefuses p) cHome (vaDetail va)
    own o
    if !s.cmdRoom engine s.ten then s.endSlot engine
    else
      let c : Cmd :=
        { id := s.nextId, engine, op := o.op, perCmd := m, dst := held o.dst, src := held o.src, idx := held o.idx
          ctr := held ctr, val := o.val, tenant := s.ten, gen := s.gen s.ten, comp := t.comp, lcore := s.cur, sid := t.sid }
      .ok { s.adv with cmds := s.cmds ++ [c], nextId := s.nextId + 1 }

/-- No checks of the command's own. -/
def noChecks (_ : CmdOperands) : Raises Unit := .ok ()

/-! ### The commands (R247 to R255) -/

/-- XCOPY (R247): with a group-scaled format both e0 are multiples of 32. R247 names no cause for another e0: CAP_FORMAT, after ck's
checks, DESIGN CHOICE (log 87). -/
def execXcopy (m : Bool) (d b k : CReg) (s : State) : Out :=
  s.run (.xcopy m d b k) fun s => s.command (xferOf s.cur) m k (fun t => do
    let dst ← t.dataOpnd d (dataForm true true) pXdst
    let src ← t.dataOpnd b (fun c => dataForm true true c && cFmt c == cFmt dst) pXsrc
    .ok { op := .copy, dst, src }) fun o => do
    need (!isGroup (cFmt o.dst) || cExt o.dst 0 % 32 == 0) cFormat (capDetail (opC d))
    need (!isGroup (cFmt o.src) || cExt o.src 0 % 32 == 0) cFormat (capDetail (opC b))

/-- XGATH (R248). -/
def execXgath (m : Bool) (d b e k : CReg) (s : State) : Out :=
  s.run (.xgath m d b e k) fun s => s.command (xferOf s.cur) m k (fun t => do
    let dst ← t.dataOpnd d (dataForm true false) pXdst
    let src ← t.dataOpnd b (fun c => dataForm true false c && cFmt c == cFmt dst && cRankm1 c == cRankm1 dst) pXsrc
    let idx ← t.dataOpnd e (indexForm (topExt dst)) pXsrc
    .ok { op := .gath, dst, src, idx }) noChecks

/-- XSCAT (R248). -/
def execXscat (m : Bool) (d b e k : CReg) (s : State) : Out :=
  s.run (.xscat m d b e k) fun s => s.command (xferOf s.cur) m k (fun t => do
    let dst ← t.dataOpnd d (dataForm true false) pXdst
    let src ← t.dataOpnd b (fun c => dataForm true false c && cFmt c == cFmt dst && cRankm1 c == cRankm1 dst) pXsrc
    let idx ← t.dataOpnd e (indexForm (topExt src)) pXsrc
    .ok { op := .scat, dst, src, idx }) noChecks

/-- XFILL (R249). -/
def execXfill (m : Bool) (d : CReg) (a : XReg) (k : CReg) (s : State) : Out :=
  s.run (.xfill m d a k) fun s => s.command (xferOf s.cur) m k (fun t => do
    let dst ← t.dataOpnd d (dataForm false false) pXdst
    .ok { op := .fill, dst, val := t.getX a }) noChecks

/-- The formats of an XRED (07 Table 9). -/
def redForm (op : RedOp) (f : Nat) : Bool :=
  decide (1 ≤ f) && (decide (f ≤ 8) || (op != .add && (f == 9 || f == 10)))

/-- XRED (R250). -/
def execXred (m : Bool) (op : RedOp) (d b k : CReg) (s : State) : Out :=
  s.run (.xred m op d b k) fun s => s.command (xferOf s.cur) m k (fun t => do
    let dst ← t.dataOpnd d (dataForm false false) pXdst
    let src ← t.dataOpnd b (fun c => dataForm false false c && cFmt c == cFmt dst) pXsrc
    .ok { op := .red op, dst, src }) fun o => need (redForm op (cFmt o.dst)) cFormat (capDetail (opC d))

/-- The types of a key-and-nonce block (R251). -/
def keyType (t : BitVec 16) : Bool := t == 0xFFF3 || (decide (1 ≤ t.toNat) && decide (t.toNat ≤ 0xFFEF))

/-- XCRYP (R251): ce is sealed. -/
def execXcryp (m : Bool) (d b e k : CReg) (s : State) : Out :=
  s.run (.xcryp m d b e k) fun s => s.command (xferOf s.cur) m k (fun t => do
    let dst ← t.dataOpnd d (fun c => cFmt c == fByte) pXdst
    let src ← t.dataOpnd b (fun c => cFmt c == fByte && cRankm1 c == 0 && cStr c 0 == 1) pXsrc
    let idx ← checkHeld (t.getC e) t.comp (opC e)
    need (keyType (cOty idx)) cSealed (capDetail (opC e))
    need (cFmt idx == fByte && cRankm1 idx == 0 && cExt idx 0 == 64) cFormat (capDetail (opC e))
    need (grants idx pXsrc) cPerm (capDetail (opC e))
    .ok { op := .cryp, dst, src, idx }) noChecks

/-! ### The dimension-mapping word (R253, R254) -/

/-- A virtual axis: the source axis it is a part of, the stride it has there, and its extent. -/
abbrev VAxis := Nat × Nat × Nat

/-- f_k. -/
def splitOf (w : Word) (k : Nat) : Nat := (w.extractLsb' (24 + 4 * k) 4).toNat
/-- PERM field j. -/
def permOf (w : Word) (j : Nat) : Nat := (w.extractLsb' (3 * j) 3).toNat
/-- MERGE bit j. -/
def mergeOf (w : Word) (j : Nat) : Bool := w.getLsbD (40 + j)

/-- The virtual source axes (R254 step 1). -/
def virtualAxes (c : Vec) (w : Word) : List VAxis :=
  (List.range (cRankm1 c + 1)).flatMap fun k =>
    let f := splitOf w k
    if f = 0 then [(k, 1, cExt c k)] else [(k, 1, 2 ^ f), (k, 2 ^ f, cExt c k / 2 ^ f)]

/-- Output virtual axes joined into runs (R254 step 3), from output axis j on. -/
def mergeRuns (w : Word) : Nat → List VAxis → List (List VAxis)
  | _, [] => []
  | j, a :: r =>
    match mergeRuns w (j + 1) r with
    | [] => [[a]]
    | run :: runs => if mergeOf w j then (a :: run) :: runs else [a] :: run :: runs

/-- The runs of a mapping, one for each axis of cd. -/
def bindRuns (c : Vec) (w : Word) : List (List VAxis) :=
  let vs := virtualAxes c w
  mergeRuns w 0 ((List.range vs.length).map fun j => vs.getD (permOf w j) (0, 1, 1))

/-- The extent of a run. -/
def runExt (r : List VAxis) : Nat := r.foldl (fun n a => n * a.2.2) 1

/-- The lowest reason for which a mapping word is refused (R422); 0 for none. -/
def layoutReason (src dst : Vec) (w : Word) : Nat :=
  let r := cRankm1 src
  let v := (virtualAxes src w).length
  let perms := (List.range v).map (permOf w)
  let runs := bindRuns src w
  if w.extractLsb' 51 13 != 0 || w.getLsbD 47 then 1
  else if (List.range 4).any (fun k => decide (r < k) && splitOf w k != 0) then 2
  else if (List.range (r + 1)).any (fun k => cExt src k % 2 ^ splitOf w k != 0) then 3
  else if v ≠ (w.extractLsb' 48 3).toNat + 1 then 4
  else if !((List.range v).all perms.contains) || (List.range 8).any (fun j => decide (v ≤ j) && permOf w j != 0) then 5
  else if (List.range 7).any (fun j => decide (v ≤ j + 1) && mergeOf w j) then 6
  else if 4 < runs.length then 7
  else if cRankm1 dst + 1 ≠ runs.length || (runs.zipIdx.any fun x => runExt x.1 != cExt dst x.2) then 8
  else 0

/-- DETAIL of LAYOUT_WORD (13 Table 1). -/
def layoutDetail (reason : Nat) (w : Word) : BitVec 56 := w.extractLsb' 0 48 ++ BitVec.ofNat 8 reason

/-- XBIND (R253, R254). -/
def execXbind (m : Bool) (d b : CReg) (a : XReg) (k : CReg) (s : State) : Out :=
  s.run (.xbind m d b a k) fun s => s.command (binderyOf s.cur) m k (fun t => do
    let dst ← t.dataOpnd d (dataForm false false) pXdst
    let src ← t.dataOpnd b (fun c => dataForm false false c && cFmt c == cFmt dst) pXsrc
    .ok { op := .bind, dst, src, val := t.getX a }) fun o =>
      let r := layoutReason o.src o.dst o.val
      need (r == 0) cLayout (layoutDetail r o.val)

/-- XFLUSH (R255). -/
def execXflush (m : Bool) (d k : CReg) (s : State) : Out :=
  s.run (.xflush m d k) fun s => s.command (xferOf s.cur) m k (fun t => do
    let dst ← t.dataOpnd d (dataForm false false) pXsrc
    .ok { op := .flush, dst }) noChecks

/-- XINVAL (R255). -/
def execXinval (m : Bool) (d k : CReg) (s : State) : Out :=
  s.run (.xinval m d k) fun s => s.command (xferOf s.cur) m k (fun t => do
    let dst ← t.dataOpnd d (dataForm false false) pXdst
    .ok { op := .inval, dst }) noChecks

/-! ### Faulted records (R243, R244, R252) -/

/-- The faulted record of a handle. -/
def State.faultedOf (s : State) (h : Nat) : Option FaultedCmd := s.faulted.find? (·.handle == h)

/-- A faulted record freed. -/
def State.dropFaulted (s : State) (h : Nat) : State := { s with faulted := s.faulted.filter fun f => f.handle != h }

/-- A command queued again from its walk index (R244). -/
def State.requeue (s : State) (f : FaultedCmd) : State :=
  let s := s.dropFaulted f.handle
  { s with cmds := s.cmds ++ [{ f.cmd with state := .queued, id := s.nextId }], nextId := s.nextId + 1 }

/-- Zero written over a byte of a tenant; a byte of an absent partition is zero once the partition is restored (R191). -/
def State.zeroAt (s : State) (t va : Nat) : State :=
  match windowOf va, s.heldAt t va with
  | .spad k o, true =>
    { s with images := updWhere s.images (fun p => p.tenant == t && p.core == k) fun p =>
        { p with cells := p.cells.filter (·.1 != o), tags := p.tags.filter (· != o / 64) } }
  | _, _ =>
    match s.placesOf t va 1 needW with
    | .error _ => s
    | .ok ps => match s.writePlaces t va (ps.zip [0]) with
      | .ok s => s
      | .error _ => s

/-- Zero over the destination bytes an XCRYP has written, those below walk index n (R252). -/
def State.wipe (s : State) (c : Cmd) (n : Nat) : State :=
  (List.range n).foldl (fun s q => s.zeroAt c.tenant (elemAddr c.dst.img (decompose c.dst.img q))) s

/-- A faulted record abandoned: an XCRYP's plaintext whose tag has not been compared is overwritten with zero first, where its stop was a
resumable one; after any other the stop itself has written the zeros (R244, R252). -/
def State.abandon (s : State) (f : FaultedCmd) : State :=
  (if f.cmd.op == .cryp && !f.cmd.tagOk && f.resumable then s.wipe f.cmd f.cmd.walk else s).dropFaulted f.handle

/-- XRESUME (R244): with INVOKE the command is queued again, subject to R239; without it the record is freed. -/
def execXresume (b : CReg) (s : State) : Out :=
  s.run (.xresume b) fun s => do
    let t := s.strand
    let c ← checkHeld (t.getC b) t.comp (opC b)
    need (cOty c == 0xFFF0) cSealed (capDetail (opC b))
    match s.faultedOf (cBase c % 2 ^ 32) with
    | none => raise cTag (capDetail opMem)
    | some f =>
      need (f.live && f.cmd.tenant == s.ten) cTag (capDetail opMem)
      if grants c pInvoke then
        if s.cmdRoom f.cmd.engine s.ten then .ok (s.requeue f).adv else s.endSlot f.cmd.engine
      else .ok (s.abandon f).adv

end Sys2Proof.Machine
end

