-- ==== Sys2Proof/Machine/EngineTurn.lean ====
section
/-! DEFINITION. The turns of transfer engines and binderies: the walk of a command's elements, its counter adds, its
completion and its stops (07 R240 to R257, 13 R424, R425). -/

namespace Sys2Proof.Machine

/-! ### Accesses of an engine -/

/-- What keeps an element from being moved: a cause that stops the command, a page request, or an absent partition. -/
inductive EngStop where
  | stop (cause : BitVec 8) (detail : BitVec 56) | page (s : State) (group va : Nat) | held (va : Nat)

/-- An engine's access. -/
abbrev Eng := Except EngStop

/-- The outcome of a check as an engine's stop. -/
def ofRaises {α : Type} (r : Raises α) : Eng α :=
  match r with
  | .ok a => .ok a
  | .error f => .error (.stop f.cause f.detail)

/-- The translation of an address for an access of a unit (R206): the access is held where no walker is free. -/
def State.engXlate (s : State) (u : Option Nat) (t va accVa : Nat) : Eng Unit :=
  match s.xlate u t va with
  | .ok => .ok ()
  | .busy => .error (.held va)
  | .fails cause => .error (.stop cause (vaDetail accVa))

/-- The places of an access of a unit for a tenant, before any host translation: held at an absent partition, while no walker is free,
and at host memory while the function's requests are held (R191, R205, R206, R452). -/
def State.engFind (s : State) (u : Option Nat) (t va n : Nat) (need : Need) : Eng (List Place) :=
  match s.heldIn t va n with
  | some a => .error (.held a)
  | none => do
    s.engXlate u t va va
    s.engXlate u t (lastVa va n) va
    let ps ← ofRaises (s.placesOf t va n need)
    if s.parkedAt t ps then .error (.held va) else .ok ps

/-- The outcome of the host translations of an access at its places, the TLBs of its unit then holding what it used. -/
def engReached (u : Option Nat) (t va n : Nat) (ps : List Place) (r : HostReach) : Eng (State × List Place) :=
  match r with
  | .ok s => .ok ((s.xlated u t va).xlated u t (lastVa va n), ps)
  | .page s g => .error (.page s g va)
  | .refused cause => .error (.stop cause (vaDetail va))
  | .halted => .error (.held va)

/-- The places of an access of a unit for a tenant (R191, R205, R206, R211). -/
def State.engPlaces (s : State) (u : Option Nat) (t va n : Nat) (need : Need) : Eng (State × List Place) := do
  let ps ← s.engFind u t va n need
  engReached u t va n ps (s.reachAll t need ps)

/-- The places of an element that XFLUSH or XINVAL walks: nothing is read there (07 Table 8). -/
def State.flushPlaces (s : State) (u : Option Nat) (t va n : Nat) (need : Need) : Eng (State × List Place) := do
  let ps ← s.engFind u t va n need
  engReached u t va n ps (s.atsAll t need ps)

/-- Bytes read by an engine. -/
def State.engRead (s : State) (u : Option Nat) (t va n : Nat) : Eng (State × List Byte) := do
  let (s, ps) ← s.engPlaces u t va n needR
  ofRaises (s.readPlaces t va ps)

/-- Bytes read by a command of an engine, which may see late what no order has carried to it (R304, R306). -/
def State.cmdRead (s : State) (unit t va n : Nat) : Eng (State × List Byte) := do
  let (s, ps) ← s.engPlaces (some unit) t va n needR
  let (s, bs) ← ofRaises (s.readPlaces t va ps)
  .ok (s, (ps.zip bs).map fun x => s.byteFor unit t x.1 x.2)

/-- Bytes written by an engine, tags cleared (R120). -/
def State.engWrite (s : State) (u : Option Nat) (t va : Nat) (bs : List Byte) : Eng State := do
  let (s, ps) ← s.engPlaces u t va bs.length needW
  let s ← ofRaises (s.writePlaces t va (ps.zip bs))
  .ok (match u with | some u => s.seenBy u ps | none => s)

/-! ### Elements (R240, R242, R247 to R250) -/

/-- Whole groups along axis 0. -/
def groupsOf (c : Vec) : Nat := cExt c 0 / 32

/-- The elements, or groups, of a walk. -/
def walkCount (c : Vec) : Nat :=
  if isGroup (cFmt c) then groupsOf c * cExt c 1 * cExt c 2 * cExt c 3 else cCount c

/-- The indices at a walk index; of a group, those of its first element. -/
def walkIdx (c : Vec) (q : Nat) : Idx :=
  if isGroup (cFmt c) then
    (32 * (q % groupsOf c), q / groupsOf c % cExt c 1, q / (groupsOf c * cExt c 1) % cExt c 2,
      q / (groupsOf c * cExt c 1 * cExt c 2) % cExt c 3)
  else decompose c q

/-- The number of a step of a walk: a group is identified by its first element (R240). -/
def walkNo (c : Vec) (q : Nat) : Nat := if isGroup (cFmt c) then 32 * q else q

/-- The bytes of one step of a walk. -/
def walkBytes (c : Vec) : Nat := if isGroup (cFmt c) then groupBytes (cFmt c) else sizeOf (cFmt c)

/-- The pad value as bytes of the destination format (07 Table 7). -/
def padBytes (f : Nat) (v : BitVec 16) : List Byte :=
  let n := v.toNat
  if f = fInt32 then natBytes 4 (wrapInt 32 v.toInt)
  else if f = fInt64 then natBytes 8 (wrapInt 64 v.toInt)
  else if f = 8 then natBytes 4 (n * 65536)
  else if f = 12 then natBytes 12 (packElems 3 (List.replicate 32 n))
  else if isGroup f then natBytes 16 (packElems 4 (List.replicate 32 n))
  else if f = fCap then natBytes 64 0
  else natBytes (sizeOf f) n

/-- Pad mode is in effect (R242). -/
def pads (c : Vec) : Bool := cPadMode c == 1 && grants c pPadok

/-- The image of a CAP element keeps its tag on the move (R247). -/
def State.keepsTag (s : State) (t : Nat) (src dst img : Vec) (tag : Bool) : Bool :=
  tag && grants src pLdc && grants dst pStc && !s.revoked t img && (cScp img != 0 || grants dst pStlocal)

/-- One element written from a source element, or from the pad value where the source index lies outside its shape
(R242, R247); `i` indexes the source and `j` the destination. A CAP element that is no whole granule moves as data: DESIGN
CHOICE (R201; log 66). -/
def State.moveElem (s : State) (c : Cmd) (i : Option Idx) (j : Idx) : Eng State := do
  let src := c.src.img
  let dst := c.dst.img
  let va := elemAddr dst j
  match i.filter (inShape src) with
  | none =>
    if pads src then s.engWrite (some c.engine) c.tenant va (padBytes (cFmt dst) (cPadVal src))
    else .error (.stop cCopyBounds (BitVec.ofNat 56 (walkNo dst c.walk)))
  | some i =>
    let from' := elemAddr src i
    if cFmt dst = fCap ∧ from' % 64 = 0 ∧ va % 64 = 0 then do
      let (s, ps) ← s.engPlaces (some c.engine) c.tenant from' 64 needR
      let p := ps.headD { flat := 0, home := .host }
      let (s, img, tag) ← ofRaises (s.readGranule c.tenant from' p)
      if s.checkFails c.tenant (tag && grants src pLdc && grants dst pStc) img then .error (.stop cIntegrity (vaDetail from'))
      let (s, qs) ← s.engPlaces (some c.engine) c.tenant va 64 needW
      let q := qs.headD { flat := 0, home := .host }
      ofRaises (s.writeGranule c.tenant va q img (s.keepsTag c.tenant src dst img tag))
    else do
      let (s, bs) ← s.cmdRead c.engine c.tenant from' (walkBytes dst)
      s.engWrite (some c.engine) c.tenant va bs

/-- Index j of an index tensor, signed (R248). -/
def State.indexAt (s : State) (c : Cmd) (j : Nat) : Eng (State × Int) := do
  let (s, bs) ← s.cmdRead c.engine c.tenant (elemAddr c.idx.img (j, 0, 0, 0)) 4
  .ok (s, sextNat 32 (bytesNat bs))

/-- Index k of the indices. -/
def idxGet (i : Idx) (k : Nat) : Nat := if k = 0 then i.1 else if k = 1 then i.2.1 else if k = 2 then i.2.2.1 else i.2.2.2
/-- The indices with index k replaced. -/
def idxSet (i : Idx) (k v : Nat) : Idx :=
  if k = 0 then (v, i.2) else if k = 1 then (i.1, v, i.2.2) else if k = 2 then (i.1, i.2.1, v, i.2.2.2)
  else (i.1, i.2.1, i.2.2.1, v)

/-- The element that XRED writes (R99, R250). -/
def redElem (op : RedOp) (f a b : Nat) : Nat :=
  match ffmt f with
  | some ff =>
    match op with
    | .add => (writeFp ff .rne false (addVal .rne (decodeFp ff a) (decodeFp ff b)).1).1
    | .max => selectFp ff true a b
    | .min => selectFp ff false a b
  | none =>
    let w := 8 * sizeOf f
    let less : Bool := if f = 5 then decide (a < b) else decide (sextNat w a < sextNat w b)
    match op with
    | .add => (a + b) % 2 ^ w
    | .max => if less then b else a
    | .min => if less then a else b

/-- The source indices of an element of cd under a mapping (R254 step 4). -/
def bindIdx (src : Vec) (w : Word) (j : Idx) : Idx :=
  let parts := ((bindRuns src w).zipIdx).flatMap fun x =>
    (x.1.foldl (fun (acc : Nat × List (Nat × Nat)) a =>
      (acc.1 / a.2.2, acc.2 ++ [(a.1, acc.1 % a.2.2 * a.2.1)])) (idxGet j x.2, [])).2
  let sum (k : Nat) : Nat := (parts.filter fun p => p.1 == k).foldl (fun n p => n + p.2) 0
  (sum 0, sum 1, sum 2, sum 3)

/-- The L2 line that holds a byte, written back if it is dirty; XINVAL discards it, but for a clean line outside the host
window (R255). -/
def State.flushByte (s : State) (t : Nat) (p : Place) (inval : Bool) : State :=
  match p.home.sliceNo with
  | none => s
  | some k =>
    match s.l2Find k p.flat t with
    | none => s
    | some l =>
      let s := s.writeBack l
      if inval && (isHostPlace p.flat || l.dirty) then { s with l2 := s.l2.filter (· != l) }
      else { s with l2 := updWhere s.l2 (· == l) fun l => { l with dirty := false } }

/-- The key-and-nonce block's fields (07 Table 10). -/
def keyBytes (b : Vec) : List Byte := (natBytes 64 b.toNat).take 32
/-- The IV. -/
def ivBytes (b : Vec) : List Byte := ((natBytes 64 b.toNat).drop 32).take 12
/-- AADLEN. -/
def aadLen (b : Vec) : Nat := (b.extractLsb' 352 32).toNat
/-- TAG. -/
def tagBytes (b : Vec) : List Byte := (natBytes 64 b.toNat).drop 48

/-- Elements read one by one. -/
def State.engReadEach (s : State) (u : Nat) (t : Nat) (vas : List Nat) : Eng (State × List Byte) :=
  vas.foldlM (fun acc va => do
    let (s, bs) ← acc.1.cmdRead u t va 1
    .ok (s, acc.2 ++ bs)) (s, [])

/-- The start of a command (R245): of an XCRYP, its key block is read and kept, and its lengths are checked (R251). -/
def State.startCmd (s : State) (c : Cmd) : Eng (State × Cmd) :=
  if c.op = .cryp then do
    let (s, kb) ← s.engReadEach c.engine c.tenant ((List.range 64).map fun i => elemAddr c.idx.img (i, 0, 0, 0))
    let b : Vec := BitVec.ofNat 512 (bytesNat kb)
    let n := cCount c.dst.img
    let len := cExt c.src.img 0
    if len < aadLen b ∨ n ≠ len - aadLen b ∨ 2 ^ 36 - 32 < n then .error (.stop cFormat (capDetail opMem))
    else .ok (s, { c with key := some b, started := true })
  else .ok (s, { c with started := true })

/-- The additional data of an XCRYP, read before its first byte (R252). -/
def State.readAad (s : State) (c : Cmd) (n : Nat) : Eng (State × Cmd) :=
  if n ≤ c.cipher.length then .ok (s, c)
  else do
    let (s, aad) ← s.engReadEach c.engine c.tenant ((List.range n).map fun i => elemAddr c.src.img (i, 0, 0, 0))
    .ok (s, { c with cipher := aad })

/-- The command's next element moved (R240). An XFLUSH element needs R and an XINVAL element W of its page: DESIGN CHOICE (log
67). -/
def State.stepElem (s : State) (c : Cmd) : Eng (State × Cmd) :=
  let dst := c.dst.img
  let src := c.src.img
  let same (r : Eng State) : Eng (State × Cmd) := r.map fun s => (s, c)
  match c.op with
  | .copy => same (s.moveElem c (some (walkIdx dst c.walk)) (walkIdx dst c.walk))
  | .gath => same do
    let j := walkIdx dst c.walk
    let t := cRankm1 dst
    let (s, k) ← s.indexAt c (idxGet j t)
    s.moveElem c (if 0 ≤ k then some (idxSet j t k.toNat) else none) j
  | .scat => same do
    let i := walkIdx src c.walk
    let t := cRankm1 src
    let (s, k) ← s.indexAt c (idxGet i t)
    let j := idxSet i t k.toNat
    if k < 0 ∨ !inShape dst j then .error (.stop cCopyBounds (BitVec.ofNat 56 (walkNo src c.walk)))
    else s.moveElem c (some i) j
  | .fill => same (s.engWrite (some c.engine) c.tenant (elemAddr dst (walkIdx dst c.walk)) (natBytes (sizeOf (cFmt dst)) c.val.toNat))
  | .red op => same do
    let j := walkIdx dst c.walk
    let n := sizeOf (cFmt dst)
    let (s, b) ← if inShape src j then s.cmdRead c.engine c.tenant (elemAddr src j) n
      else if pads src then .ok (s, padBytes (cFmt dst) (cPadVal src))
      else .error (.stop cCopyBounds (BitVec.ofNat 56 (walkNo dst c.walk)))
    let (s, ps) ← s.engPlaces (some c.engine) c.tenant (elemAddr dst j) n needRW
    let (s, a) ← ofRaises (s.readPlaces c.tenant (elemAddr dst j) ps)
    ofRaises (s.writePlaces c.tenant (elemAddr dst j) (ps.zip (natBytes n (redElem op (cFmt dst) (bytesNat a) (bytesNat b)))))
  | .cryp => do
    let b := c.key.getD 0
    let (s, c) ← s.readAad c (aadLen b)
    let (s, x) ← s.cmdRead c.engine c.tenant (elemAddr src (aadLen b + c.walk, 0, 0, 0)) 1
    let s ← s.engWrite (some c.engine) c.tenant (elemAddr dst (walkIdx dst c.walk)) (xorBytes x [gcmStream (keyBytes b) (ivBytes b) c.walk])
    .ok (s, { c with cipher := c.cipher ++ x })
  | .bind =>
    let j := walkIdx dst c.walk
    same (s.moveElem c (some (bindIdx src c.val j)) j)
  | .flush => same do
    let va := elemAddr dst (walkIdx dst c.walk)
    let (s, ps) ← s.flushPlaces (some c.engine) c.tenant va (walkBytes dst) needR
    .ok (ps.foldl (fun s p => s.flushByte c.tenant p false) s)
  | .inval => same do
    let va := elemAddr dst (walkIdx dst c.walk)
    let (s, ps) ← s.flushPlaces (some c.engine) c.tenant va (walkBytes dst) needW
    .ok (ps.foldl (fun s p => s.flushByte c.tenant p true) s)

/-- The capability whose elements a command walks (R240). -/
def Cmd.walked (c : Cmd) : Vec := match c.op with | .scat => c.src.img | _ => c.dst.img

/-- The steps of a command's walk. -/
def Cmd.total (c : Cmd) : Nat := walkCount c.walked

/-- The walk index that a command reports (R240, R243). -/
def Cmd.index (c : Cmd) : Nat := walkNo c.walked c.walk

/-! ### Records, adds and stops (R239, R241, R243) -/

/-- The state with a command replaced. -/
def State.setCmd (s : State) (c : Cmd) : State := { s with cmds := updWhere s.cmds (fun o => o.id == c.id) fun _ => c }

/-- A command record freed: the oldest held SLOT bookmark of that engine whose tenant then has room is released (R239). -/
def State.freeCmd (s : State) (c : Cmd) : State :=
  let s := { s with cmds := s.cmds.filter fun o => o.id != c.id }
  match s.bms.find? fun h => h.holder == .slot c.engine && s.cmdRoom c.engine h.bm.tenant with
  | some h => s.release h.id false
  | none => s

/-- A sealed capability of a faulted record (R243). -/
def recordCap (handle : Nat) (comp : BitVec 16) (perm : BitVec 16) : CapReg := held (mkCap fByte handle 1 perm 0xFFF0 comp 1)

/-- The causes after which a command may be resumed (07 Table 8); a refused add is never resumable. -/
def resumableCause (cause : BitVec 8) : Bool :=
  cause == cCopyBounds || cause == cMiss || cause == cXperm || cause == cPri || cause == cIntegrity || cause == cHostAbort

/-- A stopped command's record, and its delivery (R243, R424, R425). `posted` are the bytes posted. -/
def State.faultCmd (s : State) (c : Cmd) (cause : BitVec 8) (detail : BitVec 56) (resumable : Bool) (posted : Nat) : State :=
  let handle := s.newHandle
  let s := (({ s with nextHandle := handle + 1 }).noteConsumed c.tenant c.lcore cause detail).freeCmd c
  let start : FaultStart :=
    { x10 := w64 c.index, x11 := w64 posted, x12 := w64 c.lcore, x13 := 1, faultinfo := mkFaultinfo cause detail
      c1 := if resumable then recordCap handle c.comp pInvoke else nullCap, c2 := recordCap handle c.comp 0 }
  let f (escalated : Bool) : FaultedCmd :=
    { handle, cmd := { c with applied := posted }, cause, detail, resumable, live := true, escalated }
  let full := 64 ≤ (s.faulted.filter fun f => f.cmd.tenant == c.tenant).length
  let ch := if !full && decide (s.pendingOf c.tenant c.comp ≤ 16) then s.faultChannel c.tenant c.comp c.lcore else none
  match ch.bind fun x => s.placeFaultTask c.tenant x.1 x.2.1 x.2.2 start with
  | some s => { s with faulted := s.faulted ++ [f false] }
  | none => ({ s with faulted := s.faulted ++ [f true] }).escalate c.tenant c.comp handle

/-- The cluster of an engine; a bindery counts as an agent of one of its quadrant's (R499). -/
def engineCluster (e : Nat) : Nat := if e < 128 then e else (quadClusters (e - 128)).headD 0

/-- An add of a command at its counter's home (R241): the state once it is on its way, or CTR_HOME where the counter can
no longer be reached. -/
def State.sendAdd (s : State) (c : Cmd) (amount bytes : Nat) : Option State :=
  let va := cBase c.ctr.img
  match s.placeOf c.tenant va needRW true va with
  | .error _ => none
  | .ok p =>
    let op : CtrOp :=
      { id := s.nextId, place := p.flat, va, kind := .add (w64 amount), tenant := c.tenant, gen := c.gen
        origin := .engine c.id bytes, due := s.homeDue (engineCluster c.engine) 0 p.home }
    some { s with counterOps := s.counterOps ++ [op], nextId := s.nextId + 1 }

/-- Adds of a command that are not answered yet. -/
def State.addsOut (s : State) (id : Nat) : Bool :=
  let mine (o : CtrOrigin) : Bool := match o with | .engine i _ => i == id | _ => false
  s.counterOps.any (fun o => mine o.origin) || s.hostOps.any (fun o => mine o.origin) ||
    s.ports.any fun p => p.2.pending.any fun o => mine o.origin

/-- A command stops once its adds are answered: what has been applied until then is what its record reports (R241, R243). -/
def State.stopAt (s : State) (c : Cmd) (cause : BitVec 8) (detail : BitVec 56) (resumable : Bool) : State :=
  if s.addsOut c.id then s.setCmd { c with state := .stopping cause detail resumable }
  else s.faultCmd c cause detail resumable c.applied

/-- A command stopped by a refused add: what the add counted, and anything after it, is never counted, and the command cannot be
resumed (R241, R252). -/
def State.stopRefused (s : State) (c : Cmd) (cause : BitVec 8) : State :=
  s.stopAt c cause (if cause = cWrap then BitVec.ofNat 56 c.index else vaDetail (cBase c.ctr.img)) false

/-- A command stopped at its walk index: in .b mode the remainder is added, so that the counter holds exactly the bytes
written (R241); an XCRYP makes no add and, when it cannot be resumed, is overwritten with zero (R252). -/
def State.stopCmd (s : State) (c : Cmd) (cause : BitVec 8) (detail : BitVec 56) : State :=
  let resumable := resumableCause cause
  if c.op = .cryp then (if resumable || c.tagOk then s else s.wipe c c.walk).stopAt c cause detail resumable
  else if c.perCmd || c.written == c.covered then s.stopAt c cause detail resumable
  else
    let c' := { c with covered := c.written }
    match s.sendAdd c (c.written - c.covered) (c.written - c.covered) with
    | none => s.stopRefused c cHome
    | some s => s.stopAt c' cause detail resumable

/-- The walk is complete: the final add is sent, an XCRYP's once its tag has matched (R241, R252). The record is freed
when its adds are answered (log 15). -/
def State.completeCmd (s : State) (c : Cmd) : State :=
  let finish (amount bytes : Nat) : State :=
    let c := { c with state := .finishing, covered := c.covered + bytes, tagOk := c.op == .cryp }
    match (s.setCmd c).sendAdd c amount bytes with
    | some s => s
    | none => s.stopRefused c cHome
  if c.op = .cryp then
    let b := c.key.getD 0
    let n := aadLen b
    if gcmTag (keyBytes b) (ivBytes b) (c.cipher.take n) (c.cipher.drop n) = tagBytes b then
      finish (if c.perCmd then 1 else c.written) c.written
    else (s.wipe c c.walk).faultCmd c cGcm (BitVec.ofNat 56 c.index) false 0
  else if c.perCmd then finish 1 c.written
  else if c.written ≠ c.covered then finish (c.written - c.covered) (c.written - c.covered)
  else if s.addsOut c.id then s.setCmd { c with state := .finishing }
  else s.freeCmd c

/-- A command kept from its next element: it stops, is parked for a page, or is held at an absent partition (R191, R211, R243). -/
def State.keptBy (s : State) (c : Cmd) : EngStop → State
  | .stop cause detail => s.stopCmd c cause (if cause = cFormat then capDetail opMem 0 (BitVec.ofNat 48 c.index) else detail)
  | .page s g va => s.setCmd { c with state := .parked g va }
  | .held va => s.setCmd { c with state := .held va }

/-- A command served within a turn: elements until the bytes open to it are used, the walk is complete, or something keeps
it (R240, R246). The bytes moved are counted in `moved`. -/
def State.serve (s : State) (budget : Nat) (c : Cmd) (moved : Nat) : Nat → State × Nat
  | 0 => (s.setCmd c, moved)
  | fuel + 1 =>
    let n := walkBytes c.walked
    if c.total ≤ c.walk then (s.completeCmd c, moved)
    else if budget < moved + n then (s.setCmd c, moved)
    else match s.stepElem c with
      | .error e => (s.keptBy c e, moved)
      | .ok (s, c) =>
        let c := { c with walk := c.walk + 1, written := c.written + n }
        if !c.perCmd && c.op != .cryp && decide (4096 ≤ c.written - c.covered) then
          let bytes := c.written - c.covered
          match s.sendAdd c bytes bytes with
          | some s => s.serve budget { c with covered := c.written } (moved + n) fuel
          | none => (s.stopRefused c cHome, moved + n)
        else s.serve budget c (moved + n) fuel

/-- A command with a turn: it starts, and is served (R245, R246). -/
def State.runCmd (s : State) (budget : Nat) (c : Cmd) : State × Nat :=
  let c := { c with state := .queued }
  if c.started then s.serve budget c 0 4097
  else match s.startCmd c with
    | .ok (s, c) => s.serve budget c 0 4097
    | .error e => (s.keptBy c e, 0)

/-! ### Turns (R246) -/

/-- Engine e. -/
def State.xfr (s : State) (e : Nat) : XferEngine := Table.get s.xfer e {}

/-- The commands of one strand at one engine start in the order of their issue (R245). -/
def State.mayStart (s : State) (c : Cmd) : Bool :=
  c.started || !((s.cmds.takeWhile fun o => o.id != c.id).any fun o => o.engine == c.engine && o.sid == c.sid && !o.started)

/-- Whether a command can proceed: not parked, not waiting for its adds, and no longer held at an absent partition (R191,
R246). -/
def State.canProceed (s : State) (c : Cmd) : Bool :=
  (match c.state with
    | .queued => true
    | .held va => !s.blockedAt c.tenant va
    | .parked _ _ => false
    | .finishing => false
    | .stopping _ _ _ => false) && s.mayStart c

/-- The tenant whose turn is next: largest deficit, ties to one that did not have the last turn, then the lower. -/
def XferEngine.nextTenant (x : XferEngine) (ts : List Nat) : Option Nat :=
  ts.foldl (fun best t => match best with
    | none => some t
    | some b =>
      let dt := Table.get x.deficit t 0
      let db := Table.get x.deficit b 0
      if db < dt || (dt == db && ((b == x.last && t != x.last) || ((t == x.last) == (b == x.last) && decide (t < b)))) then
        some t
      else some b) none

/-- The command that has the turn of an engine, with the bytes open to it: the one whose turn has begun, else the oldest of the next
tenant's that can proceed, with 4,096 (R246). -/
def State.turnCmd (s : State) (engine : Nat) : Option (Cmd × Nat) :=
  let x := s.xfr engine
  let cs := s.cmds.filter fun c => c.engine == engine && s.canProceed c
  match cs.find? fun c => c.id == x.cmd && decide (0 < x.left) with
  | some c => some (c, x.left)
  | none => (x.nextTenant (cs.map (·.tenant))).bind fun t => (cs.find? fun c => c.tenant == t).map fun c => (c, 4096)

/-- The turn of an engine, up to a number of bytes: what is left of it is that command's still. -/
def State.takeTurn (s : State) (engine bytes : Nat) : State :=
  match s.turnCmd engine with
  | none => s
  | some (c, rest) =>
    let (s, moved) := s.runCmd (min bytes rest) c
    { s with xfer := Table.upd s.xfer engine {} fun x =>
      { last := c.tenant, left := if bytes < rest then rest - moved else 0, cmd := c.id
        deficit := Table.upd x.deficit c.tenant 0 fun d => clampInt 2097152 (d - moved) } }

/-- ENGINE_TURN: a turn of up to 4,096 bytes of one tenant's oldest command that can proceed, or the rest of one that has begun
(R246). -/
def execEngineTurn (engine : Nat) (s : State) : Out := .next (s.takeTurn engine 4096)

/-- ENGINE_DEFICIT_RAISE (R246, R503). -/
def execEngineDeficitRaise (s : State) : Out :=
  s.event (s.cycle % 8192 == 0 && !s.raised.getLsbD 1) fun s =>
    let listed : Table XferEngine := s.cmds.foldl (fun x c => Table.upd x c.engine {} fun e => e) s.xfer
    { s with raised := putBit s.raised 1 true, xfer := listed.map fun x =>
        (x.1, { x.2 with deficit := s.tenants.foldl (fun d t =>
          Table.upd d t.1 0 fun v =>
            let v := clampInt 2097152 (v + 16 * t.2.xferw.toNat * 256)
            if 0 < v ∧ !(s.cmds.any fun c => c.engine == x.1 && c.tenant == t.1) then 0 else v) x.2.deficit }) }

end Sys2Proof.Machine
end

