-- ==== Sys2Proof/Machine/Answers.lean ====
section
/-! DEFINITION. What follows when a counter operation has been applied or refused at its home, by who made it, and a link
that goes down (07 R241, 08 R276 to R289, 13 R438, 14 R458, R459). -/

namespace Sys2Proof.Machine

/-- A request to host memory as the operation it serves. -/
def HostOp.toCtr (h : HostOp) (kind : CtrKind) : CtrOp :=
  { id := h.id, place := h.place, va := h.va, kind, tenant := h.tenant, gen := h.gen, origin := h.origin }

/-- An operation sent to a peer as the operation it is. -/
def PeerOp.toCtr (p : PeerOp) : CtrOp :=
  { id := p.id, place := p.place, va := p.va, kind := p.kind, tenant := p.tenant, gen := p.gen, origin := p.origin }

/-- The posted-store entry whose request has the number leaves its queue (R217). -/
def State.postedGone (s : State) (k id : Nat) : State :=
  s.updCore k fun c => { c with posted := c.posted.filter fun e => e.sent != some id }

/-- The posted-store entry whose request has the number has failed (R218). -/
def State.postedFailed (s : State) (k id : Nat) (cause : BitVec 8) : State :=
  match (s.core k).posted.find? fun e => e.sent == some id with
  | some e => (s.postedGone k id).updCore k fun c => { c with failed := c.failed ++ [(e.no, cause, e.va)] }
  | none => s

/-- A command's add has been counted: once no add is out, the record of a complete walk is freed, and a command that stops has
stopped (R241, R243; log 15). -/
def State.addCounted (s : State) (id bytes : Nat) : State :=
  match s.cmds.find? fun c => c.id == id with
  | some c =>
    let c := { c with applied := c.applied + bytes }
    let s := s.setCmd c
    if s.addsOut id then s
    else match c.state with
      | .finishing => s.freeCmd c
      | .stopping cause detail resumable => s.faultCmd c cause detail resumable c.applied
      | _ => s
  | none => s

/-- A CANS answer of a tenant on a port: the number of the operation, what became of it, and a value (R459). -/
def State.answerPeer (s : State) (port t id : Nat) (code : Nat) (v : Word) : State := s.sendCans port t [w64 id, w64 code, v]

/-- An operation has been refused: its command stops, its drain point will raise the cause, its waiter becomes a fault
bookmark with its pc at the KWAIT, or its sender is told; a sweep's add is lost (R241, R275, R278, R417, R459). The record of a command
whose last add is refused while it stops bears the refusal's cause, where it stopped for CAP_REVOKED too: R257 and R241 do not
say, DESIGN CHOICE (log 94). -/
def State.opRefused (s : State) (op : CtrOp) (cause : BitVec 8) : State :=
  match op.origin with
  | .engine cmd _ =>
    match s.cmds.find? fun c => c.id == cmd with
    | some c => s.stopRefused c cause
    | none => s
  | .posted core => s.postedFailed core op.id cause
  | .remote port id =>
    match op.kind with
    | .write off _ => s.logAt 0x08 (portDie port) (BitVec.ofNat 16 port) none (off.setWidth 64) 0
    | _ => s.answerPeer port op.tenant id (if cause = cWrap then 1 else 2) 0
  | .aperture _ => { s with answer := .aborted }
  | .sweep => s
  | .strand =>
    match op.kind with
    | .wait _ bm =>
      match s.heldOf bm with
      | some h => s.faultHeld bm cause (vaDetail op.va) (h.bm.strand.pc - 4)
      | none => s
    | _ => s

/-! ### A link goes down (R289, R458) -/

/-- The state without a pending operation of a port. -/
def State.dropPeerOp (s : State) (port id : Nat) : State :=
  s.updPort port fun p => { p with pending := p.pending.filter fun o => o.id != id }

/-- An unanswered flit refused: a KREAD becomes a fault bookmark with its pc at the instruction, every other operation is told
(R278, R289, R438). -/
def State.peerRefused (s : State) (port : Nat) (o : PeerOp) (cause : BitVec 8) : State :=
  let s := s.dropPeerOp port o.id
  if o.watch then s
  else match o.read, o.origin with
    | some bm, .strand =>
      match s.heldOf bm with
      | some h => s.faultHeld bm cause (vaDetail o.va) (h.bm.strand.pc - 4)
      | none => s
    | _, _ => s.opRefused o.toCtr cause

/-- The waiters that p selects become fault bookmarks with a cause and their pc at the KWAIT (R289, R438). -/
def State.faultWaiters (s : State) (p : Held → Nat → Bool) (cause : BitVec 8) : State :=
  s.bms.foldl (fun s h => match h.holder with
    | .counter cell va _ _ _ _ =>
      if p h cell then s.faultHeld h.id cause (vaDetail va) (h.bm.strand.pc - 4) else s
    | _ => s) s

/-- A cell of the counter region of a port. -/
def ofPort (port cell : Nat) : Bool := decide (peerFlat ≤ cell) && (cell - peerFlat) / 2 ^ 46 == port

/-- The 24-byte entry of an unanswered counter flit: FUNC, cell offset, operation and operand (R458). -/
def PeerOp.record (o : PeerOp) : BitVec 192 :=
  let (code, arg) : Nat × Word := match o.kind with
    | .add a => if o.read.isSome then (2, 0) else (0, a)
    | .max c => (1, c)
    | .wait thr _ => (3, thr)
    | .read => (2, 0)
    | .watch thr _ _ => (3, thr)
    | .write _ _ => (0, 0)
    | .abort _ => (0, 0)
  BitVec.ofNat 64 arg.toNat ++ BitVec.ofNat 64 o.off ++ BitVec.ofNat 32 code ++ BitVec.ofNat 32 o.tenant

/-- A link goes down with a cause: its record, with every counter flit that is unanswered (one whose answer is held has been answered), goes to the physical function's mailbox and to
the log, and what waits on it fails with CTR_HOME (R289, R458). -/
def State.takeDown (s : State) (port : Nat) (cause : BitVec 3) : State :=
  if !(s.port port).up then s
  else
    let flits := (s.port port).pending.filter fun o => o.answer.isNone
    let s := s.updPort port fun p =>
      { p with up := false, downCause := cause, retained := [], asm := none, skipping := false }
    let s := s.logAt 0x0C (portDie port) (BitVec.ofNat 16 port) none (cause.setWidth 64) (w64 flits.length)
    let s := s.post 0 0x05 (Config.linkRecord port cause (flits.map (·.record)))
    let s := { s with
      watches := s.watches.filter fun w => w.port != port
      fns := s.fns.map fun (f : Nat × Fn) => (f.1, { f.2 with cans := f.2.cans.filter fun c => c.1 != port }) }
    let s := flits.foldl (fun s o => s.peerRefused port o cHome) s
    s.faultWaiters (fun _ cell => ofPort port cell) cHome

/-- A cell lies in the counter area that a function of the peer exports (R459). -/
def inArea (port cell : Nat) (func : BitVec 10) : Bool :=
  ofPort port cell && Config.peerOwner port ((cell - peerFlat) % 2 ^ 46 / 2 ^ 40) == func

/-- A function's abort record takes effect: its watches here end, the local waiters and unanswered operations in its area fail with
TENANT_RESET, and the area is closed (R438). -/
def State.endArea (s : State) (port : Nat) (func : BitVec 10) : State :=
  let s := { s with watches := s.watches.filter fun w => !(w.port == port && w.func == func) }
  let s := s.faultWaiters (fun _ cell => inArea port cell func) cReset
  let s := (s.port port).pending.foldl (fun s o => if o.answer.isNone && inArea port o.place func then s.peerRefused port o cReset else s) s
  s.updPort port fun p => { p with closedAreas := dropWhere p.closedAreas (· == func) ++ [func] }

/-- An operation has been applied; `v` is the cell's value after it. -/
def State.opApplied (s : State) (op : CtrOp) (v : Word) : State :=
  match op.origin with
  | .engine cmd bytes => s.addCounted cmd bytes
  | .posted core => s.postedGone core op.id
  | .remote port id =>
    match op.kind with
    | .watch _ _ _ => s
    | .write _ _ => s
    | .abort func => s.endArea port func
    | _ => s.answerPeer port op.tenant id 0 v
  | .aperture _ =>
    match op.kind with
    | .add a => { s with answer := .data (natBytes 8 (v - a).toNat) }
    | .read => { s with answer := .data (natBytes 8 v.toNat) }
    | _ => s
  | .sweep => s
  | .strand => s

end Sys2Proof.Machine
end

