-- ==== Sys2Proof/Machine/Fetch.lean ====
section
/-! DEFINITION. Instruction fetch: the lookup in a core's instruction cache, the miss, and the fill of a line (02 R58 to
R64, R379 of 11). -/

namespace Sys2Proof.Machine

/-- The device virtual address of the word at an offset of pcc. -/
def fetchVa (t : Strand) : Nat := (cBase t.pcc.img + t.pc.toNat) % 2 ^ 56

/-- The line of an address, when the cache holds it for the tenant's current generation (R62). -/
def State.cached (s : State) (k t line : Nat) : Option ILine :=
  (s.core k).icache.find? fun l => l.tenant == t && l.gen == s.gen t && l.base == line

/-- The word at an address: a lookup of its line or lines, or the line that misses (R62, R63). A word that reaches into a
second line is whole: the word as it stood when that line was filled; where the tenant could not fetch its first bytes then, the
first line misses, to be read again (R64). -/
def State.codeWord (s : State) (k t va : Nat) : Except Nat Insn :=
  match s.cached k t (va / 64) with
  | none => .error (va / 64)
  | some l =>
    if va % 64 ≤ 60 then .ok (l.data.extractLsb' (8 * (va % 64)) 32)
    else
      match s.cached k t ((va + 3) / 64) with
      | none => .error ((va + 3) / 64)
      | some n =>
        match n.lead with
        | some lead => .ok ((n.data.extractLsb' 0 24 ++ lead : BitVec 48).extractLsb' (8 * (va % 64 - 61)) 32)
        | none => .error (va / 64)

/-- Whether the next instruction can be fetched through pcc (R58, R60, R61). -/
def checkPc (t : Strand) : Raises Unit := do
  need (!t.pcc.rev) cRevoked (capDetail opPcc 0 (t.pc.extractLsb' 0 48))
  checkFetch t.pcc t.pc

/-- What the fetch of core k's strand gives: a word, a miss, or the fault of R58. -/
inductive Fetched where
  | word (w : Insn) | miss (line : Nat) | raised (f : Trap)
  deriving DecidableEq, Repr

/-- The fetch of core k's strand at its pc. -/
def State.fetch (s : State) (k : Nat) : Fetched :=
  let t := (s.core k).strand
  match checkPc t with
  | .error f => .raised f
  | .ok _ =>
    match s.codeWord k t.tenant (fetchVa t) with
    | .ok w => .word w
    | .error line => .miss line

/-- A line lies, at least in part, within pcc (R62). -/
def lineInPcc (c : Vec) (line : Nat) : Bool :=
  decide (cBase c < (line + 1) * 64) && decide (line * 64 < cBase c + 4 * cExt c 0)

/-- The effects of a fetch that hit: the hold of the strand's line or lines is over, and the first fetch from a line asks for the
next one (R62, R63). -/
def State.noteFetch (s : State) (k : Nat) : State :=
  let c := s.core k
  let t := c.strand
  let line := fetchVa t / 64
  let last := (fetchVa t + 3) / 64
  let held := c.icache.map fun l =>
    if l.tenant == t.tenant && (l.base == line || l.base == last) then { l with held := l.held.filter (· != t.sid) } else l
  if c.lastLine = some line then s.setCore k { c with icache := held }
  else
    let ask := lineInPcc t.pcc.img (line + 1) && (s.cached k t.tenant (line + 1)).isNone &&
      !c.prefetches.contains (line + 1)
    s.setCore k { c with
      icache := held, lastLine := some line, prefetches := if ask then c.prefetches ++ [line + 1] else c.prefetches }

/-- INSTRUCTION_FETCH: the executing strand's fetch raises a fault of R58, R60 or R61, or misses and ends the strand with
wait kind FETCH (R63), inside an exchange phase with EXCH_PHASE (R379). A fetch that hits does no more. -/
def execInstructionFetch (s : State) : Out :=
  s.runAny fun s =>
    match s.fetch s.cur with
    | .word _ => .ok s
    | .raised f => .error f
    | .miss line =>
      s.endStrand .fetch true 0 0 (w64 (line * 64)) true false 0 fun s id => .ok (s.setHolder id (.fetch line))

/-- ILLEGAL_INSN_WORD: a word that decodes to no instruction raises ILLEGAL_INSN with the word (R36, R146). -/
def execIllegalInsnWord (w : Insn) (s : State) : Out :=
  s.runAny fun _ => raise cIllegal (w.setWidth 56)

/-! ### Fills (R62, R63) -/

/-- The lines of a core that are held (R63). -/
def Core.heldLines (c : Core) : Nat := (c.icache.filter fun l => !l.held.isEmpty).length

/-- A core's cache with a line added, in the place of its older copy where it has one; where it is full a line is given up that is neither held nor of an open phase
(R62, R63, R379; log 6). -/
def Core.putLine (c : Core) (choice : Nat) (l : ILine) : Core :=
  if c.icache.any fun o => o.tenant == l.tenant && o.gen == l.gen && o.base == l.base then
    { c with icache := updWhere c.icache (fun o => o.tenant == l.tenant && o.gen == l.gen && o.base == l.base) fun o =>
        { l with held := o.held, phase := o.phase } }
  else if c.icache.length < 512 then { c with icache := c.icache ++ [l] }
  else
    let free := c.icache.filter fun o => o.held.isEmpty && !o.phase
    match free[choice % free.length]? with
    | some v => { c with icache := (c.icache.filter fun o => o != v) ++ [l] }
    | none => c

/-- What the read of a line meets. -/
inductive LineRead where
  | ok (s : State) (data : Vec) | fault (cause : BitVec 8) | page (s : State) (group : Nat) | held

/-- A line of code read for a tenant through the TLBs of a unit (R63, R205, R206). -/
def State.readLine (s : State) (unit : Option Nat) (t line : Nat) : LineRead :=
  let va := line * 64
  if s.heldAt t va then .held
  else match s.xlate unit t va with
  | .busy => .held
  | .fails cause => .fault cause
  | .ok => match s.placesOf t va 64 needX with
    | .error f => .fault f.cause
    | .ok ps =>
      match s.reachAll t needX ps with
      | .refused cause => .fault cause
      | .halted => .held
      | .page s g => .page s g
      | .ok s =>
        match s.readPlaces t va ps with
        | .error f => .fault f.cause
        | .ok (s, bs) => .ok (s.xlated unit t va) (BitVec.ofNat 512 (bytesNat bs))

/-- The three bytes before a line, as they stand: none where the tenant cannot fetch them (R64). -/
def State.leadOf (s : State) (t line : Nat) : Option (BitVec 24) :=
  match s.placesOf t (line * 64 - 3) 3 needX with
  | .ok ps => some (BitVec.ofNat 24 (bytesNat (ps.map (s.peekByte t))))
  | .error _ => none

/-- A line written into a core's cache. -/
def State.fillCore (s : State) (k t line : Nat) (data : Vec) : State :=
  { s with fresh := s.fresh + 1 }.updCore k fun c =>
    c.putLine (Config.victim s.fresh) { tenant := t, gen := s.gen t, base := line, data, lead := s.leadOf t line }

/-- A bookmark of the fetch unit is released, its line held until its strand has fetched from it (R63). -/
def State.releaseFetch (s : State) (k t line : Nat) (h : Held) : State :=
  (s.updCore k fun c => { c with
    icache := updWhere c.icache (fun l => l.tenant == t && l.gen == s.gen t && l.base == line) fun l =>
      { l with held := l.held ++ [h.bm.strand.sid] } }).release h.id true

/-- The line after a filled one was itself filled while the tenant could not fetch the bytes before it: it is read afresh with them,
or leaves the cache where it can be read no longer and is not held, so that a word of both lines is whole (R63, R64). -/
def State.renewNext (s : State) (k t line : Nat) : State :=
  match s.cached k t (line + 1) with
  | none => s
  | some n =>
    if n.lead.isSome then s
    else match s.readLine none t (line + 1) with
      | .ok s data => s.fillCore k t (line + 1) data
      | _ => if n.held.isEmpty then s.updCore k fun c => { c with icache := dropWhere c.icache (· == n) } else s

/-- The line that a fetch unit's bookmark waits for, as it is cached: none where the word spans into a line whose lead is missing, so
that this one is read again (R64). -/
def State.haveLine (s : State) (k t line : Nat) (h : Held) : Option ILine :=
  let va := fetchVa h.bm.strand
  let torn := va / 64 == line && va % 64 > 60 && ((s.cached k t (line + 1)).any fun n => n.lead.isNone)
  if torn then none else s.cached k t line

/-- The bookmarks that core k's fetch unit holds for a line, oldest first. -/
def State.fetchers (s : State) (k line : Nat) : List Held :=
  s.bms.filter fun h => h.bm.lcore == k && h.holder == .fetch line

/-- A bookmark of the fetch unit whose line is filled: released, or, where its word reaches into a held line that can be read no longer,
ended as that read ends (R63, R64). -/
def State.endFetch (s : State) (k t line : Nat) (h : Held) : State :=
  if (s.haveLine k t line h).isSome then s.releaseFetch k t line h
  else match s.readLine (some (k / 8)) t (line + 1) with
    | .fault cause => s.faultHeld h.id cause (vaDetail ((line + 1) * 64)) h.bm.strand.pc
    | .page s g => s.toPage h.id ((line + 1) * 64) h.bm.strand.pc g
    | .ok _ _ => s
    | .held => s

/-- A bookmark of the fetch unit served: its line is cached or read now (R63). -/
def State.serveFetch (s : State) (k line : Nat) (h : Held) : State :=
  let t := h.bm.tenant
  let have? := s.haveLine k t line h
  let room := (have?.map fun l => !l.held.isEmpty).getD false || decide ((s.core k).heldLines < 4)
  if !room then s
  else match have? with
    | some _ => s.releaseFetch k t line h
    | none =>
      let va := fetchVa h.bm.strand
      let at? := if va / 64 = line then va else line * 64
      match s.readLine (some (k / 8)) t line with
      | .held => s
      | .fault cause => s.faultHeld h.id cause (vaDetail at?) h.bm.strand.pc
      | .page s g => s.toPage h.id at? h.bm.strand.pc g
      | .ok s data => ((s.fillCore k t line data).renewNext k t line).endFetch k t line h

/-- A line asked for ahead of use: it never faults (R62). -/
def State.servePrefetch (s : State) (k line : Nat) : State :=
  let s := s.updCore k fun c => { c with prefetches := c.prefetches.filter (· != line) }
  let t := (s.core k).strand.tenant
  if (s.cached k t line).isSome then s
  else match s.readLine (some (k / 8)) t line with
    | .ok s data => (s.fillCore k t line data).renewNext k t line
    | .fault _ => s
    | .page _ _ => s
    | .held => s

/-- FETCH_LINE_FILL: a line arrives at a core's instruction cache (R62, R63). -/
def execFetchLineFill (core line : Nat) (s : State) : Out :=
  match s.fetchers core line with
  | [] => s.event ((s.core core).prefetches.contains line) fun s => s.servePrefetch core line
  | hs => .next (hs.foldl (fun s h => s.serveFetch core line h) s)

end Sys2Proof.Machine
end

