-- ==== Sys2Proof/Machine/LoadStore.lean ====
section
/-! DEFINITION. Scalar, capability and vector loads and stores, and data atomics (07 R215 to R229). -/

namespace Sys2Proof.Machine

/-! ### Near and far (R215) -/

/-- How an access runs: near, far on the package, or far in the host window (07 Table 1). -/
inductive Reach where
  | near | far | host
  deriving DecidableEq, Repr

/-- How an access of n bytes of a core runs (R215). -/
def reachOf (k va n : Nat) : Reach :=
  let last := (va + (n - 1)) % 2 ^ 56
  if nearAddr k va && nearAddr k last then .near
  else if hostAddr va || hostAddr last then .host else .far

/-- The cluster TLB holds what an access of n bytes needs; other windows need none (R186, R217). -/
def State.held2 (s : State) (t va n : Nat) : Bool :=
  let last := (va + (n - 1)) % 2 ^ 56
  (!translated va || s.tlbHit (s.cur / 8) t va) && (!translated last || s.tlbHit (s.cur / 8) t last)

/-! ### Posting a store (R217) -/

/-- A store posted, with what the strand does once it is in the queue; a full queue makes it wait resident. -/
def State.postThen (s : State) (t va : Nat) (op : PostOp) (f : State → State) : Raises State :=
  let r := s.enqueue s.cur t va op
  if r.2 then .ok (f r.1) else .ok r.1.resident

/-- The bytes of a store, as (address, byte) pairs. -/
abbrev Bytes := List (Nat × Byte)

/-- The bytes of a value laid from an address on. -/
def bytesAt (va n v : Nat) : Bytes := (List.range n).zip (natBytes n v) |>.map fun p => ((va + p.1) % 2 ^ 56, p.2)

/-- The places of the bytes of a store, in order: the first cause raised, with the address of its element, `size` bytes each, or of the
store where that is one element (R146, R225; log 25). -/
def State.storePlaces (s : State) (t va : Nat) (bs : Bytes) (size : Nat := 0) : Raises (List (Place × Byte)) :=
  bs.zipIdx.mapM fun b => do
    let p ← s.placeOf t b.1.1 needW false (if size = 0 then va else ((bs[b.2 / size * size]?).map (·.1)).getD va)
    .ok (p, b.1.2)

/-- A store of bytes: posted, or the strand waits for a translation, or for the host interface (07 Table 1). `s` is the
state in which the store would execute again, `done` the one in which it has completed. -/
def State.storeBytes (s done : State) (va : Nat) (bs : Bytes) (adv : State → State) (size : Nat := 0) :
    Raises State :=
  let t := s.ten
  let k := s.cur
  if bs.isEmpty then .ok (adv done)
  else if bs.any fun b => hostAddr b.1 then s.endFarFrom done va 0 0 0 (.store bs size)
  else match bs.find? fun b => translated b.1 && !s.tlbHit (k / 8) t b.1 with
    | some b => s.endXlate b.1
    | none => do
      let cells ← s.storePlaces t va bs size
      let r := s.enqueue k t va (.data cells) (bs.map (·.1))
      if r.2 then
        let r := done.enqueue k t va (.data cells) (bs.map (·.1))
        .ok (adv r.1)
      else .ok r.1.resident

/-! ### Scalar loads and stores (R222) -/

/-- The value a load gives: the bytes extended to 64 bits. -/
def extend (signed : Bool) (bs : List Byte) : Word :=
  let v := bytesNat bs
  if signed then BitVec.ofInt 64 (sextNat (8 * bs.length) v) else w64 v

/-- The capability of a scalar access, checked in the order that R222 writes: its permission before the formats that R222 refuses
(R123, R221). -/
def scalarCap (t : Strand) (a : CReg) (perm : BitVec 16) : Raises Vec := do
  let c ← checkUnsealed (t.getC a) t.comp (opC a)
  need (decide (cFmt c ≤ 16)) cFormat (capDetail (opC a))
  need (grants c perm) cPerm (capDetail (opC a))
  need (scalarForm c) cFormat (capDetail (opC a))
  .ok c

/-- A scalar load (R222). -/
def State.runLoad (s : State) (i : Instr) (size : Nat) (signed : Bool) (d : XReg) (a : CReg) (m : MemOpnd) : Out :=
  s.run i fun s => do
    let t := s.strand
    let c ← scalarCap t a pLd
    let va ← memAddr t c (opC a) size m
    match reachOf s.cur va size with
    | .near =>
      let ps ← s.placesOf s.ten va size needR
      s.atomsFirst s s.cur (ps.map (·.flat)) fun s => do
        let (s, bs) ← s.readOwn s.cur s.ten va ps
        .ok (s.setStrand (s.strand.setX d (extend signed bs)).next)
    | _ => s.endFar va 0 d.toNat 0 (.load size signed)

/-- A scalar store (R222). -/
def State.runStore (s : State) (i : Instr) (size : Nat) (r : XReg) (a : CReg) (m : MemOpnd) : Out :=
  s.run i fun s => do
    let t := s.strand
    let c ← scalarCap t a pSt
    let va ← memAddr t c (opC a) size m
    s.storeBytes s va (bytesAt va size (t.getX r).toNat) State.adv

/-- LB in offset mode. -/
def execLbOffset (d : XReg) (a : CReg) (imm : BitVec 12) (s : State) : Out :=
  s.runLoad (.lbOffset d a imm) 1 true d a (.off imm)
/-- LB in index mode. -/
def execLbIndex (d : XReg) (a : CReg) (x : XReg) (s : State) : Out := s.runLoad (.lbIndex d a x) 1 true d a (.idx x)
/-- LH in offset mode. -/
def execLhOffset (d : XReg) (a : CReg) (imm : BitVec 12) (s : State) : Out :=
  s.runLoad (.lhOffset d a imm) 2 true d a (.off imm)
/-- LH in index mode. -/
def execLhIndex (d : XReg) (a : CReg) (x : XReg) (s : State) : Out := s.runLoad (.lhIndex d a x) 2 true d a (.idx x)
/-- LW in offset mode. -/
def execLwOffset (d : XReg) (a : CReg) (imm : BitVec 12) (s : State) : Out :=
  s.runLoad (.lwOffset d a imm) 4 true d a (.off imm)
/-- LW in index mode. -/
def execLwIndex (d : XReg) (a : CReg) (x : XReg) (s : State) : Out := s.runLoad (.lwIndex d a x) 4 true d a (.idx x)
/-- LD in offset mode. -/
def execLdOffset (d : XReg) (a : CReg) (imm : BitVec 12) (s : State) : Out :=
  s.runLoad (.ldOffset d a imm) 8 true d a (.off imm)
/-- LD in index mode. -/
def execLdIndex (d : XReg) (a : CReg) (x : XReg) (s : State) : Out := s.runLoad (.ldIndex d a x) 8 true d a (.idx x)
/-- LBU in offset mode. -/
def execLbuOffset (d : XReg) (a : CReg) (imm : BitVec 12) (s : State) : Out :=
  s.runLoad (.lbuOffset d a imm) 1 false d a (.off imm)
/-- LBU in index mode. -/
def execLbuIndex (d : XReg) (a : CReg) (x : XReg) (s : State) : Out := s.runLoad (.lbuIndex d a x) 1 false d a (.idx x)
/-- LHU in offset mode. -/
def execLhuOffset (d : XReg) (a : CReg) (imm : BitVec 12) (s : State) : Out :=
  s.runLoad (.lhuOffset d a imm) 2 false d a (.off imm)
/-- LHU in index mode. -/
def execLhuIndex (d : XReg) (a : CReg) (x : XReg) (s : State) : Out := s.runLoad (.lhuIndex d a x) 2 false d a (.idx x)
/-- LWU in offset mode. -/
def execLwuOffset (d : XReg) (a : CReg) (imm : BitVec 12) (s : State) : Out :=
  s.runLoad (.lwuOffset d a imm) 4 false d a (.off imm)
/-- LWU in index mode. -/
def execLwuIndex (d : XReg) (a : CReg) (x : XReg) (s : State) : Out := s.runLoad (.lwuIndex d a x) 4 false d a (.idx x)
/-- SB in offset mode. -/
def execSbOffset (r : XReg) (a : CReg) (imm : BitVec 12) (s : State) : Out :=
  s.runStore (.sbOffset r a imm) 1 r a (.off imm)
/-- SB in index mode. -/
def execSbIndex (r : XReg) (a : CReg) (x : XReg) (s : State) : Out := s.runStore (.sbIndex r a x) 1 r a (.idx x)
/-- SH in offset mode. -/
def execShOffset (r : XReg) (a : CReg) (imm : BitVec 12) (s : State) : Out :=
  s.runStore (.shOffset r a imm) 2 r a (.off imm)
/-- SH in index mode. -/
def execShIndex (r : XReg) (a : CReg) (x : XReg) (s : State) : Out := s.runStore (.shIndex r a x) 2 r a (.idx x)
/-- SW in offset mode. -/
def execSwOffset (r : XReg) (a : CReg) (imm : BitVec 12) (s : State) : Out :=
  s.runStore (.swOffset r a imm) 4 r a (.off imm)
/-- SW in index mode. -/
def execSwIndex (r : XReg) (a : CReg) (x : XReg) (s : State) : Out := s.runStore (.swIndex r a x) 4 r a (.idx x)
/-- SD in offset mode. -/
def execSdOffset (r : XReg) (a : CReg) (imm : BitVec 12) (s : State) : Out :=
  s.runStore (.sdOffset r a imm) 8 r a (.off imm)
/-- SD in index mode. -/
def execSdIndex (r : XReg) (a : CReg) (x : XReg) (s : State) : Out := s.runStore (.sdIndex r a x) 8 r a (.idx x)

/-! ### Capability loads and stores (R223, R224) -/

/-- The address of a 64-byte image: in index mode the format must be CAP; a multiple of 64 (R223). -/
def capAddr (t : Strand) (c : Vec) (o : BitVec 5) (m : MemOpnd) : Raises Nat := do
  let va ← memAddr t c o 64 m
  need (va % 64 == 0) cFormat (capDetail o)
  .ok va

/-- The capability of CLC or CSC, checked: its form, which in index mode is CAP, before its permissions (R123, R223, R224). -/
def granuleCap (t : Strand) (a : CReg) (m : MemOpnd) (perm : BitVec 16) : Raises Vec := do
  let c ← checkUnsealed (t.getC a) t.comp (opC a)
  need (decide (cFmt c ≤ 16) && scalarForm c && (match m with | .off _ => cStr c 0 == 1 | .idx _ => cFmt c == fCap)) cFormat
    (capDetail (opC a))
  need (grants c perm) cPerm (capDetail (opC a))
  .ok c

/-- What CLC writes into cd: the tag only with LDC, and not for an image into a marked region (R223). -/
def State.clcImage (s : State) (t : Nat) (ldc : Bool) (img : Vec) (tag : Bool) : CapReg :=
  { img, tag := tag && ldc && !s.revoked t img }

/-- The address that the revocation check of an image lacks the translation of in the cluster TLB (R414). A byte outside the heap
window, or on a page that is not mapped, needs none: it counts as unmarked (R413). -/
def State.checkMiss (s : State) (t : Nat) (tag : Bool) (img : Vec) : Option Nat :=
  if tag && (s.tenant t).sweepPending && windowOf (cBase img) == .heap then
    [(lowByte img).toNat, (highByte img).toNat].find? fun va =>
      windowOf va == .heap && !s.tlbHit (s.cur / 8) t va && s.leafOf t va != .error cMiss
  else none

/-- CLC (R223); during a sweep a near one whose check misses the cluster TLB waits for the walk (R414). -/
def State.runClc (s : State) (i : Instr) (d a : CReg) (m : MemOpnd) : Out :=
  s.run i fun s => do
    let t := s.strand
    let c ← granuleCap t a m pLd
    let va ← capAddr t c (opC a) m
    let ldc := grants c pLdc
    match reachOf s.cur va 64 with
    | .near =>
      let p ← s.placeOf s.ten va needR false va
      s.ownFirst s.cur ((List.range 64).map (p.flat + ·)) fun s => do
        let (s, img, tag) ← s.readGranule s.ten va p
        match s.checkMiss s.ten (tag && ldc) img with
        | some at' => s.endXlate at'
        | none => do
          need (!s.checkFails s.ten (tag && ldc) img) cIntegrity (vaDetail va)
          .ok (s.setStrand (s.strand.setC d (s.clcImage s.ten ldc img tag)).next)
    | _ => s.endFar va 1 d.toNat (saveC d) (.capLoad ldc)

/-- CSC (R224). -/
def State.runCsc (s : State) (i : Instr) (r a : CReg) (m : MemOpnd) : Out :=
  s.run i fun s => do
    let t := s.strand
    let c ← granuleCap t a m pSt
    let va ← capAddr t c (opC a) m
    let v := t.getC r
    need (!v.tag || grants c pStc) cPerm (capDetail (opC a))
    need (!(v.tag && cScp v.img == 0) || grants c pStlocal) cScope (capDetail (opC a))
    match reachOf s.cur va 64 with
    | .host => s.endFar va 0 0 0 (.capStore v.img)
    | _ =>
      if s.held2 s.ten va 64 then do
        let p ← s.placeOf s.ten va needW false va
        s.postThen s.ten va (.cap p v.img v.tag) State.adv
      else s.endXlate va

/-- CLC in offset mode. -/
def execClcOffset (d a : CReg) (imm : BitVec 12) (s : State) : Out := s.runClc (.clcOffset d a imm) d a (.off imm)
/-- CLC in index mode. -/
def execClcIndex (d a : CReg) (x : XReg) (s : State) : Out := s.runClc (.clcIndex d a x) d a (.idx x)
/-- CSC in offset mode. -/
def execCscOffset (r a : CReg) (imm : BitVec 12) (s : State) : Out := s.runCsc (.cscOffset r a imm) r a (.off imm)
/-- CSC in index mode. -/
def execCscIndex (r a : CReg) (x : XReg) (s : State) : Out := s.runCsc (.cscIndex r a x) r a (.idx x)

/-! ### Vector loads and stores (R225, R226) -/

/-- The kinds of 07 Table 3. -/
inductive VmKind where
  | linear | axis (k : Nat) | gather
  deriving DecidableEq, Repr

/-- The lanes of an access: their number, the width that governs them, and the width of an element, in bits. -/
structure Lanes where
  n : Nat
  gov : Nat
  w : Nat
  deriving DecidableEq, Repr

/-- The lanes of a kind and element width (07 Table 3). -/
def lanesOf (kind : VmKind) (ew : Ew) : Lanes :=
  let w := ewBits ew
  match kind with
  | .gather => if w = 64 then { n := 8, gov := 64, w } else { n := 16, gov := 32, w }
  | .linear => { n := 512 / w, gov := w, w }
  | .axis _ => { n := 512 / w, gov := w, w }

/-- The number of elements between neighbours on an axis, in linear order. -/
def axisStep (c : Vec) (k : Nat) : Nat := (List.range k).foldl (fun acc j => acc * cExt c j) 1

/-- An element's indices moved by i on an axis. -/
def stepIdx (x : Idx) (k i : Nat) : Idx :=
  if k = 0 then (x.1 + i, x.2) else if k = 1 then (x.1, x.2.1 + i, x.2.2)
  else if k = 2 then (x.1, x.2.1, x.2.2.1 + i, x.2.2.2) else (x.1, x.2.1, x.2.2.1, x.2.2.2 + i)

/-- The address of lane i: `x` is the index register's value or, for a gather, the lane's own index. -/
def laneAddr (c : Vec) (o : BitVec 5) (kind : VmKind) (x i : Nat) : Raises Nat :=
  match kind with
  | .gather => linearOf c o x
  | .linear => linearOf c o (x + i)
  | .axis k =>
    if x < cCount c then elemOf c o (stepIdx (decompose c x) k i) (x + i * axisStep c k)
    else raise cBounds (capDetail o 0 (BitVec.ofNat 48 (x + i * axisStep c k)))

/-- The index operand of a vector access. -/
inductive VmIdx where
  | x (r : XReg) | v (r : VReg)
  deriving DecidableEq, Repr

/-- The lane's index: an x register's value, or a 32-bit lane index of a vector register (07 Table 3). -/
def VmIdx.at (m : VmIdx) (t : Strand) (l : Lanes) (i : Nat) : Nat :=
  match m with
  | .x r => (t.getX r).toNat
  | .v r => elemAt l.gov (t.getV r) i % 2 ^ 32

/-- The vector source that an index operand names. -/
def VmIdx.srcs : VmIdx → List VReg
  | .x _ => []
  | .v r => [r]

/-- The active lanes and their addresses, all formed before any access (R225). -/
def vmLanes (t : Strand) (c : Vec) (o : BitVec 5) (kind : VmKind) (l : Lanes) (m : VmIdx) (pg : PReg) :
    Raises (List (Nat × Nat)) :=
  ((List.range l.n).filter (laneActive t pg l.gov)).mapM fun i => do
    let a ← laneAddr c o kind (m.at t l i) i
    .ok (i, a)

/-- The form that a vector access asks of its capability: an element size of ew / 8, or a group-scaled format under kind 0, ew
000 and pg 000 (R225, R226). -/
def vmForm (c : Vec) (kind : VmKind) (ew : Ew) (pg : PReg) : Bool :=
  decide (cFmt c ≤ 16) && cFmt c != fCnt &&
    (if isGroup (cFmt c) then kind == .linear && ew == .z8 && pg == 0 else 8 * sizeOf (cFmt c) == ewBits ew)

/-- The capability of a vector access, checked: its form before its permission (R123, R225). -/
def vmCap (t : Strand) (a : CReg) (kind : VmKind) (ew : Ew) (pg : PReg) (perm : BitVec 16) : Raises Vec := do
  let c ← checkUnsealed (t.getC a) t.comp (opC a)
  need (vmForm c kind ew pg) cFormat (capDetail (opC a))
  need (grants c perm) cPerm (capDetail (opC a))
  .ok c

/-- The groups of a group-scaled access inside the shape, with their addresses (R226). -/
def vmGroups (t : Strand) (c : Vec) (o : BitVec 5) (kind : VmKind) (ew : Ew) (m : VmIdx) (pg : PReg) :
    Raises (List (Nat × Nat)) := do
  let x := m.at t { n := 0, gov := 64, w := 8 } 0
  need (kind == .linear && ew == .z8 && pg == 0 && x % 32 == 0) cFormat (capDetail o)
  need (decide (x < cCount c)) cBounds (capDetail o 0 (BitVec.ofNat 48 x))
  let n := if cFmt c = 12 then 5 else 4
  .ok (((List.range n).filter fun j => decide (x + 32 * j < cCount c)).map fun j =>
    (j, elemAddr c (decompose c (x + 32 * j))))

/-- What a vector access reaches: lanes or groups with their addresses, and the bytes of each; `merge` when the lanes that
it does not reach keep their value. -/
structure VmAccess where
  units : List (Nat × Nat)
  size : Nat
  n : Nat
  merge : Bool
  deriving DecidableEq, Repr

/-- The access of a vector load or store (R225, R226). -/
def vmAccess (t : Strand) (c : Vec) (o : BitVec 5) (kind : VmKind) (ew : Ew) (m : VmIdx) (pg : PReg) :
    Raises VmAccess := do
  if isGroup (cFmt c) then
    let us ← vmGroups t c o kind ew m pg
    .ok { units := us, size := groupBytes (cFmt c), n := if cFmt c = 12 then 5 else 4, merge := false }
  else
    let l := lanesOf kind ew
    need (8 * sizeOf (cFmt c) == l.w) cFormat (capDetail o)
    let us ← vmLanes t c o kind l m pg
    .ok { units := us, size := l.w / 8, n := l.n, merge := true }

/-- The register after a load: the units read replace its elements, the others keep their value or, of groups, are zero,
and the bytes above are zero (R225, R226). -/
def VmAccess.result (a : VmAccess) (old : Vec) (got : List (Nat × Nat)) : Vec :=
  ofElems (8 * a.size) ((List.range a.n).map fun i =>
    match got.find? fun g => g.1 == i with
    | some g => g.2
    | none => if a.merge then elemAt (8 * a.size) old i else 0)

/-- The units of a near load read in order. -/
def State.readUnits (s : State) (size : Nat) : List (Nat × Nat) → Raises (State × List (Nat × Nat))
  | [] => .ok (s, [])
  | (i, va) :: r => do
    let ps ← s.placesOf s.ten va size needR
    let (s, bs) ← s.readOwn s.cur s.ten va ps
    let (s, l) ← s.readUnits size r
    .ok (s, (i, bytesNat bs) :: l)

/-- The places of the bytes that the units of a near load reach. -/
def State.unitFlats (s : State) (size : Nat) (us : List (Nat × Nat)) : List Nat :=
  us.flatMap fun u => match s.placesOf s.ten u.2 size needR with
    | .ok ps => ps.map (·.flat)
    | .error _ => []

/-- A vector load or gather (R225, R226): far as a whole when one of its lanes is. -/
def State.runVld (s : State) (i : Instr) (kind : VmKind) (ew : Ew) (d : VReg) (a : CReg) (m : VmIdx) (pg : PReg) : Out :=
  s.runAny fun s => do
    need (s.strand.boundOf d).isNone cIllegal (wordDetail i)
    need (!stPP s.strand.status) cPrefix (wordDetail i)
    s.withSources m.srcs fun s done t => do
      let c ← vmCap t a kind ew pg pLd
      let acc ← vmAccess t c (opC a) kind ew m pg
      match acc.units.find? fun u => reachOf s.cur u.2 acc.size != .near with
      | some u => s.endFarFrom done u.2 2 d.toNat (saveV d) (.vecLoad acc.size acc.n acc.merge acc.units)
      | none =>
        s.atomsFirst done s.cur (s.unitFlats acc.size acc.units) fun done => do
          let (s', got) ← done.readUnits acc.size acc.units
          .ok (s'.setStrand (s'.strand.setV d (acc.result (t.getV d) got)).next)

/-- A vector store or scatter (R225, R226): where two lanes name one element the higher stands. -/
def State.runVst (s : State) (i : Instr) (kind : VmKind) (ew : Ew) (v : VReg) (a : CReg) (m : VmIdx) (pg : PReg) : Out :=
  s.runAny fun s => do
    need (!stPP s.strand.status) cPrefix (wordDetail i)
    s.withSources (v :: m.srcs) fun s done t => do
      let c ← vmCap t a kind ew pg pSt
      let acc ← vmAccess t c (opC a) kind ew m pg
      let bs := acc.units.flatMap fun u => bytesAt u.2 acc.size (elemAt (8 * acc.size) (t.getV v) u.1)
      s.storeBytes done (acc.units.headD (0, 0)).2 bs State.adv acc.size

/-- VLD. -/
def execVld (ew : Ew) (v : VReg) (a : CReg) (x : XReg) (pg : PReg) (s : State) : Out :=
  s.runVld (.vld ew v a x pg) .linear ew v a (.x x) pg
/-- VLDS.a1. -/
def execVldsA1 (ew : Ew) (v : VReg) (a : CReg) (x : XReg) (pg : PReg) (s : State) : Out :=
  s.runVld (.vldsA1 ew v a x pg) (.axis 1) ew v a (.x x) pg
/-- VLDS.a2. -/
def execVldsA2 (ew : Ew) (v : VReg) (a : CReg) (x : XReg) (pg : PReg) (s : State) : Out :=
  s.runVld (.vldsA2 ew v a x pg) (.axis 2) ew v a (.x x) pg
/-- VLDS.a3. -/
def execVldsA3 (ew : Ew) (v : VReg) (a : CReg) (x : XReg) (pg : PReg) (s : State) : Out :=
  s.runVld (.vldsA3 ew v a x pg) (.axis 3) ew v a (.x x) pg
/-- VLDG. -/
def execVldg (ew : Ew) (v : VReg) (a : CReg) (x : VReg) (pg : PReg) (s : State) : Out :=
  s.runVld (.vldg ew v a x pg) .gather ew v a (.v x) pg
/-- VST. -/
def execVst (ew : Ew) (v : VReg) (a : CReg) (x : XReg) (pg : PReg) (s : State) : Out :=
  s.runVst (.vst ew v a x pg) .linear ew v a (.x x) pg
/-- VSTS.a1. -/
def execVstsA1 (ew : Ew) (v : VReg) (a : CReg) (x : XReg) (pg : PReg) (s : State) : Out :=
  s.runVst (.vstsA1 ew v a x pg) (.axis 1) ew v a (.x x) pg
/-- VSTS.a2. -/
def execVstsA2 (ew : Ew) (v : VReg) (a : CReg) (x : XReg) (pg : PReg) (s : State) : Out :=
  s.runVst (.vstsA2 ew v a x pg) (.axis 2) ew v a (.x x) pg
/-- VSTS.a3. -/
def execVstsA3 (ew : Ew) (v : VReg) (a : CReg) (x : XReg) (pg : PReg) (s : State) : Out :=
  s.runVst (.vstsA3 ew v a x pg) (.axis 3) ew v a (.x x) pg
/-- VSTG. -/
def execVstg (ew : Ew) (v : VReg) (a : CReg) (x : VReg) (pg : PReg) (s : State) : Out :=
  s.runVst (.vstg ew v a x pg) .gather ew v a (.v x) pg

/-! ### Data atomics (R227, R228) -/

/-- A data atomic on element 0 of c[a] (R227): posted with rd = x0 on the package, else the strand ends. -/
def State.runAmo (s : State) (i : Instr) (op : AmoOp) (w : Bool) (d : XReg) (a : CReg) (b : XReg) : Out :=
  s.run i fun s => do
    let t := s.strand
    let c ← checkOpnd (t.getC a) t.comp (opC a) (fun c => cFmt c == if w then fInt64 else fInt32) (pLd ||| pSt)
    let va := cBase c
    need (va % amoBytes w == 0) cFormat (capDetail (opC a))
    let host := hostAddr va
    need (!host || op == .add || op == .swap || op == .cas) cHostUnsup (vaDetail va)
    let x := if d = 0 then 0 else t.getX d
    if d ≠ 0 ∨ host then s.endFar va 0 d.toNat 0 (.atomic op w (t.getX b) x)
    else if s.held2 s.ten va (amoBytes w) then do
      let p ← s.placeOf s.ten va needRW false va
      s.postThen s.ten va (.atomic p op w (t.getX b) x) State.adv
    else s.endXlate va

/-- AMOADD. -/
def execAmoadd (w : Bool) (d : XReg) (a : CReg) (b : XReg) (s : State) : Out := s.runAmo (.amoadd w d a b) .add w d a b
/-- AMOSWAP. -/
def execAmoswap (w : Bool) (d : XReg) (a : CReg) (b : XReg) (s : State) : Out := s.runAmo (.amoswap w d a b) .swap w d a b
/-- AMOXOR. -/
def execAmoxor (w : Bool) (d : XReg) (a : CReg) (b : XReg) (s : State) : Out := s.runAmo (.amoxor w d a b) .xor w d a b
/-- AMOOR. -/
def execAmoor (w : Bool) (d : XReg) (a : CReg) (b : XReg) (s : State) : Out := s.runAmo (.amoor w d a b) .or w d a b
/-- AMOAND. -/
def execAmoand (w : Bool) (d : XReg) (a : CReg) (b : XReg) (s : State) : Out := s.runAmo (.amoand w d a b) .and w d a b
/-- AMOCAS. -/
def execAmocas (w : Bool) (d : XReg) (a : CReg) (b : XReg) (s : State) : Out := s.runAmo (.amocas w d a b) .cas w d a b
/-- AMOMIN. -/
def execAmomin (w : Bool) (d : XReg) (a : CReg) (b : XReg) (s : State) : Out := s.runAmo (.amomin w d a b) .min w d a b
/-- AMOMAX. -/
def execAmomax (w : Bool) (d : XReg) (a : CReg) (b : XReg) (s : State) : Out := s.runAmo (.amomax w d a b) .max w d a b
/-- AMOMINU. -/
def execAmominu (w : Bool) (d : XReg) (a : CReg) (b : XReg) (s : State) : Out := s.runAmo (.amominu w d a b) .minu w d a b
/-- AMOMAXU. -/
def execAmomaxu (w : Bool) (d : XReg) (a : CReg) (b : XReg) (s : State) : Out := s.runAmo (.amomaxu w d a b) .maxu w d a b

end Sys2Proof.Machine
end

