-- ==== Sys2Proof/Machine/CoreEvents.lean ====
section
/-! DEFINITION. The units beside a core: acceptance of posted stores, the end of a drain, far accesses, page-table walks,
stream refills, and the host's answers to page requests (07 R216 to R218, R228, R233, R234, 06 R206, R210, R211). -/

namespace Sys2Proof.Machine

/-- POSTED_STORE_ACCEPT: an entry of a core's queue is offered to its home (R217). -/
def execPostedStoreAccept (core index : Nat) (s : State) : Out := .next (s.acceptAt core index).1

/-- CORE_DRAIN_COMPLETE: a core leaves DRAINING or SAVING and is idle (R332). -/
def execCoreDrainComplete (core : Nat) (s : State) : Out :=
  let c := s.core core
  s.event ((c.mode == .draining || c.mode == .saving) && !c.waiting && c.posted.isEmpty && decide (c.nextIssue ≤ s.cycle)) fun s =>
    s.updCore core fun c => { c with mode := .idle }

/-! ### Far accesses (R216, R282) -/

/-- The strand of a held bookmark changed. -/
def State.updHeld (s : State) (id : Nat) (f : Strand → Strand) : State :=
  { s with bms := updWhere s.bms (fun h => h.id == id) fun h => { h with bm := { h.bm with strand := f h.bm.strand } } }

/-- The destination that WARG of a FAR bookmark names receives a value (10 Table 2). -/
def Strand.farResult (t : Strand) (warg : Word) (x : Word) (c : CapReg) (v : Vec) : Strand :=
  let i := warg.extractLsb' 56 5
  let space := warg.extractLsb' 62 2
  if space = 0 then t.setX i x else if space = 1 then t.setC (i.extractLsb' 0 4) c else t.setV i v

/-- A far access has its result: its bookmark is released, not bound (R216). -/
def State.farDone (s : State) (h : Held) (x : Word) (c : CapReg) (v : Vec) : State :=
  (s.updHeld h.id fun t => t.farResult h.bm.warg x c v).release h.id false

/-- A far access without a result is done. -/
def State.farStored (s : State) (h : Held) : State := s.release h.id false

/-- The elements of the units of a vector load, read in order. -/
def State.readFarUnits (s : State) (unit t size : Nat) : List (Nat × Nat) → Eng (State × List (Nat × Nat))
  | [] => .ok (s, [])
  | u :: r => do
    let (s, bs) ← s.engRead (some unit) t u.2 size
    let (s, rest) ← s.readFarUnits unit t size r
    .ok (s, (u.1, bytesNat bs) :: rest)

/-- The elements of a store's bytes: the address and the bytes of each. -/
def elementsOf (bs : Bytes) (size : Nat) : List (Nat × List Byte) :=
  let n := if size = 0 then bs.length else size
  (List.range (bs.length / max 1 n)).map fun i =>
    let e := (bs.drop (n * i)).take n
    ((e.headD (0, 0)).1, e.map (·.2))

/-- The places of the bytes of a store's elements, in order. -/
def State.farPlaces (s : State) (unit t : Nat) : List (Nat × List Byte) → Eng (State × List (Place × Byte))
  | [] => .ok (s, [])
  | e :: r => do
    let (s, ps) ← s.engPlaces (some unit) t e.1 e.2.length needW
    let (s, rest) ← s.farPlaces unit t r
    .ok (s, ps.zip e.2 ++ rest)

/-- A request of the part to host memory for a held bookmark, sent once (R228, R282, R285). -/
def State.askHost (s : State) (h : Held) (va : Nat) (p : Place) (req : HostReq) : State :=
  if s.hostOps.any fun o => o.req == req then s
  else
    let o : HostOp :=
      { id := s.nextId, place := p.flat, va, tenant := h.bm.tenant, gen := h.bm.gen, req, origin := .strand
        held := (s.fn h.bm.tenant).halted }
    { s with hostOps := s.hostOps ++ [o], nextId := s.nextId + 1 }

/-- A far KREAD of a host-homed cell: a Memory Read, or by mediation while the function lacks AtomicOp completion and the
cell's FB asks for it (R285, R287). -/
def State.askRead (s : State) (h : Held) (va : Nat) (p : Place) : State :=
  let s := s.keepWord p.flat
  if (s.fn h.bm.tenant).noAtomics && (s.hostWord p.flat).getLsbD 10 then
    if s.hostOps.any fun o => match o.req with | .mediated _ k => k == .wait 0 h.id | _ => false then s
    else
      let op : CtrOp :=
        { id := s.nextId, place := p.flat, va, kind := .wait 0 h.id, tenant := h.bm.tenant, gen := h.bm.gen, origin := .strand }
      match State.fallback s.bump op with
      | .sent s => s
      | _ => s
  else s.askHost h va p (.readValue h.id)

/-- A far KREAD at a peer's port: a CREAD flit, sent once (R288). -/
def State.askPeer (s : State) (h : Held) (va port : Nat) (p : Place) : State :=
  if (s.port port).pending.any fun o => o.read == some h.id then s
  else
    let off := (p.flat - peerFlat) % 2 ^ 46
    let o : PeerOp :=
      { id := s.nextId, tenant := h.bm.tenant, gen := h.bm.gen, off, place := p.flat, va, kind := .add 0
        read := some h.id, watch := false, origin := .strand }
    (({ s with nextId := s.nextId + 1 }).updPort port fun q => { q with pending := q.pending ++ [o] }).sendFlit port
      (some o.tenant) 0x04 (w64 o.id :: ctrPayload off 0)

/-- What a far access does at its memory. -/
def State.farAt (s : State) (h : Held) (va : Nat) (op : FarOp) : Eng State :=
  let t := h.bm.tenant
  let u := some h.cluster
  match op with
  | .load size signed => do
    let (s, bs) ← s.engRead u t va size
    let n := bytesNat bs
    .ok (s.farDone h (w64 (if signed then wrapInt 64 (sextNat (8 * size) n) else n)) {} 0)
  | .capLoad ldc => do
    let (s, ps) ← s.engPlaces u t va 64 needR
    let (s, img, tag) ← ofRaises (s.readGranule t va (ps.headD { flat := 0, home := .host }))
    if s.checkFails t (tag && ldc) img then .error (.stop cIntegrity (vaDetail va))
    .ok (s.farDone h 0 { img, tag := tag && ldc && !s.revoked t img } 0)
  | .vecLoad size n merge units => do
    let (s, got) ← s.readFarUnits h.cluster t size units
    let old := h.bm.strand.getV (h.bm.warg.extractLsb' 56 5)
    .ok (s.farDone h 0 {} (VmAccess.result { units, size, n, merge } old got))
  | .atomic op wide b expect => do
    let (s, ps) ← s.engPlaces u t va (amoBytes wide) needRW
    let p := ps.headD { flat := 0, home := .host }
    if isHostPlace p.flat then .ok (s.askHost h va p (.dataAtomic h.id))
    else do
      let (s, old) ← ofRaises (s.atomicAt t va p op wide b expect)
      .ok (s.farDone h (w64 (if wide then old else wrapInt 64 (sextNat 32 old))) {} 0)
  | .kread => if s.heldAt t va then .error (.held va) else do
    s.engXlate u t va va
    let p ← ofRaises (s.placeOf t va needR true va)
    if s.homeRefuses p then .error (.stop cHome (vaDetail va))
    else match p.home with
      | .host =>
        match s.reach t p needR with
        | .ok s => .ok (s.askRead h va p)
        | .page s g => .error (.page s g va)
        | .refused cause => .error (.stop cause (vaDetail va))
        | .halted => .error (.held va)
      | .peer q => if (s.fn t).halted then .error (.held va) else .ok (s.askPeer h va q p)
      | _ =>
        if s.badAt p.flat then .error (.stop cIntegrity (vaDetail va))
        else
          let v := s.cellVal p.flat
          .ok ((s.collectSlip t va v).farDone h v {} 0)
  | .store bs size => do
    let (s, cells) ← s.farPlaces h.cluster t (elementsOf bs size)
    let s ← ofRaises (s.writePlaces t va cells)
    .ok (s.farStored h)
  | .capStore img => do
    let s ← s.engWrite u t va (natBytes 64 img.toNat)
    .ok (s.farStored h)

/-- A far access that waits at its memory keeps no due time (R499). -/
def State.farWaits (s : State) (id : Nat) : State :=
  { s with bms := updWhere s.bms (fun h => h.id == id) fun h => { h with due := 0 } }

/-- FAR_ACCESS_COMPLETE: a far access of a core's access path reaches its memory (R216); a host that holds the function's
requests holds it (R450, R466). One that faults or waits for a page is to execute again, the strips it consumed given back (R225,
R234). -/
def execFarAccessComplete (id : Nat) (s : State) : Out :=
  match s.heldOf id with
  | some h =>
    match h.holder with
    | .far va op =>
      s.event (!(hostAddr va && (s.fn h.bm.tenant).halted)) fun s =>
        match s.farAt h va op with
        | .ok s => s
        | .error (.stop cause detail) => (s.giveBack h.id).faultHeld h.id cause detail (h.bm.strand.pc - 4)
        | .error (.page s g at') => (s.giveBack h.id).toPage h.id at' (h.bm.strand.pc - 4) g
        | .error (.held _) => s.farWaits h.id
    | _ => .next s
  | none => .next s

/-- A miss of a cluster that its die's TLB answers: no walk is made for it (R206). -/
def State.dieAnswers (s : State) (h : Held) (va : Nat) : State :=
  match s.leafOf h.bm.tenant va with
  | .ok l => (s.tlbPut h.cluster 2048 h.bm.tenant l).release h.id false
  | .error cause => s.faultHeld h.id cause (vaDetail va) h.bm.strand.pc

/-- The misses that joined a walk: each is answered with what the walk found (R206). -/
def State.endWalk (s : State) (w : Walk) : State :=
  let mine := s.bms.filter fun h => (h.miss w.die).any fun va => w.serves s h va
  let s := { s with walks := s.walks.filter fun (o : Walk) => o != w }
  let found := s.walk w.tenant w.va
  (mine.foldl (fun s h => match found with
    | .ok l => (s.tlbFill h.cluster h.bm.tenant l).release h.id false
    | .error cause => s.faultHeld h.id cause (vaDetail ((h.miss w.die).getD 0)) h.bm.strand.pc) s).walkers w.die

/-- TLB_WALK_COMPLETE: the walk that an XLATE bookmark waits for fills the TLBs and releases it, or makes it a fault bookmark at
the access; so with every miss that joined the walk. A miss that its die's TLB answers takes no walk, and one that no walker has taken
waits (R206, R217). -/
def execTlbWalkComplete (id : Nat) (s : State) : Out :=
  match s.heldOf id with
  | some h =>
    match h.holder with
    | .xlate va =>
      if s.tlbHit (128 + h.cluster / 64) h.bm.tenant va then .next (s.dieAnswers h va)
      else
      let s := s.walkers (h.cluster / 64)
      match s.walks.find? fun w => w.serves s h va with
      | some w => .next (s.endWalk w)
      | none => .next s
    | _ => .next s
  | none => .next s

/-! ### Stream refills (R233, R234) -/

/-- A strip read for a descriptor: its bytes, or the cause that marks it. -/
def State.readStrip (s : State) (unit t : Nat) (d : Vec) (pos : Nat) : Eng (State × Vec) := do
  let c := sdCap d
  let w := sdEw d
  let (s, bs) ← (List.range (512 / w)).foldlM (fun (acc : State × List Byte) i => do
    let q := pos * sdStep d + i
    if q < cCount c then
      let (s, bs) ← acc.1.engRead (some unit) t (elemAddr c (decompose c q)) (w / 8)
      .ok (s, acc.2 ++ bs)
    else if sdPad d then .ok (acc.1, acc.2 ++ padBytes (cFmt c) (cPadVal c))
    else (.error (.stop cBounds (capDetail opMem 0 (BitVec.ofNat 48 q))) : Eng (State × List Byte))) (s, [])
  .ok (s, BitVec.ofNat 512 (bytesNat bs))

/-- The stores that program order puts before the SBIND of a register are accepted at their homes (R233). -/
def State.storesBefore (s : State) (core reg : Nat) : Bool :=
  (s.core core).posted.all fun e => decide ((s.core core).boundAt.getD reg 0 ≤ e.no)

/-- The address of the first element of a strip. -/
def stripVa (d : Vec) (pos : Nat) : Nat := elemAddr (sdCap d) (decompose (sdCap d) (pos * sdStep d))

/-- A strip put into a core's buffers. -/
def State.putStrip (s : State) (core : Nat) (p : Strip) : State :=
  s.updCore core fun c => { c with strips := c.strips ++ [p] }

/-- A strip fetched for register 24 + reg of a strand whose descriptor is d; `owner` is the STREAM bookmark that waits,
or 0, and `run` the number that a page request keeps. It is not read before the stores that precede the SBIND are accepted
(R233). -/
def State.refill (s : State) (core reg t : Nat) (d : Vec) (pos owner run : Nat) : State :=
  let s := s.offerAll core
  if !s.storesBefore core reg then s
  else match s.readStrip (core / 8) t d pos with
  | .ok (s, v) => s.putStrip core { reg, pos, data := .ok v, owner }
  | .error (.stop cause detail) => s.putStrip core { reg, pos, data := .marked cause detail, owner }
  | .error (.page s g va) =>
    let q : StripReq := { core, reg, run, bound := (s.core core).boundAt.getD reg 0, pos, va }
    { s with pageReqs := updWhere s.pageReqs (fun r => r.group == g) fun r => { r with strips := dropWhere r.strips (· == q) ++ [q] } }
  | .error (.held _) => s

/-- The strip that a core has buffered for an owner and a register at a position. -/
def Core.buffered (c : Core) (owner reg pos : Nat) : Bool :=
  c.strips.any fun p => p.owner == owner && p.reg == reg && p.pos == pos

/-- STREAM_STRIP_ARRIVAL: a strip of register `reg` arrives at a core: for the STREAM bookmark that waits for it, which is
released bound to the core, or for the running strand, at most 4 ahead and 32 in all (R234). -/
def execStreamStripArrival (core reg : Nat) (s : State) : Out :=
  let k := reg - 24
  if 32 ≤ (s.core core).strips.length then .next s
  else match s.bms.find? fun h => h.bm.lcore == core && h.holder == .stream k with
  | some h =>
    let d := h.bm.strand.desc k
    let s := s.refill core k h.bm.tenant d (sdNext d) h.id h.id
    .next (if (s.core core).buffered h.id k (sdNext d) then s.release h.id true else s)
  | none =>
    let c := s.core core
    let d := c.strand.desc k
    let ahead := (c.strips.filter fun p => p.owner == 0 && p.reg == k).length
    let pos := sdNext d + ahead
    s.event (c.mode == .running && (c.strand.bind[k]?).join.isSome && sdTag d && decide (ahead < 4) &&
      decide (pos < sdCount d)) fun s =>
      s.refill core k c.strand.tenant d pos 0 c.runId

/-! ### The host's answers (R210, R211) -/

/-- A page's permission as the host's tables give it. -/
def State.setPerm (s : State) (fn page : Nat) (perm : BitVec 2) : State :=
  { s with
    hostPerm := dropWhere s.hostPerm (fun e => e.fn == fn && e.page == page) ++ [{ fn, page, perm }] }

/-- An operation of a function's tenant on a page of the host. -/
def onPage (r : PageReq) (tenant place : Nat) : Bool :=
  tenant == r.fn && isHostPlace place && ioPage place == r.page

/-- The counter operations that waited for a page are refused (R211). -/
def State.denyCounters (s : State) (r : PageReq) : State :=
  let hit (o : CtrOp) : Bool := onPage r o.tenant o.place
  let ops := s.counterOps.filter hit
  let s := ops.foldl (fun s o => s.opRefused o cPri) { s with counterOps := dropWhere s.counterOps hit }
  let mine (e : Posted) : Bool := match e.op with
    | .counter p _ _ => e.sent.isNone && onPage r e.tenant p.flat
    | _ => false
  { s with cores := s.cores.map fun c =>
      (c.1, { c.2 with
        posted := dropWhere c.2.posted mine
        failed := c.2.failed ++ (c.2.posted.filter mine).map fun e => (e.no, cPri, e.va) }) }

/-- A call that waited for a page request. -/
def Call.paged (c : Call) (group : Nat) (denied : Bool) : Call :=
  if c.wait = some group then { c with wait := none, denied := c.denied || denied } else c

/-- The calls that waited for a page go on, or are denied it (R321). -/
def State.pageCalls (s : State) (group : Nat) (denied : Bool) : State :=
  { s with service := { s.service with
      active := s.service.active.map fun c => c.paged group denied, calls := s.service.calls.map fun c => c.paged group denied } }

/-- The launches that waited for a page are denied it (R321). -/
def State.denyLaunches (s : State) (r : PageReq) : State :=
  let s := if (s.fn r.fn).lqWait = some r.group then
    s.updFn r.fn fun f => { f with lqWait := none, lqDenied := true } else s
  s.pageCalls r.group true

/-- A strip whose page is denied is marked, unless its register has been rebound or freed meanwhile (R211, R234). -/
def State.denyStrip (s : State) (q : StripReq) : State :=
  let mark (owner : Nat) : State := s.putStrip q.core { reg := q.reg, pos := q.pos, data := .marked cPri (vaDetail q.va), owner }
  match s.heldOf q.run with
  | some h => if h.holder = .stream q.reg then (mark q.run).release q.run true else s
  | none =>
    let c := s.core q.core
    if c.runId = q.run && c.mode == .running && (c.strand.bind[q.reg]?).join.isSome && c.boundAt.getD q.reg 0 == q.bound &&
      !c.buffered 0 q.reg q.pos then mark 0 else s

/-- The strips whose page is denied. -/
def State.denyStrips (s : State) (qs : List StripReq) : State := qs.foldl State.denyStrip s

/-- What waited for a page is denied it: bookmarks become fault bookmarks at their access, commands stop, counter operations
are refused, and a strip is marked (R211, R234). -/
def State.denyPage (s : State) (r : PageReq) : State :=
  let s := (s.bms.filter fun h => h.holder == .page r.group).foldl (fun s h =>
    s.faultHeld h.id cPri (h.bm.warg.extractLsb' 0 56) h.bm.strand.pc) s
  let s := s.cmds.foldl (fun s c => match c.state with
    | .parked g va => if g = r.group then s.stopCmd c cPri (vaDetail va) else s
    | _ => s) s
  ((s.denyCounters r).denyLaunches r).denyStrips r.strips

/-- The page requests of a function that wait in the host interface are denied with what waits for them (R211). -/
def State.denyWaiting (s : State) (fn : Nat) : State :=
  let ws := s.pageReqs.filter fun r => r.fn == fn && !r.issued
  ws.foldl State.denyPage { s with pageReqs := s.pageReqs.filter fun r => !(r.fn == fn && !r.issued) }

/-- The commands that waited for a page are served again (R211). -/
def State.unpark (s : State) (group : Nat) : State :=
  { s with cmds := s.cmds.map fun (c : Cmd) => match c.state with
    | .parked g _ => if g = group then { c with state := .queued } else c
    | _ => c }

/-- PAGE_REQUEST_GROUP_RESPONSE (R211): on success what waited for the page tries again; after Response Failure the requests that
wait in the host interface are denied too. -/
def execPageRequestGroupResponse (group : Nat) (resp : PageResponse) (s : State) : Out :=
  match s.pageReqs.find? fun r => r.group == group && r.issued && !(s.fn r.fn).halted with
  | none => .next s
  | some r =>
    let s : State := { s with pageReqs := s.pageReqs.filter fun q => q.group != group }
    if r.gen ≠ s.gen r.fn then .next (s.issuePage r.fn)
    else match resp with
    | .success perm =>
      let s := (s.issuePage r.fn).setPerm r.fn r.page perm
      let s := (s.bms.filter fun h => h.holder == .page group).foldl (fun s h => s.release h.id false) s
      .next ((s.unpark group).pageCalls group false)
    | .invalidRequest => .next ((s.issuePage r.fn).denyPage r)
    | .responseFailure => .next (((s.updFn r.fn fun f => { f with priOff := true }).denyPage r).denyWaiting r.fn)

/-- ATS_INVALIDATE_REQUEST: the entries of the pages leave the address translation cache, and an access issued from then on
translates afresh, to the permission the host now gives. It is answered with an Invalidation Completion once every request on the
pages that is in flight has completed (R210). A function whose requests are held accepts none (R452, R466; log 99). -/
def execAtsInvalidateRequest (fn page count : Nat) (perm : BitVec 2) (s : State) : Out :=
  s.event (!(s.fn fn).halted) fun s =>
  let open' := (s.hostOps.filter fun o => o.tenant == fn && isHostPlace o.place && decide (page ≤ ioPage o.place) &&
    decide (ioPage o.place < page + count)).map (·.id)
  let s := s.updFn fn fun f =>
    if open'.isEmpty then { f with invalsDone := f.invalsDone + 1 } else { f with invals := f.invals ++ [open'] }
  let s := { s with atc := dropWhere s.atc fun e => e.fn == fn && decide (page ≤ e.page) && decide (e.page < page + count) }
  (List.range count).foldl (fun s i => s.setPerm fn (page + i) perm) s

/-- PRI_ENABLE_WRITE: host software enables PRI for the function again (R211). -/
def execPriEnableWrite (fn : Nat) (s : State) : Out := .next (s.updFn fn fun f => { f with priOff := false })

end Sys2Proof.Machine
end

