-- ==== Sys2Proof/Machine/CounterEvents.lean ====
section
/-! DEFINITION. Counter homes at work: far operations, spilled waiters, and cells in host memory (08 R268 to R287). -/

namespace Sys2Proof.Machine

/-- The place of an operation, with its home as its page now gives it (R265, R267). -/
def State.opPlace (s : State) (op : CtrOp) : Place :=
  match s.placeOf op.tenant op.va needR true op.va with
  | .ok p => if p.flat = op.place then p else { flat := op.place, home := homeOfFlat op.place }
  | .error _ => { flat := op.place, home := homeOfFlat op.place }

/-- An operation that came from a port waits behind one that came from it before, which may be at the host as a request of its home: a
port applies its flits in order (R310). -/
def State.behind (s : State) (op : CtrOp) : Bool :=
  match op.origin with
  | .remote port _ =>
    ((s.counterOps.takeWhile fun o => o.id != op.id).any fun o => o.port == some port) ||
      s.hostOps.any fun o => decide (o.id < op.id) && (match o.origin with | .remote p _ => p == port | _ => false)
  | _ => false

/-- An operation goes back to its place among those on their way. -/
def State.stillHeld (s : State) (before : List CtrOp) (op : CtrOp) : State :=
  let n := (before.takeWhile fun o => o.id != op.id).length
  { s with counterOps := s.counterOps.take n ++ { op with due := 0 } :: s.counterOps.drop n }

/-- COUNTER_OPERATION_APPLY: an operation reaches its home; one of an old generation is discarded (R268, R214). -/
def execCounterOperationApply (id : Nat) (s : State) : Out :=
  match s.counterOps.find? fun o => o.id == id with
  | none => .next s
  | some op =>
    let t := { s with counterOps := s.counterOps.filter fun (o : CtrOp) => o.id != id }
    if s.behind op then .next s
    else if op.gen ≠ s.gen op.tenant then .next t
    else match t.atHome op (s.opPlace op) with
      | .applied t => .next (t.opApplied op (t.cellVal op.place))
      | .sent t => .next t
      | .refused t cause => .next (t.opRefused op cause)
      | .held t => .next (t.stillHeld s.counterOps op)

/-- SPILLED_WAITER_READ_COMPLETE: the last batch has been read, and every waiter that the operation satisfied is released in
its one order (R274). -/
def execSpilledWaiterReadComplete (cell : Nat) (s : State) : Out :=
  match s.spillReads.find? fun r => r.cell == cell with
  | none => .next s
  | some r =>
    let s := { s with spillReads := s.spillReads.erase r }
    .next ((s.releaseAll cell (s.cellVal cell) r.order).syncHome cell)

/-! ### Cells in host memory (R285 to R287) -/

/-- The address at which a waiter, or a peer's watch, waits on a cell. -/
def State.waiterVa (s : State) (cell : Nat) : Nat :=
  match s.bms.findSome? fun h => match h.holder with
    | .counter c va _ _ _ _ => if c = cell then some va else none
    | _ => none with
  | some va => va
  | none => ((s.watches.find? fun w => w.cell == cell).map (·.va)).getD 0

/-- HOST_CELL_POLL: the home reads a cell with a pending waiter every (POLL + 1) × 64 TIME ticks (R286). -/
def execHostCellPoll (cell : Nat) (s : State) : Out :=
  match s.polls.find? fun p => p.place == cell with
  | none => .next s
  | some p =>
    s.event (decide (p.next ≤ s.time)) fun s =>
      if (s.waitersOn cell).isEmpty && !(s.watches.any fun w => w.cell == cell) then { s with polls := s.polls.erase p }
      else
        let o : HostOp :=
          { id := s.nextId, place := cell, va := s.waiterVa cell, tenant := p.tenant, gen := s.gen p.tenant, req := .poll
            origin := .strand, held := (s.fn p.tenant).halted }
        { s with
          nextId := s.nextId + 1, hostOps := s.hostOps ++ [o]
          polls := updWhere s.polls (· == p) fun p => { p with next := p.next + p.every } }

/-- A request that is issued: one held with its function is not (R450, R452). -/
def State.issued (s : State) (o : HostOp) : Bool := !(o.held && (s.fn o.tenant).halted)

/-- A request that has completed: the Invalidation Completions that waited for it alone are answered (R210). -/
def Fn.completed (f : Fn) (id : Nat) : Fn :=
  let open' := f.invals.map fun l => l.filter (· != id)
  { f with invals := open'.filter (!·.isEmpty), invalsDone := f.invalsDone + (open'.filter (·.isEmpty)).length }

/-- The state without a request of the part. -/
def State.dropHostOp (s : State) (id : Nat) : State :=
  { s with
    hostOps := s.hostOps.filter fun (o : HostOp) => o.id != id
    fns := s.fns.map fun f => (f.1, f.2.completed id) }

/-- The fallback of an operation whose request is over (R287). -/
def State.fallBack (s : State) (op : CtrOp) : State :=
  match s.fallback op with
  | .sent s => s
  | .applied s => s
  | .held s => s
  | .refused s c => s.opRefused op c

/-- The next request of a KMAX that has read a value: none when the candidate does not exceed it, else a CAS, unless the wrap
rule refuses (08 Table 9) or the function lacks AtomicOp completion (R287); a function whose requests are held issues none (R450, R452,
R466). -/
def State.maxAgainst (s : State) (o : HostOp) (v candidate : Word) : State :=
  let op := o.toCtr (.max candidate)
  if candidate ≤ v then (s.dropHostOp o.id).opApplied op v
  else if (s.distances o.place v).any (fun d => decide (d + 2 ^ 63 ≤ (candidate - v).toNat)) then
    (s.dropHostOp o.id).opRefused op cWrap
  else if (s.fn o.tenant).noAtomics then (s.dropHostOp o.id).fallBack op
  else { s with hostOps := updWhere s.hostOps (fun h => h.id == o.id) fun h =>
      { h with req := .cas v candidate candidate, held := (s.fn o.tenant).halted } }

/-- HOST_READ_COMPLETION (R282, R285, R286): a read that the host does not complete raises HOST_ABORT. -/
def execHostReadCompletion (id : Nat) (status : HostStatus) (s : State) : Out :=
  match s.hostOps.find? fun o => o.id == id with
  | none => .next s
  | some o =>
    if o.gen ≠ s.gen o.tenant then .next (s.dropHostOp id)
    else
      let v := s.cellVal o.place
      s.event (s.issued o) fun s =>
        match o.req, status with
        | .readForMax c, .ok => s.maxAgainst o v c
        | .readForMax c, _ => (s.dropHostOp id).opRefused (o.toCtr (.max c)) cHostAbort
        | .readForWait bm, .ok =>
          let s := s.dropHostOp id
          match s.heldOf bm with
          | none => s
          | some h =>
            let thr := h.bm.warg
            if satisfied v thr then (s.collectSlip o.tenant o.va v).releaseAll o.place v [bm]
            else match s.depositHeld bm o.place o.va thr false with
              | .ok s => s
              | .error f => s.opRefused (o.toCtr (.wait thr bm)) f.cause
        | .readForWait bm, _ => (s.dropHostOp id).opRefused (o.toCtr (.wait 0 bm)) cHostAbort
        | .poll, .ok => (s.dropHostOp id).seen o.place v v
        | .poll, _ => s.dropHostOp id
        | .readValue bm, .ok =>
          let s := (s.dropHostOp id).collectSlip o.tenant o.va v
          match o.origin, s.heldOf bm with
          | .strand, some h => s.farDone h v {} 0
          | .strand, none => s
          | _, _ => s.opApplied (o.toCtr .read) v
        | .readValue bm, _ =>
          let s := s.dropHostOp id
          match o.origin, s.heldOf bm with
          | .strand, some h => s.faultHeld bm cHostAbort (vaDetail o.va) (h.bm.strand.pc - 4)
          | .strand, none => s
          | _, _ => s.opRefused (o.toCtr .read) cHostAbort
        | .readForWatch thr func gen, .ok => (s.dropHostOp id).addWatch (o.toCtr .read) thr func gen
        | .readForWatch _ _ _, _ => (s.dropHostOp id).opRefused (o.toCtr .read) cHostAbort
        | .fetchAdd _, _ => s
        | .cas _ _ _, _ => s
        | .mediated _ _, _ => s
        | .dataAtomic _, _ => s

/-- An AtomicOp of the home that the host does not complete (R287): with Unsupported Request the function is recorded and the
operation follows FB, with Completer Abort it is refused. -/
def State.atomicRefused (s : State) (o : HostOp) (kind : CtrKind) (status : HostStatus) : State :=
  let op := o.toCtr kind
  let s := s.dropHostOp o.id
  match status with
  | .unsupportedRequest =>
    (s.updFn o.tenant fun f => { f with noAtomics := true }).fallBack op
  | _ => s.opRefused op cHostAbort

/-- A data atomic of a far access completes in host memory (R228). -/
def State.hostAtomicDone (s : State) (o : HostOp) (h : Held) (status : HostStatus) : State :=
  let fail (cause : BitVec 8) : State := s.faultHeld h.id cause (vaDetail o.va) (h.bm.strand.pc - 4)
  match status, h.holder with
  | .ok, .far _ (.atomic op wide b expect) =>
    match s.atomicAt o.tenant o.va { flat := o.place, home := .host } op wide b expect with
    | .ok (s, old) => s.farDone h (w64 (if wide then old else wrapInt 64 (sextNat 32 old))) {} 0
    | .error f => s.faultHeld h.id f.cause f.detail (h.bm.strand.pc - 4)
  | .unsupportedRequest, _ => fail cHostUnsup
  | .completerAbort, _ => fail cHostAbort
  | .ok, _ => s

/-- HOST_ATOMIC_COMPLETION (R228, R285 to R287): the AtomicOp acts on host memory, and the home tests its waiters against the
value returned and the value made. -/
def execHostAtomicCompletion (id : Nat) (status : HostStatus) (s : State) : Out :=
  match s.hostOps.find? fun o => o.id == id with
  | none => .next s
  | some o =>
    if o.gen ≠ s.gen o.tenant then .next (s.dropHostOp id)
    else
      let v := s.cellVal o.place
      s.event (s.issued o) fun s =>
        match o.req, status with
        | .fetchAdd a, .ok =>
          let s := (s.dropHostOp id).putWord o.place (v + a)
          ((s.seen o.place v v).seen o.place v (v + a)).opApplied (o.toCtr (.add a)) (v + a)
        | .fetchAdd a, st => s.atomicRefused o (.add a) st
        | .cas old new c, .ok =>
          if v = old then
            let s := (s.dropHostOp id).putWord o.place new
            ((s.seen o.place v v).seen o.place v new).opApplied (o.toCtr (.max c)) new
          else (s.seen o.place v v).maxAgainst o v c
        | .cas _ _ c, st => s.atomicRefused o (.max c) st
        | .dataAtomic bm, st =>
          match s.heldOf bm with
          | some h => (s.dropHostOp id).hostAtomicDone o h st
          | none => s.dropHostOp id
        | .readForMax _, _ => s
        | .readForWait _, _ => s
        | .readForWatch _ _ _, _ => s
        | .poll, _ => s
        | .readValue _, _ => s
        | .mediated _ _, _ => s

/-- ATOMICOP_REQUESTER_ENABLE_WRITE: the record of a function that lacks AtomicOp completion ends (R287). -/
def execAtomicopRequesterEnableWrite (fn : Nat) (s : State) : Out :=
  .next (s.updFn fn fun f => { f with noAtomics := false })

end Sys2Proof.Machine
end

