-- ==== Sys2Proof/Machine/Strands.lean ====
section
/-! DEFINITION. SPAWN, MSEND, MSEND.W, YIELD, FIN, SCALL, TBLK and TUBLK (10 R333 to R342). -/

namespace Sys2Proof.Machine

/-! ### Naming a task on a core (R334, R342) -/

/-- TASK of an operand word. -/
def wordTask (x : Word) : BitVec 6 := x.extractLsb' 0 6
/-- LCORE of an operand word. -/
def wordCore (x : Word) : Nat := (x.extractLsb' 16 10).toNat

/-- DETAIL of TASK_DENIED and SPAWN_FULL: TASK, LCORE and a reason (R334). -/
def taskDetail (x : Word) (reason : BitVec 2) : BitVec 56 :=
  0#38 ++ reason ++ BitVec.ofNat 10 (wordCore x) ++ wordTask x

/-- The task entry that an operand word names: TASK_DENIED for a core outside the node set, an invalid entry or another
compartment, in that order (R334, R342). A valid entry that another tenant owns names no task of the strand's tenant; R334's reasons
do not name it, and that it counts with the invalid entries (reason 0) is a DESIGN CHOICE (log 74). -/
def State.namedTask (s : State) (x : Word) : Raises TaskEntry := do
  let k := wordCore x
  let e := s.task k (wordTask x)
  need (s.inNodes s.ten k) cTaskDenied (taskDetail x 2)
  need ((s.partOf s.ten k).isSome && s.taskValid k e && e.tenant.toNat == s.ten) cTaskDenied (taskDetail x 0)
  need (e.comp == s.strand.comp) cTaskDenied (taskDetail x 1)
  .ok e

/-- SPAWN (R334). Bits 17:16 of SPAWN_FULL's DETAIL, a reason of TASK_DENIED, are 0: DESIGN CHOICE (log 96). -/
def execSpawn (a : XReg) (b : CReg) (s : State) : Out :=
  s.run (.spawn a b) fun s => do
    let t := s.strand
    let x := t.getX a
    let c := t.getC b
    need (!c.rev) cRevoked (capDetail (opC b))
    let e ← s.namedTask x
    let k := wordCore x
    let r : Bookmark :=
      { strand := { status := mkStatus s.ten e.comp }, kind := .new, gen := s.gen s.ten, bind := x.getLsbD 6, lcore := k
        prio := e.prio, task := wordTask x, warg := BitVec.ofNat 32 s.cur ++ x.extractLsb' 32 32
        arg := if c.tag then some { img := c.img, tag := true } else none, comp := some t.comp }
    match s.roomFor (k / 8) s.ten r.slots with
    | none => raise cSpawnFull (taskDetail x 0)
    | some room => .ok (s.adv.hold r .ready (k / 8) s.cycle room)

/-- TBLK and TUBLK: the blocked bit of a task entry (R342). -/
def State.setBlocked (s : State) (x : Word) (b : Bool) : Raises State := do
  let _ ← s.namedTask x
  .ok (s.adv.updCore (wordCore x) fun c =>
    { c with tasks := Table.upd c.tasks (wordTask x).toNat {} fun e => { e with blk := b } })

/-- TBLK (R342). -/
def execTblk (a : XReg) (s : State) : Out := s.run (.tblk a) fun s => s.setBlocked (s.strand.getX a) true
/-- TUBLK (R342). -/
def execTublk (a : XReg) (s : State) : Out := s.run (.tublk a) fun s => s.setBlocked (s.strand.getX a) false

/-! ### Inboxes (R335 to R337) -/

/-- An inbox descriptor (10 Table 10) at a place. -/
structure Inbox where
  base : Nat
  slots : Nat
  ring : Nat
  formed : Bool
  opened : Bool
  deriving DecidableEq, Repr

/-- The inbox of the partition whose bytes start at a place, of the given size (R335). -/
def State.inboxAt (s : State) (base size : Nat) : Inbox :=
  let log := (memGet s.mem (base + 36)).toNat
  let ring := memNat s.mem (base + 32) 4
  let en := memGet s.mem (base + 37)
  let reserved := memNat s.mem (base + 38) 2 == 0 && memNat s.mem (base + 44) 4 == 0 && memNat s.mem (base + 48) 16 == 0
  let formed := decide (2 ≤ log) && decide (log ≤ 10) && ring % 64 == 0 && decide (64 ≤ ring) && decide (ring + 64 * 2 ^ log ≤ size)
  { base, slots := 2 ^ log, ring, formed, opened := en == 1 && reserved && formed }

/-- The place of ARRIVAL. -/
def Inbox.arrival (b : Inbox) : Nat := b.base
/-- The place of FREE. -/
def Inbox.free (b : Inbox) : Nat := b.base + 16

/-- A record of doublewords written into a slot, every tag in it cleared (R337). -/
def State.putSlot (s : State) (place : Nat) (words : List Word) : State :=
  let v := packElems 64 (words.map (·.toNat))
  { s with mem := memPuts s.mem (cellsFrom place (natBytes 64 v)), tags := tagPut s.tags (place / 64) false }

/-- The place of the first byte of the partition a tenant holds on a core, and its size. -/
def State.partPlace (s : State) (t k : Nat) : Option (Nat × Nat) :=
  (s.partOf t k).map fun i => (Config.spadFlat + 0x20000 * k + i * partBytes (s.core k).pmode, partBytes (s.core k).pmode)

/-- The descriptor that an MSEND operand reaches: its core, its address and its partition (R337). -/
def State.inboxOperand (s : State) (b : CReg) : Raises (Nat × Nat × Nat × Nat) := do
  let t := s.strand
  let d ← checkHeld (t.getC b) t.comp (opC b)
  need (cFmt d == fByte && cRankm1 d == 0 && cExt d 0 == 64) cFormat (capDetail (opC b))
  need (grants d pInvoke) cPerm (capDetail (opC b))
  let va := cBase d
  match windowOf va with
  | .spad k o =>
    match s.partPlace s.ten k with
    | none => raise cMiss (vaDetail va)
    | some (base, size) => do
      need (decide (o + 63 < size)) cMiss (vaDetail va)
      need (o == 0) cXperm (vaDetail va)
      .ok (k, va, base, size)
  | .reserved => raise cMiss (vaDetail va)
  | _ => raise cXperm (vaDetail va)

/-- What an append answers (R337): appended, full, the inbox is closed, or ARRIVAL refuses. -/
inductive Append where
  | done (s : State) | full | closed | refused (s : State) (f : Trap)

/-- One indivisible append at the home (R337): CTR_WRAP when ARRIVAL refuses, nothing written, though the test of its waiters stands
(R263); MEM_INTEGRITY where the descriptor or the slot lies in a unit that fails (R200). -/
def State.append (s : State) (b : Inbox) (va : Nat) (words : List Word) : Raises Append :=
  if s.badAt b.base then raise cIntegrity (vaDetail va)
  else if !b.opened then .ok .closed
  else
    let arrival := s.cellVal b.arrival
    if decide (b.slots ≤ (arrival - s.cellVal b.free).toNat) then .ok .full
    else do
      let slot := b.base + b.ring + 64 * (arrival.toNat % b.slots)
      need (!s.badAt slot) cIntegrity (vaDetail va)
      let s := s.retest b.arrival
      match s.applyCell b.arrival va (arrival + 1) with
      | .ok s => .ok (.done ({ s with slotStamps := Table.set s.slotStamps slot s.cycle }.putSlot slot words))
      | .error f => .ok (.refused s f)

/-- The registers xa to xa + n that a message carries. -/
def msgWords (t : Strand) (a : XReg) (n : BitVec 3) : List Word :=
  (List.range (n.toNat + 1)).map fun j => t.getX (a + BitVec.ofNat 5 j)

/-- What a message does at an inbox, after the strand's own earlier stores to it (R293). -/
def State.atInbox (s : State) (base size : Nat) (f : State → Raises State) : Raises State :=
  s.ownFirst s.cur ((((s.core s.cur).posted.flatMap fun e => e.op.flats)).filter fun f =>
    decide (base ≤ f) && decide (f < base + size)) f

/-- MSEND: status 0, 1 or 2 in xd; at an absent partition 1, which starts its restore (R191, R337). -/
def execMsend (d : XReg) (b : CReg) (a : XReg) (n : BitVec 3) (s : State) : Out :=
  s.run (.msend d b a n) fun s => do
    let (k, va, base, size) ← s.inboxOperand b
    let words := msgWords s.strand a n
    let answer (s : State) (st : Word) : State := s.setStrand (s.strand.setX d st).next
    if s.absentOn s.ten k then .ok (answer (s.askRestore s.ten k) 1)
    else s.atInbox base size fun s => do
      match ← s.append (s.inboxAt base size) va words with
      | .done s => .ok (answer s 0)
      | .full => .ok (answer s 1)
      | .closed => .ok (answer s 2)
      | .refused s f => .ok (s.takeTrap f)

/-- MSEND.W: a full inbox ends the strand with wait kind SEND on FREE, whose home tests its waiters first (R263); an absent partition
holds the append (R337). -/
def execMsendW (b : CReg) (a : XReg) (n : BitVec 3) (s : State) : Out :=
  s.run (.msendW b a n) fun s => do
    let (k, va, base, size) ← s.inboxOperand b
    let words := msgWords s.strand a n
    if s.absentOn s.ten k then .ok (s.awaits va)
    else s.atInbox base size fun s => do
      let ib := s.inboxAt base size
      match ← s.append ib va words with
      | .done s => .ok s.adv
      | .full =>
        let thr := s.cellVal ib.arrival - w64 ib.slots + 1
        let s := s.retest ib.free
        s.keeping (s.endStrand .send false (saveC b) b thr false false (vaDetail (va + 16)) fun s id =>
          s.depositHeld id ib.free (va + 16) thr false)
      | .closed => raise cInboxClosed (vaDetail va)
      | .refused s f => .ok (s.takeTrap f)

/-! ### Ends of a strand -/

/-- YIELD: the bookmark enters the cluster's ready queue, unbound and freshly stamped (R338). -/
def execYield (s : State) : Out :=
  s.run .yield fun s => s.endStrand .yield false 0 0 0 false true 0 fun s _ => .ok s

/-- FIN: the strand ends without a bookmark, its streams released and its phase closed; its drain is spent in DRAINING (R332,
R339, R380). -/
def execFin (s : State) : Out :=
  s.run .fin fun s =>
    match s.drain s.cur with
    | .waits s => .ok (s.leaving .draining)
    | .failed _ cause va => raise cause (vaDetail va)
    | .done s => .ok (s.vacate s.cur .draining 0)

/-! ### SCALL (R340, R341) -/

/-- The next slip of a tenant's page and the page's slips after it was issued: fresh cells first, then collected ones in
turn (R341). -/
def Slips.issue (p : Slips) : Option (Nat × Slips) :=
  if p.next < Config.slipCells then some (p.next, { p with next := p.next + 1, used := p.used ++ [p.next] })
  else match p.collected with
    | n :: r => some (n, { p with used := p.used ++ [n], collected := r })
    | [] => none

/-- The tenant's queued calls (R340). -/
def State.queuedCalls (s : State) (t : Nat) : Nat :=
  (s.service.calls.filter fun c => c.tenant == t && c.fault.isNone).length

/-- SCALL: a call on the tenant's queue and its slip in cd, or null (R340). Where the slip page is not mapped as a cell needs, no slip is
free, nothing is submitted and cd is null: DEDUCED (log 34). -/
def execScall (d : CReg) (a : XReg) (b : CReg) (s : State) : Out :=
  s.run (.scall d a b) fun s => do
    let t := s.strand
    let c := t.getC b
    need (!c.rev) cRevoked (capDetail (opC b))
    let refuse : State := s.setStrand (t.setC d nullCap).next
    if Config.callEntries ≤ s.queuedCalls s.ten then .ok refuse
    else match (Table.get s.service.slips s.ten {}).issue with
      | none => .ok refuse
      | some (n, p) =>
        let va := (s.tenant s.ten).slippage + 16 * n
        match s.placeOf s.ten va needRW true va with
        | .error _ => .ok refuse
        | .ok place => do
          need (!s.badAt place.flat) cIntegrity (vaDetail va)
          let call : Call :=
            { id := s.nextId, tenant := s.ten, gen := s.gen s.ten, comp := t.comp, word := t.getX a, cap := c
              slip := some n, fault := none }
          let img := mkCap fCnt va 1 pKctr 0 t.comp 1
          let s := s.putWord place.flat 0
          let s := { s with
            nextId := s.nextId + 1
            service := { s.service with
              slips := Table.set s.service.slips s.ten p
              calls := s.service.calls ++ [call] } }
          .ok (s.setStrand (t.setC d { img, tag := true }).next)

end Sys2Proof.Machine
end

