-- ==== Sys2Proof/Machine/Jobs.lean ====
section
/-! DEFINITION. Matrix jobs: the descriptor, MJOB, the choice of the engine, k-steps and blocks, completion and stops (11
R354 to R374, 03 R103, R106). -/

namespace Sys2Proof.Machine

/-! ### The control granule (11 Table 1) -/

/-- M. -/
def jM (g : Vec) : Nat := (g.extractLsb' 128 32).toNat
/-- N. -/
def jN (g : Vec) : Nat := (g.extractLsb' 160 32).toNat
/-- K. -/
def jK (g : Vec) : Nat := (g.extractLsb' 192 32).toNat
/-- AFMT. -/
def jAfmt (g : Vec) : Nat := (g.extractLsb' 224 8).toNat
/-- BFMT. -/
def jBfmt (g : Vec) : Nat := (g.extractLsb' 232 8).toNat
/-- CFMT. -/
def jCfmt (g : Vec) : Nat := (g.extractLsb' 240 8).toNat
/-- SFMT. -/
def jSfmt (g : Vec) : Nat := (g.extractLsb' 248 8).toNat
/-- CLASS. -/
def jClass (g : Vec) : Nat := (g.extractLsb' 256 2).toNat
/-- ACC. -/
def jAcc (g : Vec) : Bool := g.getLsbD 258
/-- RM. -/
def jRm (g : Vec) : BitVec 2 := g.extractLsb' 260 2
/-- SAT. -/
def jSat (g : Vec) : Bool := g.getLsbD 262
/-- The reserved fields that software writes as 0. -/
def jReservedOk (g : Vec) : Bool :=
  g.extractLsb' 472 40 == 0 && g.extractLsb' 406 42 == 0 && g.extractLsb' 264 56 == 0 && !g.getLsbD 263 && !g.getLsbD 259

/-- A tile's rows and columns, for a native combination of weights and activations (11 Table 2). -/
def tileOf (a b : Nat) : Option (Nat × Nat) :=
  if isGroup b then (if a = 9 ∨ a = 10 then some (32, 32) else if a = 6 then some (16, 16) else none)
  else if b = 9 ∨ b = 10 then (if a = 9 ∨ a = 10 then some (32, 16) else none)
  else if a = 6 ∧ b = 6 then some (16, 16) else none

/-! ### MJOB (R359 to R364) -/

/-- Matrix engine e. -/
def State.mxe (s : State) (e : Nat) : MxEngine := Table.get s.mx e {}
/-- The state with f applied to matrix engine e. -/
def State.updMx (s : State) (e : Nat) (f : MxEngine → MxEngine) : State := { s with mx := Table.upd s.mx e {} f }

/-- A tenant's matrix weight at an engine. -/
def State.mxWeight (s : State) (t e : Nat) : Nat := (Table.get (s.tenant t).mxw e 0).toNat

/-- DETAIL of MJOB_FORMAT (R360). -/
def jobDetail (reason slot : Nat) : BitVec 56 := BitVec.ofNat 56 (slot * 256 + reason)

/-- The form of a job-port capability, but for its BASE (R361). -/
def portForm (c : Vec) : Bool :=
  cOty c == 0xFFF1 && cFmt c == fByte && cRankm1 c == 0 && cExt c 0 == 1

/-- The engine that a job port names, and its checks (R359, R361, R362). A BASE of which bits 55:7 are not zero names no engine, reason 3:
whether it breaks R361's form instead, reason 1, the spec does not say, DESIGN CHOICE (log 102). -/
def State.jobPort (s : State) (p : CapReg) (o : BitVec 5) : Raises Nat := do
  let e ← if p = nullCap then (pure (s.cur / 8) : Raises Nat) else do
    need (!p.rev) cRevoked (capDetail o)
    need p.tag cTag (capDetail o)
    need (cScp p.img == 2 || cOwn p.img == s.strand.comp) cScope (capDetail o)
    need (portForm p.img) cJobDenied 1
    need (grants p.img pInvoke) cJobDenied 2
    need (decide (cBase p.img < Config.clusters)) cJobDenied 3
    pure (cBase p.img)
  need (s.mxWeight s.ten e != 0) cJobDenied 4
  .ok e

/-- A granule read by an engine for a tenant; its revocation check may meet data that fails (R200, R359). -/
def State.engineGranule (s : State) (t va : Nat) : Raises (State × CapReg) := do
  let p ← s.placeOf t va needR false va
  let (s, img, tag) ← s.readGranule t va p
  need (!s.checkFails t tag img) cIntegrity (vaDetail va)
  .ok (s, { img, tag })

/-- The check of a slot image: steps 1 to 6 of R123, a marked region counting as revoked (R359). -/
def State.slotCheck (s : State) (slot : Nat) (form : Vec → Bool) (perm : BitVec 16) (c : CapReg) : Raises Unit := do
  let d := capDetail opMem 0 (BitVec.ofNat 48 slot)
  need (!(c.tag && s.revoked s.ten c.img)) cRevoked d
  need c.tag cTag d
  need (cScp c.img == 2 || cOwn c.img == s.strand.comp) cScope d
  need (cOty c.img == 0) cSealed d
  need (form c.img) cFormat d
  need (grants c.img perm) cPerm d

/-- The form of a pair capability (R356, R359). -/
def pairForm (c : Vec) : Bool :=
  cFmt c == fCap && cRankm1 c == 0 && cExt c 0 == 2 && cStr c 0 == 1 && cBase c % 64 == 0

/-- Any form. -/
def anyForm (_ : Vec) : Bool := true

/-- A code and a scale capability form a valid pair (R100). -/
def pairOk (code scale : Vec) : Bool :=
  cExt code 0 % 32 == 0 && cStr code 0 == 1 && cStr code 1 % 32 == 0 && cStr code 2 % 32 == 0 && cStr code 3 % 32 == 0 &&
  (cFmt scale == 9 || cFmt scale == 16) && cRankm1 scale == cRankm1 code && cExt scale 0 == cExt code 0 / 32 &&
  cExt scale 1 == cExt code 1 && cExt scale 2 == cExt code 2 && cExt scale 3 == cExt code 3

/-- A capability lies wholly in a scratchpad window of an engine's cluster, or in its vault window (R358). -/
def inPlace (e : Nat) (c : Vec) : Bool :=
  match windowOf (lowByte c).toNat, windowOf (highByte c).toNat with
  | .spad k _, .spad j _ => k == j && k / 8 == e
  | .vault v _, .vault w _ => v == w && v == e
  | _, _ => false

/-- Two capabilities' byte ranges overlap. -/
def overlaps (a b : Vec) : Bool := decide (lowByte a ≤ highByte b) && decide (lowByte b ≤ highByte a)

/-- The operands of a job with their slot numbers, in the order of the checks; the format each must have and the extents
that R356 gives where it gives them. -/
def slotList (g : Vec) (a b code scale cc : Vec) : List (Nat × Vec × Nat × Option (Nat × Nat)) :=
  [(1, a, jAfmt g, some (jK g, jM g))] ++
  (if isGroup (jBfmt g) then [(4, code, jBfmt g, some (jK g, jN g)), (5, scale, jSfmt g, none)]
    else [(2, b, jBfmt g, some (jK g, jN g))]) ++
  [(3, cc, jCfmt g, some (jN g, jM g))]

/-- The format and shape checks of one slot: reasons 8, 3 and 4 (R360). -/
def slotShape (x : Nat × Vec × Nat × Option (Nat × Nat)) : Raises Unit := do
  need (decide (cRankm1 x.2.1 ≤ 1)) cJobFormat (jobDetail 8 x.1)
  need (cFmt x.2.1 == x.2.2.1) cJobFormat (jobDetail 3 x.1)
  need (match x.2.2.2 with
    | some (e0, e1) => cExt x.2.1 0 == e0 && cExt x.2.1 1 == e1
    | none => true) cJobFormat (jobDetail 4 x.1)

/-- The bytes of an operand's elements, as runs from a first to a last address: a row along axis 0 where its elements lie side by side,
else an element (R117). -/
def byteRuns (c : Vec) : List (Nat × Nat) :=
  let n := if isGroup (cFmt c) then groupBytes (cFmt c) else sizeOf (cFmt c)
  if isGroup (cFmt c) || cStr c 0 == 1 then
    let last := if isGroup (cFmt c) then 32 * ((cExt c 0 - 1) / 32) else cExt c 0 - 1
    (List.range (cExt c 1 * cExt c 2 * cExt c 3)).map fun q =>
      let j := (q % cExt c 1, q / cExt c 1 % cExt c 2, q / (cExt c 1 * cExt c 2))
      (elemAddr c (0, j.1, j.2.1, j.2.2), elemAddr c (last, j.1, j.2.1, j.2.2) + (n - 1))
  else (List.range (cCount c)).map fun q => let a := elemAddr c (decompose c q); (a, a + (n - 1))

/-- The lowest byte of an operand's elements in a window that the tenant does not hold, if any (R189, R193, R359): a partition is held
whole, a vault in blocks of 64 KiB. -/
def State.unheldByte (s : State) (c : Vec) : Option Nat :=
  let unheld (va : Nat) : Bool := match s.placeOf s.ten va needR false va with
    | .ok _ => false
    | .error _ => true
  ((byteRuns c).filterMap fun r =>
    ((List.range (r.2 / 0x8000 - r.1 / 0x8000 + 1)).map fun i => max r.1 ((r.1 / 0x8000 + i) * 0x8000)).find? unheld).min?

/-- MJOB's answer when the job is accepted, which is also its JOBID (R363). -/
def jobAnswer (e : Nat) (seq : BitVec 16) : Word := 1#1 ++ 0#40 ++ BitVec.ofNat 7 e ++ seq

/-- Bytes written by an engine for a tenant, tags cleared (R120). -/
def State.engineWrite (s : State) (t va : Nat) (bs : List Byte) : Raises State := do
  let ps ← s.placesOf t va bs.length needW
  s.writePlaces t va (ps.zip bs)

/-- MJOB (R359 to R364): it waits resident for a partition that is absent and holds its descriptor or its pair (R191). The place of the
pair of a group-scaled B is tested last, after C's: R360's order of slots does not name the pair, DESIGN CHOICE (log 103). -/
def execMjob (d : XReg) (ce ck : CReg) (s : State) : Out :=
  s.run (.mjob d ce ck) fun s => s.afterDrain fun s => do
    let st := s.strand
    let img ← checkOpnd (st.getC ce) st.comp (opC ce) (byteForm 256) (pLd ||| pSt ||| pLdc ||| pKctr)
    let base := cBase img
    need (base % 256 == 0) cFormat (capDetail (opC ce))
    let e ← s.jobPort (st.getC ck) (opC ck)
    if s.heldAt s.ten base then .ok (s.awaits base)
    else do
      let (s, g) ← s.engineGranule s.ten base
      let (s, a) ← s.engineGranule s.ten (base + 64)
      let (s, b) ← s.engineGranule s.ten (base + 128)
      let (s, cc) ← s.engineGranule s.ten (base + 192)
      let g := g.img
      let group := isGroup (jBfmt g)
      need (jReservedOk g && (jCfmt g == 6 || jCfmt g == 7 || jCfmt g == 8) &&
        (if group then jSfmt g == 9 || jSfmt g == 16 else jSfmt g == 0)) cJobFormat (jobDetail 1 0)
      need (tileOf (jAfmt g) (jBfmt g)).isSome cJobFormat (jobDetail 2 0)
      need (decide (1 ≤ jM g) && decide (jM g ≤ 65536) && decide (1 ≤ jN g) && decide (jN g ≤ 65536) &&
        decide (1 ≤ jK g) && decide (jK g ≤ 1048576)) cJobFormat (jobDetail 4 0)
      s.slotCheck 1 anyForm (pMop ||| pLd) a
      s.slotCheck 2 (if group then pairForm else anyForm) (if group then pLd ||| pLdc else pMop ||| pLd) b
      if group && s.heldAt s.ten (cBase b.img) then .ok (s.awaits (cBase b.img))
      else do
        let (s, code, scale) ← if group then do
            let (s, code) ← s.engineGranule s.ten (cBase b.img)
            let (s, scale) ← s.engineGranule s.ten (cBase b.img + 64)
            s.slotCheck 4 anyForm (pMop ||| pLd) code
            s.slotCheck 5 anyForm (pMop ||| pLd) scale
            pure (s, code, scale)
          else pure (s, b, ({} : CapReg))
        s.slotCheck 3 anyForm (if jAcc g then pMop ||| pSt ||| pLd else pMop ||| pSt) cc
        let slots := slotList g a.img b.img code.img scale.img cc.img
        slots.forM slotShape
        need (!group || pairOk code.img scale.img) cJobFormat (jobDetail 5 2)
        let places := [(0, img)] ++ slots.map (fun x => (x.1, x.2.1)) ++ (if group then [(2, b.img)] else [])
        places.forM fun x => need (inPlace e x.2) cJobFormat (jobDetail 6 x.1)
        need (slots.all fun x => x.1 == 3 || !overlaps cc.img x.2.1) cJobFormat (jobDetail 7 3)
        places.forM fun x => match s.unheldByte x.2 with
          | some va => raise cMiss (vaDetail va)
          | none => .ok ()
        let answer (s : State) (v : Word) : Raises State := .ok (s.setStrand (s.strand.setX d v).next)
        let here := s.jobs.filter fun j => j.engine == e
        if 16 ≤ (here.filter fun j => j.tenant == s.ten).length then answer s 1
        else if 64 ≤ here.length then answer s 2
        else if jClass g = 0 && here.any (fun j => jClass j.control == 0) then answer s 3
        else if jClass g = 0 && !(s.tenant s.ten).class0.getLsbD e then answer s 4
        else do
          let seq := (s.mxe e).count
          let id := jobAnswer e seq
          let s ← s.engineWrite s.ten (base + 40) (natBytes 8 id.toNat ++ [1, 0, 0])
          let s ← s.engineWrite s.ten (base + 56) [0, 0, 0]
          let j : Job :=
            { id := s.nextId, engine := e, seq, tenant := s.ten, gen := s.gen s.ten, comp := s.strand.comp
              desc := { img, tag := true }, control := g, a, b := code, scale, cc
              pair := if group then b else {}, accepted := s.cycle / 2, lastRun := s.cycle / 2 }
          let s := { s with jobs := s.jobs ++ [j], nextId := s.nextId + 1 }.updMx e fun m => { m with count := m.count + 1 }
          answer s id

/-! ### Blocks and k-steps (R365) -/

/-- Blocks across C. -/
def Job.across (j : Job) : Nat := ceilDiv (jN j.control) 128
/-- Blocks of C. -/
def Job.blocks (j : Job) : Nat := j.across * ceilDiv (jM j.control) 128
/-- The first row of the current block. -/
def Job.row0 (j : Job) : Nat := 128 * (j.block / j.across)
/-- The first column of the current block. -/
def Job.col0 (j : Job) : Nat := 128 * (j.block % j.across)
/-- The rows of the current block. -/
def Job.rows (j : Job) : Nat := min 128 (jM j.control - j.row0)
/-- The columns of the current block. -/
def Job.cols (j : Job) : Nat := min 128 (jN j.control - j.col0)
/-- The k-steps of a block. -/
def Job.ksteps (j : Job) : Nat := ceilDiv (jK j.control) 32
/-- The m-cycles of a k-step of the current block. -/
def Job.stepCycles (j : Job) : Nat :=
  let t := (tileOf (jAfmt j.control) (jBfmt j.control)).getD (16, 16)
  ceilDiv j.rows t.1 * ceilDiv j.cols t.2
/-- The job has loaded a bank (R368). -/
def Job.started (j : Job) : Bool := j.bank != .notStarted
/-- The job holds a bank. -/
def Job.inBank (j : Job) : Bool := match j.bank with | .bank _ => true | _ => false

/-- Bytes read by an engine at an element of a tenant's capability. -/
def State.engineRead (s : State) (t va n : Nat) : Raises Nat := do
  let ps ← s.placesOf t va n needR
  let (_, bs) ← s.readPlaces t va ps
  .ok (bytesNat bs)

/-- An element of a rank-2 operand. -/
def State.readElem (s : State) (t : Nat) (c : Vec) (i0 i1 : Nat) : Raises FVal := do
  let v ← s.engineRead t (elemAddr c (i0, i1, 0, 0)) (sizeOf (cFmt c))
  .ok (decodeFp ((ffmt (cFmt c)).getD fp32) v)

/-- The weight B[k, n]: of a group-scaled format its code under its group's scale (R101 to R103). -/
def State.readWeight (s : State) (j : Job) (k n : Nat) : Raises FVal :=
  let f := jBfmt j.control
  if isGroup f then do
    let g ← s.engineRead j.tenant (elemAddr j.b.img (k, n, 0, 0)) (groupBytes f)
    let sc ← s.engineRead j.tenant (elemAddr j.scale.img (k / 32, n, 0, 0)) 1
    .ok (groupVal f (jSfmt j.control == 16) (groupCode f g (k % 32)) sc)
  else s.readElem j.tenant j.b.img k n

/-- A value or +0 beyond K. -/
def upTo (bound i : Nat) (r : Raises FVal) : Raises FVal := if i < bound then r else .ok (.fin { neg := false, m := 0, e := 0 })

/-- The accumulator values that a block starts from (R365 step 1). -/
def State.startAcc (s : State) (j : Job) : Raises (List (BitVec 32)) :=
  (List.range (j.rows * j.cols)).mapM fun i =>
    if jAcc j.control then do
      let c := j.cc.img
      let v ← s.engineRead j.tenant (elemAddr c (j.col0 + i % j.cols, j.row0 + i / j.cols, 0, 0)) (sizeOf (cFmt c))
      if cFmt c = 8 then .ok (BitVec.ofNat 32 v)
      else .ok (BitVec.ofNat 32 (writeFp fp32 .rne false (decodeFp ((ffmt (cFmt c)).getD fp32) v)).1)
    else .ok 0

/-- One k-step applied to a block (R365 step 2, R106): the accumulator values and the flags raised. -/
def State.kstep (s : State) (j : Job) : Raises (List (BitVec 32) × Flags) := do
  let ks := (List.range 32).map (32 * j.kstep + ·)
  let bound := jK j.control
  let as ← (List.range j.rows).mapM fun r => ks.mapM fun k => upTo bound k (s.readElem j.tenant j.a.img k (j.row0 + r))
  let bs ← (List.range j.cols).mapM fun c => ks.mapM fun k => upTo bound k (s.readWeight j k (j.col0 + c))
  let products (i : Nat) : List (FVal × Flags) :=
    ((as.getD (i / j.cols) []).zip (bs.getD (i % j.cols) [])).map fun p => mulVal p.1 p.2
  let rs := (List.range (j.rows * j.cols)).map fun i => accStep (j.acc.getD i 0).toNat (products i)
  .ok (rs.map fun r => BitVec.ofNat 32 r.1, rs.foldl (fun f r => f ||| r.2) 0)

/-- A write of a job into a unit that fails, as it is logged: by the core or the vault that holds the address (R198, R471). -/
def State.logLost (s : State) (j : Job) (va : Nat) (cause : BitVec 8) : State :=
  let u : BitVec 8 × BitVec 16 := match windowOf va with
    | .spad k o => unitAt (Config.spadFlat + 0x20000 * k + o)
    | .vault v o => unitAt (Config.vaultFlat + 0x200000 * v + o)
    | _ => (0xFF, BitVec.ofNat 16 j.engine)
  s.logAt 0x03 u.1 u.2 (some j.tenant) (w64 va) (cause.setWidth 64)

/-- Element i of the current block converted and written to C (R365 step 3, R367): the state and the flags raised. A write that
fails is discarded and logged, and stops no job (R198, 11 Table 9). -/
def State.writeElem (s : State) (j : Job) (i : Nat) : State × Flags :=
  let c := j.cc.img
  let v := (j.acc.getD i 0).toNat
  let r := if cFmt c = 8 then (v, 0)
    else writeFp ((ffmt (cFmt c)).getD fp32) (modeOf (jRm j.control)) (jSat j.control) (decodeFp fp32 v)
  let va := elemAddr c (j.col0 + i % j.cols, j.row0 + i / j.cols, 0, 0)
  match s.engineWrite j.tenant va (natBytes (sizeOf (cFmt c)) r.1) with
  | .ok s => (s, r.2)
  | .error f => (s.logLost j va f.cause, r.2)

/-- Elements of a 4 KiB chunk of C (R367). -/
def Job.chunk (j : Job) : Nat := 4096 / sizeOf (cFmt j.cc.img)

/-- Elements of the current block. -/
def Job.elems (j : Job) : Nat := j.rows * j.cols

/-- The next chunk of the current block written (R367). -/
def State.writeChunk (s : State) (j : Job) : State × Flags :=
  (List.range (min j.chunk (j.elems - j.wrote))).foldl (fun (acc : State × Flags) i =>
    let r := acc.1.writeElem j (j.wrote + i)
    (r.1, acc.2 ||| r.2)) (s, 0)

/-! ### The end of a job (R367, R372) -/

/-- STATE, CAUSE and FLAGS, and BLOCKS, written into the control granule. -/
def State.jobRecord (s : State) (j : Job) (state : Byte) (cause : BitVec 8) : State :=
  let base := cBase j.desc.img
  let put (s : State) (va : Nat) (bs : List Byte) : State :=
    match s.engineWrite j.tenant va bs with
    | .ok s => s
    | .error _ => s
  put (put s (base + 48) [state, cause, j.flags.setWidth 8]) (base + 56) (natBytes 3 j.block)

/-- Whether a job may run: it has started, or R368 permits it to start. -/
def startable (js : List Job) (j : Job) : Bool :=
  j.started || jClass j.control == 0 || decide ((js.filter fun o => o.started && jClass o.control != 0).length < 3)

/-- The turn of a tenant that has no startable or started job at an engine has ended there (R371). -/
def State.noteTurn (s : State) (e : Nat) : State :=
  let js := s.jobs.filter fun j => j.engine == e
  if js.any fun j => j.tenant == (s.mxe e).turn && startable js j then s else s.updMx e fun m => { m with turnCycles := 8192 }

/-- The job's record leaves its engine. -/
def State.dropJob (s : State) (j : Job) : State :=
  { s with jobs := s.jobs.filter fun o => o.id != j.id }.noteTurn j.engine

/-- A job ends with STATE and CAUSE and its completion add; a refused add writes STATE 3 and CTR_WRAP instead (R367,
R372), and one in a failing unit is discarded and logged (R198). A job whose descriptor is being revoked writes nothing and adds nothing. -/
def State.endJob (s : State) (j : Job) (state : Byte) (cause : BitVec 8) : State :=
  let s := s.dropJob j
  if j.revokedDesc then s
  else
    let s := s.jobRecord j state cause
    let va := cBase j.desc.img
    match s.placeOf j.tenant va needRW true va with
    | .error _ => s
    | .ok p =>
      if s.badAt p.flat then s.logLost j va cIntegrity
      else
        let s := s.retest p.flat
        match s.applyCell p.flat va (s.cellVal p.flat + 1) with
        | .ok s => s
        | .error _ => s.jobRecord j 3 cWrap

/-- A capability of a job lies in an absent partition: the job's accesses to it are held (R502). -/
def State.capHeld (s : State) (j : Job) (c : CapReg) : Bool := c.tag && s.heldAt j.tenant (cBase c.img)

/-- The record and the completion add of a job are held: its descriptor lies in an absent partition (R502). -/
def State.descHeld (s : State) (j : Job) : Bool := !j.revokedDesc && s.capHeld j j.desc

/-- The state with a job replaced. -/
def State.setJob (s : State) (j : Job) : State := { s with jobs := updWhere s.jobs (fun o => o.id == j.id) fun _ => j }

/-- A job stopped for a cause, once its record can be written (R372, R502). -/
def State.stopJob (s : State) (j : Job) : State := if s.descHeld j then s.setJob { j with due := 0 } else s.endJob j 3 j.stop

/-! ### The choice (R368 to R371) -/

/-- The m-cycles a job has waited (R369). -/
def State.jobWaited (s : State) (j : Job) : Nat := s.cycle / 2 - max j.accepted j.lastRun

/-- The effective class (R369). -/
def State.effClass (s : State) (j : Job) : Nat :=
  let w := s.jobWaited j
  max 1 (jClass j.control - (if 65536 ≤ w then 1 else 0) - (if 262144 ≤ w then 1 else 0))

/-- The first of two by an order in which the second must be strictly better. -/
def better {α : Type} (lt : α → α → Bool) (best : Option α) (x : α) : Option α :=
  match best with
  | none => some x
  | some b => if lt x b then some x else some b

/-- The tenant whose turn it is next: largest deficit, ties to the current tenant, then the lower identifier. -/
def MxEngine.nextTenant (m : MxEngine) (ts : List Nat) : Option Nat :=
  ts.foldl (better fun x b =>
    let dx := Table.get m.deficit x 0
    let db := Table.get m.deficit b 0
    decide (db < dx) || (dx == db && b != m.turn && (x == m.turn || decide (x < b)))) none

/-- Every k-step of the job's block is done, and the block is being written. -/
def Job.writing (j : Job) : Bool := j.started && j.kstep == j.ksteps

/-- The job's last block is being written: it has no k-step left, and another job may run (11 Table 8). -/
def Job.lastWrite (j : Job) : Bool := j.writing && j.block + 1 == j.blocks

/-- The job an engine runs next (R369): one whose block is being written stays the choice until its last k-step is done. -/
def State.chooseJob (s : State) (e : Nat) : Option Job :=
  let js := s.jobs.filter fun j => j.engine == e && !j.lastWrite
  let m := s.mxe e
  let run := js.filter (startable (s.jobs.filter fun j => j.engine == e))
  match js.find? fun j => jClass j.control == 0 with
  | some j => some j
  | none =>
    let mine := run.any fun j => j.tenant == m.turn
    let t? := if m.turnCycles < 8192 && mine then some m.turn else m.nextTenant (run.map (·.tenant))
    t?.bind fun t =>
      (run.filter fun j => j.tenant == t).foldl (better fun x b =>
        let ex := s.effClass x
        let eb := s.effClass b
        decide (ex < eb) || (ex == eb && m.running != some b.id && (m.running == some x.id ||
          decide (x.accepted < b.accepted)))) none

/-- M-cycles from one on charged to a tenant at an engine, each once whatever the tenant's jobs do in it (R371). -/
def State.chargeMx (s : State) (e t first cycles : Nat) : State :=
  s.updMx e fun m =>
    let charged (i : Nat) : Bool := m.busy.any fun b => b.1 == t && decide (b.2.1 ≤ i) && decide (i < b.2.2)
    let n := (List.range cycles).countP fun i => !charged (first + i)
    { m with
      deficit := Table.upd m.deficit t 0 fun d => clampInt 65536 (d - n)
      turnCycles := if t = m.turn then m.turnCycles + n else m.turnCycles
      busy := (m.busy.filter fun b => decide (s.cycle / 2 < b.2.2)) ++ [(t, first, first + cycles)] }

/-- The m-cycles in which an engine moves bytes of a bank for a job: at 256 bytes each at the least, for a class-0 job at 128, and for
another as long as the other traffic of the cluster makes it, the n-th of the free times (R370, R501; log 12). -/
def State.moveCycles (s : State) (j : Job) (bytes n : Nat) : Nat :=
  let least := ceilDiv bytes 256
  least + (if jClass j.control = 0 then s.delay n % (least + 1) else s.delay n)

/-- The m-cycles in which a bank of 64 KiB moves for a job, the n-th of the free times (R368). -/
def State.bankCycles (s : State) (j : Job) (n : Nat) : Nat := s.moveCycles j 65536 n

/-- The m-cycles in which the first operands of a job that the array has not run last are read (11 Table 7, Table 8; log 12). -/
def State.firstCycles (s : State) (j : Job) : Nat :=
  if (s.mxe j.engine).running = some j.id then 0 else if jClass j.control = 0 then 1 + s.delay 7 % 128 else s.openTime

/-- A bank of an engine that no job holds. -/
def State.spareBank (s : State) (e : Nat) : Option Nat :=
  [0, 1].find? fun n => !(s.jobs.any fun o => o.engine == e && o.bank == .bank n)

/-- The job whose bank is spilled for another: the started one of least urgent effective class that is not running and whose block is not
being written, the later accepted of equals (R368). -/
def State.bankVictim (s : State) (j : Job) : Option Job :=
  (s.jobs.filter fun o => o.engine == j.engine && o.inBank && o.id != j.id && !o.writing).foldl (better fun x b =>
    let ex := if jClass x.control = 0 then 0 else s.effClass x
    let eb := if jClass b.control = 0 then 0 else s.effClass b
    decide (eb < ex) || (ex == eb && decide (b.accepted ≤ x.accepted))) none

/-- Whether the accumulator spill area of an engine holds an image (R368). -/
def State.imageAt (s : State) (e n : Nat) : Bool := s.jobs.any fun o => o.engine == e && o.bank == .spilled n

/-- A job holds a bank or can have one: one is free, or a bank can be spilled and the spill area, which has room for two images, has one
free (R368). While both banks hold blocks that are being written, or the area is full, it waits for the end of a write (log 12). -/
def State.bankReady (s : State) (j : Job) : Bool :=
  j.inBank || (s.spareBank j.engine).isSome ||
    ((s.bankVictim j).isSome && !(s.imageAt j.engine 0 && s.imageAt j.engine 1))

/-- A bank for a job at its engine: one that is free, or that of the victim, spilled (R368); with the m-cycles of the spill. -/
def State.freeBank (s : State) (j : Job) : State × Nat × Nat :=
  match s.spareBank j.engine, s.bankVictim j with
  | some n, _ => (s, n, 0)
  | none, none => (s, 0, 0)
  | none, some v =>
    let image := if s.imageAt j.engine 0 then 1 else 0
    let n := match v.bank with | .bank n => n | _ => 0
    let took := s.bankCycles j 4
    ((s.setJob { v with bank := .spilled image }).chargeMx j.engine v.tenant (s.cycle / 2) took, n, took)

/-- The chosen job has its bank, restored when it was spilled, and loaded for its block (R365, R368), and the m-cycles that took. -/
def State.bankJob (s : State) (j : Job) : Raises (State × Job × Nat) := do
  let now := s.cycle / 2
  let (s, j, n) : State × Job × Nat := match j.bank with
    | .bank _ => (s, j, 0)
    | .spilled _ =>
      let r := s.freeBank j
      let took := r.1.bankCycles j 5
      (r.1.chargeMx j.engine j.tenant (now + r.2.2) took, { j with bank := .bank r.2.1 }, r.2.2 + took)
    | .notStarted =>
      let r := s.freeBank j
      (r.1, { j with bank := .bank r.2.1 }, r.2.2)
  if !j.acc.isEmpty then .ok (s.setJob j, j, n)
  else do
    let acc ← s.startAcc j
    let load := if jAcc j.control then s.moveCycles j (4 * j.elems) 6 else 0
    .ok ((s.setJob { j with acc }).chargeMx j.engine j.tenant (now + n) load, { j with acc }, n + load)

/-- The capabilities of a job. -/
def Job.caps (j : Job) : List CapReg := [j.desc, j.a, j.b, j.scale, j.cc, j.pair]

/-- A capability of the job lies in an absent partition: its accesses are held (R502). -/
def State.jobHeld (s : State) (j : Job) : Bool := j.caps.any (s.capHeld j)

/-- A block has been written: it counts, and a cause stops the job, or the job ends with its last block, once its record can be written
(R365, R367, R372, R502). -/
def State.blockDone (s : State) (j : Job) : State :=
  let next := { j with block := j.block + 1, kstep := 0, wrote := 0, acc := [], due := 0 }
  if next.stop = 0 ∧ next.block ≠ next.blocks then s.setJob next
  else if s.descHeld j then s.setJob { j with due := 0 }
  else if next.stop ≠ 0 then s.stopJob next
  else s.endJob next 2 0

/-- What a job did is over at its boundary: a k-step, after which a cause stops it; a chunk; or a block's last chunk (R365, R367,
R372). -/
def State.finishStep (s : State) (j : Job) : State :=
  let j := { j with due := 0 }
  if j.wrote = 0 then (if j.stop = 0 then s.setJob j else s.stopJob j)
  else if j.wrote < j.elems then s.setJob j
  else s.blockDone j

/-- A job whose block's k-steps are done writes the next 4 KiB of it (R367), or ends where its end was held (R502). -/
def State.writeOn (s : State) (j : Job) : State :=
  if j.elems ≤ j.wrote then s.blockDone j
  else if s.capHeld j j.cc then s
  else
    let r := s.writeChunk j
    let n := min j.chunk (j.elems - j.wrote)
    let took := s.moveCycles j (n * sizeOf (cFmt j.cc.img)) 6
    (r.1.fresher.setJob { j with flags := j.flags ||| r.2, wrote := j.wrote + n, due := s.cycle + 2 * took }).chargeMx j.engine
      j.tenant (s.cycle / 2) took

/-- The chosen job runs one k-step, whose boundary falls when its m-cycles and those of the banks moved for it have passed (R365,
R371); a read that fails stops it there (R372). A class-0 job takes no tenant's turn (R369, R371). -/
def State.runJob (s : State) (j : Job) : State :=
  let e := j.engine
  let first := s.firstCycles j
  let s := s.updMx e fun m =>
    if jClass j.control = 0 then { m with running := some j.id }
    else
      { m with
        turnCycles := if m.turn = j.tenant && decide (m.turnCycles < 8192) then m.turnCycles else 0, turn := j.tenant
        running := some j.id }
  match s.bankJob j with
  | .error f => (s.noteConsumed j.tenant (8 * e) f.cause f.detail).stopJob { j with stop := f.cause }
  | .ok (s, j, moved) =>
    let s := s.fresher.chargeMx e j.tenant (s.cycle / 2 + moved) (first + j.stepCycles)
    let due := s.cycle + 2 * (moved + first + j.stepCycles)
    match s.kstep j with
    | .error f => (s.noteConsumed j.tenant (8 * e) f.cause f.detail).setJob { j with stop := f.cause, due }
    | .ok (acc, fl) => s.setJob { j with acc, flags := j.flags ||| fl, kstep := j.kstep + 1, lastRun := due / 2, due }

/-- The jobs of an engine. -/
def State.jobsAt (s : State) (e : Nat) : List Job := s.jobs.filter fun j => j.engine == e

/-- The array of an engine is held: a k-step, or the bank moves before it, is not over; it is no chunk that is being written. -/
def State.arrayHeld (s : State) (e : Nat) : Bool := (s.jobsAt e).any fun j => j.due != 0 && j.wrote == 0

/-- A job is due at a c-cycle: what it does ends by then. -/
def Job.ends (j : Job) (cycle : Nat) : Bool := j.due != 0 && decide (j.due ≤ cycle)

/-- KSTEP_BOUNDARY: what ends at an engine in this c-cycle is over, stops that were held are made, blocks are written on, and once the
array is free the engine chooses the job that runs next, and it runs a k-step (R365 to R371). -/
def execKstepBoundary (engine : Nat) (s : State) : Out :=
  let s := ((s.jobsAt engine).filter (·.ends s.cycle)).foldl (fun s j => s.finishStep j) s
  let s := ((s.jobsAt engine).filter fun j => j.due == 0 && j.stop != 0 && j.wrote == 0).foldl (fun s j => s.stopJob j) s
  let s := ((s.jobsAt engine).filter fun j => j.writing && j.due == 0).foldl (fun s j => s.writeOn j) s
  let s := s.noteTurn engine
  if s.arrayHeld engine then .next s
  else match s.chooseJob engine with
    | some j => s.event (!j.writing && !s.jobHeld j && s.bankReady j) fun s => s.runJob j
    | none => .next s

/-- A boundary of an engine has something to do for a job that is not timed. -/
def State.jobReady (s : State) (j : Job) : Bool :=
  j.due == 0 && (if j.stop != 0 && j.wrote == 0 || decide (j.elems ≤ j.wrote) && j.writing then !s.descHeld j
    else if j.writing then !s.capHeld j j.cc else !s.jobHeld j && !s.arrayHeld j.engine && s.bankReady j)

/-! ### What jobs reach (R370, R502) -/

/-- A capability reaches the addresses from lo to hi - 1. -/
def CapReg.reaches (c : CapReg) (lo hi : Nat) : Bool :=
  c.tag && decide (lowByte c.img < (hi : Int)) && decide ((lo : Int) ≤ highByte c.img)

/-- A class-0 job reaches the partition of tenant t on core k (R370). -/
def State.class0Reaches (s : State) (t k : Nat) : Bool :=
  let lo := 0xF0 * 2 ^ 48 + k * 0x20000
  s.jobs.any fun j => j.tenant == t && jClass j.control == 0 && j.caps.any fun c => c.reaches lo (lo + 0x20000)

/-- MATRIX_DEFICIT_RAISE: 16 times the tenant's weight at each engine, a tenant without a job there brought down to 0; in
the c-cycles that are multiples of 8,192 (R371, R503). -/
def execMatrixDeficitRaise (s : State) : Out :=
  s.event (s.cycle % 8192 == 0 && !s.raised.getLsbD 2) fun s =>
    { s with raised := putBit s.raised 2 true, mx := s.mx.map fun m =>
        let ts := s.tenants.map (·.1)
        (m.1, { m.2 with deficit := ts.foldl (fun d t =>
          Table.upd d t 0 fun v =>
            let v := clampInt 65536 (v + 16 * s.mxWeight t m.1)
            if 0 < v ∧ !(s.jobs.any fun j => j.engine == m.1 && j.tenant == t) then 0 else v) m.2.deficit }) }

end Sys2Proof.Machine
end

