-- ==== Sys2Proof/Machine/Sweeps.lean ====
section
/-! DEFINITION. The sweeps of the weeding engine, phase by phase (12 R412 to R418, 07 R257, 08 R276, 10 R318, 11 R372). -/

namespace Sys2Proof.Machine

/-! ### The requests of the running sweep -/

/-- A request of the running sweep, whose tenant has not been reset since (R416, R418). -/
def State.covers (s : State) (w : WeedReq) : Bool := w.swept && !w.withdrawn && w.gen == s.gen w.tenant

/-- The tenants of the running sweep. -/
def State.covered (s : State) (t : Nat) : Bool := s.weeds.any fun w => w.tenant == t && s.covers w

/-- The addresses of a region's pages of 4 KiB. -/
def WeedReq.pageVas (w : WeedReq) : List Nat := (List.range (w.len / 4096)).map fun i => w.base + 4096 * i

/-- The 4 KiB pages of program memory that a region's pages lie in (R412, R416). -/
def State.regionPages (s : State) (w : WeedReq) : List Nat :=
  w.pageVas.filterMap fun va =>
    match s.walk w.tenant va with
    | .ok l =>
      let p := (pteFrame l.pte + (va - l.base)) / 4096
      if pteTgt l.pte = 0 ∧ p < 0x2F00000 then some p else none
    | .error _ => none

/-- The place of the byte of the bitmap that holds bit p (R412). -/
def bitmapAt (p : Nat) : Nat := Config.bitmapBase + p / 8

/-- Bit p of the revocation bitmap written. -/
def setMark (m : List Host.Cell) (p : Nat) (b : Bool) : List Host.Cell :=
  memPut m (bitmapAt p) (putBit (memGet m (bitmapAt p)) (p % 8) b)

/-! ### Data that fails (R198, R200) -/

/-- Data at a place that the weeding engine or a dispatcher consumes and that fails: no strand and no command reads it, so that it is
logged and raised nowhere (R200, 14 Table 14 kind 0x02): DESIGN CHOICE (log 98). -/
def State.noteFailing (s : State) (t flat va : Nat) : State :=
  s.logAt 0x02 (unitAt flat).1 (unitAt flat).2 (some t) (w64 va) (cIntegrity.setWidth 64)

/-- The place that the test of an address's page reads: its byte of the bitmap, or the root of the tables whose walk fails. -/
def State.testPlace (s : State) (t va : Nat) : Nat :=
  match s.leafOf t va with
  | .ok l => bitmapAt (l.page va)
  | .error _ => (s.tenant t).ptroot

/-- The tests of images of a tenant against the marked region, as far as they read data that fails. -/
def State.noteTests (s : State) (t : Nat) (imgs : List Vec) : State :=
  imgs.foldl (fun s img => (s.testFails t img).foldl (fun s va => s.noteFailing t (s.testPlace t va) va) s) s

/-- The walks of a region's pages that read an entry which fails. -/
def State.noteWalks (s : State) (w : WeedReq) : State :=
  (w.pageVas.filter fun va => s.walk w.tenant va == .error cIntegrity).foldl
    (fun s va => s.noteFailing w.tenant (s.tenant w.tenant).ptroot va) s

/-- A bit of the bitmap set for a tenant: into a unit that fails nothing is written, and the loss is logged (R198). -/
def State.mark (s : State) (t p : Nat) : State :=
  if s.badAt (bitmapAt p) then s.noteFailing t (bitmapAt p) (bitmapAt p) else { s with mem := setMark s.mem p true }

/-! ### Phase 1 -/

/-- SWEEP_MARK: a sweep of every request accepted so far starts, marks their pages and sets the flags of their tenants
(R416). -/
def execSweepMark (s : State) : Out :=
  s.event (s.sweep == .none && !s.weeds.isEmpty) fun s =>
    let s := { s with weeds := s.weeds.map (fun (w : WeedReq) => { w with swept := true }), sweep := .marked }
    let s := s.weeds.foldl (fun u w => (s.regionPages w).foldl (fun u p => u.mark w.tenant p) (u.noteWalks w)) s
    { s.weeds.foldl (fun s w => s.updTenant w.tenant fun e => { e with sweepPending := true }) s with sweepFrom := s.cycle }

/-! ### Clearing tags -/

/-- A register's capability cleared when it is into the region (R121). -/
def CapReg.weed (c : CapReg) (hit : Vec → Bool) : CapReg := if c.tag && hit c.img then { c with tag := false, rev := true } else c

/-- A capability in a record cleared when it is into the region. -/
def CapReg.untag (c : CapReg) (hit : Vec → Bool) : CapReg := if c.tag && hit c.img then { c with tag := false } else c

/-- A stream descriptor cleared when it is into the region (R416). -/
def weedStream (d : Vec) (hit : Vec → Bool) : Vec :=
  if sdTag d && hit (sdCap d) then putBit (putBit d 511 false) 510 true else d

/-- Every register of a strand cleared that holds a capability into the region (R61, R318, R416). -/
def Strand.weed (t : Strand) (hit : Vec → Bool) : Strand :=
  { t with
    c := t.c.map fun c => c.weed hit
    pcc := t.pcc.weed hit
    bind := t.bind.map fun d => d.map fun d => weedStream d hit }

/-- The start registers of a fault-channel record cleared. -/
def FaultStart.weed (f : FaultStart) (hit : Vec → Bool) : FaultStart := { f with c1 := f.c1.untag hit, c2 := f.c2.untag hit }

/-- A bookmark or record cleared (R318). -/
def Bookmark.weed (b : Bookmark) (hit : Vec → Bool) : Bookmark :=
  { b with strand := b.strand.weed hit, arg := b.arg.map fun c => c.untag hit, start := b.start.map fun f => f.weed hit }

/-- The images of the tagged capabilities of a list. -/
def taggedImgs (l : List CapReg) : List Vec := (l.filter (·.tag)).map (·.img)

/-- The images of a strand's tagged capabilities and stream descriptors. -/
def Strand.tagged (t : Strand) : List Vec :=
  taggedImgs (t.pcc :: t.c.toList) ++ (t.bind.toList.filterMap id).filterMap fun d => if sdTag d then some (sdCap d) else none

/-- The images of a bookmark's or record's tagged capabilities. -/
def Bookmark.tagged (b : Bookmark) : List Vec :=
  b.strand.tagged ++ taggedImgs (b.arg.toList ++ (b.start.map fun f => [f.c1, f.c2]).getD [])

/-- A capability of a tenant is into the marked region. -/
def State.hits (s : State) (t : Nat) : Vec → Bool := fun img => s.intoMarked t img

/-- The strand of core k cleared, when its tenant is covered. -/
def State.weedCore (s : State) (k : Nat) : State :=
  let t := (s.core k).strand.tenant
  if ((s.core k).mode == .running || (s.core k).mode == .loading || (s.core k).waiting) && s.covered t then
    (s.noteTests t (s.core k).strand.tagged).updCore k fun c => { c with strand := c.strand.weed (s.hits t) }
  else s

/-! ### Phases 2 to 4 -/

/-- A covered strand stands inside an instruction, so that its boundary has still to come (R153, R430). -/
def State.midInstr (s : State) : Bool := s.cores.any fun c => c.2.waiting && s.covered c.2.strand.tenant

/-- SWEEP_CORES (R416): at an instruction boundary of every covered strand (R153). -/
def execSweepCores (s : State) : Out :=
  s.event (s.sweep == .marked && !s.midInstr) fun s =>
    { (s.cores.foldl (fun s c => s.weedCore c.1) s) with sweep := .coresDone }

/-- The operand images of a command. -/
def Cmd.caps (c : Cmd) : List CapReg := [c.dst, c.src, c.idx, c.ctr]

/-- A command record with its operands cleared (R490). -/
def Cmd.weed (c : Cmd) (hit : Vec → Bool) : Cmd :=
  { c with dst := c.dst.untag hit, src := c.src.untag hit, idx := c.idx.untag hit, ctr := c.ctr.untag hit }

/-- A command in flight reached by the sweep: it stops with CAP_REVOKED, its operands cleared (R257, R490). One that has written
every element has nothing to stop, and one that is stopping already cannot be resumed. -/
def State.weedCmd (s : State) (c : Cmd) : State :=
  if s.covered c.tenant && c.gen == s.gen c.tenant && c.caps.any (fun r => r.tag && s.intoMarked c.tenant r.img) then
    let c := c.weed (s.hits c.tenant)
    match c.state with
    | .finishing => s.setCmd c
    | .stopping cause detail _ => s.setCmd { c with state := .stopping cause detail false }
    | _ => s.stopCmd c cRevoked (capDetail opMem 0 (BitVec.ofNat 48 c.index))
  else s

/-- A queued call with its capability cleared (R416, R417). -/
def Call.weed (c : Call) (s : State) : Call := if s.covered c.tenant then { c with cap := c.cap.untag (s.hits c.tenant) } else c

/-- A faulted record reached by the sweep: it is live no longer (R257). -/
def State.weedFaulted (s : State) (f : FaultedCmd) : FaultedCmd :=
  if s.covered f.cmd.tenant && f.cmd.caps.any (fun r => r.tag && s.intoMarked f.cmd.tenant r.img) then
    { f with live := false, cmd := f.cmd.weed (s.hits f.cmd.tenant) }
  else f

/-- A matrix job reached by the sweep: it stops with CAP_REVOKED, a running one at its next boundary (R372). -/
def State.weedJob (s : State) (j : Job) : State :=
  let hit (c : CapReg) : Bool := c.tag && s.intoMarked j.tenant c.img
  if s.covered j.tenant && j.caps.any hit then
    let j := { j with stop := cRevoked, revokedDesc := hit j.desc }
    if j.due = 0 && !j.writing then s.stopJob j else s.setJob j
  else s

/-- The waiter's cell lies in a region being revoked (R276). -/
def State.cellRevoked (s : State) (h : Held) : Bool :=
  match h.holder with
  | .counter _ va _ _ _ _ => s.weeds.any fun (w : WeedReq) =>
      s.covers w && w.tenant == h.bm.tenant && decide (w.base ≤ va) && decide (va < w.base + w.len)
  | _ => false

/-- A waiter whose cell is revoked leaves its home as a fault bookmark (R276). -/
def State.weedWaiter (s : State) (h : Held) : State :=
  match h.holder with
  | .counter cell _ _ _ _ _ =>
    if s.cellRevoked h then
      (s.faultHeld h.id cRevoked (capDetail (0#1 ++ h.bm.wcap)) (h.bm.strand.pc - 4)).syncHome cell
    else s
  | _ => s

/-- What the third phase tests of the covered tenants, beside the strands: their tenants and images. -/
def State.recordImgs (s : State) : List (Nat × List Vec) :=
  let all := (s.faulted.map fun f => (f.cmd.tenant, taggedImgs f.cmd.caps)) ++ (s.cmds.map fun c => (c.tenant, taggedImgs c.caps)) ++
    (s.jobs.map fun j => (j.tenant, taggedImgs j.caps)) ++ (s.bms.map fun h => (h.bm.tenant, h.bm.tagged)) ++
    (s.service.calls.map fun c => (c.tenant, taggedImgs [c.cap])) ++
    s.cores.flatMap fun c => c.2.tasks.map fun e => (e.2.tenant.toNat, if e.2.codetag then [e.2.code] else [])
  all.filter fun x => s.covered x.1

/-- The tests of lists of images of tenants. -/
def State.noteAll (s : State) (l : List (Nat × List Vec)) : State := l.foldl (fun s x => s.noteTests x.1 x.2) s

/-- SWEEP_RECORDS (R416): faulted records first, so that a command stopped by this sweep keeps its record live. -/
def execSweepRecords (s : State) : Out :=
  s.event (s.sweep == .coresDone) fun s =>
    let s := s.noteAll s.recordImgs
    let s := { s with faulted := s.faulted.map s.weedFaulted }
    let s := s.cmds.foldl (fun s c => s.weedCmd c) s
    let s := s.jobs.foldl (fun s j => s.weedJob j) s
    let bms := s.bms.map fun (h : Held) =>
      if s.covered h.bm.tenant then { h with bm := h.bm.weed (s.hits h.bm.tenant) } else h
    let s := { s with bms }
    let s := s.bms.foldl (fun s h => s.weedWaiter h) s
    let s := s.cores.foldl (fun s c => if (s.core c.1).mode == .loading then s.weedCore c.1 else s) s
    { s with
      sweep := .recordsDone
      service := { s.service with calls := s.service.calls.map (·.weed s), active := s.service.active.map (·.weed s) }
      cores := s.cores.map fun c => (c.1, { c.2 with tasks := c.2.tasks.map fun e =>
        let t := e.2.tenant.toNat
        (e.1, if s.covered t && e.2.codetag && s.intoMarked t e.2.code then { e.2 with codetag := false } else e.2) }) }

/-- The leaves that a table of a tenant's page tables holds, from a level on, each with its page size: of the heap window or of
the host window, which a root table's second half maps (R203). -/
def tableLeaves (m : List Host.Cell) (host : Bool) : Nat → Nat → Nat → List (Word × Nat)
  | 0, _, _ => []
  | fuel + 1, level, table =>
    let count := if level = 3 then 32 else 512
    let first := if level = 0 ∧ host then 512 else 0
    (List.range count).flatMap fun i =>
      let p := w64 (memNat m (table + 8 * (first + i)) 8)
      if !p.getLsbD 0 then []
      else if p.getLsbD 1 then (if leafOk host level p then [(p, levelSize level)] else [])
      else if tableOk level p then tableLeaves m host fuel (level + 1) (pteFrame p)
      else []

/-- The frames of the heap that a table maps, from a level on: first bytes and sizes (R203). -/
def tableFrames (m : List Host.Cell) (fuel level table : Nat) : List (Nat × Nat) :=
  (tableLeaves m false fuel level table).map fun l => (pteFrame l.1, l.2)

/-- A place of device memory lies in a frame of a tenant's heap. -/
def State.ownsFrame (s : State) (t flat : Nat) : Bool :=
  (tableFrames s.mem 4 0 (s.tenant t).ptroot).any fun f => decide (f.1 ≤ flat) && decide (flat < f.1 + f.2)

/-- Whether tenant t holds the memory of a granule: a partition, a vault block or a frame (R416). -/
def State.holdsPlace (s : State) (t flat : Nat) : Bool :=
  if flat < Config.deviceBytes then s.ownsFrame t flat
  else if Config.vaultFlat ≤ flat then
    let b := Table.get s.blocks (24 * ((flat - Config.vaultFlat) / 0x200000) + (flat - Config.vaultFlat) % 0x200000 / 0x10000) {}
    b.v && b.tenant == t && b.gen == s.gen t
  else
    let k := (flat - Config.spadFlat) / 0x20000
    let o := (flat - Config.spadFlat) % 0x20000
    match s.residentOn t k with
    | some i => o / partBytes (s.core k).pmode == i
    | none => false

/-- The image that a granule of memory holds. -/
def State.granuleImg (s : State) (g : Nat) : Vec := BitVec.ofNat 512 (memNat s.mem (64 * g) 64)

/-- A tagged granule is cleared by the sweep: some covered tenant holds it, it can be read, and its image is into that tenant's
region. -/
def State.granuleWeeded (s : State) (g : Nat) : Bool :=
  !s.badAt (64 * g) && s.tenants.any fun t => s.covered t.1 && s.intoMarked t.1 (s.granuleImg g) && s.holdsPlace t.1 (64 * g)

/-- A granule of a swapped-out image lies in a unit that fails. -/
def Image.failsAt (p : Image) (g : Nat) : Bool := p.bad.contains (64 * g / 512)

/-- What the fourth phase tests: tagged lines of the L2, queued stores, tagged granules, and those of the images of partitions (R416). -/
def State.memoryImgs (s : State) : List (Nat × List Vec) :=
  let lines := s.l2.filterMap fun (l : L2Line) => if l.tag && l.gen == s.gen l.tenant then some (l.tenant, [l.data]) else none
  let posted := s.cores.flatMap fun c => c.2.posted.filterMap fun e => match e.op with
    | .cap _ img true => some (e.tenant, [img])
    | _ => none
  let granules := s.tags.flatMap fun g => (s.tenants.filter fun t => !s.badAt (64 * g) && s.holdsPlace t.1 (64 * g)).map fun t =>
    (t.1, [s.granuleImg g])
  let images := s.images.map fun p =>
    (p.tenant, (p.tags.filter fun g => !p.failsAt g).map fun g => BitVec.ofNat 512 (memNat p.cells (64 * g) 64))
  (lines ++ posted ++ granules ++ images).filter fun x => s.covered x.1

/-- The tagged granules of covered tenants that cannot be read. -/
def State.noteGranules (s : State) : State :=
  s.tags.foldl (fun s g => if s.badAt (64 * g) then
      (s.tenants.filter fun t => s.covered t.1 && s.holdsPlace t.1 (64 * g)).foldl
        (fun s t => s.noteFailing t.1 (64 * g) (64 * g)) s
    else s) s

/-- The image of a swapped-out partition with the tags of granules into the region cleared (R416). -/
def State.weedImage (s : State) (p : Image) : Image :=
  if s.covered p.tenant then
    { p with tags := dropWhere p.tags fun g => !p.failsAt g && s.intoMarked p.tenant (BitVec.ofNat 512 (memNat p.cells (64 * g) 64)) }
  else p

/-- A queued granule store whose image is into the region will write no tag (R416, R417). -/
def State.weedPosted (s : State) (e : Posted) : Posted :=
  match e.op with
  | .cap p img tag => { e with op := .cap p img (tag && !(s.covered e.tenant && s.intoMarked e.tenant img)) }
  | _ => e

/-- SWEEP_MEMORY (R416): the L2 lines before the tag store, and what is still queued for either. -/
def execSweepMemory (s : State) : Out :=
  s.event (s.sweep == .recordsDone) fun s =>
    let s := (s.noteAll s.memoryImgs).noteGranules
    let s := { s with l2 := s.l2.map fun (l : L2Line) =>
        if l.tag && s.covered l.tenant && l.gen == s.gen l.tenant && s.intoMarked l.tenant l.data then
          { l with tag := false }
        else l }
    { s with
      sweep := .memoryDone
      cores := s.cores.map fun c => (c.1, { c.2 with posted := c.2.posted.map s.weedPosted })
      tags := dropWhere s.tags s.granuleWeeded
      images := s.images.map s.weedImage }

/-! ### Phase 5 -/

/-- The completion add of a request (R417): a refused one is lost. -/
def State.weedAdd (s : State) (w : WeedReq) : State :=
  let va := cBase w.ctr.img
  match s.placeOf w.tenant va needRW true va with
  | .error _ => s
  | .ok p =>
    let op : CtrOp :=
      { id := s.nextId, place := p.flat, va, kind := .add 1, tenant := w.tenant, gen := w.gen, origin := .sweep }
    match State.atHome s.bump op p with
    | .applied s => s
    | .sent s => s
    | .refused s _ => s
    | .held s => { s with counterOps := s.counterOps ++ [op] }

/-- The first request leaves with its add, and a bookmark that waited for room is released (R415, R417). -/
def State.closeWeed (s : State) (w : WeedReq) : State :=
  let s := if s.covers w then s.weedAdd w else s
  let s := { s with weeds := s.weeds.eraseIdx ((s.weeds.findIdx? fun (x : WeedReq) => x.swept).getD s.weeds.length) }
  if w.withdrawn then s else s.leaveWeed

/-- A command that the sweep has stopped, or found complete, waits for the answers to its adds, or a job for its boundary (R241, R257,
R372). -/
def State.stopsOpen (s : State) : Bool :=
  (s.cmds.any fun c => s.covered c.tenant && (match c.state with
    | .stopping cause _ _ => cause == cRevoked
    | .finishing => c.caps.any fun r => r.img != 0 && s.intoMarked c.tenant r.img
    | _ => false)) ||
    s.jobs.any fun j => s.covered j.tenant && j.stop == cRevoked

/-- The bytes of the revocation bitmap in the memory list. -/
def inBitmap (a : Nat) : Bool := decide (Config.bitmapBase ≤ a) && decide (a < Config.bitmapBase + 0x5E0000)

/-- The bits of a unit of the bitmap that fails stay: their clearing is discarded and logged (R198). -/
def State.noteKept (s : State) : State :=
  (s.badUnits.filter fun u => s.mem.any fun c => inBitmap c.1 && c.1 / 512 == u).foldl
    (fun s u => s.noteFailing (((s.weeds.find? (·.swept)).map (·.tenant)).getD 0) (512 * u) (512 * u)) s

/-- SWEEP_CLOSE (R416, R417): the bits that no later request needs are cleared, the flags too, and each covered request has
its completion add, in acceptance order, after every stop of a command or job (R257, R372). -/
def execSweepClose (s : State) : Out :=
  s.event (s.sweep == .memoryDone && !s.stopsOpen) fun s =>
    let needed := (s.weeds.filter fun w => !w.swept).flatMap s.regionPages
    let keep := needed.filter fun p => !s.badAt (bitmapAt p) && (memGet s.mem (bitmapAt p)).getLsbD (p % 8)
    let s := s.noteKept
    let s := { s with
      mem := keep.foldl (fun m p => setMark m p true) (s.mem.filter fun c => !inBitmap c.1 || s.badAt c.1)
      tenants := s.tenants.map fun (t : Nat × Tenant) =>
        if s.weeds.any (fun w => w.swept && w.tenant == t.1) then (t.1, { t.2 with sweepPending := false }) else t }
    { ((s.weeds.filter fun (w : WeedReq) => w.swept).foldl (fun (s : State) w => s.closeWeed w) s) with sweep := .none }

end Sys2Proof.Machine
end

