-- ==== Sys2Proof/Machine/Timing.lean ====
section
/-! DEFINITION. When an instruction issues and when its results are ready, in c-cycles (04 R152, 05 R161, R185, 07 R259,
08 R284, 10 R343, 11 R388). What the spec gives no figure for takes the time of its turn (log 1, 12). -/

namespace Sys2Proof.Machine

/-- The number of an x register in the table of result times. -/
def rX (r : XReg) : Nat := r.toNat
/-- The number of a c register. -/
def rC (r : CReg) : Nat := 32 + r.toNat
/-- The number of a v register. -/
def rV (r : VReg) : Nat := 64 + r.toNat
/-- The number of a p register. -/
def rP (r : PReg) : Nat := 96 + r.toNat
/-- The number of STATUS, for its flags. -/
def rStatus : Nat := 104
/-- The number of the rounding and saturation modes of STATUS. -/
def rModes : Nat := 105
/-- The number of LIVEMASK. -/
def rLive : Nat := 106
/-- The number under which the vector unit is busy. -/
def rVecUnit : Nat := 128

/-- The x registers of a message. -/
def msgRegs (a : XReg) (n : BitVec 3) : List Nat := (List.range (n.toNat + 1)).map (a.toNat + ·)

/-- What a memory instruction reaches: a memory operand's bytes, the base of a capability, or the units of a vector access. -/
inductive MemRef where
  | bytes (a : CReg) (m : MemOpnd) (size : Nat)
  | base (a : CReg)
  | units (kind : VmKind) (ew : Ew) (a : CReg) (m : VmIdx) (pg : PReg)
  deriving DecidableEq, Repr

/-- Where a message goes: the core of a task operand, the unit of a capability's base, the engine of a job port, or the tables
beside die 0. -/
inductive PathTo where
  | task (x : XReg) | cap (a : CReg) | port (a : CReg) | tables
  deriving DecidableEq, Repr

/-- The kinds of latency. -/
inductive Lat where
  /-- Results ready after n c-cycles. -/
  | fixed (n : Nat)
  /-- The strand goes on after n c-cycles. -/
  | stall (n : Nat)
  /-- The strand goes on after n c-cycles and the hop of a spare core (R23). -/
  | hop (n : Nat)
  /-- A conditional branch: 1 c-cycle, 3 when taken. -/
  | branch
  /-- The divider, for a signed or unsigned division (04 Table 17). -/
  | divide (signed : Bool)
  /-- An access: the own scratchpad's and the own vault's figures. -/
  | near (m : MemRef) (spad vault : Nat)
  /-- A CLC, whose check adds 2 c-cycles during a sweep of its tenant (R414). -/
  | clc (m : MemRef) (spad vault : Nat)
  /-- KREAD and KWAIT: 3 or 14 c-cycles; KWAIT goes on then (08 Table 8). -/
  | counter (a : CReg) (stalls : Bool)
  /-- A message: its figure in the own cluster, and the ceilings on the own die and across the bridge (R497). -/
  | path (dest : PathTo) (own die pkg : Nat)
  /-- The vector unit: the latency and the c-cycles it is held. -/
  | vec (n hold : Nat)
  deriving DecidableEq, Repr

/-- The registers an instruction waits for, those it writes, and its latency. -/
structure Timing where
  reads : List Nat
  writes : List Nat
  lat : Lat
  deriving DecidableEq, Repr

/-- log₂ of the lanes of a floating element type. -/
def fpLanesLog (et : FpEt) : Nat := Nat.log2 (512 / (8 * sizeOf (fpFmt et)))

/-- The c-cycles of IFENCE at a scope, after its store ordering (07 Table 12). -/
def ifenceCycles : Scope → Nat
  | .core => 4 | .clus => 16 | .die => 64 | .pkg => 160 | .sys => 160

/-- The governing predicate, waited for where the word names one (R48). -/
def rG (pg : PReg) : List Nat := if pg = 0 then [] else [rP pg]
/-- What a merging instruction waits for beside its sources: the predicate and, where lanes may be inactive, the old
destination (R159). -/
def rMerge (pg : PReg) (d : VReg) : List Nat := if pg = 0 then [] else [rP pg, rV d]

/-- What a CSR is numbered as, where a CSRWR changes it. -/
def csrRegs (csr : BitVec 12) : List Nat := if csr = 0 then [rStatus, rModes] else if csr = 1 then [rLive] else []

/-- The registers that CCALL and CRET set (R132, R134). -/
def callRegs : List Nat := (List.range 8).map fun i => rC (BitVec.ofNat 4 (8 + i))

/-- The timing of an instruction word; an event has none. LIVEMASK is read by CSRRD alone: that a YIELD or a long-latency end does not wait
out the latency of a CSRWR of it, and takes the new value, is a DESIGN CHOICE (R152; log 90). -/
def timing : Instr → Timing
  | .addi d a _ => ⟨[rX a], [rX d], .fixed 1⟩
  | .slti d a _ => ⟨[rX a], [rX d], .fixed 1⟩
  | .sltiu d a _ => ⟨[rX a], [rX d], .fixed 1⟩
  | .xori d a _ => ⟨[rX a], [rX d], .fixed 1⟩
  | .ori d a _ => ⟨[rX a], [rX d], .fixed 1⟩
  | .andi d a _ => ⟨[rX a], [rX d], .fixed 1⟩
  | .slli d a _ => ⟨[rX a], [rX d], .fixed 1⟩
  | .srli d a _ => ⟨[rX a], [rX d], .fixed 1⟩
  | .srai d a _ => ⟨[rX a], [rX d], .fixed 1⟩
  | .clz d a => ⟨[rX a], [rX d], .fixed 1⟩
  | .ctz d a => ⟨[rX a], [rX d], .fixed 1⟩
  | .cpop d a => ⟨[rX a], [rX d], .fixed 1⟩
  | .add d a b => ⟨[rX a, rX b], [rX d], .fixed 1⟩
  | .sub d a b => ⟨[rX a, rX b], [rX d], .fixed 1⟩
  | .sll d a b => ⟨[rX a, rX b], [rX d], .fixed 1⟩
  | .slt d a b => ⟨[rX a, rX b], [rX d], .fixed 1⟩
  | .sltu d a b => ⟨[rX a, rX b], [rX d], .fixed 1⟩
  | .xor d a b => ⟨[rX a, rX b], [rX d], .fixed 1⟩
  | .srl d a b => ⟨[rX a, rX b], [rX d], .fixed 1⟩
  | .sra d a b => ⟨[rX a, rX b], [rX d], .fixed 1⟩
  | .or d a b => ⟨[rX a, rX b], [rX d], .fixed 1⟩
  | .and d a b => ⟨[rX a, rX b], [rX d], .fixed 1⟩
  | .mul d a b => ⟨[rX a, rX b], [rX d], .fixed 3⟩
  | .mulh d a b => ⟨[rX a, rX b], [rX d], .fixed 3⟩
  | .mulhsu d a b => ⟨[rX a, rX b], [rX d], .fixed 3⟩
  | .mulhu d a b => ⟨[rX a, rX b], [rX d], .fixed 3⟩
  | .div d a b => ⟨[rX a, rX b], [rX d], .divide true⟩
  | .divu d a b => ⟨[rX a, rX b], [rX d], .divide false⟩
  | .rem d a b => ⟨[rX a, rX b], [rX d], .divide true⟩
  | .remu d a b => ⟨[rX a, rX b], [rX d], .divide false⟩
  | .min d a b => ⟨[rX a, rX b], [rX d], .fixed 1⟩
  | .minu d a b => ⟨[rX a, rX b], [rX d], .fixed 1⟩
  | .max d a b => ⟨[rX a, rX b], [rX d], .fixed 1⟩
  | .maxu d a b => ⟨[rX a, rX b], [rX d], .fixed 1⟩
  | .lui d _ => ⟨[], [rX d], .fixed 1⟩
  | .auipc d _ => ⟨[], [rX d], .fixed 1⟩
  | .beq a b _ => ⟨[rX a, rX b], [], .branch⟩
  | .bne a b _ => ⟨[rX a, rX b], [], .branch⟩
  | .blt a b _ => ⟨[rX a, rX b], [], .branch⟩
  | .bge a b _ => ⟨[rX a, rX b], [], .branch⟩
  | .bltu a b _ => ⟨[rX a, rX b], [], .branch⟩
  | .bgeu a b _ => ⟨[rX a, rX b], [], .branch⟩
  | .jal d _ => ⟨[], [rX d], .stall 3⟩
  | .jalr d a _ => ⟨[rX a], [rX d], .stall 3⟩
  | .ccall a b => ⟨[rC a, rC b, rC 15], callRegs, .stall 6⟩
  | .cret => ⟨[rC 14, rC 13], callRegs, .stall 6⟩
  | .lbOffset d a imm => ⟨[rC a], [rX d], .near (.bytes a (.off imm) 1) 3 14⟩
  | .lbIndex d a x => ⟨[rC a, rX x], [rX d], .near (.bytes a (.idx x) 1) 3 14⟩
  | .lhOffset d a imm => ⟨[rC a], [rX d], .near (.bytes a (.off imm) 2) 3 14⟩
  | .lhIndex d a x => ⟨[rC a, rX x], [rX d], .near (.bytes a (.idx x) 2) 3 14⟩
  | .lwOffset d a imm => ⟨[rC a], [rX d], .near (.bytes a (.off imm) 4) 3 14⟩
  | .lwIndex d a x => ⟨[rC a, rX x], [rX d], .near (.bytes a (.idx x) 4) 3 14⟩
  | .ldOffset d a imm => ⟨[rC a], [rX d], .near (.bytes a (.off imm) 8) 3 14⟩
  | .ldIndex d a x => ⟨[rC a, rX x], [rX d], .near (.bytes a (.idx x) 8) 3 14⟩
  | .lbuOffset d a imm => ⟨[rC a], [rX d], .near (.bytes a (.off imm) 1) 3 14⟩
  | .lbuIndex d a x => ⟨[rC a, rX x], [rX d], .near (.bytes a (.idx x) 1) 3 14⟩
  | .lhuOffset d a imm => ⟨[rC a], [rX d], .near (.bytes a (.off imm) 2) 3 14⟩
  | .lhuIndex d a x => ⟨[rC a, rX x], [rX d], .near (.bytes a (.idx x) 2) 3 14⟩
  | .lwuOffset d a imm => ⟨[rC a], [rX d], .near (.bytes a (.off imm) 4) 3 14⟩
  | .lwuIndex d a x => ⟨[rC a, rX x], [rX d], .near (.bytes a (.idx x) 4) 3 14⟩
  | .clcOffset d a imm => ⟨[rC a], [rC d], .clc (.bytes a (.off imm) 64) 4 15⟩
  | .clcIndex d a x => ⟨[rC a, rX x], [rC d], .clc (.bytes a (.idx x) 64) 4 15⟩
  | .sbOffset s a _ => ⟨[rX s, rC a], [], .fixed 1⟩
  | .sbIndex s a x => ⟨[rX s, rC a, rX x], [], .fixed 1⟩
  | .shOffset s a _ => ⟨[rX s, rC a], [], .fixed 1⟩
  | .shIndex s a x => ⟨[rX s, rC a, rX x], [], .fixed 1⟩
  | .swOffset s a _ => ⟨[rX s, rC a], [], .fixed 1⟩
  | .swIndex s a x => ⟨[rX s, rC a, rX x], [], .fixed 1⟩
  | .sdOffset s a _ => ⟨[rX s, rC a], [], .fixed 1⟩
  | .sdIndex s a x => ⟨[rX s, rC a, rX x], [], .fixed 1⟩
  | .cscOffset s a _ => ⟨[rC s, rC a], [], .fixed 1⟩
  | .cscIndex s a x => ⟨[rC s, rC a, rX x], [], .fixed 1⟩
  | .cgetb d a => ⟨[rC a], [rX d], .fixed 1⟩
  | .cgetx d a _ => ⟨[rC a], [rX d], .fixed 1⟩
  | .cgets d a _ => ⟨[rC a], [rX d], .fixed 1⟩
  | .cgetf d a _ => ⟨[rC a], [rX d], .fixed 1⟩
  | .ctag d a => ⟨[rC a], [rX d], .fixed 1⟩
  | .cidx d a b => ⟨[rC a, rX b], [rX d], .fixed 3⟩
  | .cslice d a b _ => ⟨[rX a, rX b, rC d], [rC d], .fixed 2⟩
  | .cnarrow d a _ => ⟨[rX a, rC d], [rC d], .fixed 2⟩
  | .cperm d a => ⟨[rX a, rC d], [rC d], .fixed 2⟩
  | .cwrap d b a => ⟨[rC d, rC b, rX a], [rC d], .fixed 2⟩
  | .cunwrap d b => ⟨[rC d, rC b], [rC d], .fixed 2⟩
  | .cmov d a => ⟨[rC a], [rC d], .fixed 1⟩
  | .kadd a b => ⟨[rC a, rX b], [], .fixed 1⟩
  | .kaddRel _ a b => ⟨[rC a, rX b], [], .fixed 1⟩
  | .kmax a b => ⟨[rC a, rX b], [], .fixed 1⟩
  | .kmaxRel _ a b => ⟨[rC a, rX b], [], .fixed 1⟩
  | .kread d a => ⟨[rC a], [rX d], .counter a false⟩
  | .kwait a b => ⟨[rC a, rX b], [], .counter a true⟩
  | .kwaitAcq _ a b => ⟨[rC a, rX b], [], .counter a true⟩
  | .spawn a b => ⟨[rX a, rC b], [], .path (.task a) 6 48 112⟩
  | .msend d b a n => ⟨[rC b] ++ msgRegs a n, [rX d], .path (.cap b) 6 48 112⟩
  | .msendW b a n => ⟨[rC b] ++ msgRegs a n, [], .path (.cap b) 6 48 112⟩
  | .yield => ⟨[], [], .fixed 1⟩
  | .fin => ⟨[], [], .fixed 1⟩
  | .scall d a b => ⟨[rX a, rC b], [rC d], .hop 6⟩
  | .tblk a => ⟨[rX a], [], .path (.task a) 6 48 112⟩
  | .tublk a => ⟨[rX a], [], .path (.task a) 6 48 112⟩
  | .xcopy _ d b k => ⟨[rC d, rC b, rC k], [], .stall 4⟩
  | .xgath _ d b e k => ⟨[rC d, rC b, rC e, rC k], [], .stall 4⟩
  | .xscat _ d b e k => ⟨[rC d, rC b, rC e, rC k], [], .stall 4⟩
  | .xfill _ d a k => ⟨[rC d, rX a, rC k], [], .stall 4⟩
  | .xred _ _ d b k => ⟨[rC d, rC b, rC k], [], .stall 4⟩
  | .xcryp _ d b e k => ⟨[rC d, rC b, rC e, rC k], [], .stall 4⟩
  | .xbind _ d b a k => ⟨[rC d, rC b, rX a, rC k], [], .stall 4⟩
  | .xflush _ d k => ⟨[rC d, rC k], [], .stall 4⟩
  | .xinval _ d k => ⟨[rC d, rC k], [], .stall 4⟩
  | .xresume b => ⟨[rC b], [], .stall 4⟩
  | .mjob d e k => ⟨[rC e, rC k], [rX d], .path (.port k) 24 72 136⟩
  | .sbind _ b a => ⟨[rC b, rX a], [], .stall 2⟩
  | .sfree _ => ⟨[], [], .stall 2⟩
  | .exph a b => ⟨[rC a, rX b], [], .path (.cap a) 6 48 112⟩
  | .exsnd b a => ⟨[rV b, rX a], [], .fixed 1⟩
  | .exrcv d a => ⟨[rX a], [rV d], .fixed 2⟩
  | .aclaim d a b => ⟨[rC a, rX b], [rX d], .path .tables 0 64 128⟩
  | .afree a => ⟨[rC a], [], .path .tables 0 64 128⟩
  | .weed a b => ⟨[rC a, rC b], [], .stall 6⟩
  | .fmt _ _ _ _ _ => ⟨[], [], .fixed 1⟩
  | .brk => ⟨[], [], .fixed 1⟩
  | .sret => ⟨[], [], .fixed 1⟩
  | .shalt => ⟨[], [], .fixed 1⟩
  | .wake a => ⟨[rX a], [], .fixed 1⟩
  | .ownset a b => ⟨[rX a, rX b], [], .fixed 1⟩
  | .csrwr csr a => ⟨[rX a], csrRegs csr, .fixed 2⟩
  | .csrrd d csr => ⟨csrRegs csr, [rX d], .fixed 2⟩
  | .trap _ => ⟨[], [], .fixed 1⟩
  | .fence _ pred succ => ⟨[], [], .stall (if pred == 0 || succ == 0 then 1 else 2)⟩
  | .ifence scope => ⟨[], [], .stall (ifenceCycles scope)⟩
  | .amoadd _ d a b => ⟨[rC a, rX b], [rX d], .fixed 1⟩
  | .amoswap _ d a b => ⟨[rC a, rX b], [rX d], .fixed 1⟩
  | .amoxor _ d a b => ⟨[rC a, rX b], [rX d], .fixed 1⟩
  | .amoor _ d a b => ⟨[rC a, rX b], [rX d], .fixed 1⟩
  | .amoand _ d a b => ⟨[rC a, rX b], [rX d], .fixed 1⟩
  | .amocas _ d a b => ⟨[rC a, rX b, rX d], [rX d], .fixed 1⟩
  | .amomin _ d a b => ⟨[rC a, rX b], [rX d], .fixed 1⟩
  | .amomax _ d a b => ⟨[rC a, rX b], [rX d], .fixed 1⟩
  | .amominu _ d a b => ⟨[rC a, rX b], [rX d], .fixed 1⟩
  | .amomaxu _ d a b => ⟨[rC a, rX b], [rX d], .fixed 1⟩
  | .vadd _ d a b pg => ⟨[rV a, rV b] ++ rMerge pg d, [rV d], .vec 2 1⟩
  | .vsub _ d a b pg => ⟨[rV a, rV b] ++ rMerge pg d, [rV d], .vec 2 1⟩
  | .vmul _ d a b pg => ⟨[rV a, rV b] ++ rMerge pg d, [rV d], .vec 4 1⟩
  | .vmulh _ d a b pg => ⟨[rV a, rV b] ++ rMerge pg d, [rV d], .vec 4 1⟩
  | .vmin _ d a b pg => ⟨[rV a, rV b] ++ rMerge pg d, [rV d], .vec 2 1⟩
  | .vmax _ d a b pg => ⟨[rV a, rV b] ++ rMerge pg d, [rV d], .vec 2 1⟩
  | .vand _ d a b pg => ⟨[rV a, rV b] ++ rMerge pg d, [rV d], .vec 2 1⟩
  | .vor _ d a b pg => ⟨[rV a, rV b] ++ rMerge pg d, [rV d], .vec 2 1⟩
  | .vxor _ d a b pg => ⟨[rV a, rV b] ++ rMerge pg d, [rV d], .vec 2 1⟩
  | .vsll _ d a b pg => ⟨[rV a, rV b] ++ rMerge pg d, [rV d], .vec 2 1⟩
  | .vsr _ d a b pg => ⟨[rV a, rV b] ++ rMerge pg d, [rV d], .vec 2 1⟩
  | .vadc _ d a b pg => ⟨[rV a, rV b, rP pg], [rV d, rP pg], .vec 2 1⟩
  | .vsbc _ d a b pg => ⟨[rV a, rV b, rP pg], [rV d, rP pg], .vec 2 1⟩
  | .vmuladc _ d a b pg => ⟨[rV a, rV b, rP pg, rV d, rV (d + 1)], [rV d, rP pg, rV (d + 1)], .vec 5 2⟩
  | .vceq _ d a b pg => ⟨[rV a, rV b] ++ rG pg, [rP d], .vec 2 1⟩
  | .vclt _ d a b pg => ⟨[rV a, rV b] ++ rG pg, [rP d], .vec 2 1⟩
  | .vfadd _ d a b pg => ⟨[rModes, rV a, rV b] ++ rMerge pg d, [rV d, rStatus], .vec 4 1⟩
  | .vfsub _ d a b pg => ⟨[rModes, rV a, rV b] ++ rMerge pg d, [rV d, rStatus], .vec 4 1⟩
  | .vfmul _ d a b pg => ⟨[rModes, rV a, rV b] ++ rMerge pg d, [rV d, rStatus], .vec 4 1⟩
  | .vfma _ d a b pg => ⟨[rModes, rV a, rV b, rV d] ++ rG pg, [rV d, rStatus], .vec 4 1⟩
  | .vfnma _ d a b pg => ⟨[rModes, rV a, rV b, rV d] ++ rG pg, [rV d, rStatus], .vec 4 1⟩
  | .vfmin _ d a b pg => ⟨[rV a, rV b] ++ rMerge pg d, [rV d], .vec 2 1⟩
  | .vfmax _ d a b pg => ⟨[rV a, rV b] ++ rMerge pg d, [rV d], .vec 2 1⟩
  | .vfabs _ d a pg => ⟨[rV a] ++ rMerge pg d, [rV d], .vec 2 1⟩
  | .vfneg _ d a pg => ⟨[rV a] ++ rMerge pg d, [rV d], .vec 2 1⟩
  | .vfceq _ d a b pg => ⟨[rV a, rV b] ++ rG pg, [rP d], .vec 2 1⟩
  | .vfclt _ d a b pg => ⟨[rV a, rV b] ++ rG pg, [rP d], .vec 2 1⟩
  | .vfcle _ d a b pg => ⟨[rV a, rV b] ++ rG pg, [rP d], .vec 2 1⟩
  | .vexp2 _ d a pg => ⟨[rModes, rV a] ++ rMerge pg d, [rV d, rStatus], .vec 12 4⟩
  | .vrcp _ d a pg => ⟨[rModes, rV a] ++ rMerge pg d, [rV d, rStatus], .vec 12 4⟩
  | .vrsq _ d a pg => ⟨[rModes, rV a] ++ rMerge pg d, [rV d, rStatus], .vec 12 4⟩
  | .vlog2 _ d a pg => ⟨[rModes, rV a] ++ rMerge pg d, [rV d, rStatus], .vec 12 4⟩
  | .vsel _ d a b pg => ⟨[rV a, rV b, rP pg], [rV d], .vec 2 1⟩
  | .vperm _ d a b pg => ⟨[rV a, rV b] ++ rMerge pg d, [rV d], .vec 3 1⟩
  | .vbcast _ d a pg => ⟨[rX a] ++ rMerge pg d, [rV d], .vec 2 1⟩
  | .vcle _ d a b pg => ⟨[rV a, rV b] ++ rG pg, [rP d], .vec 2 1⟩
  | .vcne _ d a b pg => ⟨[rV a, rV b] ++ rG pg, [rP d], .vec 2 1⟩
  | .vradd _ d a pg => ⟨[rV a] ++ rG pg, [rV d], .vec 4 1⟩
  | .vrmin _ d a pg => ⟨[rV a] ++ rG pg, [rV d], .vec 4 1⟩
  | .vrmax _ d a pg => ⟨[rV a] ++ rG pg, [rV d], .vec 4 1⟩
  | .vcvtInt _ d a pg => ⟨[rModes, rV a] ++ rMerge pg d, [rV d, rStatus], .vec 4 1⟩
  | .vabs _ d a pg => ⟨[rV a] ++ rMerge pg d, [rV d], .vec 2 1⟩
  | .vext _ d a b => ⟨[rV a, rX b], [rX d], .vec 2 1⟩
  | .vcvtFp _ d a pg => ⟨[rModes, rV a] ++ rMerge pg d, [rV d, rStatus], .vec 4 1⟩
  | .vquant _ d a b pg => ⟨[rModes, rV a, rV b] ++ rG pg, [rV d, rStatus], .vec 4 1⟩
  | .vdeq _ d a b pg => ⟨[rModes, rV a, rV b] ++ rMerge pg d, [rV d, rStatus], .vec 4 1⟩
  | .vfrsum et d a pg => ⟨[rModes, rV a] ++ rG pg, [rV d, rStatus], .vec (2 * fpLanesLog et + 2) 1⟩
  | .vfrmax et d a pg => ⟨[rV a] ++ rG pg, [rV d], .vec (fpLanesLog et + 1) 1⟩
  | .vfrmin et d a pg => ⟨[rV a] ++ rG pg, [rV d], .vec (fpLanesLog et + 1) 1⟩
  | .vld ew v a x pg => ⟨[rC a, rX x] ++ rMerge pg v, [rV v], .near (.units .linear ew a (.x x) pg) 4 16⟩
  | .vldsA1 ew v a x pg => ⟨[rC a, rX x] ++ rMerge pg v, [rV v], .near (.units (.axis 1) ew a (.x x) pg) 4 16⟩
  | .vldsA2 ew v a x pg => ⟨[rC a, rX x] ++ rMerge pg v, [rV v], .near (.units (.axis 2) ew a (.x x) pg) 4 16⟩
  | .vldsA3 ew v a x pg => ⟨[rC a, rX x] ++ rMerge pg v, [rV v], .near (.units (.axis 3) ew a (.x x) pg) 4 16⟩
  | .vldg ew v a x pg => ⟨[rC a, rV x] ++ rMerge pg v, [rV v], .near (.units .gather ew a (.v x) pg) 8 20⟩
  | .vst _ v a x pg => ⟨[rV v, rC a, rX x] ++ rG pg, [], .fixed 1⟩
  | .vstsA1 _ v a x pg => ⟨[rV v, rC a, rX x] ++ rG pg, [], .fixed 1⟩
  | .vstsA2 _ v a x pg => ⟨[rV v, rC a, rX x] ++ rG pg, [], .fixed 1⟩
  | .vstsA3 _ v a x pg => ⟨[rV v, rC a, rX x] ++ rG pg, [], .fixed 1⟩
  | .vstg _ v a x pg => ⟨[rV v, rC a, rV x] ++ rG pg, [], .fixed 1⟩
  | .pand d a b => ⟨[rP a, rP b], [rP d], .fixed 1⟩
  | .por d a b => ⟨[rP a, rP b], [rP d], .fixed 1⟩
  | .pxor d a b => ⟨[rP a, rP b], [rP d], .fixed 1⟩
  | .pandn d a b => ⟨[rP a, rP b], [rP d], .fixed 1⟩
  | .pnot d a => ⟨[rP a], [rP d], .fixed 1⟩
  | .pfromx d a => ⟨[rX a], [rP d], .fixed 1⟩
  | .ptox d a => ⟨[rP a], [rX d], .fixed 1⟩
  | .pcnt d a => ⟨[rP a], [rX d], .fixed 1⟩
  | _ => ⟨[], [], .fixed 1⟩

/-! ### Issue -/

/-- The latency of a division, by the bit length of the magnitude of its quotient (04 Table 17). -/
def divCycles (signed : Bool) (a b : Word) : Nat :=
  let q : Nat := if signed then a.toInt.natAbs / b.toInt.natAbs else a.toNat / b.toNat
  if b = 0 ∨ (signed ∧ a = BitVec.intMin 64 ∧ b = -1) then 4 else 4 + ceilDiv (bitLen q) 2

/-- The operands of a division. -/
def divOperands (t : Strand) : List Nat → Word × Word
  | a :: b :: _ => (t.getX (BitVec.ofNat 5 a), t.getX (BitVec.ofNat 5 b))
  | _ => (0, 0)

/-- The addresses that a memory instruction of a strand reaches: none where it raises a fault. -/
def MemRef.addrs (r : MemRef) (t : Strand) : List Nat :=
  match r with
  | .bytes a m size =>
    match memAddr t (t.getC a).img (opC a) size m with
    | .ok va => [va, (va + (size - 1)) % 2 ^ 56]
    | .error _ => []
  | .base a => [cBase (t.getC a).img]
  | .units kind ew a m pg =>
    match vmAccess t (t.getC a).img (opC a) kind ew m pg with
    | .ok acc => acc.units.flatMap fun u => [u.2, (u.2 + (acc.size - 1)) % 2 ^ 56]
    | .error _ => []

/-- The figure of a near access of core k: the vault's where a byte lies there, which is across a spare's hop (R23, 07
Table 12). -/
def State.nearCycles (s : State) (k : Nat) (addrs : List Nat) (spad vault : Nat) : Nat :=
  if addrs.any fun va => match windowOf va with | .vault _ _ => true | _ => false then vault + s.hop k else spad

/-- The cluster that a message of core k's strand goes to: none for the tables beside die 0. -/
def PathTo.cluster (p : PathTo) (k : Nat) (t : Strand) : Option Nat :=
  match p with
  | .port a => some (if t.getC a = nullCap then k / 8 else cBase (t.getC a).img)
  | .task x => some (((t.getX x).extractLsb' 16 10).toNat / 8)
  | .cap a => some (clusterOf (cBase (t.getC a).img))
  | .tables => none

/-- The latency of an instruction that core k's strand issues: when its results are ready, and when it goes on unless a
branch is taken. -/
def State.latency (s : State) (k : Nat) (m : Timing) : Nat × Nat :=
  let t := (s.core k).strand
  match m.lat with
  | .fixed n => (n, 1)
  | .stall n => (n, n)
  | .hop n => (n + s.hop k, n + s.hop k)
  | .branch => (1, 1)
  | .divide signed =>
    let ab := divOperands t m.reads
    (divCycles signed ab.1 ab.2, 1)
  | .near r spad vault => (s.nearCycles k (r.addrs t) spad vault, 1)
  | .clc r spad vault => (s.nearCycles k (r.addrs t) spad vault + (if (s.tenant t.tenant).sweepPending then 2 else 0), 1)
  | .counter a stalls =>
    let n := s.counterCycles k (cBase (t.getC a).img)
    (n, if stalls then n else 1)
  | .path dest own die pkg =>
    let n := s.pathCycles k (dest.cluster k t) own die pkg + (match dest with
      | .cap a => s.pathHops k (cBase (t.getC a).img)
      | _ => s.hop k)
    (n, n)
  | .vec n _ => (n, 1)

/-- The first c-cycle in which an instruction can issue on core k: its core is free, its operands are ready and its unit
is free (R152, R161). -/
def State.issueCycle (s : State) (k : Nat) (m : Timing) : Nat :=
  let c := s.core k
  let regs := m.reads.foldl (fun acc r => max acc (Table.get c.ready r 0)) (max s.cycle c.nextIssue)
  match m.lat with
  | .divide _ => max regs c.divFree
  | .vec _ _ => max regs (Table.get c.ready rVecUnit 0)
  | _ => regs

/-- What TIME gains in a c-cycle, in 1/12,600 of a tick (R465). -/
def State.timeStep (s : State) : Nat := 6720 / (8 - s.power.step.toNat)

/-- The clocks moved on to a c-cycle (R147, R465): TIME counts in 1/12,600 of a tick, a c-cycle being 6,720 / (8 - step)
of them. -/
def State.advanceTo (s : State) (cycle : Nat) : State :=
  if cycle ≤ s.cycle then s
  else
    let timeAcc := s.timeAcc + (cycle - s.cycle) * s.timeStep
    let tick : Bool := timeAcc / 126000000 != s.timeAcc / 126000000
    { s with cycle, timeAcc, raised := if tick then 0 else s.raised &&& 8 }

/-- A conditional branch of a strand is taken (R139). -/
def takenBy (t : Strand) : Instr → Bool
  | .beq a b _ => t.getX a == t.getX b
  | .bne a b _ => t.getX a != t.getX b
  | .blt a b _ => (t.getX a).slt (t.getX b)
  | .bge a b _ => !(t.getX a).slt (t.getX b)
  | .bltu a b _ => (t.getX a).ult (t.getX b)
  | .bgeu a b _ => !(t.getX a).ult (t.getX b)
  | _ => false

/-- When a result is ready: a flag register that a slower instruction has still to reach stays so long (R161). -/
def readyAt (ready : Table Nat) (r n : Nat) : Table Nat :=
  if r = 0 then ready else Table.set ready r (if r = rStatus then max n (Table.get ready r 0) else n)

/-- The times that an instruction leaves behind: nothing where the strand has left the core, the next c-cycle where it
waits resident. `before` is the core and `cycle` the c-cycle at issue. A path without a figure, and a spare core's hop, take one of
the free values (R497; log 12). -/
def State.afterIssue (s : State) (k : Nat) (i : Instr) (lat : Nat × Nat) (before : Core) (cycle : Nat) : State :=
  let c := s.core k
  let m := timing i
  if c.waiting then s.setCore k { c with nextIssue := cycle + 1, inExec := some i }
  else if c.mode != .running || c.runId != before.runId then s
  else
    let next := match m.lat with
      | .branch => if takenBy before.strand i then 3 else 1
      | _ => lat.2
    let ready := m.writes.foldl (fun acc r => readyAt acc r (cycle + lat.1)) c.ready
    let ready := match m.lat with
      | .vec _ hold => Table.set ready rVecUnit (cycle + hold)
      | _ => ready
    let divFree := match m.lat with | .divide _ => cycle + lat.1 | _ => c.divFree
    let s := match m.lat with
      | .path _ _ _ _ => s.fresher
      | _ => if s.isSpare k then s.fresher else s
    s.setCore k { c with nextIssue := cycle + next, ready, divFree }

end Sys2Proof.Machine
end

