-- ==== Sys2Proof/Machine/Dispatcher.lean ====
section
/-! DEFINITION. The dispatcher: eligibility, the choice, stealing, the load of a strand, deficits and pre-emption (10 R323 to
R332, R351, 13 R429, R430, 11 R377). -/

namespace Sys2Proof.Machine

/-! ### Eligibility (R323, R324) -/

/-- The task entry of a NEW record on core k admits it. -/
def State.taskAdmits (s : State) (k : Nat) (b : Bookmark) : Bool :=
  let e := s.task k b.task
  s.taskValid k e && e.tenant.toNat == b.tenant && !e.blk && (match b.comp with | some c => e.comp == c | none => true)

/-- A held bookmark is ready and may run on core k (R323). -/
def State.eligible (s : State) (k : Nat) (h : Held) : Bool :=
  h.holder == .ready && s.presentOn h.bm.tenant k && h.bm.gen == s.gen h.bm.tenant &&
  (!h.bm.bind || h.bm.lcore == k) && (h.bm.kind != .new || s.taskAdmits k h.bm)

/-- The head record of an inbox: where it lies, its words, its channel's entry, and its ready stamp (R324, R336). -/
structure HeadRecord where
  inbox : Inbox
  slot : Nat
  words : List Word
  task : BitVec 6
  launches : Bool
  stamp : Nat
  deriving DecidableEq, Repr

/-- The eligible head record of the inbox of a tenant on core k, a candidate from the c-cycle after its append was applied (R324, R353).
What lies in a unit that fails is none (R200); and none is the head record of an inbox whose LOGSLOTS or RINGOFF break R335, open or
not, since it then has no ring: DESIGN CHOICE (log 77). -/
def State.headRecord (s : State) (t k : Nat) : Option HeadRecord :=
  match s.partPlace t k with
  | none => none
  | some (base, size) =>
    let b := s.inboxAt base size
    let free := s.cellVal b.free
    let slot := base + b.ring + 64 * (free.toNat % b.slots)
    if !b.formed || s.cellVal b.arrival == free || s.badAt base || s.badAt slot ||
        decide (s.cycle ≤ Table.get s.slotStamps slot 0) then none
    else
      let words := (List.range 8).map fun i => w64 (memNat s.mem (slot + 8 * i) 8)
      let task := (words.headD 0).extractLsb' 0 6
      let e := s.task k task
      let good := s.taskValid k e && e.tenant.toNat == t
      if good && e.blk then none
      else some { inbox := b, slot, words, task, launches := good, stamp := Table.get s.slotStamps slot 0 }

/-- A candidate of a choice. -/
inductive Cand where
  | held (h : Held) | record (r : HeadRecord)
  deriving DecidableEq, Repr

/-- The ready stamp of a candidate. -/
def Cand.stamp : Cand → Nat
  | .held h => h.stamp
  | .record r => r.stamp

/-- The priority of a candidate on core k. -/
def Cand.prio (s : State) (k : Nat) : Cand → Nat
  | .held h => h.bm.prio.toNat
  | .record r => if r.launches then (s.task k r.task).prio.toNat else 3

/-- The effective priority (R325). -/
def State.effPrio (s : State) (prio stamp : Nat) : Nat :=
  let age := s.cycle - stamp
  min 3 (prio + (if 65536 ≤ age then 1 else 0) + (if 262144 ≤ age then 1 else 0))

/-- The candidate that comes first: highest effective priority, lowest stamp, earliest entry (R325). -/
def State.bestCand (s : State) (k : Nat) (cs : List Cand) : Option Cand :=
  let eff (c : Cand) : Nat := s.effPrio (c.prio s k) c.stamp
  cs.foldl (better fun x b => decide (eff b < eff x) || (eff x == eff b && decide (x.stamp < b.stamp))) none

/-- The ready entries of a cluster that core k may take for a tenant, in the order of entry; an entry is a candidate from the
c-cycle after it entered (R328). -/
def State.readyFor (s : State) (k cluster t : Nat) : List Held :=
  s.bms.filter fun h => h.cluster == cluster && h.bm.tenant == t && s.eligible k h && decide (h.entered < s.cycle)

/-- The candidates of a tenant in the core's own cluster and inbox (R325). Of an entry of the queue and the record at the inbox's head that
agree in priority and stamp, which R325 does not order, the entry is first: DESIGN CHOICE (log 95). -/
def State.ownCands (s : State) (k t : Nat) : List Cand :=
  (s.readyFor k (k / 8) t).map .held ++ (match s.headRecord t k with | some r => [.record r] | none => [])

/-- The candidates of a steal: the unbound entries of the first other cluster of the steal domain that has any but those that
`kept` keeps (R327). -/
def State.stealCands (s : State) (k t : Nat) (kept : Held → Bool) : List Cand :=
  let n := (s.tenant t).steal
  if n = 0 ∨ !inNode n k then []
  else
    let others := ((List.range 127).map fun i => (k / 8 + 1 + i) % 128).filter fun c => inNode n (8 * c)
    let found := others.map fun c => (s.readyFor k c t).filter fun h => !h.bm.bind && !kept h
    ((found.find? fun l => !l.isEmpty).getD []).map .held

/-- The tenants with a present partition on core k, with their partitions (R325). -/
def State.tenantsOn (s : State) (k : Nat) : List (Nat × Nat) :=
  (List.range (partCount (s.core k).pmode)).filterMap fun i =>
    let r := (s.core k).resid i
    if r.v && r.gen == s.gen r.tenant && !(s.core k).absent.getLsbD i then some (r.tenant, i) else none

/-- The tenants in the order in which core k serves them: largest deficit first, ties to the lower partition (R325). -/
def State.serveOrder (s : State) (k : Nat) : List (Nat × Nat) :=
  sortBy (fun (a b : Nat × Nat) =>
    let da := (s.core k).deficit.getD a.2 0
    let db := (s.core k).deficit.getD b.2 0
    decide (db < da) || (da == db && decide (a.2 ≤ b.2))) (s.tenantsOn k)

/-- The choice of core k among what `kept` leaves to a steal (R325): a tenant and the candidate taken. -/
def State.chooseBut (s : State) (k : Nat) (kept : Held → Bool) : Option (Nat × Cand) :=
  (s.serveOrder k).findSome? fun t =>
    let own := s.ownCands k t.1
    (s.bestCand k (if own.isEmpty then s.stealCands k t.1 kept else own)).map fun c => (t.1, c)

/-- Core k is idle and may choose in this c-cycle (10 Table 6). -/
def State.canChoose (s : State) (k : Nat) : Bool :=
  (s.core k).mode == .idle && decide ((s.core k).nextIssue + 2 ≤ s.cycle)

/-- The state in which the entries that cores of core k's cluster and of a lower index have taken in this c-cycle are back in their
places: what core k has to choose from (R328). -/
def State.untaken (s : State) (k : Nat) : State :=
  { s with bms := s.taken.foldr (fun x bms =>
      if x.cycle = s.cycle ∧ x.core / 8 = k / 8 ∧ x.core < k then bms.take x.index ++ x.entry :: bms.drop x.index else bms) s.bms }

/-- The entry is noted as taken by core k in this c-cycle (R328). -/
def State.noteTaken (s : State) (k : Nat) (h : Held) : State :=
  let index := (s.bms.findIdx? fun b => b.id == h.id).getD 0
  { s with taken := (s.taken.filter fun (x : Taken) => x.cycle == s.cycle) ++ [{ cycle := s.cycle, core := k, index, entry := h }] }

/-- The entry of its own cluster that core k would choose in this c-cycle. -/
def State.localChoice (s : State) (k : Nat) : Option Nat :=
  if s.canChoose k then
    match s.chooseBut k fun _ => false with
    | some (_, .held h) => if h.cluster = k / 8 then some h.id else none
    | _ => none
  else none

/-- A core of an entry's own cluster takes it in this c-cycle: it is served before a thief (R327, R353). -/
def State.keptHome (s : State) (h : Held) : Bool := (List.range 8).any fun i => s.localChoice (8 * h.cluster + i) == some h.id

/-- The choice of core k (R325, R327). -/
def State.choose (s : State) (k : Nat) : Option (Nat × Cand) := s.chooseBut k s.keptHome

/-- A core of lower index in the cluster of core k chooses the same entry in this c-cycle, or has taken it (R328). -/
def State.outranked (s : State) (k : Nat) (h : Held) : Bool :=
  (s.heldOf h.id).isNone || (List.range (k % 8)).any fun i =>
    let j := k / 8 * 8 + i
    s.canChoose j && (match s.choose j with
      | some (_, .held o) => o.id == h.id
      | _ => false)

/-! ### Taking and loading (R329, R332, R336) -/

/-- c-cycles of a steal's way to the header read: a time up to R329's bound (R497; log 12). -/
def State.stealCycles (s : State) (k cluster : Nat) : Nat :=
  if cluster = k / 8 then 0 else s.someTime (if cluster / 64 = k / 512 then 24 else 64)

/-- c-cycles from the choice to the first instruction of a bookmark on core k (10 Table 6, R329); the read of one from the closed stacks
is an open time (R497). -/
def State.loadCycles (s : State) (k : Nat) (b : Bookmark) (cluster : Nat) (room : Room) : Nat :=
  let slots := if b.kind = .new then b.units - 1 else b.units
  16 + ceilDiv slots 2 + s.spareHop k + s.stealCycles k cluster + (if room = .closed then s.openTime else 0)

/-- A ready bookmark is taken by core k, and its room freed (R331, R500); LSTAMP is the CYCLE of its entry into the queue (R315), for a
PREEMPT bookmark that of the pre-emption, and not the age that R351 has it keep in the queue: DESIGN CHOICE (log 101). A
header whose reserved bits or wait kind the service pair has written otherwise is refused and logged (R313); the refused bookmark is
discarded, and its room freed: DESIGN CHOICE (log 76). -/
def State.takeHeld (s : State) (k : Nat) (h : Held) : State :=
  let t := if h.bm.kind = .new then h.bm.launch (s.task k h.bm.task) h.entered else h.bm.relaunch h.entered
  if h.bm.reserved != 0 || h.bm.badKind.isSome then
    (s.unhold h.id).logAt 0x04 (BitVec.ofNat 8 (k / 512)) (BitVec.ofNat 16 k) (some h.bm.tenant) h.bm.strand.pc
      ((h.bm.badKind.getD h.bm.kind.code).setWidth 64)
  else (s.unhold h.id).fresher.load k h.id t (s.loadCycles k h.bm h.cluster h.room)

/-- The strand that an inbox record launches (10 Table 5). -/
def recordStrand (t : Nat) (e : TaskEntry) (r : HeadRecord) : Strand :=
  let st : Strand :=
    { pcc := { img := e.code, tag := e.codetag }, pc := e.entry.setWidth 64, status := mkStatus t e.comp
      prio := e.prio, lstamp := r.stamp }
  r.words.zipIdx.foldl (fun st w => st.setX (BitVec.ofNat 5 (10 + w.2)) w.1) st

/-- An inbox record is taken: FREE is raised in the same operation, and the strand launched, or BAD raised (R336). -/
def State.takeRecord (s : State) (k t : Nat) (r : HeadRecord) : State :=
  let b := r.inbox
  let s := match s.applyCell b.free 0 (s.cellVal b.free + 1) with
    | .ok s => s
    | .error _ => s
  if r.launches then ({ s with nextId := s.nextId + 1 }).load k s.nextId (recordStrand t (s.task k r.task) r) (16 + s.spareHop k)
  else
    let bad := (memNat s.mem (b.base + 40) 4 + 1) % 2 ^ 32
    { s with mem := memPuts s.mem (cellsFrom (b.base + 40) (natBytes 4 bad)), tags := tagPut s.tags (b.base / 64) false }

/-- A call that reports a TASK_DENIED found at dispatch, with handle 0 and nothing pending; the next escalation of a tenant with 64
unanswered resets it (R323, R428). -/
def State.denyTask (s : State) (k : Nat) (h : Held) : State :=
  let detail : BitVec 56 := 0#38 ++ 0#2 ++ BitVec.ofNat 10 k ++ h.bm.task
  let c : Call :=
    { id := s.nextId, tenant := h.bm.tenant, gen := h.bm.gen, comp := stComp h.bm.strand.status
      word := mkFaultinfo cTaskDenied detail, cap := {}, slip := none, fault := some 0 }
  let s := s.unhold h.id
  if 64 ≤ s.escalations h.bm.tenant then s.beginReset h.bm.tenant 4
  else { s with service := { s.service with calls := s.service.calls ++ [c] }, nextId := s.nextId + 1 }

/-- A NEW record bound to core k whose entry is invalid or another tenant's (R323). -/
def State.invalidOn (s : State) (k : Nat) (h : Held) : Bool :=
  let e := s.task k h.bm.task
  h.holder == .ready && h.bm.kind == .new && h.bm.bind && h.bm.lcore == k && h.bm.gen == s.gen h.bm.tenant &&
    !(s.taskValid k e && e.tenant.toNat == h.bm.tenant)

/-- Such records are removed (R323). -/
def State.dropInvalid (s : State) (k : Nat) : State := (s.bms.filter (s.invalidOn k)).foldl (fun s h => s.denyTask k h) s

/-- The marked bookmark that core k takes ahead of every choice, with its gate (R377). -/
def State.markedFor (s : State) (k : Nat) : Option (Held × Nat) :=
  (s.core k).released.findSome? fun r =>
    match s.heldOf r.1 with
    | some h => if s.eligible k h && decide (h.entered < s.cycle) then some (h, r.2) else none
    | none => none

/-- A pre-emption of core k is asked for, or its marked bookmark waits for it, which a strand that the core chose before that bookmark was
released gives way to at its next boundary too (R377, R430). -/
def State.preemptDue (s : State) (k : Nat) : Bool := (s.core k).preemptReq || (s.markedFor k).isSome

/-- DISPATCH_CHOOSE: an idle core takes a marked bookmark, or what R325 chooses (R323 to R329); one that loses an entry to a core of
lower index chooses again in the next c-cycle (R328). -/
def execDispatchChoose (core : Nat) (s : State) : Out :=
  s.event (s.canChoose core) fun s =>
    let s := s.dropInvalid core
    match s.markedFor core with
    | some (h, gate) =>
      (s.takeHeld core h).updCore core fun c =>
        { c with phase := .arming gate, released := c.released.filter fun r => r.1 != h.id }
    | none =>
      match (s.untaken core).choose core with
      | some (_, .held h) =>
        if s.outranked core h then s.updCore core fun c => { c with nextIssue := s.cycle - 1 }
        else (s.noteTaken core h).takeHeld core h
      | some (t, .record r) => s.takeRecord core t r
      | none => s.updCore core fun c => { c with rescan := false }

/-- The address at which the check of a strand's capabilities before it starts reads data that fails, during a sweep of its tenant
(R200, R414). -/
def State.loadFails (s : State) (t : Strand) : Option Nat :=
  if (s.tenant t.tenant).sweepPending then (t.tagged.flatMap (s.testFails t.tenant)).head? else none

/-- DISPATCH_LOAD_COMPLETE: the strand starts; during a sweep of its tenant its capabilities are checked first (R329,
R414). A check that reads data which fails raises MEM_INTEGRITY before the strand's first instruction: DEDUCED (R200; log 98). -/
def execDispatchLoadComplete (core : Nat) (s : State) : Out :=
  let c := s.core core
  s.event (c.mode == .loading && decide (c.nextIssue ≤ s.cycle)) fun s =>
    let t := c.strand.tenant
    let u := s.updCore core fun c =>
      { c with
        mode := .running, runStart := s.cycle
        strand := if (s.tenant t).sweepPending then c.strand.weed (s.hits t) else c.strand }
    match s.loadFails c.strand with
    | some va => (u.noteConsumed t core cIntegrity (vaDetail va)).enterFault core { cause := cIntegrity, detail := vaDetail va }
    | none => u

/-- The deficits of a core raised by 16 times the weight of each partition's holder (R326). -/
def State.raiseDeficits (s : State) (c : Core) : Core :=
  { c with
    deficit := Vector.ofFn fun (i : Fin 4) =>
      let r := c.residency[i]
      let d : Int := c.deficit[i]
      if r.v && r.gen == s.gen r.tenant then clampInt 65536 (d + 16 * (s.tenant r.tenant).dispw.toNat) else d
    awayDef := c.awayDef.map fun d => (d.1, clampInt 65536 (d.2 + 16 * (s.tenant d.1).dispw.toNat)) }

/-- DISPATCH_DEFICIT_RAISE: every 4,096 c-cycles (R326, R503). -/
def execDispatchDeficitRaise (s : State) : Out :=
  s.event (s.cycle % 4096 == 0 && !s.raised.getLsbD 0) fun s =>
    { s with raised := putBit s.raised 0 true, cores := s.cores.map fun c => (c.1, s.raiseDeficits c.2) }

/-! ### Pre-emption (R429, R430, R351) -/

/-- The condition of a tenant turn or a priority turn holds on core k (13 Table 4). -/
def State.turnDue (s : State) (k : Nat) : Bool :=
  let c := s.core k
  let t := c.strand.tenant
  let r := s.cycle - c.runStart
  let mine : Int := match s.partOf t k with | some i => c.deficit.getD i 0 - (r : Nat) | none => 0
  let tenantTurn := decide (8192 ≤ r) && (s.tenantsOn k).any fun u =>
    u.1 != t && decide (mine < c.deficit.getD u.2 0) && !(s.ownCands k u.1).isEmpty
  let prioTurn := decide (262144 ≤ r) && (s.ownCands k t).any fun e =>
    decide (c.strand.prio.toNat ≤ s.effPrio (e.prio s k) e.stamp)
  tenantTurn || prioTurn

/-- The c-cycles at which a condition of core k's turns may come to hold (13 Table 4). -/
def State.turnTimes (s : State) (k : Nat) : List Nat :=
  let c := s.core k
  let mine : Int := match s.partOf c.strand.tenant k with | some i => c.deficit.getD i 0 | none => 0
  [s.cycle, c.runStart + 8192, c.runStart + 262144] ++
    ((s.tenantsOn k).flatMap fun u =>
      ((c.runStart : Int) + mine - c.deficit.getD u.2 0 + 1).toNat ::
        (s.bms.filter fun h => h.bm.tenant == u.1 && s.eligible k h).flatMap fun h => [h.entered + 1, h.stamp + 65536, h.stamp + 262144]) ++
    (s.slotStamps.flatMap fun x => [x.2 + 1, x.2 + 65536, x.2 + 262144])

/-- The first c-cycle in which a condition of core k's turns holds, as things stand (R429). -/
def State.turnAt (s : State) (k : Nat) : Option Nat :=
  ((s.turnTimes k).filter fun n => decide (s.cycle ≤ n) && ({ s with cycle := n } : State).turnDue k).min?

/-- PREEMPT_REQUEST: by the dispatcher when a condition holds, or by the service pair for a strand that it has found in the way of a
swap, a mode change, a lock or a node release (R429). -/
def execPreemptRequest (core : Nat) (service : Bool) (s : State) : Out :=
  s.event ((s.core core).mode == .running && (if service then (s.core core).svcWant else s.turnDue core)) fun s =>
    s.updCore core fun c => { c with preemptReq := true }

/-- The PREEMPT bookmark of core k (R351). -/
def State.preemptBookmark (s : State) (k : Nat) : Bookmark :=
  let t := (s.core k).strand
  s.mkBookmark k t .preempt (allSaved t) 0 ((t.faultinfo.extractLsb' 0 56).setWidth 64) false

/-- PREEMPTION: the core drains and its strand becomes a PREEMPT bookmark; a failure found by the drain makes a fault
bookmark with its pc at the next instruction (R430, R431). It waits resident in SAVING for the drain (R332). -/
def execPreemption (core : Nat) (s : State) : Out :=
  let c := s.core core
  s.event (c.mode == .running && !c.waiting && decide (c.nextIssue ≤ s.cycle) && s.preemptDue core && c.phase == .none) fun s =>
    match s.drain core with
    | .waits s => s.updCore core fun c => { c with waiting := true, mode := .saving, inExec := some (.preemption core) }
    | .failed s cause va => s.enterFault core { cause, detail := vaDetail va }
    | .done s =>
      let b := s.preemptBookmark core
      let t := b.tenant
      let s := s.updFn t fun f => { f with preempts := f.preempts + 1 }
      (s.vacate core .saving (ceilDiv b.slots 2)).hold b .ready (core / 8) b.strand.lstamp .reserve

end Sys2Proof.Machine
end

