-- ==== Sys2Proof/Machine/Launch.lean ====
section
/-! DEFINITION. Launches: the descriptor and its checks, the launch ring of a function, and its doorbell (10 R321, R322, 14
R448). -/

namespace Sys2Proof.Machine

/-- A field of a block of bytes, little-endian. -/
def field (bs : List Byte) (off n : Nat) : Nat := bytesNat ((bs.drop off).take n)

/-- Bytes of a block are zero. -/
def zeroBytes (bs : List Byte) (off n : Nat) : Bool := ((bs.drop off).take n).all (· == 0)

/-- READY as it reads (R447). -/
def State.isReady (s : State) (fn : Nat) : Bool := (s.fn fn).ready && (s.tenant fn).v && !s.service.stopped

/-! ### The checks (R321) -/

/-- Check 1: every field is well formed. -/
def launchForm (host : Bool) (d : List Byte) : Bool :=
  let groups := field d 0 2
  zeroBytes d 4 4 && zeroBytes d 32 32 && decide (1 ≤ groups) && decide (groups ≤ 1024) && decide (field d 2 1 < 64) &&
  (if host then
    decide (1 ≤ field d 24 8) && decide (field d 24 8 < 2 ^ 32) && decide (field d 16 8 + field d 24 8 ≤ 2 ^ 56) &&
      zeroBytes d 64 64
  else zeroBytes d 16 16)

/-- The placement entries of a launch. -/
def State.readPlacement (s : State) (t place n : Nat) : Eng (State × List Nat) :=
  if 2 ^ 56 < place + 2 * n then .error (.stop cMiss 0)
  else (List.range n).foldlM (fun (acc : State × List Nat) i => do
    let (s, bs) ← acc.1.engRead none t (place + 2 * i) 2
    .ok (s, acc.2 ++ [bytesNat bs])) (s, [])

/-- Check 2 on the entries read. -/
def State.placed (s : State) (t : Nat) (es : List Nat) : Bool := es.all fun e => decide (e < 1024) && s.inNodes t e

/-- Check 3. -/
def State.tasksValid (s : State) (t : Nat) (task : BitVec 6) (es : List Nat) : Bool :=
  es.all fun k => let e := s.task k task; s.taskValid k e && e.tenant.toNat == t

/-- The argument capability of a launch (R321). -/
def launchArg (host : Bool) (d : List Byte) (argTag : Bool) (comp : BitVec 16) : CapReg :=
  if host then { img := mkCap fByte (field d 16 8) (field d 24 8) (pLd ||| pLdc) 0 comp 2, tag := true }
  else { img := BitVec.ofNat 512 (field d 64 64), tag := argTag }

/-- The NEW record of group g on core k. -/
def State.groupRecord (s : State) (t k g : Nat) (host : Bool) (d : List Byte) (argTag : Bool) : Bookmark :=
  let task := BitVec.ofNat 6 (field d 2 1)
  let e := s.task k task
  { strand := { status := mkStatus t e.comp }, kind := .new, gen := s.gen t, bind := true, lcore := k, prio := e.prio, task
    warg := BitVec.ofNat 32 (field d 0 2) ++ BitVec.ofNat 32 g, arg := some (launchArg host d argTag e.comp) }

/-- The records of a launch, each with room: none where one finds none (check 4). -/
def State.placeGroups (s : State) (t : Nat) (host : Bool) (d : List Byte) (argTag : Bool) : List (Nat × Nat) → Option State
  | [] => some s
  | (g, k) :: r =>
    let b := s.groupRecord t k g host d argTag
    match s.roomFor (k / 8) t b.slots with
    | some room => (s.hold b .ready (k / 8) s.cycle room).placeGroups t host d argTag r
    | none => none

/-- What becomes of a launch: a STATUS, or it waits for a page or for an absent partition. -/
inductive Launched where
  | answer (s : State) (status : Nat) | waits (s : State) (group : Option Nat)

/-- A launch checked as a whole; its records are placed when every check passes (R321). The service pair does not read a placement
that lies in a locked core (R399). -/
def State.launch (s : State) (t : Nat) (host : Bool) (d : List Byte) (argTag denied : Bool) : Launched :=
  if !launchForm host d then .answer s 4
  else if denied then .answer s 1
  else match s.firstLocked ((List.range (field d 0 2)).map fun i => field d 8 8 + 2 * i) with
  | some (k, va) => .answer (s.logLocked k va) 1
  | none => match s.readPlacement t (field d 8 8) (field d 0 2) with
    | .error (.stop _ _) => .answer s 1
    | .error (.page s g _) => .waits s (some g)
    | .error (.held _) => .waits s none
    | .ok (s, es) =>
      if !s.placed t es then .answer s 1
      else if !s.tasksValid t (BitVec.ofNat 6 (field d 2 1)) es then .answer s 2
      else match s.placeGroups t host d argTag ((List.range es.length).zip es) with
        | some s => .answer s 0
        | none => .answer s 3

/-! ### The launch ring (R448) -/

/-- The doorbells of a function whose requests are held are discarded with its other register writes (R452, R466). -/
def Fn.noWrites (f : Fn) : Bool := f.tdi == .quiesced || f.d3hot

/-- A write of a function's BAR 0 registers is discarded without a trace (R452, R455, R466). -/
def Fn.dropsWrite (f : Fn) (ide : IdeTag) : Bool := f.lostOn ide || f.noWrites

/-- LAUNCH_DOORBELL (R447, R448, R450): a discarded one sets QERR. -/
def execLaunchDoorbell (fn : OfTlp Nat) (tail : BitVec 16) (s : State) : Out :=
  let f := s.fn fn.val
  if f.dropsWrite fn.ide then .next s
  else
    let ok := s.isReady fn.val && f.tdi != .locked && (match ringLog f.lqbase with
      | some l => decide ((tail - f.lqhead).toNat ≤ 2 ^ l)
      | none => false)
    .next (s.updFn fn.val fun f => if ok then { f with lqtail := tail } else { f with qerr := true })

/-- The function's rings are read: it accepts launches and issues requests (R447, R450, R452). A lock discards the doorbells only: slots
that a doorbell has named before it are read (R448, R451). -/
def State.readsRings (s : State) (fn : Nat) : Bool := s.isReady fn && !(s.fn fn).halted

/-- A byte of host memory written by the part. -/
def State.pokeHost (s : State) (fn io : Nat) (bs : List Byte) : State :=
  { s with mem := memPuts s.mem (cellsFrom (hostPlace fn io) bs) }

/-- The launch slot at LQHEAD is answered: STATUS in host memory, LQHEAD advanced, vector 0 signalled (R448, R468). -/
def State.answerSlot (s : State) (fn slot status : Nat) : State :=
  (s.pokeHost fn (slot + 3) [BitVec.ofNat 8 status]).updFn fn fun f =>
    { f with
      lqhead := f.lqhead + 1, lqWait := none, lqDenied := false, msix := 0 :: f.msix
      accepted := if status = 0 then f.accepted + 1 else f.accepted
      refused := if status = 0 then f.refused else f.refused + 1 }

/-- LAUNCH_SLOT: the slot at LQHEAD is read and its launch applied (R321, R448). -/
def execLaunchSlot (fn : Nat) (s : State) : Out :=
  let f := s.fn fn
  match ringLog f.lqbase with
  | none => .next s
  | some l =>
    s.event (s.readsRings fn && f.lqtail != f.lqhead) fun s =>
      let slot := ringBase f.lqbase + 128 * (f.lqhead.toNat % 2 ^ l)
      let d := memRead s.mem (hostPlace fn slot) 128
      match s.launch fn true d false f.lqDenied with
      | .answer s status => s.answerSlot fn slot status
      | .waits s g => s.updFn fn fun f => { f with lqWait := g }

end Sys2Proof.Machine
end

