-- ==== Sys2Proof/Machine/Registers.lean ====
section
/-! DEFINITION. BAR 0 as a function's host reads it: the registers, the feature list and the feature bodies (12 R419, R420, 14
R445, R467 to R471). -/

namespace Sys2Proof.Machine

/-! ### Feature bodies, by 64-bit word -/

/-- The ASCII octets of PARTNO, "NVZ-Q9-1024", padded with zero bytes (R467). -/
def partNo : List Nat := [0x4E, 0x56, 0x5A, 0x2D, 0x51, 0x39, 0x2D, 0x31, 0x30, 0x32, 0x34, 0, 0, 0, 0, 0]

/-- Spare substitutions in quadrant q of die d (R24, R405). -/
def State.substitutions (s : State) (d q : Nat) : Nat :=
  (((s.service.remap.getD d []).zipIdx.filter fun e => e.1.getLsbD 15 && e.2 / 2 == q).length) % 4

/-- SUB of a die. -/
def State.subWord (s : State) (d : Nat) : Nat := packElems 2 ((List.range 4).map (s.substitutions d))

/-- The identity body (14 Table 8). -/
def State.identityWord (s : State) (i : Nat) : Word :=
  let pass (d : Nat) : Nat := if h : d < 2 then (if s.service.pairs[d].passed then 1 else 0) else 0
  if i < 2 then w64 (packElems 8 ((partNo.drop (8 * i)).take 8))
  else if i = 2 then
    w64 (Config.stepping.toNat + (s.service.svnNow.getD Config.svn).toNat * 2 ^ 16 +
      (s.subWord 0 + s.subWord 1 * 2 ^ 8 + pass 0 * 2 ^ 16 + pass 1 * 2 ^ 17 +
        (if s.service.leader = some 1 then 2 ^ 18 else 0)) * 2 ^ 32)
  else Config.serial

/-- Bytes 0 to 7 of a port block: MODE, ENC, TENANT and BINDERR (14 Table 10); TENANT as a function is shown it. -/
def Port.modeWord (p : Port) (shown : Bool) (full : Bool) : Word :=
  w64 (p.mode.toNat + (if full && p.enc then 4 else 0) + (if shown then p.tenant * 2 ^ 16 else 0) +
    (if full && p.bindErr then 2 ^ 31 else 0))

/-- The Odpa body: the physical function's, or a virtual function's copy, which shows MODE, UP and DOWNCAUSE, and TENANT and
RINGVA for a port that serves it (R469). -/
def State.odpaWord (s : State) (fn i : Nat) : Word :=
  let p := s.port (i / 4)
  let full := fn == 0
  let mine := full || (p.mode == 2 && p.tenant == fn)
  match i % 4 with
  | 0 => p.modeWord mine full
  | 1 => if mine then p.ringva else 0
  | 2 => w64 ((if p.up then 1 else 0) + p.downCause.toNat * 2 + (if full && p.up then 8 * 256 else 0))
  | _ => if full then p.rxflits else 0

/-- The attestation body (14 Table 11). -/
def State.attestWord (s : State) (fn i : Nat) : Word :=
  if i = 0 then w64 (6 + (if fn = 0 then Config.doeOff.toNat * 2 ^ 16 else 0))
  else if i < 9 then Config.chainDigest.extractLsb' (64 * (i - 1)) 64
  else s.service.sessions

/-- The power body (14 Table 11). -/
def State.powerWord (s : State) (i : Nat) : Word :=
  let p := s.power
  if i = 0 then
    w64 (p.plimit.toNat + p.pavg.toNat * 2 ^ 16 + p.step.toNat * 2 ^ 32 + (if p.throttled then 2 ^ 40 else 0) +
      (if p.hot then 2 ^ 41 else 0))
  else w64 (p.temp0.toNat + p.temp1.toNat * 2 ^ 16 + p.changes.toNat * 2 ^ 32)

/-- Word i of the body of a feature (14 Tables 8 to 12). -/
def State.bodyWord (s : State) (fn id i : Nat) : Word :=
  let f := s.fn fn
  match id with
  | 1 => s.identityWord i
  | 2 => if i = 0 then w64 (1024 + 4 * 2 ^ 16 + 12 * 2 ^ 24 + 128 * 2 ^ 32) else if i = 1 then f.accepted else f.refused
  | 3 => if i = 0 then w64 (64 + 12 * 2 ^ 16 + 12 * 2 ^ 24 + 0x0006003E * 2 ^ 32) else f.ignored
  | 4 => Config.callBody i
  | 5 => s.odpaWord fn i
  | 6 => s.attestWord fn i
  | 7 => s.powerWord i
  | _ =>
    if i = 0 then w64 (Config.logOff fn * 32 % 2 ^ 32 + 256 * 2 ^ 32) + (f.loghead.setWidth 64 <<< 48)
    else if i = 1 then (s.fn 0).softerr else if i = 2 then f.preempts else 0

/-- 64-bit words of the body of a feature. -/
def bodyWords (fn id : Nat) : Nat :=
  match id with
  | 1 => 4
  | 2 => 3
  | 3 => 2
  | 4 => Config.featureOff fn 5 - Config.featureOff fn 4 - 1
  | 5 => 16
  | 6 => 10
  | 7 => 2
  | _ => 4

/-! ### The feature list (R419, R467) -/

/-- BAR 0 offset of the entry of a feature: the list begins at FLPTR, and its entries stand in the order of their identifiers
(log 22). -/
def featureAt (fn id : Nat) : Nat := if id = 1 then 0x100 else 8 * Config.featureOff fn id

/-- The header of the entry of a feature (12 Table 16). -/
def featureHeader (fn id : Nat) : Word :=
  w64 (id + 2 ^ 24 + (if id < 8 then featureAt fn (id + 1) % 2 ^ 32 * 2 ^ 32 else 0))

/-- The word of the feature list at an offset, where an entry from `id` on occupies it. -/
def State.listWord (s : State) (fn o : Nat) : Nat → Nat → Option Word
  | 0, _ => none
  | fuel + 1, id =>
    let a := featureAt fn id
    if o = a then some (featureHeader fn id)
    else if a + 8 ≤ o ∧ o < a + 8 + 8 * bodyWords fn id then some (s.bodyWord fn id ((o - a - 8) / 8))
    else s.listWord fn o fuel (id + 1)

/-! ### The error log ring (R471) -/

/-- Word i of an error log entry (14 Table 13). -/
def LogEntry.word (e : LogEntry) (i : Nat) : Word :=
  match i with
  | 0 => e.time
  | 1 => 0#16 ++ e.func ++ e.unit ++ e.die ++ e.kind
  | 2 => e.addr
  | _ => e.arg

/-- The word of the log ring at an offset of the ring: entry n of the ring is the last one written at n modulo LOGLEN. -/
def Fn.logWord (f : Fn) (o : Nat) : Word :=
  let n := o / 32
  let first := f.loghead.toNat + 65536 - f.log.length
  match f.log.zipIdx.find? fun e => (first + e.2) % 256 == n with
  | some e => e.1.word (o % 32 / 8)
  | none => 0

/-! ### The registers (14 Table 2) -/

/-- The status register at 0x0008. -/
def State.statusWord (s : State) (fn : Nat) : Word :=
  let f := s.fn fn
  w64 ((if s.isReady fn then 1 else 0) + (if f.resetting then 2 else 0) + (if f.qerr then 4 else 0) +
    (s.gen fn).toNat * 2 ^ 8 + (if fn = 0 then f.bootErr.toNat * 2 ^ 16 else 0))

/-- The 64-bit word of BAR 0 at a multiple of 8. -/
def State.bar0Word (s : State) (fn o : Nat) : Word :=
  let f := s.fn fn
  if o = 0x00 then 0x100
  else if o = 0x08 then s.statusWord fn
  else if o = 0x10 then f.apbase
  else if o = 0x18 then f.cbase
  else if o = 0x20 then f.lqbase
  else if o = 0x28 then f.lqtail.setWidth 64
  else if o = 0x30 then f.lqhead.setWidth 64
  else if o = 0x40 then f.mobase
  else if o = 0x48 then f.motail.setWidth 64
  else if o = 0x50 then f.mohead.setWidth 64
  else if o = 0x58 then f.mibase
  else if o = 0x60 then f.mitail.setWidth 64
  else if o = 0x68 then f.mihead.setWidth 64
  else if o < 0x100 then 0
  else match s.listWord fn o 8 1 with
    | some w => w
    | none =>
      let l := 32 * Config.logOff fn
      if l ≤ o ∧ o < l + 8192 then f.logWord (o - l) else 0

/-- The bytes of an aligned read of 4 or 8 bytes of BAR 0. -/
def State.bar0Read (s : State) (fn o len : Nat) : List Byte :=
  ((natBytes 8 (s.bar0Word fn (o / 8 * 8)).toNat).drop (o % 8)).take len

/-! ### Writes (R445) -/

/-- The value that a write of 4 or 8 bytes makes of a register. -/
def merged (old : Word) (o size : Nat) (v : Word) : Word :=
  if size = 8 then v else putBits old (8 * (o % 8)) (v.extractLsb' 0 32)

/-- A ring base register holds a value within its rules. -/
def ringOk (v : Word) : Bool := v.extractLsb' 4 8 == 0 && (ringLog v).isSome

/-- BAR0_REGISTER_WRITE (R445, R452): the registers that have no event of their own; a write of a read-only or unoccupied
offset, of a reserved field, or of a base outside its rules is discarded. -/
def execBar0RegisterWrite (fn : OfTlp Nat) (off size : Nat) (value : Word) (s : State) : Out :=
  let o := off / 8 * 8
  let f := s.fn fn.val
  s.event (!f.dropsWrite fn.ide && off % size == 0) fun s =>
    if o = 0x10 then
      let v := merged f.apbase off size value
      if v &&& 0xFF00000FFFFFFFFF = 0 then s.updFn fn.val fun f => { f with apbase := v } else s
    else if o = 0x18 then
      let v := merged f.cbase off size value
      if v &&& 0xFF00000003FFFFFF = 0 then s.updFn fn.val fun f => { f with cbase := v } else s
    else if o = 0x20 then
      let v := merged f.lqbase off size value
      if ringOk v then s.updFn fn.val fun f => { f with lqbase := v } else s
    else if o = 0x40 then
      let v := merged f.mobase off size value
      if ringOk v then
        let s := s.updFn fn.val fun f => { f with mobase := v }
        s.pump fn.val (s.fn fn.val).outbox.length
      else s
    else if o = 0x58 then
      let v := merged f.mibase off size value
      if ringOk v then s.updFn fn.val fun f => { f with mibase := v } else s
    else s

end Sys2Proof.Machine
end

