-- ==== Sys2Proof/Machine/Aperture.lean ====
section
/-! DEFINITION. Host requests on the apertures of a function and reads of its BAR 0 (14 R443 to R445, R450 to R453, R455). -/

namespace Sys2Proof.Machine

/-! ### Admission (R450, R452, R453, R455, R466) -/

/-- What becomes of a host request before it is carried out. -/
inductive Admit where
  | yes | discarded | unsupported | aborted
  deriving DecidableEq, Repr

/-- The stream of a request is Secure. -/
def Fn.secureOn (f : Fn) (st : Nat) : Bool := if h : st < 2 then f.ide[st].secure else false

/-- Whether a function accepts an aperture request: none while it is halted (R450, R452), in RUN only on its stream and with the T bit
set (R453), and for an unlocked function none on a stream that became Insecure (R455). -/
def Fn.admits (f : Fn) (ide : IdeTag) : Admit :=
  if f.lostOn ide then .discarded
  else if f.halted then .aborted
  else if f.tdi == .run then (match ide with
    | some (st, true) => if f.secureOn st then .yes else .unsupported
    | _ => .unsupported)
  else .yes

/-- A read of BAR 0 is accepted: it is no aperture request, so the stream is not asked for. -/
def Fn.admitsBar0 (f : Fn) (ide : IdeTag) : Admit :=
  if f.lostOn ide then .discarded else if f.noWrites then .aborted else .yes

/-- The answer of a request that is not carried out. -/
def Admit.answer : Admit → Answer
  | .yes => .none
  | .discarded => .none
  | .unsupported => .unsupported
  | .aborted => .aborted

/-- A request answered. -/
def State.answered (s : State) (a : Answer) : State := { s with answer := a }

/-! ### Reaching the tenant's memory (R444) -/

/-- Bytes of the data aperture and of the counter aperture (R443). -/
def dataSpan : Nat := 2 ^ 36
/-- Bytes of the counter aperture (R443). -/
def counterSpan : Nat := 2 ^ 26

/-- The device virtual address of an offset of BAR 2. -/
def Fn.dataVa (f : Fn) (o : Nat) : Nat := (f.apbase.toNat + o) % 2 ^ 56
/-- The device virtual address of an offset of BAR 4. -/
def Fn.counterVa (f : Fn) (o : Nat) : Nat := (f.cbase.toNat + o) % 2 ^ 56

/-- A request to an absent partition is held until it is restored (R191). -/
def State.heldRequest (s : State) (fn va : Nat) (r : ApertureReq) : State :=
  match windowOf va with
  | .spad k _ => { s with heldReqs := s.heldReqs ++ [{ tenant := fn, core := k, req := r }], answer := .held }
  | _ => s

/-- A request carried out, or refused with Completer Abort and without effect. -/
def State.orAborted (s : State) (r : Raises State) : State :=
  match r with
  | .ok s => s
  | .error _ => s.answered .aborted

/-- A Memory Read of the data aperture. -/
def State.dataRead (s : State) (fn va len : Nat) : Raises State := do
  let (s, ps) ← s.aperturePlaces fn va len needR
  let (s, bs) ← s.readPlaces fn va ps
  .ok (s.answered (.data bs))

/-- A Memory Write of the data aperture: the tags of its granules are cleared (R120). -/
def State.dataWrite (s : State) (fn va : Nat) (data : List Byte) : Raises State := do
  let (s, ps) ← s.aperturePlaces fn va data.length needW
  let s := (← s.writePlaces fn va (ps.zip data)).byHost ps
  .ok (s.answered (.data []))

/-! ### BAR 4 -/

/-- A Memory Read of 8 bytes at a cell: VALUE; for a cell at a peer a CREAD flit asks for it. -/
def State.counterRead (s : State) (fn va : Nat) : Raises State := do
  need (s.tenant fn).v cMiss (vaDetail va)
  let p ← s.placeOf fn va needR true va
  need (!s.homeRefuses p) cHome (vaDetail va)
  match p.home with
  | .peer q =>
    let off := (p.flat - peerFlat) % 2 ^ 46
    let o : PeerOp :=
      { id := s.nextId, tenant := fn, gen := s.gen fn, off, place := p.flat, va, kind := .add 0, read := some 0, watch := false
        origin := .aperture fn }
    .ok (((({ s with nextId := s.nextId + 1 }).updPort q fun x => { x with pending := x.pending ++ [o] }).sendFlit q (some fn) 0x04
      (w64 o.id :: ctrPayload off 0)).answered .held)
  | .host => do
    let op : CtrOp := { id := s.nextId, place := p.flat, va, kind := .read, tenant := fn, gen := s.gen fn, origin := .aperture fn }
    match s.bump.atHost op with
    | .applied s => .ok s
    | .sent s => .ok (s.answered .held)
    | .refused _ cause => raise cause (vaDetail va)
    | .held s => .ok ({ s with counterOps := s.counterOps ++ [op] }.answered .held)
  | _ => do
    need (!s.badAt p.flat) cIntegrity (vaDetail va)
    .ok (s.answered (.data (memRead s.mem p.flat 8)))

/-- A remote add at a cell: the old VALUE, or the request is held or sent on to the cell's home (R270). -/
def State.counterAdd (s : State) (fn va : Nat) (amount : Word) : Raises State := do
  need (s.tenant fn).v cMiss (vaDetail va)
  let p ← s.placeOf fn va needRW true va
  let op : CtrOp :=
    { id := s.nextId, place := p.flat, va, kind := .add amount, tenant := fn, gen := s.gen fn, origin := .aperture fn }
  let s := { s with nextId := s.nextId + 1 }
  match s.atHome op p with
  | .applied s => .ok (s.opApplied op (s.cellVal p.flat))
  | .sent s => .ok (s.answered .held)
  | .refused _ cause => raise cause (vaDetail va)
  | .held s => .ok ({ s with counterOps := s.counterOps ++ [op] }.answered .held)

/-! ### Data atomics -/

/-- The data atomic that an AtomicOp is (R228, R444). -/
def amoOf : HostAtomic → AmoOp
  | .fetchAdd => .add
  | .swap => .swap
  | .cas => .cas

/-- A data atomic of the host: the old bytes. -/
def State.dataAtomicAt (s : State) (fn va : Nat) (op : HostAtomic) (wide : Bool) (a b : Word) : Raises State := do
  let n := amoBytes wide
  let (s, ps) ← s.aperturePlaces fn va n needRW
  let (s, old) ← s.atomicAt fn va (ps.headD { flat := 0, home := .host }) (amoOf op) wide (if op = .cas then b else a) a
  .ok (s.answered (.data (natBytes n old)))

/-! ### The requests -/

/-- A request carried out (R444). -/
def State.perform (s : State) (fn : Nat) (r : ApertureReq) : State :=
  match r with
  | .read va len => s.orAborted (s.dataRead fn va len)
  | .cell va => s.orAborted (s.counterRead fn va)
  | .write va data => s.orAborted (s.dataWrite fn va data)
  | .atomic va op wide a b => s.orAborted (s.dataAtomicAt fn va op wide a b)

/-- The device virtual address of a request. -/
def ApertureReq.va : ApertureReq → Nat
  | .read va _ => va
  | .cell va => va
  | .write va _ => va
  | .atomic va _ _ _ _ => va

/-- The bytes that a request reaches. -/
def ApertureReq.len : ApertureReq → Nat
  | .read _ len => max 1 len
  | .cell _ => 16
  | .write _ data => max 1 data.length
  | .atomic _ _ wide _ _ => amoBytes wide

/-- A request that has arrived at its tenant's memory: held for an absent partition under its first or its last byte, or carried out
(R191). -/
def State.arrive (s : State) (fn : Nat) (r : ApertureReq) : State :=
  match s.heldIn fn r.va r.len with
  | some at' => s.heldRequest fn at' r
  | none => s.perform fn r

/-- A host request: not admitted, not of the aperture's forms, or taken to the tenant's memory. -/
def State.request (s : State) (fn : Nat) (ide : IdeTag) (ok : Bool) (r : ApertureReq) : State :=
  let f := s.fn fn
  if f.admits ide ≠ .yes then s.answered (f.admits ide).answer
  else if !ok then s.answered .unsupported
  else s.arrive fn r

/-- APERTURE_MEMORY_READ: BAR 2 gives the tenant's bytes and BAR 4, at a multiple of 16, the VALUE of a cell (R444); BAR 0 the
registers and feature list (R445, R467). -/
def execApertureMemoryRead (fn bar off len : Nat) (ide : IdeTag) (s : State) : Out :=
  let f := s.fn fn
  if bar = 0 then
    if f.admitsBar0 ide ≠ .yes then .next (s.answered (f.admitsBar0 ide).answer)
    else if (len = 4 ∨ len = 8) ∧ off % len = 0 ∧ off + len ≤ 65536 then .next (s.answered (.data (s.bar0Read fn off len)))
    else .next (s.answered .unsupported)
  else if bar = 2 then .next (s.request fn ide (decide (off + len ≤ dataSpan)) (.read (f.dataVa off) len))
  else .next (s.request fn ide (off % 16 == 0 && len == 8 && decide (off + len ≤ counterSpan)) (.cell (f.counterVa off)))

/-- APERTURE_MEMORY_WRITE (R444). -/
def execApertureMemoryWrite (fn off : Nat) (data : List Byte) (ide : IdeTag) (s : State) : Out :=
  .next (s.request fn ide (decide (off + data.length ≤ dataSpan)) (.write ((s.fn fn).dataVa off) data))

/-- APERTURE_ATOMICOP (R444): `a` is the operand, or for CAS the compare value and `b` the swap value; the operand is naturally
aligned. -/
def execApertureAtomicop (fn off : Nat) (op : HostAtomic) (wide : Bool) (a b : Word) (ide : IdeTag) (s : State) : Out :=
  .next (s.request fn ide (off % amoBytes wide == 0 && decide (off + amoBytes wide ≤ dataSpan))
    (.atomic ((s.fn fn).dataVa off) op wide a b))

/-- Every other request on an aperture, or on BAR 0, is answered with Unsupported Request (R442, R444). -/
def State.barOther (s : State) (fn bar : Nat) (ide : IdeTag) : State :=
  let a := if bar = 0 then (s.fn fn).admitsBar0 ide else (s.fn fn).admits ide
  s.answered (if a = .yes then .unsupported else a.answer)

/-- COUNTER_APERTURE_FETCHADD (R444); a tenant reset in progress refuses it (R433). -/
def execCounterApertureFetchadd (fn off : Nat) (amount : Word) (ide : IdeTag) (s : State) : Out :=
  let f := s.fn fn
  if f.admits ide ≠ .yes then .next (s.answered (f.admits ide).answer)
  else if off % 16 ≠ 0 ∨ counterSpan < off + 8 then .next (s.answered .unsupported)
  else if f.resetting then .next (s.answered .aborted)
  else .next (s.orAborted (s.counterAdd fn (f.counterVa off) amount))

end Sys2Proof.Machine
end

