-- ==== Sys2Proof/Machine/Branch.lean ====
section
/-! DEFINITION. Branches, jumps and compartment calls (04 R132 to R136, R139, R140, 02 R59). -/

namespace Sys2Proof.Machine

/-- The strand at a target under a code capability, once the target has passed R59; a prefix is no longer pending. -/
def Strand.jump (t : Strand) (pcc : CapReg) (target : Word) : Raises Strand := do
  checkFetch pcc target
  .ok { t with pc := target, pcc, status := setPP t.status false }

/-- A transfer of control (R59). -/
def State.runJump (s : State) (i : Instr) (f : Strand → Raises Strand) : Out :=
  s.run i fun s => do
    let t ← f s.strand
    .ok (s.setStrand t)

/-- A conditional branch (R139). -/
def State.runBranch (s : State) (i : Instr) (a b : XReg) (imm : BitVec 11) (taken : Word → Word → Bool) : Out :=
  s.runJump i fun t => if taken (t.getX a) (t.getX b) then t.jump t.pcc (t.pc + branchOff imm) else .ok t.next

/-- BEQ. -/
def execBeq (a b : XReg) (imm : BitVec 11) (s : State) : Out := s.runBranch (.beq a b imm) a b imm fun x y => x == y
/-- BNE. -/
def execBne (a b : XReg) (imm : BitVec 11) (s : State) : Out := s.runBranch (.bne a b imm) a b imm fun x y => x != y
/-- BLT. -/
def execBlt (a b : XReg) (imm : BitVec 11) (s : State) : Out := s.runBranch (.blt a b imm) a b imm fun x y => x.slt y
/-- BGE. -/
def execBge (a b : XReg) (imm : BitVec 11) (s : State) : Out := s.runBranch (.bge a b imm) a b imm fun x y => !x.slt y
/-- BLTU. -/
def execBltu (a b : XReg) (imm : BitVec 11) (s : State) : Out := s.runBranch (.bltu a b imm) a b imm fun x y => x.ult y
/-- BGEU. -/
def execBgeu (a b : XReg) (imm : BitVec 11) (s : State) : Out :=
  s.runBranch (.bgeu a b imm) a b imm fun x y => !x.ult y

/-- JAL (R140). -/
def execJal (d : XReg) (imm : BitVec 19) (s : State) : Out :=
  s.runJump (.jal d imm) fun t => do
    let u ← t.jump t.pcc (t.pc + jalOff imm)
    .ok (u.setX d (t.pc + 4))

/-- JALR: bit 0 of the target cleared (R59, R140). -/
def execJalr (d a : XReg) (imm : BitVec 12) (s : State) : Out :=
  s.runJump (.jalr d a imm) fun t => do
    let u ← t.jump t.pcc ((t.getX a + sext12 imm) &&& ~~~1)
    .ok (u.setX d (t.pc + 4))

/-- The registers c[lo] to c[hi] null. -/
def Strand.nullC (t : Strand) (lo hi : Nat) : Strand :=
  { t with c := Vector.ofFn fun (i : Fin 16) => if lo ≤ i.val ∧ i.val ≤ hi then nullCap else t.c[i] }

/-- CCALL (R132). The written c13 keeps c15's revoked mark: R132 writes c15 there whole, R121 names CMOV alone as copying the mark:
DESIGN CHOICE (log 72). -/
def execCcall (ca cb : CReg) (s : State) : Out :=
  s.runJump (.ccall ca cb) fun t => do
    let a ← checkHeld (t.getC ca) t.comp (opC ca)
    need (decide (1 ≤ (cOty a).toNat) && decide ((cOty a).toNat ≤ 0xFFEF)) cSealed (capDetail (opC ca))
    need (codeForm a) cFormat (capDetail (opC ca))
    need (grants a (pInvoke ||| pExe)) cPerm (capDetail (opC ca))
    need (decide (1 ≤ cExt a 0)) cBounds (capDetail (opC ca))
    let b ← checkHeld (t.getC cb) t.comp (opC cb)
    need (cOty b == cOty a) cSealed (capDetail (opC cb))
    need (decide (cFmt b ≤ 16)) cFormat (capDetail (opC cb))
    need (grants b pInvoke) cPerm (capDetail (opC cb))
    let d := t.getC 15
    need (!d.tag || cOty d.img == 0) cSealed (capDetail (opC 15))
    let ret := { t.pcc with img := setOty (setStr t.pcc.img 1 (t.pc + 4).toInt) 0xFFFF }
    let d := if d.tag then { d with img := setOty d.img 0xFFFE } else d
    let u := (((t.nullC 8 12).setC 13 d).setC 14 ret).setC 15 { img := setOty b 0, tag := true }
    let u ← u.jump { img := setOty a 0, tag := true } 0
    .ok { u with status := setComp u.status (cOwn a) }

/-- CRET (R133). -/
def execCret (s : State) : Out :=
  s.runJump .cret fun t => do
    let c := t.getC 14
    let d := t.getC 13
    need (!c.rev) cRevoked (capDetail (opC 14))
    need c.tag cTag (capDetail (opC 14))
    need (cOty c.img == 0xFFFF) cSealed (capDetail (opC 14))
    need (!d.rev) cRevoked (capDetail (opC 13))
    need (!d.tag || cOty d.img == 0xFFFE) cSealed (capDetail (opC 13))
    let target : Word := BitVec.ofInt 64 (cStr c.img 1)
    let p : CapReg := { img := setStr (setOty c.img 0) 1 0, tag := true }
    let u := (t.nullC 8 14).setC 15 (if d.tag then { d with img := setOty d.img 0 } else nullCap)
    let u ← u.jump p target
    .ok { u with status := setComp u.status (cOwn c.img) }

end Sys2Proof.Machine
end

