-- ==== Sys2Proof/Machine/Calls.lean ====
section
/-! DEFINITION. The service queue and the device OS calls: LAUNCH, BMREAD, BMRESUME and BMDROP, and the reports of escalated
faults (10 R340, 12 R404, 13 R426 to R428, R439). -/

namespace Sys2Proof.Machine

/-! ### The queue (R404, R439) -/

/-- The tenant is served next before another: larger deficit, ties to the lower identifier (R404). -/
def State.servedBefore (s : State) (a b : Nat) : Bool :=
  let da := Table.get s.service.deficit a 0
  let db := Table.get s.service.deficit b 0
  decide (db < da) || (da == db && decide (a < b))

/-- The number of a call (R340). -/
def Call.number (c : Call) : Nat := (c.word.extractLsb' 0 16).toNat

/-- A call of 10 R321 or 13 R426, which the model runs step by step. -/
def Call.runs (c : Call) : Bool := c.fault.isNone && decide (1 ≤ c.number) && decide (c.number ≤ 4)

/-- An item can be served: it waits for no page (R211), and a call that may have asked for a mapping does not end before the
tenant's shootdowns (R213). -/
def State.servable (s : State) (c : Call) : Bool :=
  c.wait.isNone && (c.fault.isSome || c.runs || !(s.service.shootdowns.any fun d => d.1 == c.tenant))

/-- The item that the leader serves next: the oldest that it can serve of the tenant to be served (R404). -/
def State.nextCall (s : State) : Option Call :=
  let items := s.service.calls.filter s.servable
  let t? := (items.map (·.tenant)).foldl (better fun x b => s.servedBefore x b) none
  t?.bind fun t => items.find? fun c => c.tenant == t

/-- The state with an item taken from the service queue. -/
def State.takeCall (s : State) (id : Nat) : State :=
  { s with service := { s.service with calls := s.service.calls.filter fun (c : Call) => c.id != id } }

/-- The service time of a slice, in ticks of 10 ns, charged to a tenant: the deficits are held within 10 ms (R404). -/
def State.chargeService (s : State) (t ticks : Nat) : State :=
  { s with service := { s.service with
      deficit := Table.upd s.service.deficit t 0 fun d => clampInt 1000000 (d - ticks) } }

/-- A tenant with nothing queued has a deficit above 0 lowered to 0 (R404). -/
def State.lowerIdle (s : State) (t : Nat) : State :=
  if s.service.calls.any (fun c => c.tenant == t) || s.service.active.any (fun c => c.tenant == t) then s
  else { s with service := { s.service with deficit := Table.upd s.service.deficit t 0 fun d => min d 0 } }

/-- The service time of the active call's slice charged up to now (R404). -/
def State.chargeSlice (s : State) (t : Nat) : State :=
  let s := s.chargeService t (s.time - s.service.since)
  { s with service := { s.service with since := s.time } }

/-- The active call back among its tenant's items, in the order of their issue: its slice has ended, or it waits (R439). -/
def State.callBack (s : State) (c : Call) : State :=
  let s := s.chargeSlice c.tenant
  let calls := s.service.calls
  { s with service := { s.service with
      active := none, calls := calls.filter (fun o => decide (o.id < c.id)) ++ c :: calls.filter fun o => !decide (o.id < c.id) } }

/-- The slip of a call raised to 1 (R340): a write that its home discards for a failing unit is logged (R198). -/
def State.raiseSlip (s : State) (c : Call) : State :=
  match c.slip with
  | none => s
  | some n =>
    let va := (s.tenant c.tenant).slippage + 16 * n
    match s.placeOf c.tenant va needRW true va with
    | .error _ => s
    | .ok p =>
      if s.badAt p.flat then s.logAt 0x03 (unitAt p.flat).1 (unitAt p.flat).2 (some c.tenant) (w64 va) (cIntegrity.setWidth 64)
      else
      let s := s.retest p.flat
      match s.applyCell p.flat va (s.cellVal p.flat + 1) with
      | .ok s => s
      | .error _ => s

/-- A call is over: its service time is charged and its slip raised (R340, R404). -/
def State.endCall (s : State) (c : Call) : State :=
  let s := s.chargeSlice c.tenant
  (({ s with service := { s.service with active := none } }).lowerIdle c.tenant).raiseSlip c

/-! ### Fault reports (R428, 14 Table 4) -/

/-- What a handle of a tenant names. -/
inductive Handle where
  | bookmark (h : Held) | command (f : FaultedCmd) | unknown

/-- The pending fault bookmark or the escalated record of a tenant that a handle names (R423, R427). -/
def State.handleOf (s : State) (t handle : Nat) : Handle :=
  match s.bms.find? fun h => h.bm.tenant == t && (match h.holder with | .fault n _ => n == handle | _ => false) with
  | some h => .bookmark h
  | none =>
    match s.faulted.find? fun f => f.handle == handle && f.cmd.tenant == t && f.escalated with
    | some f => .command f
    | none => .unknown

/-- The body of a fault report. -/
def faultReport (handle : Nat) (cause : BitVec 8) (detail : BitVec 56) (comp : BitVec 16) (lcore : Nat) : BitVec 480 :=
  atByte 4 1 cause.toNat + atByte 8 4 handle + atByte 16 7 detail.toNat + atByte 24 2 comp.toNat + atByte 26 2 lcore

/-- The report of an escalated fault, posted to the function's host mailbox (R428). -/
def State.reportFault (s : State) (c : Call) (handle : Nat) : State :=
  if handle = 0 then
    let d := c.word.extractLsb' 0 56
    s.post c.tenant 0x02 (faultReport 0 (c.word.extractLsb' 56 8) d c.comp (d.extractLsb' 6 10).toNat)
  else match s.handleOf c.tenant handle with
    | .bookmark h => s.post c.tenant 0x02 (faultReport handle h.bm.cause (h.bm.warg.extractLsb' 0 56) c.comp h.bm.lcore)
    | .command f => s.post c.tenant 0x02 (faultReport handle f.cause f.detail c.comp f.cmd.lcore)
    | .unknown => s

/-- TIME ticks of a slice. -/
def sliceTicks : Nat := 5000

/-- SERVICE_CALL: a slice of the leader for the item that R404 chooses, at most 50 µs; the item whose slice it ends goes back to
the queue first. A fault is reported, a call of 10 R321 or R426 becomes the call being run, and any other call only has its slip
raised (R439; log 9). -/
def execServiceCall (us : Nat) (s : State) : Out :=
  s.event (s.service.leader.isSome && !s.service.stopped) fun s =>
    let s := match s.service.active with
      | some c => s.callBack c
      | none => s
    match s.nextCall with
    | none => s
    | some c =>
      let s := s.takeCall c.id
      if c.runs then { s with service := { s.service with active := some c, since := s.time } }
      else
        let s := (s.chargeService c.tenant (100 * min us 50)).lowerIdle c.tenant
        match c.fault with
        | some handle => s.reportFault c handle
        | none => s.raiseSlip c

/-- SERVICE_DEFICIT_RAISE: every 100 µs (R404, R503). -/
def execServiceDeficitRaise (s : State) : Out :=
  s.event (s.time % 10000 == 0 && !s.raised.getLsbD 3) fun s =>
    let queued (t : Nat) : Bool := s.service.calls.any (fun c => c.tenant == t) || s.service.active.any fun c => c.tenant == t
    let deficit := s.tenants.foldl (fun d t => Table.upd d t.1 0 fun v =>
      if queued t.1 then clampInt 1000000 (v + 100 * t.2.callw.toNat) else min v 0) s.service.deficit
    { s with raised := putBit s.raised 3 true, service := { s.service with deficit } }

/-! ### The memory that a call's capability reaches -/

/-- A capability through which a call reads and writes its block (R426). -/
def blockCap (c : CapReg) (comp : BitVec 16) : Bool :=
  c.tag && cOty c.img == 0 && (cScp c.img == 2 || cOwn c.img == comp) && cFmt c.img == fByte && grants c.img (pLd ||| pSt)

/-- The address of byte i of a block. -/
def blockAddr (c : Vec) (i : Nat) : Nat := elemAddr c (i, 0, 0, 0)

/-- The first n bytes of a block, as far as it reaches; every byte is also made writable. -/
def State.readBlock (s : State) (t : Nat) (c : Vec) (n : Nat) : Eng (State × List Byte) :=
  (List.range (min n (cExt c 0))).foldlM (fun (acc : State × List Byte) i => do
    let (s, ps) ← acc.1.engPlaces none t (blockAddr c i) 1 needRW
    let (s, bs) ← ofRaises (s.readPlaces t (blockAddr c i) ps)
    .ok (s, acc.2 ++ bs)) (s, [])

/-- Bytes written into a block, each at its offset. -/
def State.writeBlockBytes (s : State) (t : Nat) (c : Vec) (out : List (Nat × Byte)) : State :=
  out.foldl (fun s b =>
    if b.1 < cExt c 0 then
      match s.engWrite none t (blockAddr c b.1) [b.2] with
      | .ok s => s
      | .error _ => s
    else s) s

/-- The bytes of a value from an offset on. -/
def outAt (off n v : Nat) : List (Nat × Byte) := (List.range n).zip (natBytes n v) |>.map fun b => (off + b.1, b.2)

/-- The active call waits, for a page or an absent partition: it goes back to the queue, and others are served (R191, R211). -/
def State.callWaits (s : State) (c : Call) (group : Option Nat) : State := s.callBack { c with wait := group }

/-- The active call of a number is run by f within its slice (R439). -/
def State.runCall (s : State) (n : Nat) (f : State → Call → State) : Out :=
  match s.service.active with
  | some c =>
    s.event (c.number == n && s.service.leader.isSome && !s.service.stopped && decide (s.time ≤ s.service.since + sliceTicks))
      fun s => f s c
  | none => .next s

/-- The first n bytes of the block that a call's capability reaches, for `f`: a call with none ends, one whose block lies in a
locked core too, which the service pair may not read (R399), and one may have to wait. -/
def State.withBlock (s : State) (c : Call) (n : Nat) (f : State → List Byte → State) : State :=
  let img := c.cap.img
  if !blockCap c.cap c.comp then s.endCall c
  else match s.firstLocked ((List.range (min n (cExt img 0))).map (blockAddr img)) with
  | some (k, va) => (s.logLocked k va).endCall c
  | none =>
    match s.readBlock c.tenant img n with
    | .error (.page s' g _) => if c.denied then s.endCall c else s'.callWaits c (some g)
    | .error (.held _) => s.callWaits c none
    | .error (.stop _ _) => s.endCall c
    | .ok (s, bs) => f s bs

/-! ### LAUNCH (R321) -/

/-- The tag of the granule of ARGCAP: its 64 bytes are one granule only where they lie one after the other from an aligned address on. -/
def State.argTag (s : State) (t : Nat) (c : Vec) : Bool :=
  let va := blockAddr c 64
  cStr c 0 == 1 && va % 64 == 0 && (match s.placeOf t va needR false va with
    | .ok p => s.tagAt t p
    | .error _ => false)

/-- LAUNCH_CALL (R321): the descriptor that cb reaches is checked, its records are written, and its STATUS before the slip is
raised. -/
def execLaunchCall (s : State) : Out :=
  s.runCall 1 fun s c =>
    let t := c.tenant
    let img := c.cap.img
    if decide (cExt img 0 < 128) then s.endCall c
    else s.withBlock c 128 fun s d =>
      match s.launch t false d (s.argTag t img) c.denied with
      | .waits s g => s.callWaits c g
      | .answer s status => (s.writeBlockBytes t img [(3, BitVec.ofNat 8 status)]).endCall c

/-! ### Bookmark calls (R426, R427) -/

/-- What BMREAD writes of a bookmark (13 Table 3). -/
def readOut (b : Bookmark) : List (Nat × Byte) :=
  outAt 0 8 b.strand.pc.toNat ++ outAt 24 8 b.strand.status.toNat ++ outAt 32 8 b.strand.livemask.toNat ++
    (List.range 31).flatMap fun i => outAt (64 + 8 * i) 8 (b.strand.getX (BitVec.ofNat 5 (i + 1))).toNat

/-- What BMREAD writes of a command record (R427). -/
def readCmdOut (f : FaultedCmd) : List (Nat × Byte) :=
  outAt 0 8 f.cmd.index ++ outAt 8 16 0 ++ outAt 24 8 (mkFaultinfo f.cause f.detail).toNat ++ outAt 32 8 0 ++
    outAt 40 8 f.cmd.applied ++ outAt 48 264 0

/-- The reserved bytes of a block are zero. -/
def blockReserved (bs : List Byte) : Bool := zeroBytes bs 15 1 && zeroBytes bs 24 40 && zeroBytes bs 312 8

/-- A bookmark under a block: the new pc, the x registers that XMASK names, null c registers, and PP (13 Table 3). -/
def applyBlock (t : Strand) (bs : List Byte) : Strand :=
  let pc := w64 (field bs 0 8)
  let xmask : BitVec 32 := BitVec.ofNat 32 (field bs 8 4)
  let cnull : BitVec 16 := BitVec.ofNat 16 (field bs 12 2)
  let t := if pc = BitVec.allOnes 64 then t else { t with pc }
  let t := (List.range 31).foldl (fun (t : Strand) i =>
    if xmask.getLsbD (i + 1) then t.setX (BitVec.ofNat 5 (i + 1)) (w64 (field bs (64 + 8 * i) 8)) else t) t
  let t := { t with c := Vector.ofFn fun (i : Fin 16) => if cnull.getLsbD i then nullCap else t.c[i] }
  if field bs 14 1 % 2 = 1 then { t with status := setPP t.status false } else t

/-- What a call on a handle does: it is refused or done with a status and what it writes, or it waits for room. -/
inductive BmAnswer where
  | done (s : State) (status : Nat) (out : List (Nat × Byte)) | waits

/-- A call of 13 Table 3 on a handle of a tenant: `comp` is the caller's compartment, none for the host's answer, and `small`
tells that the block is too small (R426, R427). -/
def State.bmCall (s : State) (number t handle : Nat) (comp : Option (BitVec 16)) (small : Bool) (block : List Byte) : BmAnswer :=
  let other (k : BitVec 16) : Bool := match comp with | some c => c != k | none => false
  match s.handleOf t handle with
  | .unknown => .done s 1 []
  | .bookmark h =>
    if other (stComp h.bm.strand.status) then .done s 2 []
    else if small then .done s 3 []
    else if number = 2 then .done s 0 (readOut h.bm)
    else if number = 4 then .done (s.unhold h.id) 0 []
    else if !blockReserved block then .done s 3 []
    else
      let pc := w64 (field block 0 8)
      let bad := pc != BitVec.allOnes 64 && (match checkFetch h.bm.strand.pcc pc with | .ok _ => false | .error _ => true)
      if bad then .done s 4 []
      else
        let h' : Held := { h with bm := { h.bm with strand := applyBlock h.bm.strand block } }
        .done (({ s with bms := updWhere s.bms (fun b => b.id == h.id) fun _ => h' }).release h.id h.bm.bind) 0 []
  | .command f =>
    if other f.cmd.comp then .done s 2 []
    else if small then .done s 3 []
    else if number = 2 then .done s 0 (readCmdOut f)
    else if number = 4 then .done (s.abandon f) 0 []
    else if !f.resumable then .done s 5 []
    else if s.cmdRoom f.cmd.engine t then .done (s.requeue f) 0 []
    else .waits

/-- The active call is a bookmark call and is run (R426): a call whose cb reaches no block writes no status. -/
def State.runBm (s : State) (c : Call) : State :=
  let t := c.tenant
  let img := c.cap.img
  s.withBlock c 320 fun s bs =>
    match s.bmCall c.number t (c.word.extractLsb' 16 32).toNat (some c.comp) (decide (cExt img 0 < 320)) bs with
    | .waits => s.callWaits c none
    | .done s status out => (s.writeBlockBytes t img (out ++ outAt 16 8 status)).endCall c

/-- BMREAD (R426, R427). -/
def execBmread (s : State) : Out := s.runCall 2 fun s c => s.runBm c
/-- BMRESUME (R426, R427). -/
def execBmresume (s : State) : Out := s.runCall 3 fun s c => s.runBm c
/-- BMDROP (R426, R427). -/
def execBmdrop (s : State) : Out := s.runCall 4 fun s c => s.runBm c

end Sys2Proof.Machine
end

