-- ==== Sys2Proof/Machine/CapInsn.lean ====
section
/-! DEFINITION. Reading, narrowing and sealing capabilities (04 R125 to R131). -/

namespace Sys2Proof.Machine

/-- CGETB (R125). -/
def execCgetb (d : XReg) (a : CReg) (s : State) : Out :=
  s.runX (.cgetb d a) d fun t => ((t.getC a).img.extractLsb' 0 56).setWidth 64
/-- CGETX (R125). -/
def execCgetx (d : XReg) (a : CReg) (axis : BitVec 2) (s : State) : Out :=
  s.runX (.cgetx d a axis) d fun t => w64 (cExt (t.getC a).img axis.toNat)
/-- CGETS (R125). -/
def execCgets (d : XReg) (a : CReg) (axis : BitVec 2) (s : State) : Out :=
  s.runX (.cgets d a axis) d fun t => BitVec.ofInt 64 (cStr (t.getC a).img axis.toNat)
/-- CGETF: bytes 48 to 55, or 56 to 63, of the image (R125). -/
def execCgetf (d : XReg) (a : CReg) (w : BitVec 1) (s : State) : Out :=
  s.runX (.cgetf d a w) d fun t => (t.getC a).img.extractLsb' (384 + 64 * w.toNat) 64
/-- CTAG: a revoked register reads 0 (R125). -/
def execCtag (d : XReg) (a : CReg) (s : State) : Out :=
  s.runX (.ctag d a) d fun t => if (t.getC a).tag && !(t.getC a).rev then 1 else 0
/-- CMOV: image, tag and revoked mark (R125). -/
def execCmov (d a : CReg) (s : State) : Out := s.runReg (.cmov d a) fun t => .ok (t.setC d (t.getC a))

/-- CIDX (R126). -/
def execCidx (d : XReg) (a : CReg) (b : XReg) (s : State) : Out :=
  s.runReg (.cidx d a b) fun t => do
    let c ← checkUnsealed (t.getC a) t.comp (opC a)
    let addr ← linearOf c (opC a) (t.getX b).toNat
    .ok (t.setX d (w64 addr))

/-- A derivation that replaces the image of c[d] (R127 to R129). -/
def State.runDerive (s : State) (i : Instr) (d : CReg) (f : Strand → Vec → Raises Vec) : Out :=
  s.runReg i fun t => do
    let c ← checkUnsealed (t.getC d) t.comp (opC d)
    let img ← f t c
    .ok (t.setC d { img, tag := true })

/-- CSLICE (R127). -/
def execCslice (d : CReg) (a b : XReg) (axis : BitVec 2) (s : State) : Out :=
  s.runDerive (.cslice d a b axis) d fun t c => sliceImg c (opC d) axis (t.getX a).toNat (t.getX b).toNat
/-- CNARROW (R128). -/
def execCnarrow (d : CReg) (a : XReg) (axis : BitVec 2) (s : State) : Out :=
  s.runDerive (.cnarrow d a axis) d fun t c => narrowImg c (opC d) axis (t.getX a).toNat
/-- CPERM (R129). -/
def execCperm (d : CReg) (a : XReg) (s : State) : Out :=
  s.runDerive (.cperm d a) d fun t c => .ok (permImg c (t.getX a))

/-- An object type lies in a wrapping key's range and below the part's own types (R130, R131). -/
def keyCovers (key : Vec) (t : Nat) : Bool :=
  decide (t < 0xFFF0) && decide (cBase key ≤ t) && decide (t < cBase key + cExt key 0)

/-- CWRAP (R130). -/
def execCwrap (d b : CReg) (a : XReg) (s : State) : Out :=
  s.runReg (.cwrap d b a) fun t => do
    let k ← checkOpnd (t.getC b) t.comp (opC b) keyForm pSeal
    let c ← checkUnsealed (t.getC d) t.comp (opC d)
    let ty := (t.getX a).toNat
    need (ty != 0 && keyCovers k ty) cPerm (capDetail (opC b))
    .ok (t.setC d { img := setOty c (BitVec.ofNat 16 ty), tag := true })

/-- CUNWRAP (R131). -/
def execCunwrap (d b : CReg) (s : State) : Out :=
  s.runReg (.cunwrap d b) fun t => do
    let k ← checkOpnd (t.getC b) t.comp (opC b) keyForm pUnseal
    let c ← checkHeld (t.getC d) t.comp (opC d)
    need (cOty c != 0) cSealed (capDetail (opC d))
    need (keyCovers k (cOty c).toNat) cPerm (capDetail (opC b))
    .ok (t.setC d { img := setOty c 0, tag := true })

end Sys2Proof.Machine
end

