-- ==== Sys2Proof/Machine/CounterInsn.lean ====
section
/-! DEFINITION. KADD, KMAX, KREAD and KWAIT (08 R266, R278 to R283). -/

namespace Sys2Proof.Machine

/-- The cell of a counter instruction (R266): its checked image and its place; where the cluster TLB lacks its translation
the strand ends with wait kind XLATE (R217). -/
def State.withCell (s : State) (a : CReg) (n : Need) (f : State → Vec → Place → Raises State) : Raises State := do
  let t := s.strand
  let img ← checkOpnd (t.getC a) t.comp (opC a) cntForm pKctr
  need (cBase img % 16 == 0) cFormat (capDetail (opC a))
  if translated (cBase img) && !s.tlbHit (s.cur / 8) s.ten (cBase img) then s.endXlate (cBase img)
  else do
    let p ← s.cellPlace s.ten img (opC a) n
    f s img p

/-- An operation of the issuing core on a near cell: the strand's own earlier stores to it first (R200, R293). -/
def State.nearCell (s : State) (va : Nat) (p : Place) (f : State → Raises State) : Raises State :=
  s.ownFirst s.cur ((List.range 16).map (p.flat + ·)) fun s => do
    need (!s.badAt p.flat) cIntegrity (vaDetail va)
    f s

/-- What a home does some c-cycles after this one, as of that c-cycle. -/
def State.lagged (s : State) (n : Nat) (f : State → State) : State := { f { s with cycle := s.cycle + n } with cycle := s.cycle }

/-- The c-cycles by which the issuing core's vault applies a near operation later than its scratchpad (08 Table 8). -/
def homeLag (va : Nat) : Nat := match windowOf va with | .vault _ _ => 6 | _ => 0

/-- KADD or KMAX: near, applied resident; far, posted (R278, R280, R281). -/
def State.counterChange (s : State) (a : CReg) (max : Bool) (arg : Word) : Raises State :=
  s.withCell a needRW fun s img p => do
    let va := cBase img
    if nearAddr s.cur va then
      s.nearCell va p fun s =>
        let n := homeLag va
        let s := s.lagged n fun s => s.retest p.flat
        let k : CtrKind := if max then .max arg else .add arg
        s.keeping ((({ s with cycle := s.cycle + n } : State).applyCell p.flat va (k.newValue (s.cellVal p.flat))).map fun u =>
          ({ u with cycle := s.cycle } : State).adv)
    else
      let r := s.enqueue s.cur s.ten va (.counter p max arg)
      .ok (if r.2 then r.1.adv else r.1.resident)

/-- KADD (R280). -/
def execKadd (a : CReg) (b : XReg) (s : State) : Out :=
  s.run (.kadd a b) fun s => s.counterChange a false (s.strand.getX b)
/-- KADD.rel: a drain point at every scope (R279). -/
def execKaddRel (scope : Scope) (a : CReg) (b : XReg) (s : State) : Out :=
  s.run (.kaddRel scope a b) fun s => s.afterDrain fun s => s.counterChange a false (s.strand.getX b)
/-- KMAX (R281). -/
def execKmax (a : CReg) (b : XReg) (s : State) : Out :=
  s.run (.kmax a b) fun s => s.counterChange a true (s.strand.getX b)
/-- KMAX.rel: a drain point at every scope (R279). -/
def execKmaxRel (scope : Scope) (a : CReg) (b : XReg) (s : State) : Out :=
  s.run (.kmaxRel scope a b) fun s => s.afterDrain fun s => s.counterChange a true (s.strand.getX b)

/-- KREAD: near, resident; far, the strand ends with wait kind FAR; it releases no waiter (R282). -/
def execKread (d : XReg) (a : CReg) (s : State) : Out :=
  s.run (.kread d a) fun s => s.withCell a needR fun s img p => do
    let va := cBase img
    if nearAddr s.cur va then
      s.nearCell va p fun s => .ok (s.setStrand (s.strand.setX d (s.cellVal p.flat)).next)
    else s.endFar va 0 d.toNat 0 .kread (s.readDue s.cur p.home)

/-- KWAIT: satisfied near, the strand goes on; else it ends, near after the c-cycles of 08 Table 8, and its bookmark is deposited
at the home, or is on its way there (R283, R284). Satisfied, a KWAIT.acq orders what follows at its scope (R279, R299, R304). -/
def State.counterWait (s : State) (a : CReg) (thr : Word) (acq : Option Scope) : Raises State :=
  s.withCell a needR fun s img p => do
    let va := cBase img
    if nearAddr s.cur va then
      s.nearCell va p fun s =>
        let s := s.retest p.flat
        if satisfied (s.cellVal p.flat) thr then
          .ok (match acq with | some scope => s.ordered scope s.cur s.ten | none => s).adv
        else s.keeping (s.endAfter (s.counterCycles s.cur va) .counter false 0 a thr false true (vaDetail va) fun s id =>
          if satisfied (s.cellVal p.flat) thr then .ok s else s.depositHeld id p.flat va thr false)
    else s.endAfter 0 .counter false 0 a thr false true (vaDetail va) fun s id =>
      let op : CtrOp :=
        { id := s.nextId, place := p.flat, va, kind := .wait thr id, tenant := stTenant ((s.heldOf id).map
            (·.bm.strand.status) |>.getD 0), gen := ((s.heldOf id).map (·.bm.gen)).getD 0, origin := .strand
          due := s.homeDue (s.cur / 8) (s.spareHop s.cur) p.home }
      .ok ({ s with counterOps := s.counterOps ++ [op], nextId := s.nextId + 1 }.setHolder id (.travelling op.id))

/-- KWAIT (R283). -/
def execKwait (a : CReg) (b : XReg) (s : State) : Out :=
  s.run (.kwait a b) fun s => s.counterWait a (s.strand.getX b) none
/-- KWAIT.acq: later accesses of the strand follow it in any case, one instruction at a time (R279). -/
def execKwaitAcq (scope : Scope) (a : CReg) (b : XReg) (s : State) : Out :=
  s.run (.kwaitAcq scope a b) fun s => s.counterWait a (s.strand.getX b) (some scope)

end Sys2Proof.Machine
end

