-- ==== Sys2Proof/Machine/Exchange.lean ====
section
/-! DEFINITION. Timed exchange: EXPH, EXSND and EXRCV, arming, the start and the end of a phase, and the arrival of a
vector (11 R375 to R388). -/

namespace Sys2Proof.Machine

/-! ### Barrier domains (R375) -/

/-- D. -/
def domainSize (m : BitVec 1024) : Nat := popcount m
/-- The member index of a core. -/
def memberOf (m : BitVec 1024) (k : Nat) : Nat := popcount (m &&& (BitVec.ofNat 1024 (2 ^ k - 1)))
/-- The cores of a domain, by member index. -/
def members (m : BitVec 1024) : List Nat := (List.range 1024).filter fun k => m.getLsbD k

/-- The gate record of a cell. -/
def State.gate (s : State) (cell : Nat) : Option Gate := s.gates.find? (·.cell == cell)

/-- The domain that holds for a gate: the tenant's mask, but the one it began to count with while READY reports are
counted (R387). -/
def State.domainOf (s : State) (t cell : Nat) : BitVec 1024 :=
  match s.gate cell with
  | some g => if g.ready ≠ 0 then g.mask else (s.tenant t).barrier
  | none => (s.tenant t).barrier

/-! ### EXPH (R376) -/

/-- The domain that EXPH tests its core against (R376): that of the gate its operand names, which keeps the old mask while READY reports
are counted (R387); else the tenant's mask. -/
def State.exphDomain (s : State) (a : CReg) : BitVec 1024 :=
  let t := s.strand
  let r : Raises Place := do
    let img ← checkOpnd (t.getC a) t.comp (opC a) cntForm pKctr
    s.cellPlace s.ten img (opC a) needRW
  match r with
  | .ok p => s.domainOf s.ten p.flat
  | .error _ => (s.tenant s.ten).barrier

/-- The core begins to arm for a gate. -/
def State.arm (s : State) (k cell : Nat) : State := s.updCore k fun c => { c with phase := .arming cell }

/-- EXPH (R376). In a phase it closes the phase, and a pre-emption deferred until then comes first. -/
def execExph (a : CReg) (b : XReg) (s : State) : Out :=
  s.run (.exph a b) fun s => do
    let k := s.cur
    let t := s.strand
    need ((s.exphDomain a).getLsbD k) cExSlot (exDetail 0 (s.xc k) 1)
    let deferred := (s.core k).inPhase && s.preemptDue k
    let s := if (s.core k).inPhase then s.updCore k Core.closePhase else s
    if deferred then .ok s
    else do
      let img ← checkOpnd (t.getC a) t.comp (opC a) cntForm pKctr
      let p ← s.cellPlace s.ten img (opC a) needRW
      let va := cBase img
      let onChip := match windowOf va with | .spad _ _ => true | .vault _ _ => true | _ => false
      need onChip cHome (vaDetail va)
      let thr := t.getX b
      s.afterDrain fun s => do
        if s.heldAt s.ten va then .ok (s.awaits va)
        else do
          need (!s.badAt p.flat) cIntegrity (vaDetail va)
          let s := s.retest p.flat
          let new := s.cellVal p.flat + 1
          s.keeping (do
            let s' ← s.applyCell p.flat va new
            if satisfied new thr then .ok (s'.adv.arm k p.flat)
            else
              s.endAfter (s.pathCycles k (some (clusterOf va)) 6 48 112 + s.pathHops k va) .counter false 0 a thr true true (vaDetail va)
                fun s id => do
                  let _ ← s.depositHeld id p.flat va thr true
                  let s ← s.applyCell p.flat va new
                  s.depositHeld id p.flat va thr true)

/-! ### Arming and the start (R377 to R379) -/

/-- The lines that a phase holds, from the pc of the EXPH on (R379). -/
def phaseLines (t : Strand) : List Nat :=
  let base := cBase t.pcc.img
  let lo := base + t.pc.toNat - 4
  let hi := min (lo + 4095) (base + 4 * cExt t.pcc.img 0 - 1)
  (List.range 65).filterMap fun i => if (lo / 64 + i) * 64 ≤ hi then some (lo / 64 + i) else none

/-- A phase line filled and held; a line that cannot be read is left out (R379; log 13). -/
def State.fillPhaseLine (s : State) (k line : Nat) : State :=
  let t := (s.core k).strand.tenant
  let s := if (s.cached k t line).isSome then s
    else match s.readLine (some (k / 8)) t line with
      | .ok s data => s.fillCore k t line data
      | .fault _ => s
      | .page _ _ => s
      | .held => s
  s.updCore k fun c => { c with
    icache := updWhere c.icache (fun l => l.tenant == t && l.gen == s.gen t && l.base == line) fun l =>
      { l with phase := true } }

/-- A phase line waits for a page-table walker (R206, R377). -/
def State.lineWaits (s : State) (k line : Nat) : Bool :=
  let t := (s.core k).strand.tenant
  (s.cached k t line).isNone && s.xlate (some (k / 8)) t (line * 64) == .busy

/-- The gate's record, made if there is none. -/
def State.withGate (s : State) (cell t : Nat) : State :=
  if (s.gate cell).isSome then s
  else { s with gates := s.gates ++ [{ cell, tenant := t, mask := 0, ready := 0, start := none }] }

/-- The READY report of core k counted at the gate's home; the D-th since the last start sends GO, 128 c-cycles ahead (R377). The report
of a core outside the domain that holds for the gate, which a change of the mask after its EXPH has left out, counts for no member, and
the core stays armed: DESIGN CHOICE (R387; log 97). -/
def State.reportReady (s : State) (k cell t : Nat) : State :=
  let m := s.domainOf t cell
  let s := s.withGate cell t
  let n := ((s.gate cell).map (·.ready)).getD 0 + 1
  let put (f : Gate → Gate) : List Gate := updWhere s.gates (fun g => g.cell == cell) f
  if !m.getLsbD k then s
  else if n < domainSize m then { s with gates := put fun g => { g with mask := m, ready := n } }
  else
    let start := s.cycle + 128
    { s with
      gates := put fun g => { g with mask := m, ready := 0, start := some start }
      cores := s.cores.map fun c =>
        if c.2.phase = .armed cell && m.getLsbD c.1 then (c.1, { c.2 with phase := .starting cell start, domain := m }) else c }

/-- EXCHANGE_ARMED: once the add of its EXPH has been made in MSEND's latency (R388), a core that arms has filled its phase lines and drained, and reports READY; or its drain failed, its
strand becomes a fault bookmark, and it reports READY with a fault (R377). -/
def execExchangeArmed (core : Nat) (s : State) : Out :=
  match (s.core core).phase, (s.core core).mode with
  | .arming cell, .running =>
    let t := (s.core core).strand.tenant
    if s.cycle < (s.core core).nextIssue then .next s
    else match s.drain core with
    | .waits s => .next s
    | .failed s cause va => .next ((s.enterFault core { cause, detail := vaDetail va }).reportReady core cell t)
    | .done s =>
      if (phaseLines (s.core core).strand).any (s.lineWaits core) then .next s else
      let s := (phaseLines (s.core core).strand).foldl (fun s l => s.fillPhaseLine core l) s
      .next ((s.updCore core fun c => { c with phase := .armed cell }).reportReady core cell t)
  | _, _ => .next s

/-- PHASE_START: every core of the domain begins the phase at CYCLE = S (R377, R378). -/
def execPhaseStart (gate : Nat) (s : State) : Out :=
  match (s.gate gate).bind (·.start) with
  | some start =>
    s.event (decide (start ≤ s.cycle)) fun s =>
      { s with
        gates := updWhere s.gates (fun g => g.cell == gate) fun g => { g with start := none }
        cores := s.cores.map fun c =>
          if c.2.phase = .starting gate start then
            (c.1, { c.2 with phase := .inside gate start, nextIssue := start, ready := [], rxbuf := [], overrun := false
                             sentSlot := none })
          else c }
  | none => .next s

/-- PHASE_TIMEOUT: a phase closes at the end of the c-cycle with XC = 4,095 (R380). -/
def execPhaseTimeout (core : Nat) (s : State) : Out :=
  match (s.core core).phase with
  | .inside _ start => s.event (decide (start + 4096 ≤ s.cycle)) fun s => s.updCore core Core.closePhase
  | _ => .next s

/-! ### EXSND and EXRCV (R383 to R386) -/

/-- The start of core k's phase. -/
def State.phaseStartOf (s : State) (k : Nat) : Nat := match (s.core k).phase with | .inside _ b => b | _ => 0

/-- EXSND (R384). -/
def execExsnd (b : VReg) (a : XReg) (s : State) : Out :=
  s.run (.exsnd b a) fun s => do
    let k := s.cur
    let c := s.core k
    let x := s.strand.getX a
    let j := (x.extractLsb' 0 10).toNat
    let xc := s.xc k
    let d := exDetail j xc
    need c.inPhase cExSlot (d 2)
    let u := xc / 4
    let n := domainSize c.domain
    let i := memberOf c.domain k
    need (x.extractLsb' 10 54 == 0 && decide (j < n)) cExSlot (d 3)
    need (n != 1 && j == (i + 1 + u % (n - 1)) % n) cExSlot (d 4)
    need (c.sentSlot != some u) cExSlot (d 5)
    need (decide (u ≤ 1017)) cExSlot (d 6)
    s.withSources [b] fun _ s t =>
      let target := (members c.domain).getD j 0
      let f : Flight :=
        { id := s.nextId, core := target, sender := i, due := s.phaseStartOf k + 4 * (u + 6), data := t.getV b }
      .ok (({ s with flights := s.flights ++ [f], nextId := s.nextId + 1 }.updCore k fun c =>
        { c with sentSlot := some u }).adv)

/-- EXCHANGE_VECTOR_ARRIVAL: a vector is placed in its receiver's buffer, or discarded when the buffer is full, setting
the overrun flag, or when the receiver's phase is closed (R380, R383, R385). -/
def execExchangeVectorArrival (id : Nat) (s : State) : Out :=
  match s.flights.find? (·.id == id) with
  | some f =>
    s.event (decide (f.due ≤ s.cycle)) fun s =>
      ({ s with flights := s.flights.filter fun g => g.id != id }).updCore f.core fun c =>
        if !c.inPhase then c
        else if c.rxbuf.length < 32 then { c with rxbuf := c.rxbuf ++ [(f.sender, f.data)] }
        else { c with overrun := true }
  | none => .next s

/-- The first vector of a sender taken from a buffer. -/
def takeFrom (j : Nat) : List (Nat × Vec) → Option (Vec × List (Nat × Vec))
  | [] => none
  | p :: r => if p.1 = j then some (p.2, r) else (takeFrom j r).map fun q => (q.1, p :: q.2)

/-- EXRCV (R385). -/
def execExrcv (d : VReg) (a : XReg) (s : State) : Out :=
  s.runAny fun s => do
    let k := s.cur
    let c := s.core k
    let x := s.strand.getX a
    let j := (x.extractLsb' 0 10).toNat
    let e := exDetail j (s.xc k)
    need (s.strand.boundOf d).isNone cIllegal (wordDetail (.exrcv d a))
    need (!stPP s.strand.status) cPrefix (wordDetail (.exrcv d a))
    need c.inPhase cExMiss (e 1)
    need (x.extractLsb' 10 54 == 0 && decide (j < domainSize c.domain)) cExMiss (e 2)
    need (!c.overrun) cExMiss (e 4)
    match takeFrom j c.rxbuf with
    | none => raise cExMiss (e 3)
    | some (v, rest) =>
      .ok ((s.updCore k fun c => { c with rxbuf := rest }).setStrand (s.strand.setV d v).next)

end Sys2Proof.Machine
end

