-- ==== Sys2Proof/Machine/Partitions.lean ====
section
/-! DEFINITION. What the service pair does to partitions, vault blocks and mappings (06 R188 to R194, R212, R213, 12 R399,
R402). -/

namespace Sys2Proof.Machine

/-! ### Partitions (R188, R191, R402) -/

/-- The place of partition i of core k. -/
def State.partBase (s : State) (k i : Nat) : Nat := Config.spadFlat + 0x20000 * k + i * partBytes (s.core k).pmode

/-- Partition i of core k is held, present or absent. -/
def State.partHeld (s : State) (k i : Nat) : Bool :=
  let r := (s.core k).resid i
  r.v && r.gen == s.gen r.tenant

/-- Bytes from lo to hi - 1 written to zero with every tag clear; a 512-byte unit among them fails no longer (R200). -/
def State.zero (s : State) (lo hi : Nat) : State :=
  { s with
    mem := memClear s.mem lo hi, tags := s.tags.filter fun g => !(decide (lo ≤ 64 * g) && decide (64 * g < hi))
    badUnits := s.badUnits.filter fun u => !(decide (lo ≤ 512 * u) && decide (512 * u + 512 ≤ hi))
    old := s.old.filter fun o => !(decide (lo ≤ o.flat) && decide (o.flat < hi)) }

/-- The ABSENT bit of partition i. -/
def Core.setAbsent (c : Core) (i : Nat) (b : Bool) : Core := { c with absent := putBit c.absent i b }

/-- A partition of core k given to tenant t, zeroed: its index, one that is free where one is, is the service pair's choice (R402,
R503). Where every one is held, the new partition shares an index and is swapped out from the first (R191, R397). A core locked for
another tenant is left unchanged, and the attempt is logged (R399). -/
def State.givePartition (s : State) (t k : Nat) : State :=
  if s.coreLocked k && ((s.core k).owner.extractLsb' 50 10).toNat != t then s.logLocked k
  else if (s.partOf t k).isSome then s
  else
    let free := (List.range (partCount (s.core k).pmode)).filter fun i => !s.partHeld k i
    match free[Config.partChoice s.fresh % free.length]? with
    | none =>
      let i := Config.partChoice s.fresh % partCount (s.core k).pmode
      let img : Image := { tenant := t, core := k, cells := [], tags := [] }
      { s.fresher.updCore k (fun c =>
          { c with away := c.away ++ [(i, { v := true, tenant := t, gen := s.gen t })], awayDef := Table.set c.awayDef t 0 }) with
        images := s.images ++ [img] }
    | some i =>
      let lo := s.partBase k i
      let s := s.fresher.zero lo (lo + partBytes (s.core k).pmode)
      s.updCore k fun c =>
        { (c.setAbsent i false) with
          residency := c.residency.set! i { v := true, tenant := t, gen := s.gen t }, deficit := c.deficit.set! i 0 }

/-- A partition taken back from tenant t. -/
def State.takePartition (s : State) (t k : Nat) : State :=
  let s := { s with images := s.images.filter fun (p : Image) => !(p.tenant == t && p.core == k) }
  match s.residentOn t k with
  | some i => s.updCore k fun c => { (c.setAbsent i false) with residency := c.residency.set! i {} }
  | none => s.updCore k fun c => { c with away := c.away.filter (fun a => a.2.tenant != t), awayDef := c.awayDef.del t }

/-- The strand of tenant t runs on core k, or waits there for the drain of its end. -/
def State.strandOn (s : State) (t k : Nat) : Bool :=
  let c := s.core k
  (c.mode == .running || c.mode == .loading || c.mode == .draining || c.waiting || !c.posted.isEmpty) && c.strand.tenant == t

/-- The service pair finds strands of some cores in the way of what it does, and may ask for their pre-emption (R429). -/
def State.askCores (s : State) (ks : List Nat) : State :=
  ks.foldl (fun s k => s.updCore k fun c => { c with svcWant := c.svcWant || c.mode == .running || c.mode == .loading }) s

/-- Another tenant than t holds a partition on core k whose index is i: t is displaced for it (R191, R397). -/
def State.displaced (s : State) (t k i : Nat) : Bool :=
  (s.core k).away.any fun a => a.1 == i && a.2.v && a.2.tenant != t && a.2.gen == s.gen a.2.tenant

/-- No tenant but t holds a partition on core k, resident or absent. -/
def State.soleHolder (s : State) (t k : Nat) : Bool :=
  ((List.range 4).all fun i => !s.partHeld k i || ((s.core k).resid i).tenant == t) &&
    (s.core k).away.all fun a => !a.2.v || a.2.tenant == t || a.2.gen != s.gen a.2.tenant

/-- Partition i of core k may be swapped out once no strand of its tenant runs there: held and present, displaced by another tenant's, and
reached by no class-0 job (R191, R370). -/
def State.maySwap (s : State) (k i : Nat) : Bool :=
  s.partHeld k i && s.displaced ((s.core k).resid i).tenant k i && decide (i < partCount (s.core k).pmode) && !(s.core k).absent.getLsbD i &&
    !s.class0Reaches ((s.core k).resid i).tenant k

/-- PARTITION_SWAP_OUT: the image with its tags goes to the tenant's heap, and the partition is absent (R191); a strand of the tenant
that runs there has first to be pre-empted (R429). A locked core is left unchanged (R399), and a partition that a class-0 job reaches
stays (R370). -/
def execPartitionSwapOut (core part : Nat) (s : State) : Out :=
  let t := ((s.core core).resid part).tenant
  if s.coreLocked core then .next (s.logLocked core)
  else if s.maySwap core part && s.strandOn t core then .next (s.askCores [core])
  else
    s.event (s.maySwap core part) fun s =>
      let lo := s.partBase core part
      let hi := lo + partBytes (s.core core).pmode
      let inside (a : Nat) : Bool := decide (lo ≤ a) && decide (a < hi)
      let img : Image :=
        { tenant := t, core, cells := (s.mem.filter fun c => inside c.1).map fun (c : Host.Cell) => (c.1 - lo, c.2)
          tags := (s.tags.filter fun g => inside (64 * g)).map fun g => g - lo / 64
          bad := (s.badUnits.filter fun u => inside (512 * u)).map fun u => u - lo / 512
          stamps := (s.slotStamps.filter fun x => inside x.1).map fun x => (x.1 - lo, x.2) }
      let s := (s.zero lo hi).updCore core fun c => c.setAbsent part true
      { s with images := s.images ++ [img], slotStamps := s.slotStamps.filter fun x => !inside x.1 }

/-- The host requests held for a partition are carried out, in their order (R191, R444). -/
def State.performHeld (s : State) (t k : Nat) : State :=
  let mine := s.heldReqs.filter fun r => r.tenant == t && r.core == k
  mine.foldl (fun s r => s.arrive t r.req)
    { s with heldReqs := s.heldReqs.filter fun (r : HeldReq) => !(r.tenant == t && r.core == k) }

/-- The index of a tenant's partition whose entry another tenant has is the tenant's again, with its deficit, that other one now away
with its own (R191, R397, R503). -/
def Core.comeBack (c : Core) (tenant i : Nat) (r : Residency) : Core :=
  let other := c.resid i
  let rest := c.awayDef.del tenant
  { c with
    residency := c.residency.set! i r
    deficit := c.deficit.set! i (Table.get c.awayDef tenant 0)
    awayDef := if other.v then Table.set rest other.tenant (c.deficit.getD i 0) else rest
    away := c.away.filter (fun a => a.2.tenant != tenant) ++ (if other.v then [(i, other)] else []) }

/-- The index of core k is free for the partition of a tenant that comes back: its own, or one that nobody holds present. -/
def State.backFree (s : State) (t k i : Nat) : Bool :=
  (s.residentOn t k).isSome || (s.core k).absent.getLsbD i || !s.partHeld k i

/-- PARTITION_RESTORE: the image is put back, with what fails in it, and what was held for it proceeds (R191, R200). A partition whose
index another tenant has comes back once that one is swapped out (R397). A locked core is left unchanged (R399). -/
def execPartitionRestore (tenant core : Nat) (s : State) : Out :=
  if s.coreLocked core then .next (s.logLocked core) else
  match s.partOf tenant core, s.images.find? (fun p => p.tenant == tenant && p.core == core) with
  | some i, some img =>
    s.event (s.absentOn tenant core && s.backFree tenant core i) fun s =>
      let lo := s.partBase core i
      let s := if (s.residentOn tenant core).isSome then s
        else s.updCore core fun c => c.comeBack tenant i { v := true, tenant, gen := s.gen tenant }
      let s := (s.zero lo (lo + partBytes (s.core core).pmode)).updCore core fun c =>
        { (c.setAbsent i false) with asked := c.asked.filter (· != tenant) }
      let s :=
        { s with
          mem := memPuts s.mem (img.cells.map fun (c : Host.Cell) => (c.1 + lo, c.2))
          tags := img.tags.foldl (fun ts g => tagPut ts (g + lo / 64) true) s.tags
          badUnits := s.badUnits ++ img.bad.map fun u => u + lo / 512
          slotStamps := img.stamps.foldl (fun (m : Table Nat) (x : Nat × Nat) => Table.set m (lo + x.1) x.2) s.slotStamps
          images := s.images.erase img }
      s.performHeld tenant core
  | _, _ => .next s

/-- PARTITION_MODE_CHANGE: only while the core holds no partition of any tenant (R188); a strand in the way has first to be pre-empted
where another tenant holds one (R429). A locked core is left unchanged (R399). -/
def execPartitionModeChange (core : Nat) (mode : BitVec 2) (s : State) : Out :=
  if s.coreLocked core then .next (s.logLocked core)
  else if mode = 3 then .next s
  else if (List.range 4).all (fun i => !s.partHeld core i) && (s.core core).away.isEmpty then
    .next (s.updCore core fun c => { c with pmode := mode })
  else if s.soleHolder (s.core core).strand.tenant core then .next s
  else .next (s.askCores [core])

/-! ### What still refers to a range of a tenant's addresses (R194, R213) -/

/-- An access that has been translated and not made yet: a posted store, or a counter operation on its way. -/
def State.accessWithin (s : State) (t lo hi : Nat) : Bool :=
  let near (va : Nat) : Bool := decide (lo < va + 64) && decide (va < hi)
  (s.cores.any fun c => c.2.posted.any fun e => e.tenant == t && (e.va :: e.vas).any near) ||
  (s.counterOps.any fun o => o.tenant == t && near o.va) || (s.hostOps.any fun o => o.tenant == t && near o.va)

/-- A waiter, a peer's watch, a far access, an engine command or a job of a tenant that reaches the addresses. -/
def State.workWithin (s : State) (t lo hi : Nat) : Bool :=
  let near (va : Nat) : Bool := decide (lo < va + 64) && decide (va < hi)
  (s.bms.any fun h => h.bm.tenant == t && (match h.holder with
    | .counter _ va _ _ _ _ => near va
    | _ => h.accesses.any near)) || (s.watches.any fun w => w.owner == t && near w.va) ||
  (s.cmds.any fun c => c.tenant == t && c.caps.any fun r => r.reaches lo hi) ||
  (s.jobs.any fun j => j.tenant == t && j.caps.any fun r => r.reaches lo hi)

/-- An ingest port is bound to a ring of a vault (R460). -/
def State.ingestIn (s : State) (t v : Nat) : Bool :=
  s.ports.any fun p => p.2.mode == 2 && p.2.tenant == t && windowOf p.2.ringva.toNat == .vault v (p.2.ringva.toNat % 0x200000)

/-- VAULT_BLOCK_ASSIGN: only while no access, engine command, job, waiter or ingest port refers to the block; a new holder finds
it zero with every tag clear (R194). -/
def execVaultBlockAssign (vault block : Nat) (tenant : Option Nat) (s : State) : Out :=
  let n := 24 * vault + block
  let b := Table.get s.blocks n {}
  let va := 0xF1 * 2 ^ 48 + vault * 0x200000 + block * 0x10000
  let refers := b.v && b.gen == s.gen b.tenant &&
    (s.accessWithin b.tenant va (va + 0x10000) || s.workWithin b.tenant va (va + 0x10000) || s.ingestIn b.tenant vault)
  s.event (!refers) fun s =>
    match tenant with
    | none => { s with blocks := Table.set s.blocks n {} }
    | some t =>
      let lo := Config.vaultFlat + 0x200000 * vault + 0x10000 * block
      let s := s.zero lo (lo + 0x10000)
      { s with blocks := Table.set s.blocks n { v := true, tenant := t, gen := s.gen t } }

/-! ### Mappings (R203, R208, R213) -/

/-- The bytes that an entry of a table of a level maps (R203). -/
def entrySpan (level : Nat) : Nat := if level = 0 then 2 ^ 39 else levelSize level

/-- The level at which a physical address holds the entry for an address of a tenant, from a table on. -/
def entryLevel (m : List Host.Cell) (va addr : Nat) : Nat → Nat → Nat → Option Nat
  | 0, _, _ => none
  | fuel + 1, level, table =>
    let count := if level = 0 then 1024 else if level = 3 then 32 else 512
    let a := table + 8 * (va % 2 ^ 49 / entrySpan level % count)
    if a = addr then some level
    else
      let p := w64 (memNat m a 8)
      if p.getLsbD 0 && !p.getLsbD 1 && tableOk level p then entryLevel m va addr fuel (level + 1) (pteFrame p) else none

/-- The lines of a tenant in a range of places are written back and leave the L2 (R208). -/
def State.cleanLines (s : State) (t lo hi : Nat) : State :=
  let mine (l : L2Line) : Bool := l.tenant == t && l.gen == s.gen t && decide (lo ≤ l.place) && decide (l.place < hi)
  { (s.l2.foldl (fun s l => if mine l then s.writeBack l else s) s) with l2 := dropWhere s.l2 mine }

/-- The first place of the frame of a leaf of a tenant. -/
def leafFlat (t : Nat) (p : Word) : Nat :=
  if pteTgt p = 1 then Config.hostFlat + Config.hostSpan * t + pteFrame p % Config.hostSpan else pteFrame p

/-- The leaves that an entry of a level gives a tenant: of the heap and of the host's memory, since a table can be linked from both
halves. -/
def entryLeaves (m : List Host.Cell) (level : Nat) (p : Word) : List (Word × Nat) :=
  if !p.getLsbD 0 then []
  else if p.getLsbD 1 then [(p, entrySpan level)]
  else tableLeaves m false 3 (level + 1) (pteFrame p) ++ tableLeaves m true 3 (level + 1) (pteFrame p)

/-- The lines of what an old entry maps leave the L2. -/
def State.cleanEntry (s : State) (t level : Nat) (p : Word) : State :=
  (entryLeaves s.mem level p).foldl (fun s l => s.cleanLines t (leafFlat t l.1) (leafFlat t l.1 + l.2)) s

/-- A table of a level and those below it lie in the service region, each aligned to its own size: no tenant's pages hold them (R195,
R203, R389). -/
def tablesKept (m : List Host.Cell) : Nat → Nat → Nat → Bool
  | 0, _, _ => true
  | fuel + 1, level, table =>
    let count := if level = 0 then 1024 else if level = 3 then 32 else 512
    decide (Config.serviceBase ≤ table) && decide (table + 8 * count ≤ Config.deviceBytes) && table % (8 * count) == 0 &&
    (List.range count).all fun i =>
      let p := w64 (memNat m (table + 8 * i) 8)
      !p.getLsbD 0 || p.getLsbD 1 || !tableOk level p || tablesKept m fuel (level + 1) (pteFrame p)

/-- The table that an entry of a level names, when it names one, lies in the service region. -/
def entryKept (m : List Host.Cell) (level : Nat) (p : Word) : Bool :=
  !p.getLsbD 0 || p.getLsbD 1 || !tableOk level p || tablesKept m 3 (level + 1) (pteFrame p)

/-- Two leaves map a common byte. -/
def leavesMeet (a b : Word × Nat) : Bool := decide (pteFrame a.1 < pteFrame b.1 + b.2) && decide (pteFrame b.1 < pteFrame a.1 + a.2)

/-- Two leaves name one home: HM, HOME and QUAD agree (R208). -/
def homeAgrees (a b : Word) : Bool := pteHm a == pteHm b && pteHome a == pteHome b && pteQuad a == pteQuad b

/-- A leaf that the service pair may give a tenant: by its TGT in host memory, or in program memory and no frame of another tenant's
heap (R195, R308); and a page that the tenant maps elsewhere keeps its one home (R208). `m` is the memory without the old entry. -/
def State.mayMap (s : State) (m : List Host.Cell) (t : Nat) (l : Word × Nat) : Bool :=
  let host := pteTgt l.1 == 1
  (host || (decide (pteFrame l.1 + l.2 ≤ Config.programBytes) && s.tenants.all fun e => e.1 == t || !e.2.v ||
    !((tableLeaves m false 4 0 e.2.ptroot).any (leavesMeet l)))) &&
  (tableLeaves m host 4 0 (s.tenant t).ptroot).all fun o => !leavesMeet l o || homeAgrees l.1 o.1

/-- A frame that a tenant receives is written to zero under its key, unless it was written under it before (R197, R214). -/
def State.keyFrame (s : State) (t frame : Nat) : State :=
  if s.frameKey frame = some (t, s.gen t) then s
  else { s.zero (65536 * frame) (65536 * (frame + 1)) with frames := Table.set s.frames frame (t, s.gen t) }

/-- The frames of heap leaves given to a tenant. -/
def State.keyLeaves (s : State) (t : Nat) (ls : List (Word × Nat)) : State :=
  ls.foldl (fun s l => (List.range (l.2 / 65536)).foldl (fun s i => s.keyFrame t (pteFrame l.1 / 65536 + i)) s) s

/-- The service pair writes 8 bytes of device memory for a tenant: into a unit that fails the read half of R198 nothing is written, and
the error is logged (R198, R200, 14 Table 14 kind 0x02). -/
def State.serviceWrite (s : State) (t a : Nat) (w : Word) : State :=
  if s.badAt a then s.logAt 0x02 (unitAt a).1 (unitAt a).2 (some t) (w64 a) (cIntegrity.setWidth 64) else s.putWord a w

/-- MAPPING_SHOOTDOWN: the entry is written, the tenant's TLB entries for what it maps are removed, and the lines of the old
frame leave the L2; it ends only when every access translated through the old entry has completed, and is pending until then
(R208, R212, R213). A frame that the tenant had not is zero before it is mapped (R214), and a table stays out of every tenant's reach
(R389). -/
def execMappingShootdown (tenant va pteAddr : Nat) (pte : Word) (s : State) : Out :=
  match entryLevel s.mem va pteAddr 4 0 (s.tenant tenant).ptroot with
  | none => .next s
  | some level =>
    let size := entrySpan level
    let lo := va - va % size
    let leaves := entryLeaves s.mem level pte
    let without := memPuts s.mem (cellsFrom pteAddr (natBytes 8 0))
    let key := (tenant, va, pteAddr, pte)
    s.event ((s.tenant tenant).v && translated va && decide (pteAddr + 8 ≤ Config.deviceBytes) && entryKept s.mem level pte &&
      leaves.all fun l => s.mayMap without tenant l) fun s =>
      if s.accessWithin tenant lo (lo + size) then
        { s with service := { s.service with shootdowns := dropWhere s.service.shootdowns (· == key) ++ [key] } }
      else
        let s := s.cleanEntry tenant level (w64 (memNat s.mem pteAddr 8))
        let s := s.keyLeaves tenant (leaves.filter fun l => pteTgt l.1 == 0)
        let s := s.serviceWrite tenant pteAddr pte
        { s with
          service := { s.service with shootdowns := dropWhere s.service.shootdowns (· == key) }
          tlb := dropWhere s.tlb fun e =>
            e.tenant == tenant && decide (e.base < lo + size) && decide (lo < e.base + e.size) }

end Sys2Proof.Machine
end

