-- ==== Sys2Proof/Machine/Nodes.lean ====
section
/-! DEFINITION. The buddy tree and its transitions (12 R396, R397, R399, R401). -/

namespace Sys2Proof.Machine

/-- The entry of node n. -/
def State.node (s : State) (n : Nat) : Node := Table.get s.nodes n {}

/-- The state with f applied to the entry of node n. -/
def State.updNode (s : State) (n : Nat) (f : Node → Node) : State := { s with nodes := Table.upd s.nodes n {} f }

/-- The entry of node n is meaningful: every ancestor is SPLIT (R397). -/
def State.meaningful (s : State) (n : Nat) : Bool :=
  (List.range (Nat.log2 n)).all fun i => (s.node (n / 2 ^ (i + 1))).state == .split

/-- The logical cores of node n (R396). -/
def nodeCores (n : Nat) : List Nat :=
  let span := 1024 / 2 ^ Nat.log2 n
  (List.range span).map fun i => (n - 2 ^ Nat.log2 n) * span + i

/-- The cores of node n as a barrier domain names them (R400). -/
def nodeMask (n : Nat) : BitVec 1024 :=
  let span := 1024 / 2 ^ Nat.log2 n
  BitVec.ofNat 1024 ((2 ^ span - 1) * 2 ^ ((n - 2 ^ Nat.log2 n) * span))

/-- Two nodes cover a common core: one is an ancestor of the other, or they are the same. -/
def overlapping (a b : Nat) : Bool :=
  let la := Nat.log2 a
  let lb := Nat.log2 b
  if la ≤ lb then b / 2 ^ (lb - la) == a else a / 2 ^ (la - lb) == b

/-- A node of tenant t overlaps node n. -/
def State.holdsOverlap (s : State) (t n : Nat) : Bool := (s.tenant t).nodes.any fun m => overlapping m.toNat n

/-- Tenant t has a place for one more node (R400). -/
def State.nodeRoom (s : State) (t : Nat) : Bool := (s.tenant t).v && decide ((s.tenant t).nodes.length < 16)

/-- Tenant t holds node n, and receives a partition on each of its cores (R397). -/
def State.joinNode (s : State) (t n : Nat) : State :=
  let s := s.updTenant t fun e => { e with nodes := e.nodes ++ [BitVec.ofNat 11 n] }
  (nodeCores n).foldl (fun s k => s.givePartition t k) s

/-- Tenant t has a strand, record, command or waiter on the cores of node n, or a job, a posted store or a counter operation on its way
that reaches a partition of one (R308, R397, R502). -/
def State.workOnNode (s : State) (t n : Nat) : Bool :=
  let homed (cell : Nat) : Bool := match homeOfFlat cell with | .spad k => inNode n k | _ => false
  (nodeCores n).any (fun k => s.strandOn t k) ||
  (s.bms.any fun h => h.bm.tenant == t && (inNode n h.bm.lcore || (match h.holder with
    | .counter cell _ _ _ _ _ => homed cell
    | _ => false))) ||
  ((nodeCores n).any fun k => s.accessWithin t (0xF0 * 2 ^ 48 + k * 0x20000) (0xF0 * 2 ^ 48 + (k + 1) * 0x20000)) ||
  (s.jobs.any fun j => j.tenant == t && (nodeCores n).any fun k =>
    j.caps.any fun c => c.reaches (0xF0 * 2 ^ 48 + k * 0x20000) (0xF0 * 2 ^ 48 + (k + 1) * 0x20000)) ||
  (s.cmds.any fun c => c.tenant == t && inNode n c.lcore) || (s.faulted.any fun f => f.cmd.tenant == t && inNode n f.cmd.lcore)

/-- NODE_SPLIT: a FREE node above the leaves (R397). -/
def execNodeSplit (node : Nat) (s : State) : Out :=
  s.event (s.meaningful node && (s.node node).state == .free && decide (node < 1024)) fun s =>
    let s := s.updNode node fun e => { e with state := .split }
    (s.updNode (2 * node) fun _ => {}).updNode (2 * node + 1) fun _ => {}

/-- NODE_MERGE: a SPLIT node whose children are FREE (R397). -/
def execNodeMerge (node : Nat) (s : State) : Out :=
  s.event (s.meaningful node && (s.node node).state == .split && (s.node (2 * node)).state == .free &&
      (s.node (2 * node + 1)).state == .free) fun s =>
    s.updNode node fun e => { e with state := .free }

/-- NODE_ALLOT (R397): not to a tenant whose node set is locked (R401). -/
def execNodeAllot (node tenant : Nat) (s : State) : Out :=
  s.event (s.meaningful node && (s.node node).state == .free && s.nodeRoom tenant && !(s.tenant tenant).conf) fun s =>
    (s.updNode node fun e => { e with state := .allotted, sharers := 1 }).joinNode tenant node

/-- NODE_SHARE: with a tenant that holds no node overlapping it (R397). -/
def execNodeShare (node tenant : Nat) (s : State) : Out :=
  s.event (s.meaningful node && (s.node node).state == .allotted && !(s.node node).lock && (s.node node).sharers != 255 &&
      s.nodeRoom tenant && !(s.tenant tenant).conf && !s.holdsOverlap tenant node) fun s =>
    (s.updNode node fun e => { e with sharers := e.sharers + 1 }).joinNode tenant node

/-- A tenant entry without node n: BARRIER, MXW and CLASS0 keep only what the node set still has (R401). -/
def Tenant.without (e : Tenant) (n : Nat) : Tenant :=
  let nodes := e.nodes.filter (· != BitVec.ofNat 11 n)
  let lost (c : Nat) : Bool := (nodeCores n).any (· / 8 == c) && !(nodes.any fun m => (nodeCores m.toNat).any (· / 8 == c))
  { e with
    nodes, barrier := e.barrier &&& ~~~(nodeMask n), mxw := e.mxw.filter fun w => !lost w.1
    class0 := (List.range 128).foldl (fun b c => if lost c then putBit b c false else b) e.class0 }

/-- NODE_RELEASE: a tenant with no strand, record, command or waiter on its cores; FREE, and unlocked, at no sharer; the other
fields keep to the node set (R397, R401). A strand in the way has first to be pre-empted (R429). A locked core is left unchanged, and
the attempt is logged (R399). -/
def execNodeRelease (node tenant : Nat) (s : State) : Out :=
  match (nodeCores node).find? s.coreLocked with
  | some k => .next (s.logLocked k)
  | none => s.event (s.meaningful node && (s.node node).state == .allotted &&
      (s.tenant tenant).nodes.contains (BitVec.ofNat 11 node)) fun s =>
    if s.workOnNode tenant node then s.askCores ((nodeCores node).filter fun k => s.strandOn tenant k) else
    let s := s.updTenant tenant fun e => e.without node
    let s := (nodeCores node).foldl (fun s k => s.takePartition tenant k) s
    s.updNode node fun e =>
      if e.sharers - 1 = 0 then {} else { e with sharers := e.sharers - 1 }

/-- NODE_LOCK: an ALLOTTED node with one sharer (R397). -/
def execNodeLock (node : Nat) (s : State) : Out :=
  s.event (s.meaningful node && (s.node node).state == .allotted && (s.node node).sharers == 1) fun s =>
    s.updNode node fun e => { e with lock := true }

/-- NODE_UNLOCK: once the Curator has scrubbed every core, whose owner registers it then unlocks (R397, R399); CONF falls (R401). -/
def execNodeUnlock (node : Nat) (s : State) : Out :=
  s.event (s.meaningful node && (s.node node).state == .allotted && (s.node node).lock &&
      (nodeCores node).all fun k => !s.coreLocked k) fun s =>
    { s.updNode node (fun e => { e with lock := false }) with
      tenants := s.tenants.map fun e => if e.2.nodes.contains (BitVec.ofNat 11 node) then (e.1, { e.2 with conf := false }) else e }

end Sys2Proof.Machine
end

