-- ==== Sys2Proof/Machine/Resets.lean ====
section
/-! DEFINITION. Tenant entries, and tenant resets: their triggers and the steps of the reset sequence (06 R214, 07 R258, 08 R277, 10 R352, 12 R392,
R411, R418, 13 R432 to R437, 14 R462). -/

namespace Sys2Proof.Machine

/-! ### Tenant entries (R400, R446, R447) -/

/-- An engine that a tenant's MXW or CLASS0 may name: of a cluster of its nodes, or reached through a job port (R401). -/
def engineOf (nodes : List (BitVec 11)) (ports : List Nat) (e : Nat) : Bool :=
  ports.contains e || nodes.any fun n => (nodeCores n.toNat).any (· / 8 == e)

/-- The fields of a tenant entry are within their rules (R400), and keep to its node set (R401); its compartment table and its level-0
page table lie apart in the service region (R195, R389). -/
def initOk (nodes : List (BitVec 11)) (i : TenantInit) : Bool :=
  i.barrier &&& ~~~(nodes.foldl (fun m n => m ||| nodeMask n.toNat) 0) == 0 &&
  (i.mxw.all fun w => w.2 == 0 || engineOf nodes i.ports w.1) &&
  ((List.range 128).all fun e => !i.class0.getLsbD e || engineOf nodes i.ports e) &&
  decide (Config.serviceBase ≤ i.ctbase) && decide (i.ctbase + 8 * i.ctlen ≤ Config.deviceBytes) &&
  i.csbase % 4096 == 0 && decide (Config.closedBase ≤ i.csbase) && decide (i.csbase + 4096 * i.cssize ≤ Config.closedEnd) &&
  decide (1 ≤ i.ctlen) && decide (i.ctlen ≤ 4096) && decide (Config.serviceBase ≤ i.ptroot) &&
  decide (i.ptroot + 8192 ≤ Config.deviceBytes) && i.ptroot % 8192 == 0 &&
  (decide (i.ctbase + 8 * i.ctlen ≤ i.ptroot) || decide (i.ptroot + 8192 ≤ i.ctbase)) && i.dispw != 0 && i.xferw != 0 && i.callw != 0 && decide (i.steal < 256)

/-- The tenant entry built from its fields: GEN and the node set stay as they are. -/
def buildTenant (e : Tenant) (i : TenantInit) : Tenant :=
  { barrier := i.barrier, mxw := i.mxw, class0 := i.class0, nodes := e.nodes, ctbase := i.ctbase, ctlen := i.ctlen
    callw := i.callw, xferw := i.xferw, dispw := i.dispw, steal := i.steal, slippage := i.slippage, cssize := i.cssize
    csbase := i.csbase, ptroot := i.ptroot, v := true, conf := false, gen := e.gen, sweepPending := e.sweepPending }

/-- The service pair rewrites the weights, grants, domains and tables of a tenant's entry, within their rules (R400, R401); the page
tables, closed stacks and slip page stay where they are. -/
def State.tenantWrite (s : State) (i : TenantInit) : State :=
  let e := s.tenant i.tenant
  if e.v && initOk e.nodes i then
    s.updTenant i.tenant fun e =>
      { buildTenant e i with conf := e.conf, slippage := e.slippage, cssize := e.cssize, csbase := e.csbase, ptroot := e.ptroot }
  else s

/-- The service pair may build an entry: its fields and its page tables are within their rules, what they map is what a shootdown might
map, and its closed stacks are no other tenant's (R195, R208, R308, R320, R389). -/
def State.mayEnable (s : State) (i : TenantInit) : Bool :=
  let s' := s.updTenant i.tenant fun e => buildTenant e i
  initOk (s.tenant i.tenant).nodes i && tablesKept s.mem 4 0 i.ptroot &&
  ([false, true].all fun host => (tableLeaves s.mem host 4 0 i.ptroot).all fun l => s'.mayMap s.mem i.tenant l) &&
  s.tenants.all fun e => e.1 == i.tenant || !e.2.v || decide (i.csbase + 4096 * i.cssize ≤ e.2.csbase) ||
    decide (e.2.csbase + 4096 * e.2.cssize ≤ i.csbase)

/-- A function's tenant entry is built, its pages written to zero under its key, and its READY raised; the remap table is then
read-only (R197, R214, R405, R447). -/
def State.enable (s : State) (i : TenantInit) : State :=
  let s := (s.updTenant i.tenant fun e => buildTenant e i).updFn i.tenant fun f => { f with ready := true }
  let s := s.keyLeaves i.tenant (tableLeaves s.mem false 4 0 i.ptroot)
  { s with service := { s.service with remapLocked := true } }

/-! ### Triggers (R432, R435) -/

/-- A tenant reset of every virtual function that exists begins. -/
def State.resetVfs (s : State) (code : Nat) : State :=
  s.tenants.foldl (fun s e => if e.1 != 0 && e.2.v then s.beginReset e.1 code else s) s

/-- A virtual function's reset is in progress. -/
def State.vfResetting (s : State) : Bool := s.fns.any fun (f : Nat × Fn) => f.1 != 0 && f.2.reset != .idle

/-- The cores locked for the tenant are unlocked once scrubbed, with the nodes and CONF (R399, R401). -/
def State.unlockOwner (s : State) (t : Nat) : State :=
  let cores := s.cores.map fun (c : Nat × Core) =>
    if c.2.owner.getLsbD 63 && (c.2.owner.extractLsb' 50 10).toNat == t then (c.1, { c.2 with owner := 0 }) else c
  let s : State := { s with cores }
  let s := (s.tenant t).nodes.foldl (fun s n => s.updNode n.toNat fun e => { e with lock := false }) s
  s.updTenant t fun e => { e with conf := false }

/-- A function without a tenant is unlocked (14 Table 5). -/
def State.unlockFn (s : State) (fn : Nat) : State := (s.unlockOwner fn).updFn fn fun f => { f with tdi := .unlocked }

/-- A reset of the physical function's own tenant for its Function Level Reset is in progress. -/
def State.pfResetting (s : State) : Bool := (s.fn 0).reset == .refusing 2

/-- The physical function's reset, with every virtual function's: it merges with one of tenant 0 in progress, and waits for step 8 of a
virtual function's (R435). -/
def State.resetPf (s : State) : State :=
  if s.pfResetting then s
  else if s.vfResetting then s.updFn 0 fun f => { f with flrWaits := true }
  else (if (s.tenant 0).v then s.beginReset 0 2 else s.unlockFn 0).resetVfs 2

/-- A Function Level Reset (13 Table 6). -/
def State.flr (s : State) (fn : Nat) : State :=
  if fn = 0 then s.resetPf else if (s.tenant fn).v then s.beginReset fn 1 else s.unlockFn fn

/-- FUNCTION_LEVEL_RESET (R432, R435). -/
def execFunctionLevelReset (fn : Nat) (s : State) : Out := .next (s.flr fn)

/-- VF_ENABLE_CLEAR: every virtual function is reset, and its READY falls; it is gone with the end of its reset (R432, R447). -/
def execVfEnableClear (s : State) : Out :=
  let gone (f : Nat × Fn) : Nat × Fn := (f.1, if f.1 != 0 then { f.2 with vfGone := true, rebuild := none } else f.2)
  let s := { s with service := { s.service with vfEnabled := 0 }, fns := s.fns.map gone }
  .next (s.resetVfs 3)

/-- SERVICE_TENANT_RESET: the service pair resets a tenant whose gate holds armed cores (R387, R432); the resets of R428 follow from the
escalation that they answer. -/
def execServiceTenantReset (tenant : Nat) (s : State) : Out :=
  let armed := s.cores.any fun c => c.2.strand.tenant == tenant && (match c.2.phase with
    | .armed _ => true
    | _ => false)
  s.event ((s.tenant tenant).v && !s.service.stopped && armed) fun s =>
    s.beginReset tenant 4

/-! ### Step 2: the generation (R214, R434) -/

/-- A transaction, response, record or bookmark of a tenant carries generation g (R434). -/
def State.carries (s : State) (t : Nat) (g : BitVec 8) : Bool :=
  (s.cores.any fun c => c.2.posted.any fun e => e.tenant == t && e.gen == g) ||
  (s.bms.any fun h => h.bm.tenant == t && h.bm.gen == g) || (s.cmds.any fun c => c.tenant == t && c.gen == g) ||
  (s.faulted.any fun f => f.cmd.tenant == t && f.cmd.gen == g) || (s.jobs.any fun j => j.tenant == t && j.gen == g) ||
  (s.counterOps.any fun o => o.tenant == t && o.gen == g) || (s.hostOps.any fun o => o.tenant == t && o.gen == g) ||
  (s.walks.any fun w => w.tenant == t && w.gen == g) || (s.pageReqs.any fun r => r.fn == t && r.gen == g) || (s.weeds.any fun w => w.tenant == t && w.gen == g) ||
  (s.service.calls.any fun c => c.tenant == t && c.gen == g) ||
  (s.ports.any fun p => p.2.pending.any fun o => o.tenant == t && o.gen == g)

/-- The key of frames last written under a key that a reset has replaced: no tenant's (R214). -/
def lostKey : Nat × BitVec 8 := (1024, 0)

/-- What is tagged with the tenant's generations leaves the translation structures, the L2 and the instruction caches, and what
the maps and tables hold under generation g is cleared; nothing is written back. -/
def State.forget (s : State) (t : Nat) (g : BitVec 8) : State :=
  { s with
    tlb := dropWhere s.tlb fun e => e.tenant == t
    walks := dropWhere s.walks fun w => w.tenant == t
    frames := s.frames.map fun f => if f.2.1 == t then (f.1, lostKey) else f
    heldWrites := dropWhere s.heldWrites fun l => l.tenant == t
    atc := dropWhere s.atc fun e => e.fn == t
    l2 := dropWhere s.l2 fun l => l.tenant == t
    blocks := s.blocks.filter fun b => !(b.2.tenant == t && b.2.gen == g)
    cores := s.cores.map fun c => (c.1, { c.2 with
      icache := dropWhere c.2.icache fun l => l.tenant == t
      residency := c.2.residency.map fun r => if r.tenant == t && r.gen == g then {} else r }) }

/-! ### Steps 3 and 4: what is discarded -/

/-- The strand of tenant t on core k stops without a bookmark, one that waits for the drain of its end too, and the tenant's posted
stores of the core are discarded. -/
def State.stopCore (s : State) (t k : Nat) : State :=
  let c := s.core k
  let s := if (c.mode == .running || c.mode == .loading || c.waiting) && c.strand.tenant == t then s.vacate k .idle 0 else s
  s.updCore k fun c =>
    { c with
      posted := c.posted.filter fun e => e.tenant != t
      tasks := c.tasks.map fun e => if e.2.tenant.toNat == t then (e.1, { e.2 with v := false }) else e }

/-- The bookmarks and records of a tenant are discarded, and with them the strips, exchange marks and spilled-waiter reads
that were theirs (R277, R352). -/
def State.dropBookmarks (s : State) (t : Nat) : State :=
  let bms := s.bms.filter fun h => h.bm.tenant != t
  let alive (id : Nat) : Bool := bms.any fun h => h.id == id
  { s with
    bms
    spillReads := (s.spillReads.map fun r => { r with order := r.order.filter alive }).filter fun r => !r.order.isEmpty
    gates := s.gates.filter fun g => g.tenant != t
    polls := s.polls.filter fun p => p.tenant != t
    cores := s.cores.map fun c => (c.1, { c.2 with
      released := c.2.released.filter fun r => alive r.1
      strips := c.2.strips.filter fun p => p.owner == 0 || alive p.owner
      icache := c.2.icache.map fun l => if l.tenant == t then { l with held := [] } else l }) }

/-- An ingest port bound to the tenant is unbound (R462). -/
def Port.unbind (p : Port) (t : Nat) : Port :=
  if p.mode == 2 && p.tenant == t then
    { p with mode := 0, up := false, downCause := 5, asm := none, skipping := false, waiting := [], credits := 0 }
  else p

/-- A deficit table without the tenant's entry: a tenant reset sets it to 0 (R503). -/
def noDeficit (d : Table Int) (t : Nat) : Table Int := d.del t

/-- Commands, jobs, counter operations, claims, sweep requests and calls of a tenant are discarded (07 R258, R373, R411, R418,
R352). A sweep under way keeps its request, withdrawn, and checks nothing of the tenant any more; each command record and request that
leaves lets a waiting bookmark of another tenant in (R239, R415). -/
def State.dropWork (s : State) (t : Nat) : State :=
  let n := (s.weeds.filter fun w => w.tenant == t && !w.withdrawn).length
  let s := (s.cmds.filter fun c => c.tenant == t).foldl (fun s c => s.freeCmd c) s
  let s := (s.ports.filter fun p => p.2.mode == 2 && p.2.tenant == t).foldl (fun s p => s.takeDown p.1 5) s
  let s : State :=
    { (s.updTenant t fun e => { e with sweepPending := false }) with
      faulted := s.faulted.filter fun f => f.cmd.tenant != t
      jobs := s.jobs.filter fun j => j.tenant != t
      counterOps := s.counterOps.filter fun o => o.tenant != t
      slots := s.slots.map fun e => if e.2.tenant == t then (e.1, { e.2 with claimed := false, comp := 0 }) else e
      weeds := (s.weeds.filter fun w => w.tenant != t || w.swept).map fun w =>
        if w.tenant == t then { w with withdrawn := true } else w
      xfer := s.xfer.map fun x => (x.1, { x.2 with deficit := noDeficit x.2.deficit t })
      mx := s.mx.map fun x => (x.1, { x.2 with
        deficit := noDeficit x.2.deficit t
        turnCycles := if x.2.turn == t then 8192 else x.2.turnCycles
        running := match x.2.running with
          | some id => if s.jobs.any fun j => j.id == id && j.tenant == t then none else some id
          | none => none })
      heldReqs := s.heldReqs.filter fun r => r.tenant != t
      images := s.images.filter fun p => p.tenant != t
      ports := s.ports.map fun p => (p.1, p.2.unbind t)
      service := { s.service with
        calls := s.service.calls.filter fun c => c.tenant != t
        shootdowns := s.service.shootdowns.filter fun d => d.1 != t
        active := s.service.active.filter fun c => c.tenant != t
        slips := s.service.slips.del t
        deficit := noDeficit s.service.deficit t } }
  (List.range n).foldl (fun s _ => s.leaveWeed) s

/-! ### Step 5: abort records (R437) -/

/-- The abort record of a reset (13 Table 8). -/
def abortRecord (t : Nat) (old new : BitVec 8) : Word := 0x81#8 ++ old ++ new ++ BitVec.ofNat 10 t ++ 0#30

/-- The function holds a watch, exports a counter area or has a counter flit unanswered on a port (R437). -/
def Port.concerns (p : Port) (t : Nat) : Bool :=
  (p.pending.any fun o => o.tenant == t) || p.exports.any fun e => e.2.v && !e.2.data && e.2.tenant == t

/-- Abort records sent, the tenant's watches at peers withdrawn, its exports closed and the peers' watches in them ended. -/
def State.abortPeers (s : State) (t : Nat) (old new : BitVec 8) : State :=
  let ps := (s.ports.filter fun p => p.2.up && p.2.concerns t).map (·.1)
  let s := ps.foldl (fun s p => s.sendFlit p (some t) 0x07 [abortRecord t old new]) s
  { (s.updFn t fun f => { f with cans := [] }) with
    watches := s.watches.filter fun w => w.owner != t
    ports := s.ports.map fun p => (p.1, { p.2 with
      pending := p.2.pending.filter fun o => !(o.tenant == t && o.watch)
      exports := p.2.exports.map fun e => if e.2.tenant == t then (e.1, { e.2 with v := false }) else e }) }

/-! ### Steps 6 and 7: scrubbing, and partitions and pages given again -/

/-- The tenant's partitions of the old generation are zeroed and given back, and every core of the node set has one again. -/
def State.renewPartitions (s : State) (t : Nat) (old : BitVec 8) : State :=
  let s := s.cores.foldl (fun s c => (List.range 4).foldl (fun s i =>
    let r := (s.core c.1).resid i
    if r.v && r.tenant == t && r.gen == old then
      let lo := s.partBase c.1 i
      (s.zero lo (lo + partBytes (s.core c.1).pmode)).updCore c.1 fun c =>
        { (c.setAbsent i false) with residency := c.residency.set! i {} }
    else s) s) s
  let s := { s with cores := s.cores.map fun (c : Nat × Core) => (c.1, { c.2 with
    away := c.2.away.filter (fun a => a.2.tenant != t), awayDef := c.2.awayDef.del t
    asked := c.2.asked.filter (· != t) }) }
  (s.tenant t).nodes.foldl (fun s n => (nodeCores n.toNat).foldl (fun s k => s.givePartition t k) s) s

/-- The tenant's pages and closed stacks written to zero with every tag clear, under the new keys (R214, R277). -/
def State.renewPages (s : State) (t : Nat) : State :=
  let e := s.tenant t
  let s := s.keyLeaves t (tableLeaves s.mem false 4 0 e.ptroot)
  s.zero e.csbase (e.csbase + 4096 * e.cssize)

/-! ### Step 8 -/

/-- The reset report (R449, 14 Table 4). -/
def State.reportReset (s : State) (t trigger : Nat) (old new : BitVec 8) : State :=
  s.post t 0x03 (atByte 4 1 trigger + atByte 5 1 old.toNat + atByte 6 1 new.toNat)

/-- A reset for a Function Level Reset, or for VF Enable, leaves the TDI unlocked, and so does one that has merged with it (R450). -/
def State.unlockTdi (s : State) (t trigger : Nat) : State :=
  s.updFn t fun f => { f with tdi := if trigger = 4 && !f.unlock then f.tdi else .unlocked, unlock := false }

/-- The entry of a virtual function that VF Enable holds no longer falls with its reset, and the one that VF Enable has asked for since
is built (R447). -/
def State.rebuilt (s : State) (t : Nat) : State :=
  if t = 0 || !((s.fn t).vfGone || s.service.vfEnabled == 0) then s
  else
    let want := (s.fn t).rebuild
    let s := (s.updTenant t fun e => { e with v := false }).updFn t fun f =>
      { f with ready := false, vfGone := false, rebuild := none }
    match want with
    | some i => if s.mayEnable i then s.enable i else s
    | none => s

/-- The function after its reset: READY is raised, but for a virtual function that VF Enable no longer holds, and a STOP is answered
(R447, R450). -/
def State.finishReset (s : State) (t : Nat) : State :=
  let stopped := (s.fn t).stopping
  let s := s.updFn t fun f =>
    { f with
      reset := .idle, resetting := false, ready := true, stopping := false, noAtomics := false, lqWait := none
      lqDenied := false }
  let s := s.rebuilt t
  let s := if stopped then { s with answer := .tdisp .success } else s
  if (s.fn 0).flrWaits && !s.vfResetting then (s.updFn 0 fun f => { f with flrWaits := false }).resetPf else s

/-- Steps 2 to 8 of the reset sequence (13 Table 7). -/
def State.runReset (s : State) (t trigger : Nat) : State :=
  let old := s.gen t
  let new := old + 1
  let s := (s.forget t new).updTenant t fun e => { e with gen := new }
  let s := s.cores.foldl (fun s c => s.stopCore t c.1) s
  let s := (s.dropBookmarks t).dropWork t
  let s := (s.abortPeers t old new).unlockOwner t
  let s := (s.renewPartitions t old).renewPages t
  ((s.unlockTdi t trigger).reportReset t trigger old new).finishReset t

/-- RESET_GENERATION_ADVANCE: once nothing carries the next generation, GEN advances and the rest of the sequence runs (R433,
R434). -/
def execResetGenerationAdvance (tenant : Nat) (s : State) : Out :=
  match (s.fn tenant).reset with
  | .idle => .next s
  | .refusing trigger => s.event (!s.carries tenant (s.gen tenant + 1)) fun s => s.runReset tenant trigger

end Sys2Proof.Machine
end

