-- ==== Sys2Proof/Machine/System.lean ====
section
/-! DEFINITION. FMT, BRK, TRAP, FENCE, IFENCE, the CSR instructions and the service instructions (02 R51 to R57, 04 R141
to R151, 07 R230, R231). -/

namespace Sys2Proof.Machine

/-! ### FMT, BRK and TRAP -/

/-- A format code of FMT (R53). -/
def fmtOk (f : BitVec 5) : Bool := decide (f.toNat ≤ 16) || f == 31

/-- FMT (R53): the prefix becomes pending. -/
def execFmt (fd fa fb : BitVec 5) (rm : BitVec 3) (sat : BitVec 2) (s : State) : Out :=
  let i : Instr := .fmt fd fa fb rm sat
  s.run i fun s => do
    need (fmtOk fa && fmtOk fb && fmtOk fd && decide (rm.toNat ≤ 4) && sat != 3) cPrefix (wordDetail i)
    let t := s.strand
    let w := (encode i).getD 0
    .ok (s.setStrand { t with pc := t.pc + 4, status := setPrefix (setPP t.status true) (w.extractLsb' 7 25) })

/-- BRK: ends the strand with its own cause, a pending prefix kept (R55, R150). -/
def execBrk (s : State) : Out := s.runAny fun _ => raise cBreak (wordDetail .brk)

/-- TRAP: ends the strand, pc at the next word (R149). -/
def execTrap (code : BitVec 12) (s : State) : Out :=
  s.run (.trap code) fun s => .error { cause := cTrap, detail := code.setWidth 56, pc := some (s.strand.pc + 4) }

/-! ### FENCE and IFENCE -/

/-- A queued entry that reads too: an atomic or a counter operation (R230, R279). -/
def PostOp.reads : PostOp → Bool
  | .data _ => false
  | .cap _ _ _ => false
  | .atomic _ _ _ _ _ => true
  | .counter _ _ _ => true

/-- The strand waits resident until no queued entry reads: each is accepted at its home, and a failure waits for the next drain
point (R218, R230). -/
def State.afterReads (s : State) (f : State → State) : State :=
  let s := s.offerAll s.cur
  if (s.core s.cur).posted.any fun e => e.op.reads then s.resident else f s

/-- FENCE (R230): with w in pred it is a drain point, with r alone it waits for the read halves of what is queued; with an empty
set it orders nothing (R47). Loads and engine commands of the strand are performed when it issues; with e in succ the strand's writes
are ordered before its later commands, at the engines and memories of the scope (R245, R304). -/
def execFence (scope : Scope) (pred succ : BitVec 3) (s : State) : Out :=
  s.run (.fence scope pred succ) fun s =>
    let order (s : State) : State := if succ.getLsbD 2 && pred != 0 then s.ordered scope s.cur s.ten else s
    if pred.getLsbD 0 && succ != 0 then s.afterDrain fun s => .ok (order s).adv
    else if pred.getLsbD 1 && succ != 0 then .ok (s.afterReads fun s => (order s).adv)
    else .ok (order s).adv

/-- The logical cores of a scope around core k (R231). -/
def inScope (k : Nat) (scope : Scope) (j : Nat) : Bool :=
  match scope with
  | .core => j == k
  | .clus => j / 8 == k / 8
  | .die => j / 512 == k / 512
  | .pkg => true
  | .sys => true

/-- The instruction-cache lines of a tenant's current generation leave the cores of a scope, held or not (R231). -/
def State.dropLines (s : State) (k : Nat) (scope : Scope) (t : Nat) : State :=
  { s with cores := s.cores.map fun c =>
      if inScope k scope c.1 then
        (c.1, { c.2 with icache := dropWhere c.2.icache fun l => l.tenant == t && l.gen == s.gen t })
      else c }

/-- IFENCE (R231). -/
def execIfence (scope : Scope) (s : State) : Out :=
  s.run (.ifence scope) fun s => s.afterDrain fun s => .ok (s.dropLines s.cur scope s.ten).adv

/-! ### CSRs (R141 to R148) -/

/-- The value a strand reads from a CSR (R142 to R148); none for a number that is not listed. -/
def State.csr (s : State) (n : BitVec 12) : Option Word :=
  let t := s.strand
  if n = 0x000 then some (setPP t.status false)
  else if n = 0x001 then some t.livemask
  else if n = 0x002 then some t.faultinfo
  else if n = 0x003 then some (putBits (putBit 0 12 (s.core s.cur).inPhase) 0 (BitVec.ofNat 12 (s.xc s.cur)))
  else if n = 0xC00 then some (w64 s.cycle)
  else if n = 0xC01 then some (w64 s.time)
  else if n = 0xC02 then
    some (putBits (putBits 0 10 (BitVec.ofNat 2 ((s.partOf s.ten s.cur).getD 0))) 0 (BitVec.ofNat 10 s.cur))
  else if n = 0xC03 then some ((s.gen s.ten).setWidth 64)
  else none

/-- A service register. -/
def isServiceCsr (n : BitVec 12) : Bool := n.extractLsb' 8 4 == 8

/-- The strand after a CSRWR: the writable fields take the value, the others keep theirs (R9, R142). -/
def Strand.csrWrite (t : Strand) (n : BitVec 12) (v : Word) : Strand :=
  if n = 0x000 then { t with status := (t.status &&& ~~~statusRw) ||| (v &&& statusRw) }
  else if n = 0x001 then { t with livemask := v &&& livemaskRw }
  else t

/-- Service pair d. -/
def State.pair (s : State) (d : Nat) : Pair := (s.service.pairs[d]?).getD {}

/-- The state with a service pair replaced. -/
def State.setPair (s : State) (d : Nat) (p : Pair) : State :=
  { s with service := { s.service with pairs := s.service.pairs.set! d p } }

/-- x[r] of the service pair; x0 reads as zero. -/
def Pair.getX (p : Pair) (r : XReg) : Word := if r = 0 then 0 else p.x[r.toNat]
/-- The pair with x[r] written. -/
def Pair.setX (p : Pair) (r : XReg) (v : Word) : Pair := if r = 0 then p else { p with x := p.x.set r.toNat v }
/-- The pair past its instruction. -/
def Pair.next (p : Pair) : Pair := { p with pc := p.pc + 4 }

/-- An instruction of strands that the service pair executes too; a pair whose fetch is stopped executes nothing. -/
def State.byPair (s : State) (d : Nat) (f : Pair → Out) : Out :=
  if (s.pair d).halted then .next s else f (s.pair d)

/-- CSRRD (R142): of a service register, by a strand, PRIV; by the service pair, its value. -/
def execCsrrd (d : XReg) (csr : BitVec 12) (s : State) : Out :=
  match s.agent with
  | .strand =>
    s.runAny fun s => do
      need (!isServiceCsr csr) cPriv (wordDetail (.csrrd d csr))
      need (!stPP s.strand.status) cPrefix (wordDetail (.csrrd d csr))
      match s.csr csr with
      | some v => .ok (s.setStrand (s.strand.setX d v).next)
      | none => raise cIllegal (wordDetail (.csrrd d csr))
  | .service die => s.byPair die fun p =>
    let put (v : Word) : Out := .next (s.setPair die (p.setX d v).next)
    if isServiceCsr csr then put (Table.get p.regs (csr.extractLsb' 0 8).toNat 0)
    else if csr = 0xC00 then put (w64 s.cycle)
    else if csr = 0xC01 then put (w64 s.time)
    else .refused .notOfThisAgent
  | .curator _ => .refused .notOfThisAgent

/-- CSRWR (R142). -/
def execCsrwr (csr : BitVec 12) (a : XReg) (s : State) : Out :=
  match s.agent with
  | .strand =>
    s.runAny fun s => do
      need (!isServiceCsr csr) cPriv (wordDetail (.csrwr csr a))
      need (!stPP s.strand.status) cPrefix (wordDetail (.csrwr csr a))
      match s.csr csr with
      | some _ => .ok (s.setStrand (s.strand.csrWrite csr (s.strand.getX a)).next)
      | none => raise cIllegal (wordDetail (.csrwr csr a))
  | .service die => s.byPair die fun p =>
    if isServiceCsr csr then
      .next (s.setPair die { p with regs := Table.set p.regs (csr.extractLsb' 0 8).toNat (p.getX a) }.next)
    else if csr = 0xC00 ∨ csr = 0xC01 then .next (s.setPair die p.next)
    else .refused .notOfThisAgent
  | .curator _ => .refused .notOfThisAgent

/-! ### Service instructions (R51, R151) -/

/-- An instruction of the service pair: a strand's raises PRIV (R51). -/
def State.runService (s : State) (i : Instr) (f : Nat → Pair → Out) : Out :=
  match s.agent with
  | .strand => s.runAny fun _ => raise cPriv (wordDetail i)
  | .service die => s.byPair die fun p => f die p
  | .curator _ => .refused .notOfThisAgent

/-- SRET: the service pair goes on at the return offset held in its registers (R151). -/
def execSret (s : State) : Out :=
  s.runService .sret fun die p => .next (s.setPair die { p with pc := Table.get p.regs Config.sretReg.toNat 0 })

/-- SHALT: the service pair's fetch stops (R151). -/
def execShalt (s : State) : Out :=
  s.runService .shalt fun die p => .next (s.setPair die { p.next with halted := true })

/-- A service pair takes an exception: the handler starts, with the cause and the return offset, that of the instruction, in the
pair's own registers (R151). Their numbers and the handler's offset are open, and so is whether the offset is that of the
instruction: DESIGN CHOICE (log 8). -/
def Pair.raises (p : Pair) (cause : BitVec 8) : Pair :=
  { p with
    pc := Config.handler
    regs := (Table.set p.regs Config.causeReg.toNat (cause.setWidth 64)).set Config.sretReg.toNat p.pc }

/-- WAKE: the dispatcher scans again for a core (R151); a non-zero xa[63:10] raises ILLEGAL_INSN on the pair. -/
def execWake (a : XReg) (s : State) : Out :=
  s.runService (.wake a) fun die p =>
    let x := p.getX a
    if x.extractLsb' 10 54 != 0 then .next (s.setPair die (p.raises cIllegal))
    else .next ((s.setPair die p.next).updCore (x.extractLsb' 0 10).toNat fun c => { c with rescan := true })

/-- LOCK of an owner register (R398). -/
def ownLock (w : Word) : Bool := w.getLsbD 63
/-- OWNER. -/
def ownTenant (w : Word) : Nat := (w.extractLsb' 50 10).toNat
/-- OGEN. -/
def ownGen (w : Word) : BitVec 8 := w.extractLsb' 42 8
/-- The fields of an owner register; the reserved bits read as 0 (R398, R9). -/
def ownMask : Word := 0x8FFFFC0000000000#64

/-- No partition of core k is absent: one could not be brought back while the core is locked (R399). That a core is locked only then
is a DESIGN CHOICE (log 75). -/
def State.allPresent (s : State) (k : Nat) : Bool :=
  let holds (r : Residency) : Bool := r.v && r.gen == s.gen r.tenant
  ((List.range 4).all fun i => !(holds ((s.core k).resid i) && (s.core k).absent.getLsbD i)) &&
    (s.core k).away.all fun a => !holds a.2

/-- Whether an owner register may take a value (R399): a core is locked only in partition mode 00 and while no tenant but
OWNER at OGEN holds a partition on it, resident or absent. -/
def State.ownOk (s : State) (k : Nat) (w : Word) : Bool :=
  let holds (r : Residency) : Bool := r.v && r.gen == s.gen r.tenant
  let mine (r : Residency) : Bool := !holds r || (r.tenant == ownTenant w && r.gen == ownGen w)
  !ownLock w || ((s.core k).pmode == 0 && (List.range 4).all (fun i => mine ((s.core k).resid i)) &&
    (s.core k).away.all fun a => mine a.2)

/-- The owner register of a core written. Where that clears LOCK, CONF of a tenant whose node set holds the core falls with it: CONF is 1
only while every core of the set is locked (R401). -/
def State.setOwner (s : State) (k : Nat) (w : Word) : State :=
  let s := s.updCore k fun c => { c with owner := w }
  if ownLock w then s
  else { s with tenants := s.tenants.map fun e => (e.1, if s.inNodes e.1 k then { e.2 with conf := false } else e.2) }

/-- OWNSET: the Curator writes an owner register, unless that would break R399; by the service pair it has no effect and
is logged to the Curator (R51, R151). -/
def execOwnset (a b : XReg) (s : State) : Out :=
  match s.agent with
  | .strand => s.runAny fun _ => raise cPriv (wordDetail (.ownset a b))
  | .service die => s.byPair die fun p =>
    .next ((s.setPair die p.next).logAt 0x0A (BitVec.ofNat 8 die) ((p.getX a).extractLsb' 0 10 |>.setWidth 16) none (p.getX a)
      0)
  | .curator die =>
    let c := (s.service.curators[die]?).getD {}
    let get (r : XReg) : Word := if r = 0 then 0 else c.x[r.toNat]
    let k := ((get a).extractLsb' 0 10).toNat
    let w := get b &&& ownMask
    let s := { s with service := { s.service with curators := s.service.curators.set! die { c with pc := c.pc + 4 } } }
    .next (if s.ownOk k w then s.setOwner k w else s)

end Sys2Proof.Machine
end

