-- ==== Sys2Proof/Machine/Service.lean ====
section
/-! DEFINITION. Bring-up, VF Enable, the chime and takeover, firmware activation and package reset (01 R29, 12 R405, 13 R432,
R440, R441, 14 R446, R447, R464). -/

namespace Sys2Proof.Machine

/-! ### VF Enable (R447) -/

/-- What VF_ENABLE_SET does for one virtual function: its entry is built, or once the reset of the old one has ended. -/
def State.enableVf (s : State) (i : TenantInit) : State :=
  if i.tenant = 0 || Config.functions ≤ i.tenant then s
  else if (s.tenant i.tenant).v then
    (if (s.fn i.tenant).resetting then s.updFn i.tenant fun f => { f with rebuild := some i } else s)
  else if s.mayEnable i then s.enable i else s

/-- VF_ENABLE_SET: the entry of each virtual function is built (R447). -/
def execVfEnableSet (vfs : List TenantInit) (s : State) : Out :=
  s.event (s.service.booted && !s.service.stopped) fun s =>
    vfs.foldl State.enableVf { s with service := { s.service with vfEnabled := vfs.length } }

/-! ### Bring-up (R446) -/

/-- The logical core that a valid remap entry names is of its die and quadrant (R19, R405). -/
def remapOk (die : Nat) (e : List (BitVec 16)) : Bool :=
  let valid := e.zipIdx.filter fun x => x.1.getLsbD 15
  let named (x : BitVec 16 × Nat) : Nat := (x.1.extractLsb' 0 10).toNat
  e.length == 8 && e.all (fun x => x.extractLsb' 10 5 == 0) &&
  valid.all (fun x => (quadClusters (4 * die + x.2 / 2)).contains (named x / 8)) &&
  (valid.map named).eraseDups.length == valid.length

/-- The step of 14 Table 3 that fails, when one does. -/
def bringFails (i : BringUpInput) : Option Nat :=
  let first (a b : Option Nat) : Option Nat := match a, b with
    | none, b => b
    | a, none => a
    | some x, some y => some (min x y)
  let self : Option Nat := if i.selfTest = 0 then some 2 else none
  let fuse : Option Nat := if remapOk 0 i.remap0 && remapOk 1 i.remap1 then none else some 3
  let entry : Option Nat := if i.pf.tenant = 0 && initOk [] i.pf then none else some 6
  first i.failStep (first self (first fuse entry))

/-- A step that runs before the failure. -/
def bringRuns (i : BringUpInput) (step : Nat) : Bool := match bringFails i with | some n => decide (step < n) | none => true

/-- Self-test and leader election (R29). -/
def State.elect (s : State) (selfTest : BitVec 2) : State :=
  let p (d : Nat) (q : Pair) : Pair := { q with passed := selfTest.getLsbD d }
  { s with service := { s.service with
      pairs := #v[p 0 s.service.pairs[0], p 1 s.service.pairs[1]]
      leader := if selfTest.getLsbD 0 then some 0 else if selfTest.getLsbD 1 then some 1 else none
      lastChime := s.time } }

/-- The bytes of the reserved region of device memory (R195). -/
def reservedRegion : Nat × Nat := (Config.programBytes, Config.deviceBytes)

/-- BRING_UP: the steps up to the first that fails, which BOOTERR and the log then name; after the last the physical function is
ready (R446). -/
def execBringUp (inp : BringUpInput) (s : State) : Out :=
  s.event (!s.service.booted) fun s =>
    let s := { s with service := { s.service with booted := true } }
    let s := if bringRuns inp 2 then s.elect inp.selfTest else s
    let s := if bringRuns inp 3 then { s with service := { s.service with remap := [inp.remap0, inp.remap1] } } else s
    let s := if bringRuns inp 4 then s.zero reservedRegion.1 reservedRegion.2 else s
    match bringFails inp with
    | none => s.enable inp.pf
    | some n =>
      let s := { s with service := { s.service with stopped := true } }
      (s.updFn 0 fun f => { f with bootErr := BitVec.ofNat 8 n }).logAt 0x0B 0xFF (BitVec.ofNat 16 n) none 0 0

/-! ### The chime and takeover (R29, R440, R441) -/

/-- TIME ticks of 100 us and of 350 us. -/
def chimeTicks : Nat := 10000
/-- TIME ticks after which the follower declares the leader lost. -/
def lostTicks : Nat := 35000
/-- TIME ticks by which it has taken over (13 Table 10). -/
def takeoverTicks : Nat := 36000

/-- A stopped pair runs again at an interrupt or a chime timer event of its own (R151). -/
def Pair.wake (p : Pair) : Pair := { p with halted := p.lost }

/-- CHIME: the leader, while it has not failed, sends its heartbeat, every 100 us; its timer event ends the leader's SHALT (R29, R151). One
that arrives once the leader has been declared lost is ignored (R440). -/
def execChime (s : State) : Out :=
  match s.service.leader with
  | none => .next s
  | some d =>
    s.event (!s.service.stopped && !(s.pair d).failed && decide (s.service.lastChime + chimeTicks ≤ s.time) &&
        decide (s.time < s.service.lastChime + lostTicks)) fun s =>
      let s := s.setPair d (s.pair d).wake
      { s with service := { s.service with lastChime := s.time } }

/-- A takeover report to every function (R440, R449). -/
def State.reportTakeover (s : State) : State :=
  s.tenants.foldl (fun s e => if e.2.v then s.post e.1 0x04 0 else s) s

/-- LEADER_TAKEOVER: three chimes have not arrived; the follower halts the old pair and leads, each call going on from its last
step; with no follower the part reports an uncorrectable internal error and refuses every launch (R440, R441). -/
def execLeaderTakeover (s : State) : Out :=
  match s.service.leader with
  | none => .next s
  | some d =>
    s.event (!s.service.stopped && decide (s.service.lastChime + lostTicks ≤ s.time)) fun s =>
      let old := s.service.pairs.getD d {}
      let next := s.service.pairs.getD (1 - d) {}
      let pairs := s.service.pairs.set! d { old with halted := true, lost := true }
      if next.passed && !next.lost then
        let s := { s with service := { s.service with pairs, leader := some (1 - d), lastChime := s.time } }
        (s.logAt 0x0D (BitVec.ofNat 8 (1 - d)) (BitVec.ofNat 16 (1 - d)) none 0 0).reportTakeover
      else { s with service := { s.service with pairs, leader := none, stopped := true } }

/-! ### Firmware activation (R464) -/

/-- The service version that the running firmware has. -/
def State.svn (s : State) : BitVec 16 := s.service.svnNow.getD Config.svn

/-- Every function is in CONFIG_UNLOCKED or QUIESCED, and no tenant holds a strand or record in CONFIG_UNLOCKED. -/
def State.quietForFirmware (s : State) : Bool :=
  (s.fns.all fun f => f.2.tdi == .unlocked || f.2.tdi == .quiesced) &&
  (s.cores.all fun c => c.2.mode == .idle || (s.fn c.2.strand.tenant).tdi == .quiesced) &&
  (s.bms.all fun h => (s.fn h.bm.tenant).tdi == .quiesced) && (s.cmds.all fun c => (s.fn c.tenant).tdi == .quiesced) &&
  (s.faulted.all fun f => (s.fn f.cmd.tenant).tdi == .quiesced) && s.jobs.all fun j => (s.fn j.tenant).tdi == .quiesced

/-- FIRMWARE_ACTIVATION: a verified image restarts the Curators and service pairs, and measurement blocks 2, 3 and 5 report its
digests; an image that fails verification leaves the old firmware running (R464). -/
def execFirmwareActivation (image : FirmwareImage) (s : State) : Out :=
  s.event (image.verified && decide (Config.svn.toNat ≤ image.svn.toNat) && s.quietForFirmware) fun s =>
    let restart (p : Pair) : Pair := { passed := p.passed, lost := p.lost, halted := p.lost }
    { s with service := { s.service with
        svnNow := some image.svn
        digests := ((s.service.digests.set 2 image.digest2).set 3 image.digest3).set 5 image.digest5
        pairs := s.service.pairs.map restart, curators := Vector.replicate 2 {}, lastChime := s.time } }

/-! ### Package reset (R10, R432) -/

/-- PACKAGE_RESET: every register, table and memory of the package is at its reset value; host memory and the host's own page
permissions are the host's (R432). -/
def execPackageReset (s : State) : Out :=
  .next { State.reset with
    mem := s.mem.filter fun c => isHostPlace c.1
    hostPerm := s.hostPerm, hostFails := s.hostFails, schedule := s.schedule, fresh := s.fresh }

end Sys2Proof.Machine
end

