-- ==== Sys2Proof/Machine/Links.lean ====
section
/-! DEFINITION. Odpa links: training, retry, counter flits, writes and abort records (08 R288, R289, 13 R438, 14 R456 to R459,
R469). -/

namespace Sys2Proof.Machine

/-! ### Links up and down (R456, R458, R461) -/

/-- LINK_DOWN (R458): the causes of R458 and R462. -/
def execLinkDown (port : Nat) (cause : BitVec 3) (s : State) : Out :=
  s.event (cause != 0 && decide (cause.toNat ≤ 5)) fun s => s.takeDown port cause

/-- LINK_UP: the link trains in the mode held; in PEER mode both ends hold the same ENC (R456, R458, R461, R469). -/
def execLinkUp (port : Nat) (peerEnc : Bool) (s : State) : Out :=
  let p := s.port port
  s.event (!p.up && p.mode != 0) fun s =>
    if p.mode = 1 ∧ p.enc ≠ peerEnc then s.updPort port fun p => { p with downCause := 3 }
    else s.updPort port fun p =>
      { p with
        up := true, rxflits := 0, txseq := 0, rxseq := 0, retained := [], rekeys := 0
        pending := p.pending.filter fun o => o.answer.isSome
        closedTo := [], acked := 0, peerCred := 0, owed := p.credits, nakked := false }

/-- LINK_REKEY: the key is replaced after 2^40 flits, at a LINKCTL boundary (R458). -/
def execLinkRekey (port : Nat) (s : State) : Out :=
  let p := s.port port
  s.event (p.up && p.mode == 1 && p.enc && decide (2 ^ 40 * (p.rekeys + 1) ≤ p.txseq)) fun s =>
    (s.sendFlit port none 0x09 []).updPort port fun p => { p with rekeys := p.rekeys + 1 }

/-! ### Receiving (R456, R457) -/

/-- A NAK that names the next flit expected. -/
def State.nak (s : State) (port : Nat) : State :=
  (s.sendFlit port none 0x09 [w64 ((s.port port).rxseq % 4096)]).updPort port fun p => { p with nakked := true }

/-- A gap in sequence: one NAK answers it, and every later flit is discarded until the one that it names (R457). -/
def State.gap (s : State) (port : Nat) : State := if (s.port port).nakked then s else s.nak port

/-- A flit that has been received in order is counted. -/
def State.countFlit (s : State) (port : Nat) : State :=
  s.updPort port fun p => { p with rxseq := p.rxseq + 1, rxflits := p.rxflits + 1, nakked := false }

/-- ACK and CRED of a flit received in order (R456). -/
def State.noteHeader (s : State) (port : Nat) (hdr : FlitHeader) : State :=
  s.updPort port fun p => { p with acked := hdr.ack, peerCred := p.peerCred + hdr.cred.toNat }

/-- A flit received: on a link that is up and in sequence it is counted and acts; a gap discards it and sends a NAK; one that
carries a closed generation of its function is discarded (R438, R457). The full sequence number of the flit is given. -/
def State.receive (s : State) (port : Nat) (hdr : FlitHeader) (f : State → Nat → State) : Out :=
  let p := s.port port
  s.event p.up fun s =>
    if hdr.seq.toNat ≠ p.rxseq % 4096 then s.gap port
    else
      let s := (s.countFlit port).noteHeader port hdr
      if p.closedTo.contains (hdr.func, hdr.gen) then s else f s p.rxseq

/-- A counter or data flit of a peer: a port in another mode discards it. -/
def State.receivePeer (s : State) (port : Nat) (hdr : FlitHeader) (f : State → Nat → State) : Out :=
  s.receive port hdr fun s n => if (s.port port).mode = 1 then f s n else s

/-- IDLE_FLIT: acknowledgements and credits only (R456). -/
def execIdleFlit (port : Nat) (hdr : FlitHeader) (s : State) : Out := s.receive port hdr fun s _ => s

/-- The flits retained once a NAK has named one: it and those after it have been resent once more, those before it have been received
(R457). -/
def resendFrom (l : List Flit) (nak : BitVec 12) : List Flit :=
  let i := (l.findIdx? fun x => x.no % 4096 == nak.toNat).getD l.length
  (l.take i).map (fun (x : Flit) => { x with resent := 0 }) ++ (l.drop i).map fun (x : Flit) => { x with resent := x.resent + 1 }

/-- LINKCTL_FLIT: the sender resends from the flit named, as first sent; the 64th resend of one flit in a row takes the link
down (R457). -/
def execLinkctlFlit (port : Nat) (hdr : FlitHeader) (nak : BitVec 12) (s : State) : Out :=
  s.receive port hdr fun s _ =>
    let p := s.port port
    if p.retained.any fun x => x.no % 4096 == nak.toNat then
      let l := resendFrom p.retained nak
      let s := s.updPort port fun p => { p with retained := l }
      if l.any fun x => decide (64 ≤ x.resent) then s.takeDown port 1 else s
    else s

/-- FLIT_RECEIVE_ERROR: a CRC failure or a gap discards the flit and sends a NAK; a MAC failure takes the link down; a reserved TYPE
or bit discards and logs it in its sequence, its number counted (R456 to R458). -/
def execFlitReceiveError (port : Nat) (kind : FlitError) (s : State) : Out :=
  s.event (s.port port).up fun s =>
    match kind with
    | .crc => s.nak port
    | .gap => s.gap port
    | .mac => if (s.port port).enc && (s.port port).mode == 1 then s.takeDown port 2 else s
    | .reserved seq type =>
      if seq.toNat % 4096 ≠ (s.port port).rxseq % 4096 then s.gap port
      else (s.countFlit port).logAt 0x05 (portDie port) (BitVec.ofNat 16 port) none seq (type.setWidth 64)

/-! ### The export table (R459) -/

/-- The entry that admits a flit, for n bytes at the peer address: V, of the KIND, FUNC at GEN, the bytes within the length, and
the exporting tenant still of its generation. -/
def State.admitted (s : State) (port : Nat) (hdr : FlitHeader) (addr : BitVec 46) (data : Bool) (n : Nat) : Option Export :=
  let e := Table.get (s.port port).exports (addr.extractLsb' 40 6).toNat {}
  let off := (addr.extractLsb' 0 40).toNat
  if e.v && e.data == data && e.peer == hdr.func && e.peerGen == hdr.gen && decide (off + n ≤ e.len) && e.gen == s.gen e.tenant then
    some e
  else none

/-- The local address that a flit names in an entry. -/
def Export.addr (e : Export) (addr : BitVec 46) : Nat := (e.base + (addr.extractLsb' 0 40).toNat) % 2 ^ 56

/-- The cell that a counter flit names and its place: none is answered as refused by the home. -/
def State.exportedCell (s : State) (port : Nat) (hdr : FlitHeader) (addr : BitVec 46) (need : Need) :
    Option (Export × Nat × Place) :=
  match s.admitted port hdr addr false 16 with
  | none => none
  | some e =>
    let va := e.addr addr
    if va % 16 ≠ 0 then none
    else match s.placeOf e.tenant va need true va with
      | .ok p => if s.homeRefuses p then none else some (e, va, p)
      | .error _ => none

/-- An operation of a port at the local home: after those of the port that wait, or at once (R191, R310). -/
def State.portOp (s : State) (op : CtrOp) (p : Place) : State :=
  let wait (s : State) : State := { s with counterOps := s.counterOps ++ [op] }
  if s.bump.behind op then wait s.bump
  else match s.bump.atHome op p with
  | .applied s => s.opApplied op (s.cellVal p.flat)
  | .sent s => s
  | .refused s cause => s.opRefused op cause
  | .held s => wait s

/-- A counter flit at the local home, answered with CANS (R288, R459). -/
def State.remoteOp (s : State) (port : Nat) (hdr : FlitHeader) (addr : BitVec 46) (n : Nat) (access : Need) (kind : CtrKind) : State :=
  match s.exportedCell port hdr addr access with
  | none => s.sendFlit port none 0x06 [w64 n, 2, 0]
  | some (e, va, p) =>
    s.portOp { id := s.nextId, place := p.flat, va, kind, tenant := e.tenant, gen := s.gen e.tenant, origin := .remote port n } p

/-- CADD_FLIT (R459). -/
def execCaddFlit (port : Nat) (hdr : FlitHeader) (addr : BitVec 46) (amount : Word) (s : State) : Out :=
  s.receivePeer port hdr fun s n => s.remoteOp port hdr addr n needRW (.add amount)

/-- CMAX_FLIT (R459). -/
def execCmaxFlit (port : Nat) (hdr : FlitHeader) (addr : BitVec 46) (candidate : Word) (s : State) : Out :=
  s.receivePeer port hdr fun s n => s.remoteOp port hdr addr n needRW (.max candidate)

/-- CREAD_FLIT (R288, R459). -/
def execCreadFlit (port : Nat) (hdr : FlitHeader) (addr : BitVec 46) (s : State) : Out :=
  s.receivePeer port hdr fun s n => s.remoteOp port hdr addr n needR .read

/-- CWATCH_FLIT: a watch that VALUE satisfies is answered at once; another is registered in the place of the function's earlier
one on the cell, and counts as a waiter under the wrap rule (R288). -/
def execCwatchFlit (port : Nat) (hdr : FlitHeader) (addr : BitVec 46) (threshold : Word) (s : State) : Out :=
  s.receivePeer port hdr fun s n => s.remoteOp port hdr addr n needR (.watch threshold hdr.func hdr.gen)

/-- WRITE_FLIT: bytes written into a data entry, or the flit is refused and logged (R459). -/
def execWriteFlit (port : Nat) (hdr : FlitHeader) (addr : BitVec 46) (data : List Byte) (s : State) : Out :=
  s.receivePeer port hdr fun s n =>
    match s.admitted port hdr addr true data.length with
    | none => s.logAt 0x08 (portDie port) (BitVec.ofNat 16 port) none (addr.setWidth 64) 0
    | some e =>
      s.portOp { id := s.nextId, place := 0, va := e.addr addr, kind := .write addr data, tenant := e.tenant, gen := s.gen e.tenant
                 origin := .remote port n } { flat := 0, home := .host }

/-! ### Answers (R288) -/

/-- A watch of a cell is satisfied with a value: the port releases its satisfied waiters and registers a watch at the next least
threshold. -/
def State.watchAnswered (s : State) (port : Nat) (o : PeerOp) (v : Word) : State :=
  let s := s.dropPeerOp port o.id
  (s.seen o.place (v - (2 ^ 63 - 1)) v).watchPeer o.place o.tenant o.va

/-- An operation has been applied at the peer with a value. -/
def State.peerApplied (s : State) (port : Nat) (o : PeerOp) (v : Word) : State :=
  let s := s.dropPeerOp port o.id
  match o.read, o.origin with
  | some bm, .strand =>
    match s.heldOf bm with
    | some h => (s.collectSlip o.tenant o.va v).farDone h v {} 0
    | none => s
  | some _, _ => s.answered (.data (natBytes 8 v.toNat))
  | none, _ => s.opApplied o.toCtr v

/-- A watch refused by the peer: its waiters fault as CTR_HOME gives (R267, R278). -/
def State.watchRefused (s : State) (port : Nat) (o : PeerOp) : State :=
  (s.dropPeerOp port o.id).faultWaiters (fun h cell => cell == o.place && h.bm.tenant == o.tenant) cHome

/-- An answer of the peer takes effect; one to an operation of an old generation is discarded (R214, R288, R459). -/
def State.takeAnswer (s : State) (port : Nat) (o : PeerOp) (answer : CansAnswer) : State :=
  if o.gen ≠ s.gen o.tenant then s.dropPeerOp port o.id
  else match answer with
    | .watch v => if o.watch then s.watchAnswered port o v else s
    | .applied v => if o.watch then s else s.peerApplied port o v
    | .refusedWrap => if o.watch then s.watchRefused port o else s.peerRefused port o cWrap
    | .refusedHome => if o.watch then s.watchRefused port o else s.peerRefused port o cHome

/-- CANS_FLIT (R288, R459): an answer to a function whose traffic is held waits (R452). -/
def execCansFlit (port : Nat) (hdr : FlitHeader) (op : Nat) (answer : CansAnswer) (s : State) : Out :=
  s.receivePeer port hdr fun s _ =>
    match (s.port port).pending.find? fun o => o.id == op with
    | none => s
    | some o =>
      if (s.fn o.tenant).halted then
        s.updPort port fun p =>
          { p with pending := updWhere p.pending (fun x => x.id == op) fun x => { x with answer := some answer } }
      else s.takeAnswer port o answer

/-- The answers to peers that were held with a function's traffic leave, in their order (R450, R452). -/
def State.sendHeld (s : State) (fn : Nat) : State :=
  (s.fn fn).cans.foldl (fun s c => s.sendFlit c.1 (some fn) 0x06 c.2) (s.updFn fn fun f => { f with cans := [] })

/-- The answers that were held for a function take effect, in their order (R450). -/
def State.takeAnswers (s : State) (fn : Nat) : State :=
  s.ports.foldl (fun s p => p.2.pending.foldl (fun s o => match o.answer with
    | some a => if o.tenant = fn then s.takeAnswer p.1 o a else s
    | none => s) s) s

/-! ### Abort records (R438) -/

/-- ABORT_FLIT: later flits of the old generation are discarded from now on, and the record takes effect after the flits that the
port received before it (R310, R438). -/
def execAbortFlit (port : Nat) (hdr : FlitHeader) (oldGen newGen : BitVec 8) (func : BitVec 10) (s : State) : Out :=
  s.receivePeer port hdr fun s n =>
    if newGen ≠ oldGen + 1 then s
    else
      let s := s.updPort port fun p => { p with closedTo := dropWhere p.closedTo (fun c => c.1 == func) ++ [(func, oldGen)] }
      s.portOp { id := s.nextId, place := 0, va := 0, kind := .abort func, tenant := Config.functions, gen := 0
                 origin := .remote port n } { flat := 0, home := .host }

end Sys2Proof.Machine
end

