-- ==== Sys2Proof/Machine/Tdisp.lean ====
section
/-! DEFINITION. The interface lock, IDE keys, SPDM, power states, and PLIMIT (14 R450 to R455, R463, R466, R470). -/

namespace Sys2Proof.Machine

/-- A TDISP request answered. -/
def State.tdisp (s : State) (c : TdispCode) : State := { s with answer := .tdisp c }

/-- The Curator is at a STOP that it has not answered: it applies the requests of all functions one at a time (R450). -/
def State.curatorBusy (s : State) : Bool := s.fns.any fun f => f.2.stopping

/-- A TDISP request applied, when the Curator comes to it. -/
def State.applied (s : State) (f : Tdi → State) (fn : Nat) : Out := if s.curatorBusy then .next s else .next (f (s.fn fn).tdi)

/-- The function with its TDI in a state. -/
def State.setTdi (s : State) (fn : Nat) (t : Tdi) : State := s.updFn fn fun f => { f with tdi := t }

/-! ### LOCK (R451) -/

/-- A selective stream of the function has keys programmed and is Secure. -/
def IdeStream.ready (d : IdeStream) : Bool := d.keys.getLsbD d.current && d.secure

/-- Every selective stream in use is keyed and Secure, and there is one (log 24). -/
def Fn.streamsSecure (f : Fn) : Bool :=
  let used := f.ide.toList.filter fun d => d.keys != 0 || d.secure
  !used.isEmpty && used.all fun d => d.ready

/-- The logical cores of a tenant's node set (R401). -/
def State.nodeSet (s : State) (t : Nat) : List Nat := (s.tenant t).nodes.flatMap fun n => nodeCores n.toNat

/-- The tenant holds no strand, record, command, job or waiter anywhere. -/
def State.quiet (s : State) (t : Nat) : Bool :=
  !(s.cores.any fun c => s.strandOn t c.1) && !(s.bms.any fun h => h.bm.tenant == t) && !(s.cmds.any fun c => c.tenant == t) &&
  !(s.faulted.any fun f => f.cmd.tenant == t) && !(s.jobs.any fun j => j.tenant == t)

/-- R451 holds. It names what a LOCK needs and no more than that; the model also asks that no partition of the cores is absent: DESIGN
CHOICE (log 75). -/
def State.lockable (s : State) (fn : Nat) : Bool :=
  (s.fn fn).streamsSecure && ((s.tenant fn).nodes.all fun n => (s.node n.toNat).sharers == 1) &&
  ((s.nodeSet fn).all fun k => (s.core k).pmode == 0 && s.soleHolder fn k && s.allPresent k) && s.quiet fn

/-- The owner register of a core locked for a tenant (R398). -/
def ownerWord (t : Nat) (g : BitVec 8) : Word := 1#1 ++ 0#3 ++ BitVec.ofNat 10 t ++ g ++ 0#42

/-- Every core and node of the node set locked, and CONF set (R450). -/
def State.lockAll (s : State) (fn : Nat) : State :=
  let s := (s.nodeSet fn).foldl (fun s k => s.updCore k fun c => { c with owner := ownerWord fn (s.gen fn) }) s
  let s := (s.tenant fn).nodes.foldl (fun s n => s.updNode n.toNat fun e => { e with lock := true }) s
  s.updTenant fn fun e => { e with conf := true }

/-- LOCK_INTERFACE_REQUEST (14 Table 5, R451). For one that R451 refuses, the service pair may ask for the pre-emption of the strands on
the cores that it names (R429). -/
def execLockInterfaceRequest (fn : Nat) (s : State) : Out :=
  s.applied (fn := fn) fun
  | .unlocked =>
    if s.lockable fn then ((s.lockAll fn).setTdi fn .locked).tdisp .success
    else (s.askCores (s.nodeSet fn)).tdisp .invalidRequest
  | _ => s.tdisp .invalidInterfaceState

/-- START_INTERFACE_REQUEST (14 Table 5). -/
def execStartInterfaceRequest (fn : Nat) (s : State) : Out :=
  s.applied (fn := fn) fun
  | .locked => (s.setTdi fn .run).tdisp .success
  | _ => s.tdisp .invalidInterfaceState

/-- STOP_INTERFACE_REQUEST: a Function Level Reset of the function, answered once it is unlocked (14 Table 5, R399, R432). -/
def execStopInterfaceRequest (fn : Nat) (s : State) : Out :=
  s.applied (fn := fn) fun
  | .unlocked => s.tdisp .invalidInterfaceState
  | _ =>
    if (s.tenant fn).v then (s.updFn fn fun f => { f with stopping := true }).flr fn
    else (s.flr fn).tdisp .success

/-- QUIESCE (R450, R452). -/
def execQuiesce (fn : Nat) (s : State) : Out :=
  s.applied (fn := fn) fun
  | .run => (s.setTdi fn .quiesced).tdisp .success
  | _ => s.tdisp .invalidInterfaceState

/-- The page requests that wait are issued, as far as there is room. -/
def State.issuePages (s : State) (fn : Nat) : State := (List.range 64).foldl (fun s _ => s.issuePage fn) s

/-- The lines of a function's host memory that the host interface holds are written, and its vectors signalled. -/
def State.flushHeld (s : State) (fn : Nat) : State :=
  let mine (l : L2Line) : Bool := l.tenant == fn
  let s' := { s with heldWrites := dropWhere s.heldWrites mine }
  ((s.heldWrites.filter mine).foldl (fun s l => s.writeBack l) s').updFn fn fun f =>
    { f with msix := f.msixHeld.reverse ++ f.msix, msixHeld := [] }

/-- Held traffic of a function proceeds in its original order, once nothing holds it: the lines held for its host memory and the messages
for its mailbox are written, its page requests are issued, the peers' answers taken and theirs sent; what the part holds at a home or
in an engine goes on by its own events. -/
def State.proceed (s : State) (fn : Nat) : State :=
  if (s.fn fn).halted then s
  else
    let s := s.flushHeld fn
    (((s.pump fn (s.fn fn).outbox.length).issuePages fn).takeAnswers fn).sendHeld fn

/-- UNQUIESCE (R450). -/
def execUnquiesce (fn : Nat) (s : State) : Out :=
  s.applied (fn := fn) fun
  | .quiesced => ((s.setTdi fn .run).proceed fn).tdisp .success
  | _ => s.tdisp .invalidInterfaceState

/-- A locked TDI moves to ERROR. -/
def State.tdiError (s : State) (fn : Nat) : State :=
  match (s.fn fn).tdi with
  | .unlocked => s
  | .error => s
  | .locked => s.setTdi fn .error
  | .run => s.setTdi fn .error
  | .quiesced => s.setTdi fn .error

/-- TDI_CONFIG_WRITE: a write to a BAR, Memory Space Enable or the function's IDE registers (14 Table 5). -/
def execTdiConfigWrite (fn : Nat) (s : State) : Out := .next (s.tdiError fn)

/-! ### IDE (R453, R455) -/

/-- The function with f applied to one of its streams. -/
def State.updStream (s : State) (fn stream : Nat) (f : IdeStream → IdeStream) : State :=
  s.updFn fn fun x => { x with ide := x.ide.set! stream (f (x.ide.getD stream {})) }

/-- IDE_TLP_FAILURE: the TLP is discarded, its stream is Insecure, and the failure is logged (R455). -/
def execIdeTlpFailure (fn stream : Nat) (s : State) : Out :=
  let s := (s.updStream fn stream fun d => { d with secure := false }).tdiError fn
  .next (s.logAt 0x06 0xFF 0 (some fn) (w64 stream) 0)

/-- IDE_KEY_PROGRAM: a key set is programmed over a secured SPDM session, and the stream is Secure (R453, R455). -/
def execIdeKeyProgram (fn stream set : Nat) (s : State) : Out :=
  s.event (s.service.sessions != 0) fun s => s.updStream fn stream fun d =>
    { keys := putBit d.keys set true, current := if d.keys = 0 then set else d.current, secure := true }

/-- K_SET_GO: the stream switches to its other key set (R453). -/
def execKSetGo (fn stream : Nat) (s : State) : Out :=
  .next (s.updStream fn stream fun d => if d.keys.getLsbD (1 - d.current) then { d with current := 1 - d.current } else d)

/-! ### SPDM (R463) -/

/-- The digest that measurement block b holds. -/
def State.digest (s : State) (b : Nat) : Vec := Table.get s.service.digests b (Config.measurement b)

/-- The partition modes of 256 logical cores from the first one on, 2 bits each; 0 for a core outside the node set. -/
def State.modeWord (s : State) (fn first : Nat) : Vec :=
  BitVec.ofNat 512 (packElems 2 ((List.range 256).map fun i =>
    if s.inNodes fn (first + i) then (s.core (first + i)).pmode.toNat else 0))

/-- The interface report of a TDI: its node set, the partition mode of each core of it, its barrier domain and its stream identifiers
(R463). That the nodes and the streams each stand after their number, and the layout, are DESIGN CHOICES (log 20). -/
def State.interfaceReport (s : State) (fn : Nat) : List Vec :=
  let e := s.tenant fn
  let streams := (List.range 2).filter fun i => (((s.fn fn).ide.toList.map fun d => d.keys != 0).getD i false)
  [BitVec.ofNat 512 (packElems 16 (e.nodes.length :: e.nodes.map (·.toNat)))] ++
    ((List.range 4).map fun j => s.modeWord fn (256 * j)) ++
    [e.barrier.extractLsb' 0 512, e.barrier.extractLsb' 512 512, BitVec.ofNat 512 (packElems 8 (streams.length :: streams))]

/-- What the Curator of die 0 reports for a request. -/
def State.report (s : State) : SpdmReq → List Vec
  | .measurements b => if 1 ≤ b ∧ b ≤ 6 then [s.digest b] else (List.range 6).map fun i => s.digest (i + 1)
  | .interfaceReport fn => s.interfaceReport fn
  | .openSession => []

/-- SPDM_REQUEST: the answer is signed by the Curator of die 0 (R30, R463); a secured session that opens is counted (R470). -/
def execSpdmRequest (req : SpdmReq) (s : State) : Out :=
  let r := s.report req
  let s := match req with
    | .openSession => { s with service := { s.service with sessions := s.service.sessions + 1 } }
    | .measurements _ => s
    | .interfaceReport _ => s
  .next { s with answer := .signed (Config.signature r) r }

/-! ### Power states and PLIMIT (R466, R470) -/

/-- POWER_STATE_D3HOT: the function is held as in QUIESCED (R466). -/
def execPowerStateD3hot (fn : Nat) (s : State) : Out := .next (s.updFn fn fun f => { f with d3hot := true })

/-- POWER_STATE_D0: held traffic resumes in its original order (R466). -/
def execPowerStateD0 (fn : Nat) (s : State) : Out := .next ((s.updFn fn fun f => { f with d3hot := false }).proceed fn)

/-- PLIMIT_WRITE: a value outside 100 to 600 is discarded (R470). -/
def execPlimitWrite (value : OfTlp (BitVec 16)) (s : State) : Out :=
  s.event (!(s.fn 0).dropsWrite value.ide && decide (100 ≤ value.val.toNat) && decide (value.val.toNat ≤ 600)) fun s =>
    { s with power := { s.power with plimit := value.val } }

end Sys2Proof.Machine
end

