-- ==== Sys2Proof/Machine/PowerCtl.lean ====
section
/-! DEFINITION. Power and clock control (14 R465). -/

namespace Sys2Proof.Machine

/-- Samples of 10 us in 1 ms and in 10 ms (R465). -/
def sampleWindow : Nat := 100
/-- Samples for which the average must stay below 95 % of PLIMIT before the clock rises. -/
def riseWindow : Nat := 1000

/-- The temperature hold after a sample, in units of 0.5 degrees: it applies above 105 on either die and is released below 100 on
both. -/
def Power.holds (p : Power) (temp0 temp1 : Nat) : Bool :=
  decide (210 < temp0) || decide (210 < temp1) || (p.hot && !(decide (temp0 < 200) && decide (temp1 < 200)))

/-- The step that is asked for after a sample: step 6 under the temperature hold; one step down when the average exceeds PLIMIT;
one up after 10 ms below 95 % of it. A step already asked for stands. -/
def Power.asks (p : Power) (above : Bool) (below : Nat) (hot : Bool) : Option (BitVec 3) :=
  if hot then (if p.step = 6 then none else some 6)
  else match p.want with
    | some w => some w
    | none =>
      if above && decide (p.step.toNat < 6) then some (p.step + 1)
      else if riseWindow ≤ below ∧ p.step ≠ 0 then some (p.step - 1)
      else none

/-- POWER_SAMPLE: one sample of package power, in W, and of the dies' temperatures (R465). -/
def execPowerSample (watts temp0 temp1 : Nat) (s : State) : Out :=
  let p := s.power
  let samples := (watts :: p.samples).take sampleWindow
  let n := samples.length
  let sum := samples.foldl (· + ·) 0
  let above := decide (p.plimit.toNat * n < sum)
  let below := if 100 * sum < 95 * (p.plimit.toNat * n) then p.below + 1 else 0
  let hot := p.holds temp0 temp1
  let want := p.asks above below hot
  .next { s with power := { p with
    samples, below := if riseWindow ≤ below then 0 else below, hot, want
    pavg := BitVec.ofNat 16 (sum / n), temp0 := BitVec.ofNat 16 temp0, temp1 := BitVec.ofNat 16 temp1
    throttled := p.throttled || (above && !hot) } }

/-- CLOCK_STEP_CHANGE: both dies change step together at one c-cycle boundary, and the change is logged (R465). -/
def execClockStepChange (s : State) : Out :=
  match s.power.want with
  | none => .next s
  | some n =>
    let p := s.power
    let cause : Word := if p.hot then 1 else p.pavg.setWidth 64
    let s := { s with power := { p with
      step := n, want := none, changes := p.changes + 1, throttled := p.throttled && n != 0 } }
    .next (s.logAt 0x07 0xFF 0 none (n.setWidth 64) cause)

end Sys2Proof.Machine
end

