-- ==== Sys2Proof/Machine/Ingest.lean ====
section
/-! DEFINITION. Ingest ports: binding, records and their placement in the ring, and the port registers that bind them (10 R344 to
R349, 14 R460 to R462, R469). -/

namespace Sys2Proof.Machine

/-! ### The ring descriptor (10 Table 14) -/

/-- A ring: the place of its descriptor, of the first byte of its vault, its size in units, the vault offset of position 0, and
HOLD. -/
structure Ring where
  desc : Nat
  vault : Nat
  size : Nat
  off : Nat
  hold : Bool
  deriving DecidableEq, Repr

/-- The place of ARRIVAL. -/
def Ring.arrival (r : Ring) : Nat := r.desc
/-- The place of FREE. -/
def Ring.free (r : Ring) : Nat := r.desc + 16
/-- The place of DROPS. -/
def Ring.drops (r : Ring) : Nat := r.desc + 32
/-- The place of unit i. -/
def Ring.unit (r : Ring) (i : Nat) : Nat := r.vault + r.off + 64 * i

/-- The ring that a descriptor address of a tenant gives, when no case of R344 refuses it: the descriptor lies in vault blocks of
the tenant at a multiple of 16, its reserved fields are zero, UNITS and RINGOFF are within their rules, and every unit lies in
vault blocks that the tenant holds. -/
def State.ringAt (s : State) (t va : Nat) : Option Ring :=
  match windowOf va with
  | .vault v o =>
    let vault := Config.vaultFlat + 0x200000 * v
    let d := vault + o
    let holds (x : Nat) : Bool := decide (x < 0x180000) &&
      (let b := Table.get s.blocks (24 * v + x / 0x10000) {}; b.v && b.tenant == t && b.gen == s.gen t)
    let off := memNat s.mem (d + 48) 4
    let size := memNat s.mem (d + 52) 2
    let mode := memGet s.mem (d + 54)
    if o % 16 = 0 ∧ o + 64 ≤ 0x200000 ∧ holds o ∧ holds (o + 63) ∧ mode.extractLsb' 1 7 = 0 ∧ memNat s.mem (d + 55) 9 = 0 ∧
        64 ≤ size ∧ size ≤ 24576 ∧ off % 64 = 0 ∧ ((List.range size).all fun i => holds (off + 64 * i)) then
      some { desc := d, vault, size, off, hold := mode.getLsbD 0 }
    else none
  | _ => none

/-- The ring that an ingest port serves, under its tenant's generation at the bind (R462). A descriptor, or its blocks, that come to break
R344 after the bind give none, and the port then discards what it receives, without DROPS, until they meet R344 again: DESIGN
CHOICE (log 80). -/
def State.portRing (s : State) (port : Nat) : Option Ring :=
  let p := s.port port
  if p.mode = 2 ∧ p.ringGen = s.gen p.tenant then s.ringAt p.tenant p.ringva.toNat else none

/-- ARRIVAL - FREE, with no width of its own (R12, R346). -/
def State.ringUsed (s : State) (r : Ring) : Int := (s.cellVal r.arrival).toNat - (s.cellVal r.free).toNat

/-- The credits that a port advertises at its bind (R461). -/
def State.bindCredits (s : State) (r : Ring) : Nat := if r.hold then (min 1024 (r.size - s.ringUsed r)).toNat else 1024

/-! ### The port registers (R460, R469) -/

/-- The mode held after a write of MODE, TENANT or RINGVA: INGEST binds the port, and a binding that R344 refuses leaves it OFF
with BINDERR set. -/
def State.rebind (s : State) (port : Nat) : State :=
  let s := s.takeDown port 4
  let s := s.updPort port fun p => { p with asm := none, skipping := false, waiting := [], credits := 0 }
  let p := s.port port
  if p.mode ≠ 2 then s
  else match s.ringAt p.tenant p.ringva.toNat with
    | some r => s.updPort port fun p => { p with ringGen := s.gen p.tenant, credits := s.bindCredits r, freeSeen := s.cellVal r.free }
    | none => s.updPort port fun p => { p with mode := 0, bindErr := true }

/-- PORT_MODE_WRITE: a 64-bit write of a port's first or second word by the physical function; one of a reserved field or of MODE
11 is discarded whole (R445, R460, R469). -/
def execPortModeWrite (port : OfTlp Nat) (off : Nat) (value : Word) (s : State) : Out :=
  s.event (!(s.fn 0).dropsWrite port.ide) fun s =>
    if off = 8 then (s.updPort port.val fun p => { p with ringva := value }).rebind port.val
    else if value &&& 0xFFFFFFFF7C00FFF8 ≠ 0 ∨ value.extractLsb' 0 2 = 3 then s
    else (s.updPort port.val fun p =>
      { p with
        mode := value.extractLsb' 0 2, enc := value.getLsbD 2, tenant := (value.extractLsb' 16 10).toNat
        bindErr := p.bindErr && !value.getLsbD 31 }).rebind port.val

/-- BINDERR_CLEAR (R469). -/
def execBinderrClear (port : OfTlp Nat) (s : State) : Out :=
  s.event (!(s.fn 0).dropsWrite port.ide) fun s => s.updPort port.val fun p => { p with bindErr := false }

/-! ### Records (R345 to R348) -/

/-- LENU of a record header. -/
def recLen (u : Vec) : Nat := (u.extractLsb' 0 16).toNat

/-- A header that is no framing error (R461). One with LENU above R345's 1,024 is none either, since R461 does not list it, and begins a
record of that length: DESIGN CHOICE (log 81). -/
def headerOk (u : Vec) : Bool := u.extractLsb' 16 8 == 0x01#8 && recLen u != 0 && decide ((u.extractLsb' 32 16).toNat ≤ 63)

/-- A write of a port into a unit that fails, discarded and logged (R198, R471). -/
def State.logUnit (s : State) (flat : Nat) : State :=
  s.logAt 0x02 (unitAt flat).1 (unitAt flat).2 none (w64 flat) (cIntegrity.setWidth 64)

/-- An add of the port to a cell of the ring; a refused one is lost, and one at a unit that fails is discarded and logged (R200, R471). -/
def State.ringAdd (s : State) (cell n : Nat) : State :=
  if s.badAt cell then s.logUnit cell
  else match s.applyCell cell 0 (s.cellVal cell + w64 n) with
  | .ok s => s
  | .error _ => s

/-- Units written one after another from a position of the ring on, the tags of their granules cleared (R120); one of which the 512-byte
unit fails is discarded (R198). -/
def State.putUnits (s : State) (r : Ring) : Nat → List Vec → State
  | _, [] => s
  | i, u :: us =>
    let a := r.unit i
    (if s.badAt a then s.logUnit a
      else { s with mem := memPuts s.mem (cellsFrom a (natBytes 64 u.toNat)), tags := tagPut s.tags (a / 64) false }).putUnits r (i + 1) us

/-- A record written from a position of the ring on: a 512-byte unit that it replaces whole fails no longer (R200). -/
def State.putRecord (s : State) (r : Ring) (i : Nat) (us : List Vec) : State :=
  (s.replaced ((List.range (64 * us.length)).map (r.unit i + ·))).putUnits r i us

/-- A PAD record of n units (10 Table 15): its header is written. -/
def padHeader (n : Nat) : Vec := BitVec.ofNat 512 (n + 2 * 2 ^ 16)

/-- A record placed, when it fits (R346): the ring after its one add. -/
def State.place (s : State) (r : Ring) (us : List Vec) : Option State :=
  let l := us.length
  let tail := (s.cellVal r.arrival).toNat % r.size
  let room : Int := r.size - s.ringUsed r
  let toend := r.size - tail
  if l ≤ toend ∧ l ≤ room then some ((s.putRecord r tail us).ringAdd r.arrival l)
  else if toend < l ∧ toend + l ≤ room then
    some (((s.putUnits r tail [padHeader toend]).putRecord r 0 us).ringAdd r.arrival (toend + l))
  else none

/-- A complete record: placed in its order, dropped, or held until FREE has risen (R346 to R348). -/
def State.offer (s : State) (port : Nat) (r : Ring) (us : List Vec) : State :=
  if r.size < us.length then s.ringAdd r.drops 1
  else if !(s.port port).waiting.isEmpty then s.updPort port fun p => { p with waiting := p.waiting ++ [us] }
  else match s.place r us with
    | some s => s
    | none =>
      if r.hold then s.updPort port fun p => { p with waiting := p.waiting ++ [us] } else s.ringAdd r.drops 1

/-- A framing error: DROPS is raised, and units are discarded until the next START flit (R461). -/
def State.framing (s : State) (port : Nat) (r : Ring) : State :=
  (s.updPort port fun p => { p with asm := none, skipping := true }).ringAdd r.drops 1

/-- Units joined to the record being received; a complete record is offered to the ring. -/
def State.gather (s : State) (port : Nat) (r : Ring) (a : IngestRec) (us : List Vec) : State :=
  let all := a.units ++ us
  if a.want ≤ all.length then (s.updPort port fun p => { p with asm := none }).offer port r (all.take a.want)
  else s.updPort port fun p => { p with asm := some { a with units := all } }

/-- The units of a flit received by a bound port (R461): a START flit inside a record ends it as a framing error and begins the
next. -/
def State.ingest (s : State) (port : Nat) (r : Ring) (start : Bool) (us : List Vec) : State :=
  if start then
    let s := if (s.port port).asm.isSome then s.framing port r else s
    let s := s.updPort port fun p => { p with asm := none, skipping := false }
    let h := us.headD 0
    if headerOk h then s.gather port r { units := [], want := recLen h } us else s.framing port r
  else match (s.port port).asm with
    | some a => s.gather port r a us
    | none => s

/-- Units of records in flight: of one being received, and of those that wait (R349). -/
def Port.inFlight (p : Port) : Nat := (p.asm.map (·.units.length)).getD 0 + (p.waiting.map (·.length)).sum

/-- The credits returned in HOLD mode: one for each unit by which FREE has risen, less the units held for records in flight
(R349); none while a record waits (R347). -/
def State.recredit (s : State) (port : Nat) (r : Ring) : State :=
  if r.hold && (s.port port).waiting.isEmpty then
    s.updPort port fun p =>
      let n := (s.cellVal r.free - p.freeSeen).toNat - p.inFlight
      { p with credits := p.credits + n, freeSeen := p.freeSeen + w64 n, owed := p.owed + n }
  else s

/-- The credits that the units of a flit use up; in DROP mode each goes back at once (R349). -/
def State.creditUnits (s : State) (port : Nat) (r : Ring) (n : Nat) : State :=
  s.updPort port fun p => if r.hold then { p with credits := p.credits - n } else { p with owed := p.owed + n }

/-- The credits to be returned leave in an IDLE flit (R456); while a record waits none are returned (R347). -/
def State.returnCredits (s : State) (port : Nat) : State :=
  if (s.port port).up && (s.port port).owed != 0 && (s.port port).waiting.isEmpty then s.sendFlit port none 0x00 [] else s

/-- The traffic of the tenant that a port is bound to is held (R452, R466). -/
def State.ingestHeld (s : State) (port : Nat) : Bool := (s.port port).mode == 2 && (s.fn (s.port port).tenant).halted

/-- INGEST_FLIT (R461): in sequence, on a port in ingest mode. While the tenant's traffic is held the flit is not accepted and stays with
its sender (R452; log 99). -/
def execIngestFlit (port : Nat) (hdr : FlitHeader) (start : Bool) (u0 u1 u2 : Vec) (s : State) : Out :=
  if s.ingestHeld port then .next s else
  s.receive port hdr fun s _ =>
    match s.portRing port with
    | none => s
    | some r => (((s.recredit port r).ingest port r start [u0, u1, u2]).creditUnits port r 3).returnCredits port

/-- INGEST_HELD_RECORD: the oldest waiting record is placed once FREE has risen far enough (R347); credits return with the
rise (R349); while the tenant's traffic is held the record waits on (R452). -/
def execIngestHeldRecord (port : Nat) (s : State) : Out :=
  if s.ingestHeld port then .next s else
  match s.portRing port with
  | none => .next s
  | some r =>
    match (s.port port).waiting with
    | us :: rest =>
      match s.place r us with
      | some s => .next (((s.updPort port fun p => { p with waiting := rest }).recredit port r).returnCredits port)
      | none => .next s
    | [] => .next ((s.recredit port r).returnCredits port)

end Sys2Proof.Machine
end

