-- ==== Sys2Proof/Machine/Integer.lean ====
section
/-! DEFINITION. The integer instructions (04 R137, R138). -/

namespace Sys2Proof.Machine

/-- ADDI. -/
def execAddi (d a : XReg) (imm : BitVec 12) (s : State) : Out := s.runX (.addi d a imm) d fun t => t.getX a + sext12 imm
/-- 1 for true, 0 for false. -/
def flagWord (b : Bool) : Word := if b then 1 else 0
/-- SLTI. -/
def execSlti (d a : XReg) (imm : BitVec 12) (s : State) : Out :=
  s.runX (.slti d a imm) d fun t => flagWord ((t.getX a).slt (sext12 imm))
/-- SLTIU. -/
def execSltiu (d a : XReg) (imm : BitVec 12) (s : State) : Out :=
  s.runX (.sltiu d a imm) d fun t => flagWord ((t.getX a).ult (sext12 imm))
/-- XORI. -/
def execXori (d a : XReg) (imm : BitVec 12) (s : State) : Out := s.runX (.xori d a imm) d fun t => t.getX a ^^^ sext12 imm
/-- ORI. -/
def execOri (d a : XReg) (imm : BitVec 12) (s : State) : Out := s.runX (.ori d a imm) d fun t => t.getX a ||| sext12 imm
/-- ANDI. -/
def execAndi (d a : XReg) (imm : BitVec 12) (s : State) : Out := s.runX (.andi d a imm) d fun t => t.getX a &&& sext12 imm
/-- SLLI. -/
def execSlli (d a : XReg) (sh : BitVec 6) (s : State) : Out := s.runX (.slli d a sh) d fun t => t.getX a <<< sh.toNat
/-- SRLI. -/
def execSrli (d a : XReg) (sh : BitVec 6) (s : State) : Out := s.runX (.srli d a sh) d fun t => t.getX a >>> sh.toNat
/-- SRAI. -/
def execSrai (d a : XReg) (sh : BitVec 6) (s : State) : Out :=
  s.runX (.srai d a sh) d fun t => (t.getX a).sshiftRight sh.toNat
/-- CLZ. -/
def execClz (d a : XReg) (s : State) : Out := s.runX (.clz d a) d fun t => w64 (64 - bitLen (t.getX a).toNat)
/-- The index of the lowest one bit, or n where the bits from i on are zero. -/
def trailing (n : Nat) (w : Word) : Nat := ((List.range n).find? w.getLsbD).getD n
/-- CTZ. -/
def execCtz (d a : XReg) (s : State) : Out := s.runX (.ctz d a) d fun t => w64 (trailing 64 (t.getX a))
/-- CPOP. -/
def execCpop (d a : XReg) (s : State) : Out := s.runX (.cpop d a) d fun t => w64 (popcount (t.getX a))
/-- ADD. -/
def execAdd (d a b : XReg) (s : State) : Out := s.runX (.add d a b) d fun t => t.getX a + t.getX b
/-- SUB. -/
def execSub (d a b : XReg) (s : State) : Out := s.runX (.sub d a b) d fun t => t.getX a - t.getX b
/-- The shift amount of a register form: xb[5:0]. -/
def shamt (w : Word) : Nat := (w.extractLsb' 0 6).toNat
/-- SLL. -/
def execSll (d a b : XReg) (s : State) : Out := s.runX (.sll d a b) d fun t => t.getX a <<< shamt (t.getX b)
/-- SLT. -/
def execSlt (d a b : XReg) (s : State) : Out := s.runX (.slt d a b) d fun t => flagWord ((t.getX a).slt (t.getX b))
/-- SLTU. -/
def execSltu (d a b : XReg) (s : State) : Out := s.runX (.sltu d a b) d fun t => flagWord ((t.getX a).ult (t.getX b))
/-- XOR. -/
def execXor (d a b : XReg) (s : State) : Out := s.runX (.xor d a b) d fun t => t.getX a ^^^ t.getX b
/-- SRL. -/
def execSrl (d a b : XReg) (s : State) : Out := s.runX (.srl d a b) d fun t => t.getX a >>> shamt (t.getX b)
/-- SRA. -/
def execSra (d a b : XReg) (s : State) : Out :=
  s.runX (.sra d a b) d fun t => (t.getX a).sshiftRight (shamt (t.getX b))
/-- OR. -/
def execOr (d a b : XReg) (s : State) : Out := s.runX (.or d a b) d fun t => t.getX a ||| t.getX b
/-- AND. -/
def execAnd (d a b : XReg) (s : State) : Out := s.runX (.and d a b) d fun t => t.getX a &&& t.getX b
/-- MUL. -/
def execMul (d a b : XReg) (s : State) : Out := s.runX (.mul d a b) d fun t => t.getX a * t.getX b
/-- Bits 127:64 of an exact product. -/
def highWord (p : Int) : Word := BitVec.ofInt 64 (p.fdiv (2 ^ 64))
/-- MULH. -/
def execMulh (d a b : XReg) (s : State) : Out :=
  s.runX (.mulh d a b) d fun t => highWord ((t.getX a).toInt * (t.getX b).toInt)
/-- MULHSU. -/
def execMulhsu (d a b : XReg) (s : State) : Out :=
  s.runX (.mulhsu d a b) d fun t => highWord ((t.getX a).toInt * ((t.getX b).toNat : Int))
/-- MULHU. -/
def execMulhu (d a b : XReg) (s : State) : Out :=
  s.runX (.mulhu d a b) d fun t => highWord (((t.getX a).toNat * (t.getX b).toNat : Nat) : Int)
/-- The signed quotient, rounded toward zero, with the boundaries of R138. -/
def divWord (x y : Word) : Word := if y = 0 then -1 else BitVec.ofInt 64 (x.toInt.tdiv y.toInt)
/-- The unsigned quotient (R138). -/
def divuWord (x y : Word) : Word := if y = 0 then -1 else w64 (x.toNat / y.toNat)
/-- The signed remainder, with the sign of x (R138). -/
def remWord (x y : Word) : Word := if y = 0 then x else BitVec.ofInt 64 (x.toInt.tmod y.toInt)
/-- The unsigned remainder (R138). -/
def remuWord (x y : Word) : Word := if y = 0 then x else w64 (x.toNat % y.toNat)
/-- DIV (R138). -/
def execDiv (d a b : XReg) (s : State) : Out := s.runX (.div d a b) d fun t => divWord (t.getX a) (t.getX b)
/-- DIVU (R138). -/
def execDivu (d a b : XReg) (s : State) : Out := s.runX (.divu d a b) d fun t => divuWord (t.getX a) (t.getX b)
/-- REM (R138). -/
def execRem (d a b : XReg) (s : State) : Out := s.runX (.rem d a b) d fun t => remWord (t.getX a) (t.getX b)
/-- REMU (R138). -/
def execRemu (d a b : XReg) (s : State) : Out := s.runX (.remu d a b) d fun t => remuWord (t.getX a) (t.getX b)
/-- MIN. -/
def execMin (d a b : XReg) (s : State) : Out :=
  s.runX (.min d a b) d fun t => if (t.getX b).slt (t.getX a) then t.getX b else t.getX a
/-- MINU. -/
def execMinu (d a b : XReg) (s : State) : Out :=
  s.runX (.minu d a b) d fun t => if (t.getX b).ult (t.getX a) then t.getX b else t.getX a
/-- MAX. -/
def execMax (d a b : XReg) (s : State) : Out :=
  s.runX (.max d a b) d fun t => if (t.getX a).slt (t.getX b) then t.getX b else t.getX a
/-- MAXU. -/
def execMaxu (d a b : XReg) (s : State) : Out :=
  s.runX (.maxu d a b) d fun t => if (t.getX a).ult (t.getX b) then t.getX b else t.getX a
/-- LUI. -/
def execLui (d : XReg) (imm : BitVec 20) (s : State) : Out := s.runX (.lui d imm) d fun _ => upper imm
/-- AUIPC: an offset from pcc's base (R58). -/
def execAuipc (d : XReg) (imm : BitVec 20) (s : State) : Out := s.runX (.auipc d imm) d fun t => t.pc + upper imm

end Sys2Proof.Machine
end

