-- ==== Sys2Proof/Machine/Loader.lean ====
section
/-! DEFINITION. The loader: the images and task entries of a load (02 R75, R76, 12 R391). -/

namespace Sys2Proof.Machine

/-! ### What a root admits (R75) -/

/-- The strides of a capability are those of a packed row-major layout, so that it reaches every byte between its lowest and
its highest. -/
def packed (c : Vec) : Bool :=
  !isGroup (cFmt c) && cStr c 0 == 1 && (decide (cRankm1 c < 1) || cStr c 1 == (cExt c 0 : Nat)) &&
    (decide (cRankm1 c < 2) || cStr c 2 == (cExt c 0 * cExt c 1 : Nat)) &&
    (decide (cRankm1 c < 3) || cStr c 3 == (cExt c 0 * cExt c 1 * cExt c 2 : Nat))

/-- The bytes from the address of an element on that belong to it, or to its group (R117). Of a group-scaled image whose axis 0 is no
multiple of 32 the last group counts whole, since groups move whole (R226): R117 and 03 Table 6 do not say, DESIGN CHOICE (log
89). -/
def elemSpan (c : Vec) : Nat := if isGroup (cFmt c) then groupBytes (cFmt c) else sizeOf (cFmt c)

/-- A byte is among those that a capability reaches (R117). -/
def reachesByte (c : Vec) (a : Int) : Bool :=
  (List.range (cCount c)).any fun q =>
    let e := elemAddrInt c (decompose c q)
    decide (e ≤ a) && decide (a < e + (elemSpan c : Nat))

/-- Every byte that an image reaches lies among the bytes that a root reaches. -/
def coversBytes (root img : Vec) : Bool :=
  if packed root then decide (lowByte root ≤ lowByte img) && decide (highByte img ≤ highByte root)
  else (List.range (cCount img)).all fun q => (List.range (elemSpan img)).all fun (b : Nat) =>
    reachesByte root (elemAddrInt img (decompose img q) + (b : Int))

/-- A wrapping key reaches no memory: it holds SEAL or UNSEAL and nothing else. -/
def isKey (c : Vec) : Bool := keyForm c && cPrm c != 0 && cPrm c &&& ~~~(pSeal ||| pUnseal) == 0

/-- The range of object types of an image lies within a root's. -/
def coversTypes (root img : Vec) : Bool :=
  isKey root && decide (cBase root ≤ cBase img) && decide (cBase img + cExt img 0 ≤ cBase root + cExt root 0)

/-- A wrapping key with SEAL among those supplied covers an object type (R130). Whether one whose range reaches 0xFFF0 to 0xFFFF
lets an image bear a type of the part's own, R75 does not say, and R130 and R394 speak of wrapping alone: the model takes R75's
words as they stand, DESIGN CHOICE (log 70). -/
def typeCovered (roots : List Vec) (t : BitVec 16) : Bool :=
  roots.any fun r => keyForm r && cOty r == 0 && grants r pSeal && decide (cBase r ≤ t.toNat) && decide (t.toNat < cBase r + cExt r 0)

/-- A root that the submitter gives admits an image. -/
def rootAdmits (roots : List Vec) (img root : Vec) : Bool :=
  cOty root == 0 && (if isKey img then coversTypes root img else coversBytes root img) &&
  cPrm img &&& ~~~(cPrm root) == 0 && decide ((cScp img).toNat ≤ (cScp root).toNat) &&
  (cScp root == 2 || cOwn img == cOwn root) && (cOty img == 0 || typeCovered roots (cOty img))

/-! ### Segments and relocations (R70, R77) -/

/-- The permissions of a section's segment (02 Table 16). -/
def sectionPerm : SectionKind → BitVec 16
  | .text => pExe ||| pLd
  | .rodata => pLd
  | .data => pLd ||| pSt
  | .bss => pLd ||| pSt
  | .caps => pLd ||| pLdc

/-- The permissions of the root of a segment: its section's (R70), and INVOKE where the submitter gives it for .text (R76). An image of a
cell in .data needs a further root with KCTR, which the submitter gives (R75; log 83). -/
def segPerm (g : Segment) : BitVec 16 :=
  sectionPerm g.kind ||| (if g.kind = .text ∧ g.invoke then pInvoke else 0)

/-- The bytes that the root of a segment reaches: its bytes, however many, or its words for .text (R75). -/
def segReach (g : Segment) : Nat := match g.kind with
  | .text => g.bytes / 4 * 4
  | _ => g.bytes

/-- The root of a segment, of scope TENANT, admits an image (R75). -/
def segAdmits (roots : List Vec) (img : Vec) (g : Segment) : Bool :=
  !isKey img && decide ((g.base : Int) ≤ lowByte img) && decide (highByte img < ((g.base + segReach g : Nat) : Int)) &&
  cPrm img &&& ~~~(segPerm g) == 0 && (cOty img == 0 || typeCovered roots (cOty img))

/-- The .text segment of a load. -/
def textOf (r : LoadRequest) : Segment := (r.segments.find? (·.kind == .text)).getD { kind := .text, base := 0, bytes := 0 }

/-- The size of .text in words (R76). -/
def wordsOf (r : LoadRequest) : Nat := (textOf r).bytes / 4

/-- An image with its JQ_CAPBASE resolved: the symbol's device virtual address plus the addend in bytes 0 to 7; a result outside
them is refused (R77), with CAP_FORMAT: DESIGN CHOICE (log 53). -/
def resolve (r : LoadRequest) (x : LoadImage) : Raises (Nat × Vec) := do
  match x.target with
  | none => .ok (x.place, x.img)
  | some (seg, off, addend) =>
    let v : Int := (((r.segments[seg]?).map (·.base)).getD 0 + off : Nat) + addend
    need (decide (seg < r.segments.length) && decide (0 ≤ v) && decide (v < (2 ^ 64 : Nat))) cFormat
    .ok (x.place, putBits x.img 0 (BitVec.ofInt 64 v))

/-- An image that reaches the storage of an adapter slot, which no capability but the slot's claim may reach (R408). -/
def State.reachesStorage (s : State) (t : Nat) (img : Vec) : Bool :=
  !isKey img && s.inStorage t 8192 (lowByte img).toNat ((highByte img).toNat + 1)

/-- The check of one image: CAP_FORMAT, or CAP_WIDEN where neither the root of a segment nor a further one admits it (R75). -/
def admitImage (segments : List Segment) (roots : List Vec) (img : Vec) : Raises Unit := do
  need (wellFormedImg img) cFormat
  need (segments.any (segAdmits roots img) || roots.any (rootAdmits roots img)) cWiden

/-! ### Task entries (R76) -/

/-- CODE of a task entry. -/
def codeOf (g : Segment) (words : Nat) (comp : BitVec 16) : Vec :=
  mkCap fInt32 g.base words (pExe ||| pLd ||| (segPerm g &&& pInvoke)) 0 comp 2

/-- The task entry of a `.task`: R76 names BLK, as 0 (R392). -/
def loadEntry (r : LoadRequest) (t : LoadTask) : TaskEntry :=
  { codetag := true, code := codeOf (textOf r) (wordsOf r) t.comp, v := true, blk := false, prio := t.prio
    tenant := BitVec.ofNat 10 r.tenant, comp := t.comp, entry := BitVec.ofNat 34 t.entry }

/-- A task entry rewritten by a device OS call, unless that would break R391: it keeps the BLK that the latest TBLK or TUBLK left,
unless the call names BLK (R392). -/
def State.taskWrite (s : State) (k : Nat) (index : BitVec 6) (e : TaskEntry) (namesBlk : Bool) : State :=
  let e := if namesBlk then e else { e with blk := (s.task k index).blk }
  if k < Config.cores ∧ s.taskValid k e then s.updCore k fun c => { c with tasks := Table.set c.tasks index.toNat e } else s

/-- A task entry written on a placed core: one that would break R391 fails the load. -/
def State.loadTask (s : State) (r : LoadRequest) (k : Nat) (t : LoadTask) : Raises State := do
  let e := loadEntry r t
  need (decide (t.entry < 2 ^ 34) && decide (k < Config.cores) && s.taskValid k e) cTaskDenied
  .ok (s.updCore k fun c => { c with tasks := Table.set c.tasks t.index.toNat e })

/-- An image written with its tag where it lies; the loader needs no permission of the page. The spec names no status for a place
that is not aligned to 64 bytes or has no translation: CAP_FORMAT, and the cause of the translation, are the model's DESIGN
CHOICE (log 69). -/
def State.loadImage (s : State) (r : LoadRequest) (x : Nat × Vec) : Raises State := do
  need (x.1 % 64 == 0) cFormat
  let p ← s.placeOf r.tenant x.1 {} false x.1
  s.writeGranule r.tenant x.1 p x.2 true

/-- A load checked as a whole: the images in the order of the list, then the code capabilities, the task entries and the places of
the images. The spec gives no order among several faults of one load: DESIGN CHOICE (log 68). Nor does it say which of two `.task`
directives with one number stands: the later in the list, DESIGN CHOICE (log 84). An image that reaches an adapter slot's storage is
refused with CAP_WIDEN: R408 names no status, DESIGN CHOICE (log 92). -/
def State.load75 (s : State) (r : LoadRequest) : Raises State := do
  let images ← r.images.mapM (resolve r)
  let _ ← images.mapM fun x => do
    admitImage r.segments r.roots x.2
    need (!s.reachesStorage r.tenant x.2) cWiden
  need (r.tasks.isEmpty || decide (wordsOf r < 2 ^ 32)) cFormat
  let codes := r.tasks.map fun t => codeOf (textOf r) (wordsOf r) t.comp
  let _ ← codes.mapM fun c => admitImage [textOf r] [] c
  let s ← r.cores.foldlM (fun s k => r.tasks.foldlM (fun s t => s.loadTask r k t) s) s
  images.foldlM (fun s x => s.loadImage r x) s

/-- PROGRAM_LOAD: the images are tagged and the task entries written, or the whole load is refused with its status (R75,
R76); so with XLATE_PERM where an image lies in a locked core, which the service pair may not write (R399). That this is found before
any other fault of the load is a DESIGN CHOICE (logs 68 and 69). -/
def execProgramLoad (req : LoadRequest) (s : State) : Out :=
  if let some (k, va) := s.firstLocked (req.images.map (·.place)) then
    .next { s.logLocked k va with answer := .loaded cXperm }
  else s.event ((s.tenant req.tenant).v && !s.service.stopped && !(req.images.any fun x => s.heldAt req.tenant x.place)) fun s =>
    match s.load75 req with
    | .ok s => { s with answer := .loaded 0 }
    | .error f => { s with answer := .loaded f.cause }

end Sys2Proof.Machine
end

