-- ==== Sys2Proof/Machine/Mailbox.lean ====
section
/-! DEFINITION. The host mailbox of a function: its doorbells, the messages of the host, and the queue of those held for it
(14 R448, R449). -/

namespace Sys2Proof.Machine

/-- What an incoming message is (14 Table 4). -/
inductive Incoming where
  | mediated (seq : BitVec 16) (value : Word) | answer (number handle io : Nat) | ignored (seq : BitVec 16) (type : Nat)
  deriving DecidableEq, Repr

/-- A message read as 14 Table 4 gives: an unknown TYPE, a reserved byte that is not zero and a malformed call are ignored. -/
def incoming (m : List Byte) : Incoming :=
  let seq := BitVec.ofNat 16 (field m 2 2)
  let type := field m 0 1
  let tail := zeroBytes m 24 40 && zeroBytes m 1 1
  if type = 0x81 ∧ tail ∧ zeroBytes m 4 12 then .mediated seq (w64 (field m 16 8))
  else if type = 0x82 ∧ tail ∧ zeroBytes m 5 3 ∧ zeroBytes m 12 4 ∧ (field m 4 1 = 3 ∨ field m 4 1 = 4) then
    .answer (field m 4 1) (field m 8 4) (field m 16 8)
  else .ignored seq type

/-- The message at MIHEAD, when the part reads the ring and there is one (R449, R452). -/
def State.headMessage (s : State) (fn : Nat) : Option Incoming :=
  let f := s.fn fn
  match ringLog f.mibase with
  | some l =>
    if s.readsRings fn && f.mitail != f.mihead then
      some (incoming (memRead s.mem (hostPlace fn (ringBase f.mibase + 64 * (f.mihead.toNat % 2 ^ l))) 64))
    else none
  | none => none

/-- The message at MIHEAD is consumed. -/
def State.consume (s : State) (fn : Nat) : State := s.updFn fn fun f => { f with mihead := f.mihead + 1 }

/-- Leading messages that are ignored are consumed and logged (R449): one for each unit of fuel. -/
def State.dropIgnored (s : State) (fn : Nat) : Nat → State
  | 0 => s
  | fuel + 1 =>
    match s.headMessage fn with
    | some (.ignored seq type) =>
      let s := (s.consume fn).updFn fn fun f => { f with ignored := f.ignored + 1 }
      (s.logAt 0x09 0xFF 0 (some fn) (seq.setWidth 64) (w64 type)).dropIgnored fn fuel
    | _ => s

/-- The message at MIHEAD is consumed with the ignored ones that follow it. -/
def State.nextMessage (s : State) (fn : Nat) : State := (s.consume fn).dropIgnored fn 65536

/-- MAILBOX_DOORBELL (R448, R449, R450): a discarded one sets QERR. -/
def execMailboxDoorbell (fn : OfTlp Nat) (tail : BitVec 16) (s : State) : Out :=
  let f := s.fn fn.val
  if f.dropsWrite fn.ide then .next s
  else
    let ok := s.isReady fn.val && f.tdi != .locked && (match ringLog f.mibase with
      | some l => decide ((tail - f.mihead).toNat ≤ 2 ^ l)
      | none => false)
    if ok then .next ((s.updFn fn.val fun f => { f with mitail := tail }).dropIgnored fn.val 65536)
    else .next (s.updFn fn.val fun f => { f with qerr := true })

/-- MEDIATED_COMPLETION: host software has performed a mediated operation, which is then accepted (R287, R449). -/
def execMediatedCompletion (fn : Nat) (s : State) : Out :=
  match s.headMessage fn with
  | some (.mediated seq v) =>
    let s := s.nextMessage fn
    let found := s.hostOps.find? fun o => o.tenant == fn && o.gen == s.gen fn && (match o.req with
      | .mediated n _ => n == seq
      | _ => false)
    match found with
    | none => .next s
    | some o =>
      let s := s.dropHostOp o.id
      match o.req with
      | .mediated _ (.add a) => .next (s.opApplied (o.toCtr (.add a)) (v + a))
      | .mediated _ (.max c) => .next (s.opApplied (o.toCtr (.max c)) (if v < c then c else v))
      | .mediated _ (.wait _ bm) =>
        match s.heldOf bm with
        | some h => .next (s.farDone h v {} 0)
        | none => .next s
      | _ => .next s
  | _ => .next s

/-- FAULT_REPORT_ANSWER: the host's BMRESUME or BMDROP of a reported fault, with its block in host memory (R426, R428). -/
def execFaultReportAnswer (fn : Nat) (s : State) : Out :=
  match s.headMessage fn with
  | some (.answer number handle io) =>
    let block := memRead s.mem (hostPlace fn io) 320
    match s.bmCall number fn handle none false block with
    | .waits => .next s
    | .done s status _ => .next ((s.pokeHost fn (io + 16) (natBytes 8 status)).nextMessage fn)
  | _ => .next s

/-- MOHEAD_WRITE: the host has consumed messages, and held ones are written (R449). -/
def execMoheadWrite (fn : OfTlp Nat) (head : BitVec 16) (s : State) : Out :=
  s.event (!(s.fn fn.val).dropsWrite fn.ide) fun s =>
    let s := s.updFn fn.val fun f => { f with mohead := head }
    s.pump fn.val (s.fn fn.val).outbox.length

/-- QERR_CLEAR: a write of 1 clears QERR (R445). -/
def execQerrClear (fn : OfTlp Nat) (s : State) : Out :=
  s.event (!(s.fn fn.val).dropsWrite fn.ide) fun s => s.updFn fn.val fun f => { f with qerr := false }

end Sys2Proof.Machine
end

