-- ==== Sys2Proof/Machine/VecInt.lean ====
section
/-! DEFINITION. The integer vector instructions and the predicate instructions (05 R154 to R170, R176, R184). -/

namespace Sys2Proof.Machine

/-! ### Lanes (R155 to R159) -/

/-- A vector result: element i of width w is f i in an active lane and keeps its value in another; the lanes above n
are zero (R158, R159). `W` is the width that governs. -/
def mergeLanes (t : Strand) (pg : PReg) (W w : Nat) (old : Vec) (f : Nat → Nat) : Vec :=
  ofElems w ((List.range (512 / W)).map fun i => if laneActive t pg W i then f i else elemAt w old i)

/-- A predicate with bit (W/8)·i set where g i holds, and every other bit clear (R156). -/
def lanesPred (W : Nat) (g : Nat → Bool) : Word :=
  (List.range (512 / W)).foldl (fun acc i => if g i then putBit acc (W / 8 * i) true else acc) 0

/-- A predicate result: clear in inactive lanes (R159). -/
def comparePred (t : Strand) (pg : PReg) (W : Nat) (g : Nat → Bool) : Word :=
  lanesPred W fun i => laneActive t pg W i && g i

/-- Element-wise integer operation on va and vb (R164). -/
def State.vecBin (s : State) (i : Instr) (et : IntEt) (d a b : VReg) (pg : PReg) (f : Int → Int → Int) : Out :=
  s.runVec i [a, b] [d] noPrefix fun t =>
    let w := etBits et
    let r := mergeLanes t pg w w (t.getV d) fun j =>
      wrapInt w (f (etVal et (elemAt w (t.getV a) j)) (etVal et (elemAt w (t.getV b) j)))
    .ok fun u => u.setV d r

/-- Element-wise integer comparison into a predicate (R164). -/
def State.vecCmp (s : State) (i : Instr) (et : IntEt) (d : PReg) (a b : VReg) (pg : PReg) (g : Int → Int → Bool) : Out :=
  s.runVec i [a, b] [] noPrefix fun t =>
    let w := etBits et
    let r := comparePred t pg w fun j => g (etVal et (elemAt w (t.getV a) j)) (etVal et (elemAt w (t.getV b) j))
    .ok fun u => u.setP d r

/-! ### Element-wise operations (R164) -/

/-- VADD. -/
def execVadd (et : IntEt) (d a b : VReg) (pg : PReg) (s : State) : Out :=
  s.vecBin (.vadd et d a b pg) et d a b pg (· + ·)
/-- VSUB. -/
def execVsub (et : IntEt) (d a b : VReg) (pg : PReg) (s : State) : Out :=
  s.vecBin (.vsub et d a b pg) et d a b pg (· - ·)
/-- VMUL. -/
def execVmul (et : IntEt) (d a b : VReg) (pg : PReg) (s : State) : Out :=
  s.vecBin (.vmul et d a b pg) et d a b pg (· * ·)
/-- VMULH: bits 2w-1 to w of the product. -/
def execVmulh (et : IntEt) (d a b : VReg) (pg : PReg) (s : State) : Out :=
  s.vecBin (.vmulh et d a b pg) et d a b pg fun x y => (x * y).fdiv (2 ^ etBits et : Nat)
/-- VMIN. -/
def execVmin (et : IntEt) (d a b : VReg) (pg : PReg) (s : State) : Out :=
  s.vecBin (.vmin et d a b pg) et d a b pg fun x y => if x < y then x else y
/-- VMAX. -/
def execVmax (et : IntEt) (d a b : VReg) (pg : PReg) (s : State) : Out :=
  s.vecBin (.vmax et d a b pg) et d a b pg fun x y => if x < y then y else x
/-- Element-wise bitwise operation: et sets only the width. -/
def State.vecBit (s : State) (i : Instr) (et : IntEt) (d a b : VReg) (pg : PReg) (f : Nat → Nat → Nat) : Out :=
  s.runVec i [a, b] [d] noPrefix fun t =>
    let w := etBits et
    let r := mergeLanes t pg w w (t.getV d) fun j => f (elemAt w (t.getV a) j) (elemAt w (t.getV b) j)
    .ok fun u => u.setV d r
/-- VAND. -/
def execVand (et : IntEt) (d a b : VReg) (pg : PReg) (s : State) : Out :=
  s.vecBit (.vand et d a b pg) et d a b pg (· &&& ·)
/-- VOR. -/
def execVor (et : IntEt) (d a b : VReg) (pg : PReg) (s : State) : Out :=
  s.vecBit (.vor et d a b pg) et d a b pg (· ||| ·)
/-- VXOR. -/
def execVxor (et : IntEt) (d a b : VReg) (pg : PReg) (s : State) : Out :=
  s.vecBit (.vxor et d a b pg) et d a b pg (· ^^^ ·)
/-- VSLL: the amount is b mod w, read as unsigned. -/
def execVsll (et : IntEt) (d a b : VReg) (pg : PReg) (s : State) : Out :=
  s.vecBin (.vsll et d a b pg) et d a b pg fun x y => x * (2 ^ (wrapInt (etBits et) y % etBits et) : Nat)
/-- VSR: sign fill for .sN, zero fill for .zN. -/
def execVsr (et : IntEt) (d a b : VReg) (pg : PReg) (s : State) : Out :=
  s.vecBin (.vsr et d a b pg) et d a b pg fun x y => x.fdiv (2 ^ (wrapInt (etBits et) y % etBits et) : Nat)
/-- VABS. -/
def execVabs (et : IntEt) (d a : VReg) (pg : PReg) (s : State) : Out :=
  s.vecBin (.vabs et d a pg) et d a a pg fun x _ => if x < 0 then -x else x
/-- VCEQ. -/
def execVceq (et : IntEt) (d : PReg) (a b : VReg) (pg : PReg) (s : State) : Out :=
  s.vecCmp (.vceq et d a b pg) et d a b pg fun x y => decide (x = y)
/-- VCLT. -/
def execVclt (et : IntEt) (d : PReg) (a b : VReg) (pg : PReg) (s : State) : Out :=
  s.vecCmp (.vclt et d a b pg) et d a b pg fun x y => decide (x < y)
/-- VCLE. -/
def execVcle (et : IntEt) (d : PReg) (a b : VReg) (pg : PReg) (s : State) : Out :=
  s.vecCmp (.vcle et d a b pg) et d a b pg fun x y => decide (x ≤ y)
/-- VCNE. -/
def execVcne (et : IntEt) (d : PReg) (a b : VReg) (pg : PReg) (s : State) : Out :=
  s.vecCmp (.vcne et d a b pg) et d a b pg fun x y => decide (x ≠ y)

/-! ### Selecting and moving elements (R165 to R168) -/

/-- VSEL: pg names the selecting predicate, and no lane is inactive (R165). -/
def execVsel (et : IntEt) (d a b : VReg) (pg : PReg) (s : State) : Out :=
  s.runVec (.vsel et d a b pg) [a, b] [d] noPrefix fun t =>
    let w := etBits et
    let r := ofElems w ((List.range (512 / w)).map fun i =>
      if (t.getP pg).getLsbD (w / 8 * i) then elemAt w (t.getV a) i else elemAt w (t.getV b) i)
    .ok fun u => u.setV d r
/-- VPERM (R166). -/
def execVperm (et : IntEt) (d a b : VReg) (pg : PReg) (s : State) : Out :=
  s.runVec (.vperm et d a b pg) [a, b] [d] noPrefix fun t =>
    let w := etBits et
    let r := mergeLanes t pg w w (t.getV d) fun i =>
      let j := elemAt w (t.getV b) i
      if j < 512 / w then elemAt w (t.getV a) j else 0
    .ok fun u => u.setV d r
/-- VBCAST (R167). -/
def execVbcast (et : IntEt) (d : VReg) (a : XReg) (pg : PReg) (s : State) : Out :=
  s.runVec (.vbcast et d a pg) [] [d] noPrefix fun t =>
    let w := etBits et
    let r := mergeLanes t pg w w (t.getV d) fun _ => (t.getX a).toNat % 2 ^ w
    .ok fun u => u.setV d r
/-- VEXT (R168). -/
def execVext (et : IntEt) (d : XReg) (a : VReg) (b : XReg) (s : State) : Out :=
  s.runVec (.vext et d a b) [a] [] noPrefix fun t =>
    let w := etBits et
    let j := (t.getX b).toNat
    let r : Word := if 512 / w ≤ j then 0 else BitVec.ofInt 64 (etVal et (elemAt w (t.getV a) j))
    .ok fun u => u.setX d r

/-! ### Carry chains (R169, R170) -/

/-- VADC (R169). -/
def execVadc (et : IntEt) (d a b : VReg) (pg : PReg) (s : State) : Out :=
  s.runVec (.vadc et d a b pg) [a, b] [d] noPrefix fun t =>
    let w := etBits et
    let sum (i : Nat) : Nat :=
      elemAt w (t.getV a) i + elemAt w (t.getV b) i + ((t.getP pg).getLsbD (w / 8 * i)).toNat
    let r := ofElems w ((List.range (512 / w)).map fun i => sum i % 2 ^ w)
    let c := lanesPred w fun i => decide (2 ^ w ≤ sum i)
    .ok fun u => (u.setV d r).setP pg c
/-- VSBC (R169). -/
def execVsbc (et : IntEt) (d a b : VReg) (pg : PReg) (s : State) : Out :=
  s.runVec (.vsbc et d a b pg) [a, b] [d] noPrefix fun t =>
    let w := etBits et
    let dif (i : Nat) : Nat :=
      2 ^ w + elemAt w (t.getV a) i - elemAt w (t.getV b) i - ((t.getP pg).getLsbD (w / 8 * i)).toNat
    let r := ofElems w ((List.range (512 / w)).map fun i => dif i % 2 ^ w)
    let c := lanesPred w fun i => decide (dif i < 2 ^ w)
    .ok fun u => (u.setV d r).setP pg c
/-- VMULADC: the high halves go to v[(vd + 1) mod 32] (R170). -/
def execVmuladc (et : IntEt) (d a b : VReg) (pg : PReg) (s : State) : Out :=
  let h : VReg := d + 1
  s.runVec (.vmuladc et d a b pg) [a, b] [d, h] noPrefix fun t =>
    let w := etBits et
    let sum (i : Nat) : Nat :=
      elemAt w (t.getV a) i * elemAt w (t.getV b) i + elemAt w (t.getV d) i + elemAt w (t.getV h) i +
        ((t.getP pg).getLsbD (w / 8 * i)).toNat
    let lo := ofElems w ((List.range (512 / w)).map fun i => sum i % 2 ^ w)
    let hi := ofElems w ((List.range (512 / w)).map fun i => sum i / 2 ^ w % 2 ^ w)
    let c := lanesPred w fun i => decide (2 ^ (2 * w) ≤ sum i)
    .ok fun u => ((u.setV d lo).setV h hi).setP pg c

/-! ### Integer reductions (R176) -/

/-- The active elements of va, by lane. -/
def activeLanes (t : Strand) (et : IntEt) (a : VReg) (pg : PReg) : List (Option Int) :=
  (List.range (512 / etBits et)).map fun i =>
    if laneActive t pg (etBits et) i then some (etVal et (elemAt (etBits et) (t.getV a) i)) else none

/-- The levels of the tree over n lanes, n a power of two. -/
def treeDepth (n : Nat) : Nat := Nat.log2 n

/-- A reduction: the root modulo 2^64 in bits 63:0, zero above; the identity when no lane is active (R108, R176). -/
def State.vecReduce (s : State) (i : Instr) (et : IntEt) (d a : VReg) (pg : PReg) (ident : Int) (op : Int → Int → Int) :
    Out :=
  s.runVec i [a] [d] noPrefix fun t =>
    let l := activeLanes t et a pg
    let r := (treeRoot op (treeDepth l.length) l).getD ident
    .ok fun u => u.setV d ((BitVec.ofInt 64 r).setWidth 512)
/-- VRADD. -/
def execVradd (et : IntEt) (d a : VReg) (pg : PReg) (s : State) : Out :=
  s.vecReduce (.vradd et d a pg) et d a pg 0 (· + ·)
/-- VRMIN. -/
def execVrmin (et : IntEt) (d a : VReg) (pg : PReg) (s : State) : Out :=
  let w := etBits et
  let ident : Int := if etSigned et then (2 ^ (w - 1) : Nat) - 1 else (2 ^ w : Nat) - 1
  s.vecReduce (.vrmin et d a pg) et d a pg ident fun x y => if x < y then x else y
/-- VRMAX. -/
def execVrmax (et : IntEt) (d a : VReg) (pg : PReg) (s : State) : Out :=
  let w := etBits et
  let ident : Int := if etSigned et then -((2 ^ (w - 1) : Nat) : Int) else 0
  s.vecReduce (.vrmax et d a pg) et d a pg ident fun x y => if x < y then y else x

/-! ### Predicate instructions (R184) -/

/-- An operation on two predicates. -/
def State.predBin (s : State) (i : Instr) (d a b : PReg) (f : Word → Word → Word) : Out :=
  s.runReg i fun t => .ok (t.setP d (f (t.getP a) (t.getP b)))
/-- PAND. -/
def execPand (d a b : PReg) (s : State) : Out := s.predBin (.pand d a b) d a b (· &&& ·)
/-- POR. -/
def execPor (d a b : PReg) (s : State) : Out := s.predBin (.por d a b) d a b (· ||| ·)
/-- PXOR. -/
def execPxor (d a b : PReg) (s : State) : Out := s.predBin (.pxor d a b) d a b (· ^^^ ·)
/-- PANDN. -/
def execPandn (d a b : PReg) (s : State) : Out := s.predBin (.pandn d a b) d a b fun x y => x &&& ~~~y
/-- PNOT. -/
def execPnot (d a : PReg) (s : State) : Out := s.predBin (.pnot d a) d a a fun x _ => ~~~x
/-- PFROMX. -/
def execPfromx (d : PReg) (a : XReg) (s : State) : Out :=
  s.runReg (.pfromx d a) fun t => .ok (t.setP d (t.getX a))
/-- PTOX. -/
def execPtox (d : XReg) (a : PReg) (s : State) : Out := s.runX (.ptox d a) d fun t => t.getP a
/-- PCNT. -/
def execPcnt (d : XReg) (a : PReg) (s : State) : Out := s.runX (.pcnt d a) d fun t => w64 (popcount (t.getP a))

end Sys2Proof.Machine
end

