-- ==== Sys2Proof/Machine/VecFp.lean ====
section
/-! DEFINITION. The floating-point vector instructions, conversions and quantisation (05 R171 to R183). -/

namespace Sys2Proof.Machine

/-! ### Formats and prefixes (R158, R182, R183) -/

/-- The width of an element-format code in bits (R78). -/
def fmtBits (f : Nat) : Nat := 8 * sizeOf f

/-- The effective format: the override where there is one (R183). -/
def effFmt (o dflt : Nat) : Nat := if o = 31 then dflt else o

/-- A format field of a prefix lies in the set lo to hi, or inherits. -/
def fieldIn (lo hi f : Nat) : Bool := f == 31 || (decide (lo ≤ f) && decide (f ≤ hi))

/-- A scale format field: E4M3 or E8M0 (05 Table 9). -/
def fieldScale (f : Nat) : Bool := f == 31 || f == 9 || f == 16

/-- Only "inherit" in rm and sat. -/
def modesNone (o : Overrides) : Bool := o.rm == 0 && o.sat == 0

/-- VFADD to VFNMA. -/
def acceptArith (o : Overrides) : Bool := fieldIn 6 10 o.fa && fieldIn 6 10 o.fb && fieldIn 6 8 o.fd
/-- VFCEQ, VFCLT, VFCLE. -/
def acceptCompare (o : Overrides) : Bool := fieldIn 6 10 o.fa && fieldIn 6 10 o.fb && o.fd == 31 && modesNone o
/-- A prefix that overrides nothing. -/
def acceptNone (o : Overrides) : Bool := o.fa == 31 && o.fb == 31 && o.fd == 31 && modesNone o
/-- VEXP2 to VLOG2 and VFRSUM. -/
def acceptSpecial (o : Overrides) : Bool := o.fa == 31 && o.fb == 31 && fieldIn 6 8 o.fd
/-- VCVT of MSUB. -/
def acceptCvtFp (o : Overrides) : Bool := o.fa == 31 && o.fb == 31 && fieldIn 1 10 o.fd
/-- VCVT of MADD. -/
def acceptCvtInt (o : Overrides) : Bool := o.fa == 31 && o.fb == 31 && fieldIn 6 10 o.fd
/-- VQUANT. -/
def acceptQuant (o : Overrides) : Bool := o.fa == 31 && fieldScale o.fb && fieldIn 9 13 o.fd
/-- VDEQ. -/
def acceptDeq (o : Overrides) : Bool := fieldIn 9 13 o.fa && fieldScale o.fb && o.fd == 31

/-- The format of a floating-point code; FP32 for a code that is none. -/
def ffmtOf (f : Nat) : FFmt := (ffmt f).getD fp32

/-- The value of element i of a vector in a format. -/
def fpElem (f : Nat) (v : Vec) (i : Nat) : FVal := decodeFp (ffmtOf f) (elemAt (fmtBits f) v i)

/-- The greatest of three widths. -/
def maxNat (a b c : Nat) : Nat := Nat.max a (Nat.max b c)

/-- A vector result with flags: the results of the active lanes and the flags they raise (R97, R159). -/
def mergeFlags (t : Strand) (pg : PReg) (W w : Nat) (old : Vec) (f : Nat → Nat × Flags) : Vec × Flags :=
  let rs := (List.range (512 / W)).map fun i => if laneActive t pg W i then f i else (elemAt w old i, 0)
  (ofElems w (rs.map (·.1)), rs.foldl (fun acc r => acc ||| r.2) 0)

/-- The write of a vector register and of STATUS.FLAGS as one change (R161). -/
def writeVF (d : VReg) (r : Vec × Flags) (u : Strand) : Strand :=
  { (u.setV d r.1) with status := orFlags u.status r.2 }

/-! ### Arithmetic and comparison (R171 to R173) -/

/-- An arithmetic form: an exact result of the values of va, vb and the old vd, rounded once (R171). -/
def State.fpArith (s : State) (i : Instr) (et : FpEt) (d a b : VReg) (pg : PReg)
    (f : Mode → FVal → FVal → FVal → FVal × Flags) : Out :=
  s.runVec i [a, b] [d] acceptArith fun t =>
    let o := overrides t.status
    let fa := effFmt o.fa (fpFmt et)
    let fb := effFmt o.fb (fpFmt et)
    let fd := effFmt o.fd (fpFmt et)
    let W := maxNat (fmtBits fa) (fmtBits fb) (fmtBits fd)
    let mode := effMode t.status
    let r := mergeFlags t pg W (fmtBits fd) (t.getV d) fun i =>
      let x := f mode (fpElem fa (t.getV a) i) (fpElem fb (t.getV b) i) (fpElem fd (t.getV d) i)
      let w := writeFp (ffmtOf fd) mode (effSat t.status) x.1
      (w.1, x.2 ||| w.2)
    .ok (writeVF d r)

/-- VFADD. -/
def execVfadd (et : FpEt) (d a b : VReg) (pg : PReg) (s : State) : Out :=
  s.fpArith (.vfadd et d a b pg) et d a b pg fun m x y _ => addVal m x y
/-- VFSUB. -/
def execVfsub (et : FpEt) (d a b : VReg) (pg : PReg) (s : State) : Out :=
  s.fpArith (.vfsub et d a b pg) et d a b pg fun m x y _ => addVal m x (negVal y)
/-- VFMUL. -/
def execVfmul (et : FpEt) (d a b : VReg) (pg : PReg) (s : State) : Out :=
  s.fpArith (.vfmul et d a b pg) et d a b pg fun _ x y _ => mulVal x y
/-- VFMA. -/
def execVfma (et : FpEt) (d a b : VReg) (pg : PReg) (s : State) : Out :=
  s.fpArith (.vfma et d a b pg) et d a b pg fun m x y z => fmaVal m x y z
/-- VFNMA. -/
def execVfnma (et : FpEt) (d a b : VReg) (pg : PReg) (s : State) : Out :=
  s.fpArith (.vfnma et d a b pg) et d a b pg fun m x y z => fmaVal m (negVal x) y z

/-- A form that selects or changes the sign and never rounds: it accepts only the prefix that overrides nothing (R173,
R182). -/
def State.fpSelect (s : State) (i : Instr) (et : FpEt) (d a b : VReg) (pg : PReg) (f : FFmt → Nat → Nat → Nat) : Out :=
  s.runVec i [a, b] [d] acceptNone fun t =>
    let w := fmtBits (fpFmt et)
    let r := mergeLanes t pg w w (t.getV d) fun i => f (ffmtOf (fpFmt et)) (elemAt w (t.getV a) i) (elemAt w (t.getV b) i)
    .ok fun u => u.setV d r
/-- VFMIN. -/
def execVfmin (et : FpEt) (d a b : VReg) (pg : PReg) (s : State) : Out :=
  s.fpSelect (.vfmin et d a b pg) et d a b pg fun f x y => selectFp f false x y
/-- VFMAX. -/
def execVfmax (et : FpEt) (d a b : VReg) (pg : PReg) (s : State) : Out :=
  s.fpSelect (.vfmax et d a b pg) et d a b pg fun f x y => selectFp f true x y
/-- VFABS: the sign bit cleared; a NaN becomes the canonical NaN (R173). -/
def execVfabs (et : FpEt) (d a : VReg) (pg : PReg) (s : State) : Out :=
  s.fpSelect (.vfabs et d a pg) et d a a pg fun f x _ =>
    if isNan (decodeFp f x) then f.nan else x % 2 ^ (f.ew + f.mw)
/-- VFNEG: the sign bit inverted; a NaN becomes the canonical NaN (R173). -/
def execVfneg (et : FpEt) (d a : VReg) (pg : PReg) (s : State) : Out :=
  s.fpSelect (.vfneg et d a pg) et d a a pg fun f x _ =>
    if isNan (decodeFp f x) then f.nan else x ^^^ 2 ^ (f.ew + f.mw)

/-- A floating-point comparison into a predicate (R85, R171). -/
def State.fpCmp (s : State) (i : Instr) (et : FpEt) (d : PReg) (a b : VReg) (pg : PReg) (g : FVal → FVal → Bool) : Out :=
  s.runVec i [a, b] [] acceptCompare fun t =>
    let o := overrides t.status
    let fa := effFmt o.fa (fpFmt et)
    let fb := effFmt o.fb (fpFmt et)
    let r := comparePred t pg (Nat.max (fmtBits fa) (fmtBits fb)) fun i =>
      g (fpElem fa (t.getV a) i) (fpElem fb (t.getV b) i)
    .ok fun u => u.setP d r
/-- VFCEQ. -/
def execVfceq (et : FpEt) (d : PReg) (a b : VReg) (pg : PReg) (s : State) : Out :=
  s.fpCmp (.vfceq et d a b pg) et d a b pg eqVal
/-- VFCLT. -/
def execVfclt (et : FpEt) (d : PReg) (a b : VReg) (pg : PReg) (s : State) : Out :=
  s.fpCmp (.vfclt et d a b pg) et d a b pg ltVal
/-- VFCLE. -/
def execVfcle (et : FpEt) (d : PReg) (a b : VReg) (pg : PReg) (s : State) : Out :=
  s.fpCmp (.vfcle et d a b pg) et d a b pg fun x y => ltVal x y || eqVal x y

/-! ### Special functions (R174, R175)

The functions are evaluated to 320 fraction bits, far beyond the place where a result of at most 24 bits is decided, and
rounded once; a result that R174 lists as exact is formed exactly (log 11). -/

/-- The fraction bits of the evaluation. -/
def fxBits : Nat := 320

/-- ln 2 in units of 2^-320, as the sum of 1 / (k 2^k). -/
def ln2Fx : Nat := (List.range 340).foldl (fun acc k => acc + 2 ^ fxBits / ((k + 1) * 2 ^ (k + 1))) 0

/-- e^x for x below 1 in units of 2^-320: terms of the power series, with the term and the index so far. -/
def expFx (x : Nat) : Nat :=
  ((List.range 90).foldl (fun p k => (p.1 + p.2, p.2 * x / 2 ^ fxBits / (k + 1))) ((0 : Nat), 2 ^ fxBits)).1

/-- ln y for y from 1 to 2, y = num / den, in units of 2^-320: twice the sum of z^(2k+1) / (2k+1), z = (y-1) / (y+1). -/
def lnFx (num den : Nat) : Nat :=
  let z := (num - den) * 2 ^ fxBits / (num + den)
  let z2 := z * z / 2 ^ fxBits
  2 * ((List.range 120).foldl (fun p k => (p.1 + p.2 / (2 * k + 1), p.2 * z2 / 2 ^ fxBits)) ((0 : Nat), z)).1

/-- The bits of the square root of q from 2^i down. -/
def sqrtBits (q : Nat) : Nat → Nat → Nat
  | 0, r => r
  | i + 1, r => if (r + 2 ^ i) * (r + 2 ^ i) ≤ q then sqrtBits q i (r + 2 ^ i) else sqrtBits q i r

/-- ⌊√q⌋. -/
def sqrtNat (q : Nat) : Nat := sqrtBits q (bitLen q / 2 + 1) 0

/-- 2^a of a finite value. -/
def exp2Num (n : Num) : Num :=
  if n.m = 0 then { neg := false, m := 1, e := 0 }
  else if 16 < n.e + bitLen n.m then
    if n.neg then { neg := false, m := 1, e := -20000, st := true } else { neg := false, m := 1, e := 20000 }
  else
    let u := numUnits n (-(fxBits : Int))
    let i := u.fdiv (2 ^ fxBits : Nat)
    let f := u - i * (2 ^ fxBits : Nat)
    if f = 0 then { neg := false, m := 1, e := i }
    else { neg := false, m := expFx (f.toNat * ln2Fx / 2 ^ fxBits), e := i - fxBits, st := true }

/-- log₂ of a positive finite value. -/
def log2Num (n : Num) : Num :=
  let l := bitLen n.m - 1
  let k : Int := n.e + l
  if n.m = 2 ^ l then { neg := decide (k < 0), m := k.natAbs, e := 0 }
  else
    let v : Int := k * (2 ^ fxBits : Nat) + (lnFx n.m (2 ^ l) * 2 ^ fxBits / ln2Fx : Nat)
    if 0 ≤ v then { neg := false, m := v.natAbs, e := -(fxBits : Int), st := true }
    else { neg := true, m := v.natAbs - 1, e := -(fxBits : Int), st := true }

/-- 1/√a of a positive finite value. -/
def rsqNum (n : Num) : Num :=
  let odd := n.e % 2 ≠ 0
  let m := if odd then 2 * n.m else n.m
  let e := if odd then n.e - 1 else n.e
  let k := bitLen m + 60
  let q := 2 ^ (2 * k) / m
  let r := sqrtNat q
  { neg := false, m := r, e := -(e / 2) - k, st := r * r != q || 2 ^ (2 * k) % m != 0 }

/-- The special functions. -/
inductive SpecialFn where
  | exp2 | rcp | rsq | log2
  deriving DecidableEq, Repr

/-- The value of a special function with its flags (R174, R175). -/
def SpecialFn.value (f : SpecialFn) (x : FVal) : FVal × Flags :=
  match f, x with
  | _, .nan _ => (.nan false, 0)
  | .exp2, .inf neg => if neg then (.fin { neg := false, m := 0, e := 0 }, 0) else (.inf false, 0)
  | .exp2, .fin n => (.fin (exp2Num n), 0)
  | .rcp, .inf neg => (.fin { neg, m := 0, e := 0 }, 0)
  | .rcp, .fin n =>
    if n.m = 0 then (.inf n.neg, fgDivz) else (.fin (divNum { neg := false, m := 1, e := 0 } n), 0)
  | .rsq, .inf neg => if neg then (.nan false, fgInvalid) else (.fin { neg := false, m := 0, e := 0 }, 0)
  | .rsq, .fin n =>
    if n.m = 0 then (.inf n.neg, fgDivz)
    else if n.neg then (.nan false, fgInvalid) else (.fin (rsqNum n), 0)
  | .log2, .inf neg => if neg then (.nan false, fgInvalid) else (.inf false, 0)
  | .log2, .fin n =>
    if n.m = 0 then (.inf true, fgDivz)
    else if n.neg then (.nan false, fgInvalid) else (.fin (log2Num n), 0)

/-- A special function of each active element (R174). -/
def State.fpSpecial (s : State) (i : Instr) (et : FpEt) (d a : VReg) (pg : PReg) (f : SpecialFn) : Out :=
  s.runVec i [a] [d] acceptSpecial fun t =>
    let fa := fpFmt et
    let fd := effFmt (overrides t.status).fd fa
    let r := mergeFlags t pg (Nat.max (fmtBits fa) (fmtBits fd)) (fmtBits fd) (t.getV d) fun i =>
      let x := f.value (fpElem fa (t.getV a) i)
      let w := writeFp (ffmtOf fd) (effMode t.status) (effSat t.status) x.1
      (w.1, x.2 ||| w.2)
    .ok (writeVF d r)
/-- VEXP2. -/
def execVexp2 (et : FpEt) (d a : VReg) (pg : PReg) (s : State) : Out := s.fpSpecial (.vexp2 et d a pg) et d a pg .exp2
/-- VRCP. -/
def execVrcp (et : FpEt) (d a : VReg) (pg : PReg) (s : State) : Out := s.fpSpecial (.vrcp et d a pg) et d a pg .rcp
/-- VRSQ. -/
def execVrsq (et : FpEt) (d a : VReg) (pg : PReg) (s : State) : Out := s.fpSpecial (.vrsq et d a pg) et d a pg .rsq
/-- VLOG2. -/
def execVlog2 (et : FpEt) (d a : VReg) (pg : PReg) (s : State) : Out := s.fpSpecial (.vlog2 et d a pg) et d a pg .log2

/-! ### Reductions (R108, R109, R177) -/

/-- The active elements of va as values in a format, by lane. -/
def activeVals (t : Strand) (f : Nat) (a : VReg) (pg : PReg) : List (Option Nat) :=
  (List.range (512 / fmtBits f)).map fun i =>
    if laneActive t pg (fmtBits f) i then some (elemAt (fmtBits f) (t.getV a) i) else none

/-- A node of VFRSUM: the sum rounded once to FP32, with the flags so far (R109). -/
def sumNode (mode : Mode) (x y : FVal × Flags) : FVal × Flags :=
  let r := addVal mode x.1 y.1
  let w := writeFp fp32 mode false r.1
  (decodeFp fp32 w.1, x.2 ||| y.2 ||| r.2 ||| w.2)

/-- VFRSUM (R177): every other bit of vd is zero. -/
def execVfrsum (et : FpEt) (d a : VReg) (pg : PReg) (s : State) : Out :=
  s.runVec (.vfrsum et d a pg) [a] [d] acceptSpecial fun t =>
    let f := fpFmt et
    let fd := effFmt (overrides t.status).fd f
    let l := (activeVals t f a pg).map fun o => o.map fun b => (decodeFp (ffmtOf f) b, (0 : Flags))
    let r := (treeRoot (sumNode (effMode t.status)) (treeDepth l.length) l).getD (.fin { neg := false, m := 0, e := 0 }, 0)
    let w := writeFp (ffmtOf fd) (effMode t.status) (effSat t.status) r.1
    .ok (writeVF d (BitVec.ofNat 512 w.1, r.2 ||| w.2))

/-- VFRMAX and VFRMIN (R177): the identity of R108 when no lane is active; one lone lane is selected as it stands, a NaN
as the canonical NaN. -/
def State.fpReduce (s : State) (i : Instr) (et : FpEt) (d a : VReg) (pg : PReg) (max : Bool) : Out :=
  s.runVec i [a] [d] acceptNone fun t =>
    let f := ffmtOf (fpFmt et)
    let l := activeVals t (fpFmt et) a pg
    let r := match treeRoot (selectFp f max) (treeDepth l.length) l with
      | some x => selectFp f max x x
      | none => withSign f max (f.maxEnc + 1)
    .ok fun u => u.setV d (BitVec.ofNat 512 r)
/-- VFRMAX. -/
def execVfrmax (et : FpEt) (d a : VReg) (pg : PReg) (s : State) : Out := s.fpReduce (.vfrmax et d a pg) et d a pg true
/-- VFRMIN. -/
def execVfrmin (et : FpEt) (d a : VReg) (pg : PReg) (s : State) : Out := s.fpReduce (.vfrmin et d a pg) et d a pg false

/-! ### Conversions (R178 to R181) -/

/-- VCVT of MADD: integers to a floating-point format (R81, R178). -/
def execVcvtInt (et : IntEt) (d a : VReg) (pg : PReg) (s : State) : Out :=
  s.runVec (.vcvtInt et d a pg) [a] [d] acceptCvtInt fun t =>
    let w := etBits et
    let fd := effFmt (overrides t.status).fd 8
    let r := mergeFlags t pg (Nat.max w (fmtBits fd)) (fmtBits fd) (t.getV d) fun i =>
      writeFp (ffmtOf fd) (effMode t.status) (effSat t.status) (intVal (etVal et (elemAt w (t.getV a) i)))
    .ok (writeVF d r)

/-- The range of an integer format (R79). -/
def intRange (f : Nat) : Int × Int :=
  if f = 5 then (0, 255)
  else
    let w := fmtBits f
    (-((2 ^ (w - 1) : Nat) : Int), (2 ^ (w - 1) : Nat) - 1)

/-- VCVT of MSUB (R80, R179). -/
def execVcvtFp (et : FpEt) (d a : VReg) (pg : PReg) (s : State) : Out :=
  s.runVec (.vcvtFp et d a pg) [a] [d] acceptCvtFp fun t =>
    let fa := fpFmt et
    let fd := effFmt (overrides t.status).fd (if fa = 8 then 6 else 8)
    let mode := effMode t.status
    let r := mergeFlags t pg (Nat.max (fmtBits fa) (fmtBits fd)) (fmtBits fd) (t.getV d) fun i =>
      let bits := elemAt (fmtBits fa) (t.getV a) i
      let x := decodeFp (ffmtOf fa) bits
      if fd < 6 then
        let k := toIntClamped mode (intRange fd).1 (intRange fd).2 x
        (wrapInt (fmtBits fd) k.1, k.2)
      else if fd = fa then (if isNan x then (ffmtOf fa).nan else bits, 0)
      else writeFp (ffmtOf fd) mode (effSat t.status) x
    .ok (writeVF d r)

/-- Bits of one code of a packed code format. -/
def codeBits (f : Nat) : Nat := if f = 12 then 3 else if f = 11 ∨ f = 13 then 4 else 8

/-- Quantisation of one element into a code format (R104, R180). -/
def quantCode (f : Nat) (mode : Mode) (sat e8m0 : Bool) (x : FVal) (scale : Nat) : Nat × Flags :=
  if isGroup f then quantise f mode sat e8m0 x scale
  else
    let sv := scaleVal e8m0 scale
    if isNan x then ((ffmtOf f).nan, 0)
    else if isNan sv || isZero sv then (0, fgInvalid)
    else writeFp (ffmtOf f) mode sat (divScale x sv)

/-- VQUANT (R180): inactive elements write code 0, and every bit above the codes is zero. -/
def execVquant (et : FpEt) (d a b : VReg) (pg : PReg) (s : State) : Out :=
  s.runVec (.vquant et d a b pg) [a, b] [d] acceptQuant fun t =>
    let o := overrides t.status
    let fa := fpFmt et
    let fd := effFmt o.fd 11
    let e8m0 := effFmt o.fb 16 == 16
    let rs := (List.range (512 / fmtBits fa)).map fun i =>
      if laneActive t pg (fmtBits fa) i then
        quantCode fd (effMode t.status) (effSat t.status) e8m0 (fpElem fa (t.getV a) i) (elemAt 8 (t.getV b) 0)
      else (0, 0)
    .ok (writeVF d (ofElems (codeBits fd) (rs.map (·.1)), rs.foldl (fun acc r => acc ||| r.2) 0))

/-- Element i of the packing of a code format, read from byte 0 of a register (R101, R181). -/
def packedCode (f : Nat) (v : Vec) (i : Nat) : Nat :=
  if isGroup f then groupCode f (v.extractLsb' (8 * groupBytes f * (i / 32)) (8 * groupBytes f)).toNat (i % 32)
  else elemAt 8 v i

/-- VDEQ (R102, R105, R181). -/
def execVdeq (et : FpEt) (d a b : VReg) (pg : PReg) (s : State) : Out :=
  s.runVec (.vdeq et d a b pg) [a, b] [d] acceptDeq fun t =>
    let o := overrides t.status
    let fa := effFmt o.fa 11
    let fd := fpFmt et
    let e8m0 := effFmt o.fb 16 == 16
    let r := mergeFlags t pg (fmtBits fd) (fmtBits fd) (t.getV d) fun i =>
      let code := packedCode fa (t.getV a) i
      let cv := if isGroup fa then codeVal fa code else decodeFp (ffmtOf fa) code
      let x := mulVal cv (scaleVal e8m0 (elemAt 8 (t.getV b) (i / 32)))
      let w := writeFp (ffmtOf fd) (effMode t.status) (effSat t.status) x.1
      (w.1, x.2 ||| w.2)
    .ok (writeVF d r)

end Sys2Proof.Machine
end

