-- ==== Sys2Proof/Machine/Dispatch.lean ====
section
/-! DEFINITION. The dispatch of an instruction or event to its meaning: one arm per constructor. -/

namespace Sys2Proof.Machine

/-- One instruction or event executed at a state. -/
def exec (i : Instr) (s : State) : Host.Outcome State Fault Refusal :=
  match i with
  | .addi d a imm => Sys2Proof.Machine.execAddi d a imm s
  | .slti d a imm => Sys2Proof.Machine.execSlti d a imm s
  | .sltiu d a imm => Sys2Proof.Machine.execSltiu d a imm s
  | .xori d a imm => Sys2Proof.Machine.execXori d a imm s
  | .ori d a imm => Sys2Proof.Machine.execOri d a imm s
  | .andi d a imm => Sys2Proof.Machine.execAndi d a imm s
  | .slli d a sh => Sys2Proof.Machine.execSlli d a sh s
  | .srli d a sh => Sys2Proof.Machine.execSrli d a sh s
  | .srai d a sh => Sys2Proof.Machine.execSrai d a sh s
  | .clz d a => Sys2Proof.Machine.execClz d a s
  | .ctz d a => Sys2Proof.Machine.execCtz d a s
  | .cpop d a => Sys2Proof.Machine.execCpop d a s
  | .add d a b => Sys2Proof.Machine.execAdd d a b s
  | .sub d a b => Sys2Proof.Machine.execSub d a b s
  | .sll d a b => Sys2Proof.Machine.execSll d a b s
  | .slt d a b => Sys2Proof.Machine.execSlt d a b s
  | .sltu d a b => Sys2Proof.Machine.execSltu d a b s
  | .xor d a b => Sys2Proof.Machine.execXor d a b s
  | .srl d a b => Sys2Proof.Machine.execSrl d a b s
  | .sra d a b => Sys2Proof.Machine.execSra d a b s
  | .or d a b => Sys2Proof.Machine.execOr d a b s
  | .and d a b => Sys2Proof.Machine.execAnd d a b s
  | .mul d a b => Sys2Proof.Machine.execMul d a b s
  | .mulh d a b => Sys2Proof.Machine.execMulh d a b s
  | .mulhsu d a b => Sys2Proof.Machine.execMulhsu d a b s
  | .mulhu d a b => Sys2Proof.Machine.execMulhu d a b s
  | .div d a b => Sys2Proof.Machine.execDiv d a b s
  | .divu d a b => Sys2Proof.Machine.execDivu d a b s
  | .rem d a b => Sys2Proof.Machine.execRem d a b s
  | .remu d a b => Sys2Proof.Machine.execRemu d a b s
  | .min d a b => Sys2Proof.Machine.execMin d a b s
  | .minu d a b => Sys2Proof.Machine.execMinu d a b s
  | .max d a b => Sys2Proof.Machine.execMax d a b s
  | .maxu d a b => Sys2Proof.Machine.execMaxu d a b s
  | .lui d imm => Sys2Proof.Machine.execLui d imm s
  | .auipc d imm => Sys2Proof.Machine.execAuipc d imm s
  | .beq a b imm => Sys2Proof.Machine.execBeq a b imm s
  | .bne a b imm => Sys2Proof.Machine.execBne a b imm s
  | .blt a b imm => Sys2Proof.Machine.execBlt a b imm s
  | .bge a b imm => Sys2Proof.Machine.execBge a b imm s
  | .bltu a b imm => Sys2Proof.Machine.execBltu a b imm s
  | .bgeu a b imm => Sys2Proof.Machine.execBgeu a b imm s
  | .jal d imm => Sys2Proof.Machine.execJal d imm s
  | .jalr d a imm => Sys2Proof.Machine.execJalr d a imm s
  | .ccall a b => Sys2Proof.Machine.execCcall a b s
  | .lbOffset d a imm => Sys2Proof.Machine.execLbOffset d a imm s
  | .lbIndex d a x => Sys2Proof.Machine.execLbIndex d a x s
  | .lhOffset d a imm => Sys2Proof.Machine.execLhOffset d a imm s
  | .lhIndex d a x => Sys2Proof.Machine.execLhIndex d a x s
  | .lwOffset d a imm => Sys2Proof.Machine.execLwOffset d a imm s
  | .lwIndex d a x => Sys2Proof.Machine.execLwIndex d a x s
  | .ldOffset d a imm => Sys2Proof.Machine.execLdOffset d a imm s
  | .ldIndex d a x => Sys2Proof.Machine.execLdIndex d a x s
  | .lbuOffset d a imm => Sys2Proof.Machine.execLbuOffset d a imm s
  | .lbuIndex d a x => Sys2Proof.Machine.execLbuIndex d a x s
  | .lhuOffset d a imm => Sys2Proof.Machine.execLhuOffset d a imm s
  | .lhuIndex d a x => Sys2Proof.Machine.execLhuIndex d a x s
  | .lwuOffset d a imm => Sys2Proof.Machine.execLwuOffset d a imm s
  | .lwuIndex d a x => Sys2Proof.Machine.execLwuIndex d a x s
  | .clcOffset d a imm => Sys2Proof.Machine.execClcOffset d a imm s
  | .clcIndex d a x => Sys2Proof.Machine.execClcIndex d a x s
  | .sbOffset s0 a imm => Sys2Proof.Machine.execSbOffset s0 a imm s
  | .sbIndex s0 a x => Sys2Proof.Machine.execSbIndex s0 a x s
  | .shOffset s0 a imm => Sys2Proof.Machine.execShOffset s0 a imm s
  | .shIndex s0 a x => Sys2Proof.Machine.execShIndex s0 a x s
  | .swOffset s0 a imm => Sys2Proof.Machine.execSwOffset s0 a imm s
  | .swIndex s0 a x => Sys2Proof.Machine.execSwIndex s0 a x s
  | .sdOffset s0 a imm => Sys2Proof.Machine.execSdOffset s0 a imm s
  | .sdIndex s0 a x => Sys2Proof.Machine.execSdIndex s0 a x s
  | .cscOffset s0 a imm => Sys2Proof.Machine.execCscOffset s0 a imm s
  | .cscIndex s0 a x => Sys2Proof.Machine.execCscIndex s0 a x s
  | .cgetb d a => Sys2Proof.Machine.execCgetb d a s
  | .cgetx d a axis => Sys2Proof.Machine.execCgetx d a axis s
  | .cgets d a axis => Sys2Proof.Machine.execCgets d a axis s
  | .cgetf d a w => Sys2Proof.Machine.execCgetf d a w s
  | .ctag d a => Sys2Proof.Machine.execCtag d a s
  | .cidx d a b => Sys2Proof.Machine.execCidx d a b s
  | .cslice d a b axis => Sys2Proof.Machine.execCslice d a b axis s
  | .cnarrow d a axis => Sys2Proof.Machine.execCnarrow d a axis s
  | .cperm d a => Sys2Proof.Machine.execCperm d a s
  | .cwrap d b a => Sys2Proof.Machine.execCwrap d b a s
  | .cunwrap d b => Sys2Proof.Machine.execCunwrap d b s
  | .cmov d a => Sys2Proof.Machine.execCmov d a s
  | .kadd a b => Sys2Proof.Machine.execKadd a b s
  | .kaddRel scope a b => Sys2Proof.Machine.execKaddRel scope a b s
  | .kmax a b => Sys2Proof.Machine.execKmax a b s
  | .kmaxRel scope a b => Sys2Proof.Machine.execKmaxRel scope a b s
  | .kread d a => Sys2Proof.Machine.execKread d a s
  | .kwait a b => Sys2Proof.Machine.execKwait a b s
  | .kwaitAcq scope a b => Sys2Proof.Machine.execKwaitAcq scope a b s
  | .spawn a b => Sys2Proof.Machine.execSpawn a b s
  | .msend d b a n => Sys2Proof.Machine.execMsend d b a n s
  | .msendW b a n => Sys2Proof.Machine.execMsendW b a n s
  | .scall d a b => Sys2Proof.Machine.execScall d a b s
  | .tblk a => Sys2Proof.Machine.execTblk a s
  | .tublk a => Sys2Proof.Machine.execTublk a s
  | .xcopy m d b k => Sys2Proof.Machine.execXcopy m d b k s
  | .xgath m d b e k => Sys2Proof.Machine.execXgath m d b e k s
  | .xscat m d b e k => Sys2Proof.Machine.execXscat m d b e k s
  | .xfill m d a k => Sys2Proof.Machine.execXfill m d a k s
  | .xred m op d b k => Sys2Proof.Machine.execXred m op d b k s
  | .xcryp m d b e k => Sys2Proof.Machine.execXcryp m d b e k s
  | .xbind m d b a k => Sys2Proof.Machine.execXbind m d b a k s
  | .xflush m d k => Sys2Proof.Machine.execXflush m d k s
  | .xinval m d k => Sys2Proof.Machine.execXinval m d k s
  | .xresume b => Sys2Proof.Machine.execXresume b s
  | .mjob d e k => Sys2Proof.Machine.execMjob d e k s
  | .sbind v b a => Sys2Proof.Machine.execSbind v b a s
  | .sfree v => Sys2Proof.Machine.execSfree v s
  | .exph a b => Sys2Proof.Machine.execExph a b s
  | .exsnd b a => Sys2Proof.Machine.execExsnd b a s
  | .exrcv d a => Sys2Proof.Machine.execExrcv d a s
  | .aclaim d a b => Sys2Proof.Machine.execAclaim d a b s
  | .afree a => Sys2Proof.Machine.execAfree a s
  | .weed a b => Sys2Proof.Machine.execWeed a b s
  | .fmt fd fa fb rm sat => Sys2Proof.Machine.execFmt fd fa fb rm sat s
  | .wake a => Sys2Proof.Machine.execWake a s
  | .ownset a b => Sys2Proof.Machine.execOwnset a b s
  | .csrwr csr a => Sys2Proof.Machine.execCsrwr csr a s
  | .csrrd d csr => Sys2Proof.Machine.execCsrrd d csr s
  | .trap code => Sys2Proof.Machine.execTrap code s
  | .fence scope pred succ => Sys2Proof.Machine.execFence scope pred succ s
  | .ifence scope => Sys2Proof.Machine.execIfence scope s
  | .amoadd w d a b => Sys2Proof.Machine.execAmoadd w d a b s
  | .amoswap w d a b => Sys2Proof.Machine.execAmoswap w d a b s
  | .amoxor w d a b => Sys2Proof.Machine.execAmoxor w d a b s
  | .amoor w d a b => Sys2Proof.Machine.execAmoor w d a b s
  | .amoand w d a b => Sys2Proof.Machine.execAmoand w d a b s
  | .amocas w d a b => Sys2Proof.Machine.execAmocas w d a b s
  | .amomin w d a b => Sys2Proof.Machine.execAmomin w d a b s
  | .amomax w d a b => Sys2Proof.Machine.execAmomax w d a b s
  | .amominu w d a b => Sys2Proof.Machine.execAmominu w d a b s
  | .amomaxu w d a b => Sys2Proof.Machine.execAmomaxu w d a b s
  | .vadd et d a b pg => Sys2Proof.Machine.execVadd et d a b pg s
  | .vsub et d a b pg => Sys2Proof.Machine.execVsub et d a b pg s
  | .vmul et d a b pg => Sys2Proof.Machine.execVmul et d a b pg s
  | .vmulh et d a b pg => Sys2Proof.Machine.execVmulh et d a b pg s
  | .vmin et d a b pg => Sys2Proof.Machine.execVmin et d a b pg s
  | .vmax et d a b pg => Sys2Proof.Machine.execVmax et d a b pg s
  | .vand et d a b pg => Sys2Proof.Machine.execVand et d a b pg s
  | .vor et d a b pg => Sys2Proof.Machine.execVor et d a b pg s
  | .vxor et d a b pg => Sys2Proof.Machine.execVxor et d a b pg s
  | .vsll et d a b pg => Sys2Proof.Machine.execVsll et d a b pg s
  | .vsr et d a b pg => Sys2Proof.Machine.execVsr et d a b pg s
  | .vadc et d a b pg => Sys2Proof.Machine.execVadc et d a b pg s
  | .vsbc et d a b pg => Sys2Proof.Machine.execVsbc et d a b pg s
  | .vmuladc et d a b pg => Sys2Proof.Machine.execVmuladc et d a b pg s
  | .vceq et d a b pg => Sys2Proof.Machine.execVceq et d a b pg s
  | .vclt et d a b pg => Sys2Proof.Machine.execVclt et d a b pg s
  | .vfadd et d a b pg => Sys2Proof.Machine.execVfadd et d a b pg s
  | .vfsub et d a b pg => Sys2Proof.Machine.execVfsub et d a b pg s
  | .vfmul et d a b pg => Sys2Proof.Machine.execVfmul et d a b pg s
  | .vfma et d a b pg => Sys2Proof.Machine.execVfma et d a b pg s
  | .vfnma et d a b pg => Sys2Proof.Machine.execVfnma et d a b pg s
  | .vfmin et d a b pg => Sys2Proof.Machine.execVfmin et d a b pg s
  | .vfmax et d a b pg => Sys2Proof.Machine.execVfmax et d a b pg s
  | .vfabs et d a pg => Sys2Proof.Machine.execVfabs et d a pg s
  | .vfneg et d a pg => Sys2Proof.Machine.execVfneg et d a pg s
  | .vfceq et d a b pg => Sys2Proof.Machine.execVfceq et d a b pg s
  | .vfclt et d a b pg => Sys2Proof.Machine.execVfclt et d a b pg s
  | .vfcle et d a b pg => Sys2Proof.Machine.execVfcle et d a b pg s
  | .vexp2 et d a pg => Sys2Proof.Machine.execVexp2 et d a pg s
  | .vrcp et d a pg => Sys2Proof.Machine.execVrcp et d a pg s
  | .vrsq et d a pg => Sys2Proof.Machine.execVrsq et d a pg s
  | .vlog2 et d a pg => Sys2Proof.Machine.execVlog2 et d a pg s
  | .vsel et d a b pg => Sys2Proof.Machine.execVsel et d a b pg s
  | .vperm et d a b pg => Sys2Proof.Machine.execVperm et d a b pg s
  | .vbcast et d a pg => Sys2Proof.Machine.execVbcast et d a pg s
  | .vcle et d a b pg => Sys2Proof.Machine.execVcle et d a b pg s
  | .vcne et d a b pg => Sys2Proof.Machine.execVcne et d a b pg s
  | .vradd et d a pg => Sys2Proof.Machine.execVradd et d a pg s
  | .vrmin et d a pg => Sys2Proof.Machine.execVrmin et d a pg s
  | .vrmax et d a pg => Sys2Proof.Machine.execVrmax et d a pg s
  | .vcvtInt et d a pg => Sys2Proof.Machine.execVcvtInt et d a pg s
  | .vabs et d a pg => Sys2Proof.Machine.execVabs et d a pg s
  | .vext et d a b => Sys2Proof.Machine.execVext et d a b s
  | .vcvtFp et d a pg => Sys2Proof.Machine.execVcvtFp et d a pg s
  | .vquant et d a b pg => Sys2Proof.Machine.execVquant et d a b pg s
  | .vdeq et d a b pg => Sys2Proof.Machine.execVdeq et d a b pg s
  | .vfrsum et d a pg => Sys2Proof.Machine.execVfrsum et d a pg s
  | .vfrmax et d a pg => Sys2Proof.Machine.execVfrmax et d a pg s
  | .vfrmin et d a pg => Sys2Proof.Machine.execVfrmin et d a pg s
  | .vld ew v a x pg => Sys2Proof.Machine.execVld ew v a x pg s
  | .vldsA1 ew v a x pg => Sys2Proof.Machine.execVldsA1 ew v a x pg s
  | .vldsA2 ew v a x pg => Sys2Proof.Machine.execVldsA2 ew v a x pg s
  | .vldsA3 ew v a x pg => Sys2Proof.Machine.execVldsA3 ew v a x pg s
  | .vldg ew v a x pg => Sys2Proof.Machine.execVldg ew v a x pg s
  | .vst ew v a x pg => Sys2Proof.Machine.execVst ew v a x pg s
  | .vstsA1 ew v a x pg => Sys2Proof.Machine.execVstsA1 ew v a x pg s
  | .vstsA2 ew v a x pg => Sys2Proof.Machine.execVstsA2 ew v a x pg s
  | .vstsA3 ew v a x pg => Sys2Proof.Machine.execVstsA3 ew v a x pg s
  | .vstg ew v a x pg => Sys2Proof.Machine.execVstg ew v a x pg s
  | .pand d a b => Sys2Proof.Machine.execPand d a b s
  | .por d a b => Sys2Proof.Machine.execPor d a b s
  | .pxor d a b => Sys2Proof.Machine.execPxor d a b s
  | .pandn d a b => Sys2Proof.Machine.execPandn d a b s
  | .pnot d a => Sys2Proof.Machine.execPnot d a s
  | .pfromx d a => Sys2Proof.Machine.execPfromx d a s
  | .ptox d a => Sys2Proof.Machine.execPtox d a s
  | .pcnt d a => Sys2Proof.Machine.execPcnt d a s
  | .illegalInsnWord w => Sys2Proof.Machine.execIllegalInsnWord w s
  | .postedStoreAccept core index => Sys2Proof.Machine.execPostedStoreAccept core index s
  | .coreDrainComplete core => Sys2Proof.Machine.execCoreDrainComplete core s
  | .farAccessComplete id => Sys2Proof.Machine.execFarAccessComplete id s
  | .tlbWalkComplete id => Sys2Proof.Machine.execTlbWalkComplete id s
  | .fetchLineFill core line => Sys2Proof.Machine.execFetchLineFill core line s
  | .streamStripArrival core reg => Sys2Proof.Machine.execStreamStripArrival core reg s
  | .pageRequestGroupResponse group resp => Sys2Proof.Machine.execPageRequestGroupResponse group resp s
  | .atsInvalidateRequest fn page count perm => Sys2Proof.Machine.execAtsInvalidateRequest fn page count perm s
  | .engineTurn engine => Sys2Proof.Machine.execEngineTurn engine s
  | .counterOperationApply id => Sys2Proof.Machine.execCounterOperationApply id s
  | .spilledWaiterReadComplete cell => Sys2Proof.Machine.execSpilledWaiterReadComplete cell s
  | .hostCellPoll cell => Sys2Proof.Machine.execHostCellPoll cell s
  | .hostReadCompletion id status => Sys2Proof.Machine.execHostReadCompletion id status s
  | .hostAtomicCompletion id status => Sys2Proof.Machine.execHostAtomicCompletion id status s
  | .dispatchChoose core => Sys2Proof.Machine.execDispatchChoose core s
  | .dispatchLoadComplete core => Sys2Proof.Machine.execDispatchLoadComplete core s
  | .preemptRequest core service => Sys2Proof.Machine.execPreemptRequest core service s
  | .preemption core => Sys2Proof.Machine.execPreemption core s
  | .launchDoorbell fn tail => Sys2Proof.Machine.execLaunchDoorbell fn tail s
  | .launchSlot fn => Sys2Proof.Machine.execLaunchSlot fn s
  | .ingestFlit port hdr start u0 u1 u2 => Sys2Proof.Machine.execIngestFlit port hdr start u0 u1 u2 s
  | .ingestHeldRecord port => Sys2Proof.Machine.execIngestHeldRecord port s
  | .exchangeArmed core => Sys2Proof.Machine.execExchangeArmed core s
  | .phaseStart gate => Sys2Proof.Machine.execPhaseStart gate s
  | .phaseTimeout core => Sys2Proof.Machine.execPhaseTimeout core s
  | .exchangeVectorArrival id => Sys2Proof.Machine.execExchangeVectorArrival id s
  | .kstepBoundary engine => Sys2Proof.Machine.execKstepBoundary engine s
  | .serviceCall us => Sys2Proof.Machine.execServiceCall us s
  | .resetGenerationAdvance tenant => Sys2Proof.Machine.execResetGenerationAdvance tenant s
  | .mediatedCompletion fn => Sys2Proof.Machine.execMediatedCompletion fn s
  | .faultReportAnswer fn => Sys2Proof.Machine.execFaultReportAnswer fn s
  | .partitionRestore tenant core => Sys2Proof.Machine.execPartitionRestore tenant core s
  | .partitionSwapOut core part => Sys2Proof.Machine.execPartitionSwapOut core part s
  | .partitionModeChange core mode => Sys2Proof.Machine.execPartitionModeChange core mode s
  | .mappingShootdown tenant va pteAddr pte => Sys2Proof.Machine.execMappingShootdown tenant va pteAddr pte s
  | .vaultBlockAssign vault block tenant => Sys2Proof.Machine.execVaultBlockAssign vault block tenant s
  | .programLoad req => Sys2Proof.Machine.execProgramLoad req s
  | .adapterSlotAllot slot tenant dbase dsize dest => Sys2Proof.Machine.execAdapterSlotAllot slot tenant dbase dsize dest s
  | .nodeSplit node => Sys2Proof.Machine.execNodeSplit node s
  | .nodeMerge node => Sys2Proof.Machine.execNodeMerge node s
  | .nodeAllot node tenant => Sys2Proof.Machine.execNodeAllot node tenant s
  | .nodeShare node tenant => Sys2Proof.Machine.execNodeShare node tenant s
  | .nodeRelease node tenant => Sys2Proof.Machine.execNodeRelease node tenant s
  | .nodeLock node => Sys2Proof.Machine.execNodeLock node s
  | .nodeUnlock node => Sys2Proof.Machine.execNodeUnlock node s
  | .functionLevelReset fn => Sys2Proof.Machine.execFunctionLevelReset fn s
  | .vfEnableSet vfs => Sys2Proof.Machine.execVfEnableSet vfs s
  | .serviceTenantReset tenant => Sys2Proof.Machine.execServiceTenantReset tenant s
  | .bringUp inp => Sys2Proof.Machine.execBringUp inp s
  | .apertureMemoryRead fn bar off len ide => Sys2Proof.Machine.execApertureMemoryRead fn bar off len ide s
  | .apertureMemoryWrite fn off data ide => Sys2Proof.Machine.execApertureMemoryWrite fn off data ide s
  | .apertureAtomicop fn off op wide a b ide => Sys2Proof.Machine.execApertureAtomicop fn off op wide a b ide s
  | .counterApertureFetchadd fn off amount ide => Sys2Proof.Machine.execCounterApertureFetchadd fn off amount ide s
  | .mailboxDoorbell fn tail => Sys2Proof.Machine.execMailboxDoorbell fn tail s
  | .moheadWrite fn head => Sys2Proof.Machine.execMoheadWrite fn head s
  | .qerrClear fn => Sys2Proof.Machine.execQerrClear fn s
  | .bar0RegisterWrite fn off size value => Sys2Proof.Machine.execBar0RegisterWrite fn off size value s
  | .portModeWrite port off value => Sys2Proof.Machine.execPortModeWrite port off value s
  | .binderrClear port => Sys2Proof.Machine.execBinderrClear port s
  | .plimitWrite value => Sys2Proof.Machine.execPlimitWrite value s
  | .lockInterfaceRequest fn => Sys2Proof.Machine.execLockInterfaceRequest fn s
  | .startInterfaceRequest fn => Sys2Proof.Machine.execStartInterfaceRequest fn s
  | .stopInterfaceRequest fn => Sys2Proof.Machine.execStopInterfaceRequest fn s
  | .quiesce fn => Sys2Proof.Machine.execQuiesce fn s
  | .unquiesce fn => Sys2Proof.Machine.execUnquiesce fn s
  | .tdiConfigWrite fn => Sys2Proof.Machine.execTdiConfigWrite fn s
  | .ideTlpFailure fn stream => Sys2Proof.Machine.execIdeTlpFailure fn stream s
  | .ideKeyProgram fn stream set => Sys2Proof.Machine.execIdeKeyProgram fn stream set s
  | .kSetGo fn stream => Sys2Proof.Machine.execKSetGo fn stream s
  | .spdmRequest req => Sys2Proof.Machine.execSpdmRequest req s
  | .powerStateD3hot fn => Sys2Proof.Machine.execPowerStateD3hot fn s
  | .powerStateD0 fn => Sys2Proof.Machine.execPowerStateD0 fn s
  | .firmwareActivation image => Sys2Proof.Machine.execFirmwareActivation image s
  | .writeFlit port hdr addr data => Sys2Proof.Machine.execWriteFlit port hdr addr data s
  | .caddFlit port hdr addr amount => Sys2Proof.Machine.execCaddFlit port hdr addr amount s
  | .cmaxFlit port hdr addr candidate => Sys2Proof.Machine.execCmaxFlit port hdr addr candidate s
  | .creadFlit port hdr addr => Sys2Proof.Machine.execCreadFlit port hdr addr s
  | .cwatchFlit port hdr addr threshold => Sys2Proof.Machine.execCwatchFlit port hdr addr threshold s
  | .cansFlit port hdr op answer => Sys2Proof.Machine.execCansFlit port hdr op answer s
  | .abortFlit port hdr oldGen newGen func => Sys2Proof.Machine.execAbortFlit port hdr oldGen newGen func s
  | .linkctlFlit port hdr nak => Sys2Proof.Machine.execLinkctlFlit port hdr nak s
  | .idleFlit port hdr => Sys2Proof.Machine.execIdleFlit port hdr s
  | .flitReceiveError port kind => Sys2Proof.Machine.execFlitReceiveError port kind s
  | .linkUp port peerEnc => Sys2Proof.Machine.execLinkUp port peerEnc s
  | .linkDown port cause => Sys2Proof.Machine.execLinkDown port cause s
  | .linkRekey port => Sys2Proof.Machine.execLinkRekey port s
  | .powerSample watts temp0 temp1 => Sys2Proof.Machine.execPowerSample watts temp0 temp1 s
  | .priEnableWrite fn => Sys2Proof.Machine.execPriEnableWrite fn s
  | .atomicopRequesterEnableWrite fn => Sys2Proof.Machine.execAtomicopRequesterEnableWrite fn s
  | .cret => Sys2Proof.Machine.execCret s
  | .yield => Sys2Proof.Machine.execYield s
  | .fin => Sys2Proof.Machine.execFin s
  | .brk => Sys2Proof.Machine.execBrk s
  | .sret => Sys2Proof.Machine.execSret s
  | .shalt => Sys2Proof.Machine.execShalt s
  | .engineDeficitRaise => Sys2Proof.Machine.execEngineDeficitRaise s
  | .dispatchDeficitRaise => Sys2Proof.Machine.execDispatchDeficitRaise s
  | .matrixDeficitRaise => Sys2Proof.Machine.execMatrixDeficitRaise s
  | .sweepMark => Sys2Proof.Machine.execSweepMark s
  | .sweepCores => Sys2Proof.Machine.execSweepCores s
  | .sweepRecords => Sys2Proof.Machine.execSweepRecords s
  | .sweepMemory => Sys2Proof.Machine.execSweepMemory s
  | .sweepClose => Sys2Proof.Machine.execSweepClose s
  | .launchCall => Sys2Proof.Machine.execLaunchCall s
  | .bmread => Sys2Proof.Machine.execBmread s
  | .bmresume => Sys2Proof.Machine.execBmresume s
  | .bmdrop => Sys2Proof.Machine.execBmdrop s
  | .serviceDeficitRaise => Sys2Proof.Machine.execServiceDeficitRaise s
  | .vfEnableClear => Sys2Proof.Machine.execVfEnableClear s
  | .chime => Sys2Proof.Machine.execChime s
  | .leaderTakeover => Sys2Proof.Machine.execLeaderTakeover s
  | .clockStepChange => Sys2Proof.Machine.execClockStepChange s
  | .instructionFetch => Sys2Proof.Machine.execInstructionFetch s
  | .packageReset => Sys2Proof.Machine.execPackageReset s

end Sys2Proof.Machine
end

