-- ==== Sys2Proof/Machine/HostActs.lean ====
section
/-! DEFINITION. What happens outside the part, or in it by itself or by the service pair, and is no row of the opcode table (01 R10,
04 R151, 06 R199, R200, R212, 10 R313, 12 R391, R400). -/

namespace Sys2Proof.Machine

/-- Bytes that the host's processors write to a function's host memory (R212, R309, R310). -/
def State.hostWrite (s : State) (fn io : Nat) (data : List Byte) : State :=
  if fn < Config.functions then
    { s with mem := data.zipIdx.foldl (fun m b => memPut m (hostPlace fn (io + b.2)) b.1) s.mem }
  else s

/-- A page of a function whose reads the host completes with an error, or no longer (R243, R421). -/
def State.setFails (s : State) (fn page : Nat) (fails : Bool) : State :=
  let rest := dropWhere s.hostFails (· == (fn, page))
  { s with hostFails := if fails then rest ++ [(fn, page)] else rest }

/-- A corrected soft error: no value changes; it is counted and logged (R199, R471). -/
def State.softError (s : State) (func : Option Nat) (die : BitVec 8) (unit : BitVec 16) (addr : Word) : State :=
  (s.updFn 0 fun f => { f with softerr := f.softerr + 1 }).logAt 0x01 die unit func addr 0

/-- A 512-byte unit of the part's memory with an uncorrectable error (R200). -/
def State.failUnit (s : State) (u : Nat) : State :=
  if 512 * u < Config.hostFlat ∧ !s.badUnits.contains u then { s with badUnits := s.badUnits ++ [u] } else s

/-- The header of a ready bookmark as the service pair writes it (R313). -/
def State.writeHeader (s : State) (id : Nat) (reserved : BitVec 26) (kind : Option (BitVec 4)) : State :=
  { s with bms := updWhere s.bms (fun h => h.id == id && h.holder == .ready) fun h =>
      { h with bm := { h.bm with reserved, badKind := kind.filter fun c => decide (12 ≤ c.toNat) } } }

/-- The service pair writes a compartment-table entry: its reserved bits are zero (R393). -/
def State.compWrite (s : State) (t : Nat) (k : BitVec 16) (e : Word) : State :=
  if (s.tenant t).v && decide (k.toNat < (s.tenant t).ctlen) && e.extractLsb' 0 45 == 0 then
    s.serviceWrite t ((s.tenant t).ctbase + 8 * k.toNat) e
  else s

/-- The service pair's write of CONF of a tenant entry is discarded, and logged to the Curator with the byte offset of FLAGS in the
tenant table (R9, 14 Table 14 kind 0x0A; log 78). -/
def State.confWrite (s : State) (t : Nat) : State := s.logAt 0x0A 0xFF 0 none (w64 (512 * t + 1)) 0

/-- The service pair writes an export-table entry for a tenant at its generation (R459). -/
def State.exportWrite (s : State) (port index : Nat) (e : Export) : State :=
  if port < 4 ∧ index < 64 ∧ (s.tenant e.tenant).v then
    s.updPort port fun p => { p with exports := Table.set p.exports index { e with gen := s.gen e.tenant } }
  else s

/-- The service pair sends a WRITE flit for a tenant, whose traffic is not held (R452, R459). -/
def State.sendWrite (s : State) (port t : Nat) (addr : BitVec 46) (data : List Byte) : State :=
  if (s.port port).up ∧ (s.port port).mode = 1 ∧ data.length ≤ 192 ∧ !(s.fn t).halted then
    s.sendFlit port (some t) 0x01 (ctrPayload addr.toNat (w64 data.length) ++
      (List.range (ceilDiv data.length 8)).map fun i => w64 (bytesNat ((data.drop (8 * i)).take 8)))
  else s

/-- A service pair fails: its chimes stop (R29, R440). -/
def State.pairFails (s : State) (d : Nat) : State := s.setPair d { s.pair d with failed := true }

/-- What happens beside the rows of the opcode table. -/
def State.happens (s : State) : HostAct → State
  | .write fn io data => s.hostWrite fn io data
  | .failReads fn page fails => s.setFails fn page fails
  | .softError func die unit addr => s.softError func die unit addr
  | .failUnit u => s.failUnit u
  | .interrupt die => s.setPair die (s.pair die).wake
  | .header id reserved kind => s.writeHeader id reserved kind
  | .taskWrite core index e blk => s.taskWrite core index e blk
  | .tenantWrite i => s.tenantWrite i
  | .confWrite t _ => s.confWrite t
  | .compWrite t k e => s.compWrite t k e
  | .exportWrite port index e => s.exportWrite port index e
  | .sendWrite port t addr data => s.sendWrite port t addr data
  | .writeRefused port addr => s.logAt 0x08 (portDie port) (BitVec.ofNat 16 port) none (addr.setWidth 64) 0
  | .pairFails die => s.pairFails die
  | .barOther fn bar ide => s.barOther fn bar ide
  | .partTurn engine bytes => s.takeTurn engine bytes
  | .late engine on => { s with
      late := dropWhere s.late (· == engine) ++ (if on then [engine] else []), old := if on then s.old else dropWhere s.old (·.unit == engine) }
  | .peerExport port func => s.updPort port fun p => { p with closedAreas := p.closedAreas.filter (· != func) }

end Sys2Proof.Machine
end

