-- ==== Sys2Proof/Machine/Schedule.lean ====
section
/-! DEFINITION. Who acts next and in which c-cycle: the schedule's turns, what is due before them, and what acts when no
turn is scheduled (the model's own; log 1). -/

namespace Sys2Proof.Machine

/-- The instruction that core k's strand executes next: the fetched one, the word that is none, or the fetch itself where
it gives no word. -/
def State.nextInstr (s : State) (k : Nat) : Instr :=
  match s.fetch k with
  | .word w =>
    match decode w with
    | .ok i => i
    | .error _ => .illegalInsnWord w
  | .miss _ => .instructionFetch
  | .raised _ => .instructionFetch

/-- What core k runs: at a boundary a pre-emption that is asked for, else its next instruction, or the one that waits resident
(R429, R430). -/
def State.coreInstr (s : State) (k : Nat) : Instr :=
  let c := s.core k
  match c.waiting, c.inExec with
  | true, some i => i
  | _, _ => if s.preemptDue k && c.phase == .none then .preemption k else s.nextInstr k

/-- The c-cycle in which core k's strand issues next. -/
def State.coreCycle (s : State) (k : Nat) : Nat := s.issueCycle k (timing (s.coreInstr k))

/-- The core runs a strand, or waits for the drain of the end of one: while it is armed for a phase it runs nothing (R332,
R377). -/
def Core.runs (c : Core) : Bool := (c.mode == .running || c.waiting) && (c.phase == .none || c.inPhase)

/-- What an event of the schedule is: no instruction word, its operands naming units of the part. -/
def isEvent (i : Instr) : Bool :=
  (encode i).isNone && i.wf && (match i with
    | .illegalInsnWord _ => false
    | .instructionFetch => false
    | _ => true)

/-- The earlier of two timed actors; the first of two at one c-cycle. -/
def sooner (a b : Option (Nat × Actor)) : Option (Nat × Actor) :=
  match a, b with
  | none, b => b
  | a, none => a
  | some x, some y => if y.1 < x.1 then some y else some x

/-- The c-cycle in which TIME reaches a number of ticks. -/
def State.cycleOfTime (s : State) (ticks : Nat) : Nat := s.cycle + ceilDiv (ticks * 12600 - s.timeAcc) s.timeStep

/-- The first of the timed actors of a list. -/
def soonestOf (l : List (Option (Nat × Actor))) : Option (Nat × Actor) := l.foldl sooner none

/-- The periodic raises: every 4,096 and every 8,192 c-cycles, and every 10,000 ticks, each once at its instant (R503). -/
def State.raiseTimes (s : State) : Option (Nat × Actor) :=
  let every (n bit : Nat) (i : Instr) : Option (Nat × Actor) :=
    some (if s.cycle % n = 0 ∧ !s.raised.getLsbD bit then s.cycle else (s.cycle / n + 1) * n, .event i)
  let service : Option (Nat × Actor) :=
    some (if s.time % 10000 = 0 ∧ !s.raised.getLsbD 3 then s.cycle else s.cycleOfTime ((s.time / 10000 + 1) * 10000),
      .event .serviceDeficitRaise)
  sooner (every 4096 0 .dispatchDeficitRaise)
    (sooner (every 8192 1 .engineDeficitRaise) (sooner (every 8192 2 .matrixDeficitRaise) service))

/-- A core that is idle finds something to take, or a record to remove, at a c-cycle. -/
def State.findsWork (s : State) (k at' : Nat) : Bool :=
  let s := { s with cycle := at' }
  (s.markedFor k).isSome || (s.choose k).isSome || s.bms.any (s.invalidOn k)

/-- The first c-cycle from one on in which an idle core finds something, as things stand: entries and records are candidates from the
c-cycle after they came (R328, R353); WAKE has it look at once (R151). -/
def State.idleTurn (s : State) (k n : Nat) : Option Nat :=
  let times : List Nat := ((s.bms.map fun (h : Held) => h.entered + 1) ++ s.slotStamps.map fun (x : Nat × Nat) => x.2 + 1).filter fun m => decide (n < m)
  if (s.core k).rescan || s.findsWork k n then some n else (times.filter (s.findsWork k)).min?

/-- When a core acts next, and how: its strand, its choice, its arming, the end of a load or of a drain. -/
def State.coreTurn (s : State) (k : Nat) (c : Core) : Option (Nat × Actor) :=
  let done := max s.cycle c.nextIssue
  if c.runs then some (s.coreCycle k, .core k)
  else match c.mode with
  | .running => match c.phase with
    | .arming _ => some (max (s.cycle + 1) c.nextIssue, .event (.exchangeArmed k))
    | _ => none
  | .loading => some (done, .event (.dispatchLoadComplete k))
  | .draining => if c.posted.isEmpty then some (done, .event (.coreDrainComplete k)) else none
  | .saving => if c.posted.isEmpty then some (done, .event (.coreDrainComplete k)) else none
  | .idle => (s.idleTurn k (max (s.cycle + 1) (c.nextIssue + 2))).map fun n => (n, .event (.dispatchChoose k))

/-- What is timed of a core: the next instruction of a strand that does not wait resident, the choice of an idle core, the end of a load
or of a drain, the end of an overlong phase, and the first c-cycle in which the dispatcher's pre-emption of its strand is due (R152,
R329, R332, R380, R429). The arming before READY, and how long a strand waits resident, are open times (R497). -/
def State.coreTimed (s : State) (limit k : Nat) (c : Core) : Option (Nat × Actor) :=
  let own : Option (Nat × Actor) :=
    if c.waiting then none
    else match s.coreTurn k c with
      | some (_, .event (.exchangeArmed _)) => none
      | some (n, .core j) => if n < limit then some (n, .core j) else none
      | t => t
  let phase : Option (Nat × Actor) := match c.phase with
    | .inside _ start => some (max (start + 4096) s.cycle, .event (.phaseTimeout k))
    | _ => none
  let turn : Option (Nat × Actor) :=
    if c.mode == .running && !c.preemptReq then (s.turnAt k).map fun n => (n, .event (.preemptRequest k false)) else none
  sooner phase (sooner own turn)

/-- The leader's next chime; once it has failed, the follower's takeover, by its ceiling (R29, R440). -/
def State.chimeTimed (s : State) : Option (Nat × Actor) :=
  match s.service.leader with
  | none => none
  | some d =>
    if s.service.stopped then none
    else if (s.pair d).failed || decide (s.service.lastChime + lostTicks ≤ s.time) then
      some (s.cycleOfTime (s.service.lastChime + takeoverTicks), .event .leaderTakeover)
    else some (s.cycleOfTime (s.service.lastChime + chimeTicks), .event .chime)

/-- An operation on its way to its home arrives by its ceiling, unless one of its agent is before it (R310, R499). -/
def State.opTimed (s : State) (o : CtrOp) : Option (Nat × Actor) :=
  if o.due = 0 || s.behind o then none else some (max o.due s.cycle, .event (.counterOperationApply o.id))

/-- A posted counter operation reaches its home by its ceiling, unless an older entry on its bytes is before it (R278, R293, R499). -/
def postedTimed (cycle k : Nat) (q : List Posted) : List (Option (Nat × Actor)) :=
  q.zipIdx.map fun e =>
    if e.1.due = 0 || (q.take e.2).any (fun o => o.touches e.1.op.flats) then none
    else some (max e.1.due cycle, .event (.postedStoreAccept k e.2))

/-- A far KREAD has its answer by its ceiling (R282, R499). -/
def Held.timed (h : Held) (cycle : Nat) : Option (Nat × Actor) :=
  match h.holder with
  | .far _ _ => if h.due = 0 then none else some (max h.due cycle, .event (.farAccessComplete h.id))
  | _ => none

/-- The second phase of a sweep ends within 64 c-cycles of its start, once no covered strand stands inside an instruction (R153,
R416). -/
def State.sweepTimed (s : State) : Option (Nat × Actor) :=
  if s.sweep == .marked && !s.midInstr then some (max (s.sweepFrom + 64) s.cycle, .event .sweepCores) else none

/-- What happens at a c-cycle of its own, by then at the latest: the raises of the deficits, the start of a phase, the arrival
of a vector, the end of a k-step or of a chunk of C, a poll of host memory, a counter operation's way to its home, a far KREAD's answer, a
home's read of its spilled waiters, the second phase of a sweep, the chime, and what is timed of the cores (R29, R274, R286, R326, R365,
R377, R378, R383, R416, R429, R497, R499, R503). -/
def State.timed (s : State) (limit : Nat) : Option (Nat × Actor) :=
  let starts := s.gates.map fun g => g.start.map fun c => (max c s.cycle, Actor.event (.phaseStart g.cell))
  let flights := s.flights.map fun f => some (max f.due s.cycle, Actor.event (.exchangeVectorArrival f.id))
  let jobs := s.jobs.map fun j => if j.due = 0 then none else some (max j.due s.cycle, Actor.event (.kstepBoundary j.engine))
  let polls := s.polls.map fun p => some (s.cycleOfTime p.next, Actor.event (.hostCellPoll p.place))
  let reads := s.spillReads.map fun r => some (max r.due s.cycle, Actor.event (.spilledWaiterReadComplete r.cell))
  let cores := s.cores.map fun c => s.coreTimed limit c.1 c.2
  let posted := s.cores.flatMap fun c => postedTimed s.cycle c.1 c.2.posted
  let far := s.bms.map fun h => h.timed s.cycle
  soonestOf (s.raiseTimes :: s.chimeTimed :: s.sweepTimed ::
    (starts ++ flights ++ jobs ++ polls ++ reads ++ s.counterOps.map s.opTimed ++ posted ++ far ++ cores))

/-- What is due at or before a c-cycle. -/
def State.due (s : State) (limit : Nat) : Option (Nat × Actor) :=
  match s.timed limit with
  | some (c, a) => if c ≤ limit then some (c, a) else none
  | none => none

/-! ### What acts when no turn is scheduled -/

/-- The running strand of core k has a strip to be fetched for a bound register (R233, R234). -/
def State.stripWanted (s : State) (k : Nat) (c : Core) (reg : Nat) : Bool :=
  let d := c.strand.desc reg
  let ahead := (c.strips.filter fun p => p.owner == 0 && p.reg == reg).length
  c.mode == .running && (c.strand.bind[reg]?).join.isSome && sdTag d && decide (ahead < 4) &&
    decide (sdNext d + ahead < sdCount d) && decide (c.strips.length < 32) && s.storesBefore k reg

/-- What a core has to do besides its strand: posted stores, and lines and strips that arrive. -/
def State.coreWork (s : State) (k : Nat) (c : Core) : List Actor :=
  let accept : List Actor := match c.posted.findIdx? fun e => e.sent.isNone with
    | some i => [.event (.postedStoreAccept k i)]
    | none => []
  let line : List Actor := match c.prefetches.head? with | some l => [.event (.fetchLineFill k l)] | none => []
  let strip : List Actor := match (List.range 8).find? (s.stripWanted k c) with
    | some r => [.event (.streamStripArrival k (24 + r))]
    | none => []
  accept ++ line ++ strip

/-- What the holder of a bookmark has to do. -/
def Held.work (h : Held) : List Actor :=
  match h.holder with
  | .far _ _ => [.event (.farAccessComplete h.id)]
  | .xlate _ => [.event (.tlbWalkComplete h.id)]
  | .fetch line => [.event (.fetchLineFill h.bm.lcore line)]
  | .stream r => [.event (.streamStripArrival h.bm.lcore (24 + r))]
  | .ready => []
  | .counter _ _ _ _ _ _ => []
  | .travelling _ => []
  | .slot _ => []
  | .page _ => []
  | .fault _ _ => []

/-- What engines and homes have to do. -/
def State.engineWork (s : State) : List Actor :=
  (s.counterOps.map fun o => Actor.event (.counterOperationApply o.id)) ++
  (s.spillReads.map fun r => Actor.event (.spilledWaiterReadComplete r.cell)) ++
  ((List.range 136).filterMap fun e =>
    if s.cmds.any fun c => c.engine == e && s.canProceed c then some (Actor.event (.engineTurn e)) else none) ++
  ((s.jobs.filter s.jobReady).map fun j => Actor.event (.kstepBoundary j.engine)) ++
  match s.sweep with
  | .none => if s.weeds.isEmpty then [] else [.event .sweepMark]
  | .marked => [.event .sweepCores]
  | .coresDone => [.event .sweepRecords]
  | .recordsDone => [.event .sweepMemory]
  | .memoryDone => [.event .sweepClose]

/-- Something is held for the absent partition of a tenant on a core: an access of a strand, an engine, a job, a call, the host or a
peer, or a bookmark bound to the core (R191). -/
def State.restoreAsked (s : State) (t k : Nat) : Bool :=
  let here (va : Nat) : Bool := spadOf va == some k
  (s.core k).asked.contains t || (s.heldReqs.any fun r => r.tenant == t && r.core == k) ||
  (s.counterOps.any fun o => o.tenant == t && (here o.va || here (lastVa o.va o.kind.span))) ||
  (s.cores.any fun c => c.2.posted.any fun e => e.tenant == t && (e.va :: e.vas).any here) ||
  (s.cmds.any fun c => c.tenant == t && (match c.state with | .held va => here va | _ => false)) ||
  (s.jobs.any fun j => j.tenant == t && j.caps.any fun c => c.tag && here (cBase c.img)) ||
  (s.service.calls.any fun c => c.tenant == t && c.runs && here (cBase c.cap.img)) ||
  (s.bms.any fun h => h.bm.tenant == t && (h.accesses.any here || (h.holder == .ready && h.bm.lcore == k)))

/-- The restore of an image, and first the swap of the partition that has its index, or the pre-emption of that one's strand (R191,
R397, R429). -/
def State.restoreWork (s : State) (p : Image) : List Actor :=
  match s.partOf p.tenant p.core with
  | none => []
  | some i =>
    let c := s.core p.core
    if s.backFree p.tenant p.core i then [.event (.partitionRestore p.tenant p.core)]
    else if c.svcWant && s.strandOn (c.resid i).tenant p.core then
      (if c.mode == .running && !c.preemptReq then [.event (.preemptRequest p.core true)] else [])
    else if !s.strandOn (c.resid i).tenant p.core || decide (c.runStart + 8192 ≤ s.cycle) then [.event (.partitionSwapOut p.core i)]
    else []

/-- The event that runs the active call, or the next slice where its slice is over or nothing runs (R439). -/
def State.callWork (s : State) : List Actor :=
  match s.service.active with
  | some c =>
    if s.service.since + sliceTicks < s.time then [.event (.serviceCall 50)]
    else if c.number = 1 then [.event .launchCall] else if c.number = 2 then [.event .bmread]
    else if c.number = 3 then [.event .bmresume] else [.event .bmdrop]
  | none => if s.nextCall.isSome then [.event (.serviceCall 50)] else []

/-- What the service side and the host interface have to do. -/
def State.serviceWork (s : State) : List Actor :=
  s.callWork ++ (s.service.shootdowns.map fun d => Actor.event (.mappingShootdown d.1 d.2.1 d.2.2.1 d.2.2.2)) ++
  (s.fns.flatMap fun f =>
    (if s.readsRings f.1 && f.2.lqtail != f.2.lqhead then [Actor.event (.launchSlot f.1)] else []) ++
    (match s.headMessage f.1 with
      | some (.mediated _ _) => [.event (.mediatedCompletion f.1)]
      | some (.answer _ _ _) => [.event (.faultReportAnswer f.1)]
      | _ => []) ++
    (if f.2.reset != .idle && !s.carries f.1 (s.gen f.1 + 1) then [.event (.resetGenerationAdvance f.1)] else [])) ++
  (s.images.flatMap fun p => if s.restoreAsked p.tenant p.core then s.restoreWork p else []) ++
  (s.ports.filterMap fun p => if p.2.waiting.isEmpty then none else some (Actor.event (.ingestHeldRecord p.1))) ++
  if s.power.want.isSome then [.event .clockStepChange] else []

/-- Everything that can act at once. -/
def State.work (s : State) : List Actor :=
  (s.cores.flatMap fun c => s.coreWork c.1 c.2) ++ (s.bms.flatMap fun h => h.work) ++ s.engineWork ++ s.serviceWork

/-- What acts next at a c-cycle of its own: cores and the service pairs. -/
def State.soonest (s : State) : Option (Nat × Actor) :=
  sooner (soonestOf (s.cores.map fun c => s.coreTurn c.1 c.2)) s.chimeTimed

/-- The turn taken when none is scheduled: what can act at once and what acts soonest take turns (log 1). -/
def State.autopilot (s : State) : Turn :=
  let now := s.work
  let later : List Turn := match s.soonest with | some (c, a) => [{ wait := c - s.cycle, actor := a }] | none => []
  let turns := now.map (fun (a : Actor) => ({ actor := a } : Turn)) ++ later
  turns.getD (s.tick % turns.length) { wait := 1, actor := .event .clockStepChange }

/-- The next turn: the schedule's first, or the autopilot's. -/
def State.nextTurn (s : State) : Turn :=
  match s.schedule with
  | t :: _ => t
  | [] => s.autopilot

/-- The c-cycle in which a turn is taken. -/
def State.turnCycle (s : State) (t : Turn) : Nat :=
  match t.actor with
  | .core k => if (s.core k).runs then max (s.cycle + t.wait) (s.coreCycle k) else s.cycle + t.wait
  | .event _ => s.cycle + t.wait
  | .unit _ _ => s.cycle + t.wait
  | .host _ => s.cycle + t.wait

/-- The schedule after its first turn is taken. -/
def State.popTurn (s : State) : State := { s with schedule := s.schedule.drop 1, tick := s.tick + 1 }

/-- The schedule after something else happened at a later c-cycle: its first turn waits the less. -/
def State.shortenTurn (s : State) (cycles : Nat) : State :=
  { s with schedule := match s.schedule with
      | t :: r => { t with wait := t.wait - cycles } :: r
      | [] => [] }

/-- Core k's strand is about to execute an instruction: the model's pointer to it, and the effects of its fetch where its word
was fetched (R63). A strand that waited resident goes on with its instruction. -/
def State.atCore (s : State) (k : Nat) (i : Instr) : State :=
  let c := s.core k
  let s := { s with cur := k, agent := .strand }
  if c.waiting then s.setCore k { c with waiting := false, mode := .running }
  else
    match i, s.fetch k with
    | .preemption _, _ => s
    | _, .word _ => s.noteFetch k
    | _, _ => s

end Sys2Proof.Machine
end

