-- ==== Sys2Proof/Machine/Step.lean ====
section
/-! DEFINITION. One step of the package: a turn of the schedule, or what is due before it. -/

namespace Sys2Proof.Machine

/-- Core k's strand executes its next instruction, in the state whose clock stands at the c-cycle of issue; or it takes the exception
that the instruction it waits in has raised (R13, R218). A core that runs no strand does nothing. -/
def stepCore (k : Nat) (s : State) : Host.Outcome State Fault Refusal :=
  if (s.core k).runs then
    let i := s.coreInstr k
    let trap := if (s.core k).waiting then (s.core k).trap else none
    let s := s.atCore k i
    match (match trap with | some t => Host.Outcome.next (s.takeTrap t) | none => exec i s) with
    | .next s' => .next (s'.afterIssue k i (s.latency k (timing i)) (s.core k) s.cycle)
    | .fault r => .fault r
    | .refused r => .refused r
  else .next s

/-- An actor acts. A strand's instructions come from its core's fetch alone: a unit that acts is a service pair or a Curator. -/
def act (a : Actor) (s : State) : Host.Outcome State Fault Refusal :=
  match a with
  | .core k => stepCore k s
  | .event i => if isEvent i then exec i s else .next s
  | .unit g i => if (encode i).isSome && g != .strand then exec i { s with agent := g } else .next s
  | .host a => .next (s.happens a)

/-- One step: the next turn, unless something is due before it; a turn whose own actor is due is taken when it is due. -/
def step (s : State) : Host.Outcome State Fault Refusal :=
  let t := s.nextTurn
  let n := s.turnCycle t
  match s.due n with
  | some (c, a) =>
    if a = t.actor then act a (s.popTurn.advanceTo c) else act a ((s.shortenTurn (c - s.cycle)).advanceTo c)
  | none => act t.actor (s.popTurn.advanceTo n)

/-- The code capability through which `withFetchWord` has the word fetched. -/
def fetchPcc : CapReg := { img := mkCap fInt32 0 16 pExe 0 0 0, tag := true }

/-- The state with an instruction stored where the next step fetches: the current core runs a strand at offset 0 of a code
capability at address 0, whose line its instruction cache holds, and has the next turn. -/
def State.withFetchWord (s : State) (_nbits w : Nat) : State :=
  let s := s.updCore s.cur fun c =>
    { c with
      mode := .running, preemptReq := false
      strand := { c.strand with pcc := fetchPcc, pc := 0 }
      icache := { tenant := c.strand.tenant, gen := s.gen c.strand.tenant, base := 0, data := BitVec.ofNat 512 (w % 2 ^ 32) } ::
        c.icache }
  { s with schedule := [{ actor := .core s.cur }] }

end Sys2Proof.Machine
end

