-- ==== Sys2Proof/Safety.lean ====
section
/-! DEFINITION. What counts as a safe state, and the words the statements are written in. -/

namespace Sys2Proof.Machine

/-- Strictly rising numbers, none below a bound. -/
def rising : Nat → List Nat → Bool
  | _, [] => true
  | lo, a :: r => decide (lo ≤ a) && rising (a + 1) r

/-- The memory list and the tag list are in their canonical form: places rise, no zero byte is listed, no granule is
listed twice. -/
abbrev State.memOk (s : State) : Prop := Memory.wf s.mem = true ∧ rising 0 s.tags = true

/-- Every held bookmark has a number below the next one to be given. -/
abbrev State.numbered (s : State) : Prop := ∀ h ∈ s.bms, h.id < s.nextId

/-- A strand executes and no FMT prefix is pending. -/
abbrev State.plain (s : State) : Prop := s.agent = .strand ∧ stPP s.strand.status = false

/-- No vector register of the strand is bound as a stream register. -/
abbrev State.unbound (s : State) : Prop := ∀ k : Fin 8, s.strand.bind[k] = none

/-- The strand has no posted store in its queue and no failure to be raised at a drain point. -/
abbrev State.drained (s : State) : Prop := (s.core s.cur).posted = [] ∧ (s.core s.cur).failed = []

/-- The strand after an instruction that left it as u: its pc is past the word. -/
def State.past (s : State) (u : Strand) : State := s.setStrand { u with pc := s.strand.pc + 4 }

/-- The rational value of a finite value without a sticky mark: (-1)^neg × m × 2^e. -/
def Num.rat (n : Num) : ℚ := (if n.neg then -1 else 1) * (n.m : ℚ) * (2 : ℚ) ^ n.e

/-- k is the integer that x rounds to under a mode (03 R89). -/
def roundsTo (mode : Mode) (x : ℚ) (k : Int) : Prop :=
  match mode with
  | .rne => |x - k| ≤ 1 / 2 ∧ (|x - k| = 1 / 2 → k % 2 = 0)
  | .rtz => k = if 0 ≤ x then ⌊x⌋ else ⌈x⌉
  | .rdn => k = ⌊x⌋
  | .rup => k = ⌈x⌉

/-- The exact value x is what n stands for: n itself, or, of a sticky n, a value strictly within its unit. -/
def Num.standsFor (n : Num) (x : ℚ) : Prop :=
  if n.st then (if n.neg then x < 0 else 0 < x) ∧ (n.m : ℚ) * (2 : ℚ) ^ n.e < |x| ∧ |x| < ((n.m : ℚ) + 1) * (2 : ℚ) ^ n.e
  else n.rat = x

/-- Executing i in s changes only the registers of the strand: they become those of u, and the pc moves past the word. -/
abbrev Completes (i : Instr) (s : State) (u : Strand) : Prop := exec i s = .next (s.past u)

/-- Executing i in s raises a cause with a DETAIL: the strand takes the exception. -/
abbrev Traps (i : Instr) (s : State) (cause : BitVec 8) (detail : BitVec 56) : Prop :=
  exec i s = .next (s.takeTrap { cause, detail })

/-- c[a] passes steps 1 to 4 of 04 Table 6 unsealed, names a format, and grants the permissions p (04 R123). -/
abbrev Strand.usable (t : Strand) (a : CReg) (p : BitVec 16) : Prop :=
  (t.getC a).rev = false ∧ (t.getC a).tag = true ∧ (cScp (t.getC a).img = 2 ∨ cOwn (t.getC a).img = t.comp) ∧
  cOty (t.getC a).img = 0 ∧ cFmt (t.getC a).img ≤ 16 ∧ cPrm (t.getC a).img &&& p = p

/-- A scalar access of a size reaches address va through an image: an offset in the first row of axis 0, or the element of that
size at a linear index inside the shape (07 R219 to R221). -/
def opndAt (t : Strand) (c : Vec) (size : Nat) (m : MemOpnd) (va : Nat) : Prop :=
  cFmt c ≠ 14 ∧ ¬ (cFmt c = 11 ∨ cFmt c = 12 ∨ cFmt c = 13) ∧
  match m with
  | .off imm => cStr c 0 = 1 ∧ 0 ≤ imm.toInt ∧ imm.toInt + size ≤ cExt c 0 * Machine.sizeOf (cFmt c) ∧
      va = (cBase c + imm.toNat) % 2 ^ 56
  | .idx r => Machine.sizeOf (cFmt c) = size ∧ (t.getX r).toNat < cExt c 0 * cExt c 1 * cExt c 2 * cExt c 3 ∧
      va = elemAddr c (decompose c (t.getX r).toNat)

/-- The n bytes from va of the executing strand's tenant lie at the places of P, by the window rules (06 R186 to R194). -/
abbrev State.reaches (s : State) (va n : Nat) (nd : Need) (P : Nat → Place) : Prop :=
  ∀ q, q < n → s.placeOf s.ten ((va + q) % 2 ^ 56) nd false va = .ok (P q)

/-- The n bytes from va are near for the executing strand, lie at the places of P and can be read (06 R200, 07 R215). -/
abbrev State.nearAt (s : State) (va n : Nat) (P : Nat → Place) : Prop :=
  (∀ q, q < n → nearAddr s.cur ((va + q) % 2 ^ 56) = true ∧ s.badAt (P q).flat = false) ∧ s.reaches va n needR P

/-- The n bytes from va lie at the places of P, outside the host window, and the cluster TLB holds what they need, so that a
store to them is posted (07 R217). -/
abbrev State.postsAt (s : State) (va n : Nat) (nd : Need) (P : Nat → Place) : Prop :=
  (∀ q, q < n → hostAddr ((va + q) % 2 ^ 56) = false ∧
    (translated ((va + q) % 2 ^ 56) = true → s.tlbHit (s.cur / 8) s.ten ((va + q) % 2 ^ 56) = true)) ∧
  s.reaches va n nd P

/-- The little-endian value of the n bytes at the places of P. -/
def State.valueAt (s : State) (n : Nat) (P : Nat → Place) : Nat :=
  bytesNat ((List.range n).map fun q => memGet s.mem (P q).flat)

/-- The addresses of n bytes from one. -/
def vasFrom (va n : Nat) : List Nat := (List.range n).map fun q => (va + q) % 2 ^ 56

/-- The state after an entry was put into the executing core's posted-store queue and the pc moved past the word; `vas` are the
addresses that the entry has translated, `due` the c-cycle by which its home applies it where R499 gives a bound. -/
def State.posts (s : State) (va : Nat) (op : PostOp) (vas : List Nat := [va]) (due : Nat := 0) : State :=
  ({ s with nextId := s.nextId + 1 }).updCore s.cur fun c =>
    { c with
      posted := c.posted ++ [({ no := s.nextId, va, vas, op, tenant := s.ten, gen := s.gen s.ten, due } : Posted)]
      strand := { c.strand with pc := c.strand.pc + 4 } }

/-- Executing i in s only posts an entry: memory and every register but the pc are as they were (07 R217). -/
abbrev Posts (i : Instr) (s : State) (va : Nat) (op : PostOp) (vas : List Nat := [va]) (due : Nat := 0) : Prop :=
  exec i s = .next (s.posts va op vas due)

/-- c[a] is a CNT capability with KCTR whose cell lies at a place, the cluster TLB holding its translation where it needs one
(08 R266). -/
abbrev State.cellAt (s : State) (a : CReg) (nd : Need) (p : Place) : Prop :=
  let c := (s.strand.getC a).img
  s.strand.usable a 0x0800 ∧ cFmt c = 14 ∧ cBase c % 16 = 0 ∧
  (translated (cBase c) = true → s.tlbHit (s.cur / 8) s.ten (cBase c) = true) ∧
  s.placeOf s.ten (cBase c) nd true (cBase c) = .ok p

/-- No pending waiter and no watch of a cell is satisfied by its VALUE, so that testing them again releases none (08 R263). -/
abbrev State.untouched (s : State) (cell : Nat) : Prop :=
  (∀ w ∈ s.waitersOn cell, satisfied (s.cellVal cell) w.thr = false) ∧
  ∀ w ∈ s.watches, w.cell = cell → satisfied (s.cellVal cell) w.thr = false

/-- Executing i in s answers a next state with the property P. -/
abbrev Happens (i : Instr) (s : State) (P : State → Prop) : Prop := ∃ s', exec i s = .next s' ∧ P s'

/-- The bookmark of a number is in its ready queue with a ready stamp. -/
abbrev State.readied (s : State) (id stamp : Nat) : Prop := ∃ h ∈ s.bms, h.id = id ∧ h.holder = .ready ∧ h.stamp = stamp

/-- Places outside host memory and the L2 whose units can be read and written (06 R200, R208). -/
abbrev State.direct (s : State) (ps : List Place) : Prop :=
  ∀ p ∈ ps, isHostPlace p.flat = false ∧ p.home.sliceNo = none ∧ s.badAt p.flat = false

/-- Executing i in s ends the strand with wait kind FAR where its bookmark finds room: the access is on its way, its destination
register and its address are kept, and memory and the other cores are as they were (07 R216). -/
def EndsFar (i : Instr) (s : State) (va : Nat) (space : BitVec 2) (index : Nat) (dest : BitVec 48) (op : FarOp) : Prop :=
  let t := s.strand
  let k := s.cur
  s.drained → (s.core k).inPhase = false → ∀ r, s.roomFor (k / 8) t.tenant
      ((s.mkBookmark k t.next .far (liveSaved t dest) 0 (farWarg va space index) false).slots) = some r →
    Happens i s fun s' => (s'.core k).mode = .saving ∧ (s'.core k).strand = {} ∧ s'.mem = s.mem ∧ s'.tags = s.tags ∧
      (∀ j, j ≠ k → s'.core j = s.core j) ∧ ∃ h ∈ s'.bms, h.holder = .far va op ∧ h.cluster = k / 8 ∧ h.bm.kind = .far ∧
        h.bm.strand.pc = t.pc + 4 ∧ h.bm.strand.x = t.x ∧ h.bm.warg.toNat % 2 ^ 56 = va % 2 ^ 56 ∧
        h.bm.warg.toNat / 2 ^ 56 = space.toNat * 64 + index % 32 ∧ h.bm.bind = false ∧
        ∀ q, q < 48 → dest.getLsbD q = true → (t.sbound.setWidth 48 <<< 40).getLsbD q = false → h.bm.saved.getLsbD q = true

/-- What an instruction reads as vector register r: the register, or of a bound one the strip at its descriptor's NEXT (07 R234). -/
def State.supplies (s : State) (r : VReg) (x : Vec) : Prop :=
  match s.strand.boundOf r with
  | none => x = s.strand.getV r
  | some e => sdRevoked e = false ∧ sdNext e < sdCount e ∧ ∃ p, ((s.core s.cur).strips.find? fun p =>
      p.owner == 0 && p.reg == r.toNat - 24 && p.pos == sdNext e) = some p ∧ p.data = .ok x

/-- The strand v after an instruction that has read registers a and b of s as vector sources, where with their strips in unbound
registers it leaves the strand u: each bound source's descriptor has moved on by one strip (05 R162, 07 R234). -/
def State.consumed (s : State) (a b : VReg) (u v : Strand) : Prop :=
  let t := s.strand
  { v with v := u.v, bind := u.bind } = { u with pc := t.pc + 4 } ∧
  (∀ r : VReg, v.getV r = if (t.boundOf r).isSome then t.getV r else u.getV r) ∧
  (∀ j : Fin 8, t.bind[j] = none → v.bind[j] = none) ∧
  ∀ (j : Fin 8) (e : Vec), t.bind[j] = some e → ∃ e', v.bind[j] = some e' ∧
    (∀ q, (q < 472 ∨ 504 ≤ q) → e'.getLsbD q = e.getLsbD q) ∧
    sdNext e' = if a.toNat = 24 + j ∨ b.toNat = 24 + j then sdNext e + 1 else sdNext e

/-- s with x and y in the registers a and b and none bound. -/
def State.withStrips (s : State) (a b : VReg) (x y : Vec) : State :=
  s.setStrand { (s.strand.setV a x).setV b y with bind := Vector.replicate 8 none }

/-- Executing i in s ends the strand, which waits for something and executes i again, where its bookmark finds room: memory and the other
cores are as they were (07 R216, R239). -/
def EndsWaiting (i : Instr) (s : State) (kind : WKind) (wcap : BitVec 4) (warg : Word) (holder : Holder) : Prop :=
  let t := s.strand
  let k := s.cur
  s.drained → (s.core k).inPhase = false → ∀ r, s.roomFor (k / 8) t.tenant
      ((s.mkBookmark k t kind (liveSaved t 0) wcap warg false).slots) = some r →
    Happens i s fun s' => (s'.core k).mode = .saving ∧ (s'.core k).strand = {} ∧ s'.mem = s.mem ∧ s'.tags = s.tags ∧
      (∀ j, j ≠ k → s'.core j = s.core j) ∧ ∃ h ∈ s'.bms, h.holder = holder ∧ h.cluster = k / 8 ∧ h.bm.kind = kind ∧
        h.bm.strand.pc = t.pc ∧ h.bm.strand.x = t.x ∧ h.bm.wcap = wcap ∧ h.bm.warg = warg ∧ h.bm.bind = false

/-- The posted-store queue of the executing core has room. -/
abbrev State.queueRoom (s : State) : Prop := (s.core s.cur).posted.length < 32

/-- The instructions that a pending prefix makes raise PREFIX_INVALID whatever it overrides (02 R54): every instruction of
a strand but the consumers of OP-FP and MSUB, the VCVT of MADD, BRK, and those that raise PRIV first. -/
def refusesPrefix (i : Instr) : Bool :=
  (encode i).isSome && match i with
  | .vfadd _ _ _ _ _ => false | .vfsub _ _ _ _ _ => false | .vfmul _ _ _ _ _ => false | .vfma _ _ _ _ _ => false
  | .vfnma _ _ _ _ _ => false | .vfmin _ _ _ _ _ => false | .vfmax _ _ _ _ _ => false | .vfabs _ _ _ _ => false
  | .vfneg _ _ _ _ => false | .vfceq _ _ _ _ _ => false | .vfclt _ _ _ _ _ => false | .vfcle _ _ _ _ _ => false
  | .vexp2 _ _ _ _ => false | .vrcp _ _ _ _ => false | .vrsq _ _ _ _ => false | .vlog2 _ _ _ _ => false
  | .vcvtFp _ _ _ _ => false | .vquant _ _ _ _ _ => false | .vdeq _ _ _ _ _ => false | .vfrsum _ _ _ _ => false
  | .vfrmax _ _ _ _ => false | .vfrmin _ _ _ _ => false | .vcvtInt _ _ _ _ => false
  | .brk => false | .sret => false | .shalt => false | .wake _ => false | .ownset _ _ => false
  | .csrrd _ n => !isServiceCsr n | .csrwr n _ => !isServiceCsr n
  | _ => true

end Sys2Proof.Machine
end

