-- ==== Sys2Proof/Certificates/Slice0/Obligations.lean ====
section
/-! DEFINITION. The statements for the provers, in the order of the spec's files. -/

open Sys2Proof Sys2Proof.Machine

/-- Reset, with the invariants of StepKeepsTheInvariants (the model's own). The Reset columns of 04 Table 15, 06 R188 and R194, 12 R390, R397, R398, R400, R402 and R406, 14 Tables 2, 10 and 11; 04 R113. -/
def Obligations.ResetState : Prop :=
  let s := State.reset
  s.cycle = 0 ∧ s.time = 0 ∧ s.bms = [] ∧ s.cmds = [] ∧ s.faulted = [] ∧ s.jobs = [] ∧ s.weeds = [] ∧ s.sweep = .none ∧
  s.counterOps = [] ∧ s.hostOps = [] ∧ s.tlb = [] ∧ s.l2 = [] ∧ s.tags = [] ∧ s.service.calls = [] ∧
  s.memOk ∧ s.numbered ∧ s.power.plimit = 600 ∧ s.power.step = 0 ∧
  (∀ k, (s.core k).mode = .idle ∧ (s.core k).pmode = 0 ∧ (s.core k).absent = 0 ∧ (s.core k).owner = 0 ∧
    (∀ i, ((s.core k).resid i).v = false) ∧ (∀ n, (s.task k n).v = false) ∧ (s.core k).posted = [] ∧
    (s.core k).icache = [] ∧ (s.core k).inPhase = false) ∧
  (∀ t, (s.tenant t).v = false ∧ s.gen t = 0 ∧ (s.tenant t).nodes = []) ∧
  (∀ n, (s.node n).state = .free ∧ (s.node n).sharers = 0 ∧ (s.node n).lock = false) ∧
  (∀ n, (s.slot n).allot = false ∧ (s.slot n).claimed = false) ∧ (∀ n, (Table.get s.blocks n {}).v = false) ∧
  (∀ f, s.statusWord f = 0 ∧ (s.fn f).tdi = .unlocked ∧ (s.fn f).d3hot = false) ∧
  ∀ p, (s.port p).mode = 0 ∧ (s.port p).enc = true ∧ (s.port p).up = false

/-- The model's own invariants of the state's lists: log 2 for memory and tags, log 3 for the numbers of bookmarks. -/
def Obligations.StepKeepsTheInvariants : Prop :=
  ∀ s s' : State, step s = .next s' → (s.memOk → s'.memOk) ∧ (s.numbered → s'.numbered)

/-- 02 R36 to R53: no bit of an operand is lost by the encoding. -/
def Obligations.EncodeThenDecode : Prop :=
  ∀ (i : Instr) (w : Insn), i.wf = true → encode i = some w → decode w = .ok i

/-- 02 R36: each instruction uses exactly one format, and its fixed fields hold zero. -/
def Obligations.DecodeOnlyEncodings : Prop :=
  ∀ (w : Insn) (i : Instr), decode w = .ok i → i.wf = true ∧ encode i = some w

/-- Words assembled by hand from 02 Tables 1 to 13. -/
def Obligations.DecodeWords : Prop :=
  decode 0x0000B283 = .ok (.ldOffset 5 1 0) ∧ decode 0x006283B3 = .ok (.add 7 5 6) ∧
  decode 0x00100413 = .ok (.addi 8 0 1) ∧ decode 0x0070B823 = .ok (.sdOffset 7 1 16) ∧
  decode 0x00100073 = .ok .brk ∧ decode 0x0062C02B = .ok (.spawn 5 6) ∧ decode 0x4000402B = .ok .yield ∧
  decode 0x0001A4AB = .ok (.kread 9 3) ∧ decode 0xB2407457 = .ok (.vadc .z64 8 0 4 1) ∧
  decode 0x1262918B = .ok (.cslice 3 5 6 1) ∧ decode 0x304B995B = .ok (.xbind false 2 3 9 7) ∧
  decode 0x3020A1D3 = .ok (.vfma .f32 3 1 2 0) ∧ decode 0x207302C7 = .ok (.vdeq .bf16 5 6 7 0) ∧
  (decode 0x00000000).toOption = none ∧ (decode 0xFFFFFFFF).toOption = none

/-- Steps run the decoded instruction; the turns are the model's own (log 1). -/
def Obligations.StepRunsTheDecodedInstruction : Prop :=
  ∀ (s : State),
    let t := s.nextTurn
    let n := s.turnCycle t
    s.due n = none →
    (∀ k i, t.actor = .core k → (s.core k).runs = true →
      let a := (s.popTurn.advanceTo n).atCore k i
      let executes : Prop := step s = match exec i a with
        | .next u => .next (u.afterIssue k i (a.latency k (timing i)) (a.core k) a.cycle)
        | .fault r => .fault r
        | .refused r => .refused r
      (∀ w, (s.core k).waiting = false → ((s.popTurn.advanceTo n).preemptDue k = true → (s.core k).inPhase = true) → s.fetch k = .word w →
        decode w = .ok i → (s.popTurn.advanceTo n).fetch k = .word w ∧ executes) ∧
      ((s.core k).waiting = true → (s.core k).inExec = some i → ((s.core k).trap = none → executes) ∧
        ∀ f, (s.core k).trap = some f →
          step s = .next ((a.takeTrap f).afterIssue k i (a.latency k (timing i)) (a.core k) a.cycle))) ∧
    ∀ i, t.actor = .event i → isEvent i = true → step s = exec i (s.popTurn.advanceTo n)

/-- 02 R58, R60 to R62 and R64. That the conditions are tested in this order is log 27; that a word of two lines has the lead that its
second line was filled with is the model's own way to keep a word whole (R64). -/
def Obligations.FetchReadsTheWordAtPc : Prop :=
  ∀ (s : State) (k : Nat),
    let t := (s.core k).strand
    let c := t.pcc.img
    let va := (cBase c + t.pc.toNat) % 2 ^ 56
    let d := capDetail 16 0 (t.pc.extractLsb' 0 48)
    let form := cFmt c = 3 ∧ cRankm1 c = 0 ∧ cStr c 0 = 1
    let exe := cPrm c &&& 0x0010#16 = 0x0010#16
    (t.pcc.rev = true → s.fetch k = .raised { cause := 0x17, detail := d }) ∧
    (t.pcc.rev = false → t.pcc.tag = false → s.fetch k = .raised { cause := 0x10, detail := d }) ∧
    (t.pcc.rev = false → t.pcc.tag = true →
      (cOty c ≠ 0 → s.fetch k = .raised { cause := 0x13, detail := d }) ∧
      (cOty c = 0 → ¬ form → s.fetch k = .raised { cause := 0x14, detail := d }) ∧
      (cOty c = 0 → form → ¬ exe → s.fetch k = .raised { cause := 0x12, detail := d }) ∧
      (cOty c = 0 → form → exe →
        (¬ (t.pc.toNat % 4 = 0 ∧ t.pc.toNat + 4 ≤ 4 * cExt c 0) → s.fetch k = .raised { cause := 0x11, detail := d }) ∧
        (t.pc.toNat % 4 = 0 → t.pc.toNat + 4 ≤ 4 * cExt c 0 →
          (s.cached k t.tenant (va / 64) = none → s.fetch k = .miss (va / 64)) ∧
          ∀ l, s.cached k t.tenant (va / 64) = some l →
            (va % 64 ≤ 60 → s.fetch k = .word (l.data.extractLsb' (8 * (va % 64)) 32)) ∧
            (60 < va % 64 →
              (s.cached k t.tenant ((va + 3) / 64) = none → s.fetch k = .miss ((va + 3) / 64)) ∧
              ∀ m, s.cached k t.tenant ((va + 3) / 64) = some m →
                (m.lead = none → s.fetch k = .miss (va / 64)) ∧
                ∀ b, m.lead = some b → ∃ w, s.fetch k = .word w ∧ ∀ i, i < 32 → w.getLsbD i =
                  let j := 8 * (va % 64 - 61) + i
                  if j < 24 then b.getLsbD j else m.data.getLsbD (j - 24)))))

/-- 04 R111: x0 reads as zero and a write to it is discarded; a write of another register changes it alone. -/
def Obligations.ZeroRegister : Prop :=
  ∀ (t : Strand) (r q : XReg) (v : Word),
    t.getX 0 = 0 ∧ t.setX 0 v = t ∧ (r ≠ 0 → (t.setX r v).getX r = v) ∧ (q ≠ r → (t.setX r v).getX q = t.getX q)

/-- 04 R137: the sums wrap modulo 2^64; the bitwise operations act on every bit, an immediate sign-extended. -/
def Obligations.SumsAndLogic : Prop :=
  ∀ (s : State) (d a b : XReg) (imm : BitVec 12), s.plain →
    let t := s.strand
    let x := t.getX a
    let y := t.getX b
    Completes (.addi d a imm) s (t.setX d (BitVec.ofInt 64 (x.toInt + imm.toInt))) ∧
    Completes (.add d a b) s (t.setX d (BitVec.ofNat 64 (x.toNat + y.toNat))) ∧
    Completes (.sub d a b) s (t.setX d (BitVec.ofInt 64 (x.toInt - y.toInt))) ∧
    (∃ r : Word, Completes (.xori d a imm) s (t.setX d r) ∧
      ∀ i, i < 64 → r.getLsbD i = (x.getLsbD i != if i < 12 then imm.getLsbD i else imm.getLsbD 11)) ∧
    (∃ r : Word, Completes (.ori d a imm) s (t.setX d r) ∧
      ∀ i, i < 64 → r.getLsbD i = (x.getLsbD i || if i < 12 then imm.getLsbD i else imm.getLsbD 11)) ∧
    (∃ r : Word, Completes (.andi d a imm) s (t.setX d r) ∧
      ∀ i, i < 64 → r.getLsbD i = (x.getLsbD i && if i < 12 then imm.getLsbD i else imm.getLsbD 11)) ∧
    (∃ r : Word, Completes (.xor d a b) s (t.setX d r) ∧ ∀ i, i < 64 → r.getLsbD i = (x.getLsbD i != y.getLsbD i)) ∧
    (∃ r : Word, Completes (.or d a b) s (t.setX d r) ∧ ∀ i, i < 64 → r.getLsbD i = (x.getLsbD i || y.getLsbD i)) ∧
    (∃ r : Word, Completes (.and d a b) s (t.setX d r) ∧ ∀ i, i < 64 → r.getLsbD i = (x.getLsbD i && y.getLsbD i))

/-- 04 R137, Table 9: shifts as products and quotients by powers of two, comparisons and extrema on the values, counts by the
bits they count, LUI and AUIPC. -/
def Obligations.ShiftsComparesCounts : Prop :=
  ∀ (s : State) (d a b : XReg) (imm : BitVec 12) (sh : BitVec 6) (u : BitVec 20), s.plain →
    let t := s.strand
    let x := t.getX a
    let y := t.getX b
    let n := y.toNat % 64
    Completes (.slli d a sh) s (t.setX d (BitVec.ofNat 64 (x.toNat * 2 ^ sh.toNat))) ∧
    Completes (.srli d a sh) s (t.setX d (BitVec.ofNat 64 (x.toNat / 2 ^ sh.toNat))) ∧
    Completes (.srai d a sh) s (t.setX d (BitVec.ofInt 64 (x.toInt / (2 ^ sh.toNat : Nat)))) ∧
    Completes (.sll d a b) s (t.setX d (BitVec.ofNat 64 (x.toNat * 2 ^ n))) ∧
    Completes (.srl d a b) s (t.setX d (BitVec.ofNat 64 (x.toNat / 2 ^ n))) ∧
    Completes (.sra d a b) s (t.setX d (BitVec.ofInt 64 (x.toInt / (2 ^ n : Nat)))) ∧
    Completes (.slti d a imm) s (t.setX d (if x.toInt < imm.toInt then 1 else 0)) ∧
    Completes (.sltiu d a imm) s (t.setX d (if x.toNat < (BitVec.ofInt 64 imm.toInt).toNat then 1 else 0)) ∧
    Completes (.slt d a b) s (t.setX d (if x.toInt < y.toInt then 1 else 0)) ∧
    Completes (.sltu d a b) s (t.setX d (if x.toNat < y.toNat then 1 else 0)) ∧
    Completes (.min d a b) s (t.setX d (BitVec.ofInt 64 (min x.toInt y.toInt))) ∧
    Completes (.minu d a b) s (t.setX d (BitVec.ofNat 64 (min x.toNat y.toNat))) ∧
    Completes (.max d a b) s (t.setX d (BitVec.ofInt 64 (max x.toInt y.toInt))) ∧
    Completes (.maxu d a b) s (t.setX d (BitVec.ofNat 64 (max x.toNat y.toNat))) ∧
    (∃ c, c ≤ 64 ∧ Completes (.clz d a) s (t.setX d (BitVec.ofNat 64 c)) ∧ x.toNat < 2 ^ (64 - c) ∧
      (c < 64 → 2 ^ (63 - c) ≤ x.toNat)) ∧
    (∃ c, c ≤ 64 ∧ Completes (.ctz d a) s (t.setX d (BitVec.ofNat 64 c)) ∧ (∀ i, i < c → x.getLsbD i = false) ∧
      (c < 64 → x.getLsbD c = true)) ∧
    Completes (.cpop d a) s (t.setX d (BitVec.ofNat 64 ((List.range 64).countP fun i => x.getLsbD i))) ∧
    Completes (.lui d u) s (t.setX d (BitVec.ofInt 64 (u.toInt * 4096))) ∧
    Completes (.auipc d u) s (t.setX d (t.pc + BitVec.ofInt 64 (u.toInt * 4096)))

/-- 04 R137: the halves of the exact products, and the quotients and remainders of a divisor that is not zero. -/
def Obligations.ProductsAndQuotients : Prop :=
  ∀ (s : State) (d a b : XReg), s.plain →
    let t := s.strand
    let x := t.getX a
    let y := t.getX b
    Completes (.mul d a b) s (t.setX d (BitVec.ofInt 64 (x.toInt * y.toInt))) ∧
    Completes (.mulh d a b) s (t.setX d (BitVec.ofInt 64 (x.toInt * y.toInt / 2 ^ 64))) ∧
    Completes (.mulhsu d a b) s (t.setX d (BitVec.ofInt 64 (x.toInt * (y.toNat : Int) / 2 ^ 64))) ∧
    Completes (.mulhu d a b) s (t.setX d (BitVec.ofNat 64 (x.toNat * y.toNat / 2 ^ 64))) ∧
    (y ≠ 0 →
      Completes (.div d a b) s (t.setX d (BitVec.ofInt 64 (x.toInt.tdiv y.toInt))) ∧
      Completes (.divu d a b) s (t.setX d (BitVec.ofNat 64 (x.toNat / y.toNat))) ∧
      Completes (.rem d a b) s (t.setX d (BitVec.ofInt 64 (x.toInt.tmod y.toInt))) ∧
      Completes (.remu d a b) s (t.setX d (BitVec.ofNat 64 (x.toNat % y.toNat))))

/-- 04 R138, Table 10. -/
def Obligations.DivisionBoundaries : Prop :=
  ∀ (s : State) (d a b : XReg), s.plain →
    let t := s.strand
    let x := t.getX a
    (t.getX b = 0 →
      Completes (.div d a b) s (t.setX d (-1)) ∧ Completes (.divu d a b) s (t.setX d 0xFFFFFFFFFFFFFFFF#64) ∧
      Completes (.rem d a b) s (t.setX d x) ∧ Completes (.remu d a b) s (t.setX d x)) ∧
    (x = 0x8000000000000000#64 → t.getX b = -1 →
      Completes (.div d a b) s (t.setX d 0x8000000000000000#64) ∧ Completes (.rem d a b) s (t.setX d 0) ∧
      Completes (.divu d a b) s (t.setX d 0) ∧ Completes (.remu d a b) s (t.setX d x)) ∧
    (∃ q, Completes (.div d a b) s (t.setX d q)) ∧ (∃ q, Completes (.divu d a b) s (t.setX d q)) ∧
    (∃ q, Completes (.rem d a b) s (t.setX d q)) ∧ (∃ q, Completes (.remu d a b) s (t.setX d q))

/-- 04 R139, R140 and 02 R59. `goes` says what a transfer to a target does: it makes the strand u at the target, or raises the
cause of the first condition of R58 that fails, with operand 16 for the code capability (R123). That the form is tested before EXE, and
the order of the conditions, are the model's reading (log 27). -/
def Obligations.BranchesAndJumps : Prop :=
  ∀ (s : State) (d a b : XReg) (off : BitVec 11) (joff : BitVec 19) (imm : BitVec 12), s.plain →
    let t := s.strand
    let x := t.getX a
    let y := t.getX b
    let p := t.pcc
    let goes (i : Instr) (target : Word) (u : Strand) : Prop :=
      let det := capDetail opPcc 0 (target.extractLsb' 0 48)
      if p.tag = false then Traps i s cTag det
      else if cOty p.img ≠ 0 then Traps i s cSealed det
      else if ¬ (cFmt p.img = 3 ∧ cRankm1 p.img = 0 ∧ cStr p.img 0 = 1) then Traps i s cFormat det
      else if (cPrm p.img).getLsbD 4 = false then Traps i s cPerm det
      else if ¬ (target.toNat % 4 = 0 ∧ target.toNat + 4 ≤ 4 * cExt p.img 0) then Traps i s cBounds det
      else exec i s = .next (s.setStrand { u with pc := target })
    let branch (i : Instr) (taken : Prop) : Prop :=
      (taken → goes i (t.pc + BitVec.ofInt 64 (4 * off.toInt)) t) ∧ (¬ taken → Completes i s t)
    branch (.beq a b off) (x = y) ∧ branch (.bne a b off) (x ≠ y) ∧
    branch (.blt a b off) (x.toInt < y.toInt) ∧ branch (.bge a b off) (y.toInt ≤ x.toInt) ∧
    branch (.bltu a b off) (x.toNat < y.toNat) ∧ branch (.bgeu a b off) (y.toNat ≤ x.toNat) ∧
    goes (.jal d joff) (t.pc + BitVec.ofInt 64 (4 * joff.toInt)) (t.setX d (t.pc + 4)) ∧
    goes (.jalr d a imm) ((x + BitVec.ofInt 64 imm.toInt) &&& ~~~1#64) (t.setX d (t.pc + 4))

/-- 04 R125, Table 7: the fields of R115 read as numbers, without a check. -/
def Obligations.CapabilityReads : Prop :=
  ∀ (s : State) (d : XReg) (cd a : CReg) (axis : BitVec 2) (w : BitVec 1), s.plain →
    let t := s.strand
    let c := t.getC a
    let n := c.img.toNat
    Completes (.cgetb d a) s (t.setX d (BitVec.ofNat 64 (n % 2 ^ 56))) ∧
    Completes (.cgetx d a axis) s (t.setX d (BitVec.ofNat 64 (n / 2 ^ (64 + 32 * axis.toNat) % 2 ^ 32))) ∧
    Completes (.cgets d a axis) s (t.setX d ((BitVec.ofNat 48 (n / 2 ^ (192 + 48 * axis.toNat))).signExtend 64)) ∧
    Completes (.cgetf d a w) s (t.setX d (BitVec.ofNat 64 (n / 2 ^ (8 * (if w = 0 then 48 else 56))))) ∧
    Completes (.ctag d a) s (t.setX d (if c.tag = true ∧ c.rev = false then 1 else 0)) ∧
    Completes (.cmov cd a) s (t.setC cd c)

/-- 04 R126 to R129 with the check order of R123. `ok` says what follows for an operand that passes steps 1 to 4. -/
def Obligations.CapabilityDerivations : Prop :=
  ∀ (s : State) (d : CReg) (xd a b : XReg) (axis : BitVec 2), s.plain →
    let t := s.strand
    let c := (t.getC d).img
    let x := (t.getX a).toNat
    let y := (t.getX b).toNat
    let k := axis.toNat
    let checked (i : Instr) (ok : Prop) : Prop :=
      if (t.getC d).rev = true then Traps i s cRevoked (capDetail (opC d))
      else if (t.getC d).tag = false then Traps i s cTag (capDetail (opC d))
      else if cScp c ≠ 2 ∧ cOwn c ≠ t.comp then Traps i s cScope (capDetail (opC d))
      else if cOty c ≠ 0 then Traps i s cSealed (capDetail (opC d))
      else ok
    let writes (i : Instr) (p : Vec → Prop) : Prop := ∃ img, Completes i s (t.setC d { img, tag := true }) ∧ p img
    let group := cFmt c = 11 ∨ cFmt c = 12 ∨ cFmt c = 13
    let moved (img : Vec) : Prop := (cBase img : Int) = if group
      then (cBase c + x * cStr c k / 32 * (if cFmt c = 12 then 12 else 16)) % 2 ^ 56
      else (cBase c + x * cStr c k * (Machine.sizeOf (cFmt c) : Nat)) % 2 ^ 56
    checked (.cidx xd d a)
      (if x < cExt c 0 * cExt c 1 * cExt c 2 * cExt c 3 then
        Completes (.cidx xd d a) s (t.setX xd (BitVec.ofNat 64 (elemAddr c
          (x % cExt c 0, x / cExt c 0 % cExt c 1, x / cExt c 0 / cExt c 1 % cExt c 2,
            x / cExt c 0 / cExt c 1 / cExt c 2 % cExt c 3))))
      else Traps (.cidx xd d a) s cBounds (capDetail (opC d) 0 ((t.getX a).extractLsb' 0 48))) ∧
    checked (.cslice d a b axis)
      (if cRankm1 c < k ∨ y = 0 ∨ cExt c k < x + y then Traps (.cslice d a b axis) s cWiden (capDetail (opC d) axis)
      else if group ∧ (x * cStr c k % 32 ≠ 0 ∨ (k = 0 ∧ y % 32 ≠ 0)) then
        Traps (.cslice d a b axis) s cFormat (capDetail (opC d) axis)
      else writes (.cslice d a b axis) fun img => moved img ∧
        (∀ j, j < 4 → cExt img j = if j = k then y else cExt c j) ∧
        ∀ i, 192 ≤ i ∨ (56 ≤ i ∧ i < 64) → img.getLsbD i = c.getLsbD i) ∧
    checked (.cnarrow d a axis)
      (if cRankm1 c < k ∨ cExt c k ≤ x then Traps (.cnarrow d a axis) s cWiden (capDetail (opC d) axis)
      else if group ∧ (k = 0 ∨ x * cStr c k % 32 ≠ 0) then Traps (.cnarrow d a axis) s cFormat (capDetail (opC d) axis)
      else writes (.cnarrow d a axis) fun img => moved img ∧ cRankm1 img = cRankm1 c - 1 ∧
        (∀ j, j < 4 → cExt img j =
          if cRankm1 c = 0 then (if j = 0 then 1 else cExt c j)
          else if j < k then cExt c j else if j < 3 then cExt c (j + 1) else 1) ∧
        (∀ j, j < 4 → cStr img j =
          if cRankm1 c = 0 ∨ j < k then cStr c j else if j < 3 then cStr c (j + 1) else 0) ∧
        ∀ i, (394 ≤ i ∨ (56 ≤ i ∧ i < 64) ∨ (384 ≤ i ∧ i < 392)) → img.getLsbD i = c.getLsbD i) ∧
    checked (.cperm d a)
      (writes (.cperm d a) fun img =>
        cPrm img = cPrm c &&& (BitVec.ofNat 16 (x % 2 ^ 14)) ∧
        (cScp img).toNat = (if x / 2 ^ 16 % 4 = 3 then (cScp c).toNat else min (cScp c).toNat (x / 2 ^ 16 % 4)) ∧
        ∀ i, (i < 394 ∨ (396 ≤ i ∧ i < 400) ∨ 416 ≤ i) → img.getLsbD i = c.getLsbD i)

/-- 04 R130 and R131. `covers ty`: the object type lies in the key's range and below the part's own types. -/
def Obligations.SealingAndUnsealing : Prop :=
  ∀ (s : State) (d b : CReg) (a : XReg), s.plain →
    let t := s.strand
    let k := (t.getC b).img
    let c := (t.getC d).img
    let held (r : CReg) : Prop := (t.getC r).rev = false ∧ (t.getC r).tag = true ∧
      (cScp (t.getC r).img = 2 ∨ cOwn (t.getC r).img = t.comp)
    let key (bit : Nat) : Prop := held b ∧ cOty k = 0 ∧ cFmt k = 0 ∧ cRankm1 k = 0 ∧ (cPrm k).getLsbD bit = true
    let covers (ty : Nat) : Prop := ty ≠ 0 ∧ ty < 0xFFF0 ∧ cBase k ≤ ty ∧ ty < cBase k + cExt k 0
    let writes (i : Instr) (ty : Nat) : Prop := ∃ img, Completes i s (t.setC d { img, tag := true }) ∧
      (cOty img).toNat = ty ∧ ∀ j, (j < 416 ∨ 432 ≤ j) → img.getLsbD j = c.getLsbD j
    (key 5 → held d →
      (cOty c ≠ 0 → Traps (.cwrap d b a) s cSealed (capDetail (opC d))) ∧
      (cOty c = 0 → covers (t.getX a).toNat → writes (.cwrap d b a) (t.getX a).toNat) ∧
      (cOty c = 0 → ¬ covers (t.getX a).toNat → Traps (.cwrap d b a) s cPerm (capDetail (opC b)))) ∧
    (key 6 → held d →
      (cOty c = 0 → Traps (.cunwrap d b) s cSealed (capDetail (opC d))) ∧
      (covers (cOty c).toNat → writes (.cunwrap d b) 0) ∧
      (cOty c ≠ 0 → ¬ covers (cOty c).toNat → Traps (.cunwrap d b) s cPerm (capDetail (opC b))))

/-- 04 R132 to R134. That CCALL writes c13 with the revoked mark of c15 is the model's choice (log 72). -/
def Obligations.CompartmentCallAndReturn : Prop :=
  (∀ (s : State) (ca cb : CReg), s.plain →
    let t := s.strand
    let a := (t.getC ca).img
    let b := (t.getC cb).img
    let held (r : CReg) : Prop := (t.getC r).rev = false ∧ (t.getC r).tag = true ∧
      (cScp (t.getC r).img = 2 ∨ cOwn (t.getC r).img = t.comp)
    held ca → held cb → 1 ≤ (cOty a).toNat → (cOty a).toNat ≤ 0xFFEF → cOty b = cOty a →
    cFmt a = 3 → cRankm1 a = 0 → cStr a 0 = 1 → 1 ≤ cExt a 0 → (cPrm a).getLsbD 4 = true → (cPrm a).getLsbD 7 = true →
    cFmt b ≤ 16 → (cPrm b).getLsbD 7 = true → ((t.getC 15).tag = true → cOty (t.getC 15).img = 0) →
    ∃ u, exec (.ccall ca cb) s = .next (s.setStrand u) ∧
      u.pc = 0 ∧ u.pcc = { img := setOty a 0, tag := true } ∧ stComp u.status = cOwn a ∧
      (∀ i, i < 38 ∨ 54 ≤ i → u.status.getLsbD i = t.status.getLsbD i) ∧
      (∀ r : CReg, r.toNat < 8 → u.getC r = t.getC r) ∧
      (∀ r : CReg, 8 ≤ r.toNat → r.toNat ≤ 12 → u.getC r = nullCap) ∧
      u.getC 13 = (if (t.getC 15).tag = true then { t.getC 15 with img := setOty (t.getC 15).img 0xFFFE } else t.getC 15) ∧
      u.getC 14 = { t.pcc with img := setOty (setStr t.pcc.img 1 (t.pc + 4).toInt) 0xFFFF } ∧
      u.getC 15 = { img := setOty b 0, tag := true } ∧
      { u with pc := t.pc, pcc := t.pcc, status := t.status, c := t.c } = t) ∧
  (∀ (s : State), s.plain →
    let t := s.strand
    let e := t.getC 14
    let d := t.getC 13
    let target : Word := BitVec.ofInt 64 (cStr e.img 1)
    (e.rev = false → e.tag = false → Traps .cret s cTag (capDetail (opC 14))) ∧
    (e.rev = false → e.tag = true → cOty e.img ≠ 0xFFFF → Traps .cret s cSealed (capDetail (opC 14))) ∧
    (e.rev = false → e.tag = true → cOty e.img = 0xFFFF → d.rev = false → (d.tag = true → cOty d.img = 0xFFFE) →
      cFmt e.img = 3 → cRankm1 e.img = 0 → cStr e.img 0 = 1 → (cPrm e.img).getLsbD 4 = true →
      target.toNat % 4 = 0 → target.toNat + 4 ≤ 4 * cExt e.img 0 →
      ∃ u, exec .cret s = .next (s.setStrand u) ∧
        u.pc = target ∧ u.pcc = { img := setStr (setOty e.img 0) 1 0, tag := true } ∧ stComp u.status = cOwn e.img ∧
        (∀ i, i < 38 ∨ 54 ≤ i → u.status.getLsbD i = t.status.getLsbD i) ∧
        (∀ r : CReg, r.toNat < 8 → u.getC r = t.getC r) ∧
        (∀ r : CReg, 8 ≤ r.toNat → r.toNat ≤ 14 → u.getC r = nullCap) ∧
        u.getC 15 = (if d.tag = true then { d with img := setOty d.img 0 } else nullCap) ∧
        { u with pc := t.pc, pcc := t.pcc, status := t.status, c := t.c } = t))

/-- 05 R164, Table 3, with the lanes of R155 and the governing predicate of R159. 05 R164, the comparisons, with the predicate bits of R156
and R159. 05 R162 and 07 R234: with bound sources each vector instruction does what it does of the strips in unbound registers, and the
descriptor of each bound source moves on by one strip. That a revoked stream raises its cause with operand 31 is log 29, and that va, the
first source field, decides the wait or the fault is log 91. -/
def Obligations.VectorIntegerLanes : Prop :=
  (∀ (s : State) (et : IntEt) (d a b : VReg) (pg : PReg), s.plain → s.unbound →
    let t := s.strand
    let w := etBits et
    let n := 512 / w
    let act (j : Nat) : Prop := pg = 0 ∨ (t.getP pg).getLsbD (w / 8 * j) = true
    let A (j : Nat) : Nat := elemAt w (t.getV a) j
    let B (j : Nat) : Nat := elemAt w (t.getV b) j
    let val (x : Nat) : Int := if etSigned et then (BitVec.ofNat w x).toInt else (x : Int)
    let wrap (x : Int) : Nat := (x % (2 ^ w : Nat)).toNat
    let lanes (i : Instr) (f : Nat → Nat) : Prop := ∃ r, Completes i s (t.setV d r) ∧
      ∀ j, j < n → (act j → elemAt w r j = f j) ∧ (¬ act j → elemAt w r j = elemAt w (t.getV d) j)
    lanes (.vadd et d a b pg) (fun j => (A j + B j) % 2 ^ w) ∧
    lanes (.vsub et d a b pg) (fun j => (2 ^ w + A j - B j) % 2 ^ w) ∧
    lanes (.vmul et d a b pg) (fun j => A j * B j % 2 ^ w) ∧
    lanes (.vmulh et d a b pg) (fun j => wrap (val (A j) * val (B j) / (2 ^ w : Nat))) ∧
    lanes (.vmin et d a b pg) (fun j => wrap (min (val (A j)) (val (B j)))) ∧
    lanes (.vmax et d a b pg) (fun j => wrap (max (val (A j)) (val (B j)))) ∧
    lanes (.vand et d a b pg) (fun j => A j &&& B j) ∧
    lanes (.vor et d a b pg) (fun j => A j ||| B j) ∧
    lanes (.vxor et d a b pg) (fun j => A j ^^^ B j) ∧
    lanes (.vsll et d a b pg) (fun j => A j * 2 ^ (B j % w) % 2 ^ w) ∧
    lanes (.vsr et d a b pg) (fun j => wrap (val (A j) / (2 ^ (B j % w) : Nat))) ∧
    lanes (.vabs et d a pg) (fun j => wrap (val (A j)).natAbs)) ∧
  (∀ (s : State) (et : IntEt) (d : PReg) (a b : VReg) (pg : PReg), s.plain → s.unbound →
    let t := s.strand
    let w := etBits et
    let n := 512 / w
    let act (j : Nat) : Prop := pg = 0 ∨ (t.getP pg).getLsbD (w / 8 * j) = true
    let A (j : Nat) : Nat := elemAt w (t.getV a) j
    let B (j : Nat) : Nat := elemAt w (t.getV b) j
    let val (x : Nat) : Int := if etSigned et then (BitVec.ofNat w x).toInt else (x : Int)
    let bits (i : Instr) (test : Int → Int → Prop) : Prop := ∃ r, Completes i s (t.setP d r) ∧
      (∀ j, j < n → (r.getLsbD (w / 8 * j) = true ↔ act j ∧ test (val (A j)) (val (B j)))) ∧
      ∀ q, q % (w / 8) ≠ 0 → r.getLsbD q = false
    bits (.vceq et d a b pg) (fun x y => x = y) ∧ bits (.vclt et d a b pg) (fun x y => x < y) ∧
    bits (.vcle et d a b pg) (fun x y => x ≤ y) ∧ bits (.vcne et d a b pg) (fun x y => x ≠ y)) ∧
  (∀ (s : State) (ew : Ew) (d a b : VReg) (c : CReg) (x : XReg) (pg : PReg) (i : Instr), s.plain → s.strand.boundOf d = none →
    (i = .vstg ew a c b pg ∨ b = a ∧ i ∈ [.vst ew a c x pg, .vstsA1 ew a c x pg, .vstsA2 ew a c x pg, .vstsA3 ew a c x pg,
      .vldg ew d c a pg, .exsnd a x]) →
    ∀ y z u, s.supplies a y → s.supplies b z → exec i (s.withStrips a b y z) = .next u → (u.core s.cur).mode = .running →
      (u.core s.cur).waiting = false → u.strand.pc = s.strand.pc + 4 → Happens i s fun s' =>
        s'.mem = u.mem ∧ s'.tags = u.tags ∧ s'.flights = u.flights ∧ (∀ j, (s'.core j).posted = (u.core j).posted) ∧
        s.consumed a b u.strand s'.strand) ∧
  ∀ (s : State) (et : IntEt) (ft : FpEt) (d a b : VReg) (x y : XReg) (pd pg : PReg) (i : Instr), s.plain → s.strand.boundOf d = none →
    (i ∈ [.vadd et d a b pg, .vsub et d a b pg, .vmul et d a b pg, .vmulh et d a b pg, .vmin et d a b pg, .vmax et d a b pg,
        .vand et d a b pg, .vor et d a b pg, .vxor et d a b pg, .vsll et d a b pg, .vsr et d a b pg, .vsel et d a b pg,
        .vperm et d a b pg, .vceq et pd a b pg, .vclt et pd a b pg, .vcle et pd a b pg, .vcne et pd a b pg, .vadc et d a b pg,
        .vsbc et d a b pg, .vfadd ft d a b pg, .vfsub ft d a b pg, .vfmul ft d a b pg, .vfma ft d a b pg, .vfnma ft d a b pg,
        .vfmin ft d a b pg, .vfmax ft d a b pg, .vfceq ft pd a b pg, .vfclt ft pd a b pg, .vfcle ft pd a b pg,
        .vquant ft d a b pg, .vdeq ft d a b pg] ∨
      i = .vmuladc et d a b pg ∧ s.strand.boundOf (d + 1) = none ∨
      b = a ∧ i ∈ [.vabs et d a pg, .vradd et d a pg, .vrmin et d a pg, .vrmax et d a pg, .vext et x a y, .vfabs ft d a pg,
        .vfneg ft d a pg, .vexp2 ft d a pg, .vrcp ft d a pg, .vrsq ft d a pg, .vlog2 ft d a pg, .vfrsum ft d a pg,
        .vfrmax ft d a pg, .vfrmin ft d a pg, .vcvtInt et d a pg, .vcvtFp ft d a pg]) →
    let t := s.strand
    (∀ y z u, s.supplies a y → s.supplies b z → Completes i (s.withStrips a b y z) u → Happens i s fun s' =>
        s'.mem = s.mem ∧ s'.tags = s.tags ∧ s'.bms = s.bms ∧ (∀ j, j ≠ s.cur → s'.core j = s.core j) ∧
        s.consumed a b u s'.strand) ∧
    ∀ e, t.boundOf a = some e →
      (sdRevoked e = true → Traps i s 0x17 (capDetail 31)) ∧
      (sdRevoked e = false → sdCount e ≤ sdNext e → Traps i s 0x32 (BitVec.ofNat 56 (a.toNat - 24))) ∧
      (sdRevoked e = false → sdNext e < sdCount e →
        let found := (s.core s.cur).strips.find? fun p => p.owner == 0 && p.reg == a.toNat - 24 && p.pos == sdNext e
        (∀ p cause detail, found = some p → p.data = .marked cause detail → Traps i s cause detail) ∧
        (found = none → s.drained → (s.core s.cur).inPhase = false → ∀ r, s.roomFor (s.cur / 8) t.tenant
            ((s.mkBookmark s.cur t .stream (liveSaved t 0) 0 (w64 (a.toNat - 24)) true).slots) = some r →
          Happens i s fun s' => (s'.core s.cur).mode = .saving ∧ s'.mem = s.mem ∧ ∃ h ∈ s'.bms,
            h.holder = .stream (a.toNat - 24) ∧ h.bm.kind = .stream ∧ h.bm.strand.pc = t.pc ∧ h.bm.bind = true ∧
            h.bm.strand.bind = t.bind ∧ h.bm.lcore = s.cur))

/-- 05 R165. -/
def Obligations.VectorSelect : Prop :=
  ∀ (s : State) (et : IntEt) (d a b : VReg) (pg : PReg),
    encode (.vsel et d a b pg) = some (0#4 ++ pg ++ b ++ a ++ et.code ++ d ++ 0x43#7) ∧
    (s.plain → s.unbound →
      let t := s.strand
      let w := etBits et
      ∃ r, Completes (.vsel et d a b pg) s (t.setV d r) ∧ ∀ j, j < 512 / w →
        elemAt w r j = if (t.getP pg).getLsbD (w / 8 * j) = true then elemAt w (t.getV a) j else elemAt w (t.getV b) j)

/-- 05 R166, R167 and R168. -/
def Obligations.VectorElementMoves : Prop :=
  (∀ (et : IntEt) (d a b : VReg) (x y : XReg) (pg : PReg),
    encode (.vperm et d a b pg) = some (1#4 ++ pg ++ b ++ a ++ et.code ++ d ++ 0x43#7) ∧
    encode (.vbcast et d x pg) = some (2#4 ++ pg ++ 0#5 ++ x ++ et.code ++ d ++ 0x43#7) ∧
    encode (.vext et x a y) = some (10#4 ++ 0#3 ++ y ++ a ++ et.code ++ x ++ 0x43#7) ∧
    (b ≠ 0 → ∀ i, decode (2#4 ++ pg ++ b ++ x ++ et.code ++ d ++ 0x43#7) ≠ .ok i) ∧
    (pg ≠ 0 → ∀ i, decode (10#4 ++ pg ++ y ++ a ++ et.code ++ x ++ 0x43#7) ≠ .ok i)) ∧
  ∀ (s : State) (et : IntEt) (d a b : VReg) (x y : XReg) (pg : PReg), s.plain → s.unbound →
    let t := s.strand
    let w := etBits et
    let n := 512 / w
    let act (j : Nat) : Prop := pg = 0 ∨ (t.getP pg).getLsbD (w / 8 * j) = true
    let A (j : Nat) : Nat := elemAt w (t.getV a) j
    let B (j : Nat) : Nat := elemAt w (t.getV b) j
    let val (x : Nat) : Int := if etSigned et then (BitVec.ofNat w x).toInt else (x : Int)
    let lanes (i : Instr) (f : Nat → Nat) : Prop := ∃ r, Completes i s (t.setV d r) ∧
      ∀ j, j < n → (act j → elemAt w r j = f j) ∧ (¬ act j → elemAt w r j = elemAt w (t.getV d) j)
    lanes (.vperm et d a b pg) (fun j => if B j < n then A (B j) else 0) ∧
    lanes (.vbcast et d x pg) (fun _ => (t.getX x).toNat % 2 ^ w) ∧
    Completes (.vext et x a y) s (t.setX x
      (if n ≤ (t.getX y).toNat then 0 else BitVec.ofInt 64 (val (A (t.getX y).toNat))))

/-- 05 R169 and R170. `carries` says what the carry predicate becomes. -/
def Obligations.CarryChains : Prop :=
  ∀ (s : State) (et : IntEt) (d a b : VReg) (pg : PReg), s.plain → s.unbound →
    let t := s.strand
    let w := etBits et
    let n := 512 / w
    let A (j : Nat) : Nat := elemAt w (t.getV a) j
    let B (j : Nat) : Nat := elemAt w (t.getV b) j
    let c (j : Nat) : Nat := if (t.getP pg).getLsbD (w / 8 * j) = true then 1 else 0
    let prod (j : Nat) : Nat := A j * B j + elemAt w (t.getV d) j + elemAt w (t.getV (d + 1)) j + c j
    let carries (p : Word) (out : Nat → Prop) : Prop :=
      (∀ j, j < n → (p.getLsbD (w / 8 * j) = true ↔ out j)) ∧ ∀ q, q % (w / 8) ≠ 0 → p.getLsbD q = false
    (∃ r p, Completes (.vadc et d a b pg) s ((t.setV d r).setP pg p) ∧
      (∀ j, j < n → elemAt w r j = (A j + B j + c j) % 2 ^ w) ∧ carries p fun j => 2 ^ w ≤ A j + B j + c j) ∧
    (∃ r p, Completes (.vsbc et d a b pg) s ((t.setV d r).setP pg p) ∧
      (∀ j, j < n → (elemAt w r j : Int) = ((A j : Int) - B j - c j) % (2 ^ w : Nat)) ∧ carries p fun j => A j < B j + c j) ∧
    (∃ lo hi p, Completes (.vmuladc et d a b pg) s (((t.setV d lo).setV (d + 1) hi).setP pg p) ∧
      (∀ j, j < n → elemAt w lo j = prod j % 2 ^ w ∧ elemAt w hi j = prod j / 2 ^ w % 2 ^ w) ∧
      carries p fun j => 2 ^ (2 * w) ≤ prod j)

/-- 05 R176 with the tree of 03 R108, whose root for these exact operations is the sum, the least or the greatest of the
active elements. -/
def Obligations.IntegerReductions : Prop :=
  ∀ (s : State) (et : IntEt) (d a : VReg) (pg : PReg), s.plain → s.unbound →
    let t := s.strand
    let w := etBits et
    let n := 512 / w
    let act (j : Nat) : Prop := pg = 0 ∨ (t.getP pg).getLsbD (w / 8 * j) = true
    let val (j : Nat) : Int :=
      if etSigned et then (BitVec.ofNat w (elemAt w (t.getV a) j)).toInt else (elemAt w (t.getV a) j : Int)
    let writes (i : Instr) (r : Int) : Prop := Completes i s (t.setV d ((BitVec.ofInt 64 r).setWidth 512))
    let none := ∀ j, j < n → ¬ act j
    writes (.vradd et d a pg) (((List.range n).map fun j => if laneActive t pg w j then val j else 0).sum) ∧
    (∃ r, writes (.vrmin et d a pg) r ∧ (∀ j, j < n → act j → r ≤ val j) ∧ ((∃ j, j < n ∧ act j ∧ r = val j) ∨
      (none ∧ r = if etSigned et then 2 ^ (w - 1) - 1 else 2 ^ w - 1))) ∧
    (∃ r, writes (.vrmax et d a pg) r ∧ (∀ j, j < n → act j → val j ≤ r) ∧ ((∃ j, j < n ∧ act j ∧ r = val j) ∨
      (none ∧ r = if etSigned et then -2 ^ (w - 1) else 0)))

/-- 05 R184, Table 11. -/
def Obligations.PredicateInstructions : Prop :=
  ∀ (s : State) (d a b : PReg) (x : XReg), s.plain →
    let t := s.strand
    let bits (i : Instr) (f : Bool → Bool → Bool) : Prop := ∃ r, Completes i s (t.setP d r) ∧
      ∀ j, j < 64 → r.getLsbD j = f ((t.getP a).getLsbD j) ((t.getP b).getLsbD j)
    bits (.pand d a b) (fun p q => p && q) ∧ bits (.por d a b) (fun p q => p || q) ∧
    bits (.pxor d a b) (fun p q => p != q) ∧ bits (.pandn d a b) (fun p q => p && !q) ∧
    bits (.pnot d a) (fun p _ => !p) ∧
    Completes (.pfromx d x) s (t.setP d (t.getX x)) ∧
    Completes (.ptox x a) s (t.setX x (t.getP a)) ∧
    Completes (.pcnt x a) s (t.setX x (BitVec.ofNat 64 ((List.range 64).countP fun j => (t.getP a).getLsbD j)))

/-- 03 R89 to R95: one rounding, stated on the rational values of encodings; overflow by Table 4, tiny results, infinities and NaNs. A
sticky value rounds as every exact value that it stands for. The sign of an exact zero that is no sum is log 71, and both flags of an
infinity in E2M1 under saturation are log 85. -/
def Obligations.RoundingIsCorrect : Prop :=
  ∀ (code : Nat) (f : FFmt) (mode : Mode) (sat : Bool), ffmt code = some f →
  let signed (neg : Bool) (enc : Nat) : Nat := if neg then 2 ^ (f.ew + f.mw) + enc else enc
  let big : ℚ := (magNum f false f.maxEnc).rat
  (∀ (n : Machine.Num), n.st = false → |n.rat| ≤ big →
    let r := writeFp f mode sat (.fin n)
    ∃ m, decodeFp f r.1 = .fin m ∧ m.neg = n.neg ∧
      (mode = .rne → ∀ neg e, e ≤ f.maxEnc → |m.rat - n.rat| ≤ |(magNum f neg e).rat - n.rat| ∧
        (|m.rat - n.rat| = |(magNum f neg e).rat - n.rat| → (magNum f neg e).rat ≠ m.rat → r.1 % 2 = 0)) ∧
      (mode = .rtz → |m.rat| ≤ |n.rat| ∧ ∀ e, e ≤ f.maxEnc → (magNum f false e).rat ≤ |n.rat| →
        (magNum f false e).rat ≤ |m.rat|) ∧
      (mode = .rdn → m.rat ≤ n.rat ∧ ∀ neg e, e ≤ f.maxEnc → (magNum f neg e).rat ≤ n.rat → (magNum f neg e).rat ≤ m.rat) ∧
      (mode = .rup → n.rat ≤ m.rat ∧ ∀ neg e, e ≤ f.maxEnc → n.rat ≤ (magNum f neg e).rat → m.rat ≤ (magNum f neg e).rat) ∧
      (r.2.getLsbD 0 = true ↔ m.rat ≠ n.rat) ∧ (∀ b, 2 ≤ b → r.2.getLsbD b = false)) ∧
  (∀ (n : Machine.Num) (l k : Int), n.st = false → (2 : ℚ) ^ l ≤ |n.rat| → |n.rat| < (2 : ℚ) ^ (l + 1) →
    roundsTo mode (n.rat / (2 : ℚ) ^ (l - f.mw)) k →
    let free : ℚ := |(k : ℚ)| * (2 : ℚ) ^ (l - f.mw)
    let r := writeFp f mode sat (.fin n)
    (free ≤ big → (r.2.getLsbD 1 = true ↔ free < (2 : ℚ) ^ (1 - (f.bias : Int)) ∧ r.2.getLsbD 0 = true) ∧
      (big < |n.rat| → r = (signed n.neg f.maxEnc, 0b000001#6))) ∧
    (big < free → r = if sat ∨ code = 13 then (signed n.neg f.maxEnc, 0b100101#6)
      else if mode = .rtz ∨ (mode = .rdn ∧ n.neg = false) ∨ (mode = .rup ∧ n.neg = true) then (signed n.neg f.maxEnc, 0b000101#6)
      else if code = 9 then (0x7F, 0b000101#6) else (signed n.neg (f.maxEnc + 1), 0b000101#6))) ∧
  (∀ n m : Machine.Num, n.st = true → m.st = false → n.neg = m.neg → 2 ^ (f.mw + 2) ≤ n.m → n.standsFor m.rat →
    writeFp f mode sat (.fin n) = writeFp f mode sat (.fin m)) ∧
  ∀ neg, writeFp f mode sat (.inf neg) = (if code = 13 then (signed neg 7, 0b110000#6)
      else if sat then (signed neg f.maxEnc, 0b100000#6)
      else if code = 9 then (0x7F, 0b010000#6) else (signed neg (f.maxEnc + 1), 0)) ∧
    writeFp f mode sat (.nan neg) = if code = 13 then (signed neg 7, 0b010000#6) else (f.nan, 0)

/-- 05 R171 and R172, with the widths of R158, the prefix of R183 and 02 R55, and the flags of 03 R97. The operations of 03 R90, R94 and
R95 are exact on finite values; `writeFp` is that of RoundingIsCorrect. That a product that is zero has the exclusive-or of the signs is
the model's choice (log 71). -/
def Obligations.FloatingArithmetic : Prop :=
  (∀ (mode : Mode) (a b c : Machine.Num), a.st = false → b.st = false → c.st = false →
    (∃ n : Machine.Num, addVal mode (.fin a) (.fin b) = (.fin n, 0) ∧ n.st = false ∧ n.rat = a.rat + b.rat ∧
      (n.m = 0 → n.neg = if a.m = 0 ∧ b.m = 0 ∧ a.neg = b.neg then a.neg else decide (mode = .rdn))) ∧
    (∃ n : Machine.Num, mulVal (.fin a) (.fin b) = (.fin n, 0) ∧ n.st = false ∧ n.rat = a.rat * b.rat ∧
      n.neg = (a.neg != b.neg)) ∧
    (∃ n : Machine.Num, fmaVal mode (.fin a) (.fin b) (.fin c) = (.fin n, 0) ∧ n.st = false ∧
      n.rat = a.rat * b.rat + c.rat ∧
      (n.m = 0 → n.neg = if a.m * b.m = 0 ∧ c.m = 0 ∧ (a.neg != b.neg) = c.neg then c.neg else decide (mode = .rdn))) ∧
    (∀ p q r : Bool, fmaVal mode (.inf p) (.inf q) (.fin c) = (.inf (p != q), 0) ∧ fmaVal mode (.fin a) (.fin b) (.inf r) = (.inf r, 0) ∧
      fmaVal mode (.inf p) (.inf q) (.inf r) = (if (p != q) = r then (.inf r, 0) else (.nan false, fgInvalid)) ∧
      (a.m ≠ 0 → fmaVal mode (.inf p) (.fin a) (.fin c) = (.inf (p != a.neg), 0) ∧
        fmaVal mode (.fin a) (.inf p) (.fin c) = (.inf (a.neg != p), 0) ∧
        fmaVal mode (.inf p) (.fin a) (.inf r) = (if (p != a.neg) = r then (.inf r, 0) else (.nan false, fgInvalid)) ∧
        fmaVal mode (.fin a) (.inf p) (.inf r) = (if (a.neg != p) = r then (.inf r, 0) else (.nan false, fgInvalid))) ∧
      (a.m = 0 → ∀ v, fmaVal mode (.inf p) (.fin a) v = (.nan false, fgInvalid) ∧
        fmaVal mode (.fin a) (.inf p) v = (.nan false, fgInvalid))) ∧
    (∃ n : Machine.Num, negVal (.fin a) = .fin n ∧ n.st = false ∧ n.rat = -a.rat) ∧
    ∀ p q, addVal mode (.inf p) (.inf q) = (if p = q then (.inf p, 0) else (.nan false, fgInvalid)) ∧
      addVal mode (.inf p) (.fin a) = (.inf p, 0) ∧ addVal mode (.fin a) (.inf p) = (.inf p, 0) ∧
      mulVal (.inf p) (.inf q) = (.inf (p != q), 0) ∧
      mulVal (.inf p) (.fin a) = (if a.m = 0 then (.nan false, fgInvalid) else (.inf (p != a.neg), 0)) ∧
      mulVal (.fin a) (.inf p) = (if a.m = 0 then (.nan false, fgInvalid) else (.inf (a.neg != p), 0)) ∧
      negVal (.inf p) = .inf (!p)) ∧
  (∀ (mode : Mode) (p : Bool) (v : FVal), (∃ q, addVal mode (.nan p) v = (.nan q, 0)) ∧ (∃ q, addVal mode v (.nan p) = (.nan q, 0)) ∧
    (∃ q, mulVal (.nan p) v = (.nan q, 0)) ∧ (∃ q, mulVal v (.nan p) = (.nan q, 0)) ∧ isNan (negVal (.nan p)) = true ∧
    ∀ w, (∃ q, fmaVal mode (.nan p) v w = (.nan q, 0)) ∧ (∃ q, fmaVal mode v (.nan p) w = (.nan q, 0)) ∧
      ∃ q, fmaVal mode v w (.nan p) = (.nan q, (mulVal v w).2)) ∧
  ∀ (s : State) (et : FpEt) (d a b : VReg) (pg : PReg), s.agent = .strand → s.unbound →
    let t := s.strand
    let o := overrides t.status
    let mode := effMode t.status
    let sat := effSat t.status
    let act (W j : Nat) : Prop := pg = 0 ∨ (t.getP pg).getLsbD (W / 8 * j) = true
    let fills (i : Instr) (W wd : Nat) (f : Nat → Nat × Flags) : Prop := ∃ (r : Vec) (fl : Flags),
      Completes i s { t.setV d r with status := setPP (orFlags t.status fl) false } ∧
      (∀ j, j < 512 / W → (act W j → elemAt wd r j = (f j).1) ∧ (¬ act W j → elemAt wd r j = elemAt wd (t.getV d) j)) ∧
      (∀ q, wd * (512 / W) ≤ q → r.getLsbD q = false) ∧
      ∀ b, fl.getLsbD b = true ↔ ∃ j, j < 512 / W ∧ act W j ∧ (f j).2.getLsbD b = true
    (stPP t.status = true → (o.fa = 31 ∨ 6 ≤ o.fa ∧ o.fa ≤ 10) ∧ (o.fb = 31 ∨ 6 ≤ o.fb ∧ o.fb ≤ 10) ∧
      (o.fd = 31 ∨ 6 ≤ o.fd ∧ o.fd ≤ 8)) →
    let fa := if o.fa = 31 then fpFmt et else o.fa
    let fb := if o.fb = 31 then fpFmt et else o.fb
    let fd := if o.fd = 31 then fpFmt et else o.fd
    let W := max (fmtBits fa) (max (fmtBits fb) (fmtBits fd))
    let x (j : Nat) : FVal := decodeFp (ffmtOf fa) (elemAt (fmtBits fa) (t.getV a) j)
    let y (j : Nat) : FVal := decodeFp (ffmtOf fb) (elemAt (fmtBits fb) (t.getV b) j)
    let z (j : Nat) : FVal := decodeFp (ffmtOf fd) (elemAt (fmtBits fd) (t.getV d) j)
    let put (v : FVal × Flags) : Nat × Flags :=
      ((writeFp (ffmtOf fd) mode sat v.1).1, v.2 ||| (writeFp (ffmtOf fd) mode sat v.1).2)
    fills (.vfadd et d a b pg) W (fmtBits fd) (fun j => put (addVal mode (x j) (y j))) ∧
    fills (.vfsub et d a b pg) W (fmtBits fd) (fun j => put (addVal mode (x j) (negVal (y j)))) ∧
    fills (.vfmul et d a b pg) W (fmtBits fd) (fun j => put (mulVal (x j) (y j))) ∧
    fills (.vfma et d a b pg) W (fmtBits fd) (fun j => put (fmaVal mode (x j) (y j) (z j))) ∧
    fills (.vfnma et d a b pg) W (fmtBits fd) (fun j => put (fmaVal mode (negVal (x j)) (y j) (z j)))

/-- 05 R173 and the comparisons of R171, by the order of 03 R85, which is that of the rational values with the infinities at its ends; the
prefixes of R182. -/
def Obligations.FloatingSelectAndCompare : Prop :=
  (∀ a b : Machine.Num, a.st = false → b.st = false →
    (ltVal (.fin a) (.fin b) = true ↔ a.rat < b.rat) ∧ (eqVal (.fin a) (.fin b) = true ↔ a.rat = b.rat) ∧
    signOf (.fin a) = a.neg ∧
    ∀ p q, ltVal (.inf p) (.fin a) = p ∧ ltVal (.fin a) (.inf p) = !p ∧ ltVal (.inf p) (.inf q) = (p && !q) ∧
      eqVal (.inf p) (.fin a) = false ∧ eqVal (.fin a) (.inf p) = false ∧ eqVal (.inf p) (.inf q) = (p == q) ∧
      signOf (.inf p) = p) ∧
  ∀ (s : State) (et : FpEt) (d a b : VReg) (pd pg : PReg), s.agent = .strand → s.unbound →
    let t := s.strand
    let o := overrides t.status
    (stPP t.status = true → o.fd = 31 ∧ o.rm = 0 ∧ o.sat = 0) →
    let done (u : Strand) : Strand := { u with status := setPP t.status false }
    let f := ffmtOf (fpFmt et)
    let w := fmtBits (fpFmt et)
    let act (j : Nat) : Prop := pg = 0 ∨ (t.getP pg).getLsbD (w / 8 * j) = true
    let A (j : Nat) : Nat := elemAt w (t.getV a) j
    let B (j : Nat) : Nat := elemAt w (t.getV b) j
    let nan (x : Nat) : Prop := isNan (decodeFp f x) = true
    let lanes (i : Instr) (p : Nat → Nat → Prop) : Prop := ∃ r, Completes i s (done (t.setV d r)) ∧
      ∀ j, j < 512 / w → (act j → p j (elemAt w r j)) ∧ (¬ act j → elemAt w r j = elemAt w (t.getV d) j)
    let picks (le : FVal → FVal → Prop) (j r : Nat) : Prop :=
      if nan (A j) ∨ nan (B j) then r = f.nan
      else (r = A j ∨ r = B j) ∧ le (decodeFp f r) (decodeFp f (A j)) ∧ le (decodeFp f r) (decodeFp f (B j))
    let below (x y : FVal) : Prop := ltVal y x = false ∧ (eqVal x y = true → signOf y = true → signOf x = true)
    let fa := if o.fa = 31 then fpFmt et else o.fa
    let fb := if o.fb = 31 then fpFmt et else o.fb
    let W := max (fmtBits fa) (fmtBits fb)
    let x (j : Nat) : FVal := decodeFp (ffmtOf fa) (elemAt (fmtBits fa) (t.getV a) j)
    let y (j : Nat) : FVal := decodeFp (ffmtOf fb) (elemAt (fmtBits fb) (t.getV b) j)
    let bits (i : Instr) (test : FVal → FVal → Bool) : Prop := ∃ r, Completes i s (done (t.setP pd r)) ∧
      (∀ j, j < 512 / W → (r.getLsbD (W / 8 * j) = true ↔ (pg = 0 ∨ (t.getP pg).getLsbD (W / 8 * j) = true) ∧
        isNan (x j) = false ∧ isNan (y j) = false ∧ test (x j) (y j) = true)) ∧
      ∀ q, q % (W / 8) ≠ 0 → r.getLsbD q = false
    ((stPP t.status = true → o.fa = 31 ∧ o.fb = 31) →
      lanes (.vfmin et d a b pg) (picks below) ∧
      lanes (.vfmax et d a b pg) (picks fun x y => below y x) ∧
      lanes (.vfabs et d a pg) (fun j r => r = if nan (A j) then f.nan else A j % 2 ^ (w - 1)) ∧
      lanes (.vfneg et d a pg) (fun j r => r = if nan (A j) then f.nan else (A j + 2 ^ (w - 1)) % 2 ^ w)) ∧
    ((stPP t.status = true → (o.fa = 31 ∨ 6 ≤ o.fa ∧ o.fa ≤ 10) ∧ (o.fb = 31 ∨ 6 ≤ o.fb ∧ o.fb ≤ 10)) →
      bits (.vfceq et pd a b pg) eqVal ∧
      bits (.vfclt et pd a b pg) ltVal ∧
      bits (.vfcle et pd a b pg) (fun x y => !ltVal y x))

/-- 05 R174, R175 and R177. `value` is the value of a function of R174 that is rounded once: pinned at the inputs of Table 7 and where it
is exact, and bracketed or within 2^-64 of the exact one elsewhere, which is how the model evaluates it (log 11). `V` is the tree of
VFRSUM by levels (03 R108), and `node` one of its nodes (R109). -/
def Obligations.FloatingFunctionsAndReductions : Prop :=
  ∀ (s : State) (et : FpEt) (d a : VReg) (pg : PReg), s.agent = .strand → s.unbound →
    let t := s.strand
    let o := overrides t.status
    let mode := effMode t.status
    let sat := effSat t.status
    let act (W j : Nat) : Prop := pg = 0 ∨ (t.getP pg).getLsbD (W / 8 * j) = true
    let fills (i : Instr) (W wd : Nat) (f : Nat → Nat × Flags) : Prop := ∃ (r : Vec) (fl : Flags),
      Completes i s { t.setV d r with status := setPP (orFlags t.status fl) false } ∧
      (∀ j, j < 512 / W → (act W j → elemAt wd r j = (f j).1) ∧ (¬ act W j → elemAt wd r j = elemAt wd (t.getV d) j)) ∧
      (∀ q, wd * (512 / W) ≤ q → r.getLsbD q = false) ∧
      ∀ b, fl.getLsbD b = true ↔ ∃ j, j < 512 / W ∧ act W j ∧ (f j).2.getLsbD b = true
    (stPP t.status = true → o.fa = 31 ∧ o.fb = 31 ∧ (o.fd = 31 ∨ 6 ≤ o.fd ∧ o.fd ≤ 8)) →
    let fa := fpFmt et
    let fd := if o.fd = 31 then fa else o.fd
    let w := fmtBits fa
    let x (j : Nat) : FVal := decodeFp (ffmtOf fa) (elemAt w (t.getV a) j)
    let put (v : FVal × Flags) : Nat × Flags :=
      ((writeFp (ffmtOf fd) mode sat v.1).1, v.2 ||| (writeFp (ffmtOf fd) mode sat v.1).2)
    let special (i : Instr) (f : SpecialFn) : Prop := fills i (max w (fmtBits fd)) (fmtBits fd) fun j => put (f.value (x j))
    let picks (i : Instr) (le : FVal → FVal → Prop) (ident : Nat) : Prop :=
      ∃ r, Completes i s { t.setV d (BitVec.ofNat 512 r) with status := setPP t.status false } ∧
      (if ∃ j, j < 512 / w ∧ act w j ∧ isNan (x j) = true then r = (ffmtOf fa).nan
      else if ∃ j, j < 512 / w ∧ act w j then
        (∃ j, j < 512 / w ∧ act w j ∧ r = elemAt w (t.getV a) j) ∧
        ∀ j, j < 512 / w → act w j → le (decodeFp (ffmtOf fa) r) (x j)
      else r = ident)
    special (.vexp2 et d a pg) .exp2 ∧ special (.vrcp et d a pg) .rcp ∧
    special (.vrsq et d a pg) .rsq ∧ special (.vlog2 et d a pg) .log2 ∧
    (∀ neg, SpecialFn.exp2.value (.nan neg) = (.nan false, 0) ∧ SpecialFn.rcp.value (.nan neg) = (.nan false, 0) ∧
      SpecialFn.rsq.value (.nan neg) = (.nan false, 0) ∧ SpecialFn.log2.value (.nan neg) = (.nan false, 0)) ∧
    (∀ neg e, SpecialFn.exp2.value (.fin { neg, m := 0, e }) = (.fin { neg := false, m := 1, e := 0 }, 0) ∧
      SpecialFn.rcp.value (.fin { neg, m := 0, e }) = (.inf neg, fgDivz) ∧
      SpecialFn.rsq.value (.fin { neg, m := 0, e }) = (.inf neg, fgDivz) ∧
      SpecialFn.log2.value (.fin { neg, m := 0, e }) = (.inf true, fgDivz)) ∧
    SpecialFn.exp2.value (.inf false) = (.inf false, 0) ∧ SpecialFn.rsq.value (.inf true) = (.nan false, fgInvalid) ∧
    SpecialFn.log2.value (.inf true) = (.nan false, fgInvalid) ∧ SpecialFn.log2.value (.inf false) = (.inf false, 0) ∧
    SpecialFn.exp2.value (.inf true) = (.fin { neg := false, m := 0, e := 0 }, 0) ∧
    SpecialFn.rsq.value (.inf false) = (.fin { neg := false, m := 0, e := 0 }, 0) ∧
    (∀ neg, SpecialFn.rcp.value (.inf neg) = (.fin { neg, m := 0, e := 0 }, 0)) ∧
    (∀ (u : Machine.Num) (k : Int), -320 ≤ u.e → u.rat = k → -1024 ≤ k → k ≤ 1024 →
      SpecialFn.exp2.value (.fin u) = (.fin { neg := false, m := 1, e := k }, 0)) ∧
    (∀ u : Machine.Num, u.st = false → -320 ≤ u.e → |u.rat| < 2 ^ 16 → ∃ n : Machine.Num,
      SpecialFn.exp2.value (.fin u) = (.fin n, 0) ∧ n.neg = false ∧
      |(n.rat : ℝ) - (2 : ℝ) ^ (u.rat : ℝ)| ≤ (2 : ℝ) ^ (u.rat : ℝ) / 2 ^ 64) ∧
    (∀ u : Machine.Num, u.st = false → 2 ^ 16 ≤ |u.rat| → ∃ n : Machine.Num, SpecialFn.exp2.value (.fin u) = (.fin n, 0) ∧
      n.neg = false ∧ (0 < u.rat → (2 : ℚ) ^ 1000 ≤ n.rat) ∧ (u.rat < 0 → 0 < n.rat ∧ n.rat ≤ 1 / (2 : ℚ) ^ 1000)) ∧
    (∀ u : Machine.Num, u.m ≠ 0 → u.st = false →
      (∃ n : Machine.Num, SpecialFn.rcp.value (.fin u) = (.fin n, 0) ∧ n.neg = u.neg ∧ (∀ l, u.m = 2 ^ l → n.st = false) ∧
        (n.st = false → n.rat * u.rat = 1) ∧
        (n.st = true → n.rat * u.rat < 1 ∧ 1 < Machine.Num.rat { n with m := n.m + 1 } * u.rat)) ∧
      (u.neg = true → SpecialFn.rsq.value (.fin u) = (.nan false, fgInvalid) ∧
        SpecialFn.log2.value (.fin u) = (.nan false, fgInvalid)) ∧
      (u.neg = false → (∃ n : Machine.Num, SpecialFn.rsq.value (.fin u) = (.fin n, 0) ∧ n.neg = false ∧
          (∀ l : Nat, u.m = 2 ^ l → (u.e + l) % 2 = 0 → n.st = false) ∧ (n.st = false → n.rat ^ 2 * u.rat = 1) ∧
          (n.st = true → n.rat ^ 2 * u.rat < 1 ∧ 1 < Machine.Num.rat { n with m := n.m + 1 } ^ 2 * u.rat)) ∧
        (∀ l : Nat, u.m = 2 ^ l → SpecialFn.log2.value (.fin u) =
          (.fin { neg := decide (u.e + l < 0), m := (u.e + l).natAbs, e := 0 }, 0)) ∧
        ∃ n : Machine.Num, SpecialFn.log2.value (.fin u) = (.fin n, 0) ∧ |(n.rat : ℝ) - Real.logb 2 (u.rat : ℝ)| ≤ 1 / 2 ^ 64)) ∧
    (let node (p q : FVal × Flags) : FVal × Flags :=
        let sum := addVal mode p.1 q.1
        let r := writeFp fp32 mode false sum.1
        (decodeFp fp32 r.1, p.2 ||| q.2 ||| sum.2 ||| r.2)
      ∃ V : Nat → Nat → Option (FVal × Flags), (∀ j, j < 512 / w → (act w j → V 0 j = some (x j, 0)) ∧ (¬ act w j → V 0 j = none)) ∧
        (∀ l j, j < 512 / w / 2 ^ (l + 1) → V (l + 1) j = match V l (2 * j), V l (2 * j + 1) with
          | some p, some q => some (node p q)
          | some p, none => some p
          | none, q => q) ∧
        let root := (V (Nat.log2 (512 / w)) 0).getD (.fin { neg := false, m := 0, e := 0 }, 0)
        Completes (.vfrsum et d a pg) s { t.setV d (BitVec.ofNat 512 (put root).1) with
          status := setPP (orFlags t.status (put root).2) false }) ∧
    ((stPP t.status = true → o.fd = 31 ∧ o.rm = 0 ∧ o.sat = 0) →
      picks (.vfrmax et d a pg) (fun r y => ltVal r y = false) ((ffmtOf fa).maxEnc + 1 + 2 ^ (w - 1)) ∧
      picks (.vfrmin et d a pg) (fun r y => ltVal y r = false) ((ffmtOf fa).maxEnc + 1))

/-- 05 R178 to R181 with the prefixes of R182 and R183, 03 R80, R81, R83 and R101 to R105, and that the forms of R174 and R177 complete. A
zero quotient or product has the exclusive-or of the signs (log 71), and what saturation adds to an infinity in E2M1 is log 85. -/
def Obligations.FloatingConversions : Prop :=
  (∀ (mode : Mode) (lo hi : Int) (x : FVal),
    (isNan x = true → toIntClamped mode lo hi x = (0, fgInvalid)) ∧
    (∀ p, toIntClamped mode lo hi (.inf p) = (if p then lo else hi, fgInvalid ||| fgSat)) ∧
    ∀ (n : Machine.Num) (k : Int), n.st = false → roundsTo mode n.rat k → toIntClamped mode lo hi (.fin n) =
      if k < lo then (lo, fgInvalid ||| fgSat ||| fgInexact) else if hi < k then (hi, fgInvalid ||| fgSat ||| fgInexact)
      else (k, if (k : ℚ) = n.rat then 0 else fgInexact)) ∧
  (∀ k : Int, ∃ n : Machine.Num, intVal k = .fin n ∧ n.st = false ∧ n.rat = k) ∧
  (∀ b : Nat, b < 256 → (b = 255 → isNan (decodeE8m0 b) = true) ∧
    (b ≠ 255 → ∃ n : Machine.Num, decodeE8m0 b = .fin n ∧ n.neg = false ∧ n.st = false ∧ n.rat = (2 : ℚ) ^ ((b : Int) - 127))) ∧
  (∀ (fd : Nat) (f : FFmt) (mode : Mode) (sat e8 : Bool) (scale : Nat), ffmt fd = some f → (fd = 9 ∨ fd = 10 ∨ fd = 13) →
    let sv : FVal := if e8 then decodeE8m0 scale else decodeFp fpE4m3 scale
    (∀ p, quantCode fd mode sat e8 (.nan p) scale = if fd = 13 then (if p then 15 else 7, fgInvalid) else (f.nan, 0)) ∧
    (∀ x, isNan x = false → (isNan sv = true ∨ eqVal sv (.fin { neg := false, m := 0, e := 0 }) = true) →
      quantCode fd mode sat e8 x scale = (0, fgInvalid)) ∧
    ∀ b : Machine.Num, sv = .fin b → b.m ≠ 0 →
      (∀ p, quantCode fd mode sat e8 (.inf p) scale = writeFp f mode sat (.inf (p != b.neg))) ∧
      ∀ a : Machine.Num, a.st = false → ∃ q : Machine.Num, quantCode fd mode sat e8 (.fin a) scale = writeFp f mode sat (.fin q) ∧
        q.neg = (a.neg != b.neg) ∧ q.standsFor (a.rat / b.rat) ∧ (q.st = true → 2 ^ 32 ≤ q.m)) ∧
  (∀ (fd : Nat) (mode : Mode) (sat e8 : Bool) (scale : Nat), (fd = 11 ∨ fd = 12) →
    let sv : FVal := if e8 then decodeE8m0 scale else decodeFp fpE4m3 scale
    let w := if fd = 11 then 4 else 3
    let lo : Int := -(2 ^ (w - 1))
    let hi : Int := 2 ^ (w - 1) - 1
    let code (k : Int) : Nat := (k % (2 ^ w : Nat)).toNat
    (∀ x, (isNan x = true ∨ isNan sv = true ∨ eqVal sv (.fin { neg := false, m := 0, e := 0 }) = true) →
      quantCode fd mode sat e8 x scale = (0, fgInvalid)) ∧
    ∀ b : Machine.Num, sv = .fin b → b.m ≠ 0 →
      (∀ p, quantCode fd mode sat e8 (.inf p) scale = (code (if p = b.neg then hi else lo), fgInvalid ||| fgSat)) ∧
      ∀ (a : Machine.Num) (k : Int), a.st = false → roundsTo mode (a.rat / b.rat) k → quantCode fd mode sat e8 (.fin a) scale =
        (code (max lo (min hi k)), (if k < lo ∨ hi < k then fgSat else 0) ||| if (k : ℚ) = a.rat / b.rat then 0 else fgInexact)) ∧
  ∀ (s : State) (et : FpEt) (it : IntEt) (d a b : VReg) (pg : PReg), s.agent = .strand → s.unbound →
    let t := s.strand
    let o := overrides t.status
    let mode := effMode t.status
    let sat := effSat t.status
    let act (W j : Nat) : Prop := pg = 0 ∨ (t.getP pg).getLsbD (W / 8 * j) = true
    let admits (fa fb fd : Prop) : Prop := stPP t.status = true → (o.fa = 31 ∨ fa) ∧ (o.fb = 31 ∨ fb) ∧ (o.fd = 31 ∨ fd)
    let fills (i : Instr) (W wd : Nat) (f : Nat → Nat × Flags) : Prop := ∃ (r : Vec) (fl : Flags),
      Completes i s { t.setV d r with status := setPP (orFlags t.status fl) false } ∧
      (∀ j, j < 512 / W → (act W j → elemAt wd r j = (f j).1) ∧ (¬ act W j → elemAt wd r j = elemAt wd (t.getV d) j)) ∧
      (∀ q, wd * (512 / W) ≤ q → r.getLsbD q = false) ∧
      ∀ b, fl.getLsbD b = true ↔ ∃ j, j < 512 / W ∧ act W j ∧ (f j).2.getLsbD b = true
    let src := fpFmt et
    let ws := fmtBits src
    let x (j : Nat) : FVal := decodeFp (ffmtOf src) (elemAt ws (t.getV a) j)
    let int (j : Nat) : Int :=
      if etSigned it then (BitVec.ofNat (etBits it) (elemAt (etBits it) (t.getV a) j)).toInt
      else (elemAt (etBits it) (t.getV a) j : Int)
    let bits (f : Nat) : Nat := if f = 12 then 3 else if f = 11 ∨ f = 13 then 4 else 8
    let e8 : Bool := o.fb == 31 || o.fb == 16
    (admits False False (6 ≤ o.fd ∧ o.fd ≤ 10) →
      let fd := if o.fd = 31 then 8 else o.fd
      fills (.vcvtInt it d a pg) (max (etBits it) (fmtBits fd)) (fmtBits fd) (fun j => writeFp (ffmtOf fd) mode sat (intVal (int j)))) ∧
    (admits False False (1 ≤ o.fd ∧ o.fd ≤ 10) →
      let fd := if o.fd = 31 then (if et = .f32 then 6 else 8) else o.fd
      let wd := fmtBits fd
      let lo : Int := if fd = 5 then 0 else -(2 ^ (wd - 1))
      let hi : Int := if fd = 5 then 255 else 2 ^ (wd - 1) - 1
      fills (.vcvtFp et d a pg) (max ws wd) wd (fun j =>
        if fd < 6 then (((toIntClamped mode lo hi (x j)).1 % (2 ^ wd : Nat)).toNat, (toIntClamped mode lo hi (x j)).2)
        else if fd = src then (if isNan (x j) then (ffmtOf src).nan else elemAt ws (t.getV a) j, 0)
        else writeFp (ffmtOf fd) mode sat (x j))) ∧
    (admits False (o.fb = 9 ∨ o.fb = 16) (9 ≤ o.fd ∧ o.fd ≤ 13) →
      let fd := if o.fd = 31 then 11 else o.fd
      let q (j : Nat) : Nat × Flags := quantCode fd mode sat e8 (x j) (elemAt 8 (t.getV b) 0)
      ∃ (r : Vec) (fl : Flags),
        Completes (.vquant et d a b pg) s { t.setV d r with status := setPP (orFlags t.status fl) false } ∧
        (∀ j, j < 512 / ws → elemAt (bits fd) r j = if laneActive t pg ws j then (q j).1 else 0) ∧
        (∀ p, bits fd * (512 / ws) ≤ p → r.getLsbD p = false) ∧
        ∀ k, fl.getLsbD k = true ↔ ∃ j, j < 512 / ws ∧ act ws j ∧ (q j).2.getLsbD k = true) ∧
    (admits (9 ≤ o.fa ∧ o.fa ≤ 13) (o.fb = 9 ∨ o.fb = 16) False →
      let fa := if o.fa = 31 then 11 else o.fa
      fills (.vdeq et d a b pg) ws ws (fun j =>
        let c := elemAt (bits fa) (t.getV a) j
        let code : FVal := if fa = 11 ∨ fa = 12 then intVal (BitVec.ofNat (bits fa) c).toInt else decodeFp (ffmtOf fa) c
        let scale := elemAt 8 (t.getV b) (j / 32)
        let v := mulVal code (if e8 then decodeE8m0 scale else decodeFp fpE4m3 scale)
        ((writeFp (ffmtOf src) mode sat v.1).1, v.2 ||| (writeFp (ffmtOf src) mode sat v.1).2))) ∧
    (stPP t.status = false →
      (∀ i ∈ [Instr.vexp2 et d a pg, .vrcp et d a pg, .vrsq et d a pg, .vlog2 et d a pg, .vfrsum et d a pg],
        ∃ (r : Vec) (fl : Flags), Completes i s { t.setV d r with status := setPP (orFlags t.status fl) false }) ∧
      ∀ i ∈ [Instr.vfrmax et d a pg, .vfrmin et d a pg], ∃ r : Vec, Completes i s (t.setV d r))

/-- 13 R421 and R423 with 04 R145 and R146: the entry of an exception. The drain of 07 R218 finds nothing here. -/
def Obligations.TakingAnException : Prop :=
  ∀ (s : State) (f : Trap), s.drained → s.unbound →
    let k := s.cur
    let t := s.strand
    s.reserveUsed t.tenant + 54 ≤ s.reserveSlots t.tenant →
    let s' := s.takeTrap f
    (s'.core k).mode = .saving ∧ (s'.core k).strand = {} ∧ (∀ j, j ≠ k → s'.core j = s.core j) ∧
    s'.mem = s.mem ∧ s'.tags = s.tags ∧
    ∃ h ∈ s'.bms, ∃ esc, h.holder = .fault s.newHandle esc ∧ h.room = .reserve ∧ h.bm.kind = .fault ∧
      h.bm.cause = f.cause ∧ h.bm.warg = f.detail.setWidth 64 ∧ h.bm.lcore = k ∧ h.bm.gen = s.gen t.tenant ∧
      h.bm.strand = { t with
        pc := f.pc.getD t.pc
        faultinfo := f.cause ++ f.detail
        status := if f.cause = 0x02 then setPP t.status false else t.status }

/-- 13 R424, R425 and R428. -/
def Obligations.FaultDelivery : Prop :=
  ∀ (s : State) (b : Bookmark),
    let t := b.tenant
    let k := stComp b.strand.status
    s.reserveUsed t + b.slots ≤ s.reserveSlots t →
    (∀ core n e r, s.pendingOf t k < 16 → s.faultChannel t k b.lcore = some (core, n, e) →
      s.roomFor (core / 8) t 1 = some r →
      ∃ h ∈ (s.deliver b).bms, h.holder = .ready ∧ h.cluster = core / 8 ∧ h.stamp = s.cycle ∧ h.bm.kind = .new ∧
        h.bm.bind = true ∧ h.bm.lcore = core ∧ h.bm.task = n ∧ h.bm.prio = e.prio ∧ h.bm.tenant = t % 1024 ∧
        h.bm.start = some { x10 := BitVec.ofNat 64 s.newHandle, x11 := b.strand.pc, x12 := BitVec.ofNat 64 b.lcore, x13 := 0,
                            c1 := {}, c2 := {}, faultinfo := b.strand.faultinfo }) ∧
    (s.faultChannel t k b.lcore = none →
      (∃ h ∈ (s.deliver b).bms, h.bm = b ∧ h.holder = .fault s.newHandle true) ∧
      (s.escalations t < 64 →
        ∃ c, (s.deliver b).service.calls.getLast? = some c ∧ c.tenant = t ∧ c.comp = k ∧ c.fault = some s.newHandle))

/-- 02 R53. 02 R54: a second FMT, branches, jumps, FIN, the CSR instructions and every other instruction that is no consumer of 05 Table 9. -/
def Obligations.FormatPrefixes : Prop :=
  (∀ (s : State) (fd fa fb : BitVec 5) (rm : BitVec 3) (sat : BitVec 2), s.plain →
    let t := s.strand
    let i : Instr := .fmt fd fa fb rm sat
    let ok (f : BitVec 5) : Prop := f.toNat ≤ 16 ∨ f = 31
    let w : Insn := fa ++ fb ++ 0#2 ++ rm ++ sat ++ 0b111#3 ++ fd ++ 0x7B#7
    encode i = some w ∧
    (ok fa ∧ ok fb ∧ ok fd ∧ rm.toNat ≤ 4 ∧ sat ≠ 3 →
      ∃ st : Word, Completes i s { t with status := st } ∧ ∀ b, b < 64 →
        st.getLsbD b = if b = 37 then true else if 12 ≤ b ∧ b < 37 then w.getLsbD (b - 5) else t.status.getLsbD b) ∧
    (¬ (ok fa ∧ ok fb ∧ ok fd ∧ rm.toNat ≤ 4 ∧ sat ≠ 3) → Traps i s 0x02 (w.setWidth 56))) ∧
  (∀ (i : Instr) (s : State), refusesPrefix i = true → s.agent = .strand → s.unbound → stPP s.strand.status = true →
    exec i s = .next (s.takeTrap { cause := 0x02, detail := ((encode i).getD 0).setWidth 56 }))

/-- 04 R141 to R147, and 02 R53: FMT completes. -/
def Obligations.ControlRegisters : Prop :=
  ∀ (s : State) (d a : XReg) (n : BitVec 12), s.plain →
    let t := s.strand
    let x := t.getX a
    let k := s.cur
    let reads (n : BitVec 12) (v : Word) : Prop := Completes (.csrrd d n) s (t.setX d v)
    reads 0x000 t.status ∧ reads 0x001 t.livemask ∧ reads 0x002 t.faultinfo ∧
    (∃ v : Word, reads 0x003 v ∧ v.toNat = (if (s.core k).inPhase then 4096 + s.xc k % 4096 else 0)) ∧
    reads 0xC00 (BitVec.ofNat 64 s.cycle) ∧ reads 0xC01 (BitVec.ofNat 64 s.time) ∧
    (∃ v : Word, reads 0xC02 v ∧ v.toNat = ((s.partOf t.tenant k).getD 0) % 4 * 1024 + k % 1024) ∧
    reads 0xC03 ((s.gen t.tenant).setWidth 64) ∧
    (∃ st : Word, Completes (.csrwr 0x000 a) s { t with status := st } ∧
      ∀ b, b < 64 → st.getLsbD b = if b < 9 then x.getLsbD b else t.status.getLsbD b) ∧
    (∃ m : Word, Completes (.csrwr 0x001 a) s { t with livemask := m } ∧
      ∀ b, b < 64 → m.getLsbD b = (decide (b < 48) && x.getLsbD b)) ∧
    (∀ r ∈ [0x002#12, 0x003#12, 0xC00#12, 0xC01#12, 0xC02#12, 0xC03#12], Completes (.csrwr r a) s t) ∧
    (0x800 ≤ n.toNat → n.toNat ≤ 0x8FF → Traps (.csrrd d n) s 0x03 (wordDetail (.csrrd d n)) ∧
      Traps (.csrwr n a) s 0x03 (wordDetail (.csrwr n a))) ∧
    (csrListed n = false → Traps (.csrrd d n) s 0x01 (wordDetail (.csrrd d n)) ∧
      Traps (.csrwr n a) s 0x01 (wordDetail (.csrwr n a))) ∧
    ∀ (fd fa fb : BitVec 5) (rm : BitVec 3) (sat : BitVec 2), (∀ f ∈ [fd, fa, fb], f.toNat ≤ 16 ∨ f = 31) → rm.toNat ≤ 4 →
      sat ≠ 3 → ∃ st : Word, Completes (.fmt fd fa fb rm sat) s { t with status := st } ∧ stPP st = true

/-- 04 R149, R150 and 02 R51. -/
def Obligations.TrapAndBreak : Prop :=
  ∀ (s : State) (code : BitVec 12) (a b : XReg), s.agent = .strand →
    (stPP s.strand.status = false → exec (.trap code) s =
      .next (s.takeTrap { cause := 0x05, detail := code.setWidth 56, pc := some (s.strand.pc + 4) })) ∧
    Traps .brk s 0x04 0x00100073#56 ∧
    Traps .sret s 0x03 (wordDetail .sret) ∧ Traps .shalt s 0x03 (wordDetail .shalt) ∧
    Traps (.wake a) s 0x03 (wordDetail (.wake a)) ∧ Traps (.ownset a b) s 0x03 (wordDetail (.ownset a b))

/-- 04 R151, Table 16. The register of SRET's return offset is a constant the spec leaves open (log 8). Which values `ownOk` lets OWNSET
write (R399), and that one which clears LOCK takes CONF (R401), is log 39; a partition away from its core counts there as one held (log
75). -/
def Obligations.ServiceInstructions : Prop :=
  ∀ (s : State) (die : Nat) (a b d : XReg) (n : BitVec 8), die < 2 →
    let p := s.pair die
    let reg (i : Nat) : Word := Table.get p.regs i 0
    (s.agent = .service die → p.halted = false →
      exec .sret s = .next (s.setPair die { p with pc := reg Config.sretReg.toNat }) ∧
      exec .shalt s = .next (s.setPair die { p with pc := p.pc + 4, halted := true }) ∧
      ((p.getX a).toNat < 1024 → ∃ s', exec (.wake a) s = .next s' ∧ s'.pair die = { p with pc := p.pc + 4 } ∧
        s'.core (p.getX a).toNat = { s.core (p.getX a).toNat with rescan := true } ∧
        (∀ j, j ≠ (p.getX a).toNat → s'.core j = s.core j) ∧ s'.mem = s.mem) ∧
      (1024 ≤ (p.getX a).toNat → ∃ s', exec (.wake a) s = .next s' ∧ s'.cores = s.cores ∧ s'.mem = s.mem ∧
        (s'.pair die).x = p.x ∧ (s'.pair die).pc = Config.handler ∧
        Table.get (s'.pair die).regs Config.sretReg.toNat 0 = p.pc) ∧
      exec (.csrrd d (0x8#4 ++ n)) s = .next (s.setPair die { p.setX d (reg n.toNat) with pc := p.pc + 4 }) ∧
      (∃ s', exec (.csrwr (0x8#4 ++ n) a) s = .next s' ∧ Table.get (s'.pair die).regs n.toNat 0 = p.getX a ∧
        (s'.pair die).pc = p.pc + 4) ∧
      (∃ s', exec (.ownset a b) s = .next s' ∧ s'.cores = s.cores ∧ s'.mem = s.mem ∧ s'.pkgLog.length = s.pkgLog.length + 1)) ∧
    (s.agent = .curator die →
      let c := (s.service.curators[die]?).getD {}
      let get (r : XReg) : Word := if r = 0 then 0 else c.x[r.toNat]
      let k := (get a).toNat % 1024
      let w := get b &&& 0x8FFFFC0000000000#64
      ∃ s', exec (.ownset a b) s = .next s' ∧ s'.mem = s.mem ∧
        (s'.core k).owner = (if s.ownOk k w = true then w else (s.core k).owner) ∧
        (w.getLsbD 63 = false → ∀ t, s.inNodes t k = true → (s'.tenant t).conf = false) ∧
        ((w.getLsbD 63 = true ∨ s.ownOk k w = false) → s'.tenants = s.tenants) ∧
        ∀ j, j ≠ k → s'.core j = s.core j)

/-- 07 R230 and R231 with the drain of R218. That a FENCE with an empty succ drains nothing is the model's reading (log 35), and what
engines still see late, `old`, which a FENCE at its scope ends (09 R298), is kept as log 16 says. -/
def Obligations.Fences : Prop :=
  ∀ (s : State) (scope : Scope) (pred succ : BitVec 3), s.plain →
    let t := s.strand
    let orders (u : State) (o : OldByte) : Bool := succ.getLsbD 2 && pred != 0 && o.tenant == u.ten && scopeHas scope u.cur o.unit o.flat &&
      (!o.host || scope == .sys)
    let ordered (u : State) : State := { u with old := u.old.filter fun o => !orders u o }
    ((pred.getLsbD 0 = false ∧ pred.getLsbD 1 = false) ∨ succ = 0 ∨ s.drained →
      exec (.fence scope pred succ) s = .next ((ordered s).past t)) ∧
    (pred.getLsbD 0 = false → pred.getLsbD 1 = true → succ ≠ 0 →
      let u := s.offerAll s.cur
      exec (.fence scope pred succ) s =
        .next (if (u.core u.cur).posted.any (fun e => e.op.reads) = true then u.resident else (ordered u).adv)) ∧
    (∀ w, pred.getLsbD 0 = true → succ ≠ 0 → s.drain s.cur = .waits w →
      exec (.fence scope pred succ) s = .next w.resident) ∧
    (∀ w, s.drain s.cur = .waits w → exec (.ifence scope) s = .next w.resident) ∧
    (∀ w cause va, s.drain s.cur = .failed w cause va → Traps (.ifence scope) s cause (BitVec.ofNat 56 va) ∧
      (pred.getLsbD 0 = true → succ ≠ 0 → Traps (.fence scope pred succ) s cause (BitVec.ofNat 56 va))) ∧
    (s.drained → ∃ s', exec (.ifence scope) s = .next s' ∧ s'.strand = { t with pc := t.pc + 4 } ∧ s'.mem = s.mem ∧
      ∀ j, (s'.core j).icache = if inScope s.cur scope j = true
        then (s.core j).icache.filter fun l => !(l.tenant == t.tenant && l.gen == s.gen t.tenant)
        else (s.core j).icache)

/-- 07 R222, Table 2, for near accesses (R215): size and extension by mnemonic; an offset outside the first row and an index outside the
shape (R219, R220). -/
def Obligations.ScalarLoads : Prop :=
  ∀ (s : State) (d : XReg) (a : CReg) (imm : BitVec 12) (x : XReg), s.plain → (s.core s.cur).posted = [] →
    let t := s.strand
    let c := (t.getC a).img
    let outside (size : Nat) (m : MemOpnd) : Prop := cFmt c ≠ 14 ∧ ¬ (cFmt c = 11 ∨ cFmt c = 12 ∨ cFmt c = 13) ∧ match m with
      | .off i => cStr c 0 = 1 ∧ (i.toInt < 0 ∨ cExt c 0 * Machine.sizeOf (cFmt c) < i.toInt + size)
      | .idx r => Machine.sizeOf (cFmt c) = size ∧ cExt c 0 * cExt c 1 * cExt c 2 * cExt c 3 ≤ (t.getX r).toNat
    let index (m : MemOpnd) : BitVec 48 := match m with
      | .off i => i.signExtend 48
      | .idx r => (t.getX r).extractLsb' 0 48
    let load (i : Instr) (size : Nat) (signed : Bool) (m : MemOpnd) : Prop := t.usable a 0x0001 →
      (∀ va P, opndAt t c size m va → s.nearAt va size P →
        Completes i s (t.setX d (if signed then (BitVec.ofNat (8 * size) (s.valueAt size P)).signExtend 64
          else BitVec.ofNat 64 (s.valueAt size P)))) ∧
      (outside size m → Traps i s 0x11 (capDetail (opC a) 0 (index m)))
    load (.lbOffset d a imm) 1 true (.off imm) ∧ load (.lbIndex d a x) 1 true (.idx x) ∧
    load (.lhOffset d a imm) 2 true (.off imm) ∧ load (.lhIndex d a x) 2 true (.idx x) ∧
    load (.lwOffset d a imm) 4 true (.off imm) ∧ load (.lwIndex d a x) 4 true (.idx x) ∧
    load (.ldOffset d a imm) 8 true (.off imm) ∧ load (.ldIndex d a x) 8 true (.idx x) ∧
    load (.lbuOffset d a imm) 1 false (.off imm) ∧ load (.lbuIndex d a x) 1 false (.idx x) ∧
    load (.lhuOffset d a imm) 2 false (.off imm) ∧ load (.lhuIndex d a x) 2 false (.idx x) ∧
    load (.lwuOffset d a imm) 4 false (.off imm) ∧ load (.lwuIndex d a x) 4 false (.idx x)

/-- 07 R222 and R217: what a store posts; one that finds the queue full, whose oldest entry its home is then offered, waits resident while
it is; one whose translation the cluster TLB lacks ends the strand with wait kind XLATE; a store into a host window ends the strand (R215,
R216). -/
def Obligations.ScalarStores : Prop :=
  ∀ (s : State) (r : XReg) (a : CReg) (imm : BitVec 12) (x : XReg), s.plain →
    let t := s.strand
    let c := (t.getC a).img
    let byte (q : Nat) : Byte := BitVec.ofNat 8 ((t.getX r).toNat / 256 ^ q)
    let store (i : Instr) (size : Nat) (m : MemOpnd) : Prop := ∀ va P, t.usable a 0x0002 → opndAt t c size m va →
      (s.queueRoom → s.postsAt va size needW P →
        Posts i s va (.data ((List.range size).map fun q => (P q, byte q))) (vasFrom va size)) ∧
      (¬ s.queueRoom → s.postsAt va size needW P →
        let u := (s.acceptAt s.cur 0).1
        (¬ u.queueRoom → exec i s = .next u.resident) ∧
        (u.queueRoom → exec i s = .next (u.posts va (.data ((List.range size).map fun q => (P q, byte q))) (vasFrom va size)))) ∧
      (∀ q, q < size → (∀ j, j < size → hostAddr ((va + j) % 2 ^ 56) = false) →
        (∀ j, j < q → translated ((va + j) % 2 ^ 56) = true → s.tlbHit (s.cur / 8) s.ten ((va + j) % 2 ^ 56) = true) →
        translated ((va + q) % 2 ^ 56) = true → s.tlbHit (s.cur / 8) s.ten ((va + q) % 2 ^ 56) = false →
        EndsWaiting i s .xlate 0 (BitVec.ofNat 64 ((va + q) % 2 ^ 56)) (.xlate ((va + q) % 2 ^ 56))) ∧
      ((∃ q, q < size ∧ hostAddr ((va + q) % 2 ^ 56) = true) →
        EndsFar i s va 0 0 0 (.store ((List.range size).map fun q => ((va + q) % 2 ^ 56, byte q))))
    store (.sbOffset r a imm) 1 (.off imm) ∧ store (.sbIndex r a x) 1 (.idx x) ∧
    store (.shOffset r a imm) 2 (.off imm) ∧ store (.shIndex r a x) 2 (.idx x) ∧
    store (.swOffset r a imm) 4 (.off imm) ∧ store (.swIndex r a x) 4 (.idx x) ∧
    store (.sdOffset r a imm) 8 (.off imm) ∧ store (.sdIndex r a x) 8 (.idx x)

/-- 07 R223 and R224; a load that is not near, and a store into a host window, end the strand (R215, R216). -/
def Obligations.CapabilityLoadsAndStores : Prop :=
  ∀ (s : State) (d a : CReg) (imm : BitVec 12) (x : XReg), s.plain →
    let t := s.strand
    let c := (t.getC a).img
    let v := t.getC d
    let load (i : Instr) (m : MemOpnd) : Prop := ∀ va P, t.usable a 0x0001 → opndAt t c 64 m va →
      (va % 64 ≠ 0 → Traps i s 0x14 (capDetail (opC a))) ∧
      (va % 64 = 0 → s.nearAt va 64 P → (s.core s.cur).posted = [] → (s.tenant s.ten).sweepPending = false →
        Completes i s (t.setC d { img := BitVec.ofNat 512 (s.valueAt 64 P)
                                  tag := s.tags.contains ((P 0).flat / 64) && (cPrm c).getLsbD 2 })) ∧
      (va % 64 = 0 → nearAddr s.cur va = false → EndsFar i s va 1 d.toNat (saveC d) (.capLoad ((cPrm c).getLsbD 2)))
    let store (i : Instr) (m : MemOpnd) : Prop := ∀ va P, t.usable a 0x0002 → opndAt t c 64 m va → va % 64 = 0 →
      (v.tag = true → (cPrm c).getLsbD 3 = false → Traps i s 0x12 (capDetail (opC a))) ∧
      (v.tag = true → (cPrm c).getLsbD 3 = true → cScp v.img = 0 → (cPrm c).getLsbD 12 = false →
        Traps i s 0x16 (capDetail (opC a))) ∧
      ((v.tag = true → (cPrm c).getLsbD 3 = true ∧ (cScp v.img = 0 → (cPrm c).getLsbD 12 = true)) →
        (s.postsAt va 64 needW P → s.queueRoom → Posts i s va (.cap (P 0) v.img v.tag)) ∧
        (hostAddr va = true → EndsFar i s va 0 0 0 (.capStore v.img)))
    load (.clcOffset d a imm) (.off imm) ∧ load (.clcIndex d a x) (.idx x) ∧
    store (.cscOffset d a imm) (.off imm) ∧ store (.cscIndex d a x) (.idx x)

/-- 07 R225, Table 3: n elements, governing bits and addresses by kind; a load of which one lane is not near ends the strand as a whole
(R215). 07 R226: the groups of a group-scaled format. -/
def Obligations.VectorLoads : Prop :=
  ∀ (s : State) (ew : Ew) (d y : VReg) (a : CReg) (x : XReg) (pg : PReg), s.plain → s.unbound →
    let t := s.strand
    let c := (t.getC a).img
    let w := ewBits ew
    let base := decompose c (t.getX x).toNat
    let act (g i : Nat) : Prop := pg = 0 ∨ (t.getP pg).getLsbD (g / 8 * i) = true
    let along (k i : Nat) : Idx := stepIdx base k i
    let lin (i : Nat) : Idx := decompose c ((t.getX x).toNat + i)
    let lane (i : Nat) : Nat := if w = 64 then elemAt 64 (t.getV y) i % 2 ^ 32 else elemAt 32 (t.getV y) i
    let count := cExt c 0 * cExt c 1 * cExt c 2 * cExt c 3
    let ng := if w = 64 then 8 else 16
    let gg := if w = 64 then 64 else 32
    let fits := t.usable a 0x0001 ∧ Machine.sizeOf (cFmt c) * 8 = w ∧ cFmt c ≠ 14 ∧ ¬ (cFmt c = 11 ∨ cFmt c = 12 ∨ cFmt c = 13)
    let near (va n : Nat) : Bool := nearAddr s.cur va && nearAddr s.cur ((va + (n - 1)) % 2 ^ 56)
    let load (i : Instr) (n g : Nat) (ok : Nat → Prop) (idx : Nat → Idx) : Prop := fits →
      (∀ j, j < n → act g j → ok j ∧ inShape c (idx j) = true) →
      let va (j : Nat) : Nat := elemAddr c (idx j)
      let lanes := (List.range n).filter (laneActive t pg g)
      (∀ P : Nat → Nat → Place, (s.core s.cur).posted = [] → (∀ j, j < n → act g j → s.nearAt (va j) (w / 8) (P j)) →
        ∃ r, Completes i s (t.setV d r) ∧
          (∀ j, j < n → (act g j → elemAt w r j = s.valueAt (w / 8) (P j)) ∧
            (¬ act g j → elemAt w r j = elemAt w (t.getV d) j)) ∧
          ∀ q, n * w ≤ q → r.getLsbD q = false) ∧
      ∀ j, (lanes.find? fun j => !near (va j) (w / 8)) = some j →
        EndsFar i s (va j) 2 d.toNat (saveV d) (.vecLoad (w / 8) n true (lanes.map fun j => (j, va j)))
    let i : Instr := .vld ew d a x pg
    let gb := if cFmt c = 12 then 12 else 16
    let m := if cFmt c = 12 then 5 else 4
    let X := (t.getX x).toNat
    let inside := (List.range m).filter fun j => decide (X + 32 * j < count)
    let at' (j : Nat) : Nat := elemAddr c (decompose c (X + 32 * j))
    (t.usable a 0x0001 → isGroup (cFmt c) = true →
      (¬ (ew = .z8 ∧ pg = 0 ∧ X % 32 = 0) → Traps i s 0x14 (capDetail (opC a))) ∧
      (ew = .z8 → pg = 0 → X % 32 = 0 →
        (count ≤ X → Traps i s 0x11 (capDetail (opC a) 0 (BitVec.ofNat 48 X))) ∧
        (X < count →
          (∀ P : Nat → Nat → Place, (s.core s.cur).posted = [] → (∀ j ∈ inside, s.nearAt (at' j) gb (P j)) →
            ∃ r, Completes i s (t.setV d r) ∧
              (∀ j, j < m → elemAt (8 * gb) r j = if j ∈ inside then s.valueAt gb (P j) else 0) ∧
              ∀ q, m * (8 * gb) ≤ q → r.getLsbD q = false) ∧
          ∀ j, (inside.find? fun j => !near (at' j) gb) = some j →
            EndsFar i s (at' j) 2 d.toNat (saveV d) (.vecLoad gb m false (inside.map fun j => (j, at' j)))))) ∧
    load (.vld ew d a x pg) (512 / w) w (fun j => (t.getX x).toNat + j < count) lin ∧
    load (.vldsA1 ew d a x pg) (512 / w) w (fun _ => (t.getX x).toNat < count) (along 1) ∧
    load (.vldsA2 ew d a x pg) (512 / w) w (fun _ => (t.getX x).toNat < count) (along 2) ∧
    load (.vldsA3 ew d a x pg) (512 / w) w (fun _ => (t.getX x).toNat < count) (along 3) ∧
    load (.vldg ew d a y pg) ng gg (fun j => lane j < count) (fun j => decompose c (lane j))

/-- 07 R225 and R217: a higher lane's bytes stand behind a lower lane's, so they are written last; a store of which a byte lies in a host
window ends the strand (R215, R216). 07 R226: the groups of a group-scaled format. -/
def Obligations.VectorStores : Prop :=
  ∀ (s : State) (ew : Ew) (v y : VReg) (a : CReg) (x : XReg) (pg : PReg), s.plain → s.unbound →
    let t := s.strand
    let c := (t.getC a).img
    let w := ewBits ew
    let base := decompose c (t.getX x).toNat
    let act (g i : Nat) : Prop := pg = 0 ∨ (t.getP pg).getLsbD (g / 8 * i) = true
    let along (k i : Nat) : Idx := stepIdx base k i
    let lin (i : Nat) : Idx := decompose c ((t.getX x).toNat + i)
    let lane (i : Nat) : Nat := if w = 64 then elemAt 64 (t.getV y) i % 2 ^ 32 else elemAt 32 (t.getV y) i
    let count := cExt c 0 * cExt c 1 * cExt c 2 * cExt c 3
    let ng := if w = 64 then 8 else 16
    let gg := if w = 64 then 64 else 32
    let fits := t.usable a 0x0002 ∧ Machine.sizeOf (cFmt c) * 8 = w ∧ cFmt c ≠ 14 ∧ ¬ (cFmt c = 11 ∨ cFmt c = 12 ∨ cFmt c = 13)
    let puts (i : Instr) (lanes : List Nat) (size : Nat) (va : Nat → Nat) : Prop :=
      let byte (j q : Nat) : Byte := BitVec.ofNat 8 (elemAt (8 * size) (t.getV v) j / 256 ^ q)
      (lanes = [] → Completes i s t) ∧
      ∀ l rest, lanes = l :: rest →
        (∀ P : Nat → Nat → Place, s.queueRoom → (∀ j ∈ lanes, s.postsAt (va j) size needW (P j)) →
          Posts i s (va l) (.data (lanes.flatMap fun j => (List.range size).map fun q => (P j q, byte j q)))
            (lanes.flatMap fun j => vasFrom (va j) size)) ∧
        ((∃ j ∈ lanes, ∃ q, q < size ∧ hostAddr ((va j + q) % 2 ^ 56) = true) →
          EndsFar i s (va l) 0 0 0 (.store (lanes.flatMap fun j => (List.range size).map fun q =>
            ((va j + q) % 2 ^ 56, byte j q)) size))
    let store (i : Instr) (n g : Nat) (ok : Nat → Prop) (idx : Nat → Idx) : Prop := fits →
      (∀ j, j < n → act g j → ok j ∧ inShape c (idx j) = true) →
      puts i ((List.range n).filter (laneActive t pg g)) (w / 8) fun j => elemAddr c (idx j)
    let i : Instr := .vst ew v a x pg
    let m := if cFmt c = 12 then 5 else 4
    let X := (t.getX x).toNat
    (t.usable a 0x0002 → isGroup (cFmt c) = true →
      (¬ (ew = .z8 ∧ pg = 0 ∧ X % 32 = 0) → Traps i s 0x14 (capDetail (opC a))) ∧
      (ew = .z8 → pg = 0 → X % 32 = 0 →
        (count ≤ X → Traps i s 0x11 (capDetail (opC a) 0 (BitVec.ofNat 48 X))) ∧
        (X < count → puts i ((List.range m).filter fun j => decide (X + 32 * j < count)) (if cFmt c = 12 then 12 else 16)
          fun j => elemAddr c (decompose c (X + 32 * j))))) ∧
    store (.vst ew v a x pg) (512 / w) w (fun j => (t.getX x).toNat + j < count) lin ∧
    store (.vstsA1 ew v a x pg) (512 / w) w (fun _ => (t.getX x).toNat < count) (along 1) ∧
    store (.vstsA2 ew v a x pg) (512 / w) w (fun _ => (t.getX x).toNat < count) (along 2) ∧
    store (.vstsA3 ew v a x pg) (512 / w) w (fun _ => (t.getX x).toNat < count) (along 3) ∧
    store (.vstg ew v a y pg) ng gg (fun j => lane j < count) (fun j => decompose c (lane j))

/-- 07 R227. -/
def Obligations.DataAtomics : Prop :=
  (∀ (s : State) (w : Bool) (a : CReg) (b : XReg) (P : Nat → Place), s.plain → s.queueRoom →
    let t := s.strand
    let c := (t.getC a).img
    let n := if w then 8 else 4
    let va := cBase c
    t.usable a 0x0003 → cFmt c = (if w then 4 else 3) → va % n = 0 → s.postsAt va n needRW P →
    let posts (i : Instr) (op : AmoOp) : Prop := Posts i s va (.atomic (P 0) op w (t.getX b) 0)
    posts (.amoadd w 0 a b) .add ∧ posts (.amoswap w 0 a b) .swap ∧ posts (.amoxor w 0 a b) .xor ∧
    posts (.amoor w 0 a b) .or ∧ posts (.amoand w 0 a b) .and ∧ posts (.amocas w 0 a b) .cas ∧
    posts (.amomin w 0 a b) .min ∧ posts (.amomax w 0 a b) .max ∧ posts (.amominu w 0 a b) .minu ∧
    posts (.amomaxu w 0 a b) .maxu) ∧
  ∀ (old b e : Word),
    AmoOp.value .add true old.toNat b e = (old.toNat + b.toNat) % 2 ^ 64 ∧
    AmoOp.value .add false old.toNat b e = (old.toNat + b.toNat) % 2 ^ 32 ∧
    AmoOp.value .swap true old.toNat b e = b.toNat ∧
    AmoOp.value .xor true old.toNat b e = old.toNat ^^^ b.toNat ∧
    AmoOp.value .or true old.toNat b e = old.toNat ||| b.toNat ∧
    AmoOp.value .and true old.toNat b e = old.toNat &&& b.toNat ∧
    AmoOp.value .cas true old.toNat b e = (if old = e then b.toNat else old.toNat) ∧
    AmoOp.value .min true old.toNat b e = (BitVec.ofInt 64 (min old.toInt b.toInt)).toNat ∧
    AmoOp.value .max true old.toNat b e = (BitVec.ofInt 64 (max old.toInt b.toInt)).toNat ∧
    AmoOp.value .minu true old.toNat b e = min old.toNat b.toNat ∧
    AmoOp.value .maxu true old.toNat b e = max old.toNat b.toNat ∧
    (let o := old.setWidth 32
     let x := b.setWidth 32
     AmoOp.value .swap false old.toNat b e = b.toNat % 2 ^ 32 ∧
     AmoOp.value .xor false old.toNat b e = (old.toNat ^^^ b.toNat) % 2 ^ 32 ∧
     AmoOp.value .or false old.toNat b e = (old.toNat ||| b.toNat) % 2 ^ 32 ∧
     AmoOp.value .and false old.toNat b e = (old.toNat &&& b.toNat) % 2 ^ 32 ∧
     AmoOp.value .cas false old.toNat b e =
       (if old.toNat % 2 ^ 32 = e.toNat % 2 ^ 32 then b.toNat % 2 ^ 32 else old.toNat % 2 ^ 32) ∧
     AmoOp.value .min false old.toNat b e = (BitVec.ofInt 32 (min o.toInt x.toInt)).toNat ∧
     AmoOp.value .max false old.toNat b e = (BitVec.ofInt 32 (max o.toInt x.toInt)).toNat ∧
     AmoOp.value .minu false old.toNat b e = min (old.toNat % 2 ^ 32) (b.toNat % 2 ^ 32) ∧
     AmoOp.value .maxu false old.toNat b e = max (old.toNat % 2 ^ 32) (b.toNat % 2 ^ 32))

/-- 07 R216 and Table 1 of R215, with R228 for atomics in host memory. -/
def Obligations.FarAccesses : Prop :=
  ∀ (s : State) (d b : XReg) (a : CReg) (imm : BitVec 12) (x : XReg) (w : Bool) (va : Nat), s.plain →
    let t := s.strand
    let c := (t.getC a).img
    let k := s.cur
    let ends (i : Instr) (op : FarOp) : Prop := EndsFar i s va 0 d.toNat 0 op
    let load (size : Nat) (sg : Bool) (o i : Instr) : Prop := t.usable a 0x0001 → nearAddr k va = false →
      (opndAt t c size (.off imm) va → ends o (.load size sg)) ∧ (opndAt t c size (.idx x) va → ends i (.load size sg))
    let atomic (op : AmoOp) (i : Instr) : Prop := t.usable a 0x0003 → cFmt c = (if w then 4 else 3) → va = cBase c →
      va % (if w then 8 else 4) = 0 →
      let host := op = .add ∨ op = .swap ∨ op = .cas
      ((if hostAddr va = true then host else d ≠ 0) → ends i (.atomic op w (t.getX b) (t.getX d))) ∧
      (hostAddr va = true → ¬ host → Traps i s 0x25 (BitVec.ofNat 56 va))
    load 1 true (.lbOffset d a imm) (.lbIndex d a x) ∧ load 2 true (.lhOffset d a imm) (.lhIndex d a x) ∧
    load 4 true (.lwOffset d a imm) (.lwIndex d a x) ∧ load 8 true (.ldOffset d a imm) (.ldIndex d a x) ∧
    load 1 false (.lbuOffset d a imm) (.lbuIndex d a x) ∧ load 2 false (.lhuOffset d a imm) (.lhuIndex d a x) ∧
    load 4 false (.lwuOffset d a imm) (.lwuIndex d a x) ∧ atomic .add (.amoadd w d a b) ∧
    atomic .swap (.amoswap w d a b) ∧ atomic .xor (.amoxor w d a b) ∧ atomic .or (.amoor w d a b) ∧
    atomic .and (.amoand w d a b) ∧ atomic .cas (.amocas w d a b) ∧ atomic .min (.amomin w d a b) ∧
    atomic .max (.amomax w d a b) ∧ atomic .minu (.amominu w d a b) ∧ atomic .maxu (.amomaxu w d a b)

/-- 08 R263, R278, R280 and R281, with the wrap rule of R270. u is s once the near cell's waiters are tested again, by its home's own
lag (Table 8). That a near cell changes as the instruction issues is log 12, and that a peer's watch counts under the wrap rule and not in
WAIT is log 33. A far operation is posted, and applied by its bound (R499). -/
def Obligations.CounterChanges : Prop :=
  ∀ (s : State) (a : CReg) (b : XReg) (scope : Scope) (p : Place), s.plain → s.cellAt a needRW p →
    let t := s.strand
    let va := cBase (t.getC a).img
    let u := s.lagged (homeLag va) fun s => s.retest p.flat
    let x := t.getX b
    let old := w64 (memNat s.mem p.flat 8)
    let changes (i : Instr) (max : Bool) (new : Word) : Prop :=
      (nearAddr s.cur va = true → (s.core s.cur).posted = [] → s.badAt p.flat = false →
        (s.memOk → s.distances p.flat old = [] → ∃ s', exec i s = .next s' ∧ s'.strand = { t with pc := t.pc + 4 } ∧
          w64 (memNat s'.mem p.flat 8) = new ∧
          (∀ q, q < p.flat ∨ p.flat + 8 ≤ q → memGet s'.mem q = memGet s.mem q) ∧
          (∀ g, g ≠ p.flat / 64 → (g ∈ s'.tags ↔ g ∈ s.tags)) ∧ s'.bms = s.bms) ∧
        (s.memOk → (∀ d ∈ u.distances p.flat old, (new - old).toNat < d + 2 ^ 63) → ∃ s', exec i s = .next s' ∧
          s'.strand = { t with pc := t.pc + 4 } ∧ w64 (memNat s'.mem p.flat 8) = new ∧
          ∀ q, q < p.flat ∨ p.flat + 16 ≤ q → memGet s'.mem q = memGet s.mem q) ∧
        ((∃ d ∈ u.distances p.flat old, d + 2 ^ 63 ≤ (new - old).toNat) →
          exec i s = .next (u.takeTrap { cause := 0x40, detail := BitVec.ofNat 56 va }))) ∧
      (nearAddr s.cur va = false → s.queueRoom →
        Posts i s va (.counter p max x) [va] (s.homeDue (s.cur / 8) (s.spareHop s.cur) p.home))
    let larger := if old < x then x else old
    (s.untouched p.flat → u = s) ∧
    changes (.kadd a b) false (old + x) ∧ changes (.kmax a b) true larger ∧
    (s.drained → changes (.kaddRel scope a b) false (old + x) ∧ changes (.kmaxRel scope a b) true larger)

/-- 08 R263, R282 and R283. u is s once the near cell's waiters are tested again, which a KREAD does not do (R282). A satisfied KWAIT.acq
orders what follows at its scope (R279). -/
def Obligations.CounterReadsAndWaits : Prop :=
  ∀ (s : State) (d b : XReg) (a : CReg) (scope : Scope) (p : Place), s.plain → s.drained → s.memOk → s.numbered →
    s.cellAt a needR p →
    let t := s.strand
    let u := s.retest p.flat
    let k := s.cur
    let va := cBase (t.getC a).img
    let v := w64 (memNat s.mem p.flat 8)
    let thr := t.getX b
    let ends (u : State) (i : Instr) (kind : WKind) (wcap : BitVec 4) (warg : Word) (f : State → Held → Prop) : Prop :=
      (s.core k).inPhase = false → ∀ r, u.roomFor (k / 8) t.tenant
          ((u.mkBookmark k t.next kind (liveSaved t.next 0) wcap warg false).slots) = some r →
        ∃ s' h, exec i s = .next s' ∧ (s'.core k).mode = .saving ∧ (s'.core k).strand = {} ∧
          (∀ j, j ≠ k → s'.core j = u.core j) ∧ h ∈ s'.bms ∧ h.cluster = k / 8 ∧ h.bm.kind = kind ∧ h.bm.warg = warg ∧
          h.bm.wcap = wcap ∧ h.bm.bind = false ∧ h.bm.strand.pc = t.pc + 4 ∧ h.bm.strand.x = t.x ∧
          memNat s'.mem p.flat 8 = memNat s.mem p.flat 8 ∧ f s' h
    let waits (i : Instr) (ordered : State → State) : Prop :=
      (nearAddr k va = true → s.badAt p.flat = false →
        ((v - thr).toNat < 2 ^ 63 → exec i s = .next ((ordered u).past t)) ∧
        (2 ^ 63 ≤ (v - thr).toNat → u.tableFits p.flat t.tenant = true → ends u i .counter a thr fun _ h =>
          ∃ dep, h.holder = .counter p.flat va thr dep false false)) ∧
      (nearAddr k va = false → ends s i .counter a thr fun s' h =>
        ∃ op ∈ s'.counterOps, h.holder = .travelling op.id ∧ op.place = p.flat ∧ op.va = va ∧ op.kind = .wait thr h.id ∧
          op.tenant = t.tenant)
    (s.untouched p.flat → u = s) ∧
    (nearAddr k va = true → s.badAt p.flat = false → exec (.kread d a) s = .next (s.past (t.setX d v))) ∧
    (nearAddr k va = false → ends s (.kread d a) .far 0 (farWarg va 0 d.toNat) fun _ h => h.holder = .far va .kread) ∧
    waits (.kwait a b) id ∧ waits (.kwaitAcq scope a b) fun u => u.ordered scope k t.tenant

/-- 10 R334, R338, R339 and R342. -/
def Obligations.SpawnYieldFin : Prop :=
  ∀ (s : State) (a : XReg) (b : CReg), s.plain →
    let t := s.strand
    let x := t.getX a
    let k := (x.extractLsb' 16 10).toNat
    let n := x.extractLsb' 0 6
    let e := s.task k n
    let same (s' : State) : Prop := s'.mem = s.mem ∧ s'.tags = s.tags
    let found := s.inNodes s.ten k = true ∧ s.taskValid k e = true ∧ e.tenant.toNat = s.ten
    let named := found ∧ e.comp = t.comp
    let size := if (t.getC b).tag then 2 else 1
    ((t.getC b).rev = false → named →
      (∀ r, s.roomFor (k / 8) s.ten size = some r → ∃ s' h, exec (.spawn a b) s = .next s' ∧ same s' ∧
        s'.strand = { t with pc := t.pc + 4 } ∧ (∀ j, j ≠ s.cur → s'.core j = s.core j) ∧ s'.bms = s.bms ++ [h] ∧
        h.holder = .ready ∧ h.cluster = k / 8 ∧ h.stamp = s.cycle ∧ h.bm.kind = .new ∧ h.bm.bind = x.getLsbD 6 ∧
        h.bm.lcore = k ∧ h.bm.task = n ∧ h.bm.prio = e.prio ∧ h.bm.gen = s.gen s.ten ∧
        h.bm.warg.toNat = s.cur % 2 ^ 32 * 2 ^ 32 + x.toNat / 2 ^ 32 ∧
        h.bm.arg = (if (t.getC b).tag then some { img := (t.getC b).img, tag := true } else none)) ∧
      (s.roomFor (k / 8) s.ten size = none → Traps (.spawn a b) s 0x44 (taskDetail x 0))) ∧
    (found → e.comp ≠ t.comp → (t.getC b).rev = false → Traps (.spawn a b) s 0x43 (taskDetail x 1) ∧
      Traps (.tblk a) s 0x43 (taskDetail x 1) ∧ Traps (.tublk a) s 0x43 (taskDetail x 1)) ∧
    (named → ∀ v : Bool, ∃ s', exec (if v then .tblk a else .tublk a) s = .next s' ∧ same s' ∧ s'.bms = s.bms ∧
      s'.strand = { t with pc := t.pc + 4 } ∧ s'.task k n = { e with blk := v } ∧
      ∀ j m, ¬ (j = k ∧ m = n) → s'.task j m = s.task j m) ∧
    (∀ w, s.drain s.cur = .waits w → exec .fin s = .next (w.leaving .draining)) ∧
    (s.drained → (∃ s', exec .fin s = .next s' ∧ same s' ∧ s'.bms = s.bms ∧ (s'.core s.cur).mode = .draining ∧
        (s'.core s.cur).strand = {} ∧ ∀ j, j ≠ s.cur → s'.core j = s.core j) ∧
      ((s.core s.cur).inPhase = false → ∀ r, s.roomFor (s.cur / 8) t.tenant
          ((s.mkBookmark s.cur t.next .yield (liveSaved t.next 0) 0 0 false).slots) = some r →
        ∃ s' h, exec .yield s = .next s' ∧ same s' ∧ s'.bms = s.bms ++ [h] ∧ (s'.core s.cur).mode = .saving ∧
          (s'.core s.cur).strand = {} ∧ (∀ j, j ≠ s.cur → s'.core j = s.core j) ∧ h.holder = .ready ∧
          h.cluster = s.cur / 8 ∧ h.stamp = s.cycle ∧ h.bm.kind = .yield ∧ h.bm.bind = false ∧
          h.bm.strand.pc = t.pc + 4))

/-- 10 R337 over the descriptor of R335. That a failing unit of the descriptor or the slot raises MEM_INTEGRITY with the descriptor's
address rests on logs 25 and 31. -/
def Obligations.InboxMessages : Prop :=
  ∀ (s : State) (d a : XReg) (b : CReg) (n : BitVec 3) (core base size : Nat), s.plain → s.drained → s.memOk → s.numbered →
    let t := s.strand
    let c := (t.getC b).img
    let va := cBase c
    (t.getC b).rev = false → (t.getC b).tag = true → (cScp c = 2 ∨ cOwn c = t.comp) → cFmt c = 0 → cRankm1 c = 0 →
    cExt c 0 = 64 → cPrm c &&& 0x0080#16 = 0x0080#16 → windowOf va = .spad core 0 → s.partPlace s.ten core = some (base, size) →
    let box := s.inboxAt base size
    let arrival := w64 (memNat s.mem base 8)
    let used := (arrival - w64 (memNat s.mem (base + 16) 8)).toNat
    let slot := base + box.ring + 64 * (arrival.toNat % box.slots)
    let send : Instr := .msend d b a n
    let sendW : Instr := .msendW b a n
    let appends (s' : State) : Prop :=
      (∀ j, j < 8 → memNat s'.mem (slot + 8 * j) 8 = if j ≤ n.toNat then (t.getX (a + BitVec.ofNat 5 j)).toNat else 0) ∧
      w64 (memNat s'.mem base 8) = arrival + 1 ∧ slot / 64 ∉ s'.tags ∧ s'.bms = s.bms ∧
      ∀ q, ¬ (slot ≤ q ∧ q < slot + 64) → ¬ (base ≤ q ∧ q < base + 8) → memGet s'.mem q = memGet s.mem q
    (s.absentOn s.ten core = true → exec send s = .next ((s.askRestore s.ten core).past (t.setX d 1)) ∧
      exec sendW s = .next (s.awaits va)) ∧
    (s.absentOn s.ten core = false →
      (s.badAt base = true ∨ (box.opened = true ∧ used < box.slots ∧ s.badAt slot = true) →
        Traps send s 0x23 (BitVec.ofNat 56 va) ∧ Traps sendW s 0x23 (BitVec.ofNat 56 va)) ∧
      (box.opened = false → s.badAt base = false → Completes send s (t.setX d 2) ∧ Traps sendW s 0x45 (BitVec.ofNat 56 va)) ∧
      (box.opened = true → used < box.slots → s.badAt base = false → s.badAt slot = false → s.distances base arrival = [] →
        (∃ s', exec send s = .next s' ∧ s'.strand = { t.setX d 0 with pc := t.pc + 4 } ∧ appends s') ∧
        ∃ s', exec sendW s = .next s' ∧ s'.strand = { t with pc := t.pc + 4 } ∧ appends s') ∧
      (box.opened = true → box.slots ≤ used → s.badAt base = false → Completes send s (t.setX d 1) ∧
        (let thr := arrival - w64 box.slots + 1
        s.untouched (base + 16) → (s.core s.cur).inPhase = false → s.tableFits (base + 16) t.tenant = true → ∀ r, s.roomFor (s.cur / 8) t.tenant
            ((s.mkBookmark s.cur t .send (liveSaved t (saveC b)) b thr false).slots) = some r →
          ∃ s' h, exec sendW s = .next s' ∧ (s'.core s.cur).mode = .saving ∧ h ∈ s'.bms ∧ h.bm.kind = .send ∧
            h.bm.strand.pc = t.pc ∧ h.bm.strand.getC b = t.getC b ∧
            ∃ dep, h.holder = .counter (base + 16) (va + 16) thr dep false false)))

/-- 10 R340 and R341; a slip in a unit that fails raises MEM_INTEGRITY before anything is written (06 R198, R200). -/
def Obligations.ServiceCalls : Prop :=
  ∀ (s : State) (d b : CReg) (a : XReg), s.plain → s.memOk → (s.strand.getC b).rev = false →
    let t := s.strand
    let page := (s.tenant s.ten).slippage
    let slip := (Table.get s.service.slips s.ten {}).issue
    (256 ≤ s.queuedCalls s.ten ∨ slip = none → Completes (.scall d a b) s (t.setC d {})) ∧
    ∀ n p place, s.queuedCalls s.ten < 256 → slip = some (n, p) →
      s.placeOf s.ten (page + 16 * n) needRW true (page + 16 * n) = .ok place →
      (s.badAt place.flat = true → Traps (.scall d a b) s 0x23 (BitVec.ofNat 56 (page + 16 * n))) ∧
      (s.badAt place.flat = false → ∃ s' call img, exec (.scall d a b) s = .next s' ∧ s'.strand = { t.setC d { img, tag := true } with pc := t.pc + 4 } ∧
        s'.service.calls = s.service.calls ++ [call] ∧ call.tenant = s.ten ∧ call.gen = s.gen s.ten ∧ call.comp = t.comp ∧
        call.word = t.getX a ∧ call.cap = t.getC b ∧ call.slip = some n ∧ call.fault = none ∧
        cFmt img = 14 ∧ cBase img = (page + 16 * n) % 2 ^ 56 ∧ cPrm img = 0x0800 ∧ cOwn img = t.comp ∧ cOty img = 0 ∧
        cExt img 0 = 1 ∧ memNat s'.mem place.flat 8 = 0 ∧
        (∀ q, q < place.flat ∨ place.flat + 8 ≤ q → memGet s'.mem q = memGet s.mem q) ∧ s'.bms = s.bms)

/-- 07 R238 and Table 6; the forms of R247 to R255; the wait for a record of R239; the layout conditions of R254 with the reasons of 13
R422. -/
def Obligations.EngineCommands : Prop :=
  (∀ (src dst : Vec) (w : Word),
    let r := cRankm1 src
    let f (k : Nat) : Nat := w.toNat / 2 ^ (24 + 4 * k) % 16
    let perm (j : Nat) : Nat := w.toNat / 2 ^ (3 * j) % 8
    let merge (j : Nat) : Bool := w.getLsbD (40 + j)
    let exts := (List.range (r + 1)).flatMap fun k =>
      if f k = 0 then [cExt src k] else [2 ^ f k, cExt src k / 2 ^ f k]
    let V := exts.length
    let run (j : Nat) : Nat := ((List.range j).filter fun i => !merge i).length
    let R := run (V - 1) + 1
    let extent (q : Nat) : Nat :=
      ((List.range V).filter fun j => run j == q).foldl (fun n j => n * exts.getD (perm j) 1) 1
    let applies (n : Nat) : Prop :=
      (n = 1 ∧ (w.getLsbD 47 = true ∨ ∃ i, 51 ≤ i ∧ i < 64 ∧ w.getLsbD i = true)) ∨
      (n = 2 ∧ ∃ k, r < k ∧ k < 4 ∧ f k ≠ 0) ∨ (n = 3 ∧ ∃ k, k ≤ r ∧ cExt src k % 2 ^ f k ≠ 0) ∨
      (n = 4 ∧ V ≠ (w.extractLsb' 48 3).toNat + 1) ∨
      (n = 5 ∧ ((∃ a, a < V ∧ ∀ j, j < V → perm j ≠ a) ∨ ∃ j, V ≤ j ∧ j < 8 ∧ perm j ≠ 0)) ∨
      (n = 6 ∧ ∃ j, V ≤ j + 1 ∧ j < 7 ∧ merge j = true) ∨ (n = 7 ∧ 4 < R) ∨
      (n = 8 ∧ (cRankm1 dst + 1 ≠ R ∨ ∃ q, q < R ∧ extent q ≠ cExt dst q))
    (layoutReason src dst w ≠ 0 → applies (layoutReason src dst w)) ∧
    ∀ n, applies n → layoutReason src dst w ≠ 0 ∧ layoutReason src dst w ≤ n) ∧
  ∀ (s : State) (m : Bool) (d b e k : CReg) (x : XReg) (op : RedOp) (p : Place), s.plain → s.cellAt k needRW p →
    s.homeRefuses p = false →
    let t := s.strand
    let img (r : CReg) : Vec := (t.getC r).img
    let f (r : CReg) : Nat := cFmt (img r)
    let plainF (r : CReg) : Prop := f r ≠ 14 ∧ isGroup (f r) = false
    let word (r : CReg) : CapReg := { img := img r, tag := true }
    let none : CapReg := { img := 0, tag := true }
    let issues (i : Instr) (engine : Nat) (op : CmdOp) (dst src idx : CapReg) (val : Word) : Prop :=
      let here := s.cmds.filter fun c => c.engine == engine
      let room : Prop := here.length < 256 ∧ (here.filter fun c => c.tenant == s.ten).length < 64
      let c : Cmd :=
        { id := s.nextId, engine, op, perCmd := m, dst, src, idx, ctr := word k, val, tenant := s.ten, gen := s.gen s.ten
          comp := t.comp, lcore := s.cur, sid := t.sid }
      (room → exec i s = .next { s.past t with cmds := s.cmds ++ [c], nextId := s.nextId + 1 }) ∧
      (¬ room → EndsWaiting i s .slot 0 (if engine < 128 then 0 else 1) (.slot engine))
    let eng := s.cur / 8
    let pair := t.usable d 0x0400 ∧ t.usable b 0x0200 ∧ f b = f d
    let whole (r : CReg) : Prop := isGroup (f r) = true → cExt (img r) 0 % 32 = 0
    let index (r : CReg) : Prop := t.usable e 0x0200 ∧ f e = 3 ∧ cRankm1 (img e) = 0 ∧
      cExt (img e) 0 = cExt (img r) (cRankm1 (img r))
    (pair → f d ≠ 14 → whole d → whole b → issues (.xcopy m d b k) eng .copy (word d) (word b) none 0) ∧
    (pair → plainF d → cRankm1 (img b) = cRankm1 (img d) →
      (index d → issues (.xgath m d b e k) eng .gath (word d) (word b) (word e) 0) ∧
      (index b → issues (.xscat m d b e k) eng .scat (word d) (word b) (word e) 0)) ∧
    (t.usable d 0x0400 → plainF d → f d ≠ 15 → issues (.xfill m d x k) eng .fill (word d) none none (t.getX x)) ∧
    (pair → 1 ≤ f d → (f d ≤ 8 ∨ (op ≠ .add ∧ (f d = 9 ∨ f d = 10))) →
      issues (.xred m op d b k) eng (.red op) (word d) (word b) none 0) ∧
    (pair → f d = 0 → cRankm1 (img b) = 0 → cStr (img b) 0 = 1 → (t.getC e).rev = false → (t.getC e).tag = true →
      (cScp (img e) = 2 ∨ cOwn (img e) = t.comp) →
      (cOty (img e) = 0xFFF3 ∨ (1 ≤ (cOty (img e)).toNat ∧ (cOty (img e)).toNat ≤ 0xFFEF)) → f e = 0 →
      cRankm1 (img e) = 0 → cExt (img e) 0 = 64 → cPrm (img e) &&& 0x0200#16 = 0x0200#16 →
      issues (.xcryp m d b e k) eng .cryp (word d) (word b) (word e) 0) ∧
    (pair → plainF d → f d ≠ 15 →
      let reason := layoutReason (img b) (img d) (t.getX x)
      (reason = 0 → issues (.xbind m d b x k) (binderyOf s.cur) .bind (word d) (word b) none (t.getX x)) ∧
      (reason ≠ 0 → Traps (.xbind m d b x k) s 0x31 (layoutDetail reason (t.getX x)))) ∧
    (t.usable d 0x0200 → plainF d → f d ≠ 15 → issues (.xflush m d k) eng .flush (word d) none none 0) ∧
    (t.usable d 0x0400 → plainF d → f d ≠ 15 → issues (.xinval m d k) eng .inval (word d) none none 0)

/-- 07 R232, R236 and R244; the zeros that abandoning an XCRYP writes are R252's. -/
def Obligations.StreamsAndResumes : Prop :=
  ∀ (s : State) (v : BitVec 3) (b : CReg) (a : XReg), s.plain →
    let t := s.strand
    let c := (t.getC b).img
    let x := t.getX a
    let ew := (x.extractLsb' 56 3).toNat
    let moved (s' : State) : Prop := s'.mem = s.mem ∧ s'.tags = s.tags ∧ s'.bms = s.bms ∧ s'.strand.pc = t.pc + 4 ∧
      s'.strand.x = t.x ∧ s'.strand.c = t.c
    ((s.core s.cur).posted = [] → t.usable b 0x0001 → cFmt c ≠ 14 → cFmt c ≠ 15 → isGroup (cFmt c) = false →
      x.extractLsb' 59 5 = 0 → x.extractLsb' 0 32 ≠ 0 → ew < 4 → Machine.sizeOf (cFmt c) = 2 ^ ew →
      ∃ s' d, exec (.sbind v b a) s = .next s' ∧ moved s' ∧ s'.strand.v = t.v ∧ s'.strand.bind[v.toNat]? = some (some d) ∧
        (∀ j : Fin 8, j.val ≠ v.toNat → s'.strand.bind[j] = t.bind[j]) ∧ sdTag d = true ∧ sdRevoked d = false ∧ sdNext d = 0 ∧
        sdCount d = (x.extractLsb' 0 32).toNat ∧ sdStep d = (x.extractLsb' 32 24).toNat ∧ sdEw d = 8 * 2 ^ ew ∧
        cBase (sdCap d) = cBase c ∧ cFmt (sdCap d) = cFmt c ∧
        (∀ q, q < 4 → cExt (sdCap d) q = cExt c q ∧ cStr (sdCap d) q = cStr c q) ∧
        ∀ st ∈ (s'.core s'.cur).strips, st.owner = 0 → st.reg ≠ v.toNat) ∧
    (∃ s', exec (.sfree v) s = .next s' ∧ moved s' ∧ s'.strand.bind[v.toNat]? = some none ∧ s'.strand.getV (3#2 ++ v) = 0 ∧
      (∀ j : Fin 8, j.val ≠ v.toNat → s'.strand.bind[j] = t.bind[j]) ∧
      ∀ r : VReg, r.toNat ≠ 24 + v.toNat → s'.strand.getV r = t.getV r) ∧
    ((t.getC b).rev = false → (t.getC b).tag = true → (cScp c = 2 ∨ cOwn c = t.comp) → cOty c = 0xFFF0 →
      (∀ f, s.faultedOf (cBase c % 2 ^ 32) = some f → f.live = true → f.cmd.tenant = s.ten →
        (cPrm c &&& 0x0080#16 = 0x0080#16 → s.cmdRoom f.cmd.engine s.ten = true →
          ∃ s', exec (.xresume b) s = .next s' ∧ moved s' ∧
            s'.cmds = s.cmds ++ [{ f.cmd with state := .queued, id := s.nextId }] ∧
            s'.faulted = s.faulted.filter fun g => g.handle != f.handle) ∧
        (cPrm c &&& 0x0080#16 = 0 → f.cmd.op ≠ .cryp →
          ∃ s', exec (.xresume b) s = .next s' ∧ moved s' ∧ s'.cmds = s.cmds ∧
            s'.faulted = s.faulted.filter fun g => g.handle != f.handle) ∧
        (cPrm c &&& 0x0080#16 = 0 → f.cmd.op = .cryp → (f.cmd.tagOk = true ∨ f.resumable = false) →
          ∃ s', exec (.xresume b) s = .next s' ∧ moved s' ∧ s'.cmds = s.cmds ∧
            s'.faulted = s.faulted.filter fun g => g.handle != f.handle) ∧
        (cPrm c &&& 0x0080#16 = 0 → f.cmd.op = .cryp → f.cmd.tagOk = false → f.resumable = true →
          ∃ s', exec (.xresume b) s = .next s' ∧ s'.cmds = s.cmds ∧ s'.bms = s.bms ∧ s'.strand = { t with pc := t.pc + 4 } ∧
            (s'.faulted = s.faulted.filter fun g => g.handle != f.handle) ∧
            ∀ P : Nat → Place, s.memOk → (∀ q, q < f.cmd.walk →
                let va := elemAddr f.cmd.dst.img (decompose f.cmd.dst.img q)
                translated va = false ∧ s.heldAt s.ten va = false ∧ s.placesOf s.ten va 1 needW = .ok [P q] ∧ s.direct [P q]) →
              (∀ q, q < f.cmd.walk → memGet s'.mem (P q).flat = 0 ∧ (P q).flat / 64 ∉ s'.tags) ∧
              ∀ a, (∀ q, q < f.cmd.walk → (P q).flat ≠ a) → memGet s'.mem a = memGet s.mem a)) ∧
      ((∀ f, s.faultedOf (cBase c % 2 ^ 32) = some f → f.live = false ∨ f.cmd.tenant ≠ s.ten) →
        Traps (.xresume b) s 0x10 (capDetail 31)))

/-- 11 R359 to R364; `G` are the four granules of the descriptor and `Q` the two of a pair. -/
def Obligations.MatrixJobs : Prop :=
  ∀ (s : State) (d : XReg) (ce ck : CReg) (e : Nat) (G Q : Nat → CapReg), s.plain → s.drained → s.memOk →
    let t := s.strand
    let desc := (t.getC ce).img
    let base := cBase desc
    let g := (G 0).img
    let group := isGroup (jBfmt g)
    let codes := if group then Q 0 else G 2
    let scales := if group then Q 1 else {}
    let i : Instr := .mjob d ce ck
    t.usable ce 0x0807 → byteForm 256 desc = true → base % 256 = 0 → s.jobPort (t.getC ck) (opC ck) = .ok e →
    s.heldAt s.ten base = false → (∀ j, j < 4 → s.engineGranule s.ten (base + 64 * j) = .ok (s, G j)) →
    (group = true → s.heldAt s.ten (cBase (G 2).img) = false) →
    (group = true → ∀ j, j < 2 → s.engineGranule s.ten (cBase (G 2).img + 64 * j) = .ok (s, Q j)) →
    (jReservedOk g = false → Traps i s 0x50 (jobDetail 1 0)) ∧
    (jReservedOk g = true → (jCfmt g = 6 ∨ jCfmt g = 7 ∨ jCfmt g = 8) →
      (if group then jSfmt g = 9 ∨ jSfmt g = 16 else jSfmt g = 0) → (tileOf (jAfmt g) (jBfmt g)).isSome = true →
      1 ≤ jM g → jM g ≤ 65536 → 1 ≤ jN g → jN g ≤ 65536 → 1 ≤ jK g → jK g ≤ 1048576 →
      s.slotCheck 1 anyForm 0x0101 (G 1) = .ok () →
      s.slotCheck 2 (if group then pairForm else anyForm) (if group then 0x0005 else 0x0101) (G 2) = .ok () →
      (group = true → s.slotCheck 4 anyForm 0x0101 (Q 0) = .ok () ∧ s.slotCheck 5 anyForm 0x0101 (Q 1) = .ok () ∧
        pairOk (Q 0).img (Q 1).img = true) →
      s.slotCheck 3 anyForm (if jAcc g then 0x0103 else 0x0102) (G 3) = .ok () →
      (let ops := slotList g (G 1).img (G 2).img codes.img scales.img (G 3).img
      let places := [(0, desc)] ++ ops.map (fun x => (x.1, x.2.1)) ++ (if group then [(2, (G 2).img)] else [])
      (∀ o ∈ ops, slotShape o = .ok () ∧ (o.1 ≠ 3 → overlaps (G 3).img o.2.1 = false)) →
      (∀ x ∈ places, inPlace e x.2 = true ∧ s.unheldByte x.2 = none) →
      let here := s.jobs.filter fun j => j.engine == e
      let mine := here.filter fun j => j.tenant == s.ten
      let first := jClass g = 0
      (16 ≤ mine.length → Completes i s (t.setX d 1)) ∧
      (mine.length < 16 → 64 ≤ here.length → Completes i s (t.setX d 2)) ∧
      (mine.length < 16 → here.length < 64 →
        (first → (∃ j ∈ here, jClass j.control = 0) → Completes i s (t.setX d 3)) ∧
        (first → (∀ j ∈ here, jClass j.control ≠ 0) → (s.tenant s.ten).class0.getLsbD e = false →
          Completes i s (t.setX d 4)) ∧
        ((first → (∀ j ∈ here, jClass j.control ≠ 0) ∧ (s.tenant s.ten).class0.getLsbD e = true) →
          ∀ P, s.placeOf s.ten base needR false base = .ok P →
          ∃ s' id job, exec i s = .next s' ∧ s'.strand = { t.setX d id with pc := t.pc + 4 } ∧
            id.toNat = 2 ^ 63 + e % 128 * 2 ^ 16 + (s.mxe e).count.toNat ∧ s'.jobs = s.jobs ++ [job] ∧ job.engine = e ∧
            job.tenant = s.ten ∧ job.control = g ∧ job.a = G 1 ∧ job.b = codes ∧ job.scale = scales ∧ job.cc = G 3 ∧
            job.pair = (if group then G 2 else {}) ∧
            job.seq = (s.mxe e).count ∧ job.accepted = s.cycle / 2 ∧ (s'.mxe e).count = (s.mxe e).count + 1 ∧
            memNat s'.mem (P.flat + 40) 8 = id.toNat ∧ memGet s'.mem (P.flat + 48) = 1 ∧
            ∀ q, q < P.flat + 40 ∨ P.flat + 59 ≤ q → memGet s'.mem q = memGet s.mem q))))

/-- 12 R409, R410 and R415. -/
def Obligations.ClaimsAndRevocations : Prop :=
  ∀ (s : State) (d b : XReg) (a k : CReg), s.plain →
    let t := s.strand
    let c := (t.getC a).img
    let n := cBase c
    let e := s.slot n
    let same (s' : State) : Prop := s'.mem = s.mem ∧ s'.tags = s.tags ∧ s'.bms = s.bms
    let held := (t.getC a).rev = false ∧ (t.getC a).tag = true ∧ (cScp c = 2 ∨ cOwn c = t.comp)
    (held → cOty c = 0xFFF2 → cFmt c = 0 → cRankm1 c = 0 → cExt c 0 = 1 → cPrm c &&& 0x0080#16 = 0x0080#16 → n < 8192 →
      e.allot = true → e.tenant = s.ten → e.tgen = s.gen s.ten →
      (e.claimed = true → ∃ v : Word, Completes (.aclaim d a b) s (t.setX d v) ∧
        v.toNat = 2 ^ 63 + e.adid.toNat % 2 ^ 32 * 2 ^ 16 + e.cgen.toNat) ∧
      (e.claimed = false → ∃ s' img, exec (.aclaim d a b) s = .next s' ∧ same s' ∧
        s'.strand = { (t.setX d ((e.cgen + 1).setWidth 64)).setC a { img, tag := true } with pc := t.pc + 4 } ∧
        s'.slot n = { e with claimed := true, cgen := e.cgen + 1, comp := t.comp, adid := (t.getX b).extractLsb' 0 48 } ∧
        (∀ q, q ≠ n → s'.slot q = s.slot q) ∧ cFmt img = 0 ∧ cBase img = e.dbase % 2 ^ 56 ∧ cExt img 0 = e.dsize % 2 ^ 32 ∧
        cOty img = 0 ∧ cOwn img = t.comp ∧ cPrm img = 0x0703)) ∧
    (s.drained → t.usable a 0 → cFmt c = 0 → cRankm1 c = 0 → cStr c 0 = 1 →
      ∀ q f, s.claimedSlot s.ten (cBase c) = some (q, f) → cExt c 0 = f.dsize → f.comp = t.comp →
        ∃ s' img, exec (.afree a) s = .next s' ∧ same s' ∧
          s'.strand = { t.setC a { img, tag := true } with pc := t.pc + 4 } ∧ (s'.slot q).claimed = false ∧
          (s'.slot q).cgen = (s.slot q).cgen ∧ (∀ r, r ≠ q → s'.slot r = s.slot r) ∧ cOty img = 0xFFF2 ∧
          cBase img = q % 2 ^ 56 ∧ cPrm img = 0x0080) ∧
    ∀ p, s.drained → t.usable a 0x000F → cFmt c = 0 → cRankm1 c = 0 → cStr c 0 = 1 → cBase c < 2 ^ 48 →
      cBase c % 4096 = 0 → cExt c 0 % 4096 = 0 → s.cellAt k needRW p → s.homeRefuses p = false → s.weedRoom s.ten = true →
      ∃ w : WeedReq, exec (.weed a k) s = .next { s.past t with weeds := s.weeds ++ [w] } ∧ w.base = cBase c ∧
        w.len = cExt c 0 ∧ w.ctr.img = (t.getC k).img ∧ w.tenant = s.ten ∧ w.gen = s.gen s.ten ∧ w.swept = false ∧
        w.withdrawn = false

/-- 11 R376 to R385 and R387. That the READY report of a core outside the domain counts for no member is the model's (log 97). -/
def Obligations.TimedExchange : Prop :=
  (∀ (s : State) (a : CReg) (b : XReg) (p : Place), s.plain → s.drained → s.memOk →
    let t := s.strand
    let k := s.cur
    let va := cBase (t.getC a).img
    let new := w64 (memNat s.mem p.flat 8) + 1
    ((s.tenant s.ten).barrier.getLsbD k = false → (∀ g ∈ s.gates, g.mask.getLsbD k = false) →
      Traps (.exph a b) s 0x52 (exDetail 0 (s.xc k) 1)) ∧
    (s.cellAt a needRW p → (s.domainOf s.ten p.flat).getLsbD k = false → Traps (.exph a b) s 0x52 (exDetail 0 (s.xc k) 1)) ∧
    ((s.domainOf s.ten p.flat).getLsbD k = true → (s.core k).inPhase = false → translated va = false → s.cellAt a needRW p →
      (∃ j o, windowOf va = .spad j o ∨ windowOf va = .vault j o) → s.heldAt s.ten va = false → s.badAt p.flat = false →
      s.distances p.flat (new - 1) = [] → (new - t.getX b).toNat < 2 ^ 63 → ∃ s', exec (.exph a b) s = .next s' ∧ s'.strand = { t with pc := t.pc + 4 } ∧ (s'.core k).phase = .arming p.flat ∧
        w64 (memNat s'.mem p.flat 8) = new ∧
        ∀ q, q < p.flat ∨ p.flat + 8 ≤ q → memGet s'.mem q = memGet s.mem q) ∧
    ((s.domainOf s.ten p.flat).getLsbD k = true → (s.core k).inPhase = false → translated va = false → s.cellAt a needRW p →
      s.heldAt s.ten va = true → exec (.exph a b) s = .next (s.awaits va)) ∧
    ((s.domainOf s.ten p.flat).getLsbD k = true → (s.core k).inPhase = true → s.cellAt a needRW p → s.preemptDue k = true →
      exec (.exph a b) s = .next (s.updCore k Core.closePhase))) ∧
  (∀ (s : State) (k cell : Nat), (s.core k).phase = .arming cell → (s.core k).mode = .running → (s.core k).posted = [] →
    (s.core k).failed = [] → (s.core k).nextIssue ≤ s.cycle →
    (∀ l ∈ phaseLines (s.core k).strand, s.lineWaits k l = false) →
    let t := (s.core k).strand.tenant
    let m := s.domainOf t cell
    let D := domainSize m
    let ready (s : State) : Nat := match s.gate cell with | some g => g.ready | none => 0
    let n := ready s + 1
    ∃ s', exec (.exchangeArmed k) s = .next s' ∧
      (m.getLsbD k = false → (s'.core k).phase = .armed cell ∧ ready s' = ready s) ∧
      (m.getLsbD k = true → n < D → (s'.core k).phase = .armed cell ∧ ready s' = n) ∧
      (m.getLsbD k = true → D ≤ n → (s'.core k).phase = .starting cell (s.cycle + 128) ∧
        (∀ j, j ≠ k → (s.core j).phase = .armed cell → m.getLsbD j = true → (s'.core j).phase = .starting cell (s.cycle + 128)) ∧
        ∃ g, s'.gate cell = some g ∧ g.ready = 0 ∧ g.start = some (s.cycle + 128))) ∧
  (∀ (s : State) (cell start : Nat) (g : Gate), s.gate cell = some g → g.start = some start → start ≤ s.cycle →
    ∃ s', exec (.phaseStart cell) s = .next s' ∧ s'.mem = s.mem ∧ ∀ k,
      ((s.core k).phase = .starting cell start → (s'.core k).phase = .inside cell start ∧ (s'.core k).rxbuf = [] ∧
        (s'.core k).overrun = false ∧ (s'.core k).strand = (s.core k).strand) ∧
      ((s.core k).phase ≠ .starting cell start → s'.core k = s.core k)) ∧
  (∀ (s : State) (k cell start : Nat), (s.core k).phase = .inside cell start → start + 4096 ≤ s.cycle →
    ∃ s', exec (.phaseTimeout k) s = .next s' ∧ (s'.core k).phase = .none ∧ (s'.core k).rxbuf = [] ∧
      (s'.core k).strand = (s.core k).strand ∧ ∀ j, j ≠ k → s'.core j = s.core j) ∧
  (∀ (s : State) (b d : VReg) (a : XReg) (gate start : Nat), s.plain → s.unbound →
    let t := s.strand
    let c := s.core s.cur
    let x := t.getX a
    let j := (x.extractLsb' 0 10).toNat
    let n := domainSize c.domain
    let i := memberOf c.domain s.cur
    let u := (s.cycle - start) / 4
    (c.inPhase = false → Traps (.exsnd b a) s 0x52 (exDetail j (s.xc s.cur) 2) ∧
      Traps (.exrcv d a) s 0x53 (exDetail j (s.xc s.cur) 1)) ∧
    (c.phase = .inside gate start → x.extractLsb' 10 54 = 0 → j < n →
      (n ≠ 1 → j = (i + 1 + u % (n - 1)) % n → c.sentSlot ≠ some u → u ≤ 1017 →
        ∃ s' f, exec (.exsnd b a) s = .next s' ∧ s'.strand = { t with pc := t.pc + 4 } ∧ s'.flights = s.flights ++ [f] ∧
          f.core = (members c.domain).getD j 0 ∧ f.sender = i ∧ f.due = start + 4 * (u + 6) ∧ f.data = t.getV b ∧
          (s'.core s.cur).sentSlot = some u ∧ s'.mem = s.mem) ∧
      (c.overrun = false →
        (takeFrom j c.rxbuf = none → Traps (.exrcv d a) s 0x53 (exDetail j (s.xc s.cur) 3)) ∧
        ∀ v rest, takeFrom j c.rxbuf = some (v, rest) → ∃ s', exec (.exrcv d a) s = .next s' ∧
          s'.strand = { t.setV d v with pc := t.pc + 4 } ∧ (s'.core s.cur).rxbuf = rest ∧ s'.mem = s.mem))) ∧
  ∀ (s : State) (id : Nat) (f : Flight), s.flights.find? (·.id == id) = some f → f.due ≤ s.cycle →
    ∃ s', exec (.exchangeVectorArrival id) s = .next s' ∧ (∀ g ∈ s'.flights, g.id ≠ id) ∧
      let c := s.core f.core
      s'.core f.core = (if c.inPhase = false then c
        else if c.rxbuf.length < 32 then { c with rxbuf := c.rxbuf ++ [(f.sender, f.data)] }
        else { c with overrun := true })

/-- 02 R36 and R63, 06 R206, R210 and R211, 07 R216, R217 and R234, 10 R332. That a function whose requests are held accepts no
invalidation and no page response is the model's (log 99). -/
def Obligations.UnitEvents : Prop :=
  (∀ (s : State) (k : Nat) (e : Posted) (rest : List Posted) (cells : List (Place × Byte)),
    (s.core k).posted = e :: rest → e.sent = none → e.gen = s.gen e.tenant → (∀ a ∈ e.va :: e.vas, s.heldAt e.tenant a = false) →
    e.op = .data cells → s.direct (cells.map (·.1)) → Happens (.postedStoreAccept k 0) s fun s' =>
      (s'.core k).posted = rest ∧ (s'.core k).failed = (s.core k).failed ∧ (∀ j, j ≠ k → s'.core j = s.core j) ∧
      s'.mem = memPuts s.mem (cells.map fun c => (c.1.flat, c.2)) ∧ ∀ c ∈ cells, c.1.flat / 64 ∉ s'.tags) ∧
  (∀ (s : State) (k : Nat), ((s.core k).mode = .draining ∨ (s.core k).mode = .saving) → (s.core k).posted = [] →
    (s.core k).waiting = false → (s.core k).nextIssue ≤ s.cycle → Happens (.coreDrainComplete k) s fun s' =>
      s'.core k = { s.core k with mode := .idle } ∧ (∀ j, j ≠ k → s'.core j = s.core j) ∧ s'.mem = s.mem) ∧
  (∀ (s : State) (id va size : Nat) (h : Held) (sg : Bool) (d : XReg), s.heldOf id = some h →
    h.holder = .far va (.load size sg) → h.bm.warg = farWarg va 0 d.toNat → hostAddr va = false →
    s.heldIn h.bm.tenant va size = none →
    (∀ cause, s.xlate (some h.cluster) h.bm.tenant va = .fails cause → exec (.farAccessComplete id) s =
      .next ((s.giveBack h.id).faultHeld h.id cause (BitVec.ofNat 56 va) (h.bm.strand.pc - 4))) ∧
    (s.xlate (some h.cluster) h.bm.tenant va = .ok → s.xlate (some h.cluster) h.bm.tenant (lastVa va size) = .ok →
    (∀ ps, s.placesOf h.bm.tenant va size needR = .ok ps → s.direct ps → Happens (.farAccessComplete id) s fun s' =>
      let v := bytesNat (ps.map fun p => memGet s.mem p.flat)
      let x : Word := if sg then (BitVec.ofNat (8 * size) v).signExtend 64 else BitVec.ofNat 64 v
      s'.mem = s.mem ∧ ∃ h' ∈ s'.bms, h'.id = id ∧ h'.holder = .ready ∧ h'.stamp = s.cycle ∧
        h'.bm = { h.bm with strand := h.bm.strand.setX d x, bind := false }) ∧
    ∀ f, s.placesOf h.bm.tenant va size needR = .error f → exec (.farAccessComplete id) s =
      .next ((s.giveBack h.id).faultHeld h.id f.cause f.detail (h.bm.strand.pc - 4)))) ∧
  (∀ (s : State) (id va : Nat) (h : Held), s.heldOf id = some h → h.holder = .xlate va →
    s.tlbHit (128 + h.cluster / 64) h.bm.tenant va = true →
    (∀ l, s.leafOf h.bm.tenant va = .ok l → Happens (.tlbWalkComplete id) s fun s' =>
      s'.readied id s.cycle ∧ s'.walks = s.walks ∧ s'.mem = s.mem) ∧
    ∀ cause, s.leafOf h.bm.tenant va = .error cause → exec (.tlbWalkComplete id) s =
      .next (s.faultHeld h.id cause (BitVec.ofNat 56 va) h.bm.strand.pc)) ∧
  (∀ (s : State) (id va : Nat) (h : Held), s.heldOf id = some h → h.holder = .xlate va →
    s.tlbHit (128 + h.cluster / 64) h.bm.tenant va = false →
    let u := s.walkers (h.cluster / 64)
    ((u.walks.find? fun w => w.serves u h va) = none → exec (.tlbWalkComplete id) s = .next u) ∧
    ∀ w, (u.walks.find? fun w => w.serves u h va) = some w →
      (∀ l, s.walk w.tenant w.va = .ok l → Happens (.tlbWalkComplete id) s fun s' =>
        s'.tlbHit h.cluster h.bm.tenant va = true ∧ s'.mem = s.mem ∧ s'.readied id s.cycle ∧
        ∀ g b, s.heldOf g.id = some g → g.holder = .xlate b → w.serves s g b = true → s'.readied g.id s.cycle) ∧
      ∀ cause, s.walk w.tenant w.va = .error cause →
        (s.bms.filter fun g => (g.miss w.die).any fun b => w.serves s g b) = [h] → exec (.tlbWalkComplete id) s =
          .next ((({ u with walks := u.walks.filter (· != w) }).faultHeld id cause (BitVec.ofNat 56 va) h.bm.strand.pc).walkers
            w.die)) ∧
  (∀ (s s1 : State) (k line : Nat) (h : Held) (data : Vec), s.fetchers k line = [h] → s.heldOf h.id = some h →
    s.cached k h.bm.tenant line = none → (s.cached k h.bm.tenant (line + 1) ≠ none → fetchVa h.bm.strand % 64 ≤ 60) →
    (s.core k).heldLines < 4 → (s.core k).icache.length < 512 →
    s.readLine (some (k / 8)) h.bm.tenant line = .ok s1 data → Happens (.fetchLineFill k line) s fun s' =>
      (∃ l, s'.cached k h.bm.tenant line = some l ∧ l.data = data) ∧
      ∃ h' ∈ s'.bms, h'.id = h.id ∧ h'.holder = .ready ∧ h'.bm.bind = true) ∧
  (∀ (s s1 : State) (k j : Nat) (d v : Vec), j < 8 → (s.bms.find? fun h => h.bm.lcore == k && h.holder == .stream j) = none →
    let c := s.core k
    let ahead := (c.strips.filter fun p => p.owner == 0 && p.reg == j).length
    let pos := sdNext d + ahead
    c.mode = .running → c.strand.bind[j]? = some (some d) → sdTag d = true → ahead < 4 → c.strips.length < 32 →
    pos < sdCount d → (s.offerAll k).storesBefore k j = true →
    (s.offerAll k).readStrip (k / 8) c.strand.tenant d pos = .ok (s1, v) →
    Happens (.streamStripArrival k (24 + j)) s fun s' => (s'.core k).strips = c.strips ++ [{ reg := j, pos, data := .ok v, owner := 0 }] ∧ s'.mem = s1.mem) ∧
  (∀ (s : State) (w : Insn), s.agent = .strand → Traps (.illegalInsnWord w) s 0x01 (w.setWidth 56)) ∧
  (∀ (s : State), s.agent = .strand →
    let t := s.strand
    (∀ f, s.fetch s.cur = .raised f → exec .instructionFetch s = .next (s.takeTrap f)) ∧
    ∀ line r, s.fetch s.cur = .miss line → s.drained → (s.core s.cur).inPhase = false →
      s.roomFor (s.cur / 8) t.tenant
        ((s.mkBookmark s.cur t .fetch (allSaved t) 0 (w64 (line * 64)) true).slots) = some r →
      Happens .instructionFetch s fun s' => (s'.core s.cur).mode = .saving ∧ s'.mem = s.mem ∧ ∃ h ∈ s'.bms,
        h.holder = .fetch line ∧ h.bm.kind = .fetch ∧ h.bm.strand.pc = t.pc ∧ h.bm.bind = true ∧ h.bm.lcore = s.cur) ∧
  (∀ (s : State) (group : Nat) (perm : BitVec 2) (r : PageReq),
    (s.pageReqs.find? fun r => r.group == group && r.issued) = some r → r.gen = s.gen r.fn → (s.fn r.fn).halted = false →
    Happens (.pageRequestGroupResponse group (.success perm)) s fun s' => s'.hostPermOf r.fn r.page = perm ∧
      (∀ q ∈ s'.pageReqs, q.group ≠ group) ∧ (∀ c ∈ s'.cmds, ∀ va, c.state ≠ .parked group va) ∧
      ∀ h ∈ s.bms, s.heldOf h.id = some h → h.holder = .page group → s'.readied h.id s.cycle) ∧
  (∀ (s : State) (group : Nat) (resp : PageResponse) (fn page count : Nat) (perm : BitVec 2), (s.fn fn).halted = true →
    exec (.atsInvalidateRequest fn page count perm) s = .next s ∧
    ((∀ r ∈ s.pageReqs, r.group = group → r.fn = fn) → exec (.pageRequestGroupResponse group resp) s = .next s)) ∧
  (∀ (s : State) (fn page count : Nat) (perm : BitVec 2), (s.fn fn).halted = false → Happens (.atsInvalidateRequest fn page count perm) s fun s' =>
    (∀ e ∈ s'.atc, ¬ (e.fn = fn ∧ page ≤ e.page ∧ e.page < page + count)) ∧ s'.mem = s.mem ∧
    (s.hostOps = [] → (s'.fn fn).invalsDone = (s.fn fn).invalsDone + 1) ∧
    ∀ f q, s'.hostPermOf f q = if f = fn ∧ page ≤ q ∧ q < page + count then perm else s.hostPermOf f q) ∧
  ∀ (s : State) (fn : Nat), Happens (.priEnableWrite fn) s fun s' =>
    s'.fn fn = { s.fn fn with priOff := false } ∧ (∀ g, g ≠ fn → s'.fn g = s.fn g) ∧ s'.mem = s.mem

/-- 07 R240, R241 and R246, 08 R268, R274, R282 and R285 to R287, 11 R365, R367 and R371 with the accumulation of 03 R101 to R103 and
R106, 12 R503. `writeFp` is that of RoundingIsCorrect and `mulVal` that of FloatingArithmetic. The time of a k-step's first operands and
of a chunk's move is the model's (log 12), as are the state `finishing` of a command whose adds are unanswered (log 15), that one event is one
turn (log 41), and that an abort of the host raises HOST_ABORT at a far KREAD (log 48). -/
def Obligations.HomeAndEngineEvents : Prop :=
  (∀ (s : State) (id : Nat) (op : CtrOp), (s.counterOps.find? fun o => o.id == id) = some op → op.gen = s.gen op.tenant →
    let old := w64 (memNat s.mem op.place 8)
    s.behind op = false → (op.port.isSome = true → (s.fn op.tenant).halted = false) → s.heldIn op.tenant op.va 1 = none → ((∃ k, (s.opPlace op).home = .spad k) ∨ (∃ v, (s.opPlace op).home = .vault v) ∨
      ∃ c, (s.opPlace op).home = .channel c) → s.badAt op.place = false →
    (∀ new : Word, (op.kind = .add (new - old) ∨ (op.kind = .max new ∧ old < new)) → s.distances op.place old = [] →
      Happens (.counterOperationApply id) s fun s' => w64 (memNat s'.mem op.place 8) = new ∧
        ∀ q, q < op.place ∨ op.place + 8 ≤ q → memGet s'.mem q = memGet s.mem q) ∧
    (∀ thr bm h, op.kind = .wait thr bm → s.heldOf bm = some h → (old - thr).toNat < 2 ^ 63 → op.origin = .strand →
      s.untouched op.place → Happens (.counterOperationApply id) s fun s' =>
        s'.readied bm (s.cycle + s.deliveryCycles (homeOfFlat op.place) h.cluster) ∧ s'.mem = s.mem)) ∧
  (∀ (s : State) (cell : Nat) (r : SpillRead), (s.spillReads.find? fun r => r.cell == cell) = some r → r.order.Nodup →
    Happens (.spilledWaiterReadComplete cell) s fun s' => s'.spillReads = s.spillReads.erase r ∧
      ∀ n id h, r.order[n]? = some id → s.heldOf id = some h →
        s'.readied id (s.cycle + (s.deliveryCycles (homeOfFlat cell) h.cluster + n))) ∧
  (∀ (s : State) (cell : Nat) (p : Poll), (s.polls.find? fun p => p.place == cell) = some p → p.next ≤ s.time →
    (s.waitersOn cell ≠ [] ∨ ∃ w ∈ s.watches, w.cell = cell) → Happens (.hostCellPoll cell) s fun s' =>
      (∃ o, s'.hostOps = s.hostOps ++ [o] ∧ o.req = .poll ∧ o.place = cell) ∧
      ∃ q ∈ s'.polls, q.place = cell ∧ q.next = p.next + p.every) ∧
  (∀ (s : State) (id bm : Nat) (o : HostOp) (h : Held) (d : XReg), (s.hostOps.find? fun o => o.id == id) = some o →
    o.gen = s.gen o.tenant → s.issued o = true → o.req = .readValue bm → o.origin = .strand → s.heldOf bm = some h →
    h.bm.warg = farWarg o.va 0 d.toNat →
    (Happens (.hostReadCompletion id .ok) s fun s' => s'.mem = s.mem ∧ (∀ q ∈ s'.hostOps, q.id ≠ id) ∧ ∃ h' ∈ s'.bms,
      h'.id = h.id ∧ h'.holder = .ready ∧ h'.bm.strand = h.bm.strand.setX d (s.cellVal o.place)) ∧
    exec (.hostReadCompletion id .completerAbort) s =
      .next ((s.dropHostOp id).faultHeld bm 0x24 (BitVec.ofNat 56 o.va) (h.bm.strand.pc - 4))) ∧
  (∀ (s : State) (id : Nat) (o : HostOp) (a : Word), (s.hostOps.find? fun o => o.id == id) = some o →
    o.gen = s.gen o.tenant → s.issued o = true → o.req = .fetchAdd a → Config.hostFlat ≤ o.place →
    Happens (.hostAtomicCompletion id .ok) s fun s' => (∀ q ∈ s'.hostOps, q.id ≠ id) ∧
      w64 (memNat s'.mem o.place 8) = w64 (memNat s.mem o.place 8) + a ∧
      ∀ q, q < o.place ∨ o.place + 8 ≤ q → memGet s'.mem q = memGet s.mem q) ∧
  (∀ (s : State) (fn : Nat), Happens (.atomicopRequesterEnableWrite fn) s fun s' =>
    s'.fn fn = { s.fn fn with noAtomics := false } ∧ ∀ g, g ≠ fn → s'.fn g = s.fn g) ∧
  (∀ (s : State) (e : Nat) (c : Cmd) (ps : List Place) (p : Place),
    (s.cmds.filter fun c => c.engine == e && s.canProceed c) = [c] → c.op = .fill → c.perCmd = true →
    c.walk + 1 = c.total → isGroup (cFmt c.dst.img) = false → translated (cBase c.ctr.img) = false →
    let n := Machine.sizeOf (cFmt c.dst.img)
    let va := elemAddr c.dst.img (walkIdx c.dst.img c.walk)
    (s.xfr e).left = 0 → s.heldIn c.tenant va n = none → s.xlate (some e) c.tenant va = .ok →
    s.xlate (some e) c.tenant (lastVa va n) = .ok → s.placesOf c.tenant va n needW = .ok ps → s.direct ps →
    s.placeOf c.tenant (cBase c.ctr.img) needRW true (cBase c.ctr.img) = .ok p →
    Happens (.engineTurn e) s fun s' => (s'.xfr e).last = c.tenant ∧
      s'.mem = memPuts s.mem ((ps.map (·.flat)).zip (natBytes n c.val.toNat)) ∧
      (∃ o ∈ s'.counterOps, o.kind = .add 1 ∧ o.place = p.flat ∧ o.tenant = c.tenant) ∧
      ∃ c' ∈ s'.cmds, c'.id = c.id ∧ c'.state = .finishing ∧ c'.walk = c.total) ∧
  (∀ (s : State) (e n : Nat) (j : Job) (acc : List (BitVec 32)) (fl : Flags), s.chooseJob e = some j →
    (∀ o ∈ s.jobsAt e, o.due = 0 ∧ o.stop = 0 ∧ o.writing = false) → s.jobHeld j = false → j.bank = .bank n → j.acc ≠ [] →
    s.kstep j = .ok (acc, fl) → Happens (.kstepBoundary e) s fun s' => s'.mem = s.mem ∧ ∃ j' ∈ s'.jobs, j'.id = j.id ∧
      j'.kstep = j.kstep + 1 ∧ j'.acc = acc ∧ j'.flags = j.flags ||| fl ∧ j'.due = s.cycle + 2 * (s.firstCycles j + j.stepCycles) ∧
      j'.lastRun = j'.due / 2) ∧
  (∀ (s : State) (e : Nat) (j : Job), s.jobsAt e = [j] → j.engine = e → j.writing = true → s.jobHeld j = false →
    let n := min (4096 / Machine.sizeOf (cFmt j.cc.img)) (j.rows * j.cols - j.wrote)
    (j.due = 0 → j.stop = 0 → 0 < n → Happens (.kstepBoundary e) s fun s' => s'.mem = (s.writeChunk j).1.mem ∧ ∃ j' ∈ s'.jobs,
      j'.id = j.id ∧ j'.wrote = j.wrote + n ∧ j'.due = s.cycle + 2 * s.moveCycles j (n * Machine.sizeOf (cFmt j.cc.img)) 6) ∧
    (j.due ≠ 0 → j.due ≤ s.cycle → j.stop = 0 → 0 < j.wrote → j.wrote = j.rows * j.cols → j.block + 1 = j.blocks →
      Happens (.kstepBoundary e) s fun s' => (∀ o ∈ s'.jobs, o.id ≠ j.id) ∧
        let base := cBase j.desc.img
        ∀ (p : Nat) (home : Home), translated base = false → j.revokedDesc = false →
          ((∃ k, home = .spad k) ∨ ∃ v, home = .vault v) → s.placeOf j.tenant base needRW true base = .ok { flat := p, home } →
          (∀ a, (a = 48 ∨ a = 56) → s.placesOf j.tenant (base + a) 3 needW =
            .ok ((List.range 3).map fun q => { flat := p + a + q, home })) →
          (∀ q, q < 64 → s.badAt (p + q) = false) → s.distances p (s.cellVal p) = [] →
          s'.cellVal p = s.cellVal p + 1 ∧ memGet s'.mem (p + 48) = 2 ∧ memGet s'.mem (p + 49) = 0 ∧
          memGet s'.mem (p + 50) = j.flags.setWidth 8 ∧ memNat s'.mem (p + 56) 3 = j.blocks % 2 ^ 24)) ∧
  (∀ (s : State) (j : Job) (acc : List (BitVec 32)) (fl : Flags), s.kstep j = .ok (acc, fl) →
    let zero : FVal := .fin { neg := false, m := 0, e := 0 }
    let at' (k : Nat) : Nat := 32 * j.kstep + k
    ∃ A B : Nat → Nat → FVal,
      (∀ r k, r < j.rows → k < 32 → if at' k < jK j.control then s.readElem j.tenant j.a.img (at' k) (j.row0 + r) = .ok (A r k)
        else A r k = zero) ∧
      (∀ c k, c < j.cols → k < 32 → if at' k < jK j.control then s.readWeight j (at' k) (j.col0 + c) = .ok (B c k)
        else B c k = zero) ∧
      let step (i : Nat) : Nat × Flags :=
        accStep (j.acc.getD i 0).toNat ((List.range 32).map fun k => mulVal (A (i / j.cols) k) (B (i % j.cols) k))
      acc.length = j.rows * j.cols ∧ (∀ i, i < j.rows * j.cols → acc[i]? = some (BitVec.ofNat 32 (step i).1)) ∧
      ∀ b, fl.getLsbD b = true ↔ ∃ i, i < j.rows * j.cols ∧ (step i).2.getLsbD b = true) ∧
  (∀ (a : Nat) (ps : List (FVal × Flags)),
    let terms := decodeFp fp32 a :: ps.map (·.1)
    let fl := ps.foldl (fun f p => f ||| p.2) 0
    ((∃ x ∈ terms, isNan x = true) → accStep a ps = (0x7FC00000, fl)) ∧
    ((∀ x ∈ terms, isNan x = false) →
      (.inf false ∈ terms → .inf true ∈ terms → accStep a ps = (0x7FC00000, fl ||| fgInvalid)) ∧
      (.inf false ∈ terms → .inf true ∉ terms → accStep a ps = (0x7F800000, fl)) ∧
      (.inf true ∈ terms → .inf false ∉ terms → accStep a ps = (0xFF800000, fl)) ∧
      ∀ ns : List Machine.Num, terms = ns.map .fin → (∀ n ∈ ns, n.st = false) → ∃ n : Machine.Num, n.st = false ∧
        n.rat = (ns.map Machine.Num.rat).sum ∧ (n.m = 0 → (n.neg = true ↔ ∀ x ∈ ns, x.m = 0 ∧ x.neg = true)) ∧
        accStep a ps = ((writeFp fp32 .rne false (.fin n)).1, fl ||| (writeFp fp32 .rne false (.fin n)).2))) ∧
  (∀ (s : State) (j : Job) (k n : Nat),
    let bytes (ps : List Place) : Nat := bytesNat (ps.map fun p => memGet s.mem p.flat)
    let f := jBfmt j.control
    (∀ (t i0 i1 : Nat) (c : Vec) (ff : FFmt) (ps : List Place), ffmt (cFmt c) = some ff →
      s.placesOf t (elemAddr c (i0, i1, 0, 0)) (Machine.sizeOf (cFmt c)) needR = .ok ps → s.direct ps →
      s.readElem t c i0 i1 = .ok (decodeFp ff (bytes ps))) ∧
    (isGroup f = false → s.readWeight j k n = s.readElem j.tenant j.b.img k n) ∧
    (isGroup f = true → ∀ ps qs : List Place,
      s.placesOf j.tenant (elemAddr j.b.img (k, n, 0, 0)) (if f = 12 then 12 else 16) needR = .ok ps →
      s.placesOf j.tenant (elemAddr j.scale.img (k / 32, n, 0, 0)) 1 needR = .ok qs → s.direct (ps ++ qs) →
      let w := if f = 12 then 3 else 4
      let c := bytes ps / 2 ^ (w * (k % 32)) % 2 ^ w
      let code : FVal := if f = 13 then decodeFp fpE2m1 c else intVal (BitVec.ofNat w c).toInt
      s.readWeight j k n = .ok (mulVal code (if jSfmt j.control = 16 then decodeE8m0 (bytes qs) else decodeFp fpE4m3 (bytes qs))).1)) ∧
  (∀ (s : State) (j : Job),
    let c := j.cc.img
    let size := Machine.sizeOf (cFmt c)
    let n := min (4096 / size) (j.rows * j.cols - j.wrote)
    let va (i : Nat) : Nat := elemAddr c (j.col0 + i % j.cols, j.row0 + i / j.cols, 0, 0)
    (jAcc j.control = false → s.startAcc j = .ok (List.replicate (j.rows * j.cols) 0)) ∧
    (∀ acc, jAcc j.control = true → (cFmt c = 6 ∨ cFmt c = 7 ∨ cFmt c = 8) → s.startAcc j = .ok acc →
      acc.length = j.rows * j.cols ∧ ∀ i, i < j.rows * j.cols → ∃ (v : FVal) (b : BitVec 32), acc[i]? = some b ∧
        s.readElem j.tenant c (j.col0 + i % j.cols) (j.row0 + i / j.cols) = .ok v ∧
        if cFmt c = 8 then decodeFp fp32 b.toNat = v else b = BitVec.ofNat 32 (writeFp fp32 .rne false v).1) ∧
    ∀ (ff : FFmt) (ps : Nat → List Place), ffmt (cFmt c) = some ff →
      (∀ q, q < n → translated (va (j.wrote + q)) = false ∧
        s.placesOf j.tenant (va (j.wrote + q)) size needW = .ok (ps q) ∧ s.direct (ps q)) →
      let value (q : Nat) : Nat × Flags :=
        let x := (j.acc.getD (j.wrote + q) 0).toNat
        if cFmt c = 8 then (x, 0) else writeFp ff (modeOf (jRm j.control)) (jSat j.control) (decodeFp fp32 x)
      (s.writeChunk j).1.mem = memPuts s.mem ((List.range n).flatMap fun q =>
        ((ps q).map (·.flat)).zip (natBytes size (value q).1)) ∧
      ∀ b, (s.writeChunk j).2.getLsbD b = true ↔ ∃ q, q < n ∧ (value q).2.getLsbD b = true) ∧
  (∀ (s : State) (t : Nat) (v : Tenant) (c : Cmd), s.cycle % 8192 = 0 → s.raised.getLsbD 1 = false →
    (s.tenants.filter fun e => e.1 == t) = [(t, v)] → c ∈ s.cmds → c.tenant = t →
    Happens .engineDeficitRaise s fun s' => Table.get (s'.xfr c.engine).deficit t 0 =
      clampInt 2097152 (Table.get (s.xfr c.engine).deficit t 0 + 16 * v.xferw.toNat * 256)) ∧
  ∀ (s : State) (t : Nat) (v : Tenant) (j : Job) (m : MxEngine), s.cycle % 8192 = 0 → s.raised.getLsbD 2 = false →
    (s.tenants.filter fun e => e.1 == t) = [(t, v)] → j ∈ s.jobs → j.tenant = t → (j.engine, m) ∈ s.mx →
    Happens .matrixDeficitRaise s fun s' => Table.get (s'.mxe j.engine).deficit t 0 =
      clampInt 65536 (Table.get (s.mxe j.engine).deficit t 0 + 16 * s.mxWeight t j.engine)

/-- 10 R317, R322, R325, R326, R329, R332 and R351, 13 R429 and R430, 12 R503. That a bookmark with a refused header is dropped is log 76,
and what `loadCycles` sums is log 56. -/
def Obligations.DispatchEvents : Prop :=
  (∀ (s : State) (k t : Nat) (h : Held), (s.core k).mode = .idle → (s.core k).nextIssue + 2 ≤ s.cycle → s.dropInvalid k = s →
    s.markedFor k = none → (s.untaken k).choose k = some (t, .held h) →
    (s.outranked k h = true → Happens (.dispatchChoose k) s fun s' => (s'.core k).mode = .idle ∧ s'.bms = s.bms ∧
      (s'.core k).nextIssue + 2 = s.cycle + 1 ∧ ∀ j, j ≠ k → s'.core j = s.core j) ∧
    (s.outranked k h = false → (h.bm.reserved ≠ 0 ∨ h.bm.badKind ≠ none) → Happens (.dispatchChoose k) s fun s' =>
      (s'.fn h.bm.tenant).loghead = (s.fn h.bm.tenant).loghead + 1 ∧ s'.cores = s.cores ∧ s'.mem = s.mem ∧
      ∀ b ∈ s'.bms, b.id ≠ h.id) ∧
    (s.outranked k h = false → h.bm.reserved = 0 → h.bm.badKind = none → Happens (.dispatchChoose k) s fun s' =>
      let u := (s'.core k).strand
      (s'.core k).mode = .loading ∧ (s'.core k).nextIssue = s.cycle + s.loadCycles k h.bm h.cluster h.room ∧ s'.mem = s.mem ∧
      (∃ x ∈ s'.taken, x.cycle = s.cycle ∧ x.core = k ∧ x.entry = h) ∧ (∀ b ∈ s'.bms, b.id ≠ h.id) ∧ (∀ j, j ≠ k → s'.core j = s.core j) ∧ u.lstamp = h.entered ∧ u.prio = h.bm.prio ∧
      (h.bm.kind ≠ .new → u = { h.bm.strand with
        prio := h.bm.prio, lstamp := h.entered, sid := if h.bm.strand.sid = 0 then h.id else h.bm.strand.sid }) ∧
      (h.bm.kind = .new → let e := s.task k h.bm.task
        u.pcc = { img := e.code, tag := e.codetag } ∧ u.pc = e.entry.setWidth 64 ∧ u.tenant = h.bm.tenant % 1024 ∧
        u.comp = e.comp ∧ (h.bm.start = none → u.getX 10 = (h.bm.warg.extractLsb' 0 32).setWidth 64 ∧
          u.getX 11 = (h.bm.warg.extractLsb' 32 32).setWidth 64 ∧ u.getC 1 = h.bm.arg.getD {})))) ∧
  (∀ (s : State) (k : Nat), (s.core k).mode = .loading → (s.core k).nextIssue ≤ s.cycle →
    (s.tenant (s.core k).strand.tenant).sweepPending = false → Happens (.dispatchLoadComplete k) s fun s' =>
      s'.core k = { s.core k with mode := .running, runStart := s.cycle } ∧ ∀ j, j ≠ k → s'.core j = s.core j) ∧
  (∀ (s : State) (k : Nat) (b : Bool), (s.core k).mode = .running → (if b then (s.core k).svcWant else s.turnDue k) = true →
    Happens (.preemptRequest k b) s fun s' => s'.core k = { s.core k with preemptReq := true } ∧ ∀ j, j ≠ k → s'.core j = s.core j) ∧
  (∀ (s : State) (k : Nat), (s.core k).mode = .running → s.preemptDue k = true → (s.core k).waiting = false → (s.core k).phase = .none →
    (s.core k).nextIssue ≤ s.cycle → (s.core k).posted = [] → (s.core k).failed = [] → (∀ i : Fin 8, (s.core k).strand.bind[i] = none) →
    let t := (s.core k).strand
    Happens (.preemption k) s fun s' => (s'.core k).mode = .saving ∧ (s'.core k).strand = {} ∧ s'.mem = s.mem ∧
      (s'.fn t.tenant).preempts = (s.fn t.tenant).preempts + 1 ∧ (∀ j, j ≠ k → s'.core j = s.core j) ∧
      ∃ h, s'.bms = s.bms ++ [h] ∧ h.bm.kind = .preempt ∧ h.bm.strand = t ∧ h.holder = .ready ∧ h.stamp = t.lstamp ∧
        h.cluster = k / 8 ∧ h.bm.bind = false) ∧
  ∀ (s : State) (k : Nat) (i : Fin 4), s.cycle % 4096 = 0 → s.raised.getLsbD 0 = false →
    let r := (s.core k).residency[i]
    r.v = true → r.gen = s.gen r.tenant → Happens .dispatchDeficitRaise s fun s' =>
      (s'.core k).deficit[i] = clampInt 65536 ((s.core k).deficit[i] + 16 * (s.tenant r.tenant).dispw.toNat)

/-- 07 R244 and R252, 10 R321 and R340, 12 R404, 13 R426 to R428 with the layout of 13 Table 3, 14 R445 to R449 and R455, 08 R287. Which cb
reaches no block (log 44), and that a write of MITAIL is taken as R448 takes one of LQTAIL (log 46), are the model's readings. Service time is
counted in ticks of TIME (10 ns), so that the deficits lie within 1,000,000 of them. -/
def Obligations.CallsAndDoorbells : Prop :=
  (∀ (s : State) (us : Nat) (c : Call), s.service.leader.isSome = true → s.service.stopped = false →
    s.service.active = none → s.nextCall = some c → c.fault = none → 1 ≤ c.number → c.number ≤ 4 →
    Happens (.serviceCall us) s fun s' => s'.service.active = some c ∧ (∀ d ∈ s'.service.calls, d.id ≠ c.id) ∧
      s'.service.since = s.time ∧ s'.service.deficit = s.service.deficit ∧ s'.mem = s.mem) ∧
  (∀ (s : State) (c : Call), s.service.active = some c → s.service.leader.isSome = true → s.service.stopped = false →
    s.time ≤ s.service.since + sliceTicks → c.number = 1 → blockCap c.cap c.comp = false → c.slip = none →
    (∃ d ∈ s.service.calls, d.tenant = c.tenant) → Happens .launchCall s fun s' => s'.service.active = none ∧
      Table.get s'.service.deficit c.tenant 0 =
        clampInt 1000000 (Table.get s.service.deficit c.tenant 0 - (s.time - s.service.since : Nat)) ∧ s'.mem = s.mem) ∧
  (∀ (s s1 s2 : State) (c : Call) (d : List Byte) (status : Nat), s.service.active = some c → s.service.leader.isSome = true →
    s.service.stopped = false → s.time ≤ s.service.since + sliceTicks → c.number = 1 → blockCap c.cap c.comp = true →
    128 ≤ cExt c.cap.img 0 → (∀ i, i < 128 → s.lockedAt (blockAddr c.cap.img i) = none) →
    s.readBlock c.tenant c.cap.img 128 = .ok (s1, d) →
    s1.launch c.tenant false d (s1.argTag c.tenant c.cap.img) c.denied = .answer s2 status → Happens .launchCall s fun s' =>
      s'.service.active = none ∧ s' = (s2.writeBlockBytes c.tenant c.cap.img [(3, BitVec.ofNat 8 status)]).endCall c) ∧
  (∀ (s s1 : State) (c : Call) (bs : List Byte) (h : Held), s.service.active = some c → s.service.leader.isSome = true →
    s.service.stopped = false → s.time ≤ s.service.since + sliceTicks → blockCap c.cap c.comp = true → 320 ≤ cExt c.cap.img 0 →
    (∀ i, i < 320 → s.lockedAt (blockAddr c.cap.img i) = none) →
    s.readBlock c.tenant c.cap.img 320 = .ok (s1, bs) →
    s1.handleOf c.tenant (c.word.extractLsb' 16 32).toNat = .bookmark h → stComp h.bm.strand.status = c.comp →
    (c.number = 2 → Happens .bmread s fun s' => s'.service.active = none ∧
      s' = (s1.writeBlockBytes c.tenant c.cap.img (readOut h.bm ++ outAt 16 8 0)).endCall c) ∧
    (c.number = 3 → blockReserved bs = true → field bs 0 8 = 2 ^ 64 - 1 → Happens .bmresume s fun s' =>
      s'.service.active = none ∧ s'.readied h.id s.cycle) ∧
    (c.number = 4 → Happens .bmdrop s fun s' => s'.service.active = none ∧ ∀ b ∈ s'.bms, b.id ≠ h.id)) ∧
  (∀ (s s1 : State) (c : Call) (bs : List Byte) (f : FaultedCmd), s.service.active = some c → s.service.leader.isSome = true →
    s.service.stopped = false → s.time ≤ s.service.since + sliceTicks → blockCap c.cap c.comp = true → 320 ≤ cExt c.cap.img 0 →
    (∀ i, i < 320 → s.lockedAt (blockAddr c.cap.img i) = none) →
    s.readBlock c.tenant c.cap.img 320 = .ok (s1, bs) →
    s1.handleOf c.tenant (c.word.extractLsb' 16 32).toNat = .command f → f.cmd.comp = c.comp →
    let done (u : State) : State := (u.writeBlockBytes c.tenant c.cap.img (outAt 16 8 0)).endCall c
    let plaintext : Prop := f.cmd.op = .cryp ∧ f.cmd.tagOk = false ∧ f.resumable = true
    (c.number = 4 → (plaintext → exec .bmdrop s = .next (done ((s1.wipe f.cmd f.cmd.walk).dropFaulted f.handle))) ∧
      (¬ plaintext → exec .bmdrop s = .next (done (s1.dropFaulted f.handle)))) ∧
    (c.number = 3 → f.resumable = true → s1.cmdRoom f.cmd.engine c.tenant = true →
      exec .bmresume s = .next (done (s1.requeue f)))) ∧
  (∀ (s : State) (t : Nat) (v : Tenant), s.time % 10000 = 0 → s.raised.getLsbD 3 = false →
    (s.tenants.filter fun e => e.1 == t) = [(t, v)] → (∃ c ∈ s.service.calls, c.tenant = t) →
    Happens .serviceDeficitRaise s fun s' => Table.get s'.service.deficit t 0 =
      clampInt 1000000 (Table.get s.service.deficit t 0 + 100 * v.callw.toNat)) ∧
  (∀ (s : State) (fn : Nat) (tail : BitVec 16) (ide : IdeTag),
    ((s.fn fn).dropsWrite ide = true → exec (.launchDoorbell ⟨fn, ide⟩ tail) s = .next s ∧ exec (.mailboxDoorbell ⟨fn, ide⟩ tail) s = .next s) ∧
    ((s.fn fn).dropsWrite ide = false → ((s.fn fn).tdi = .locked ∨ s.isReady fn = false) →
      Happens (.launchDoorbell ⟨fn, ide⟩ tail) s (fun s' => s'.fn fn = { s.fn fn with qerr := true }) ∧
      Happens (.mailboxDoorbell ⟨fn, ide⟩ tail) s (fun s' => s'.fn fn = { s.fn fn with qerr := true }))) ∧
  (∀ (s : State) (fn l : Nat) (tail : BitVec 16) (ide : IdeTag), (s.fn fn).dropsWrite ide = false → (s.fn fn).tdi ≠ .locked →
    s.isReady fn = true →
    (ringLog (s.fn fn).lqbase = some l → Happens (.launchDoorbell ⟨fn, ide⟩ tail) s fun s' => s'.fn fn =
      (if (tail - (s.fn fn).lqhead).toNat ≤ 2 ^ l then { s.fn fn with lqtail := tail } else { s.fn fn with qerr := true })) ∧
    (ringLog (s.fn fn).mibase = some l →
      ((tail - (s.fn fn).mihead).toNat ≤ 2 ^ l → Happens (.mailboxDoorbell ⟨fn, ide⟩ tail) s fun s' => (s'.fn fn).mitail = tail) ∧
      (2 ^ l < (tail - (s.fn fn).mihead).toNat → Happens (.mailboxDoorbell ⟨fn, ide⟩ tail) s fun s' =>
        s'.fn fn = { s.fn fn with qerr := true }))) ∧
  (∀ (s s1 : State) (fn l status : Nat), ringLog (s.fn fn).lqbase = some l → s.readsRings fn = true →
    (s.fn fn).lqtail ≠ (s.fn fn).lqhead →
    let slot := ringBase (s.fn fn).lqbase + 128 * ((s.fn fn).lqhead.toNat % 2 ^ l)
    let d := memRead s.mem (hostPlace fn slot) 128
    s.launch fn true d false (s.fn fn).lqDenied = .answer s1 status → Happens (.launchSlot fn) s fun s' =>
      memGet s'.mem (hostPlace fn (slot + 3)) = BitVec.ofNat 8 status ∧ (s'.fn fn).lqhead = (s1.fn fn).lqhead + 1 ∧
      (s'.fn fn).accepted = (s1.fn fn).accepted + (if status = 0 then 1 else 0) ∧
      (s'.fn fn).refused = (s1.fn fn).refused + (if status = 0 then 0 else 1) ∧ s'.bms = s1.bms) ∧
  (∀ (s s1 : State) (t k : Nat) (host argTag : Bool) (d : List Byte), launchForm host d = true → field d 0 2 = 1 →
    s.lockedAt (field d 8 8) = none → s.readPlacement t (field d 8 8) 1 = .ok (s1, [k]) → k < 1024 → s1.inNodes t k = true →
    let task := BitVec.ofNat 6 (field d 2 1)
    let e := s1.task k task
    s1.taskValid k e = true → e.tenant.toNat = t →
    ((∃ r, s1.roomFor (k / 8) t 2 = some r) → ∃ s2 h, s.launch t host d argTag false = .answer s2 0 ∧ s2.bms = s1.bms ++ [h] ∧
      h.holder = .ready ∧ h.cluster = k / 8 ∧ h.bm.kind = .new ∧ h.bm.bind = true ∧ h.bm.lcore = k ∧ h.bm.task = task ∧
      h.bm.prio = e.prio ∧ h.bm.warg = 2 ^ 32 ∧ h.bm.arg = some (launchArg host d argTag e.comp)) ∧
    (s1.roomFor (k / 8) t 2 = none → s.launch t host d argTag false = .answer s1 3)) ∧
  (∀ (s : State) (fn : Nat) (seq : BitVec 16) (v a : Word) (o : HostOp), s.headMessage fn = some (.mediated seq v) →
    ((s.nextMessage fn).hostOps.find? fun o => o.tenant == fn && o.gen == (s.nextMessage fn).gen fn && (match o.req with
      | .mediated n _ => n == seq
      | _ => false)) = some o → o.req = .mediated seq (.add a) →
    exec (.mediatedCompletion fn) s =
      .next (((s.nextMessage fn).dropHostOp o.id).opApplied (o.toCtr (.add a)) (v + a))) ∧
  (∀ (s : State) (fn handle io : Nat) (h : Held), s.headMessage fn = some (.answer 4 handle io) →
    s.handleOf fn handle = .bookmark h → Happens (.faultReportAnswer fn) s fun s' =>
      (∀ b ∈ s'.bms, b.id ≠ h.id) ∧ memNat s'.mem (hostPlace fn (io + 16)) 8 = 0) ∧
  (∀ (b : Bookmark) (o : Nat) (x : Byte), (o, x) ∈ readOut b ↔ ∃ (off : Nat) (v : Word), off ≤ o ∧ o < off + 8 ∧
    x = v.extractLsb' (8 * (o - off)) 8 ∧ ((off = 0 ∧ v = b.strand.pc) ∨ (off = 24 ∧ v = b.strand.status) ∨
      (off = 32 ∧ v = b.strand.livemask) ∨ ∃ r : XReg, r ≠ 0 ∧ off = 56 + 8 * r.toNat ∧ v = b.strand.getX r)) ∧
  (∀ (s : State) (t : Nat) (c : Vec),
    let va := elemAddr c (64, 0, 0, 0)
    ((cStr c 0 ≠ 1 ∨ va % 64 ≠ 0) → s.argTag t c = false) ∧
    ∀ p, cStr c 0 = 1 → va % 64 = 0 → s.placeOf t va needR false va = .ok p → s.argTag t c = s.tagAt t p) ∧
  (∀ (s : State) (fn off size : Nat) (head : BitVec 16) (v : Word) (ide : IdeTag), (s.fn fn).dropsWrite ide = true →
    ∀ i ∈ [Instr.moheadWrite ⟨fn, ide⟩ head, .qerrClear ⟨fn, ide⟩, .bar0RegisterWrite ⟨fn, ide⟩ off size v], exec i s = .next s) ∧
  ∀ (s : State) (fn : Nat) (head : BitVec 16) (v : Word) (ide : IdeTag), (s.fn fn).dropsWrite ide = false →
    (Happens (.moheadWrite ⟨fn, ide⟩ head) s fun s' => (s'.fn fn).mohead = head) ∧
    (Happens (.qerrClear ⟨fn, ide⟩) s fun s' => s'.fn fn = { s.fn fn with qerr := false }) ∧
    (v &&& 0xFF00000FFFFFFFFF#64 = 0 → Happens (.bar0RegisterWrite ⟨fn, ide⟩ 0x10 8 v) s fun s' =>
      s'.fn fn = { s.fn fn with apbase := v }) ∧
    (v &&& 0xFF00000003FFFFFF#64 = 0 → Happens (.bar0RegisterWrite ⟨fn, ide⟩ 0x18 8 v) s fun s' =>
      s'.fn fn = { s.fn fn with cbase := v }) ∧
    (v &&& 0xFF00000FFFFFFFFF#64 ≠ 0 → exec (.bar0RegisterWrite ⟨fn, ide⟩ 0x10 8 v) s = .next s) ∧
    exec (.bar0RegisterWrite ⟨fn, ide⟩ 0x08 8 v) s = .next s

/-- 02 R76, 06 R188, R191, R194 and R213, 12 R397, R399, R406, R408, R416 and R417, 13 R429. That a swapped-out image is kept beside
memory (log 18), what the phases of a sweep wait for and clear (log 47), that an entry whose table lies outside the service region is
refused (log 55), that a pending shootdown waits beside the calls (log 60), and that two slots share no storage (log 92) are the
model's. -/
def Obligations.PlacesAndNodes : Prop :=
  (∀ (s : State) (k i : Nat), s.coreLocked k = true → Happens (.partitionSwapOut k i) s fun s' =>
      s'.cores = s.cores ∧ s'.mem = s.mem ∧ s'.pkgLog.length = s.pkgLog.length + 1) ∧
  (∀ (s : State) (t k : Nat), s.coreLocked k = true → Happens (.partitionRestore t k) s fun s' =>
      s'.cores = s.cores ∧ s'.mem = s.mem ∧ s'.pkgLog.length = s.pkgLog.length + 1) ∧
  (∀ (s : State) (k i : Nat), s.coreLocked k = false → s.maySwap k i = true →
    s.strandOn ((s.core k).resid i).tenant k = true → Happens (.partitionSwapOut k i) s fun s' =>
      s'.core k = { s.core k with svcWant := (s.core k).svcWant || (s.core k).mode == .running || (s.core k).mode == .loading } ∧
      s'.mem = s.mem ∧ s'.images = s.images) ∧
  (∀ (s : State) (k i : Nat), s.coreLocked k = false → s.partHeld k i = true → i < partCount (s.core k).pmode →
    (s.core k).absent.getLsbD i = false →
    let t := ((s.core k).resid i).tenant
    (∃ a ∈ (s.core k).away, a.1 = i ∧ a.2.v = true ∧ a.2.tenant ≠ t ∧ a.2.gen = s.gen a.2.tenant) →
    let lo := s.partBase k i
    let n := partBytes (s.core k).pmode
    s.strandOn t k = false → s.class0Reaches t k = false → Happens (.partitionSwapOut k i) s fun s' =>
      (s'.core k).absent.getLsbD i = true ∧ (∀ q, lo ≤ q → q < lo + n → memGet s'.mem q = 0) ∧
      (∀ q, q < lo ∨ lo + n ≤ q → memGet s'.mem q = memGet s.mem q) ∧ ∃ img, s'.images = s.images ++ [img] ∧
        img.tenant = t ∧ img.core = k ∧ (∀ o, o < n → Table.get img.cells o 0 = memGet s.mem (lo + o)) ∧
        (∀ g, g ∈ img.tags ↔ ∃ h ∈ s.tags, lo ≤ 64 * h ∧ 64 * h < lo + n ∧ g = h - lo / 64) ∧
        ∀ g, g ∈ s'.tags ↔ g ∈ s.tags ∧ ¬ (lo ≤ 64 * g ∧ 64 * g < lo + n)) ∧
  (∀ (s : State) (t k i : Nat) (img : Image), s.coreLocked k = false → s.partOf t k = some i →
    (s.images.find? fun p => p.tenant == t && p.core == k) = some img → s.absentOn t k = true → s.backFree t k i = true →
    (∀ r ∈ s.heldReqs, ¬ (r.tenant = t ∧ r.core = k)) → Happens (.partitionRestore t k) s fun s' =>
      let lo := s.partBase k i
      (s'.core k).absent.getLsbD i = false ∧ s'.images = s.images.erase img ∧
      (i < 4 → (s'.core k).resid i = { v := true, tenant := t, gen := s.gen t }) ∧
      s'.mem = memPuts (memClear s.mem lo (lo + partBytes (s.core k).pmode)) (img.cells.map fun c => (c.1 + lo, c.2)) ∧
      ∀ g, g ∈ s'.tags ↔ (∃ h ∈ img.tags, g = h + lo / 64) ∨
        (g ∈ s.tags ∧ ¬ (lo ≤ 64 * g ∧ 64 * g < lo + partBytes (s.core k).pmode))) ∧
  (∀ (s : State) (k : Nat) (mode : BitVec 2), s.coreLocked k = false → (∀ i, i < 4 → s.partHeld k i = false) →
    (s.core k).away = [] → mode ≠ 3 →
    Happens (.partitionModeChange k mode) s fun s' => s'.core k = { s.core k with pmode := mode } ∧ s'.mem = s.mem) ∧
  (∀ (s : State) (k : Nat) (mode : BitVec 2), s.coreLocked k = false → mode ≠ 3 →
    ((∃ i, i < 4 ∧ s.partHeld k i = true) ∨ (s.core k).away ≠ []) →
    (s.soleHolder (s.core k).strand.tenant k = true → exec (.partitionModeChange k mode) s = .next s) ∧
    (s.soleHolder (s.core k).strand.tenant k = false → Happens (.partitionModeChange k mode) s fun s' =>
      s'.core k = { s.core k with svcWant := (s.core k).svcWant || (s.core k).mode == .running || (s.core k).mode == .loading } ∧
      s'.mem = s.mem)) ∧
  (∀ (s : State) (v b t : Nat), (Table.get s.blocks (24 * v + b) {}).v = false →
    Happens (.vaultBlockAssign v b (some t)) s fun s' =>
      let lo := Config.vaultFlat + 0x200000 * v + 0x10000 * b
      Table.get s'.blocks (24 * v + b) {} = { v := true, tenant := t, gen := s.gen t } ∧
      (∀ q, lo ≤ q → q < lo + 0x10000 → memGet s'.mem q = 0) ∧
      ∀ q, q < lo ∨ lo + 0x10000 ≤ q → memGet s'.mem q = memGet s.mem q) ∧
  (∀ (s : State) (t va a level : Nat) (pte : Word), entryLevel s.mem va a 4 0 (s.tenant t).ptroot = some level →
    (s.tenant t).v = true → translated va = true → a + 8 ≤ Config.deviceBytes →
    let size := entrySpan level
    let lo := va - va % size
    let leaves := entryLeaves s.mem level pte
    let without := memPuts s.mem (cellsFrom a (natBytes 8 0))
    ((entryKept s.mem level pte = false ∨ ∃ l ∈ leaves, s.mayMap without t l = false) → exec (.mappingShootdown t va a pte) s = .next s) ∧
    (entryKept s.mem level pte = true → s.badAt a = false → (∀ l ∈ leaves, s.mayMap without t l = true) →
      (s.accessWithin t lo (lo + size) = false → Happens (.mappingShootdown t va a pte) s fun s' =>
        memNat s'.mem a 8 = pte.toNat ∧ ∀ e ∈ s'.tlb, e.tenant = t → ¬ (e.base < lo + size ∧ lo < e.base + e.size)) ∧
      (s.accessWithin t lo (lo + size) = true → Happens (.mappingShootdown t va a pte) s fun s' =>
        s'.mem = s.mem ∧ s'.tlb = s.tlb ∧ (t, va, a, pte) ∈ s'.service.shootdowns))) ∧
  (∀ (s : State) (r : LoadRequest), (s.tenant r.tenant).v = true → s.service.stopped = false →
    (∀ x ∈ r.images, s.heldAt r.tenant x.place = false ∧ s.lockedAt x.place = none) →
    (∀ f, s.load75 r = .error f → exec (.programLoad r) s = .next { s with answer := .loaded f.cause }) ∧
    ∀ k t, r.cores = [k] → r.tasks = [t] → r.images = [] → k < 1024 → t.entry < 2 ^ 34 →
      wordsOf r < 2 ^ 32 → admitImage [textOf r] [] (codeOf (textOf r) (wordsOf r) t.comp) = .ok () → s.taskValid k (loadEntry r t) = true →
      Happens (.programLoad r) s fun s' => s'.task k t.index = loadEntry r t ∧ s'.answer = .loaded 0 ∧ s'.mem = s.mem) ∧
  (∀ (s : State) (n t dbase dsize dest : Nat) (p : Place), n < 8192 → (s.tenant t).v = true → dbase % 65536 = 0 →
    dbase + dsize ≤ 2 ^ 48 → dsize % 4096 = 0 → dsize ≠ 0 → dsize < 2 ^ 32 → dest % 64 = 0 →
    s.inStorage t n dbase (dbase + dsize) = false →
    s.lockedAt dest = none → s.heldAt t dest = false → s.placeOf t dest needW false dest = .ok p → s.direct ((List.range 64).map fun i => { flat := p.flat + i, home := p.home }) →
    Happens (.adapterSlotAllot n t dbase dsize dest) s fun s' => (s'.slot n).dbase = dbase ∧ (s'.slot n).dsize = dsize ∧
      (s'.slot n).tenant = t ∧ (s'.slot n).tgen = s.gen t ∧ (s'.slot n).allot = true ∧ (s'.slot n).claimed = false ∧
      (∀ m, m ≠ n → s'.slot m = s.slot m) ∧ memNat s'.mem p.flat 64 = (slotCap n).img.toNat ∧ p.flat / 64 ∈ s'.tags) ∧
  (∀ (s : State) (n t : Nat), s.meaningful n = true →
    let e := s.node n
    (e.state = .free → n < 1024 → 0 < n → Happens (.nodeSplit n) s fun s' => (s'.node n).state = .split ∧
      (s'.node (2 * n)).state = .free ∧ (s'.node (2 * n + 1)).state = .free ∧ s'.tenants = s.tenants) ∧
    (e.state = .split → (s.node (2 * n)).state = .free → (s.node (2 * n + 1)).state = .free →
      Happens (.nodeMerge n) s fun s' => s'.node n = { e with state := .free } ∧ ∀ m, m ≠ n → s'.node m = s.node m) ∧
    (s.nodeRoom t = true → (s.tenant t).conf = false → e.state = .free → Happens (.nodeAllot n t) s fun s' =>
      s'.node n = { e with state := .allotted, sharers := 1 } ∧
      (s'.tenant t).nodes = (s.tenant t).nodes ++ [BitVec.ofNat 11 n]) ∧
    (e.state = .allotted →
      (BitVec.ofNat 11 n ∈ (s.tenant t).nodes → s.workOnNode t n = true → (∀ k ∈ nodeCores n, s.coreLocked k = false) →
        Happens (.nodeRelease n t) s fun s' => s'.nodes = s.nodes ∧ s'.tenants = s.tenants ∧ s'.mem = s.mem ∧
          ∀ k ∈ nodeCores n, s.strandOn t k = true → (s.core k).mode = .running → (s'.core k).svcWant = true) ∧
      (s.nodeRoom t = true → (s.tenant t).conf = false → e.lock = false → e.sharers ≠ 255 → s.holdsOverlap t n = false →
        Happens (.nodeShare n t) s fun s' => s'.node n = { e with sharers := e.sharers + 1 } ∧
          (s'.tenant t).nodes = (s.tenant t).nodes ++ [BitVec.ofNat 11 n]) ∧
      (BitVec.ofNat 11 n ∈ (s.tenant t).nodes → s.workOnNode t n = false → (∀ k ∈ nodeCores n, s.coreLocked k = false) →
        Happens (.nodeRelease n t) s fun s' =>
        (s'.node n).sharers = e.sharers - 1 ∧ (e.sharers = 1 → s'.node n = {}) ∧
        (s'.tenant t).barrier = (s.tenant t).barrier &&& ~~~nodeMask n ∧
        (s'.tenant t).nodes = (s.tenant t).nodes.filter (· != BitVec.ofNat 11 n)) ∧
      (e.sharers = 1 → Happens (.nodeLock n) s fun s' => s'.node n = { e with lock := true }) ∧
      (e.lock = true → (∀ k ∈ nodeCores n, s.coreLocked k = false) → Happens (.nodeUnlock n) s fun s' =>
        s'.node n = { e with lock := false } ∧
        ∀ u, BitVec.ofNat 11 n ∈ (s.tenant u).nodes → (s'.tenant u).conf = false))) ∧
  (∀ (s : State), s.sweep = .none → s.weeds ≠ [] → Happens .sweepMark s fun s' => s'.sweep = .marked ∧
    (∀ w ∈ s'.weeds, w.swept = true) ∧ ∀ w ∈ s.weeds, (s'.tenant w.tenant).sweepPending = true ∧
      ∀ p ∈ s.regionPages w, s.badAt (bitmapAt p) = false → (memGet s'.mem (bitmapAt p)).getLsbD (p % 8) = true) ∧
  (∀ (s : State), s.sweep = .marked → s.midInstr = false → Happens .sweepCores s fun s' => s'.sweep = .coresDone ∧ s'.mem = s.mem ∧
    ∀ k, (s.core k).mode = .running → s.covered (s.core k).strand.tenant = true → ∀ r : CReg,
      ((s'.core k).strand.getC r).tag = (((s.core k).strand.getC r).tag &&
        !s.intoMarked (s.core k).strand.tenant ((s.core k).strand.getC r).img)) ∧
  (∀ (s : State), s.sweep = .coresDone → s.cmds = [] → s.jobs = [] → (∀ h ∈ s.bms, s.cellRevoked h = false) →
    Happens .sweepRecords s fun s' => s'.sweep = .recordsDone ∧ s'.mem = s.mem ∧ s'.bms = s.bms.map fun h =>
      if s.covered h.bm.tenant = true then { h with bm := h.bm.weed (s.hits h.bm.tenant) } else h) ∧
  (∀ (s : State), s.sweep = .recordsDone → Happens .sweepMemory s fun s' => s'.sweep = .memoryDone ∧ s'.mem = s.mem ∧
    ∀ g, g ∈ s'.tags ↔ g ∈ s.tags ∧ s.granuleWeeded g = false) ∧
  ∀ (s : State) (w : WeedReq) (p : Place), s.sweep = .memoryDone → s.stopsOpen = false → s.weeds = [w] → w.swept = true → s.covers w = true →
    let va := cBase w.ctr.img
    (∃ k o, windowOf va = .spad k o ∨ windowOf va = .vault k o) → s.heldAt w.tenant va = false →
    s.placeOf w.tenant va needRW true va = .ok p → s.badAt p.flat = false → s.distances p.flat (s.cellVal p.flat) = [] →
    Happens .sweepClose s fun s' => s'.sweep = .none ∧ s'.weeds = [] ∧ (s'.tenant w.tenant).sweepPending = false ∧
      s'.cellVal p.flat = s.cellVal p.flat + 1

/-- 01 R29, 06 R214, 12 R405, 13 R432 to R435, R440 and R441, 14 R446, R447, R450, R464, R465 and R470. What memory reads as
before it is written (log 2), what a tenant reset does in one step and leaves (log 49) and what a package reset keeps (log 52) are the
model's choices. -/
def Obligations.ResetsAndBringUp : Prop :=
  (∀ (s : State) (fn : Nat), (s.tenant fn).v = true → (s.fn fn).reset = .idle →
    (fn ≠ 0 → Happens (.functionLevelReset fn) s fun s' =>
      s'.fn fn = { s.fn fn with reset := .refusing 1, ready := false, resetting := true } ∧
      (∀ g, g ≠ fn → s'.fn g = s.fn g) ∧ s'.mem = s.mem) ∧
    (s.vfResetting = false → s.pfResetting = false → Happens (.functionLevelReset 0) s fun s' => (s'.fn fn).reset = .refusing 2) ∧
    (fn ≠ 0 → Happens .vfEnableClear s fun s' => s'.service.vfEnabled = 0 ∧
      (s'.fn fn).reset = .refusing 3 ∧ (s'.fn fn).ready = false ∧ (s'.fn fn).resetting = true ∧
      ∀ f, (fn, f) ∈ s.fns → (s'.fn fn).vfGone = true) ∧
    (s.service.stopped = false → (∃ k g, (s.core k).strand.tenant = fn ∧ (s.core k).phase = .armed g) →
      Happens (.serviceTenantReset fn) s fun s' =>
        s'.fn fn = { s.fn fn with reset := .refusing 4, ready := false, resetting := true }) ∧
    ((∀ k g, (s.core k).strand.tenant = fn → (s.core k).phase ≠ .armed g) → exec (.serviceTenantReset fn) s = .next s)) ∧
  (∀ (s : State) (fn : Nat), fn ≠ 0 → (s.tenant fn).v = false → Happens (.functionLevelReset fn) s fun s' =>
    s'.fn fn = { s.fn fn with tdi := .unlocked } ∧ (∀ g, g ≠ fn → s'.fn g = s.fn g) ∧ s'.mem = s.mem) ∧
  (∀ (s : State), (s.fn 0).reset = .refusing 2 → exec (.functionLevelReset 0) s = .next s) ∧
  (∀ (s : State) (fn trigger : Nat), fn ≠ 0 → (s.tenant fn).v = true → (s.fn fn).reset = .refusing trigger →
    Happens (.functionLevelReset fn) s fun s' => s'.fn fn = { s.fn fn with unlock := true } ∧ s'.mem = s.mem) ∧
  (∀ (s : State) (t trigger : Nat), (s.fn t).reset = .refusing trigger → s.carries t (s.gen t + 1) = false →
    (s.fn 0).flrWaits = false → (s.fn t).rebuild = none → Happens (.resetGenerationAdvance t) s fun s' =>
      s'.gen t = s.gen t + 1 ∧ (s'.fn t).reset = .idle ∧ (s'.fn t).resetting = false ∧
      (s'.fn t).ready = !(t != 0 && ((s.fn t).vfGone || s.service.vfEnabled == 0)) ∧
      (s'.fn t).tdi = (if trigger = 4 ∧ (s.fn t).unlock = false then (s.fn t).tdi else .unlocked) ∧
      (∀ w ∈ s'.walks, w.tenant ≠ t) ∧ (∀ h ∈ s'.bms, h.bm.tenant ≠ t) ∧ (∀ c ∈ s'.cmds, c.tenant ≠ t) ∧
      (∀ j ∈ s'.jobs, j.tenant ≠ t) ∧ (∀ e ∈ s'.tlb, e.tenant ≠ t) ∧ (∀ e ∈ s'.atc, e.fn ≠ t) ∧
      (∀ k, (s'.core k).mode = .running → (s'.core k).strand.tenant ≠ t) ∧
      ((s.tenant t).csbase + 4096 * (s.tenant t).cssize ≤ Config.deviceBytes → ∀ q, (s.tenant t).csbase ≤ q →
        q < (s.tenant t).csbase + 4096 * (s.tenant t).cssize → memGet s'.mem q = 0)) ∧
  (∀ (s : State) (i : TenantInit), s.service.booted = true → s.service.stopped = false → i.tenant ≠ 0 → i.tenant < 513 →
    s.mayEnable i = true → (s.tenant i.tenant).v = false → Happens (.vfEnableSet [i]) s fun s' =>
      let e := s'.tenant i.tenant
      e.v = true ∧ e.ptroot = i.ptroot ∧ e.csbase = i.csbase ∧ e.cssize = i.cssize ∧ e.ctbase = i.ctbase ∧ e.ctlen = i.ctlen ∧
      e.dispw = i.dispw ∧ e.xferw = i.xferw ∧ e.callw = i.callw ∧ e.barrier = i.barrier ∧ e.class0 = i.class0 ∧
      e.gen = s.gen i.tenant ∧ e.nodes = (s.tenant i.tenant).nodes ∧ (s'.fn i.tenant).ready = true ∧
      s'.service.vfEnabled = 1 ∧ s'.service.remapLocked = true ∧
      ∀ q, (∀ l ∈ tableLeaves s.mem false 4 0 i.ptroot, ¬ (pteFrame l.1 ≤ q ∧ q < pteFrame l.1 + l.2)) →
        memGet s'.mem q = memGet s.mem q) ∧
  (∀ (s : State) (i : TenantInit), s.service.booted = true → s.service.stopped = false → i.tenant ≠ 0 → i.tenant < 513 →
    (s.tenant i.tenant).v = true → (s.fn i.tenant).resetting = true → Happens (.vfEnableSet [i]) s fun s' =>
      s'.fn i.tenant = { s.fn i.tenant with rebuild := some i } ∧ s'.tenants = s.tenants ∧ s'.mem = s.mem) ∧
  (∀ (s : State) (i : BringUpInput), s.service.booted = false →
    (bringFails i = none → Happens (.bringUp i) s fun s' => s'.service.booted = true ∧ (s'.tenant 0).v = true ∧
      (s'.fn 0).ready = true ∧ s'.service.remap = [i.remap0, i.remap1] ∧ s'.service.remapLocked = true ∧
      s'.service.leader = (if i.selfTest.getLsbD 0 = true then some 0 else some 1) ∧
      ∀ q, 0x2F00000000 ≤ q → q < 0x3000000000 → memGet s'.mem q = 0) ∧
    ∀ n, bringFails i = some n → Happens (.bringUp i) s fun s' => s'.service.booted = true ∧ s'.service.stopped = true ∧
      (s'.fn 0).bootErr = BitVec.ofNat 8 n ∧ s'.tenants = s.tenants) ∧
  (∀ (s : State) (d : Nat), d < 2 → s.service.leader = some d → s.service.stopped = false →
    (s.pair d).failed = false → s.service.lastChime + 10000 ≤ s.time → s.time < s.service.lastChime + 35000 →
    Happens .chime s fun s' => s'.service.lastChime = s.time ∧ s'.mem = s.mem ∧
      s'.pair d = { s.pair d with halted := (s.pair d).lost } ∧ s'.pair (1 - d) = s.pair (1 - d)) ∧
  (∀ (s : State), s.service.lastChime + 35000 ≤ s.time → exec .chime s = .next s) ∧
  (∀ (s : State) (d : Nat), d < 2 → s.service.leader = some d → s.service.stopped = false →
    s.service.lastChime + 35000 ≤ s.time →
    let other := s.service.pairs.getD (1 - d) {}
    (other.passed = true → other.lost = false → Happens .leaderTakeover s fun s' => s'.service.leader = some (1 - d) ∧
      s'.service.lastChime = s.time ∧ (s'.service.pairs.getD d {}).lost = true ∧ s'.service.calls = s.service.calls ∧
      s'.service.active = s.service.active ∧ s'.service.stopped = false) ∧
    ((other.passed = false ∨ other.lost = true) → Happens .leaderTakeover s fun s' => s'.service.leader = none ∧
      s'.service.stopped = true ∧ s'.mem = s.mem)) ∧
  (∀ (s : State) (m : FirmwareImage), (m.verified = false → exec (.firmwareActivation m) s = .next s) ∧
    (m.verified = true → Config.svn.toNat ≤ m.svn.toNat → s.quietForFirmware = true → Happens (.firmwareActivation m) s fun s' =>
      s'.service.svnNow = some m.svn ∧ s'.digest 2 = m.digest2 ∧ s'.digest 3 = m.digest3 ∧ s'.digest 5 = m.digest5 ∧
      (∀ b, b ≠ 2 → b ≠ 3 → b ≠ 5 → s'.digest b = s.digest b) ∧ s'.mem = s.mem ∧ s'.tenants = s.tenants)) ∧
  (∀ (s : State), Happens .packageReset s fun s' => s'.cycle = 0 ∧ s'.timeAcc = 0 ∧ (∀ k, s'.core k = {}) ∧
    (∀ t, s'.tenant t = {}) ∧ (∀ f, s'.fn f = {}) ∧ s'.tags = [] ∧ s'.bms = [] ∧
    ∀ a, memGet s'.mem a = if isHostPlace a = true then memGet s.mem a else 0) ∧
  (∀ (s : State) (w t0 t1 : Nat), Happens (.powerSample w t0 t1) s fun s' =>
    let l := (w :: s.power.samples).take 100
    s'.power.samples = l ∧ s'.power.pavg = BitVec.ofNat 16 (l.sum / l.length) ∧ s'.power.temp0 = BitVec.ofNat 16 t0 ∧
    s'.power.temp1 = BitVec.ofNat 16 t1 ∧ s'.power.step = s.power.step ∧ s'.mem = s.mem ∧
    ((210 < t0 ∨ 210 < t1) → s'.power.hot = true ∧ (s.power.step ≠ 6 → s'.power.want = some 6))) ∧
  (∀ (s : State) (n : BitVec 3), s.power.want = some n → Happens .clockStepChange s fun s' => s'.power.step = n ∧
    s'.power.want = none ∧ s'.power.changes = s.power.changes + 1 ∧ s'.mem = s.mem) ∧
  ∀ (s : State) (v : BitVec 16) (ide : IdeTag),
    ((s.fn 0).dropsWrite ide = false → 100 ≤ v.toNat → v.toNat ≤ 600 →
      Happens (.plimitWrite ⟨v, ide⟩) s fun s' => s' = { s with power := { s.power with plimit := v } }) ∧
    ((v.toNat < 100 ∨ 600 < v.toNat ∨ (s.fn 0).dropsWrite ide = true) → exec (.plimitWrite ⟨v, ide⟩) s = .next s)

/-- 06 R191, 08 R270, 12 R399, 13 R429, 14 R444, R445, R450 to R453, R455, R463, R466 and R470. That a LOCK asks that no partition of its
cores is absent is the model's choice (log 75, in `lockable`). -/
def Obligations.HostRequests : Prop :=
  (∀ (f : Fn) (ide : IdeTag),
    let lost : Prop := f.tdi = .unlocked ∧ ∃ (i : Fin 2) (t : Bool), ide = some (i.val, t) ∧ f.ide[i].keys ≠ 0 ∧ f.ide[i].secure = false
    let halted : Prop := f.tdi = .quiesced ∨ f.tdi = .error ∨ f.d3hot = true
    let onStream : Prop := ∃ i : Fin 2, ide = some (i.val, true) ∧ f.ide[i].secure = true
    (lost → f.admits ide = .discarded) ∧ (¬ lost → halted → f.admits ide = .aborted) ∧
    (¬ halted → f.tdi = .run → (onStream → f.admits ide = .yes) ∧ (¬ onStream → f.admits ide = .unsupported)) ∧
    (¬ lost → ¬ halted → f.tdi ≠ .run → f.admits ide = .yes)) ∧
  (∀ (s : State) (fn off len : Nat) (data : List Byte) (op : HostAtomic) (wide : Bool) (a b : Word) (ide : IdeTag),
    (s.fn fn).admits ide ≠ .yes → ∀ i ∈ [Instr.apertureMemoryRead fn 2 off len ide, .apertureMemoryRead fn 4 off len ide,
      .apertureMemoryWrite fn off data ide, .apertureAtomicop fn off op wide a b ide, .counterApertureFetchadd fn off a ide],
      exec i s = .next { s with answer := ((s.fn fn).admits ide).answer }) ∧
  (∀ (s : State) (fn : Nat), s.curatorBusy = true →
    ∀ i ∈ [Instr.lockInterfaceRequest fn, .startInterfaceRequest fn, .stopInterfaceRequest fn, .quiesce fn, .unquiesce fn],
      exec i s = .next s) ∧
  (∀ (s : State) (fn off : Nat) (ide : IdeTag), (s.fn fn).admits ide = .yes → (s.tenant fn).v = true →
    let va := (s.fn fn).dataVa off
    (∀ len ps, 0 < len → s.heldIn fn va len = none → off + len ≤ 2 ^ 36 → s.placesOf fn va len needR = .ok ps → s.direct ps →
      Happens (.apertureMemoryRead fn 2 off len ide) s fun s' => s'.answer = .data (ps.map fun p => memGet s.mem p.flat) ∧
        s'.mem = s.mem ∧ s'.tags = s.tags) ∧
    (∀ len f, 0 < len → s.heldIn fn va len = none → off + len ≤ 2 ^ 36 → s.placesOf fn va len needR = .error f →
      exec (.apertureMemoryRead fn 2 off len ide) s = .next { s with answer := .aborted }) ∧
    (∀ data ps, data ≠ [] → s.heldIn fn va data.length = none → off + data.length ≤ 2 ^ 36 → s.placesOf fn va data.length needW = .ok ps → s.direct ps →
      Happens (.apertureMemoryWrite fn off data ide) s fun s' => s'.answer = .data [] ∧
        s'.mem = memPuts s.mem ((ps.map (·.flat)).zip data) ∧ ∀ p ∈ ps, p.flat / 64 ∉ s'.tags) ∧
    ∀ (a b : Word) ps, off % 8 = 0 → s.heldIn fn va 8 = none → off + 8 ≤ 2 ^ 36 → s.placesOf fn va 8 needRW = .ok ps → s.direct ps →
      let q := (ps.headD { flat := 0, home := .host }).flat
      (∀ i, i < 8 → (ps[i]?).map (·.flat) = some (q + i)) →
      Happens (.apertureAtomicop fn off .fetchAdd true a b ide) s fun s' =>
        s'.answer = .data (natBytes 8 (memNat s.mem q 8)) ∧ w64 (memNat s'.mem q 8) = w64 (memNat s.mem q 8) + a ∧
        ∀ r, r < q ∨ q + 8 ≤ r → memGet s'.mem r = memGet s.mem r) ∧
  (∀ (s : State) (fn off : Nat) (ide : IdeTag) (p : Place), (s.fn fn).admits ide = .yes → (s.tenant fn).v = true → off % 16 = 0 →
    off + 8 ≤ 2 ^ 26 → ((∃ k, p.home = .spad k) ∨ (∃ v, p.home = .vault v) ∨ ∃ c, p.home = .channel c) →
    s.badAt p.flat = false →
    let va := (s.fn fn).counterVa off
    s.heldIn fn va 16 = none →
    (s.placeOf fn va needR true va = .ok p → Happens (.apertureMemoryRead fn 4 off 8 ide) s fun s' =>
      s'.answer = .data (memRead s.mem p.flat 8) ∧ s'.mem = s.mem) ∧
    (∀ a : Word, s.placeOf fn va needRW true va = .ok p → (s.fn fn).resetting = false →
      s.distances p.flat (s.cellVal p.flat) = [] → Happens (.counterApertureFetchadd fn off a ide) s fun s' =>
        s'.answer = .data (natBytes 8 (s.cellVal p.flat).toNat) ∧ s'.cellVal p.flat = s.cellVal p.flat + a)) ∧
  (∀ (s : State) (fn : Nat), (s.fn fn).noWrites = false → Happens (.apertureMemoryRead fn 0 0x30 8 none) s fun s' =>
    s'.answer = .data (natBytes 8 (s.fn fn).lqhead.toNat) ∧ s'.mem = s.mem) ∧
  (∀ (s : State) (fn : Nat), s.curatorBusy = false → let f := s.fn fn
    let nothingHeld : Prop := f.outbox = [] ∧ f.cans = [] ∧ f.msixHeld = [] ∧ (∀ l ∈ s.heldWrites, l.tenant ≠ fn) ∧
      ∀ e ∈ s.ports, ∀ o ∈ e.2.pending, o.answer = none
    (f.tdi = .unlocked → s.lockable fn = true → Happens (.lockInterfaceRequest fn) s fun s' => (s'.fn fn).tdi = .locked ∧
      (s'.tenant fn).conf = true ∧ (∀ k ∈ s.nodeSet fn, (s'.core k).owner = ownerWord fn (s.gen fn)) ∧
      (∀ n ∈ (s.tenant fn).nodes, (s'.node n.toNat).lock = true) ∧ s'.answer = .tdisp .success ∧ s'.mem = s.mem) ∧
    (f.tdi = .unlocked → s.lockable fn = false → exec (.lockInterfaceRequest fn) s =
      .next { s.askCores (s.nodeSet fn) with answer := .tdisp .invalidRequest }) ∧
    (f.tdi ≠ .unlocked → exec (.lockInterfaceRequest fn) s = .next { s with answer := .tdisp .invalidInterfaceState }) ∧
    (f.tdi = .locked → Happens (.startInterfaceRequest fn) s fun s' => s'.fn fn = { f with tdi := .run } ∧
      s'.answer = .tdisp .success ∧ s'.mem = s.mem) ∧
    (f.tdi ≠ .locked → exec (.startInterfaceRequest fn) s = .next { s with answer := .tdisp .invalidInterfaceState }) ∧
    (f.tdi ≠ .unlocked → fn ≠ 0 → (s.tenant fn).v = true → f.reset = .idle → Happens (.stopInterfaceRequest fn) s fun s' =>
      s'.fn fn = { f with stopping := true, reset := .refusing 1, ready := false, resetting := true }) ∧
    (f.tdi ≠ .unlocked → fn ≠ 0 → (s.tenant fn).v = false → Happens (.stopInterfaceRequest fn) s fun s' =>
      s'.fn fn = { f with tdi := .unlocked } ∧ s'.answer = .tdisp .success ∧ s'.mem = s.mem) ∧
    (f.tdi = .unlocked → exec (.stopInterfaceRequest fn) s = .next { s with answer := .tdisp .invalidInterfaceState }) ∧
    (f.tdi = .run → Happens (.quiesce fn) s fun s' => s'.fn fn = { f with tdi := .quiesced } ∧
      s'.answer = .tdisp .success ∧ s'.mem = s.mem) ∧
    (f.tdi ≠ .run → exec (.quiesce fn) s = .next { s with answer := .tdisp .invalidInterfaceState }) ∧
    (f.tdi = .quiesced → Happens (.unquiesce fn) s fun s' => (s'.fn fn).tdi = .run ∧ s'.answer = .tdisp .success ∧
      ((∀ e ∈ s.ports, ∀ o ∈ e.2.pending, o.answer = none) → f.d3hot = false → (s'.fn fn).msixHeld = []) ∧
      (nothingHeld → s'.fn fn = { f with tdi := .run } ∧ s'.mem = s.mem)) ∧
    (f.tdi ≠ .quiesced → exec (.unquiesce fn) s = .next { s with answer := .tdisp .invalidInterfaceState }) ∧
    ((f.tdi = .locked ∨ f.tdi = .run ∨ f.tdi = .quiesced) → Happens (.tdiConfigWrite fn) s fun s' =>
      s'.fn fn = { f with tdi := .error } ∧ (∀ g, g ≠ fn → s'.fn g = s.fn g) ∧ s'.mem = s.mem) ∧
    ((f.tdi = .unlocked ∨ f.tdi = .error) → exec (.tdiConfigWrite fn) s = .next s) ∧
    (Happens (.powerStateD3hot fn) s fun s' => s'.fn fn = { f with d3hot := true } ∧ s'.mem = s.mem) ∧
    (Happens (.powerStateD0 fn) s fun s' => (s'.fn fn).d3hot = false ∧
      (nothingHeld → s'.fn fn = { f with d3hot := false } ∧ s'.mem = s.mem))) ∧
  (∀ (s : State) (fn : Nat) (i : Fin 2), let f := s.fn fn
    (Happens (.ideTlpFailure fn i) s fun s' => (s'.fn fn).ide[i].secure = false ∧ s'.mem = s.mem ∧
      (s'.fn fn).loghead = f.loghead + 1 ∧
      (s'.fn fn).tdi = if f.tdi = .locked ∨ f.tdi = .run ∨ f.tdi = .quiesced then .error else f.tdi) ∧
    (∀ set : Nat, set < 2 → s.service.sessions ≠ 0 → Happens (.ideKeyProgram fn i set) s fun s' =>
      (s'.fn fn).ide[i].keys.getLsbD set = true ∧ (s'.fn fn).ide[i].secure = true ∧ (s'.fn fn).tdi = f.tdi) ∧
    (f.ide[i].keys.getLsbD (1 - f.ide[i].current) = true → Happens (.kSetGo fn i) s fun s' =>
      (s'.fn fn).ide[i] = { f.ide[i] with current := 1 - f.ide[i].current })) ∧
  ∀ (s : State), (∀ b, 1 ≤ b → b ≤ 6 → exec (.spdmRequest (.measurements b)) s =
      .next { s with answer := .signed (Config.signature [s.digest b]) [s.digest b] }) ∧
    Happens (.spdmRequest .openSession) s fun s' => s'.service.sessions = s.service.sessions + 1 ∧ s'.mem = s.mem

/-- 08 R288 and R289, 10 R345 to R347, 13 R438, 14 R452, R456 to R462 and R469. That a port whose tenant's traffic is held accepts no
flit is the model's (log 99). -/
def Obligations.LinksAndFlits : Prop :=
  (∀ (s : State) (n : Nat) (h : FlitHeader), let p := s.port n
    let sent (q : Port) : Option (Nat × BitVec 8 × List Word) := q.retained.getLast?.map fun x => (x.no, x.type, x.payload)
    p.up = true → h.seq.toNat = p.rxseq % 4096 → (h.func, h.gen) ∉ p.closedTo →
    (Happens (.idleFlit n h) s fun s' => s'.port n = { p with
        rxseq := p.rxseq + 1, rxflits := p.rxflits + 1, nakked := false, acked := h.ack, peerCred := p.peerCred + h.cred.toNat } ∧
      (∀ m, m ≠ n → s'.port m = s.port m) ∧ s'.mem = s.mem) ∧
    (∀ (nak : BitVec 12) (i : Nat) (x : Flit), p.retained[i]? = some x → x.no % 4096 = nak.toNat →
      (∀ j y, j < i → p.retained[j]? = some y → y.no % 4096 ≠ nak.toNat) →
      ((∀ q y, i ≤ q → p.retained[q]? = some y → y.resent < 63) → Happens (.linkctlFlit n h nak) s fun s' =>
        (s'.port n).up = true ∧ (s'.port n).retained.length = p.retained.length ∧ ∀ (q : Nat) (y : Flit), p.retained[q]? = some y →
          (s'.port n).retained[q]? = some { y with resent := if i ≤ q then y.resent + 1 else 0 }) ∧
      ((∃ q y, i ≤ q ∧ p.retained[q]? = some y ∧ 63 ≤ y.resent) → Happens (.linkctlFlit n h nak) s fun s' =>
        (s'.port n).up = false ∧ (s'.port n).downCause = 1)) ∧
    let first := (∀ o ∈ s.counterOps, o.port ≠ some n) ∧ ∀ o ∈ s.hostOps, ∀ q m, o.origin = .remote q m → q ≠ n
    (∀ (old new : BitVec 8) (f : BitVec 10), p.mode = 1 → new = old + 1 → (∀ o ∈ s.counterOps, o.id < s.nextId) →
      (∀ o ∈ s.hostOps, o.id < s.nextId) →
      (first → (∀ o ∈ p.pending, inArea n o.place f = false) → Happens (.abortFlit n h old new f) s fun s' =>
        (f, old) ∈ (s'.port n).closedTo ∧ f ∈ (s'.port n).closedAreas ∧ ∀ w ∈ s'.watches, ¬ (w.port = n ∧ w.func = f)) ∧
      (¬ first → Happens (.abortFlit n h old new f) s fun s' => (f, old) ∈ (s'.port n).closedTo ∧ s'.watches = s.watches ∧
        ∃ o, s'.counterOps = s.counterOps ++ [o] ∧ o.kind = .abort f ∧ o.port = some n)) ∧
    (∀ (a : BitVec 46) (e : Export) (va : Nat) (c : Place), p.mode = 1 → first → (s.fn e.tenant).halted = false →
      s.heldAt e.tenant va = false → s.badAt c.flat = false → s.untouched c.flat →
      ((∃ k, c.home = .spad k) ∨ (∃ v, c.home = .vault v) ∨ ∃ d, c.home = .channel d) →
      let old := s.cellVal c.flat
      (s.exportedCell n h a needR = some (e, va, c) → Happens (.creadFlit n h a) s fun s' => s'.mem = s.mem ∧
        sent (s'.port n) = some (p.txseq, 0x06, [w64 p.rxseq, 0, old]) ∧
        ∀ x, (s'.port n).retained.getLast? = some x → x.func = BitVec.ofNat 10 e.tenant ∧ x.gen = s.gen e.tenant) ∧
      (∀ t : Word, s.exportedCell n h a needR = some (e, va, c) →
        ((old - t).toNat < 2 ^ 63 → Happens (.cwatchFlit n h a t) s fun s' => s'.mem = s.mem ∧
          sent (s'.port n) = some (p.txseq, 0x06, [w64 p.rxseq, 3, old])) ∧
        (2 ^ 63 ≤ (old - t).toNat → Happens (.cwatchFlit n h a t) s fun s' => s'.mem = s.mem ∧
          ∃ w ∈ s'.watches, w.port = n ∧ w.func = h.func ∧ w.cell = c.flat ∧ w.thr = t ∧ w.owner = e.tenant)) ∧
      (s.exportedCell n h a needRW = some (e, va, c) → s.distances c.flat old = [] →
        (∀ x : Word, Happens (.caddFlit n h a x) s fun s' => s'.cellVal c.flat = old + x ∧
          sent (s'.port n) = some (p.txseq, 0x06, [w64 p.rxseq, 0, old + x])) ∧
        ∀ x : Word, Happens (.cmaxFlit n h a x) s fun s' => s'.cellVal c.flat = (if old < x then x else old) ∧
          sent (s'.port n) = some (p.txseq, 0x06, [w64 p.rxseq, 0, if old < x then x else old]))) ∧
    (∀ (a : BitVec 46) (data : List Byte) (e : Export) (ps : List Place), p.mode = 1 → data ≠ [] →
      first → s.admitted n h a true data.length = some e → (s.tenant e.tenant).v = true → (s.fn e.tenant).halted = false →
      s.heldIn e.tenant (e.addr a) data.length = none →
      s.placesOf e.tenant (e.addr a) data.length needW = .ok ps → s.direct ps → Happens (.writeFlit n h a data) s fun s' =>
        s'.mem = memPuts s.mem ((ps.map (·.flat)).zip data) ∧ s'.answer = s.answer ∧ ∀ q ∈ ps, q.flat / 64 ∉ s'.tags) ∧
    (∀ (o : PeerOp) (bm : Nat) (b : Held) (d : XReg) (v : Word), p.mode = 1 →
      (p.pending.find? fun x => x.id == o.id) = some o → o.gen = s.gen o.tenant → o.watch = false → o.read = some bm →
      o.origin = .strand → s.heldOf bm = some b → b.bm.warg = farWarg o.va 0 d.toNat →
      ((s.fn o.tenant).halted = false → Happens (.cansFlit n h o.id (.applied v)) s fun s' => s'.mem = s.mem ∧
        (∀ x ∈ (s'.port n).pending, x.id ≠ o.id) ∧
        ∃ b' ∈ s'.bms, b'.id = b.id ∧ b'.holder = .ready ∧ b'.bm.strand = b.bm.strand.setX d v) ∧
      ((s.fn o.tenant).halted = true → Happens (.cansFlit n h o.id (.applied v)) s fun s' => s'.mem = s.mem ∧
        s'.bms = s.bms ∧ ∃ x ∈ (s'.port n).pending, x.id = o.id ∧ x.answer = some (.applied v))) ∧
    ∀ (r : Ring) (u0 u1 u2 : Vec), s.portRing n = some r → (s.fn p.tenant).halted = false → p.asm = none → p.waiting = [] → headerOk u0 = true → recLen u0 = 1 →
      s.distances r.arrival (s.cellVal r.arrival) = [] → 1 ≤ r.size - s.ringUsed r → s.badAt r.arrival = false →
      let i := (s.cellVal r.arrival).toNat % r.size
      s.badAt (r.unit i) = false →
      (r.unit i + 64 ≤ r.arrival ∨ r.arrival + 16 ≤ r.unit i) → r.unit i % 64 = 0 →
      Happens (.ingestFlit n h true u0 u1 u2) s fun s' => s'.cellVal r.arrival = s.cellVal r.arrival + 1 ∧
        memNat s'.mem (r.unit i) 64 = u0.toNat ∧ r.unit i / 64 ∉ s'.tags) ∧
  (∀ (s : State) (n : Nat) (h : FlitHeader), let p := s.port n
    let sent (q : Port) : Option (Nat × BitVec 8 × List Word) := q.retained.getLast?.map fun x => (x.no, x.type, x.payload)
    p.up = true → (h.seq.toNat ≠ p.rxseq % 4096 →
      (p.nakked = true → exec (.idleFlit n h) s = .next s ∧ exec (.flitReceiveError n .gap) s = .next s) ∧
      (p.nakked = false → Happens (.idleFlit n h) s fun s' => (s'.port n).rxseq = p.rxseq ∧ (s'.port n).nakked = true ∧
        sent (s'.port n) = some (p.txseq, 0x09, [w64 (p.rxseq % 4096)]))) ∧
    (∀ (seq : Word) (ty : BitVec 8), (seq.toNat % 4096 = p.rxseq % 4096 → Happens (.flitReceiveError n (.reserved seq ty)) s fun s' =>
        (s'.port n).rxseq = p.rxseq + 1 ∧ s'.pkgLog.length = s.pkgLog.length + 1 ∧ s'.mem = s.mem) ∧
      (seq.toNat % 4096 ≠ p.rxseq % 4096 → p.nakked = true → exec (.flitReceiveError n (.reserved seq ty)) s = .next s)) ∧
    (Happens (.flitReceiveError n .crc) s fun s' => (s'.port n).rxseq = p.rxseq ∧ s'.mem = s.mem ∧
      sent (s'.port n) = some (p.txseq, 0x09, [w64 (p.rxseq % 4096)])) ∧
    (p.mode = 1 → p.enc = true → Happens (.flitReceiveError n .mac) s fun s' => (s'.port n).up = false ∧
      (s'.port n).downCause = 2) ∧
    (∀ c : BitVec 3, 1 ≤ c.toNat → c.toNat ≤ 5 → Happens (.linkDown n c) s fun s' => (s'.port n).up = false ∧
      (s'.port n).downCause = c ∧ ∀ w ∈ s'.watches, w.port ≠ n) ∧
    (p.mode = 1 → p.enc = true → 2 ^ 40 * (p.rekeys + 1) ≤ p.txseq → Happens (.linkRekey n) s fun s' =>
      (s'.port n).rekeys = p.rekeys + 1 ∧ (s'.port n).txseq = p.txseq + 1 ∧ s'.mem = s.mem)) ∧
  (∀ (s : State) (n : Nat) (enc : Bool), let p := s.port n
    p.up = false → p.mode ≠ 0 → (¬ (p.mode = 1 ∧ p.enc ≠ enc) → Happens (.linkUp n enc) s fun s' => (s'.port n).up = true ∧
      (s'.port n).rxseq = 0 ∧ (s'.port n).txseq = 0 ∧ (s'.port n).rxflits = 0 ∧ (s'.port n).mode = p.mode) ∧
    (p.mode = 1 → p.enc ≠ enc → Happens (.linkUp n enc) s fun s' => (s'.port n).up = false ∧ (s'.port n).downCause = 3)) ∧
  (∀ (s : State) (n : Nat) (r : Ring) (us : List Vec) (rest : List (List Vec)), s.portRing n = some r →
    (s.port n).waiting = us :: rest → (s.fn (s.port n).tenant).halted = false → (∀ t, s.place r us = some t → Happens (.ingestHeldRecord n) s fun s' =>
      (s'.port n).waiting = rest ∧ s'.mem = t.mem) ∧
    (s.place r us = none → Happens (.ingestHeldRecord n) s fun s' => s'.mem = s.mem ∧
      (s'.port n).waiting = (s.port n).waiting)) ∧
  (∀ (s : State) (n : Nat) (h : FlitHeader) (start : Bool) (u0 u1 u2 : Vec), (s.port n).mode = 2 → (s.fn (s.port n).tenant).halted = true →
    exec (.ingestFlit n h start u0 u1 u2) s = .next s ∧ exec (.ingestHeldRecord n) s = .next s) ∧
  (∀ (s : State) (n off : Nat) (v : Word) (ide : IdeTag), (s.fn 0).dropsWrite ide = true →
    exec (.binderrClear ⟨n, ide⟩) s = .next s ∧ exec (.portModeWrite ⟨n, ide⟩ off v) s = .next s) ∧
  ∀ (s : State) (n : Nat) (ide : IdeTag), (s.fn 0).dropsWrite ide = false →
    (Happens (.binderrClear ⟨n, ide⟩) s fun s' => s'.port n = { s.port n with bindErr := false } ∧ s'.mem = s.mem ∧
      ∀ m, m ≠ n → s'.port m = s.port m) ∧
    (∀ v : Word, v &&& 0xFFFFFFFF7C00FFF8 = 0 → v.extractLsb' 0 2 ≠ 3 → v.extractLsb' 0 2 ≠ 2 → (s.port n).up = false →
      Happens (.portModeWrite ⟨n, ide⟩ 0 v) s fun s' => (s'.port n).mode = v.extractLsb' 0 2 ∧ (s'.port n).enc = v.getLsbD 2 ∧
        (s'.port n).tenant = (v.extractLsb' 16 10).toNat ∧ (s'.port n).bindErr = ((s.port n).bindErr && !v.getLsbD 31) ∧
        s'.mem = s.mem) ∧
    (∀ v : Word, v &&& 0xFFFFFFFF7C00FFF8 ≠ 0 → exec (.portModeWrite ⟨n, ide⟩ 0 v) s = .next s) ∧
    ∀ v : Word, (s.port n).up = false → (s.port n).mode ≠ 2 → Happens (.portModeWrite ⟨n, ide⟩ 8 v) s fun s' =>
      (s'.port n).ringva = v ∧ (s'.port n).mode = (s.port n).mode ∧ s'.mem = s.mem
end

