-- ==== Sys2Proof/Laws/Decode.lean ====
section
/-! SUPPORT. The fields of a packed word, and what each major opcode's decoder does with them (02 R35 to R50). -/

namespace Sys2Proof

/-! ### Slices of concatenations -/

/-- A slice inside the upper part. -/
theorem extract_high {n m : Nat} (x : BitVec n) (y : BitVec m) (lo len : Nat) (h : m ≤ lo) :
    (x ++ y).extractLsb' lo len = x.extractLsb' (lo - m) len := by
  apply BitVec.eq_of_getLsbD_eq
  intro i hi
  simp only [BitVec.getLsbD_extractLsb', BitVec.getLsbD_append, hi, decide_true, Bool.true_and]
  rw [if_neg (by omega)]
  congr 1
  omega

/-- A slice inside the lower part. -/
theorem extract_low {n m : Nat} (x : BitVec n) (y : BitVec m) (lo len : Nat) (h : lo + len ≤ m) :
    (x ++ y).extractLsb' lo len = y.extractLsb' lo len := by
  apply BitVec.eq_of_getLsbD_eq
  intro i hi
  simp only [BitVec.getLsbD_extractLsb', BitVec.getLsbD_append, hi, decide_true, Bool.true_and]
  rw [if_pos (by omega)]

/-- The upper part of a concatenation. -/
theorem extract_upper {n m : Nat} (x : BitVec n) (y : BitVec m) : (x ++ y).extractLsb' m n = x :=
  (extract_high x y m n le_rfl).trans (by rw [Nat.sub_self]; exact BitVec.extractLsb'_eq_self)

/-- The lower part of a concatenation. -/
theorem extract_lower {n m : Nat} (x : BitVec n) (y : BitVec m) : (x ++ y).extractLsb' 0 m = y :=
  (extract_low x y 0 m (by omega)).trans BitVec.extractLsb'_eq_self

/-- Two adjacent slices joined. -/
theorem extract_join {k : Nat} (v : BitVec k) (n m lo : Nat) :
    v.extractLsb' (lo + m) n ++ v.extractLsb' lo m = v.extractLsb' lo (n + m) := by
  apply BitVec.eq_of_getLsbD_eq
  intro i hi
  simp only [BitVec.getLsbD_extractLsb', BitVec.getLsbD_append]
  by_cases h : i < m
  · simp only [h, decide_true, Bool.true_and, if_true, hi]
  · have : i - m < n := by omega
    simp only [h, if_false, this, decide_true, Bool.true_and, hi]
    congr 1
    omega

/-! ### The fields of the A cut -/

section

variable (f7 : BitVec 7) (b a d : BitVec 5) (f3 : BitVec 3) (op : BitVec 7)

@[simp] theorem fF7_packA : fF7 (packA f7 b a f3 d op) = f7 :=
  (extract_high _ op 25 7 (by decide)).trans <|
    (extract_high _ d 18 7 (by decide)).trans <|
    (extract_high _ f3 13 7 (by decide)).trans <|
    (extract_high _ a 10 7 (by decide)).trans <|
    (extract_high _ b 5 7 (by decide)).trans <|
    BitVec.extractLsb'_eq_self

@[simp] theorem fRs2_packA : fRs2 (packA f7 b a f3 d op) = b :=
  (extract_high _ op 20 5 (by decide)).trans <|
    (extract_high _ d 13 5 (by decide)).trans <|
    (extract_high _ f3 8 5 (by decide)).trans <|
    (extract_high _ a 5 5 (by decide)).trans <|
    (extract_low _ b 0 5 (by decide)).trans <|
    BitVec.extractLsb'_eq_self

@[simp] theorem fRs1_packA : fRs1 (packA f7 b a f3 d op) = a :=
  (extract_high _ op 15 5 (by decide)).trans <|
    (extract_high _ d 8 5 (by decide)).trans <|
    (extract_high _ f3 3 5 (by decide)).trans <|
    (extract_low _ a 0 5 (by decide)).trans <|
    BitVec.extractLsb'_eq_self

@[simp] theorem fF3_packA : fF3 (packA f7 b a f3 d op) = f3 :=
  (extract_high _ op 12 3 (by decide)).trans <|
    (extract_high _ d 5 3 (by decide)).trans <|
    (extract_low _ f3 0 3 (by decide)).trans <|
    BitVec.extractLsb'_eq_self

@[simp] theorem fRd_packA : fRd (packA f7 b a f3 d op) = d :=
  (extract_high _ op 7 5 (by decide)).trans <|
    (extract_low _ d 0 5 (by decide)).trans <|
    BitVec.extractLsb'_eq_self

@[simp] theorem fOp_packA : fOp (packA f7 b a f3 d op) = op :=
  (extract_low _ op 0 7 (by decide)).trans <|
    BitVec.extractLsb'_eq_self

@[simp] theorem fHi6_packA : fHi6 (packA f7 b a f3 d op) = f7.extractLsb' 1 6 := by
  simp only [fHi6, fF7_packA]

@[simp] theorem fBit25_packA : fBit25 (packA f7 b a f3 d op) = f7.extractLsb' 0 1 := by
  simp only [fBit25, fF7_packA]

@[simp] theorem fF7Hi5_packA : fF7Hi5 (packA f7 b a f3 d op) = f7.extractLsb' 2 5 := by
  simp only [fF7Hi5, fF7_packA]

@[simp] theorem fF7Hi4_packA : fF7Hi4 (packA f7 b a f3 d op) = f7.extractLsb' 3 4 := by
  simp only [fF7Hi4, fF7_packA]

@[simp] theorem fF7Lo_packA : fF7Lo (packA f7 b a f3 d op) = f7.extractLsb' 0 2 := by
  simp only [fF7Lo, fF7_packA]

@[simp] theorem fAxis_packA : fAxis (packA f7 b a f3 d op) = f7.extractLsb' 0 2 := by
  simp only [fAxis, fF7_packA]

@[simp] theorem fN_packA : fN (packA f7 b a f3 d op) = f7.extractLsb' 0 3 := by
  simp only [fN, fF7_packA]

@[simp] theorem fRs1Hi_packA : fRs1Hi (packA f7 b a f3 d op) = a.extractLsb' 4 1 := by
  simp only [fRs1Hi, fRs1_packA]

@[simp] theorem fRs2Hi_packA : fRs2Hi (packA f7 b a f3 d op) = b.extractLsb' 4 1 := by
  simp only [fRs2Hi, fRs2_packA]

@[simp] theorem fRdHi_packA : fRdHi (packA f7 b a f3 d op) = d.extractLsb' 4 1 := by
  simp only [fRdHi, fRd_packA]

@[simp] theorem fCRs1_packA : fCRs1 (packA f7 b a f3 d op) = a.extractLsb' 0 4 := by
  simp only [fCRs1, fRs1_packA]

@[simp] theorem fCRs2_packA : fCRs2 (packA f7 b a f3 d op) = b.extractLsb' 0 4 := by
  simp only [fCRs2, fRs2_packA]

@[simp] theorem fCRd_packA : fCRd (packA f7 b a f3 d op) = d.extractLsb' 0 4 := by
  simp only [fCRd, fRd_packA]

@[simp] theorem fRs1P_packA : fRs1P (packA f7 b a f3 d op) = a.extractLsb' 3 2 := by
  simp only [fRs1P, fRs1_packA]

@[simp] theorem fRs2P_packA : fRs2P (packA f7 b a f3 d op) = b.extractLsb' 3 2 := by
  simp only [fRs2P, fRs2_packA]

@[simp] theorem fRdP_packA : fRdP (packA f7 b a f3 d op) = d.extractLsb' 3 2 := by
  simp only [fRdP, fRd_packA]

@[simp] theorem fPRs1_packA : fPRs1 (packA f7 b a f3 d op) = a.extractLsb' 0 3 := by
  simp only [fPRs1, fRs1_packA]

@[simp] theorem fPRs2_packA : fPRs2 (packA f7 b a f3 d op) = b.extractLsb' 0 3 := by
  simp only [fPRs2, fRs2_packA]

@[simp] theorem fPRd_packA : fPRd (packA f7 b a f3 d op) = d.extractLsb' 0 3 := by
  simp only [fPRd, fRd_packA]

@[simp] theorem fOp4_packA : fOp4 (packA f7 b a f3 d op) = f7.extractLsb' 3 4 := by
  simp only [fOp4, fF7_packA]

@[simp] theorem fPg_packA : fPg (packA f7 b a f3 d op) = f7.extractLsb' 0 3 := by
  simp only [fPg, fF7_packA]

@[simp] theorem fOrd_packA : fOrd (packA f7 b a f3 d op) = f7.extractLsb' 0 4 := by
  simp only [fOrd, fF7_packA]

@[simp] theorem fScope_packA : fScope (packA f7 b a f3 d op) = f7.extractLsb' 4 3 := by
  simp only [fScope, fF7_packA]

@[simp] theorem fMScope_packA : fMScope (packA f7 b a f3 d op) = a.extractLsb' 0 3 := by
  simp only [fMScope, fRs1_packA]

@[simp] theorem fSucc_packA : fSucc (packA f7 b a f3 d op) = b.extractLsb' 0 3 := by
  simp only [fSucc, fRs2_packA]

@[simp] theorem fF3Hi_packA : fF3Hi (packA f7 b a f3 d op) = f3.extractLsb' 1 2 := by
  simp only [fF3Hi, fF3_packA]

@[simp] theorem fFa_packA : fFa (packA f7 b a f3 d op) = f7.extractLsb' 2 5 := by
  simp only [fFa, fF7_packA]

@[simp] theorem fFz_packA : fFz (packA f7 b a f3 d op) = b.extractLsb' 0 2 := by
  simp only [fFz, fRs2_packA]

@[simp] theorem fRm_packA : fRm (packA f7 b a f3 d op) = a.extractLsb' 2 3 := by
  simp only [fRm, fRs1_packA]

@[simp] theorem fSat_packA : fSat (packA f7 b a f3 d op) = a.extractLsb' 0 2 := by
  simp only [fSat, fRs1_packA]

@[simp] theorem fBz_packA : fBz (packA f7 b a f3 d op) = d.extractLsb' 1 1 := by
  simp only [fBz, fRd_packA]

@[simp] theorem fJz_packA : fJz (packA f7 b a f3 d op) = b.extractLsb' 1 1 := by
  simp only [fJz, fRs2_packA]

@[simp] theorem fI_packA : fI (packA f7 b a f3 d op) = f7 ++ b := by
  simp only [fI, fF7_packA, fRs2_packA]

@[simp] theorem fS_packA : fS (packA f7 b a f3 d op) = f7 ++ d := by
  simp only [fS, fF7_packA, fRd_packA]

@[simp] theorem fU_packA : fU (packA f7 b a f3 d op) = f7 ++ b ++ a ++ f3 := by
  simp only [fU, fF7_packA, fRs2_packA, fRs1_packA, fF3_packA]

@[simp] theorem fSh_packA : fSh (packA f7 b a f3 d op) = f7.extractLsb' 0 1 ++ b := by
  simp only [fSh, fF7_packA, fRs2_packA]

@[simp] theorem fPred_packA : fPred (packA f7 b a f3 d op) = f7.extractLsb' 0 2 ++ b.extractLsb' 4 1 := by
  simp only [fPred, fF7_packA, fRs2_packA]

@[simp] theorem fFb_packA : fFb (packA f7 b a f3 d op) = f7.extractLsb' 0 2 ++ b.extractLsb' 2 3 := by
  simp only [fFb, fF7_packA, fRs2_packA]

@[simp] theorem fMz_packA : fMz (packA f7 b a f3 d op) = f7.extractLsb' 2 5 ++ b.extractLsb' 3 1 ++ a.extractLsb' 3 2 := by
  simp only [fMz, fF7_packA, fRs2_packA, fRs1_packA]

@[simp] theorem fB_packA : fB (packA f7 b a f3 d op) = f7.extractLsb' 6 1 ++ d.extractLsb' 0 1 ++ f7.extractLsb' 0 6 ++ d.extractLsb' 2 3 := by
  simp only [fB, fF7_packA, fRd_packA]

@[simp] theorem fJ_packA : fJ (packA f7 b a f3 d op) = f7.extractLsb' 6 1 ++ (a ++ f3) ++ b.extractLsb' 0 1 ++ (f7.extractLsb' 0 6 ++ b.extractLsb' 2 3) := by
  simp only [fJ, fF7_packA, fRs2_packA, fRs1_packA, fF3_packA]

@[simp] theorem fWide_packA : fWide (packA f7 b a f3 d op) = (f3.extractLsb' 0 1 == 1#1) := by
  simp only [fWide, fF3_packA]

@[simp] theorem xF5_packA : xF5 (packA f7 b a f3 d op) = f7.extractLsb' 2 5 :=
  (extract_high _ op 27 5 (by decide)).trans <|
  (extract_high _ d 20 5 (by decide)).trans <|
  (extract_high _ f3 15 5 (by decide)).trans <|
  (extract_high _ a 12 5 (by decide)).trans <|
  extract_high _ b 7 5 (by decide)

end

/-! ### The fields of the X form -/

section

variable (f5 : BitVec 5) (m : BitVec 1) (sub : BitVec 3) (ce ck cb cd : BitVec 4)

@[simp] theorem xF5_packX : xF5 (packX f5 m sub ce ck cb cd) = f5 :=
  (extract_high _ 0x5B#7 27 5 (by decide)).trans <|
    (extract_high _ cd 20 5 (by decide)).trans <|
    (extract_high _ cb 16 5 (by decide)).trans <|
    (extract_high _ ck 12 5 (by decide)).trans <|
    (extract_high _ ce 8 5 (by decide)).trans <|
    (extract_high _ sub 4 5 (by decide)).trans <|
    (extract_high _ m 1 5 (by decide)).trans <|
    BitVec.extractLsb'_eq_self

@[simp] theorem xMb_packX : xMb (packX f5 m sub ce ck cb cd) = m :=
  (extract_high _ 0x5B#7 26 1 (by decide)).trans <|
    (extract_high _ cd 19 1 (by decide)).trans <|
    (extract_high _ cb 15 1 (by decide)).trans <|
    (extract_high _ ck 11 1 (by decide)).trans <|
    (extract_high _ ce 7 1 (by decide)).trans <|
    (extract_high _ sub 3 1 (by decide)).trans <|
    (extract_low _ m 0 1 (by decide)).trans <|
    BitVec.extractLsb'_eq_self

@[simp] theorem xSub_packX : xSub (packX f5 m sub ce ck cb cd) = sub :=
  (extract_high _ 0x5B#7 23 3 (by decide)).trans <|
    (extract_high _ cd 16 3 (by decide)).trans <|
    (extract_high _ cb 12 3 (by decide)).trans <|
    (extract_high _ ck 8 3 (by decide)).trans <|
    (extract_high _ ce 4 3 (by decide)).trans <|
    (extract_low _ sub 0 3 (by decide)).trans <|
    BitVec.extractLsb'_eq_self

@[simp] theorem xCe_packX : xCe (packX f5 m sub ce ck cb cd) = ce :=
  (extract_high _ 0x5B#7 19 4 (by decide)).trans <|
    (extract_high _ cd 12 4 (by decide)).trans <|
    (extract_high _ cb 8 4 (by decide)).trans <|
    (extract_high _ ck 4 4 (by decide)).trans <|
    (extract_low _ ce 0 4 (by decide)).trans <|
    BitVec.extractLsb'_eq_self

@[simp] theorem xCk_packX : xCk (packX f5 m sub ce ck cb cd) = ck :=
  (extract_high _ 0x5B#7 15 4 (by decide)).trans <|
    (extract_high _ cd 8 4 (by decide)).trans <|
    (extract_high _ cb 4 4 (by decide)).trans <|
    (extract_low _ ck 0 4 (by decide)).trans <|
    BitVec.extractLsb'_eq_self

@[simp] theorem xCb_packX : xCb (packX f5 m sub ce ck cb cd) = cb :=
  (extract_high _ 0x5B#7 11 4 (by decide)).trans <|
    (extract_high _ cd 4 4 (by decide)).trans <|
    (extract_low _ cb 0 4 (by decide)).trans <|
    BitVec.extractLsb'_eq_self

@[simp] theorem xCd_packX : xCd (packX f5 m sub ce ck cb cd) = cd :=
  (extract_high _ 0x5B#7 7 4 (by decide)).trans <|
    (extract_low _ cd 0 4 (by decide)).trans <|
    BitVec.extractLsb'_eq_self

@[simp] theorem fOp_packX : fOp (packX f5 m sub ce ck cb cd) = 0x5B#7 :=
  (extract_low _ 0x5B#7 0 7 (by decide)).trans <|
    BitVec.extractLsb'_eq_self

@[simp] theorem xM_packX : xM (packX f5 m sub ce ck cb cd) = (m == 1#1) := by
  simp only [xM, xMb_packX]

@[simp] theorem xSubHi_packX : xSubHi (packX f5 m sub ce ck cb cd) = sub.extractLsb' 1 2 := by
  simp only [xSubHi, xSub_packX]

@[simp] theorem xX_packX : xX (packX f5 m sub ce ck cb cd) = sub.extractLsb' 0 1 ++ ce := by
  simp only [xX, xSub_packX, xCe_packX]

@[simp] theorem xCdHi_packX : xCdHi (packX f5 m sub ce ck cb cd) = cd.extractLsb' 3 1 := by
  simp only [xCdHi, xCd_packX]

@[simp] theorem xV_packX : xV (packX f5 m sub ce ck cb cd) = cd.extractLsb' 0 3 := by
  simp only [xV, xCd_packX]

end

/-- The word of an MJOB by the A cut: funct3 is cb[3:1], and rd is cb[0] with cd. -/
@[simp] theorem fF3_packX_mjob (f5 : BitVec 5) (m : BitVec 1) (sub : BitVec 3) (ce ck cd : BitVec 4) (x : BitVec 3) (y : BitVec 1) :
    fF3 (packX f5 m sub ce ck (x ++ y) cd) = x :=
  (extract_high _ 0x5B#7 12 3 (by decide)).trans <| (extract_high _ cd 5 3 (by decide)).trans <|
    (extract_low _ (x ++ y) 1 3 (by decide)).trans (extract_upper x y)

@[simp] theorem fRd_packX (f5 : BitVec 5) (m : BitVec 1) (sub : BitVec 3) (ce ck cd : BitVec 4) (x : BitVec 3) (y : BitVec 1) :
    fRd (packX f5 m sub ce ck (x ++ y) cd) = y ++ cd := by
  refine Eq.trans (extract_high _ 0x5B#7 7 5 (by decide)) ?_
  refine Eq.trans ?_ (extract_lower x (y ++ cd))
  apply BitVec.eq_of_getLsbD_eq
  intro i hi
  have h (z : BitVec 17) : ((z ++ (x ++ y) ++ cd).extractLsb' 0 5).getLsbD i = ((x ++ (y ++ cd)).extractLsb' 0 5).getLsbD i := by
    simp only [BitVec.getLsbD_extractLsb', BitVec.getLsbD_append, hi, decide_true, Bool.true_and, Nat.zero_add]
    by_cases h4 : i < 4
    · simp only [h4, if_true]
    · simp only [h4, if_false, if_true, show i - 4 < 3 + 1 by omega, show i - 4 < 1 by omega]
  exact h (f5 ++ m ++ sub ++ ce ++ ck)

/-! ### Slices of the fields that are packed from parts -/

@[simp] theorem upper_5_2 (x : BitVec 5) (y : BitVec 2) : (x ++ y : BitVec 7).extractLsb' 2 5 = x :=
  extract_upper x y

@[simp] theorem lower_5_2 (x : BitVec 5) (y : BitVec 2) : (x ++ y : BitVec 7).extractLsb' 0 2 = y :=
  extract_lower x y

@[simp] theorem upper_6_1 (x : BitVec 6) (y : BitVec 1) : (x ++ y : BitVec 7).extractLsb' 1 6 = x :=
  extract_upper x y

@[simp] theorem lower_6_1 (x : BitVec 6) (y : BitVec 1) : (x ++ y : BitVec 7).extractLsb' 0 1 = y :=
  extract_lower x y

@[simp] theorem upper_4_3 (x : BitVec 4) (y : BitVec 3) : (x ++ y : BitVec 7).extractLsb' 3 4 = x :=
  extract_upper x y

@[simp] theorem lower_4_3 (x : BitVec 4) (y : BitVec 3) : (x ++ y : BitVec 7).extractLsb' 0 3 = y :=
  extract_lower x y

@[simp] theorem upper_1_4 (x : BitVec 1) (y : BitVec 4) : (x ++ y : BitVec 5).extractLsb' 4 1 = x :=
  extract_upper x y

@[simp] theorem lower_1_4 (x : BitVec 1) (y : BitVec 4) : (x ++ y : BitVec 5).extractLsb' 0 4 = y :=
  extract_lower x y

@[simp] theorem upper_2_3 (x : BitVec 2) (y : BitVec 3) : (x ++ y : BitVec 5).extractLsb' 3 2 = x :=
  extract_upper x y

@[simp] theorem lower_2_3 (x : BitVec 2) (y : BitVec 3) : (x ++ y : BitVec 5).extractLsb' 0 3 = y :=
  extract_lower x y

@[simp] theorem upper_3_2 (x : BitVec 3) (y : BitVec 2) : (x ++ y : BitVec 5).extractLsb' 2 3 = x :=
  extract_upper x y

@[simp] theorem lower_3_2 (x : BitVec 3) (y : BitVec 2) : (x ++ y : BitVec 5).extractLsb' 0 2 = y :=
  extract_lower x y

@[simp] theorem upper_2_1 (x : BitVec 2) (y : BitVec 1) : (x ++ y : BitVec 3).extractLsb' 1 2 = x :=
  extract_upper x y

@[simp] theorem lower_2_1 (x : BitVec 2) (y : BitVec 1) : (x ++ y : BitVec 3).extractLsb' 0 1 = y :=
  extract_lower x y

@[simp] theorem upper_1_3 (x : BitVec 1) (y : BitVec 3) : (x ++ y : BitVec 4).extractLsb' 3 1 = x :=
  extract_upper x y

@[simp] theorem lower_1_3 (x : BitVec 1) (y : BitVec 3) : (x ++ y : BitVec 4).extractLsb' 0 3 = y :=
  extract_lower x y

@[simp] theorem upper_3_1 (x : BitVec 3) (y : BitVec 1) : (x ++ y : BitVec 4).extractLsb' 1 3 = x :=
  extract_upper x y

@[simp] theorem lower_3_1 (x : BitVec 3) (y : BitVec 1) : (x ++ y : BitVec 4).extractLsb' 0 1 = y :=
  extract_lower x y

@[simp] theorem upper_1_6 (x : BitVec 1) (y : BitVec 6) : (x ++ y : BitVec 7).extractLsb' 6 1 = x :=
  extract_upper x y

@[simp] theorem lower_1_6 (x : BitVec 1) (y : BitVec 6) : (x ++ y : BitVec 7).extractLsb' 0 6 = y :=
  extract_lower x y

@[simp] theorem join_7_5 (v : BitVec 12) : (v.extractLsb' 5 7 ++ v.extractLsb' 0 5 : BitVec 12) = v :=
  (extract_join v 7 5 0).trans BitVec.extractLsb'_eq_self

@[simp] theorem join_1_4 (v : BitVec 5) : (v.extractLsb' 4 1 ++ v.extractLsb' 0 4 : BitVec 5) = v :=
  (extract_join v 1 4 0).trans BitVec.extractLsb'_eq_self

@[simp] theorem join_2_1 (v : BitVec 3) : (v.extractLsb' 1 2 ++ v.extractLsb' 0 1 : BitVec 3) = v :=
  (extract_join v 2 1 0).trans BitVec.extractLsb'_eq_self

@[simp] theorem join_2_3 (v : BitVec 5) : (v.extractLsb' 3 2 ++ v.extractLsb' 0 3 : BitVec 5) = v :=
  (extract_join v 2 3 0).trans BitVec.extractLsb'_eq_self

/-- A slice of a slice. -/
theorem extract_extract {k : Nat} (v : BitVec k) (a n b m : Nat) (h : b + m ≤ n) :
    (v.extractLsb' a n).extractLsb' b m = v.extractLsb' (a + b) m := by
  apply BitVec.eq_of_getLsbD_eq
  intro i hi
  simp only [BitVec.getLsbD_extractLsb', hi, decide_true, Bool.true_and, show b + i < n by omega]
  congr 1
  omega

@[simp] theorem mid_3_1_1 (x : BitVec 3) (z y : BitVec 1) : (x ++ z ++ y : BitVec 5).extractLsb' 1 1 = z :=
  (extract_high (x ++ z) y 1 1 (by decide)).trans (extract_lower x z)

@[simp] theorem low_3_1_1 (x : BitVec 3) (z y : BitVec 1) : (x ++ z ++ y : BitVec 5).extractLsb' 0 1 = y :=
  extract_lower (x ++ z) y

@[simp] theorem high_3_1_1 (x : BitVec 3) (z y : BitVec 1) : (x ++ z ++ y : BitVec 5).extractLsb' 2 3 = x :=
  (extract_high (x ++ z) y 2 3 (by decide)).trans (extract_upper x z)

@[simp] theorem mid_1_1_3 (x z : BitVec 1) (y : BitVec 3) : (x ++ z ++ y : BitVec 5).extractLsb' 3 1 = z :=
  (extract_high (x ++ z) y 3 1 (by decide)).trans (extract_lower x z)

@[simp] theorem high_1_1_3 (x z : BitVec 1) (y : BitVec 3) : (x ++ z ++ y : BitVec 5).extractLsb' 4 1 = x :=
  (extract_high (x ++ z) y 4 1 (by decide)).trans (extract_upper x z)

@[simp] theorem shift_high (x y : BitVec 6) : ((x ++ y : BitVec 12).extractLsb' 5 7).extractLsb' 1 6 = x :=
  (extract_extract (x ++ y) 5 7 1 6 (by decide)).trans (extract_upper x y)

@[simp] theorem shift_low (x y : BitVec 6) :
    (((x ++ y : BitVec 12).extractLsb' 5 7).extractLsb' 0 1 ++ (x ++ y : BitVec 12).extractLsb' 0 5 : BitVec 6) = y :=
  (congrArg (fun z : BitVec 1 => z ++ (x ++ y).extractLsb' 0 5) (extract_extract (x ++ y) 5 7 0 1 (by decide))).trans <|
    (extract_join (x ++ y) 1 5 0).trans (extract_lower x y)

@[simp] theorem join_u (v : BitVec 20) :
    (v.extractLsb' 13 7 ++ v.extractLsb' 8 5 ++ v.extractLsb' 3 5 ++ v.extractLsb' 0 3 : BitVec 20) = v :=
  (congrArg (fun z : BitVec 17 => z ++ v.extractLsb' 0 3)
    ((congrArg (fun z : BitVec 12 => z ++ v.extractLsb' 3 5) (extract_join v 7 5 8)).trans (extract_join v 12 5 3))).trans <|
    (extract_join v 17 3 0).trans BitVec.extractLsb'_eq_self

@[simp] theorem join_b (v : BitVec 11) :
    (v.extractLsb' 10 1 ++ v.extractLsb' 9 1 ++ v.extractLsb' 3 6 ++ v.extractLsb' 0 3 : BitVec 11) = v :=
  (congrArg (fun z : BitVec 8 => z ++ v.extractLsb' 0 3)
    ((congrArg (fun z : BitVec 2 => z ++ v.extractLsb' 3 6) (extract_join v 1 1 9)).trans (extract_join v 2 6 3))).trans <|
    (extract_join v 8 3 0).trans BitVec.extractLsb'_eq_self

@[simp] theorem join_j (v : BitVec 19) :
    (v.extractLsb' 18 1 ++ (v.extractLsb' 13 5 ++ v.extractLsb' 10 3) ++ v.extractLsb' 9 1 ++
      (v.extractLsb' 3 6 ++ v.extractLsb' 0 3) : BitVec 19) = v :=
  (congrArg (fun z : BitVec 9 => v.extractLsb' 18 1 ++ (v.extractLsb' 13 5 ++ v.extractLsb' 10 3) ++ v.extractLsb' 9 1 ++ z)
    (extract_join v 6 3 0)).trans <|
    (congrArg (fun z : BitVec 8 => v.extractLsb' 18 1 ++ z ++ v.extractLsb' 9 1 ++ v.extractLsb' 0 9) (extract_join v 5 3 10)).trans <|
    (congrArg (fun z : BitVec 9 => z ++ v.extractLsb' 9 1 ++ v.extractLsb' 0 9) (extract_join v 1 8 10)).trans <|
    (congrArg (fun z : BitVec 10 => z ++ v.extractLsb' 0 9) (extract_join v 9 1 9)).trans <|
    (extract_join v 10 9 0).trans BitVec.extractLsb'_eq_self

end Sys2Proof
end

