-- ==== Sys2Proof/Laws/Tables.lean ====
section
/-! SUPPORT. Sparse tables: an entry read after a write, for any table. -/

namespace Sys2Proof.Machine

variable {α : Type} (t : Table α) (a d : α)

theorem Table.get_del_self (k : Nat) : (Table.del t k).get k d = d := by
  induction t with
  | nil => rfl
  | cons x r ih =>
    obtain ⟨i, b⟩ := x
    by_cases h : i = k <;> simp [Table.del, Table.get, h, ih]

theorem Table.get_del_ne {j k : Nat} (h : j ≠ k) : (Table.del t k).get j d = t.get j d := by
  induction t with
  | nil => rfl
  | cons x r ih =>
    obtain ⟨i, b⟩ := x
    by_cases hk : i = k
    · simp [Table.del, Table.get, hk, ih, h.symm]
    · simp [Table.del, Table.get, hk, ih]

theorem Table.get_ins_ne {j k : Nat} (h : j ≠ k) : (Table.ins t k a).get j d = t.get j d := by
  induction t with
  | nil => simp [Table.ins, Table.get, h.symm]
  | cons x r ih =>
    obtain ⟨i, b⟩ := x
    unfold Table.ins
    split
    · simp [Table.get, h.symm]
    · simp [Table.get, ih]

/-- No entry of the index k is listed. -/
theorem Table.del_none (k : Nat) : ∀ x ∈ Table.del t k, x.1 ≠ k := by
  induction t with
  | nil => simp [Table.del]
  | cons x r ih =>
    obtain ⟨i, b⟩ := x
    by_cases h : i = k
    · simpa [Table.del, h] using ih
    · simpa [Table.del, h] using ih

theorem Table.get_ins_self {k : Nat} (h : ∀ x ∈ t, x.1 ≠ k) : (Table.ins t k a).get k d = a := by
  induction t with
  | nil => simp [Table.ins, Table.get]
  | cons x r ih =>
    obtain ⟨i, b⟩ := x
    unfold Table.ins
    split
    · simp [Table.get]
    · have hi : i ≠ k := h (i, b) (by simp)
      simp only [Table.get, hi, if_false]
      exact ih fun y hy => h y (by simp [hy])

theorem Table.get_set_self (k : Nat) : (Table.set t k a).get k d = a := Table.get_ins_self _ _ _ (Table.del_none t k)

theorem Table.get_set_ne {j k : Nat} (h : j ≠ k) : (Table.set t k a).get j d = t.get j d := by
  rw [Table.set, Table.get_ins_ne _ _ _ h, Table.get_del_ne _ _ h]

theorem Table.get_set (j k : Nat) : (Table.set t k a).get j d = if j = k then a else t.get j d := by
  by_cases h : j = k
  · rw [if_pos h, h, Table.get_set_self]
  · rw [if_neg h, Table.get_set_ne _ _ _ h]

end Sys2Proof.Machine
end

