-- ==== Sys2Proof/Laws/State.lean ====
section
/-! SUPPORT. What each named update of the state leaves alone: one lemma per field per update; and what the one entry it
names becomes. -/

namespace Sys2Proof.Machine

set_option Elab.async false

variable (s : State)

/-! ### setCore -/

@[simp] theorem State.setCore_cycle (k : Nat) (c : Core) : (s.setCore k c).cycle = s.cycle := rfl
@[simp] theorem State.setCore_timeAcc (k : Nat) (c : Core) : (s.setCore k c).timeAcc = s.timeAcc := rfl
@[simp] theorem State.setCore_mem (k : Nat) (c : Core) : (s.setCore k c).mem = s.mem := rfl
@[simp] theorem State.setCore_tags (k : Nat) (c : Core) : (s.setCore k c).tags = s.tags := rfl
@[simp] theorem State.setCore_badUnits (k : Nat) (c : Core) : (s.setCore k c).badUnits = s.badUnits := rfl
@[simp] theorem State.setCore_l2 (k : Nat) (c : Core) : (s.setCore k c).l2 = s.l2 := rfl
@[simp] theorem State.setCore_tlb (k : Nat) (c : Core) : (s.setCore k c).tlb = s.tlb := rfl
@[simp] theorem State.setCore_atc (k : Nat) (c : Core) : (s.setCore k c).atc = s.atc := rfl
@[simp] theorem State.setCore_hostPerm (k : Nat) (c : Core) : (s.setCore k c).hostPerm = s.hostPerm := rfl
@[simp] theorem State.setCore_hostFails (k : Nat) (c : Core) : (s.setCore k c).hostFails = s.hostFails := rfl
@[simp] theorem State.setCore_walks (k : Nat) (c : Core) : (s.setCore k c).walks = s.walks := rfl
@[simp] theorem State.setCore_walkTurn (k : Nat) (c : Core) : (s.setCore k c).walkTurn = s.walkTurn := rfl
@[simp] theorem State.setCore_frames (k : Nat) (c : Core) : (s.setCore k c).frames = s.frames := rfl
@[simp] theorem State.setCore_hostWords (k : Nat) (c : Core) : (s.setCore k c).hostWords = s.hostWords := rfl
@[simp] theorem State.setCore_pageReqs (k : Nat) (c : Core) : (s.setCore k c).pageReqs = s.pageReqs := rfl
@[simp] theorem State.setCore_images (k : Nat) (c : Core) : (s.setCore k c).images = s.images := rfl
@[simp] theorem State.setCore_blocks (k : Nat) (c : Core) : (s.setCore k c).blocks = s.blocks := rfl
@[simp] theorem State.setCore_bms (k : Nat) (c : Core) : (s.setCore k c).bms = s.bms := rfl
@[simp] theorem State.setCore_counterOps (k : Nat) (c : Core) : (s.setCore k c).counterOps = s.counterOps := rfl
@[simp] theorem State.setCore_hostOps (k : Nat) (c : Core) : (s.setCore k c).hostOps = s.hostOps := rfl
@[simp] theorem State.setCore_slotStamps (k : Nat) (c : Core) : (s.setCore k c).slotStamps = s.slotStamps := rfl
@[simp] theorem State.setCore_heldWrites (k : Nat) (c : Core) : (s.setCore k c).heldWrites = s.heldWrites := rfl
@[simp] theorem State.setCore_sends (k : Nat) (c : Core) : (s.setCore k c).sends = s.sends := rfl
@[simp] theorem State.setCore_taken (k : Nat) (c : Core) : (s.setCore k c).taken = s.taken := rfl
@[simp] theorem State.setCore_polls (k : Nat) (c : Core) : (s.setCore k c).polls = s.polls := rfl
@[simp] theorem State.setCore_spillReads (k : Nat) (c : Core) : (s.setCore k c).spillReads = s.spillReads := rfl
@[simp] theorem State.setCore_watches (k : Nat) (c : Core) : (s.setCore k c).watches = s.watches := rfl
@[simp] theorem State.setCore_cmds (k : Nat) (c : Core) : (s.setCore k c).cmds = s.cmds := rfl
@[simp] theorem State.setCore_faulted (k : Nat) (c : Core) : (s.setCore k c).faulted = s.faulted := rfl
@[simp] theorem State.setCore_xfer (k : Nat) (c : Core) : (s.setCore k c).xfer = s.xfer := rfl
@[simp] theorem State.setCore_jobs (k : Nat) (c : Core) : (s.setCore k c).jobs = s.jobs := rfl
@[simp] theorem State.setCore_mx (k : Nat) (c : Core) : (s.setCore k c).mx = s.mx := rfl
@[simp] theorem State.setCore_flights (k : Nat) (c : Core) : (s.setCore k c).flights = s.flights := rfl
@[simp] theorem State.setCore_gates (k : Nat) (c : Core) : (s.setCore k c).gates = s.gates := rfl
@[simp] theorem State.setCore_tenants (k : Nat) (c : Core) : (s.setCore k c).tenants = s.tenants := rfl
@[simp] theorem State.setCore_nodes (k : Nat) (c : Core) : (s.setCore k c).nodes = s.nodes := rfl
@[simp] theorem State.setCore_slots (k : Nat) (c : Core) : (s.setCore k c).slots = s.slots := rfl
@[simp] theorem State.setCore_weeds (k : Nat) (c : Core) : (s.setCore k c).weeds = s.weeds := rfl
@[simp] theorem State.setCore_sweep (k : Nat) (c : Core) : (s.setCore k c).sweep = s.sweep := rfl
@[simp] theorem State.setCore_sweepFrom (k : Nat) (c : Core) : (s.setCore k c).sweepFrom = s.sweepFrom := rfl
@[simp] theorem State.setCore_late (k : Nat) (c : Core) : (s.setCore k c).late = s.late := rfl
@[simp] theorem State.setCore_old (k : Nat) (c : Core) : (s.setCore k c).old = s.old := rfl
@[simp] theorem State.setCore_fns (k : Nat) (c : Core) : (s.setCore k c).fns = s.fns := rfl
@[simp] theorem State.setCore_ports (k : Nat) (c : Core) : (s.setCore k c).ports = s.ports := rfl
@[simp] theorem State.setCore_heldReqs (k : Nat) (c : Core) : (s.setCore k c).heldReqs = s.heldReqs := rfl
@[simp] theorem State.setCore_answer (k : Nat) (c : Core) : (s.setCore k c).answer = s.answer := rfl
@[simp] theorem State.setCore_pkgLog (k : Nat) (c : Core) : (s.setCore k c).pkgLog = s.pkgLog := rfl
@[simp] theorem State.setCore_service (k : Nat) (c : Core) : (s.setCore k c).service = s.service := rfl
@[simp] theorem State.setCore_power (k : Nat) (c : Core) : (s.setCore k c).power = s.power := rfl
@[simp] theorem State.setCore_cur (k : Nat) (c : Core) : (s.setCore k c).cur = s.cur := rfl
@[simp] theorem State.setCore_agent (k : Nat) (c : Core) : (s.setCore k c).agent = s.agent := rfl
@[simp] theorem State.setCore_schedule (k : Nat) (c : Core) : (s.setCore k c).schedule = s.schedule := rfl
@[simp] theorem State.setCore_raised (k : Nat) (c : Core) : (s.setCore k c).raised = s.raised := rfl
@[simp] theorem State.setCore_tick (k : Nat) (c : Core) : (s.setCore k c).tick = s.tick := rfl
@[simp] theorem State.setCore_fresh (k : Nat) (c : Core) : (s.setCore k c).fresh = s.fresh := rfl
@[simp] theorem State.setCore_nextId (k : Nat) (c : Core) : (s.setCore k c).nextId = s.nextId := rfl
@[simp] theorem State.setCore_nextHandle (k : Nat) (c : Core) : (s.setCore k c).nextHandle = s.nextHandle := rfl

/-! ### updCore -/

@[simp] theorem State.updCore_cycle (k : Nat) (f : Core → Core) : (s.updCore k f).cycle = s.cycle := rfl
@[simp] theorem State.updCore_timeAcc (k : Nat) (f : Core → Core) : (s.updCore k f).timeAcc = s.timeAcc := rfl
@[simp] theorem State.updCore_mem (k : Nat) (f : Core → Core) : (s.updCore k f).mem = s.mem := rfl
@[simp] theorem State.updCore_tags (k : Nat) (f : Core → Core) : (s.updCore k f).tags = s.tags := rfl
@[simp] theorem State.updCore_badUnits (k : Nat) (f : Core → Core) : (s.updCore k f).badUnits = s.badUnits := rfl
@[simp] theorem State.updCore_l2 (k : Nat) (f : Core → Core) : (s.updCore k f).l2 = s.l2 := rfl
@[simp] theorem State.updCore_tlb (k : Nat) (f : Core → Core) : (s.updCore k f).tlb = s.tlb := rfl
@[simp] theorem State.updCore_atc (k : Nat) (f : Core → Core) : (s.updCore k f).atc = s.atc := rfl
@[simp] theorem State.updCore_hostPerm (k : Nat) (f : Core → Core) : (s.updCore k f).hostPerm = s.hostPerm := rfl
@[simp] theorem State.updCore_hostFails (k : Nat) (f : Core → Core) : (s.updCore k f).hostFails = s.hostFails := rfl
@[simp] theorem State.updCore_walks (k : Nat) (f : Core → Core) : (s.updCore k f).walks = s.walks := rfl
@[simp] theorem State.updCore_walkTurn (k : Nat) (f : Core → Core) : (s.updCore k f).walkTurn = s.walkTurn := rfl
@[simp] theorem State.updCore_frames (k : Nat) (f : Core → Core) : (s.updCore k f).frames = s.frames := rfl
@[simp] theorem State.updCore_hostWords (k : Nat) (f : Core → Core) : (s.updCore k f).hostWords = s.hostWords := rfl
@[simp] theorem State.updCore_pageReqs (k : Nat) (f : Core → Core) : (s.updCore k f).pageReqs = s.pageReqs := rfl
@[simp] theorem State.updCore_images (k : Nat) (f : Core → Core) : (s.updCore k f).images = s.images := rfl
@[simp] theorem State.updCore_blocks (k : Nat) (f : Core → Core) : (s.updCore k f).blocks = s.blocks := rfl
@[simp] theorem State.updCore_bms (k : Nat) (f : Core → Core) : (s.updCore k f).bms = s.bms := rfl
@[simp] theorem State.updCore_counterOps (k : Nat) (f : Core → Core) : (s.updCore k f).counterOps = s.counterOps := rfl
@[simp] theorem State.updCore_hostOps (k : Nat) (f : Core → Core) : (s.updCore k f).hostOps = s.hostOps := rfl
@[simp] theorem State.updCore_slotStamps (k : Nat) (f : Core → Core) : (s.updCore k f).slotStamps = s.slotStamps := rfl
@[simp] theorem State.updCore_heldWrites (k : Nat) (f : Core → Core) : (s.updCore k f).heldWrites = s.heldWrites := rfl
@[simp] theorem State.updCore_sends (k : Nat) (f : Core → Core) : (s.updCore k f).sends = s.sends := rfl
@[simp] theorem State.updCore_taken (k : Nat) (f : Core → Core) : (s.updCore k f).taken = s.taken := rfl
@[simp] theorem State.updCore_polls (k : Nat) (f : Core → Core) : (s.updCore k f).polls = s.polls := rfl
@[simp] theorem State.updCore_spillReads (k : Nat) (f : Core → Core) : (s.updCore k f).spillReads = s.spillReads := rfl
@[simp] theorem State.updCore_watches (k : Nat) (f : Core → Core) : (s.updCore k f).watches = s.watches := rfl
@[simp] theorem State.updCore_cmds (k : Nat) (f : Core → Core) : (s.updCore k f).cmds = s.cmds := rfl
@[simp] theorem State.updCore_faulted (k : Nat) (f : Core → Core) : (s.updCore k f).faulted = s.faulted := rfl
@[simp] theorem State.updCore_xfer (k : Nat) (f : Core → Core) : (s.updCore k f).xfer = s.xfer := rfl
@[simp] theorem State.updCore_jobs (k : Nat) (f : Core → Core) : (s.updCore k f).jobs = s.jobs := rfl
@[simp] theorem State.updCore_mx (k : Nat) (f : Core → Core) : (s.updCore k f).mx = s.mx := rfl
@[simp] theorem State.updCore_flights (k : Nat) (f : Core → Core) : (s.updCore k f).flights = s.flights := rfl
@[simp] theorem State.updCore_gates (k : Nat) (f : Core → Core) : (s.updCore k f).gates = s.gates := rfl
@[simp] theorem State.updCore_tenants (k : Nat) (f : Core → Core) : (s.updCore k f).tenants = s.tenants := rfl
@[simp] theorem State.updCore_nodes (k : Nat) (f : Core → Core) : (s.updCore k f).nodes = s.nodes := rfl
@[simp] theorem State.updCore_slots (k : Nat) (f : Core → Core) : (s.updCore k f).slots = s.slots := rfl
@[simp] theorem State.updCore_weeds (k : Nat) (f : Core → Core) : (s.updCore k f).weeds = s.weeds := rfl
@[simp] theorem State.updCore_sweep (k : Nat) (f : Core → Core) : (s.updCore k f).sweep = s.sweep := rfl
@[simp] theorem State.updCore_sweepFrom (k : Nat) (f : Core → Core) : (s.updCore k f).sweepFrom = s.sweepFrom := rfl
@[simp] theorem State.updCore_late (k : Nat) (f : Core → Core) : (s.updCore k f).late = s.late := rfl
@[simp] theorem State.updCore_old (k : Nat) (f : Core → Core) : (s.updCore k f).old = s.old := rfl
@[simp] theorem State.updCore_fns (k : Nat) (f : Core → Core) : (s.updCore k f).fns = s.fns := rfl
@[simp] theorem State.updCore_ports (k : Nat) (f : Core → Core) : (s.updCore k f).ports = s.ports := rfl
@[simp] theorem State.updCore_heldReqs (k : Nat) (f : Core → Core) : (s.updCore k f).heldReqs = s.heldReqs := rfl
@[simp] theorem State.updCore_answer (k : Nat) (f : Core → Core) : (s.updCore k f).answer = s.answer := rfl
@[simp] theorem State.updCore_pkgLog (k : Nat) (f : Core → Core) : (s.updCore k f).pkgLog = s.pkgLog := rfl
@[simp] theorem State.updCore_service (k : Nat) (f : Core → Core) : (s.updCore k f).service = s.service := rfl
@[simp] theorem State.updCore_power (k : Nat) (f : Core → Core) : (s.updCore k f).power = s.power := rfl
@[simp] theorem State.updCore_cur (k : Nat) (f : Core → Core) : (s.updCore k f).cur = s.cur := rfl
@[simp] theorem State.updCore_agent (k : Nat) (f : Core → Core) : (s.updCore k f).agent = s.agent := rfl
@[simp] theorem State.updCore_schedule (k : Nat) (f : Core → Core) : (s.updCore k f).schedule = s.schedule := rfl
@[simp] theorem State.updCore_raised (k : Nat) (f : Core → Core) : (s.updCore k f).raised = s.raised := rfl
@[simp] theorem State.updCore_tick (k : Nat) (f : Core → Core) : (s.updCore k f).tick = s.tick := rfl
@[simp] theorem State.updCore_fresh (k : Nat) (f : Core → Core) : (s.updCore k f).fresh = s.fresh := rfl
@[simp] theorem State.updCore_nextId (k : Nat) (f : Core → Core) : (s.updCore k f).nextId = s.nextId := rfl
@[simp] theorem State.updCore_nextHandle (k : Nat) (f : Core → Core) : (s.updCore k f).nextHandle = s.nextHandle := rfl

/-! ### setStrand -/

@[simp] theorem State.setStrand_cycle (t : Strand) : (s.setStrand t).cycle = s.cycle := rfl
@[simp] theorem State.setStrand_timeAcc (t : Strand) : (s.setStrand t).timeAcc = s.timeAcc := rfl
@[simp] theorem State.setStrand_mem (t : Strand) : (s.setStrand t).mem = s.mem := rfl
@[simp] theorem State.setStrand_tags (t : Strand) : (s.setStrand t).tags = s.tags := rfl
@[simp] theorem State.setStrand_badUnits (t : Strand) : (s.setStrand t).badUnits = s.badUnits := rfl
@[simp] theorem State.setStrand_l2 (t : Strand) : (s.setStrand t).l2 = s.l2 := rfl
@[simp] theorem State.setStrand_tlb (t : Strand) : (s.setStrand t).tlb = s.tlb := rfl
@[simp] theorem State.setStrand_atc (t : Strand) : (s.setStrand t).atc = s.atc := rfl
@[simp] theorem State.setStrand_hostPerm (t : Strand) : (s.setStrand t).hostPerm = s.hostPerm := rfl
@[simp] theorem State.setStrand_hostFails (t : Strand) : (s.setStrand t).hostFails = s.hostFails := rfl
@[simp] theorem State.setStrand_walks (t : Strand) : (s.setStrand t).walks = s.walks := rfl
@[simp] theorem State.setStrand_walkTurn (t : Strand) : (s.setStrand t).walkTurn = s.walkTurn := rfl
@[simp] theorem State.setStrand_frames (t : Strand) : (s.setStrand t).frames = s.frames := rfl
@[simp] theorem State.setStrand_hostWords (t : Strand) : (s.setStrand t).hostWords = s.hostWords := rfl
@[simp] theorem State.setStrand_pageReqs (t : Strand) : (s.setStrand t).pageReqs = s.pageReqs := rfl
@[simp] theorem State.setStrand_images (t : Strand) : (s.setStrand t).images = s.images := rfl
@[simp] theorem State.setStrand_blocks (t : Strand) : (s.setStrand t).blocks = s.blocks := rfl
@[simp] theorem State.setStrand_bms (t : Strand) : (s.setStrand t).bms = s.bms := rfl
@[simp] theorem State.setStrand_counterOps (t : Strand) : (s.setStrand t).counterOps = s.counterOps := rfl
@[simp] theorem State.setStrand_hostOps (t : Strand) : (s.setStrand t).hostOps = s.hostOps := rfl
@[simp] theorem State.setStrand_slotStamps (t : Strand) : (s.setStrand t).slotStamps = s.slotStamps := rfl
@[simp] theorem State.setStrand_heldWrites (t : Strand) : (s.setStrand t).heldWrites = s.heldWrites := rfl
@[simp] theorem State.setStrand_sends (t : Strand) : (s.setStrand t).sends = s.sends := rfl
@[simp] theorem State.setStrand_taken (t : Strand) : (s.setStrand t).taken = s.taken := rfl
@[simp] theorem State.setStrand_polls (t : Strand) : (s.setStrand t).polls = s.polls := rfl
@[simp] theorem State.setStrand_spillReads (t : Strand) : (s.setStrand t).spillReads = s.spillReads := rfl
@[simp] theorem State.setStrand_watches (t : Strand) : (s.setStrand t).watches = s.watches := rfl
@[simp] theorem State.setStrand_cmds (t : Strand) : (s.setStrand t).cmds = s.cmds := rfl
@[simp] theorem State.setStrand_faulted (t : Strand) : (s.setStrand t).faulted = s.faulted := rfl
@[simp] theorem State.setStrand_xfer (t : Strand) : (s.setStrand t).xfer = s.xfer := rfl
@[simp] theorem State.setStrand_jobs (t : Strand) : (s.setStrand t).jobs = s.jobs := rfl
@[simp] theorem State.setStrand_mx (t : Strand) : (s.setStrand t).mx = s.mx := rfl
@[simp] theorem State.setStrand_flights (t : Strand) : (s.setStrand t).flights = s.flights := rfl
@[simp] theorem State.setStrand_gates (t : Strand) : (s.setStrand t).gates = s.gates := rfl
@[simp] theorem State.setStrand_tenants (t : Strand) : (s.setStrand t).tenants = s.tenants := rfl
@[simp] theorem State.setStrand_nodes (t : Strand) : (s.setStrand t).nodes = s.nodes := rfl
@[simp] theorem State.setStrand_slots (t : Strand) : (s.setStrand t).slots = s.slots := rfl
@[simp] theorem State.setStrand_weeds (t : Strand) : (s.setStrand t).weeds = s.weeds := rfl
@[simp] theorem State.setStrand_sweep (t : Strand) : (s.setStrand t).sweep = s.sweep := rfl
@[simp] theorem State.setStrand_sweepFrom (t : Strand) : (s.setStrand t).sweepFrom = s.sweepFrom := rfl
@[simp] theorem State.setStrand_late (t : Strand) : (s.setStrand t).late = s.late := rfl
@[simp] theorem State.setStrand_old (t : Strand) : (s.setStrand t).old = s.old := rfl
@[simp] theorem State.setStrand_fns (t : Strand) : (s.setStrand t).fns = s.fns := rfl
@[simp] theorem State.setStrand_ports (t : Strand) : (s.setStrand t).ports = s.ports := rfl
@[simp] theorem State.setStrand_heldReqs (t : Strand) : (s.setStrand t).heldReqs = s.heldReqs := rfl
@[simp] theorem State.setStrand_answer (t : Strand) : (s.setStrand t).answer = s.answer := rfl
@[simp] theorem State.setStrand_pkgLog (t : Strand) : (s.setStrand t).pkgLog = s.pkgLog := rfl
@[simp] theorem State.setStrand_service (t : Strand) : (s.setStrand t).service = s.service := rfl
@[simp] theorem State.setStrand_power (t : Strand) : (s.setStrand t).power = s.power := rfl
@[simp] theorem State.setStrand_cur (t : Strand) : (s.setStrand t).cur = s.cur := rfl
@[simp] theorem State.setStrand_agent (t : Strand) : (s.setStrand t).agent = s.agent := rfl
@[simp] theorem State.setStrand_schedule (t : Strand) : (s.setStrand t).schedule = s.schedule := rfl
@[simp] theorem State.setStrand_raised (t : Strand) : (s.setStrand t).raised = s.raised := rfl
@[simp] theorem State.setStrand_tick (t : Strand) : (s.setStrand t).tick = s.tick := rfl
@[simp] theorem State.setStrand_fresh (t : Strand) : (s.setStrand t).fresh = s.fresh := rfl
@[simp] theorem State.setStrand_nextId (t : Strand) : (s.setStrand t).nextId = s.nextId := rfl
@[simp] theorem State.setStrand_nextHandle (t : Strand) : (s.setStrand t).nextHandle = s.nextHandle := rfl

/-! ### updTenant -/

@[simp] theorem State.updTenant_cycle (t : Nat) (f : Tenant → Tenant) : (s.updTenant t f).cycle = s.cycle := rfl
@[simp] theorem State.updTenant_timeAcc (t : Nat) (f : Tenant → Tenant) : (s.updTenant t f).timeAcc = s.timeAcc := rfl
@[simp] theorem State.updTenant_cores (t : Nat) (f : Tenant → Tenant) : (s.updTenant t f).cores = s.cores := rfl
@[simp] theorem State.updTenant_mem (t : Nat) (f : Tenant → Tenant) : (s.updTenant t f).mem = s.mem := rfl
@[simp] theorem State.updTenant_tags (t : Nat) (f : Tenant → Tenant) : (s.updTenant t f).tags = s.tags := rfl
@[simp] theorem State.updTenant_badUnits (t : Nat) (f : Tenant → Tenant) : (s.updTenant t f).badUnits = s.badUnits := rfl
@[simp] theorem State.updTenant_l2 (t : Nat) (f : Tenant → Tenant) : (s.updTenant t f).l2 = s.l2 := rfl
@[simp] theorem State.updTenant_tlb (t : Nat) (f : Tenant → Tenant) : (s.updTenant t f).tlb = s.tlb := rfl
@[simp] theorem State.updTenant_atc (t : Nat) (f : Tenant → Tenant) : (s.updTenant t f).atc = s.atc := rfl
@[simp] theorem State.updTenant_hostPerm (t : Nat) (f : Tenant → Tenant) : (s.updTenant t f).hostPerm = s.hostPerm := rfl
@[simp] theorem State.updTenant_hostFails (t : Nat) (f : Tenant → Tenant) : (s.updTenant t f).hostFails = s.hostFails := rfl
@[simp] theorem State.updTenant_walks (t : Nat) (f : Tenant → Tenant) : (s.updTenant t f).walks = s.walks := rfl
@[simp] theorem State.updTenant_walkTurn (t : Nat) (f : Tenant → Tenant) : (s.updTenant t f).walkTurn = s.walkTurn := rfl
@[simp] theorem State.updTenant_frames (t : Nat) (f : Tenant → Tenant) : (s.updTenant t f).frames = s.frames := rfl
@[simp] theorem State.updTenant_hostWords (t : Nat) (f : Tenant → Tenant) : (s.updTenant t f).hostWords = s.hostWords := rfl
@[simp] theorem State.updTenant_pageReqs (t : Nat) (f : Tenant → Tenant) : (s.updTenant t f).pageReqs = s.pageReqs := rfl
@[simp] theorem State.updTenant_images (t : Nat) (f : Tenant → Tenant) : (s.updTenant t f).images = s.images := rfl
@[simp] theorem State.updTenant_blocks (t : Nat) (f : Tenant → Tenant) : (s.updTenant t f).blocks = s.blocks := rfl
@[simp] theorem State.updTenant_bms (t : Nat) (f : Tenant → Tenant) : (s.updTenant t f).bms = s.bms := rfl
@[simp] theorem State.updTenant_counterOps (t : Nat) (f : Tenant → Tenant) : (s.updTenant t f).counterOps = s.counterOps := rfl
@[simp] theorem State.updTenant_hostOps (t : Nat) (f : Tenant → Tenant) : (s.updTenant t f).hostOps = s.hostOps := rfl
@[simp] theorem State.updTenant_slotStamps (t : Nat) (f : Tenant → Tenant) : (s.updTenant t f).slotStamps = s.slotStamps := rfl
@[simp] theorem State.updTenant_heldWrites (t : Nat) (f : Tenant → Tenant) : (s.updTenant t f).heldWrites = s.heldWrites := rfl
@[simp] theorem State.updTenant_sends (t : Nat) (f : Tenant → Tenant) : (s.updTenant t f).sends = s.sends := rfl
@[simp] theorem State.updTenant_taken (t : Nat) (f : Tenant → Tenant) : (s.updTenant t f).taken = s.taken := rfl
@[simp] theorem State.updTenant_polls (t : Nat) (f : Tenant → Tenant) : (s.updTenant t f).polls = s.polls := rfl
@[simp] theorem State.updTenant_spillReads (t : Nat) (f : Tenant → Tenant) : (s.updTenant t f).spillReads = s.spillReads := rfl
@[simp] theorem State.updTenant_watches (t : Nat) (f : Tenant → Tenant) : (s.updTenant t f).watches = s.watches := rfl
@[simp] theorem State.updTenant_cmds (t : Nat) (f : Tenant → Tenant) : (s.updTenant t f).cmds = s.cmds := rfl
@[simp] theorem State.updTenant_faulted (t : Nat) (f : Tenant → Tenant) : (s.updTenant t f).faulted = s.faulted := rfl
@[simp] theorem State.updTenant_xfer (t : Nat) (f : Tenant → Tenant) : (s.updTenant t f).xfer = s.xfer := rfl
@[simp] theorem State.updTenant_jobs (t : Nat) (f : Tenant → Tenant) : (s.updTenant t f).jobs = s.jobs := rfl
@[simp] theorem State.updTenant_mx (t : Nat) (f : Tenant → Tenant) : (s.updTenant t f).mx = s.mx := rfl
@[simp] theorem State.updTenant_flights (t : Nat) (f : Tenant → Tenant) : (s.updTenant t f).flights = s.flights := rfl
@[simp] theorem State.updTenant_gates (t : Nat) (f : Tenant → Tenant) : (s.updTenant t f).gates = s.gates := rfl
@[simp] theorem State.updTenant_nodes (t : Nat) (f : Tenant → Tenant) : (s.updTenant t f).nodes = s.nodes := rfl
@[simp] theorem State.updTenant_slots (t : Nat) (f : Tenant → Tenant) : (s.updTenant t f).slots = s.slots := rfl
@[simp] theorem State.updTenant_weeds (t : Nat) (f : Tenant → Tenant) : (s.updTenant t f).weeds = s.weeds := rfl
@[simp] theorem State.updTenant_sweep (t : Nat) (f : Tenant → Tenant) : (s.updTenant t f).sweep = s.sweep := rfl
@[simp] theorem State.updTenant_sweepFrom (t : Nat) (f : Tenant → Tenant) : (s.updTenant t f).sweepFrom = s.sweepFrom := rfl
@[simp] theorem State.updTenant_late (t : Nat) (f : Tenant → Tenant) : (s.updTenant t f).late = s.late := rfl
@[simp] theorem State.updTenant_old (t : Nat) (f : Tenant → Tenant) : (s.updTenant t f).old = s.old := rfl
@[simp] theorem State.updTenant_fns (t : Nat) (f : Tenant → Tenant) : (s.updTenant t f).fns = s.fns := rfl
@[simp] theorem State.updTenant_ports (t : Nat) (f : Tenant → Tenant) : (s.updTenant t f).ports = s.ports := rfl
@[simp] theorem State.updTenant_heldReqs (t : Nat) (f : Tenant → Tenant) : (s.updTenant t f).heldReqs = s.heldReqs := rfl
@[simp] theorem State.updTenant_answer (t : Nat) (f : Tenant → Tenant) : (s.updTenant t f).answer = s.answer := rfl
@[simp] theorem State.updTenant_pkgLog (t : Nat) (f : Tenant → Tenant) : (s.updTenant t f).pkgLog = s.pkgLog := rfl
@[simp] theorem State.updTenant_service (t : Nat) (f : Tenant → Tenant) : (s.updTenant t f).service = s.service := rfl
@[simp] theorem State.updTenant_power (t : Nat) (f : Tenant → Tenant) : (s.updTenant t f).power = s.power := rfl
@[simp] theorem State.updTenant_cur (t : Nat) (f : Tenant → Tenant) : (s.updTenant t f).cur = s.cur := rfl
@[simp] theorem State.updTenant_agent (t : Nat) (f : Tenant → Tenant) : (s.updTenant t f).agent = s.agent := rfl
@[simp] theorem State.updTenant_schedule (t : Nat) (f : Tenant → Tenant) : (s.updTenant t f).schedule = s.schedule := rfl
@[simp] theorem State.updTenant_raised (t : Nat) (f : Tenant → Tenant) : (s.updTenant t f).raised = s.raised := rfl
@[simp] theorem State.updTenant_tick (t : Nat) (f : Tenant → Tenant) : (s.updTenant t f).tick = s.tick := rfl
@[simp] theorem State.updTenant_fresh (t : Nat) (f : Tenant → Tenant) : (s.updTenant t f).fresh = s.fresh := rfl
@[simp] theorem State.updTenant_nextId (t : Nat) (f : Tenant → Tenant) : (s.updTenant t f).nextId = s.nextId := rfl
@[simp] theorem State.updTenant_nextHandle (t : Nat) (f : Tenant → Tenant) : (s.updTenant t f).nextHandle = s.nextHandle := rfl

/-! ### updFn -/

@[simp] theorem State.updFn_cycle (n : Nat) (f : Fn → Fn) : (s.updFn n f).cycle = s.cycle := rfl
@[simp] theorem State.updFn_timeAcc (n : Nat) (f : Fn → Fn) : (s.updFn n f).timeAcc = s.timeAcc := rfl
@[simp] theorem State.updFn_cores (n : Nat) (f : Fn → Fn) : (s.updFn n f).cores = s.cores := rfl
@[simp] theorem State.updFn_mem (n : Nat) (f : Fn → Fn) : (s.updFn n f).mem = s.mem := rfl
@[simp] theorem State.updFn_tags (n : Nat) (f : Fn → Fn) : (s.updFn n f).tags = s.tags := rfl
@[simp] theorem State.updFn_badUnits (n : Nat) (f : Fn → Fn) : (s.updFn n f).badUnits = s.badUnits := rfl
@[simp] theorem State.updFn_l2 (n : Nat) (f : Fn → Fn) : (s.updFn n f).l2 = s.l2 := rfl
@[simp] theorem State.updFn_tlb (n : Nat) (f : Fn → Fn) : (s.updFn n f).tlb = s.tlb := rfl
@[simp] theorem State.updFn_atc (n : Nat) (f : Fn → Fn) : (s.updFn n f).atc = s.atc := rfl
@[simp] theorem State.updFn_hostPerm (n : Nat) (f : Fn → Fn) : (s.updFn n f).hostPerm = s.hostPerm := rfl
@[simp] theorem State.updFn_hostFails (n : Nat) (f : Fn → Fn) : (s.updFn n f).hostFails = s.hostFails := rfl
@[simp] theorem State.updFn_walks (n : Nat) (f : Fn → Fn) : (s.updFn n f).walks = s.walks := rfl
@[simp] theorem State.updFn_walkTurn (n : Nat) (f : Fn → Fn) : (s.updFn n f).walkTurn = s.walkTurn := rfl
@[simp] theorem State.updFn_frames (n : Nat) (f : Fn → Fn) : (s.updFn n f).frames = s.frames := rfl
@[simp] theorem State.updFn_hostWords (n : Nat) (f : Fn → Fn) : (s.updFn n f).hostWords = s.hostWords := rfl
@[simp] theorem State.updFn_pageReqs (n : Nat) (f : Fn → Fn) : (s.updFn n f).pageReqs = s.pageReqs := rfl
@[simp] theorem State.updFn_images (n : Nat) (f : Fn → Fn) : (s.updFn n f).images = s.images := rfl
@[simp] theorem State.updFn_blocks (n : Nat) (f : Fn → Fn) : (s.updFn n f).blocks = s.blocks := rfl
@[simp] theorem State.updFn_bms (n : Nat) (f : Fn → Fn) : (s.updFn n f).bms = s.bms := rfl
@[simp] theorem State.updFn_counterOps (n : Nat) (f : Fn → Fn) : (s.updFn n f).counterOps = s.counterOps := rfl
@[simp] theorem State.updFn_hostOps (n : Nat) (f : Fn → Fn) : (s.updFn n f).hostOps = s.hostOps := rfl
@[simp] theorem State.updFn_slotStamps (n : Nat) (f : Fn → Fn) : (s.updFn n f).slotStamps = s.slotStamps := rfl
@[simp] theorem State.updFn_heldWrites (n : Nat) (f : Fn → Fn) : (s.updFn n f).heldWrites = s.heldWrites := rfl
@[simp] theorem State.updFn_sends (n : Nat) (f : Fn → Fn) : (s.updFn n f).sends = s.sends := rfl
@[simp] theorem State.updFn_taken (n : Nat) (f : Fn → Fn) : (s.updFn n f).taken = s.taken := rfl
@[simp] theorem State.updFn_polls (n : Nat) (f : Fn → Fn) : (s.updFn n f).polls = s.polls := rfl
@[simp] theorem State.updFn_spillReads (n : Nat) (f : Fn → Fn) : (s.updFn n f).spillReads = s.spillReads := rfl
@[simp] theorem State.updFn_watches (n : Nat) (f : Fn → Fn) : (s.updFn n f).watches = s.watches := rfl
@[simp] theorem State.updFn_cmds (n : Nat) (f : Fn → Fn) : (s.updFn n f).cmds = s.cmds := rfl
@[simp] theorem State.updFn_faulted (n : Nat) (f : Fn → Fn) : (s.updFn n f).faulted = s.faulted := rfl
@[simp] theorem State.updFn_xfer (n : Nat) (f : Fn → Fn) : (s.updFn n f).xfer = s.xfer := rfl
@[simp] theorem State.updFn_jobs (n : Nat) (f : Fn → Fn) : (s.updFn n f).jobs = s.jobs := rfl
@[simp] theorem State.updFn_mx (n : Nat) (f : Fn → Fn) : (s.updFn n f).mx = s.mx := rfl
@[simp] theorem State.updFn_flights (n : Nat) (f : Fn → Fn) : (s.updFn n f).flights = s.flights := rfl
@[simp] theorem State.updFn_gates (n : Nat) (f : Fn → Fn) : (s.updFn n f).gates = s.gates := rfl
@[simp] theorem State.updFn_tenants (n : Nat) (f : Fn → Fn) : (s.updFn n f).tenants = s.tenants := rfl
@[simp] theorem State.updFn_nodes (n : Nat) (f : Fn → Fn) : (s.updFn n f).nodes = s.nodes := rfl
@[simp] theorem State.updFn_slots (n : Nat) (f : Fn → Fn) : (s.updFn n f).slots = s.slots := rfl
@[simp] theorem State.updFn_weeds (n : Nat) (f : Fn → Fn) : (s.updFn n f).weeds = s.weeds := rfl
@[simp] theorem State.updFn_sweep (n : Nat) (f : Fn → Fn) : (s.updFn n f).sweep = s.sweep := rfl
@[simp] theorem State.updFn_sweepFrom (n : Nat) (f : Fn → Fn) : (s.updFn n f).sweepFrom = s.sweepFrom := rfl
@[simp] theorem State.updFn_late (n : Nat) (f : Fn → Fn) : (s.updFn n f).late = s.late := rfl
@[simp] theorem State.updFn_old (n : Nat) (f : Fn → Fn) : (s.updFn n f).old = s.old := rfl
@[simp] theorem State.updFn_ports (n : Nat) (f : Fn → Fn) : (s.updFn n f).ports = s.ports := rfl
@[simp] theorem State.updFn_heldReqs (n : Nat) (f : Fn → Fn) : (s.updFn n f).heldReqs = s.heldReqs := rfl
@[simp] theorem State.updFn_answer (n : Nat) (f : Fn → Fn) : (s.updFn n f).answer = s.answer := rfl
@[simp] theorem State.updFn_pkgLog (n : Nat) (f : Fn → Fn) : (s.updFn n f).pkgLog = s.pkgLog := rfl
@[simp] theorem State.updFn_service (n : Nat) (f : Fn → Fn) : (s.updFn n f).service = s.service := rfl
@[simp] theorem State.updFn_power (n : Nat) (f : Fn → Fn) : (s.updFn n f).power = s.power := rfl
@[simp] theorem State.updFn_cur (n : Nat) (f : Fn → Fn) : (s.updFn n f).cur = s.cur := rfl
@[simp] theorem State.updFn_agent (n : Nat) (f : Fn → Fn) : (s.updFn n f).agent = s.agent := rfl
@[simp] theorem State.updFn_schedule (n : Nat) (f : Fn → Fn) : (s.updFn n f).schedule = s.schedule := rfl
@[simp] theorem State.updFn_raised (n : Nat) (f : Fn → Fn) : (s.updFn n f).raised = s.raised := rfl
@[simp] theorem State.updFn_tick (n : Nat) (f : Fn → Fn) : (s.updFn n f).tick = s.tick := rfl
@[simp] theorem State.updFn_fresh (n : Nat) (f : Fn → Fn) : (s.updFn n f).fresh = s.fresh := rfl
@[simp] theorem State.updFn_nextId (n : Nat) (f : Fn → Fn) : (s.updFn n f).nextId = s.nextId := rfl
@[simp] theorem State.updFn_nextHandle (n : Nat) (f : Fn → Fn) : (s.updFn n f).nextHandle = s.nextHandle := rfl

/-! ### updPort -/

@[simp] theorem State.updPort_cycle (p : Nat) (f : Port → Port) : (s.updPort p f).cycle = s.cycle := rfl
@[simp] theorem State.updPort_timeAcc (p : Nat) (f : Port → Port) : (s.updPort p f).timeAcc = s.timeAcc := rfl
@[simp] theorem State.updPort_cores (p : Nat) (f : Port → Port) : (s.updPort p f).cores = s.cores := rfl
@[simp] theorem State.updPort_mem (p : Nat) (f : Port → Port) : (s.updPort p f).mem = s.mem := rfl
@[simp] theorem State.updPort_tags (p : Nat) (f : Port → Port) : (s.updPort p f).tags = s.tags := rfl
@[simp] theorem State.updPort_badUnits (p : Nat) (f : Port → Port) : (s.updPort p f).badUnits = s.badUnits := rfl
@[simp] theorem State.updPort_l2 (p : Nat) (f : Port → Port) : (s.updPort p f).l2 = s.l2 := rfl
@[simp] theorem State.updPort_tlb (p : Nat) (f : Port → Port) : (s.updPort p f).tlb = s.tlb := rfl
@[simp] theorem State.updPort_atc (p : Nat) (f : Port → Port) : (s.updPort p f).atc = s.atc := rfl
@[simp] theorem State.updPort_hostPerm (p : Nat) (f : Port → Port) : (s.updPort p f).hostPerm = s.hostPerm := rfl
@[simp] theorem State.updPort_hostFails (p : Nat) (f : Port → Port) : (s.updPort p f).hostFails = s.hostFails := rfl
@[simp] theorem State.updPort_walks (p : Nat) (f : Port → Port) : (s.updPort p f).walks = s.walks := rfl
@[simp] theorem State.updPort_walkTurn (p : Nat) (f : Port → Port) : (s.updPort p f).walkTurn = s.walkTurn := rfl
@[simp] theorem State.updPort_frames (p : Nat) (f : Port → Port) : (s.updPort p f).frames = s.frames := rfl
@[simp] theorem State.updPort_hostWords (p : Nat) (f : Port → Port) : (s.updPort p f).hostWords = s.hostWords := rfl
@[simp] theorem State.updPort_pageReqs (p : Nat) (f : Port → Port) : (s.updPort p f).pageReqs = s.pageReqs := rfl
@[simp] theorem State.updPort_images (p : Nat) (f : Port → Port) : (s.updPort p f).images = s.images := rfl
@[simp] theorem State.updPort_blocks (p : Nat) (f : Port → Port) : (s.updPort p f).blocks = s.blocks := rfl
@[simp] theorem State.updPort_bms (p : Nat) (f : Port → Port) : (s.updPort p f).bms = s.bms := rfl
@[simp] theorem State.updPort_counterOps (p : Nat) (f : Port → Port) : (s.updPort p f).counterOps = s.counterOps := rfl
@[simp] theorem State.updPort_hostOps (p : Nat) (f : Port → Port) : (s.updPort p f).hostOps = s.hostOps := rfl
@[simp] theorem State.updPort_slotStamps (p : Nat) (f : Port → Port) : (s.updPort p f).slotStamps = s.slotStamps := rfl
@[simp] theorem State.updPort_heldWrites (p : Nat) (f : Port → Port) : (s.updPort p f).heldWrites = s.heldWrites := rfl
@[simp] theorem State.updPort_sends (p : Nat) (f : Port → Port) : (s.updPort p f).sends = s.sends := rfl
@[simp] theorem State.updPort_taken (p : Nat) (f : Port → Port) : (s.updPort p f).taken = s.taken := rfl
@[simp] theorem State.updPort_polls (p : Nat) (f : Port → Port) : (s.updPort p f).polls = s.polls := rfl
@[simp] theorem State.updPort_spillReads (p : Nat) (f : Port → Port) : (s.updPort p f).spillReads = s.spillReads := rfl
@[simp] theorem State.updPort_watches (p : Nat) (f : Port → Port) : (s.updPort p f).watches = s.watches := rfl
@[simp] theorem State.updPort_cmds (p : Nat) (f : Port → Port) : (s.updPort p f).cmds = s.cmds := rfl
@[simp] theorem State.updPort_faulted (p : Nat) (f : Port → Port) : (s.updPort p f).faulted = s.faulted := rfl
@[simp] theorem State.updPort_xfer (p : Nat) (f : Port → Port) : (s.updPort p f).xfer = s.xfer := rfl
@[simp] theorem State.updPort_jobs (p : Nat) (f : Port → Port) : (s.updPort p f).jobs = s.jobs := rfl
@[simp] theorem State.updPort_mx (p : Nat) (f : Port → Port) : (s.updPort p f).mx = s.mx := rfl
@[simp] theorem State.updPort_flights (p : Nat) (f : Port → Port) : (s.updPort p f).flights = s.flights := rfl
@[simp] theorem State.updPort_gates (p : Nat) (f : Port → Port) : (s.updPort p f).gates = s.gates := rfl
@[simp] theorem State.updPort_tenants (p : Nat) (f : Port → Port) : (s.updPort p f).tenants = s.tenants := rfl
@[simp] theorem State.updPort_nodes (p : Nat) (f : Port → Port) : (s.updPort p f).nodes = s.nodes := rfl
@[simp] theorem State.updPort_slots (p : Nat) (f : Port → Port) : (s.updPort p f).slots = s.slots := rfl
@[simp] theorem State.updPort_weeds (p : Nat) (f : Port → Port) : (s.updPort p f).weeds = s.weeds := rfl
@[simp] theorem State.updPort_sweep (p : Nat) (f : Port → Port) : (s.updPort p f).sweep = s.sweep := rfl
@[simp] theorem State.updPort_sweepFrom (p : Nat) (f : Port → Port) : (s.updPort p f).sweepFrom = s.sweepFrom := rfl
@[simp] theorem State.updPort_late (p : Nat) (f : Port → Port) : (s.updPort p f).late = s.late := rfl
@[simp] theorem State.updPort_old (p : Nat) (f : Port → Port) : (s.updPort p f).old = s.old := rfl
@[simp] theorem State.updPort_fns (p : Nat) (f : Port → Port) : (s.updPort p f).fns = s.fns := rfl
@[simp] theorem State.updPort_heldReqs (p : Nat) (f : Port → Port) : (s.updPort p f).heldReqs = s.heldReqs := rfl
@[simp] theorem State.updPort_answer (p : Nat) (f : Port → Port) : (s.updPort p f).answer = s.answer := rfl
@[simp] theorem State.updPort_pkgLog (p : Nat) (f : Port → Port) : (s.updPort p f).pkgLog = s.pkgLog := rfl
@[simp] theorem State.updPort_service (p : Nat) (f : Port → Port) : (s.updPort p f).service = s.service := rfl
@[simp] theorem State.updPort_power (p : Nat) (f : Port → Port) : (s.updPort p f).power = s.power := rfl
@[simp] theorem State.updPort_cur (p : Nat) (f : Port → Port) : (s.updPort p f).cur = s.cur := rfl
@[simp] theorem State.updPort_agent (p : Nat) (f : Port → Port) : (s.updPort p f).agent = s.agent := rfl
@[simp] theorem State.updPort_schedule (p : Nat) (f : Port → Port) : (s.updPort p f).schedule = s.schedule := rfl
@[simp] theorem State.updPort_raised (p : Nat) (f : Port → Port) : (s.updPort p f).raised = s.raised := rfl
@[simp] theorem State.updPort_tick (p : Nat) (f : Port → Port) : (s.updPort p f).tick = s.tick := rfl
@[simp] theorem State.updPort_fresh (p : Nat) (f : Port → Port) : (s.updPort p f).fresh = s.fresh := rfl
@[simp] theorem State.updPort_nextId (p : Nat) (f : Port → Port) : (s.updPort p f).nextId = s.nextId := rfl
@[simp] theorem State.updPort_nextHandle (p : Nat) (f : Port → Port) : (s.updPort p f).nextHandle = s.nextHandle := rfl

/-! ### updNode -/

@[simp] theorem State.updNode_cycle (n : Nat) (f : Node → Node) : (s.updNode n f).cycle = s.cycle := rfl
@[simp] theorem State.updNode_timeAcc (n : Nat) (f : Node → Node) : (s.updNode n f).timeAcc = s.timeAcc := rfl
@[simp] theorem State.updNode_cores (n : Nat) (f : Node → Node) : (s.updNode n f).cores = s.cores := rfl
@[simp] theorem State.updNode_mem (n : Nat) (f : Node → Node) : (s.updNode n f).mem = s.mem := rfl
@[simp] theorem State.updNode_tags (n : Nat) (f : Node → Node) : (s.updNode n f).tags = s.tags := rfl
@[simp] theorem State.updNode_badUnits (n : Nat) (f : Node → Node) : (s.updNode n f).badUnits = s.badUnits := rfl
@[simp] theorem State.updNode_l2 (n : Nat) (f : Node → Node) : (s.updNode n f).l2 = s.l2 := rfl
@[simp] theorem State.updNode_tlb (n : Nat) (f : Node → Node) : (s.updNode n f).tlb = s.tlb := rfl
@[simp] theorem State.updNode_atc (n : Nat) (f : Node → Node) : (s.updNode n f).atc = s.atc := rfl
@[simp] theorem State.updNode_hostPerm (n : Nat) (f : Node → Node) : (s.updNode n f).hostPerm = s.hostPerm := rfl
@[simp] theorem State.updNode_hostFails (n : Nat) (f : Node → Node) : (s.updNode n f).hostFails = s.hostFails := rfl
@[simp] theorem State.updNode_walks (n : Nat) (f : Node → Node) : (s.updNode n f).walks = s.walks := rfl
@[simp] theorem State.updNode_walkTurn (n : Nat) (f : Node → Node) : (s.updNode n f).walkTurn = s.walkTurn := rfl
@[simp] theorem State.updNode_frames (n : Nat) (f : Node → Node) : (s.updNode n f).frames = s.frames := rfl
@[simp] theorem State.updNode_hostWords (n : Nat) (f : Node → Node) : (s.updNode n f).hostWords = s.hostWords := rfl
@[simp] theorem State.updNode_pageReqs (n : Nat) (f : Node → Node) : (s.updNode n f).pageReqs = s.pageReqs := rfl
@[simp] theorem State.updNode_images (n : Nat) (f : Node → Node) : (s.updNode n f).images = s.images := rfl
@[simp] theorem State.updNode_blocks (n : Nat) (f : Node → Node) : (s.updNode n f).blocks = s.blocks := rfl
@[simp] theorem State.updNode_bms (n : Nat) (f : Node → Node) : (s.updNode n f).bms = s.bms := rfl
@[simp] theorem State.updNode_counterOps (n : Nat) (f : Node → Node) : (s.updNode n f).counterOps = s.counterOps := rfl
@[simp] theorem State.updNode_hostOps (n : Nat) (f : Node → Node) : (s.updNode n f).hostOps = s.hostOps := rfl
@[simp] theorem State.updNode_slotStamps (n : Nat) (f : Node → Node) : (s.updNode n f).slotStamps = s.slotStamps := rfl
@[simp] theorem State.updNode_heldWrites (n : Nat) (f : Node → Node) : (s.updNode n f).heldWrites = s.heldWrites := rfl
@[simp] theorem State.updNode_sends (n : Nat) (f : Node → Node) : (s.updNode n f).sends = s.sends := rfl
@[simp] theorem State.updNode_taken (n : Nat) (f : Node → Node) : (s.updNode n f).taken = s.taken := rfl
@[simp] theorem State.updNode_polls (n : Nat) (f : Node → Node) : (s.updNode n f).polls = s.polls := rfl
@[simp] theorem State.updNode_spillReads (n : Nat) (f : Node → Node) : (s.updNode n f).spillReads = s.spillReads := rfl
@[simp] theorem State.updNode_watches (n : Nat) (f : Node → Node) : (s.updNode n f).watches = s.watches := rfl
@[simp] theorem State.updNode_cmds (n : Nat) (f : Node → Node) : (s.updNode n f).cmds = s.cmds := rfl
@[simp] theorem State.updNode_faulted (n : Nat) (f : Node → Node) : (s.updNode n f).faulted = s.faulted := rfl
@[simp] theorem State.updNode_xfer (n : Nat) (f : Node → Node) : (s.updNode n f).xfer = s.xfer := rfl
@[simp] theorem State.updNode_jobs (n : Nat) (f : Node → Node) : (s.updNode n f).jobs = s.jobs := rfl
@[simp] theorem State.updNode_mx (n : Nat) (f : Node → Node) : (s.updNode n f).mx = s.mx := rfl
@[simp] theorem State.updNode_flights (n : Nat) (f : Node → Node) : (s.updNode n f).flights = s.flights := rfl
@[simp] theorem State.updNode_gates (n : Nat) (f : Node → Node) : (s.updNode n f).gates = s.gates := rfl
@[simp] theorem State.updNode_tenants (n : Nat) (f : Node → Node) : (s.updNode n f).tenants = s.tenants := rfl
@[simp] theorem State.updNode_slots (n : Nat) (f : Node → Node) : (s.updNode n f).slots = s.slots := rfl
@[simp] theorem State.updNode_weeds (n : Nat) (f : Node → Node) : (s.updNode n f).weeds = s.weeds := rfl
@[simp] theorem State.updNode_sweep (n : Nat) (f : Node → Node) : (s.updNode n f).sweep = s.sweep := rfl
@[simp] theorem State.updNode_sweepFrom (n : Nat) (f : Node → Node) : (s.updNode n f).sweepFrom = s.sweepFrom := rfl
@[simp] theorem State.updNode_late (n : Nat) (f : Node → Node) : (s.updNode n f).late = s.late := rfl
@[simp] theorem State.updNode_old (n : Nat) (f : Node → Node) : (s.updNode n f).old = s.old := rfl
@[simp] theorem State.updNode_fns (n : Nat) (f : Node → Node) : (s.updNode n f).fns = s.fns := rfl
@[simp] theorem State.updNode_ports (n : Nat) (f : Node → Node) : (s.updNode n f).ports = s.ports := rfl
@[simp] theorem State.updNode_heldReqs (n : Nat) (f : Node → Node) : (s.updNode n f).heldReqs = s.heldReqs := rfl
@[simp] theorem State.updNode_answer (n : Nat) (f : Node → Node) : (s.updNode n f).answer = s.answer := rfl
@[simp] theorem State.updNode_pkgLog (n : Nat) (f : Node → Node) : (s.updNode n f).pkgLog = s.pkgLog := rfl
@[simp] theorem State.updNode_service (n : Nat) (f : Node → Node) : (s.updNode n f).service = s.service := rfl
@[simp] theorem State.updNode_power (n : Nat) (f : Node → Node) : (s.updNode n f).power = s.power := rfl
@[simp] theorem State.updNode_cur (n : Nat) (f : Node → Node) : (s.updNode n f).cur = s.cur := rfl
@[simp] theorem State.updNode_agent (n : Nat) (f : Node → Node) : (s.updNode n f).agent = s.agent := rfl
@[simp] theorem State.updNode_schedule (n : Nat) (f : Node → Node) : (s.updNode n f).schedule = s.schedule := rfl
@[simp] theorem State.updNode_raised (n : Nat) (f : Node → Node) : (s.updNode n f).raised = s.raised := rfl
@[simp] theorem State.updNode_tick (n : Nat) (f : Node → Node) : (s.updNode n f).tick = s.tick := rfl
@[simp] theorem State.updNode_fresh (n : Nat) (f : Node → Node) : (s.updNode n f).fresh = s.fresh := rfl
@[simp] theorem State.updNode_nextId (n : Nat) (f : Node → Node) : (s.updNode n f).nextId = s.nextId := rfl
@[simp] theorem State.updNode_nextHandle (n : Nat) (f : Node → Node) : (s.updNode n f).nextHandle = s.nextHandle := rfl

/-! ### updSlot -/

@[simp] theorem State.updSlot_cycle (n : Nat) (f : Slot → Slot) : (s.updSlot n f).cycle = s.cycle := rfl
@[simp] theorem State.updSlot_timeAcc (n : Nat) (f : Slot → Slot) : (s.updSlot n f).timeAcc = s.timeAcc := rfl
@[simp] theorem State.updSlot_cores (n : Nat) (f : Slot → Slot) : (s.updSlot n f).cores = s.cores := rfl
@[simp] theorem State.updSlot_mem (n : Nat) (f : Slot → Slot) : (s.updSlot n f).mem = s.mem := rfl
@[simp] theorem State.updSlot_tags (n : Nat) (f : Slot → Slot) : (s.updSlot n f).tags = s.tags := rfl
@[simp] theorem State.updSlot_badUnits (n : Nat) (f : Slot → Slot) : (s.updSlot n f).badUnits = s.badUnits := rfl
@[simp] theorem State.updSlot_l2 (n : Nat) (f : Slot → Slot) : (s.updSlot n f).l2 = s.l2 := rfl
@[simp] theorem State.updSlot_tlb (n : Nat) (f : Slot → Slot) : (s.updSlot n f).tlb = s.tlb := rfl
@[simp] theorem State.updSlot_atc (n : Nat) (f : Slot → Slot) : (s.updSlot n f).atc = s.atc := rfl
@[simp] theorem State.updSlot_hostPerm (n : Nat) (f : Slot → Slot) : (s.updSlot n f).hostPerm = s.hostPerm := rfl
@[simp] theorem State.updSlot_hostFails (n : Nat) (f : Slot → Slot) : (s.updSlot n f).hostFails = s.hostFails := rfl
@[simp] theorem State.updSlot_walks (n : Nat) (f : Slot → Slot) : (s.updSlot n f).walks = s.walks := rfl
@[simp] theorem State.updSlot_walkTurn (n : Nat) (f : Slot → Slot) : (s.updSlot n f).walkTurn = s.walkTurn := rfl
@[simp] theorem State.updSlot_frames (n : Nat) (f : Slot → Slot) : (s.updSlot n f).frames = s.frames := rfl
@[simp] theorem State.updSlot_hostWords (n : Nat) (f : Slot → Slot) : (s.updSlot n f).hostWords = s.hostWords := rfl
@[simp] theorem State.updSlot_pageReqs (n : Nat) (f : Slot → Slot) : (s.updSlot n f).pageReqs = s.pageReqs := rfl
@[simp] theorem State.updSlot_images (n : Nat) (f : Slot → Slot) : (s.updSlot n f).images = s.images := rfl
@[simp] theorem State.updSlot_blocks (n : Nat) (f : Slot → Slot) : (s.updSlot n f).blocks = s.blocks := rfl
@[simp] theorem State.updSlot_bms (n : Nat) (f : Slot → Slot) : (s.updSlot n f).bms = s.bms := rfl
@[simp] theorem State.updSlot_counterOps (n : Nat) (f : Slot → Slot) : (s.updSlot n f).counterOps = s.counterOps := rfl
@[simp] theorem State.updSlot_hostOps (n : Nat) (f : Slot → Slot) : (s.updSlot n f).hostOps = s.hostOps := rfl
@[simp] theorem State.updSlot_slotStamps (n : Nat) (f : Slot → Slot) : (s.updSlot n f).slotStamps = s.slotStamps := rfl
@[simp] theorem State.updSlot_heldWrites (n : Nat) (f : Slot → Slot) : (s.updSlot n f).heldWrites = s.heldWrites := rfl
@[simp] theorem State.updSlot_sends (n : Nat) (f : Slot → Slot) : (s.updSlot n f).sends = s.sends := rfl
@[simp] theorem State.updSlot_taken (n : Nat) (f : Slot → Slot) : (s.updSlot n f).taken = s.taken := rfl
@[simp] theorem State.updSlot_polls (n : Nat) (f : Slot → Slot) : (s.updSlot n f).polls = s.polls := rfl
@[simp] theorem State.updSlot_spillReads (n : Nat) (f : Slot → Slot) : (s.updSlot n f).spillReads = s.spillReads := rfl
@[simp] theorem State.updSlot_watches (n : Nat) (f : Slot → Slot) : (s.updSlot n f).watches = s.watches := rfl
@[simp] theorem State.updSlot_cmds (n : Nat) (f : Slot → Slot) : (s.updSlot n f).cmds = s.cmds := rfl
@[simp] theorem State.updSlot_faulted (n : Nat) (f : Slot → Slot) : (s.updSlot n f).faulted = s.faulted := rfl
@[simp] theorem State.updSlot_xfer (n : Nat) (f : Slot → Slot) : (s.updSlot n f).xfer = s.xfer := rfl
@[simp] theorem State.updSlot_jobs (n : Nat) (f : Slot → Slot) : (s.updSlot n f).jobs = s.jobs := rfl
@[simp] theorem State.updSlot_mx (n : Nat) (f : Slot → Slot) : (s.updSlot n f).mx = s.mx := rfl
@[simp] theorem State.updSlot_flights (n : Nat) (f : Slot → Slot) : (s.updSlot n f).flights = s.flights := rfl
@[simp] theorem State.updSlot_gates (n : Nat) (f : Slot → Slot) : (s.updSlot n f).gates = s.gates := rfl
@[simp] theorem State.updSlot_tenants (n : Nat) (f : Slot → Slot) : (s.updSlot n f).tenants = s.tenants := rfl
@[simp] theorem State.updSlot_nodes (n : Nat) (f : Slot → Slot) : (s.updSlot n f).nodes = s.nodes := rfl
@[simp] theorem State.updSlot_weeds (n : Nat) (f : Slot → Slot) : (s.updSlot n f).weeds = s.weeds := rfl
@[simp] theorem State.updSlot_sweep (n : Nat) (f : Slot → Slot) : (s.updSlot n f).sweep = s.sweep := rfl
@[simp] theorem State.updSlot_sweepFrom (n : Nat) (f : Slot → Slot) : (s.updSlot n f).sweepFrom = s.sweepFrom := rfl
@[simp] theorem State.updSlot_late (n : Nat) (f : Slot → Slot) : (s.updSlot n f).late = s.late := rfl
@[simp] theorem State.updSlot_old (n : Nat) (f : Slot → Slot) : (s.updSlot n f).old = s.old := rfl
@[simp] theorem State.updSlot_fns (n : Nat) (f : Slot → Slot) : (s.updSlot n f).fns = s.fns := rfl
@[simp] theorem State.updSlot_ports (n : Nat) (f : Slot → Slot) : (s.updSlot n f).ports = s.ports := rfl
@[simp] theorem State.updSlot_heldReqs (n : Nat) (f : Slot → Slot) : (s.updSlot n f).heldReqs = s.heldReqs := rfl
@[simp] theorem State.updSlot_answer (n : Nat) (f : Slot → Slot) : (s.updSlot n f).answer = s.answer := rfl
@[simp] theorem State.updSlot_pkgLog (n : Nat) (f : Slot → Slot) : (s.updSlot n f).pkgLog = s.pkgLog := rfl
@[simp] theorem State.updSlot_service (n : Nat) (f : Slot → Slot) : (s.updSlot n f).service = s.service := rfl
@[simp] theorem State.updSlot_power (n : Nat) (f : Slot → Slot) : (s.updSlot n f).power = s.power := rfl
@[simp] theorem State.updSlot_cur (n : Nat) (f : Slot → Slot) : (s.updSlot n f).cur = s.cur := rfl
@[simp] theorem State.updSlot_agent (n : Nat) (f : Slot → Slot) : (s.updSlot n f).agent = s.agent := rfl
@[simp] theorem State.updSlot_schedule (n : Nat) (f : Slot → Slot) : (s.updSlot n f).schedule = s.schedule := rfl
@[simp] theorem State.updSlot_raised (n : Nat) (f : Slot → Slot) : (s.updSlot n f).raised = s.raised := rfl
@[simp] theorem State.updSlot_tick (n : Nat) (f : Slot → Slot) : (s.updSlot n f).tick = s.tick := rfl
@[simp] theorem State.updSlot_fresh (n : Nat) (f : Slot → Slot) : (s.updSlot n f).fresh = s.fresh := rfl
@[simp] theorem State.updSlot_nextId (n : Nat) (f : Slot → Slot) : (s.updSlot n f).nextId = s.nextId := rfl
@[simp] theorem State.updSlot_nextHandle (n : Nat) (f : Slot → Slot) : (s.updSlot n f).nextHandle = s.nextHandle := rfl

/-! ### updMx -/

@[simp] theorem State.updMx_cycle (e : Nat) (f : MxEngine → MxEngine) : (s.updMx e f).cycle = s.cycle := rfl
@[simp] theorem State.updMx_timeAcc (e : Nat) (f : MxEngine → MxEngine) : (s.updMx e f).timeAcc = s.timeAcc := rfl
@[simp] theorem State.updMx_cores (e : Nat) (f : MxEngine → MxEngine) : (s.updMx e f).cores = s.cores := rfl
@[simp] theorem State.updMx_mem (e : Nat) (f : MxEngine → MxEngine) : (s.updMx e f).mem = s.mem := rfl
@[simp] theorem State.updMx_tags (e : Nat) (f : MxEngine → MxEngine) : (s.updMx e f).tags = s.tags := rfl
@[simp] theorem State.updMx_badUnits (e : Nat) (f : MxEngine → MxEngine) : (s.updMx e f).badUnits = s.badUnits := rfl
@[simp] theorem State.updMx_l2 (e : Nat) (f : MxEngine → MxEngine) : (s.updMx e f).l2 = s.l2 := rfl
@[simp] theorem State.updMx_tlb (e : Nat) (f : MxEngine → MxEngine) : (s.updMx e f).tlb = s.tlb := rfl
@[simp] theorem State.updMx_atc (e : Nat) (f : MxEngine → MxEngine) : (s.updMx e f).atc = s.atc := rfl
@[simp] theorem State.updMx_hostPerm (e : Nat) (f : MxEngine → MxEngine) : (s.updMx e f).hostPerm = s.hostPerm := rfl
@[simp] theorem State.updMx_hostFails (e : Nat) (f : MxEngine → MxEngine) : (s.updMx e f).hostFails = s.hostFails := rfl
@[simp] theorem State.updMx_walks (e : Nat) (f : MxEngine → MxEngine) : (s.updMx e f).walks = s.walks := rfl
@[simp] theorem State.updMx_walkTurn (e : Nat) (f : MxEngine → MxEngine) : (s.updMx e f).walkTurn = s.walkTurn := rfl
@[simp] theorem State.updMx_frames (e : Nat) (f : MxEngine → MxEngine) : (s.updMx e f).frames = s.frames := rfl
@[simp] theorem State.updMx_hostWords (e : Nat) (f : MxEngine → MxEngine) : (s.updMx e f).hostWords = s.hostWords := rfl
@[simp] theorem State.updMx_pageReqs (e : Nat) (f : MxEngine → MxEngine) : (s.updMx e f).pageReqs = s.pageReqs := rfl
@[simp] theorem State.updMx_images (e : Nat) (f : MxEngine → MxEngine) : (s.updMx e f).images = s.images := rfl
@[simp] theorem State.updMx_blocks (e : Nat) (f : MxEngine → MxEngine) : (s.updMx e f).blocks = s.blocks := rfl
@[simp] theorem State.updMx_bms (e : Nat) (f : MxEngine → MxEngine) : (s.updMx e f).bms = s.bms := rfl
@[simp] theorem State.updMx_counterOps (e : Nat) (f : MxEngine → MxEngine) : (s.updMx e f).counterOps = s.counterOps := rfl
@[simp] theorem State.updMx_hostOps (e : Nat) (f : MxEngine → MxEngine) : (s.updMx e f).hostOps = s.hostOps := rfl
@[simp] theorem State.updMx_slotStamps (e : Nat) (f : MxEngine → MxEngine) : (s.updMx e f).slotStamps = s.slotStamps := rfl
@[simp] theorem State.updMx_heldWrites (e : Nat) (f : MxEngine → MxEngine) : (s.updMx e f).heldWrites = s.heldWrites := rfl
@[simp] theorem State.updMx_sends (e : Nat) (f : MxEngine → MxEngine) : (s.updMx e f).sends = s.sends := rfl
@[simp] theorem State.updMx_taken (e : Nat) (f : MxEngine → MxEngine) : (s.updMx e f).taken = s.taken := rfl
@[simp] theorem State.updMx_polls (e : Nat) (f : MxEngine → MxEngine) : (s.updMx e f).polls = s.polls := rfl
@[simp] theorem State.updMx_spillReads (e : Nat) (f : MxEngine → MxEngine) : (s.updMx e f).spillReads = s.spillReads := rfl
@[simp] theorem State.updMx_watches (e : Nat) (f : MxEngine → MxEngine) : (s.updMx e f).watches = s.watches := rfl
@[simp] theorem State.updMx_cmds (e : Nat) (f : MxEngine → MxEngine) : (s.updMx e f).cmds = s.cmds := rfl
@[simp] theorem State.updMx_faulted (e : Nat) (f : MxEngine → MxEngine) : (s.updMx e f).faulted = s.faulted := rfl
@[simp] theorem State.updMx_xfer (e : Nat) (f : MxEngine → MxEngine) : (s.updMx e f).xfer = s.xfer := rfl
@[simp] theorem State.updMx_jobs (e : Nat) (f : MxEngine → MxEngine) : (s.updMx e f).jobs = s.jobs := rfl
@[simp] theorem State.updMx_flights (e : Nat) (f : MxEngine → MxEngine) : (s.updMx e f).flights = s.flights := rfl
@[simp] theorem State.updMx_gates (e : Nat) (f : MxEngine → MxEngine) : (s.updMx e f).gates = s.gates := rfl
@[simp] theorem State.updMx_tenants (e : Nat) (f : MxEngine → MxEngine) : (s.updMx e f).tenants = s.tenants := rfl
@[simp] theorem State.updMx_nodes (e : Nat) (f : MxEngine → MxEngine) : (s.updMx e f).nodes = s.nodes := rfl
@[simp] theorem State.updMx_slots (e : Nat) (f : MxEngine → MxEngine) : (s.updMx e f).slots = s.slots := rfl
@[simp] theorem State.updMx_weeds (e : Nat) (f : MxEngine → MxEngine) : (s.updMx e f).weeds = s.weeds := rfl
@[simp] theorem State.updMx_sweep (e : Nat) (f : MxEngine → MxEngine) : (s.updMx e f).sweep = s.sweep := rfl
@[simp] theorem State.updMx_sweepFrom (e : Nat) (f : MxEngine → MxEngine) : (s.updMx e f).sweepFrom = s.sweepFrom := rfl
@[simp] theorem State.updMx_late (e : Nat) (f : MxEngine → MxEngine) : (s.updMx e f).late = s.late := rfl
@[simp] theorem State.updMx_old (e : Nat) (f : MxEngine → MxEngine) : (s.updMx e f).old = s.old := rfl
@[simp] theorem State.updMx_fns (e : Nat) (f : MxEngine → MxEngine) : (s.updMx e f).fns = s.fns := rfl
@[simp] theorem State.updMx_ports (e : Nat) (f : MxEngine → MxEngine) : (s.updMx e f).ports = s.ports := rfl
@[simp] theorem State.updMx_heldReqs (e : Nat) (f : MxEngine → MxEngine) : (s.updMx e f).heldReqs = s.heldReqs := rfl
@[simp] theorem State.updMx_answer (e : Nat) (f : MxEngine → MxEngine) : (s.updMx e f).answer = s.answer := rfl
@[simp] theorem State.updMx_pkgLog (e : Nat) (f : MxEngine → MxEngine) : (s.updMx e f).pkgLog = s.pkgLog := rfl
@[simp] theorem State.updMx_service (e : Nat) (f : MxEngine → MxEngine) : (s.updMx e f).service = s.service := rfl
@[simp] theorem State.updMx_power (e : Nat) (f : MxEngine → MxEngine) : (s.updMx e f).power = s.power := rfl
@[simp] theorem State.updMx_cur (e : Nat) (f : MxEngine → MxEngine) : (s.updMx e f).cur = s.cur := rfl
@[simp] theorem State.updMx_agent (e : Nat) (f : MxEngine → MxEngine) : (s.updMx e f).agent = s.agent := rfl
@[simp] theorem State.updMx_schedule (e : Nat) (f : MxEngine → MxEngine) : (s.updMx e f).schedule = s.schedule := rfl
@[simp] theorem State.updMx_raised (e : Nat) (f : MxEngine → MxEngine) : (s.updMx e f).raised = s.raised := rfl
@[simp] theorem State.updMx_tick (e : Nat) (f : MxEngine → MxEngine) : (s.updMx e f).tick = s.tick := rfl
@[simp] theorem State.updMx_fresh (e : Nat) (f : MxEngine → MxEngine) : (s.updMx e f).fresh = s.fresh := rfl
@[simp] theorem State.updMx_nextId (e : Nat) (f : MxEngine → MxEngine) : (s.updMx e f).nextId = s.nextId := rfl
@[simp] theorem State.updMx_nextHandle (e : Nat) (f : MxEngine → MxEngine) : (s.updMx e f).nextHandle = s.nextHandle := rfl

/-! ### bump -/

@[simp] theorem State.bump_cycle : s.bump.cycle = s.cycle := rfl
@[simp] theorem State.bump_timeAcc : s.bump.timeAcc = s.timeAcc := rfl
@[simp] theorem State.bump_cores : s.bump.cores = s.cores := rfl
@[simp] theorem State.bump_mem : s.bump.mem = s.mem := rfl
@[simp] theorem State.bump_tags : s.bump.tags = s.tags := rfl
@[simp] theorem State.bump_badUnits : s.bump.badUnits = s.badUnits := rfl
@[simp] theorem State.bump_l2 : s.bump.l2 = s.l2 := rfl
@[simp] theorem State.bump_tlb : s.bump.tlb = s.tlb := rfl
@[simp] theorem State.bump_atc : s.bump.atc = s.atc := rfl
@[simp] theorem State.bump_hostPerm : s.bump.hostPerm = s.hostPerm := rfl
@[simp] theorem State.bump_hostFails : s.bump.hostFails = s.hostFails := rfl
@[simp] theorem State.bump_walks : s.bump.walks = s.walks := rfl
@[simp] theorem State.bump_walkTurn : s.bump.walkTurn = s.walkTurn := rfl
@[simp] theorem State.bump_frames : s.bump.frames = s.frames := rfl
@[simp] theorem State.bump_hostWords : s.bump.hostWords = s.hostWords := rfl
@[simp] theorem State.bump_pageReqs : s.bump.pageReqs = s.pageReqs := rfl
@[simp] theorem State.bump_images : s.bump.images = s.images := rfl
@[simp] theorem State.bump_blocks : s.bump.blocks = s.blocks := rfl
@[simp] theorem State.bump_bms : s.bump.bms = s.bms := rfl
@[simp] theorem State.bump_counterOps : s.bump.counterOps = s.counterOps := rfl
@[simp] theorem State.bump_hostOps : s.bump.hostOps = s.hostOps := rfl
@[simp] theorem State.bump_slotStamps : s.bump.slotStamps = s.slotStamps := rfl
@[simp] theorem State.bump_heldWrites : s.bump.heldWrites = s.heldWrites := rfl
@[simp] theorem State.bump_sends : s.bump.sends = s.sends := rfl
@[simp] theorem State.bump_taken : s.bump.taken = s.taken := rfl
@[simp] theorem State.bump_polls : s.bump.polls = s.polls := rfl
@[simp] theorem State.bump_spillReads : s.bump.spillReads = s.spillReads := rfl
@[simp] theorem State.bump_watches : s.bump.watches = s.watches := rfl
@[simp] theorem State.bump_cmds : s.bump.cmds = s.cmds := rfl
@[simp] theorem State.bump_faulted : s.bump.faulted = s.faulted := rfl
@[simp] theorem State.bump_xfer : s.bump.xfer = s.xfer := rfl
@[simp] theorem State.bump_jobs : s.bump.jobs = s.jobs := rfl
@[simp] theorem State.bump_mx : s.bump.mx = s.mx := rfl
@[simp] theorem State.bump_flights : s.bump.flights = s.flights := rfl
@[simp] theorem State.bump_gates : s.bump.gates = s.gates := rfl
@[simp] theorem State.bump_tenants : s.bump.tenants = s.tenants := rfl
@[simp] theorem State.bump_nodes : s.bump.nodes = s.nodes := rfl
@[simp] theorem State.bump_slots : s.bump.slots = s.slots := rfl
@[simp] theorem State.bump_weeds : s.bump.weeds = s.weeds := rfl
@[simp] theorem State.bump_sweep : s.bump.sweep = s.sweep := rfl
@[simp] theorem State.bump_sweepFrom : s.bump.sweepFrom = s.sweepFrom := rfl
@[simp] theorem State.bump_late : s.bump.late = s.late := rfl
@[simp] theorem State.bump_old : s.bump.old = s.old := rfl
@[simp] theorem State.bump_fns : s.bump.fns = s.fns := rfl
@[simp] theorem State.bump_ports : s.bump.ports = s.ports := rfl
@[simp] theorem State.bump_heldReqs : s.bump.heldReqs = s.heldReqs := rfl
@[simp] theorem State.bump_answer : s.bump.answer = s.answer := rfl
@[simp] theorem State.bump_pkgLog : s.bump.pkgLog = s.pkgLog := rfl
@[simp] theorem State.bump_service : s.bump.service = s.service := rfl
@[simp] theorem State.bump_power : s.bump.power = s.power := rfl
@[simp] theorem State.bump_cur : s.bump.cur = s.cur := rfl
@[simp] theorem State.bump_agent : s.bump.agent = s.agent := rfl
@[simp] theorem State.bump_schedule : s.bump.schedule = s.schedule := rfl
@[simp] theorem State.bump_raised : s.bump.raised = s.raised := rfl
@[simp] theorem State.bump_tick : s.bump.tick = s.tick := rfl
@[simp] theorem State.bump_fresh : s.bump.fresh = s.fresh := rfl
@[simp] theorem State.bump_nextHandle : s.bump.nextHandle = s.nextHandle := rfl

/-! ### unhold -/

@[simp] theorem State.unhold_cycle (id : Nat) : (s.unhold id).cycle = s.cycle := rfl
@[simp] theorem State.unhold_timeAcc (id : Nat) : (s.unhold id).timeAcc = s.timeAcc := rfl
@[simp] theorem State.unhold_cores (id : Nat) : (s.unhold id).cores = s.cores := rfl
@[simp] theorem State.unhold_mem (id : Nat) : (s.unhold id).mem = s.mem := rfl
@[simp] theorem State.unhold_tags (id : Nat) : (s.unhold id).tags = s.tags := rfl
@[simp] theorem State.unhold_badUnits (id : Nat) : (s.unhold id).badUnits = s.badUnits := rfl
@[simp] theorem State.unhold_l2 (id : Nat) : (s.unhold id).l2 = s.l2 := rfl
@[simp] theorem State.unhold_tlb (id : Nat) : (s.unhold id).tlb = s.tlb := rfl
@[simp] theorem State.unhold_atc (id : Nat) : (s.unhold id).atc = s.atc := rfl
@[simp] theorem State.unhold_hostPerm (id : Nat) : (s.unhold id).hostPerm = s.hostPerm := rfl
@[simp] theorem State.unhold_hostFails (id : Nat) : (s.unhold id).hostFails = s.hostFails := rfl
@[simp] theorem State.unhold_walks (id : Nat) : (s.unhold id).walks = s.walks := rfl
@[simp] theorem State.unhold_walkTurn (id : Nat) : (s.unhold id).walkTurn = s.walkTurn := rfl
@[simp] theorem State.unhold_frames (id : Nat) : (s.unhold id).frames = s.frames := rfl
@[simp] theorem State.unhold_hostWords (id : Nat) : (s.unhold id).hostWords = s.hostWords := rfl
@[simp] theorem State.unhold_pageReqs (id : Nat) : (s.unhold id).pageReqs = s.pageReqs := rfl
@[simp] theorem State.unhold_images (id : Nat) : (s.unhold id).images = s.images := rfl
@[simp] theorem State.unhold_blocks (id : Nat) : (s.unhold id).blocks = s.blocks := rfl
@[simp] theorem State.unhold_counterOps (id : Nat) : (s.unhold id).counterOps = s.counterOps := rfl
@[simp] theorem State.unhold_hostOps (id : Nat) : (s.unhold id).hostOps = s.hostOps := rfl
@[simp] theorem State.unhold_slotStamps (id : Nat) : (s.unhold id).slotStamps = s.slotStamps := rfl
@[simp] theorem State.unhold_heldWrites (id : Nat) : (s.unhold id).heldWrites = s.heldWrites := rfl
@[simp] theorem State.unhold_sends (id : Nat) : (s.unhold id).sends = s.sends := rfl
@[simp] theorem State.unhold_taken (id : Nat) : (s.unhold id).taken = s.taken := rfl
@[simp] theorem State.unhold_polls (id : Nat) : (s.unhold id).polls = s.polls := rfl
@[simp] theorem State.unhold_spillReads (id : Nat) : (s.unhold id).spillReads = s.spillReads := rfl
@[simp] theorem State.unhold_watches (id : Nat) : (s.unhold id).watches = s.watches := rfl
@[simp] theorem State.unhold_cmds (id : Nat) : (s.unhold id).cmds = s.cmds := rfl
@[simp] theorem State.unhold_faulted (id : Nat) : (s.unhold id).faulted = s.faulted := rfl
@[simp] theorem State.unhold_xfer (id : Nat) : (s.unhold id).xfer = s.xfer := rfl
@[simp] theorem State.unhold_jobs (id : Nat) : (s.unhold id).jobs = s.jobs := rfl
@[simp] theorem State.unhold_mx (id : Nat) : (s.unhold id).mx = s.mx := rfl
@[simp] theorem State.unhold_flights (id : Nat) : (s.unhold id).flights = s.flights := rfl
@[simp] theorem State.unhold_gates (id : Nat) : (s.unhold id).gates = s.gates := rfl
@[simp] theorem State.unhold_tenants (id : Nat) : (s.unhold id).tenants = s.tenants := rfl
@[simp] theorem State.unhold_nodes (id : Nat) : (s.unhold id).nodes = s.nodes := rfl
@[simp] theorem State.unhold_slots (id : Nat) : (s.unhold id).slots = s.slots := rfl
@[simp] theorem State.unhold_weeds (id : Nat) : (s.unhold id).weeds = s.weeds := rfl
@[simp] theorem State.unhold_sweep (id : Nat) : (s.unhold id).sweep = s.sweep := rfl
@[simp] theorem State.unhold_sweepFrom (id : Nat) : (s.unhold id).sweepFrom = s.sweepFrom := rfl
@[simp] theorem State.unhold_late (id : Nat) : (s.unhold id).late = s.late := rfl
@[simp] theorem State.unhold_old (id : Nat) : (s.unhold id).old = s.old := rfl
@[simp] theorem State.unhold_fns (id : Nat) : (s.unhold id).fns = s.fns := rfl
@[simp] theorem State.unhold_ports (id : Nat) : (s.unhold id).ports = s.ports := rfl
@[simp] theorem State.unhold_heldReqs (id : Nat) : (s.unhold id).heldReqs = s.heldReqs := rfl
@[simp] theorem State.unhold_answer (id : Nat) : (s.unhold id).answer = s.answer := rfl
@[simp] theorem State.unhold_pkgLog (id : Nat) : (s.unhold id).pkgLog = s.pkgLog := rfl
@[simp] theorem State.unhold_service (id : Nat) : (s.unhold id).service = s.service := rfl
@[simp] theorem State.unhold_power (id : Nat) : (s.unhold id).power = s.power := rfl
@[simp] theorem State.unhold_cur (id : Nat) : (s.unhold id).cur = s.cur := rfl
@[simp] theorem State.unhold_agent (id : Nat) : (s.unhold id).agent = s.agent := rfl
@[simp] theorem State.unhold_schedule (id : Nat) : (s.unhold id).schedule = s.schedule := rfl
@[simp] theorem State.unhold_raised (id : Nat) : (s.unhold id).raised = s.raised := rfl
@[simp] theorem State.unhold_tick (id : Nat) : (s.unhold id).tick = s.tick := rfl
@[simp] theorem State.unhold_fresh (id : Nat) : (s.unhold id).fresh = s.fresh := rfl
@[simp] theorem State.unhold_nextId (id : Nat) : (s.unhold id).nextId = s.nextId := rfl
@[simp] theorem State.unhold_nextHandle (id : Nat) : (s.unhold id).nextHandle = s.nextHandle := rfl

/-! ### setCmd -/

@[simp] theorem State.setCmd_cycle (c : Cmd) : (s.setCmd c).cycle = s.cycle := rfl
@[simp] theorem State.setCmd_timeAcc (c : Cmd) : (s.setCmd c).timeAcc = s.timeAcc := rfl
@[simp] theorem State.setCmd_cores (c : Cmd) : (s.setCmd c).cores = s.cores := rfl
@[simp] theorem State.setCmd_mem (c : Cmd) : (s.setCmd c).mem = s.mem := rfl
@[simp] theorem State.setCmd_tags (c : Cmd) : (s.setCmd c).tags = s.tags := rfl
@[simp] theorem State.setCmd_badUnits (c : Cmd) : (s.setCmd c).badUnits = s.badUnits := rfl
@[simp] theorem State.setCmd_l2 (c : Cmd) : (s.setCmd c).l2 = s.l2 := rfl
@[simp] theorem State.setCmd_tlb (c : Cmd) : (s.setCmd c).tlb = s.tlb := rfl
@[simp] theorem State.setCmd_atc (c : Cmd) : (s.setCmd c).atc = s.atc := rfl
@[simp] theorem State.setCmd_hostPerm (c : Cmd) : (s.setCmd c).hostPerm = s.hostPerm := rfl
@[simp] theorem State.setCmd_hostFails (c : Cmd) : (s.setCmd c).hostFails = s.hostFails := rfl
@[simp] theorem State.setCmd_walks (c : Cmd) : (s.setCmd c).walks = s.walks := rfl
@[simp] theorem State.setCmd_walkTurn (c : Cmd) : (s.setCmd c).walkTurn = s.walkTurn := rfl
@[simp] theorem State.setCmd_frames (c : Cmd) : (s.setCmd c).frames = s.frames := rfl
@[simp] theorem State.setCmd_hostWords (c : Cmd) : (s.setCmd c).hostWords = s.hostWords := rfl
@[simp] theorem State.setCmd_pageReqs (c : Cmd) : (s.setCmd c).pageReqs = s.pageReqs := rfl
@[simp] theorem State.setCmd_images (c : Cmd) : (s.setCmd c).images = s.images := rfl
@[simp] theorem State.setCmd_blocks (c : Cmd) : (s.setCmd c).blocks = s.blocks := rfl
@[simp] theorem State.setCmd_bms (c : Cmd) : (s.setCmd c).bms = s.bms := rfl
@[simp] theorem State.setCmd_counterOps (c : Cmd) : (s.setCmd c).counterOps = s.counterOps := rfl
@[simp] theorem State.setCmd_hostOps (c : Cmd) : (s.setCmd c).hostOps = s.hostOps := rfl
@[simp] theorem State.setCmd_slotStamps (c : Cmd) : (s.setCmd c).slotStamps = s.slotStamps := rfl
@[simp] theorem State.setCmd_heldWrites (c : Cmd) : (s.setCmd c).heldWrites = s.heldWrites := rfl
@[simp] theorem State.setCmd_sends (c : Cmd) : (s.setCmd c).sends = s.sends := rfl
@[simp] theorem State.setCmd_taken (c : Cmd) : (s.setCmd c).taken = s.taken := rfl
@[simp] theorem State.setCmd_polls (c : Cmd) : (s.setCmd c).polls = s.polls := rfl
@[simp] theorem State.setCmd_spillReads (c : Cmd) : (s.setCmd c).spillReads = s.spillReads := rfl
@[simp] theorem State.setCmd_watches (c : Cmd) : (s.setCmd c).watches = s.watches := rfl
@[simp] theorem State.setCmd_faulted (c : Cmd) : (s.setCmd c).faulted = s.faulted := rfl
@[simp] theorem State.setCmd_xfer (c : Cmd) : (s.setCmd c).xfer = s.xfer := rfl
@[simp] theorem State.setCmd_jobs (c : Cmd) : (s.setCmd c).jobs = s.jobs := rfl
@[simp] theorem State.setCmd_mx (c : Cmd) : (s.setCmd c).mx = s.mx := rfl
@[simp] theorem State.setCmd_flights (c : Cmd) : (s.setCmd c).flights = s.flights := rfl
@[simp] theorem State.setCmd_gates (c : Cmd) : (s.setCmd c).gates = s.gates := rfl
@[simp] theorem State.setCmd_tenants (c : Cmd) : (s.setCmd c).tenants = s.tenants := rfl
@[simp] theorem State.setCmd_nodes (c : Cmd) : (s.setCmd c).nodes = s.nodes := rfl
@[simp] theorem State.setCmd_slots (c : Cmd) : (s.setCmd c).slots = s.slots := rfl
@[simp] theorem State.setCmd_weeds (c : Cmd) : (s.setCmd c).weeds = s.weeds := rfl
@[simp] theorem State.setCmd_sweep (c : Cmd) : (s.setCmd c).sweep = s.sweep := rfl
@[simp] theorem State.setCmd_sweepFrom (c : Cmd) : (s.setCmd c).sweepFrom = s.sweepFrom := rfl
@[simp] theorem State.setCmd_late (c : Cmd) : (s.setCmd c).late = s.late := rfl
@[simp] theorem State.setCmd_old (c : Cmd) : (s.setCmd c).old = s.old := rfl
@[simp] theorem State.setCmd_fns (c : Cmd) : (s.setCmd c).fns = s.fns := rfl
@[simp] theorem State.setCmd_ports (c : Cmd) : (s.setCmd c).ports = s.ports := rfl
@[simp] theorem State.setCmd_heldReqs (c : Cmd) : (s.setCmd c).heldReqs = s.heldReqs := rfl
@[simp] theorem State.setCmd_answer (c : Cmd) : (s.setCmd c).answer = s.answer := rfl
@[simp] theorem State.setCmd_pkgLog (c : Cmd) : (s.setCmd c).pkgLog = s.pkgLog := rfl
@[simp] theorem State.setCmd_service (c : Cmd) : (s.setCmd c).service = s.service := rfl
@[simp] theorem State.setCmd_power (c : Cmd) : (s.setCmd c).power = s.power := rfl
@[simp] theorem State.setCmd_cur (c : Cmd) : (s.setCmd c).cur = s.cur := rfl
@[simp] theorem State.setCmd_agent (c : Cmd) : (s.setCmd c).agent = s.agent := rfl
@[simp] theorem State.setCmd_schedule (c : Cmd) : (s.setCmd c).schedule = s.schedule := rfl
@[simp] theorem State.setCmd_raised (c : Cmd) : (s.setCmd c).raised = s.raised := rfl
@[simp] theorem State.setCmd_tick (c : Cmd) : (s.setCmd c).tick = s.tick := rfl
@[simp] theorem State.setCmd_fresh (c : Cmd) : (s.setCmd c).fresh = s.fresh := rfl
@[simp] theorem State.setCmd_nextId (c : Cmd) : (s.setCmd c).nextId = s.nextId := rfl
@[simp] theorem State.setCmd_nextHandle (c : Cmd) : (s.setCmd c).nextHandle = s.nextHandle := rfl

/-! ### dropFaulted -/

@[simp] theorem State.dropFaulted_cycle (h : Nat) : (s.dropFaulted h).cycle = s.cycle := rfl
@[simp] theorem State.dropFaulted_timeAcc (h : Nat) : (s.dropFaulted h).timeAcc = s.timeAcc := rfl
@[simp] theorem State.dropFaulted_cores (h : Nat) : (s.dropFaulted h).cores = s.cores := rfl
@[simp] theorem State.dropFaulted_mem (h : Nat) : (s.dropFaulted h).mem = s.mem := rfl
@[simp] theorem State.dropFaulted_tags (h : Nat) : (s.dropFaulted h).tags = s.tags := rfl
@[simp] theorem State.dropFaulted_badUnits (h : Nat) : (s.dropFaulted h).badUnits = s.badUnits := rfl
@[simp] theorem State.dropFaulted_l2 (h : Nat) : (s.dropFaulted h).l2 = s.l2 := rfl
@[simp] theorem State.dropFaulted_tlb (h : Nat) : (s.dropFaulted h).tlb = s.tlb := rfl
@[simp] theorem State.dropFaulted_atc (h : Nat) : (s.dropFaulted h).atc = s.atc := rfl
@[simp] theorem State.dropFaulted_hostPerm (h : Nat) : (s.dropFaulted h).hostPerm = s.hostPerm := rfl
@[simp] theorem State.dropFaulted_hostFails (h : Nat) : (s.dropFaulted h).hostFails = s.hostFails := rfl
@[simp] theorem State.dropFaulted_walks (h : Nat) : (s.dropFaulted h).walks = s.walks := rfl
@[simp] theorem State.dropFaulted_walkTurn (h : Nat) : (s.dropFaulted h).walkTurn = s.walkTurn := rfl
@[simp] theorem State.dropFaulted_frames (h : Nat) : (s.dropFaulted h).frames = s.frames := rfl
@[simp] theorem State.dropFaulted_hostWords (h : Nat) : (s.dropFaulted h).hostWords = s.hostWords := rfl
@[simp] theorem State.dropFaulted_pageReqs (h : Nat) : (s.dropFaulted h).pageReqs = s.pageReqs := rfl
@[simp] theorem State.dropFaulted_images (h : Nat) : (s.dropFaulted h).images = s.images := rfl
@[simp] theorem State.dropFaulted_blocks (h : Nat) : (s.dropFaulted h).blocks = s.blocks := rfl
@[simp] theorem State.dropFaulted_bms (h : Nat) : (s.dropFaulted h).bms = s.bms := rfl
@[simp] theorem State.dropFaulted_counterOps (h : Nat) : (s.dropFaulted h).counterOps = s.counterOps := rfl
@[simp] theorem State.dropFaulted_hostOps (h : Nat) : (s.dropFaulted h).hostOps = s.hostOps := rfl
@[simp] theorem State.dropFaulted_slotStamps (h : Nat) : (s.dropFaulted h).slotStamps = s.slotStamps := rfl
@[simp] theorem State.dropFaulted_heldWrites (h : Nat) : (s.dropFaulted h).heldWrites = s.heldWrites := rfl
@[simp] theorem State.dropFaulted_sends (h : Nat) : (s.dropFaulted h).sends = s.sends := rfl
@[simp] theorem State.dropFaulted_taken (h : Nat) : (s.dropFaulted h).taken = s.taken := rfl
@[simp] theorem State.dropFaulted_polls (h : Nat) : (s.dropFaulted h).polls = s.polls := rfl
@[simp] theorem State.dropFaulted_spillReads (h : Nat) : (s.dropFaulted h).spillReads = s.spillReads := rfl
@[simp] theorem State.dropFaulted_watches (h : Nat) : (s.dropFaulted h).watches = s.watches := rfl
@[simp] theorem State.dropFaulted_cmds (h : Nat) : (s.dropFaulted h).cmds = s.cmds := rfl
@[simp] theorem State.dropFaulted_xfer (h : Nat) : (s.dropFaulted h).xfer = s.xfer := rfl
@[simp] theorem State.dropFaulted_jobs (h : Nat) : (s.dropFaulted h).jobs = s.jobs := rfl
@[simp] theorem State.dropFaulted_mx (h : Nat) : (s.dropFaulted h).mx = s.mx := rfl
@[simp] theorem State.dropFaulted_flights (h : Nat) : (s.dropFaulted h).flights = s.flights := rfl
@[simp] theorem State.dropFaulted_gates (h : Nat) : (s.dropFaulted h).gates = s.gates := rfl
@[simp] theorem State.dropFaulted_tenants (h : Nat) : (s.dropFaulted h).tenants = s.tenants := rfl
@[simp] theorem State.dropFaulted_nodes (h : Nat) : (s.dropFaulted h).nodes = s.nodes := rfl
@[simp] theorem State.dropFaulted_slots (h : Nat) : (s.dropFaulted h).slots = s.slots := rfl
@[simp] theorem State.dropFaulted_weeds (h : Nat) : (s.dropFaulted h).weeds = s.weeds := rfl
@[simp] theorem State.dropFaulted_sweep (h : Nat) : (s.dropFaulted h).sweep = s.sweep := rfl
@[simp] theorem State.dropFaulted_sweepFrom (h : Nat) : (s.dropFaulted h).sweepFrom = s.sweepFrom := rfl
@[simp] theorem State.dropFaulted_late (h : Nat) : (s.dropFaulted h).late = s.late := rfl
@[simp] theorem State.dropFaulted_old (h : Nat) : (s.dropFaulted h).old = s.old := rfl
@[simp] theorem State.dropFaulted_fns (h : Nat) : (s.dropFaulted h).fns = s.fns := rfl
@[simp] theorem State.dropFaulted_ports (h : Nat) : (s.dropFaulted h).ports = s.ports := rfl
@[simp] theorem State.dropFaulted_heldReqs (h : Nat) : (s.dropFaulted h).heldReqs = s.heldReqs := rfl
@[simp] theorem State.dropFaulted_answer (h : Nat) : (s.dropFaulted h).answer = s.answer := rfl
@[simp] theorem State.dropFaulted_pkgLog (h : Nat) : (s.dropFaulted h).pkgLog = s.pkgLog := rfl
@[simp] theorem State.dropFaulted_service (h : Nat) : (s.dropFaulted h).service = s.service := rfl
@[simp] theorem State.dropFaulted_power (h : Nat) : (s.dropFaulted h).power = s.power := rfl
@[simp] theorem State.dropFaulted_cur (h : Nat) : (s.dropFaulted h).cur = s.cur := rfl
@[simp] theorem State.dropFaulted_agent (h : Nat) : (s.dropFaulted h).agent = s.agent := rfl
@[simp] theorem State.dropFaulted_schedule (h : Nat) : (s.dropFaulted h).schedule = s.schedule := rfl
@[simp] theorem State.dropFaulted_raised (h : Nat) : (s.dropFaulted h).raised = s.raised := rfl
@[simp] theorem State.dropFaulted_tick (h : Nat) : (s.dropFaulted h).tick = s.tick := rfl
@[simp] theorem State.dropFaulted_fresh (h : Nat) : (s.dropFaulted h).fresh = s.fresh := rfl
@[simp] theorem State.dropFaulted_nextId (h : Nat) : (s.dropFaulted h).nextId = s.nextId := rfl
@[simp] theorem State.dropFaulted_nextHandle (h : Nat) : (s.dropFaulted h).nextHandle = s.nextHandle := rfl

/-! ### setJob -/

@[simp] theorem State.setJob_cycle (j : Job) : (s.setJob j).cycle = s.cycle := rfl
@[simp] theorem State.setJob_timeAcc (j : Job) : (s.setJob j).timeAcc = s.timeAcc := rfl
@[simp] theorem State.setJob_cores (j : Job) : (s.setJob j).cores = s.cores := rfl
@[simp] theorem State.setJob_mem (j : Job) : (s.setJob j).mem = s.mem := rfl
@[simp] theorem State.setJob_tags (j : Job) : (s.setJob j).tags = s.tags := rfl
@[simp] theorem State.setJob_badUnits (j : Job) : (s.setJob j).badUnits = s.badUnits := rfl
@[simp] theorem State.setJob_l2 (j : Job) : (s.setJob j).l2 = s.l2 := rfl
@[simp] theorem State.setJob_tlb (j : Job) : (s.setJob j).tlb = s.tlb := rfl
@[simp] theorem State.setJob_atc (j : Job) : (s.setJob j).atc = s.atc := rfl
@[simp] theorem State.setJob_hostPerm (j : Job) : (s.setJob j).hostPerm = s.hostPerm := rfl
@[simp] theorem State.setJob_hostFails (j : Job) : (s.setJob j).hostFails = s.hostFails := rfl
@[simp] theorem State.setJob_walks (j : Job) : (s.setJob j).walks = s.walks := rfl
@[simp] theorem State.setJob_walkTurn (j : Job) : (s.setJob j).walkTurn = s.walkTurn := rfl
@[simp] theorem State.setJob_frames (j : Job) : (s.setJob j).frames = s.frames := rfl
@[simp] theorem State.setJob_hostWords (j : Job) : (s.setJob j).hostWords = s.hostWords := rfl
@[simp] theorem State.setJob_pageReqs (j : Job) : (s.setJob j).pageReqs = s.pageReqs := rfl
@[simp] theorem State.setJob_images (j : Job) : (s.setJob j).images = s.images := rfl
@[simp] theorem State.setJob_blocks (j : Job) : (s.setJob j).blocks = s.blocks := rfl
@[simp] theorem State.setJob_bms (j : Job) : (s.setJob j).bms = s.bms := rfl
@[simp] theorem State.setJob_counterOps (j : Job) : (s.setJob j).counterOps = s.counterOps := rfl
@[simp] theorem State.setJob_hostOps (j : Job) : (s.setJob j).hostOps = s.hostOps := rfl
@[simp] theorem State.setJob_slotStamps (j : Job) : (s.setJob j).slotStamps = s.slotStamps := rfl
@[simp] theorem State.setJob_heldWrites (j : Job) : (s.setJob j).heldWrites = s.heldWrites := rfl
@[simp] theorem State.setJob_sends (j : Job) : (s.setJob j).sends = s.sends := rfl
@[simp] theorem State.setJob_taken (j : Job) : (s.setJob j).taken = s.taken := rfl
@[simp] theorem State.setJob_polls (j : Job) : (s.setJob j).polls = s.polls := rfl
@[simp] theorem State.setJob_spillReads (j : Job) : (s.setJob j).spillReads = s.spillReads := rfl
@[simp] theorem State.setJob_watches (j : Job) : (s.setJob j).watches = s.watches := rfl
@[simp] theorem State.setJob_cmds (j : Job) : (s.setJob j).cmds = s.cmds := rfl
@[simp] theorem State.setJob_faulted (j : Job) : (s.setJob j).faulted = s.faulted := rfl
@[simp] theorem State.setJob_xfer (j : Job) : (s.setJob j).xfer = s.xfer := rfl
@[simp] theorem State.setJob_mx (j : Job) : (s.setJob j).mx = s.mx := rfl
@[simp] theorem State.setJob_flights (j : Job) : (s.setJob j).flights = s.flights := rfl
@[simp] theorem State.setJob_gates (j : Job) : (s.setJob j).gates = s.gates := rfl
@[simp] theorem State.setJob_tenants (j : Job) : (s.setJob j).tenants = s.tenants := rfl
@[simp] theorem State.setJob_nodes (j : Job) : (s.setJob j).nodes = s.nodes := rfl
@[simp] theorem State.setJob_slots (j : Job) : (s.setJob j).slots = s.slots := rfl
@[simp] theorem State.setJob_weeds (j : Job) : (s.setJob j).weeds = s.weeds := rfl
@[simp] theorem State.setJob_sweep (j : Job) : (s.setJob j).sweep = s.sweep := rfl
@[simp] theorem State.setJob_sweepFrom (j : Job) : (s.setJob j).sweepFrom = s.sweepFrom := rfl
@[simp] theorem State.setJob_late (j : Job) : (s.setJob j).late = s.late := rfl
@[simp] theorem State.setJob_old (j : Job) : (s.setJob j).old = s.old := rfl
@[simp] theorem State.setJob_fns (j : Job) : (s.setJob j).fns = s.fns := rfl
@[simp] theorem State.setJob_ports (j : Job) : (s.setJob j).ports = s.ports := rfl
@[simp] theorem State.setJob_heldReqs (j : Job) : (s.setJob j).heldReqs = s.heldReqs := rfl
@[simp] theorem State.setJob_answer (j : Job) : (s.setJob j).answer = s.answer := rfl
@[simp] theorem State.setJob_pkgLog (j : Job) : (s.setJob j).pkgLog = s.pkgLog := rfl
@[simp] theorem State.setJob_service (j : Job) : (s.setJob j).service = s.service := rfl
@[simp] theorem State.setJob_power (j : Job) : (s.setJob j).power = s.power := rfl
@[simp] theorem State.setJob_cur (j : Job) : (s.setJob j).cur = s.cur := rfl
@[simp] theorem State.setJob_agent (j : Job) : (s.setJob j).agent = s.agent := rfl
@[simp] theorem State.setJob_schedule (j : Job) : (s.setJob j).schedule = s.schedule := rfl
@[simp] theorem State.setJob_raised (j : Job) : (s.setJob j).raised = s.raised := rfl
@[simp] theorem State.setJob_tick (j : Job) : (s.setJob j).tick = s.tick := rfl
@[simp] theorem State.setJob_fresh (j : Job) : (s.setJob j).fresh = s.fresh := rfl
@[simp] theorem State.setJob_nextId (j : Job) : (s.setJob j).nextId = s.nextId := rfl
@[simp] theorem State.setJob_nextHandle (j : Job) : (s.setJob j).nextHandle = s.nextHandle := rfl

/-! ### dropJob -/

@[simp] theorem State.dropJob_cycle (j : Job) : (s.dropJob j).cycle = s.cycle := by
  unfold State.dropJob State.noteTurn; dsimp only; split <;> rfl
@[simp] theorem State.dropJob_timeAcc (j : Job) : (s.dropJob j).timeAcc = s.timeAcc := by
  unfold State.dropJob State.noteTurn; dsimp only; split <;> rfl
@[simp] theorem State.dropJob_cores (j : Job) : (s.dropJob j).cores = s.cores := by
  unfold State.dropJob State.noteTurn; dsimp only; split <;> rfl
@[simp] theorem State.dropJob_mem (j : Job) : (s.dropJob j).mem = s.mem := by
  unfold State.dropJob State.noteTurn; dsimp only; split <;> rfl
@[simp] theorem State.dropJob_tags (j : Job) : (s.dropJob j).tags = s.tags := by
  unfold State.dropJob State.noteTurn; dsimp only; split <;> rfl
@[simp] theorem State.dropJob_badUnits (j : Job) : (s.dropJob j).badUnits = s.badUnits := by
  unfold State.dropJob State.noteTurn; dsimp only; split <;> rfl
@[simp] theorem State.dropJob_l2 (j : Job) : (s.dropJob j).l2 = s.l2 := by
  unfold State.dropJob State.noteTurn; dsimp only; split <;> rfl
@[simp] theorem State.dropJob_tlb (j : Job) : (s.dropJob j).tlb = s.tlb := by
  unfold State.dropJob State.noteTurn; dsimp only; split <;> rfl
@[simp] theorem State.dropJob_atc (j : Job) : (s.dropJob j).atc = s.atc := by
  unfold State.dropJob State.noteTurn; dsimp only; split <;> rfl
@[simp] theorem State.dropJob_hostPerm (j : Job) : (s.dropJob j).hostPerm = s.hostPerm := by
  unfold State.dropJob State.noteTurn; dsimp only; split <;> rfl
@[simp] theorem State.dropJob_hostFails (j : Job) : (s.dropJob j).hostFails = s.hostFails := by
  unfold State.dropJob State.noteTurn; dsimp only; split <;> rfl
@[simp] theorem State.dropJob_walks (j : Job) : (s.dropJob j).walks = s.walks := by
  unfold State.dropJob State.noteTurn; dsimp only; split <;> rfl
@[simp] theorem State.dropJob_walkTurn (j : Job) : (s.dropJob j).walkTurn = s.walkTurn := by
  unfold State.dropJob State.noteTurn; dsimp only; split <;> rfl
@[simp] theorem State.dropJob_frames (j : Job) : (s.dropJob j).frames = s.frames := by
  unfold State.dropJob State.noteTurn; dsimp only; split <;> rfl
@[simp] theorem State.dropJob_hostWords (j : Job) : (s.dropJob j).hostWords = s.hostWords := by
  unfold State.dropJob State.noteTurn; dsimp only; split <;> rfl
@[simp] theorem State.dropJob_pageReqs (j : Job) : (s.dropJob j).pageReqs = s.pageReqs := by
  unfold State.dropJob State.noteTurn; dsimp only; split <;> rfl
@[simp] theorem State.dropJob_images (j : Job) : (s.dropJob j).images = s.images := by
  unfold State.dropJob State.noteTurn; dsimp only; split <;> rfl
@[simp] theorem State.dropJob_blocks (j : Job) : (s.dropJob j).blocks = s.blocks := by
  unfold State.dropJob State.noteTurn; dsimp only; split <;> rfl
@[simp] theorem State.dropJob_bms (j : Job) : (s.dropJob j).bms = s.bms := by
  unfold State.dropJob State.noteTurn; dsimp only; split <;> rfl
@[simp] theorem State.dropJob_counterOps (j : Job) : (s.dropJob j).counterOps = s.counterOps := by
  unfold State.dropJob State.noteTurn; dsimp only; split <;> rfl
@[simp] theorem State.dropJob_hostOps (j : Job) : (s.dropJob j).hostOps = s.hostOps := by
  unfold State.dropJob State.noteTurn; dsimp only; split <;> rfl
@[simp] theorem State.dropJob_slotStamps (j : Job) : (s.dropJob j).slotStamps = s.slotStamps := by
  unfold State.dropJob State.noteTurn; dsimp only; split <;> rfl
@[simp] theorem State.dropJob_heldWrites (j : Job) : (s.dropJob j).heldWrites = s.heldWrites := by
  unfold State.dropJob State.noteTurn; dsimp only; split <;> rfl
@[simp] theorem State.dropJob_sends (j : Job) : (s.dropJob j).sends = s.sends := by
  unfold State.dropJob State.noteTurn; dsimp only; split <;> rfl
@[simp] theorem State.dropJob_taken (j : Job) : (s.dropJob j).taken = s.taken := by
  unfold State.dropJob State.noteTurn; dsimp only; split <;> rfl
@[simp] theorem State.dropJob_polls (j : Job) : (s.dropJob j).polls = s.polls := by
  unfold State.dropJob State.noteTurn; dsimp only; split <;> rfl
@[simp] theorem State.dropJob_spillReads (j : Job) : (s.dropJob j).spillReads = s.spillReads := by
  unfold State.dropJob State.noteTurn; dsimp only; split <;> rfl
@[simp] theorem State.dropJob_watches (j : Job) : (s.dropJob j).watches = s.watches := by
  unfold State.dropJob State.noteTurn; dsimp only; split <;> rfl
@[simp] theorem State.dropJob_cmds (j : Job) : (s.dropJob j).cmds = s.cmds := by
  unfold State.dropJob State.noteTurn; dsimp only; split <;> rfl
@[simp] theorem State.dropJob_faulted (j : Job) : (s.dropJob j).faulted = s.faulted := by
  unfold State.dropJob State.noteTurn; dsimp only; split <;> rfl
@[simp] theorem State.dropJob_xfer (j : Job) : (s.dropJob j).xfer = s.xfer := by
  unfold State.dropJob State.noteTurn; dsimp only; split <;> rfl
@[simp] theorem State.dropJob_flights (j : Job) : (s.dropJob j).flights = s.flights := by
  unfold State.dropJob State.noteTurn; dsimp only; split <;> rfl
@[simp] theorem State.dropJob_gates (j : Job) : (s.dropJob j).gates = s.gates := by
  unfold State.dropJob State.noteTurn; dsimp only; split <;> rfl
@[simp] theorem State.dropJob_tenants (j : Job) : (s.dropJob j).tenants = s.tenants := by
  unfold State.dropJob State.noteTurn; dsimp only; split <;> rfl
@[simp] theorem State.dropJob_nodes (j : Job) : (s.dropJob j).nodes = s.nodes := by
  unfold State.dropJob State.noteTurn; dsimp only; split <;> rfl
@[simp] theorem State.dropJob_slots (j : Job) : (s.dropJob j).slots = s.slots := by
  unfold State.dropJob State.noteTurn; dsimp only; split <;> rfl
@[simp] theorem State.dropJob_weeds (j : Job) : (s.dropJob j).weeds = s.weeds := by
  unfold State.dropJob State.noteTurn; dsimp only; split <;> rfl
@[simp] theorem State.dropJob_sweep (j : Job) : (s.dropJob j).sweep = s.sweep := by
  unfold State.dropJob State.noteTurn; dsimp only; split <;> rfl
@[simp] theorem State.dropJob_sweepFrom (j : Job) : (s.dropJob j).sweepFrom = s.sweepFrom := by
  unfold State.dropJob State.noteTurn; dsimp only; split <;> rfl
@[simp] theorem State.dropJob_late (j : Job) : (s.dropJob j).late = s.late := by
  unfold State.dropJob State.noteTurn; dsimp only; split <;> rfl
@[simp] theorem State.dropJob_old (j : Job) : (s.dropJob j).old = s.old := by
  unfold State.dropJob State.noteTurn; dsimp only; split <;> rfl
@[simp] theorem State.dropJob_fns (j : Job) : (s.dropJob j).fns = s.fns := by
  unfold State.dropJob State.noteTurn; dsimp only; split <;> rfl
@[simp] theorem State.dropJob_ports (j : Job) : (s.dropJob j).ports = s.ports := by
  unfold State.dropJob State.noteTurn; dsimp only; split <;> rfl
@[simp] theorem State.dropJob_heldReqs (j : Job) : (s.dropJob j).heldReqs = s.heldReqs := by
  unfold State.dropJob State.noteTurn; dsimp only; split <;> rfl
@[simp] theorem State.dropJob_answer (j : Job) : (s.dropJob j).answer = s.answer := by
  unfold State.dropJob State.noteTurn; dsimp only; split <;> rfl
@[simp] theorem State.dropJob_pkgLog (j : Job) : (s.dropJob j).pkgLog = s.pkgLog := by
  unfold State.dropJob State.noteTurn; dsimp only; split <;> rfl
@[simp] theorem State.dropJob_service (j : Job) : (s.dropJob j).service = s.service := by
  unfold State.dropJob State.noteTurn; dsimp only; split <;> rfl
@[simp] theorem State.dropJob_power (j : Job) : (s.dropJob j).power = s.power := by
  unfold State.dropJob State.noteTurn; dsimp only; split <;> rfl
@[simp] theorem State.dropJob_cur (j : Job) : (s.dropJob j).cur = s.cur := by
  unfold State.dropJob State.noteTurn; dsimp only; split <;> rfl
@[simp] theorem State.dropJob_agent (j : Job) : (s.dropJob j).agent = s.agent := by
  unfold State.dropJob State.noteTurn; dsimp only; split <;> rfl
@[simp] theorem State.dropJob_schedule (j : Job) : (s.dropJob j).schedule = s.schedule := by
  unfold State.dropJob State.noteTurn; dsimp only; split <;> rfl
@[simp] theorem State.dropJob_raised (j : Job) : (s.dropJob j).raised = s.raised := by
  unfold State.dropJob State.noteTurn; dsimp only; split <;> rfl
@[simp] theorem State.dropJob_tick (j : Job) : (s.dropJob j).tick = s.tick := by
  unfold State.dropJob State.noteTurn; dsimp only; split <;> rfl
@[simp] theorem State.dropJob_fresh (j : Job) : (s.dropJob j).fresh = s.fresh := by
  unfold State.dropJob State.noteTurn; dsimp only; split <;> rfl
@[simp] theorem State.dropJob_nextId (j : Job) : (s.dropJob j).nextId = s.nextId := by
  unfold State.dropJob State.noteTurn; dsimp only; split <;> rfl
@[simp] theorem State.dropJob_nextHandle (j : Job) : (s.dropJob j).nextHandle = s.nextHandle := by
  unfold State.dropJob State.noteTurn; dsimp only; split <;> rfl

/-! ### answered -/

@[simp] theorem State.answered_cycle (a : Answer) : (s.answered a).cycle = s.cycle := rfl
@[simp] theorem State.answered_timeAcc (a : Answer) : (s.answered a).timeAcc = s.timeAcc := rfl
@[simp] theorem State.answered_cores (a : Answer) : (s.answered a).cores = s.cores := rfl
@[simp] theorem State.answered_mem (a : Answer) : (s.answered a).mem = s.mem := rfl
@[simp] theorem State.answered_tags (a : Answer) : (s.answered a).tags = s.tags := rfl
@[simp] theorem State.answered_badUnits (a : Answer) : (s.answered a).badUnits = s.badUnits := rfl
@[simp] theorem State.answered_l2 (a : Answer) : (s.answered a).l2 = s.l2 := rfl
@[simp] theorem State.answered_tlb (a : Answer) : (s.answered a).tlb = s.tlb := rfl
@[simp] theorem State.answered_atc (a : Answer) : (s.answered a).atc = s.atc := rfl
@[simp] theorem State.answered_hostPerm (a : Answer) : (s.answered a).hostPerm = s.hostPerm := rfl
@[simp] theorem State.answered_hostFails (a : Answer) : (s.answered a).hostFails = s.hostFails := rfl
@[simp] theorem State.answered_walks (a : Answer) : (s.answered a).walks = s.walks := rfl
@[simp] theorem State.answered_walkTurn (a : Answer) : (s.answered a).walkTurn = s.walkTurn := rfl
@[simp] theorem State.answered_frames (a : Answer) : (s.answered a).frames = s.frames := rfl
@[simp] theorem State.answered_hostWords (a : Answer) : (s.answered a).hostWords = s.hostWords := rfl
@[simp] theorem State.answered_pageReqs (a : Answer) : (s.answered a).pageReqs = s.pageReqs := rfl
@[simp] theorem State.answered_images (a : Answer) : (s.answered a).images = s.images := rfl
@[simp] theorem State.answered_blocks (a : Answer) : (s.answered a).blocks = s.blocks := rfl
@[simp] theorem State.answered_bms (a : Answer) : (s.answered a).bms = s.bms := rfl
@[simp] theorem State.answered_counterOps (a : Answer) : (s.answered a).counterOps = s.counterOps := rfl
@[simp] theorem State.answered_hostOps (a : Answer) : (s.answered a).hostOps = s.hostOps := rfl
@[simp] theorem State.answered_slotStamps (a : Answer) : (s.answered a).slotStamps = s.slotStamps := rfl
@[simp] theorem State.answered_heldWrites (a : Answer) : (s.answered a).heldWrites = s.heldWrites := rfl
@[simp] theorem State.answered_sends (a : Answer) : (s.answered a).sends = s.sends := rfl
@[simp] theorem State.answered_taken (a : Answer) : (s.answered a).taken = s.taken := rfl
@[simp] theorem State.answered_polls (a : Answer) : (s.answered a).polls = s.polls := rfl
@[simp] theorem State.answered_spillReads (a : Answer) : (s.answered a).spillReads = s.spillReads := rfl
@[simp] theorem State.answered_watches (a : Answer) : (s.answered a).watches = s.watches := rfl
@[simp] theorem State.answered_cmds (a : Answer) : (s.answered a).cmds = s.cmds := rfl
@[simp] theorem State.answered_faulted (a : Answer) : (s.answered a).faulted = s.faulted := rfl
@[simp] theorem State.answered_xfer (a : Answer) : (s.answered a).xfer = s.xfer := rfl
@[simp] theorem State.answered_jobs (a : Answer) : (s.answered a).jobs = s.jobs := rfl
@[simp] theorem State.answered_mx (a : Answer) : (s.answered a).mx = s.mx := rfl
@[simp] theorem State.answered_flights (a : Answer) : (s.answered a).flights = s.flights := rfl
@[simp] theorem State.answered_gates (a : Answer) : (s.answered a).gates = s.gates := rfl
@[simp] theorem State.answered_tenants (a : Answer) : (s.answered a).tenants = s.tenants := rfl
@[simp] theorem State.answered_nodes (a : Answer) : (s.answered a).nodes = s.nodes := rfl
@[simp] theorem State.answered_slots (a : Answer) : (s.answered a).slots = s.slots := rfl
@[simp] theorem State.answered_weeds (a : Answer) : (s.answered a).weeds = s.weeds := rfl
@[simp] theorem State.answered_sweep (a : Answer) : (s.answered a).sweep = s.sweep := rfl
@[simp] theorem State.answered_sweepFrom (a : Answer) : (s.answered a).sweepFrom = s.sweepFrom := rfl
@[simp] theorem State.answered_late (a : Answer) : (s.answered a).late = s.late := rfl
@[simp] theorem State.answered_old (a : Answer) : (s.answered a).old = s.old := rfl
@[simp] theorem State.answered_fns (a : Answer) : (s.answered a).fns = s.fns := rfl
@[simp] theorem State.answered_ports (a : Answer) : (s.answered a).ports = s.ports := rfl
@[simp] theorem State.answered_heldReqs (a : Answer) : (s.answered a).heldReqs = s.heldReqs := rfl
@[simp] theorem State.answered_pkgLog (a : Answer) : (s.answered a).pkgLog = s.pkgLog := rfl
@[simp] theorem State.answered_service (a : Answer) : (s.answered a).service = s.service := rfl
@[simp] theorem State.answered_power (a : Answer) : (s.answered a).power = s.power := rfl
@[simp] theorem State.answered_cur (a : Answer) : (s.answered a).cur = s.cur := rfl
@[simp] theorem State.answered_agent (a : Answer) : (s.answered a).agent = s.agent := rfl
@[simp] theorem State.answered_schedule (a : Answer) : (s.answered a).schedule = s.schedule := rfl
@[simp] theorem State.answered_raised (a : Answer) : (s.answered a).raised = s.raised := rfl
@[simp] theorem State.answered_tick (a : Answer) : (s.answered a).tick = s.tick := rfl
@[simp] theorem State.answered_fresh (a : Answer) : (s.answered a).fresh = s.fresh := rfl
@[simp] theorem State.answered_nextId (a : Answer) : (s.answered a).nextId = s.nextId := rfl
@[simp] theorem State.answered_nextHandle (a : Answer) : (s.answered a).nextHandle = s.nextHandle := rfl

/-! ### zero -/

@[simp] theorem State.zero_cycle (lo hi : Nat) : (s.zero lo hi).cycle = s.cycle := rfl
@[simp] theorem State.zero_timeAcc (lo hi : Nat) : (s.zero lo hi).timeAcc = s.timeAcc := rfl
@[simp] theorem State.zero_cores (lo hi : Nat) : (s.zero lo hi).cores = s.cores := rfl
@[simp] theorem State.zero_badUnits (lo hi : Nat) : (s.zero lo hi).badUnits =
    s.badUnits.filter fun u => !(decide (lo ≤ 512 * u) && decide (512 * u + 512 ≤ hi)) := rfl
@[simp] theorem State.zero_l2 (lo hi : Nat) : (s.zero lo hi).l2 = s.l2 := rfl
@[simp] theorem State.zero_tlb (lo hi : Nat) : (s.zero lo hi).tlb = s.tlb := rfl
@[simp] theorem State.zero_atc (lo hi : Nat) : (s.zero lo hi).atc = s.atc := rfl
@[simp] theorem State.zero_hostPerm (lo hi : Nat) : (s.zero lo hi).hostPerm = s.hostPerm := rfl
@[simp] theorem State.zero_hostFails (lo hi : Nat) : (s.zero lo hi).hostFails = s.hostFails := rfl
@[simp] theorem State.zero_walks (lo hi : Nat) : (s.zero lo hi).walks = s.walks := rfl
@[simp] theorem State.zero_walkTurn (lo hi : Nat) : (s.zero lo hi).walkTurn = s.walkTurn := rfl
@[simp] theorem State.zero_frames (lo hi : Nat) : (s.zero lo hi).frames = s.frames := rfl
@[simp] theorem State.zero_hostWords (lo hi : Nat) : (s.zero lo hi).hostWords = s.hostWords := rfl
@[simp] theorem State.zero_pageReqs (lo hi : Nat) : (s.zero lo hi).pageReqs = s.pageReqs := rfl
@[simp] theorem State.zero_images (lo hi : Nat) : (s.zero lo hi).images = s.images := rfl
@[simp] theorem State.zero_blocks (lo hi : Nat) : (s.zero lo hi).blocks = s.blocks := rfl
@[simp] theorem State.zero_bms (lo hi : Nat) : (s.zero lo hi).bms = s.bms := rfl
@[simp] theorem State.zero_counterOps (lo hi : Nat) : (s.zero lo hi).counterOps = s.counterOps := rfl
@[simp] theorem State.zero_hostOps (lo hi : Nat) : (s.zero lo hi).hostOps = s.hostOps := rfl
@[simp] theorem State.zero_slotStamps (lo hi : Nat) : (s.zero lo hi).slotStamps = s.slotStamps := rfl
@[simp] theorem State.zero_heldWrites (lo hi : Nat) : (s.zero lo hi).heldWrites = s.heldWrites := rfl
@[simp] theorem State.zero_sends (lo hi : Nat) : (s.zero lo hi).sends = s.sends := rfl
@[simp] theorem State.zero_taken (lo hi : Nat) : (s.zero lo hi).taken = s.taken := rfl
@[simp] theorem State.zero_polls (lo hi : Nat) : (s.zero lo hi).polls = s.polls := rfl
@[simp] theorem State.zero_spillReads (lo hi : Nat) : (s.zero lo hi).spillReads = s.spillReads := rfl
@[simp] theorem State.zero_watches (lo hi : Nat) : (s.zero lo hi).watches = s.watches := rfl
@[simp] theorem State.zero_cmds (lo hi : Nat) : (s.zero lo hi).cmds = s.cmds := rfl
@[simp] theorem State.zero_faulted (lo hi : Nat) : (s.zero lo hi).faulted = s.faulted := rfl
@[simp] theorem State.zero_xfer (lo hi : Nat) : (s.zero lo hi).xfer = s.xfer := rfl
@[simp] theorem State.zero_jobs (lo hi : Nat) : (s.zero lo hi).jobs = s.jobs := rfl
@[simp] theorem State.zero_mx (lo hi : Nat) : (s.zero lo hi).mx = s.mx := rfl
@[simp] theorem State.zero_flights (lo hi : Nat) : (s.zero lo hi).flights = s.flights := rfl
@[simp] theorem State.zero_gates (lo hi : Nat) : (s.zero lo hi).gates = s.gates := rfl
@[simp] theorem State.zero_tenants (lo hi : Nat) : (s.zero lo hi).tenants = s.tenants := rfl
@[simp] theorem State.zero_nodes (lo hi : Nat) : (s.zero lo hi).nodes = s.nodes := rfl
@[simp] theorem State.zero_slots (lo hi : Nat) : (s.zero lo hi).slots = s.slots := rfl
@[simp] theorem State.zero_weeds (lo hi : Nat) : (s.zero lo hi).weeds = s.weeds := rfl
@[simp] theorem State.zero_sweep (lo hi : Nat) : (s.zero lo hi).sweep = s.sweep := rfl
@[simp] theorem State.zero_sweepFrom (lo hi : Nat) : (s.zero lo hi).sweepFrom = s.sweepFrom := rfl
@[simp] theorem State.zero_late (lo hi : Nat) : (s.zero lo hi).late = s.late := rfl
@[simp] theorem State.zero_old (lo hi : Nat) : (s.zero lo hi).old =
    s.old.filter fun o => !(decide (lo ≤ o.flat) && decide (o.flat < hi)) := rfl
@[simp] theorem State.zero_fns (lo hi : Nat) : (s.zero lo hi).fns = s.fns := rfl
@[simp] theorem State.zero_ports (lo hi : Nat) : (s.zero lo hi).ports = s.ports := rfl
@[simp] theorem State.zero_heldReqs (lo hi : Nat) : (s.zero lo hi).heldReqs = s.heldReqs := rfl
@[simp] theorem State.zero_answer (lo hi : Nat) : (s.zero lo hi).answer = s.answer := rfl
@[simp] theorem State.zero_pkgLog (lo hi : Nat) : (s.zero lo hi).pkgLog = s.pkgLog := rfl
@[simp] theorem State.zero_service (lo hi : Nat) : (s.zero lo hi).service = s.service := rfl
@[simp] theorem State.zero_power (lo hi : Nat) : (s.zero lo hi).power = s.power := rfl
@[simp] theorem State.zero_cur (lo hi : Nat) : (s.zero lo hi).cur = s.cur := rfl
@[simp] theorem State.zero_agent (lo hi : Nat) : (s.zero lo hi).agent = s.agent := rfl
@[simp] theorem State.zero_schedule (lo hi : Nat) : (s.zero lo hi).schedule = s.schedule := rfl
@[simp] theorem State.zero_raised (lo hi : Nat) : (s.zero lo hi).raised = s.raised := rfl
@[simp] theorem State.zero_tick (lo hi : Nat) : (s.zero lo hi).tick = s.tick := rfl
@[simp] theorem State.zero_fresh (lo hi : Nat) : (s.zero lo hi).fresh = s.fresh := rfl
@[simp] theorem State.zero_nextId (lo hi : Nat) : (s.zero lo hi).nextId = s.nextId := rfl
@[simp] theorem State.zero_nextHandle (lo hi : Nat) : (s.zero lo hi).nextHandle = s.nextHandle := rfl

/-! ### setPair -/

@[simp] theorem State.setPair_cycle (d : Nat) (p : Pair) : (s.setPair d p).cycle = s.cycle := rfl
@[simp] theorem State.setPair_timeAcc (d : Nat) (p : Pair) : (s.setPair d p).timeAcc = s.timeAcc := rfl
@[simp] theorem State.setPair_cores (d : Nat) (p : Pair) : (s.setPair d p).cores = s.cores := rfl
@[simp] theorem State.setPair_mem (d : Nat) (p : Pair) : (s.setPair d p).mem = s.mem := rfl
@[simp] theorem State.setPair_tags (d : Nat) (p : Pair) : (s.setPair d p).tags = s.tags := rfl
@[simp] theorem State.setPair_badUnits (d : Nat) (p : Pair) : (s.setPair d p).badUnits = s.badUnits := rfl
@[simp] theorem State.setPair_l2 (d : Nat) (p : Pair) : (s.setPair d p).l2 = s.l2 := rfl
@[simp] theorem State.setPair_tlb (d : Nat) (p : Pair) : (s.setPair d p).tlb = s.tlb := rfl
@[simp] theorem State.setPair_atc (d : Nat) (p : Pair) : (s.setPair d p).atc = s.atc := rfl
@[simp] theorem State.setPair_hostPerm (d : Nat) (p : Pair) : (s.setPair d p).hostPerm = s.hostPerm := rfl
@[simp] theorem State.setPair_hostFails (d : Nat) (p : Pair) : (s.setPair d p).hostFails = s.hostFails := rfl
@[simp] theorem State.setPair_walks (d : Nat) (p : Pair) : (s.setPair d p).walks = s.walks := rfl
@[simp] theorem State.setPair_walkTurn (d : Nat) (p : Pair) : (s.setPair d p).walkTurn = s.walkTurn := rfl
@[simp] theorem State.setPair_frames (d : Nat) (p : Pair) : (s.setPair d p).frames = s.frames := rfl
@[simp] theorem State.setPair_hostWords (d : Nat) (p : Pair) : (s.setPair d p).hostWords = s.hostWords := rfl
@[simp] theorem State.setPair_pageReqs (d : Nat) (p : Pair) : (s.setPair d p).pageReqs = s.pageReqs := rfl
@[simp] theorem State.setPair_images (d : Nat) (p : Pair) : (s.setPair d p).images = s.images := rfl
@[simp] theorem State.setPair_blocks (d : Nat) (p : Pair) : (s.setPair d p).blocks = s.blocks := rfl
@[simp] theorem State.setPair_bms (d : Nat) (p : Pair) : (s.setPair d p).bms = s.bms := rfl
@[simp] theorem State.setPair_counterOps (d : Nat) (p : Pair) : (s.setPair d p).counterOps = s.counterOps := rfl
@[simp] theorem State.setPair_hostOps (d : Nat) (p : Pair) : (s.setPair d p).hostOps = s.hostOps := rfl
@[simp] theorem State.setPair_slotStamps (d : Nat) (p : Pair) : (s.setPair d p).slotStamps = s.slotStamps := rfl
@[simp] theorem State.setPair_heldWrites (d : Nat) (p : Pair) : (s.setPair d p).heldWrites = s.heldWrites := rfl
@[simp] theorem State.setPair_sends (d : Nat) (p : Pair) : (s.setPair d p).sends = s.sends := rfl
@[simp] theorem State.setPair_taken (d : Nat) (p : Pair) : (s.setPair d p).taken = s.taken := rfl
@[simp] theorem State.setPair_polls (d : Nat) (p : Pair) : (s.setPair d p).polls = s.polls := rfl
@[simp] theorem State.setPair_spillReads (d : Nat) (p : Pair) : (s.setPair d p).spillReads = s.spillReads := rfl
@[simp] theorem State.setPair_watches (d : Nat) (p : Pair) : (s.setPair d p).watches = s.watches := rfl
@[simp] theorem State.setPair_cmds (d : Nat) (p : Pair) : (s.setPair d p).cmds = s.cmds := rfl
@[simp] theorem State.setPair_faulted (d : Nat) (p : Pair) : (s.setPair d p).faulted = s.faulted := rfl
@[simp] theorem State.setPair_xfer (d : Nat) (p : Pair) : (s.setPair d p).xfer = s.xfer := rfl
@[simp] theorem State.setPair_jobs (d : Nat) (p : Pair) : (s.setPair d p).jobs = s.jobs := rfl
@[simp] theorem State.setPair_mx (d : Nat) (p : Pair) : (s.setPair d p).mx = s.mx := rfl
@[simp] theorem State.setPair_flights (d : Nat) (p : Pair) : (s.setPair d p).flights = s.flights := rfl
@[simp] theorem State.setPair_gates (d : Nat) (p : Pair) : (s.setPair d p).gates = s.gates := rfl
@[simp] theorem State.setPair_tenants (d : Nat) (p : Pair) : (s.setPair d p).tenants = s.tenants := rfl
@[simp] theorem State.setPair_nodes (d : Nat) (p : Pair) : (s.setPair d p).nodes = s.nodes := rfl
@[simp] theorem State.setPair_slots (d : Nat) (p : Pair) : (s.setPair d p).slots = s.slots := rfl
@[simp] theorem State.setPair_weeds (d : Nat) (p : Pair) : (s.setPair d p).weeds = s.weeds := rfl
@[simp] theorem State.setPair_sweep (d : Nat) (p : Pair) : (s.setPair d p).sweep = s.sweep := rfl
@[simp] theorem State.setPair_sweepFrom (d : Nat) (p : Pair) : (s.setPair d p).sweepFrom = s.sweepFrom := rfl
@[simp] theorem State.setPair_late (d : Nat) (p : Pair) : (s.setPair d p).late = s.late := rfl
@[simp] theorem State.setPair_old (d : Nat) (p : Pair) : (s.setPair d p).old = s.old := rfl
@[simp] theorem State.setPair_fns (d : Nat) (p : Pair) : (s.setPair d p).fns = s.fns := rfl
@[simp] theorem State.setPair_ports (d : Nat) (p : Pair) : (s.setPair d p).ports = s.ports := rfl
@[simp] theorem State.setPair_heldReqs (d : Nat) (p : Pair) : (s.setPair d p).heldReqs = s.heldReqs := rfl
@[simp] theorem State.setPair_answer (d : Nat) (p : Pair) : (s.setPair d p).answer = s.answer := rfl
@[simp] theorem State.setPair_pkgLog (d : Nat) (p : Pair) : (s.setPair d p).pkgLog = s.pkgLog := rfl
@[simp] theorem State.setPair_power (d : Nat) (p : Pair) : (s.setPair d p).power = s.power := rfl
@[simp] theorem State.setPair_cur (d : Nat) (p : Pair) : (s.setPair d p).cur = s.cur := rfl
@[simp] theorem State.setPair_agent (d : Nat) (p : Pair) : (s.setPair d p).agent = s.agent := rfl
@[simp] theorem State.setPair_schedule (d : Nat) (p : Pair) : (s.setPair d p).schedule = s.schedule := rfl
@[simp] theorem State.setPair_raised (d : Nat) (p : Pair) : (s.setPair d p).raised = s.raised := rfl
@[simp] theorem State.setPair_tick (d : Nat) (p : Pair) : (s.setPair d p).tick = s.tick := rfl
@[simp] theorem State.setPair_fresh (d : Nat) (p : Pair) : (s.setPair d p).fresh = s.fresh := rfl
@[simp] theorem State.setPair_nextId (d : Nat) (p : Pair) : (s.setPair d p).nextId = s.nextId := rfl
@[simp] theorem State.setPair_nextHandle (d : Nat) (p : Pair) : (s.setPair d p).nextHandle = s.nextHandle := rfl

/-! ### ordered -/

@[simp] theorem State.ordered_cycle (c : Scope) (k t : Nat) : (s.ordered c k t).cycle = s.cycle := rfl
@[simp] theorem State.ordered_timeAcc (c : Scope) (k t : Nat) : (s.ordered c k t).timeAcc = s.timeAcc := rfl
@[simp] theorem State.ordered_cores (c : Scope) (k t : Nat) : (s.ordered c k t).cores = s.cores := rfl
@[simp] theorem State.ordered_mem (c : Scope) (k t : Nat) : (s.ordered c k t).mem = s.mem := rfl
@[simp] theorem State.ordered_tags (c : Scope) (k t : Nat) : (s.ordered c k t).tags = s.tags := rfl
@[simp] theorem State.ordered_badUnits (c : Scope) (k t : Nat) : (s.ordered c k t).badUnits = s.badUnits := rfl
@[simp] theorem State.ordered_l2 (c : Scope) (k t : Nat) : (s.ordered c k t).l2 = s.l2 := rfl
@[simp] theorem State.ordered_tlb (c : Scope) (k t : Nat) : (s.ordered c k t).tlb = s.tlb := rfl
@[simp] theorem State.ordered_atc (c : Scope) (k t : Nat) : (s.ordered c k t).atc = s.atc := rfl
@[simp] theorem State.ordered_hostPerm (c : Scope) (k t : Nat) : (s.ordered c k t).hostPerm = s.hostPerm := rfl
@[simp] theorem State.ordered_hostFails (c : Scope) (k t : Nat) : (s.ordered c k t).hostFails = s.hostFails := rfl
@[simp] theorem State.ordered_walks (c : Scope) (k t : Nat) : (s.ordered c k t).walks = s.walks := rfl
@[simp] theorem State.ordered_walkTurn (c : Scope) (k t : Nat) : (s.ordered c k t).walkTurn = s.walkTurn := rfl
@[simp] theorem State.ordered_frames (c : Scope) (k t : Nat) : (s.ordered c k t).frames = s.frames := rfl
@[simp] theorem State.ordered_hostWords (c : Scope) (k t : Nat) : (s.ordered c k t).hostWords = s.hostWords := rfl
@[simp] theorem State.ordered_pageReqs (c : Scope) (k t : Nat) : (s.ordered c k t).pageReqs = s.pageReqs := rfl
@[simp] theorem State.ordered_images (c : Scope) (k t : Nat) : (s.ordered c k t).images = s.images := rfl
@[simp] theorem State.ordered_blocks (c : Scope) (k t : Nat) : (s.ordered c k t).blocks = s.blocks := rfl
@[simp] theorem State.ordered_bms (c : Scope) (k t : Nat) : (s.ordered c k t).bms = s.bms := rfl
@[simp] theorem State.ordered_counterOps (c : Scope) (k t : Nat) : (s.ordered c k t).counterOps = s.counterOps := rfl
@[simp] theorem State.ordered_hostOps (c : Scope) (k t : Nat) : (s.ordered c k t).hostOps = s.hostOps := rfl
@[simp] theorem State.ordered_slotStamps (c : Scope) (k t : Nat) : (s.ordered c k t).slotStamps = s.slotStamps := rfl
@[simp] theorem State.ordered_heldWrites (c : Scope) (k t : Nat) : (s.ordered c k t).heldWrites = s.heldWrites := rfl
@[simp] theorem State.ordered_sends (c : Scope) (k t : Nat) : (s.ordered c k t).sends = s.sends := rfl
@[simp] theorem State.ordered_taken (c : Scope) (k t : Nat) : (s.ordered c k t).taken = s.taken := rfl
@[simp] theorem State.ordered_polls (c : Scope) (k t : Nat) : (s.ordered c k t).polls = s.polls := rfl
@[simp] theorem State.ordered_spillReads (c : Scope) (k t : Nat) : (s.ordered c k t).spillReads = s.spillReads := rfl
@[simp] theorem State.ordered_watches (c : Scope) (k t : Nat) : (s.ordered c k t).watches = s.watches := rfl
@[simp] theorem State.ordered_cmds (c : Scope) (k t : Nat) : (s.ordered c k t).cmds = s.cmds := rfl
@[simp] theorem State.ordered_faulted (c : Scope) (k t : Nat) : (s.ordered c k t).faulted = s.faulted := rfl
@[simp] theorem State.ordered_xfer (c : Scope) (k t : Nat) : (s.ordered c k t).xfer = s.xfer := rfl
@[simp] theorem State.ordered_jobs (c : Scope) (k t : Nat) : (s.ordered c k t).jobs = s.jobs := rfl
@[simp] theorem State.ordered_mx (c : Scope) (k t : Nat) : (s.ordered c k t).mx = s.mx := rfl
@[simp] theorem State.ordered_flights (c : Scope) (k t : Nat) : (s.ordered c k t).flights = s.flights := rfl
@[simp] theorem State.ordered_gates (c : Scope) (k t : Nat) : (s.ordered c k t).gates = s.gates := rfl
@[simp] theorem State.ordered_tenants (c : Scope) (k t : Nat) : (s.ordered c k t).tenants = s.tenants := rfl
@[simp] theorem State.ordered_nodes (c : Scope) (k t : Nat) : (s.ordered c k t).nodes = s.nodes := rfl
@[simp] theorem State.ordered_slots (c : Scope) (k t : Nat) : (s.ordered c k t).slots = s.slots := rfl
@[simp] theorem State.ordered_weeds (c : Scope) (k t : Nat) : (s.ordered c k t).weeds = s.weeds := rfl
@[simp] theorem State.ordered_sweep (c : Scope) (k t : Nat) : (s.ordered c k t).sweep = s.sweep := rfl
@[simp] theorem State.ordered_sweepFrom (c : Scope) (k t : Nat) : (s.ordered c k t).sweepFrom = s.sweepFrom := rfl
@[simp] theorem State.ordered_late (c : Scope) (k t : Nat) : (s.ordered c k t).late = s.late := rfl
@[simp] theorem State.ordered_fns (c : Scope) (k t : Nat) : (s.ordered c k t).fns = s.fns := rfl
@[simp] theorem State.ordered_heldReqs (c : Scope) (k t : Nat) : (s.ordered c k t).heldReqs = s.heldReqs := rfl
@[simp] theorem State.ordered_answer (c : Scope) (k t : Nat) : (s.ordered c k t).answer = s.answer := rfl
@[simp] theorem State.ordered_pkgLog (c : Scope) (k t : Nat) : (s.ordered c k t).pkgLog = s.pkgLog := rfl
@[simp] theorem State.ordered_service (c : Scope) (k t : Nat) : (s.ordered c k t).service = s.service := rfl
@[simp] theorem State.ordered_power (c : Scope) (k t : Nat) : (s.ordered c k t).power = s.power := rfl
@[simp] theorem State.ordered_cur (c : Scope) (k t : Nat) : (s.ordered c k t).cur = s.cur := rfl
@[simp] theorem State.ordered_agent (c : Scope) (k t : Nat) : (s.ordered c k t).agent = s.agent := rfl
@[simp] theorem State.ordered_schedule (c : Scope) (k t : Nat) : (s.ordered c k t).schedule = s.schedule := rfl
@[simp] theorem State.ordered_raised (c : Scope) (k t : Nat) : (s.ordered c k t).raised = s.raised := rfl
@[simp] theorem State.ordered_tick (c : Scope) (k t : Nat) : (s.ordered c k t).tick = s.tick := rfl
@[simp] theorem State.ordered_fresh (c : Scope) (k t : Nat) : (s.ordered c k t).fresh = s.fresh := rfl
@[simp] theorem State.ordered_nextId (c : Scope) (k t : Nat) : (s.ordered c k t).nextId = s.nextId := rfl
@[simp] theorem State.ordered_nextHandle (c : Scope) (k t : Nat) : (s.ordered c k t).nextHandle = s.nextHandle := rfl
@[simp] theorem State.ordered_ports (c : Scope) (k t : Nat) : (s.ordered c k t).ports = s.ports := rfl
@[simp] theorem State.core_ordered (c : Scope) (k t : Nat) (n : Nat) : (s.ordered c k t).core n = s.core n := rfl
@[simp] theorem State.tenant_ordered (c : Scope) (k t : Nat) (n : Nat) : (s.ordered c k t).tenant n = s.tenant n := rfl
@[simp] theorem State.fn_ordered (c : Scope) (k t : Nat) (n : Nat) : (s.ordered c k t).fn n = s.fn n := rfl
@[simp] theorem State.port_ordered (c : Scope) (k t : Nat) (n : Nat) : (s.ordered c k t).port n = s.port n := rfl
@[simp] theorem State.node_ordered (c : Scope) (k t : Nat) (n : Nat) : (s.ordered c k t).node n = s.node n := rfl
@[simp] theorem State.slot_ordered (c : Scope) (k t : Nat) (n : Nat) : (s.ordered c k t).slot n = s.slot n := rfl
@[simp] theorem State.gen_ordered (c : Scope) (k t : Nat) (n : Nat) : (s.ordered c k t).gen n = s.gen n := rfl

/-! ### byHost -/

@[simp] theorem State.byHost_cycle (ps : List Place) : (s.byHost ps).cycle = s.cycle := rfl
@[simp] theorem State.byHost_timeAcc (ps : List Place) : (s.byHost ps).timeAcc = s.timeAcc := rfl
@[simp] theorem State.byHost_cores (ps : List Place) : (s.byHost ps).cores = s.cores := rfl
@[simp] theorem State.byHost_mem (ps : List Place) : (s.byHost ps).mem = s.mem := rfl
@[simp] theorem State.byHost_tags (ps : List Place) : (s.byHost ps).tags = s.tags := rfl
@[simp] theorem State.byHost_badUnits (ps : List Place) : (s.byHost ps).badUnits = s.badUnits := rfl
@[simp] theorem State.byHost_l2 (ps : List Place) : (s.byHost ps).l2 = s.l2 := rfl
@[simp] theorem State.byHost_tlb (ps : List Place) : (s.byHost ps).tlb = s.tlb := rfl
@[simp] theorem State.byHost_atc (ps : List Place) : (s.byHost ps).atc = s.atc := rfl
@[simp] theorem State.byHost_hostPerm (ps : List Place) : (s.byHost ps).hostPerm = s.hostPerm := rfl
@[simp] theorem State.byHost_hostFails (ps : List Place) : (s.byHost ps).hostFails = s.hostFails := rfl
@[simp] theorem State.byHost_walks (ps : List Place) : (s.byHost ps).walks = s.walks := rfl
@[simp] theorem State.byHost_walkTurn (ps : List Place) : (s.byHost ps).walkTurn = s.walkTurn := rfl
@[simp] theorem State.byHost_frames (ps : List Place) : (s.byHost ps).frames = s.frames := rfl
@[simp] theorem State.byHost_hostWords (ps : List Place) : (s.byHost ps).hostWords = s.hostWords := rfl
@[simp] theorem State.byHost_pageReqs (ps : List Place) : (s.byHost ps).pageReqs = s.pageReqs := rfl
@[simp] theorem State.byHost_images (ps : List Place) : (s.byHost ps).images = s.images := rfl
@[simp] theorem State.byHost_blocks (ps : List Place) : (s.byHost ps).blocks = s.blocks := rfl
@[simp] theorem State.byHost_bms (ps : List Place) : (s.byHost ps).bms = s.bms := rfl
@[simp] theorem State.byHost_counterOps (ps : List Place) : (s.byHost ps).counterOps = s.counterOps := rfl
@[simp] theorem State.byHost_hostOps (ps : List Place) : (s.byHost ps).hostOps = s.hostOps := rfl
@[simp] theorem State.byHost_slotStamps (ps : List Place) : (s.byHost ps).slotStamps = s.slotStamps := rfl
@[simp] theorem State.byHost_heldWrites (ps : List Place) : (s.byHost ps).heldWrites = s.heldWrites := rfl
@[simp] theorem State.byHost_sends (ps : List Place) : (s.byHost ps).sends = s.sends := rfl
@[simp] theorem State.byHost_taken (ps : List Place) : (s.byHost ps).taken = s.taken := rfl
@[simp] theorem State.byHost_polls (ps : List Place) : (s.byHost ps).polls = s.polls := rfl
@[simp] theorem State.byHost_spillReads (ps : List Place) : (s.byHost ps).spillReads = s.spillReads := rfl
@[simp] theorem State.byHost_watches (ps : List Place) : (s.byHost ps).watches = s.watches := rfl
@[simp] theorem State.byHost_cmds (ps : List Place) : (s.byHost ps).cmds = s.cmds := rfl
@[simp] theorem State.byHost_faulted (ps : List Place) : (s.byHost ps).faulted = s.faulted := rfl
@[simp] theorem State.byHost_xfer (ps : List Place) : (s.byHost ps).xfer = s.xfer := rfl
@[simp] theorem State.byHost_jobs (ps : List Place) : (s.byHost ps).jobs = s.jobs := rfl
@[simp] theorem State.byHost_mx (ps : List Place) : (s.byHost ps).mx = s.mx := rfl
@[simp] theorem State.byHost_flights (ps : List Place) : (s.byHost ps).flights = s.flights := rfl
@[simp] theorem State.byHost_gates (ps : List Place) : (s.byHost ps).gates = s.gates := rfl
@[simp] theorem State.byHost_tenants (ps : List Place) : (s.byHost ps).tenants = s.tenants := rfl
@[simp] theorem State.byHost_nodes (ps : List Place) : (s.byHost ps).nodes = s.nodes := rfl
@[simp] theorem State.byHost_slots (ps : List Place) : (s.byHost ps).slots = s.slots := rfl
@[simp] theorem State.byHost_weeds (ps : List Place) : (s.byHost ps).weeds = s.weeds := rfl
@[simp] theorem State.byHost_sweep (ps : List Place) : (s.byHost ps).sweep = s.sweep := rfl
@[simp] theorem State.byHost_sweepFrom (ps : List Place) : (s.byHost ps).sweepFrom = s.sweepFrom := rfl
@[simp] theorem State.byHost_late (ps : List Place) : (s.byHost ps).late = s.late := rfl
@[simp] theorem State.byHost_fns (ps : List Place) : (s.byHost ps).fns = s.fns := rfl
@[simp] theorem State.byHost_heldReqs (ps : List Place) : (s.byHost ps).heldReqs = s.heldReqs := rfl
@[simp] theorem State.byHost_answer (ps : List Place) : (s.byHost ps).answer = s.answer := rfl
@[simp] theorem State.byHost_pkgLog (ps : List Place) : (s.byHost ps).pkgLog = s.pkgLog := rfl
@[simp] theorem State.byHost_service (ps : List Place) : (s.byHost ps).service = s.service := rfl
@[simp] theorem State.byHost_power (ps : List Place) : (s.byHost ps).power = s.power := rfl
@[simp] theorem State.byHost_cur (ps : List Place) : (s.byHost ps).cur = s.cur := rfl
@[simp] theorem State.byHost_agent (ps : List Place) : (s.byHost ps).agent = s.agent := rfl
@[simp] theorem State.byHost_schedule (ps : List Place) : (s.byHost ps).schedule = s.schedule := rfl
@[simp] theorem State.byHost_raised (ps : List Place) : (s.byHost ps).raised = s.raised := rfl
@[simp] theorem State.byHost_tick (ps : List Place) : (s.byHost ps).tick = s.tick := rfl
@[simp] theorem State.byHost_fresh (ps : List Place) : (s.byHost ps).fresh = s.fresh := rfl
@[simp] theorem State.byHost_nextId (ps : List Place) : (s.byHost ps).nextId = s.nextId := rfl
@[simp] theorem State.byHost_nextHandle (ps : List Place) : (s.byHost ps).nextHandle = s.nextHandle := rfl
@[simp] theorem State.byHost_ports (ps : List Place) : (s.byHost ps).ports = s.ports := rfl
@[simp] theorem State.core_byHost (ps : List Place) (n : Nat) : (s.byHost ps).core n = s.core n := rfl
@[simp] theorem State.tenant_byHost (ps : List Place) (n : Nat) : (s.byHost ps).tenant n = s.tenant n := rfl
@[simp] theorem State.fn_byHost (ps : List Place) (n : Nat) : (s.byHost ps).fn n = s.fn n := rfl
@[simp] theorem State.port_byHost (ps : List Place) (n : Nat) : (s.byHost ps).port n = s.port n := rfl
@[simp] theorem State.node_byHost (ps : List Place) (n : Nat) : (s.byHost ps).node n = s.node n := rfl
@[simp] theorem State.slot_byHost (ps : List Place) (n : Nat) : (s.byHost ps).slot n = s.slot n := rfl
@[simp] theorem State.gen_byHost (ps : List Place) (n : Nat) : (s.byHost ps).gen n = s.gen n := rfl

/-! ### seenBy -/

@[simp] theorem State.seenBy_cycle (u : Nat) (ps : List Place) : (s.seenBy u ps).cycle = s.cycle := rfl
@[simp] theorem State.seenBy_timeAcc (u : Nat) (ps : List Place) : (s.seenBy u ps).timeAcc = s.timeAcc := rfl
@[simp] theorem State.seenBy_cores (u : Nat) (ps : List Place) : (s.seenBy u ps).cores = s.cores := rfl
@[simp] theorem State.seenBy_mem (u : Nat) (ps : List Place) : (s.seenBy u ps).mem = s.mem := rfl
@[simp] theorem State.seenBy_tags (u : Nat) (ps : List Place) : (s.seenBy u ps).tags = s.tags := rfl
@[simp] theorem State.seenBy_badUnits (u : Nat) (ps : List Place) : (s.seenBy u ps).badUnits = s.badUnits := rfl
@[simp] theorem State.seenBy_l2 (u : Nat) (ps : List Place) : (s.seenBy u ps).l2 = s.l2 := rfl
@[simp] theorem State.seenBy_tlb (u : Nat) (ps : List Place) : (s.seenBy u ps).tlb = s.tlb := rfl
@[simp] theorem State.seenBy_atc (u : Nat) (ps : List Place) : (s.seenBy u ps).atc = s.atc := rfl
@[simp] theorem State.seenBy_hostPerm (u : Nat) (ps : List Place) : (s.seenBy u ps).hostPerm = s.hostPerm := rfl
@[simp] theorem State.seenBy_hostFails (u : Nat) (ps : List Place) : (s.seenBy u ps).hostFails = s.hostFails := rfl
@[simp] theorem State.seenBy_walks (u : Nat) (ps : List Place) : (s.seenBy u ps).walks = s.walks := rfl
@[simp] theorem State.seenBy_walkTurn (u : Nat) (ps : List Place) : (s.seenBy u ps).walkTurn = s.walkTurn := rfl
@[simp] theorem State.seenBy_frames (u : Nat) (ps : List Place) : (s.seenBy u ps).frames = s.frames := rfl
@[simp] theorem State.seenBy_hostWords (u : Nat) (ps : List Place) : (s.seenBy u ps).hostWords = s.hostWords := rfl
@[simp] theorem State.seenBy_pageReqs (u : Nat) (ps : List Place) : (s.seenBy u ps).pageReqs = s.pageReqs := rfl
@[simp] theorem State.seenBy_images (u : Nat) (ps : List Place) : (s.seenBy u ps).images = s.images := rfl
@[simp] theorem State.seenBy_blocks (u : Nat) (ps : List Place) : (s.seenBy u ps).blocks = s.blocks := rfl
@[simp] theorem State.seenBy_bms (u : Nat) (ps : List Place) : (s.seenBy u ps).bms = s.bms := rfl
@[simp] theorem State.seenBy_counterOps (u : Nat) (ps : List Place) : (s.seenBy u ps).counterOps = s.counterOps := rfl
@[simp] theorem State.seenBy_hostOps (u : Nat) (ps : List Place) : (s.seenBy u ps).hostOps = s.hostOps := rfl
@[simp] theorem State.seenBy_slotStamps (u : Nat) (ps : List Place) : (s.seenBy u ps).slotStamps = s.slotStamps := rfl
@[simp] theorem State.seenBy_heldWrites (u : Nat) (ps : List Place) : (s.seenBy u ps).heldWrites = s.heldWrites := rfl
@[simp] theorem State.seenBy_sends (u : Nat) (ps : List Place) : (s.seenBy u ps).sends = s.sends := rfl
@[simp] theorem State.seenBy_taken (u : Nat) (ps : List Place) : (s.seenBy u ps).taken = s.taken := rfl
@[simp] theorem State.seenBy_polls (u : Nat) (ps : List Place) : (s.seenBy u ps).polls = s.polls := rfl
@[simp] theorem State.seenBy_spillReads (u : Nat) (ps : List Place) : (s.seenBy u ps).spillReads = s.spillReads := rfl
@[simp] theorem State.seenBy_watches (u : Nat) (ps : List Place) : (s.seenBy u ps).watches = s.watches := rfl
@[simp] theorem State.seenBy_cmds (u : Nat) (ps : List Place) : (s.seenBy u ps).cmds = s.cmds := rfl
@[simp] theorem State.seenBy_faulted (u : Nat) (ps : List Place) : (s.seenBy u ps).faulted = s.faulted := rfl
@[simp] theorem State.seenBy_xfer (u : Nat) (ps : List Place) : (s.seenBy u ps).xfer = s.xfer := rfl
@[simp] theorem State.seenBy_jobs (u : Nat) (ps : List Place) : (s.seenBy u ps).jobs = s.jobs := rfl
@[simp] theorem State.seenBy_mx (u : Nat) (ps : List Place) : (s.seenBy u ps).mx = s.mx := rfl
@[simp] theorem State.seenBy_flights (u : Nat) (ps : List Place) : (s.seenBy u ps).flights = s.flights := rfl
@[simp] theorem State.seenBy_gates (u : Nat) (ps : List Place) : (s.seenBy u ps).gates = s.gates := rfl
@[simp] theorem State.seenBy_tenants (u : Nat) (ps : List Place) : (s.seenBy u ps).tenants = s.tenants := rfl
@[simp] theorem State.seenBy_nodes (u : Nat) (ps : List Place) : (s.seenBy u ps).nodes = s.nodes := rfl
@[simp] theorem State.seenBy_slots (u : Nat) (ps : List Place) : (s.seenBy u ps).slots = s.slots := rfl
@[simp] theorem State.seenBy_weeds (u : Nat) (ps : List Place) : (s.seenBy u ps).weeds = s.weeds := rfl
@[simp] theorem State.seenBy_sweep (u : Nat) (ps : List Place) : (s.seenBy u ps).sweep = s.sweep := rfl
@[simp] theorem State.seenBy_sweepFrom (u : Nat) (ps : List Place) : (s.seenBy u ps).sweepFrom = s.sweepFrom := rfl
@[simp] theorem State.seenBy_late (u : Nat) (ps : List Place) : (s.seenBy u ps).late = s.late := rfl
@[simp] theorem State.seenBy_fns (u : Nat) (ps : List Place) : (s.seenBy u ps).fns = s.fns := rfl
@[simp] theorem State.seenBy_heldReqs (u : Nat) (ps : List Place) : (s.seenBy u ps).heldReqs = s.heldReqs := rfl
@[simp] theorem State.seenBy_answer (u : Nat) (ps : List Place) : (s.seenBy u ps).answer = s.answer := rfl
@[simp] theorem State.seenBy_pkgLog (u : Nat) (ps : List Place) : (s.seenBy u ps).pkgLog = s.pkgLog := rfl
@[simp] theorem State.seenBy_service (u : Nat) (ps : List Place) : (s.seenBy u ps).service = s.service := rfl
@[simp] theorem State.seenBy_power (u : Nat) (ps : List Place) : (s.seenBy u ps).power = s.power := rfl
@[simp] theorem State.seenBy_cur (u : Nat) (ps : List Place) : (s.seenBy u ps).cur = s.cur := rfl
@[simp] theorem State.seenBy_agent (u : Nat) (ps : List Place) : (s.seenBy u ps).agent = s.agent := rfl
@[simp] theorem State.seenBy_schedule (u : Nat) (ps : List Place) : (s.seenBy u ps).schedule = s.schedule := rfl
@[simp] theorem State.seenBy_raised (u : Nat) (ps : List Place) : (s.seenBy u ps).raised = s.raised := rfl
@[simp] theorem State.seenBy_tick (u : Nat) (ps : List Place) : (s.seenBy u ps).tick = s.tick := rfl
@[simp] theorem State.seenBy_fresh (u : Nat) (ps : List Place) : (s.seenBy u ps).fresh = s.fresh := rfl
@[simp] theorem State.seenBy_nextId (u : Nat) (ps : List Place) : (s.seenBy u ps).nextId = s.nextId := rfl
@[simp] theorem State.seenBy_nextHandle (u : Nat) (ps : List Place) : (s.seenBy u ps).nextHandle = s.nextHandle := rfl
@[simp] theorem State.seenBy_ports (u : Nat) (ps : List Place) : (s.seenBy u ps).ports = s.ports := rfl
@[simp] theorem State.core_seenBy (u : Nat) (ps : List Place) (n : Nat) : (s.seenBy u ps).core n = s.core n := rfl
@[simp] theorem State.tenant_seenBy (u : Nat) (ps : List Place) (n : Nat) : (s.seenBy u ps).tenant n = s.tenant n := rfl
@[simp] theorem State.fn_seenBy (u : Nat) (ps : List Place) (n : Nat) : (s.seenBy u ps).fn n = s.fn n := rfl
@[simp] theorem State.port_seenBy (u : Nat) (ps : List Place) (n : Nat) : (s.seenBy u ps).port n = s.port n := rfl
@[simp] theorem State.node_seenBy (u : Nat) (ps : List Place) (n : Nat) : (s.seenBy u ps).node n = s.node n := rfl
@[simp] theorem State.slot_seenBy (u : Nat) (ps : List Place) (n : Nat) : (s.seenBy u ps).slot n = s.slot n := rfl
@[simp] theorem State.gen_seenBy (u : Nat) (ps : List Place) (n : Nat) : (s.seenBy u ps).gen n = s.gen n := rfl

/-! ### keepOld -/

@[simp] theorem State.keepOld_cycle (b : State) (t : Nat) (ps : List Place) : (s.keepOld b t ps).cycle = s.cycle := rfl
@[simp] theorem State.keepOld_timeAcc (b : State) (t : Nat) (ps : List Place) : (s.keepOld b t ps).timeAcc = s.timeAcc := rfl
@[simp] theorem State.keepOld_cores (b : State) (t : Nat) (ps : List Place) : (s.keepOld b t ps).cores = s.cores := rfl
@[simp] theorem State.keepOld_mem (b : State) (t : Nat) (ps : List Place) : (s.keepOld b t ps).mem = s.mem := rfl
@[simp] theorem State.keepOld_tags (b : State) (t : Nat) (ps : List Place) : (s.keepOld b t ps).tags = s.tags := rfl
@[simp] theorem State.keepOld_badUnits (b : State) (t : Nat) (ps : List Place) : (s.keepOld b t ps).badUnits = s.badUnits := rfl
@[simp] theorem State.keepOld_l2 (b : State) (t : Nat) (ps : List Place) : (s.keepOld b t ps).l2 = s.l2 := rfl
@[simp] theorem State.keepOld_tlb (b : State) (t : Nat) (ps : List Place) : (s.keepOld b t ps).tlb = s.tlb := rfl
@[simp] theorem State.keepOld_atc (b : State) (t : Nat) (ps : List Place) : (s.keepOld b t ps).atc = s.atc := rfl
@[simp] theorem State.keepOld_hostPerm (b : State) (t : Nat) (ps : List Place) : (s.keepOld b t ps).hostPerm = s.hostPerm := rfl
@[simp] theorem State.keepOld_hostFails (b : State) (t : Nat) (ps : List Place) : (s.keepOld b t ps).hostFails = s.hostFails := rfl
@[simp] theorem State.keepOld_walks (b : State) (t : Nat) (ps : List Place) : (s.keepOld b t ps).walks = s.walks := rfl
@[simp] theorem State.keepOld_walkTurn (b : State) (t : Nat) (ps : List Place) : (s.keepOld b t ps).walkTurn = s.walkTurn := rfl
@[simp] theorem State.keepOld_frames (b : State) (t : Nat) (ps : List Place) : (s.keepOld b t ps).frames = s.frames := rfl
@[simp] theorem State.keepOld_hostWords (b : State) (t : Nat) (ps : List Place) : (s.keepOld b t ps).hostWords = s.hostWords := rfl
@[simp] theorem State.keepOld_pageReqs (b : State) (t : Nat) (ps : List Place) : (s.keepOld b t ps).pageReqs = s.pageReqs := rfl
@[simp] theorem State.keepOld_images (b : State) (t : Nat) (ps : List Place) : (s.keepOld b t ps).images = s.images := rfl
@[simp] theorem State.keepOld_blocks (b : State) (t : Nat) (ps : List Place) : (s.keepOld b t ps).blocks = s.blocks := rfl
@[simp] theorem State.keepOld_bms (b : State) (t : Nat) (ps : List Place) : (s.keepOld b t ps).bms = s.bms := rfl
@[simp] theorem State.keepOld_counterOps (b : State) (t : Nat) (ps : List Place) : (s.keepOld b t ps).counterOps = s.counterOps := rfl
@[simp] theorem State.keepOld_hostOps (b : State) (t : Nat) (ps : List Place) : (s.keepOld b t ps).hostOps = s.hostOps := rfl
@[simp] theorem State.keepOld_slotStamps (b : State) (t : Nat) (ps : List Place) : (s.keepOld b t ps).slotStamps = s.slotStamps := rfl
@[simp] theorem State.keepOld_heldWrites (b : State) (t : Nat) (ps : List Place) : (s.keepOld b t ps).heldWrites = s.heldWrites := rfl
@[simp] theorem State.keepOld_sends (b : State) (t : Nat) (ps : List Place) : (s.keepOld b t ps).sends = s.sends := rfl
@[simp] theorem State.keepOld_taken (b : State) (t : Nat) (ps : List Place) : (s.keepOld b t ps).taken = s.taken := rfl
@[simp] theorem State.keepOld_polls (b : State) (t : Nat) (ps : List Place) : (s.keepOld b t ps).polls = s.polls := rfl
@[simp] theorem State.keepOld_spillReads (b : State) (t : Nat) (ps : List Place) : (s.keepOld b t ps).spillReads = s.spillReads := rfl
@[simp] theorem State.keepOld_watches (b : State) (t : Nat) (ps : List Place) : (s.keepOld b t ps).watches = s.watches := rfl
@[simp] theorem State.keepOld_cmds (b : State) (t : Nat) (ps : List Place) : (s.keepOld b t ps).cmds = s.cmds := rfl
@[simp] theorem State.keepOld_faulted (b : State) (t : Nat) (ps : List Place) : (s.keepOld b t ps).faulted = s.faulted := rfl
@[simp] theorem State.keepOld_xfer (b : State) (t : Nat) (ps : List Place) : (s.keepOld b t ps).xfer = s.xfer := rfl
@[simp] theorem State.keepOld_jobs (b : State) (t : Nat) (ps : List Place) : (s.keepOld b t ps).jobs = s.jobs := rfl
@[simp] theorem State.keepOld_mx (b : State) (t : Nat) (ps : List Place) : (s.keepOld b t ps).mx = s.mx := rfl
@[simp] theorem State.keepOld_flights (b : State) (t : Nat) (ps : List Place) : (s.keepOld b t ps).flights = s.flights := rfl
@[simp] theorem State.keepOld_gates (b : State) (t : Nat) (ps : List Place) : (s.keepOld b t ps).gates = s.gates := rfl
@[simp] theorem State.keepOld_tenants (b : State) (t : Nat) (ps : List Place) : (s.keepOld b t ps).tenants = s.tenants := rfl
@[simp] theorem State.keepOld_nodes (b : State) (t : Nat) (ps : List Place) : (s.keepOld b t ps).nodes = s.nodes := rfl
@[simp] theorem State.keepOld_slots (b : State) (t : Nat) (ps : List Place) : (s.keepOld b t ps).slots = s.slots := rfl
@[simp] theorem State.keepOld_weeds (b : State) (t : Nat) (ps : List Place) : (s.keepOld b t ps).weeds = s.weeds := rfl
@[simp] theorem State.keepOld_sweep (b : State) (t : Nat) (ps : List Place) : (s.keepOld b t ps).sweep = s.sweep := rfl
@[simp] theorem State.keepOld_sweepFrom (b : State) (t : Nat) (ps : List Place) : (s.keepOld b t ps).sweepFrom = s.sweepFrom := rfl
@[simp] theorem State.keepOld_late (b : State) (t : Nat) (ps : List Place) : (s.keepOld b t ps).late = s.late := rfl
@[simp] theorem State.keepOld_fns (b : State) (t : Nat) (ps : List Place) : (s.keepOld b t ps).fns = s.fns := rfl
@[simp] theorem State.keepOld_heldReqs (b : State) (t : Nat) (ps : List Place) : (s.keepOld b t ps).heldReqs = s.heldReqs := rfl
@[simp] theorem State.keepOld_answer (b : State) (t : Nat) (ps : List Place) : (s.keepOld b t ps).answer = s.answer := rfl
@[simp] theorem State.keepOld_pkgLog (b : State) (t : Nat) (ps : List Place) : (s.keepOld b t ps).pkgLog = s.pkgLog := rfl
@[simp] theorem State.keepOld_service (b : State) (t : Nat) (ps : List Place) : (s.keepOld b t ps).service = s.service := rfl
@[simp] theorem State.keepOld_power (b : State) (t : Nat) (ps : List Place) : (s.keepOld b t ps).power = s.power := rfl
@[simp] theorem State.keepOld_cur (b : State) (t : Nat) (ps : List Place) : (s.keepOld b t ps).cur = s.cur := rfl
@[simp] theorem State.keepOld_agent (b : State) (t : Nat) (ps : List Place) : (s.keepOld b t ps).agent = s.agent := rfl
@[simp] theorem State.keepOld_schedule (b : State) (t : Nat) (ps : List Place) : (s.keepOld b t ps).schedule = s.schedule := rfl
@[simp] theorem State.keepOld_raised (b : State) (t : Nat) (ps : List Place) : (s.keepOld b t ps).raised = s.raised := rfl
@[simp] theorem State.keepOld_tick (b : State) (t : Nat) (ps : List Place) : (s.keepOld b t ps).tick = s.tick := rfl
@[simp] theorem State.keepOld_fresh (b : State) (t : Nat) (ps : List Place) : (s.keepOld b t ps).fresh = s.fresh := rfl
@[simp] theorem State.keepOld_nextId (b : State) (t : Nat) (ps : List Place) : (s.keepOld b t ps).nextId = s.nextId := rfl
@[simp] theorem State.keepOld_nextHandle (b : State) (t : Nat) (ps : List Place) : (s.keepOld b t ps).nextHandle = s.nextHandle := rfl
@[simp] theorem State.keepOld_ports (b : State) (t : Nat) (ps : List Place) : (s.keepOld b t ps).ports = s.ports := rfl
@[simp] theorem State.core_keepOld (b : State) (t : Nat) (ps : List Place) (n : Nat) : (s.keepOld b t ps).core n = s.core n := rfl
@[simp] theorem State.tenant_keepOld (b : State) (t : Nat) (ps : List Place) (n : Nat) : (s.keepOld b t ps).tenant n = s.tenant n := rfl
@[simp] theorem State.fn_keepOld (b : State) (t : Nat) (ps : List Place) (n : Nat) : (s.keepOld b t ps).fn n = s.fn n := rfl
@[simp] theorem State.port_keepOld (b : State) (t : Nat) (ps : List Place) (n : Nat) : (s.keepOld b t ps).port n = s.port n := rfl
@[simp] theorem State.node_keepOld (b : State) (t : Nat) (ps : List Place) (n : Nat) : (s.keepOld b t ps).node n = s.node n := rfl
@[simp] theorem State.slot_keepOld (b : State) (t : Nat) (ps : List Place) (n : Nat) : (s.keepOld b t ps).slot n = s.slot n := rfl
@[simp] theorem State.gen_keepOld (b : State) (t : Nat) (ps : List Place) (n : Nat) : (s.keepOld b t ps).gen n = s.gen n := rfl

/-! ### sendFlit -/

@[simp] theorem State.sendFlit_cycle (p : Nat) (t : Option Nat) (y : BitVec 8) (l : List Word) : (s.sendFlit p t y l).cycle = s.cycle := rfl
@[simp] theorem State.sendFlit_timeAcc (p : Nat) (t : Option Nat) (y : BitVec 8) (l : List Word) : (s.sendFlit p t y l).timeAcc = s.timeAcc := rfl
@[simp] theorem State.sendFlit_cores (p : Nat) (t : Option Nat) (y : BitVec 8) (l : List Word) : (s.sendFlit p t y l).cores = s.cores := rfl
@[simp] theorem State.sendFlit_mem (p : Nat) (t : Option Nat) (y : BitVec 8) (l : List Word) : (s.sendFlit p t y l).mem = s.mem := rfl
@[simp] theorem State.sendFlit_tags (p : Nat) (t : Option Nat) (y : BitVec 8) (l : List Word) : (s.sendFlit p t y l).tags = s.tags := rfl
@[simp] theorem State.sendFlit_badUnits (p : Nat) (t : Option Nat) (y : BitVec 8) (l : List Word) : (s.sendFlit p t y l).badUnits = s.badUnits := rfl
@[simp] theorem State.sendFlit_l2 (p : Nat) (t : Option Nat) (y : BitVec 8) (l : List Word) : (s.sendFlit p t y l).l2 = s.l2 := rfl
@[simp] theorem State.sendFlit_tlb (p : Nat) (t : Option Nat) (y : BitVec 8) (l : List Word) : (s.sendFlit p t y l).tlb = s.tlb := rfl
@[simp] theorem State.sendFlit_atc (p : Nat) (t : Option Nat) (y : BitVec 8) (l : List Word) : (s.sendFlit p t y l).atc = s.atc := rfl
@[simp] theorem State.sendFlit_hostPerm (p : Nat) (t : Option Nat) (y : BitVec 8) (l : List Word) : (s.sendFlit p t y l).hostPerm = s.hostPerm := rfl
@[simp] theorem State.sendFlit_hostFails (p : Nat) (t : Option Nat) (y : BitVec 8) (l : List Word) : (s.sendFlit p t y l).hostFails = s.hostFails := rfl
@[simp] theorem State.sendFlit_walks (p : Nat) (t : Option Nat) (y : BitVec 8) (l : List Word) : (s.sendFlit p t y l).walks = s.walks := rfl
@[simp] theorem State.sendFlit_walkTurn (p : Nat) (t : Option Nat) (y : BitVec 8) (l : List Word) : (s.sendFlit p t y l).walkTurn = s.walkTurn := rfl
@[simp] theorem State.sendFlit_frames (p : Nat) (t : Option Nat) (y : BitVec 8) (l : List Word) : (s.sendFlit p t y l).frames = s.frames := rfl
@[simp] theorem State.sendFlit_hostWords (p : Nat) (t : Option Nat) (y : BitVec 8) (l : List Word) : (s.sendFlit p t y l).hostWords = s.hostWords := rfl
@[simp] theorem State.sendFlit_pageReqs (p : Nat) (t : Option Nat) (y : BitVec 8) (l : List Word) : (s.sendFlit p t y l).pageReqs = s.pageReqs := rfl
@[simp] theorem State.sendFlit_images (p : Nat) (t : Option Nat) (y : BitVec 8) (l : List Word) : (s.sendFlit p t y l).images = s.images := rfl
@[simp] theorem State.sendFlit_blocks (p : Nat) (t : Option Nat) (y : BitVec 8) (l : List Word) : (s.sendFlit p t y l).blocks = s.blocks := rfl
@[simp] theorem State.sendFlit_bms (p : Nat) (t : Option Nat) (y : BitVec 8) (l : List Word) : (s.sendFlit p t y l).bms = s.bms := rfl
@[simp] theorem State.sendFlit_counterOps (p : Nat) (t : Option Nat) (y : BitVec 8) (l : List Word) : (s.sendFlit p t y l).counterOps = s.counterOps := rfl
@[simp] theorem State.sendFlit_hostOps (p : Nat) (t : Option Nat) (y : BitVec 8) (l : List Word) : (s.sendFlit p t y l).hostOps = s.hostOps := rfl
@[simp] theorem State.sendFlit_slotStamps (p : Nat) (t : Option Nat) (y : BitVec 8) (l : List Word) : (s.sendFlit p t y l).slotStamps = s.slotStamps := rfl
@[simp] theorem State.sendFlit_heldWrites (p : Nat) (t : Option Nat) (y : BitVec 8) (l : List Word) : (s.sendFlit p t y l).heldWrites = s.heldWrites := rfl
@[simp] theorem State.sendFlit_sends (p : Nat) (t : Option Nat) (y : BitVec 8) (l : List Word) : (s.sendFlit p t y l).sends = s.sends := rfl
@[simp] theorem State.sendFlit_taken (p : Nat) (t : Option Nat) (y : BitVec 8) (l : List Word) : (s.sendFlit p t y l).taken = s.taken := rfl
@[simp] theorem State.sendFlit_polls (p : Nat) (t : Option Nat) (y : BitVec 8) (l : List Word) : (s.sendFlit p t y l).polls = s.polls := rfl
@[simp] theorem State.sendFlit_spillReads (p : Nat) (t : Option Nat) (y : BitVec 8) (l : List Word) : (s.sendFlit p t y l).spillReads = s.spillReads := rfl
@[simp] theorem State.sendFlit_watches (p : Nat) (t : Option Nat) (y : BitVec 8) (l : List Word) : (s.sendFlit p t y l).watches = s.watches := rfl
@[simp] theorem State.sendFlit_cmds (p : Nat) (t : Option Nat) (y : BitVec 8) (l : List Word) : (s.sendFlit p t y l).cmds = s.cmds := rfl
@[simp] theorem State.sendFlit_faulted (p : Nat) (t : Option Nat) (y : BitVec 8) (l : List Word) : (s.sendFlit p t y l).faulted = s.faulted := rfl
@[simp] theorem State.sendFlit_xfer (p : Nat) (t : Option Nat) (y : BitVec 8) (l : List Word) : (s.sendFlit p t y l).xfer = s.xfer := rfl
@[simp] theorem State.sendFlit_jobs (p : Nat) (t : Option Nat) (y : BitVec 8) (l : List Word) : (s.sendFlit p t y l).jobs = s.jobs := rfl
@[simp] theorem State.sendFlit_mx (p : Nat) (t : Option Nat) (y : BitVec 8) (l : List Word) : (s.sendFlit p t y l).mx = s.mx := rfl
@[simp] theorem State.sendFlit_flights (p : Nat) (t : Option Nat) (y : BitVec 8) (l : List Word) : (s.sendFlit p t y l).flights = s.flights := rfl
@[simp] theorem State.sendFlit_gates (p : Nat) (t : Option Nat) (y : BitVec 8) (l : List Word) : (s.sendFlit p t y l).gates = s.gates := rfl
@[simp] theorem State.sendFlit_tenants (p : Nat) (t : Option Nat) (y : BitVec 8) (l : List Word) : (s.sendFlit p t y l).tenants = s.tenants := rfl
@[simp] theorem State.sendFlit_nodes (p : Nat) (t : Option Nat) (y : BitVec 8) (l : List Word) : (s.sendFlit p t y l).nodes = s.nodes := rfl
@[simp] theorem State.sendFlit_slots (p : Nat) (t : Option Nat) (y : BitVec 8) (l : List Word) : (s.sendFlit p t y l).slots = s.slots := rfl
@[simp] theorem State.sendFlit_weeds (p : Nat) (t : Option Nat) (y : BitVec 8) (l : List Word) : (s.sendFlit p t y l).weeds = s.weeds := rfl
@[simp] theorem State.sendFlit_sweep (p : Nat) (t : Option Nat) (y : BitVec 8) (l : List Word) : (s.sendFlit p t y l).sweep = s.sweep := rfl
@[simp] theorem State.sendFlit_sweepFrom (p : Nat) (t : Option Nat) (y : BitVec 8) (l : List Word) : (s.sendFlit p t y l).sweepFrom = s.sweepFrom := rfl
@[simp] theorem State.sendFlit_late (p : Nat) (t : Option Nat) (y : BitVec 8) (l : List Word) : (s.sendFlit p t y l).late = s.late := rfl
@[simp] theorem State.sendFlit_old (p : Nat) (t : Option Nat) (y : BitVec 8) (l : List Word) : (s.sendFlit p t y l).old = s.old := rfl
@[simp] theorem State.sendFlit_fns (p : Nat) (t : Option Nat) (y : BitVec 8) (l : List Word) : (s.sendFlit p t y l).fns = s.fns := rfl
@[simp] theorem State.sendFlit_heldReqs (p : Nat) (t : Option Nat) (y : BitVec 8) (l : List Word) : (s.sendFlit p t y l).heldReqs = s.heldReqs := rfl
@[simp] theorem State.sendFlit_answer (p : Nat) (t : Option Nat) (y : BitVec 8) (l : List Word) : (s.sendFlit p t y l).answer = s.answer := rfl
@[simp] theorem State.sendFlit_pkgLog (p : Nat) (t : Option Nat) (y : BitVec 8) (l : List Word) : (s.sendFlit p t y l).pkgLog = s.pkgLog := rfl
@[simp] theorem State.sendFlit_service (p : Nat) (t : Option Nat) (y : BitVec 8) (l : List Word) : (s.sendFlit p t y l).service = s.service := rfl
@[simp] theorem State.sendFlit_power (p : Nat) (t : Option Nat) (y : BitVec 8) (l : List Word) : (s.sendFlit p t y l).power = s.power := rfl
@[simp] theorem State.sendFlit_cur (p : Nat) (t : Option Nat) (y : BitVec 8) (l : List Word) : (s.sendFlit p t y l).cur = s.cur := rfl
@[simp] theorem State.sendFlit_agent (p : Nat) (t : Option Nat) (y : BitVec 8) (l : List Word) : (s.sendFlit p t y l).agent = s.agent := rfl
@[simp] theorem State.sendFlit_schedule (p : Nat) (t : Option Nat) (y : BitVec 8) (l : List Word) : (s.sendFlit p t y l).schedule = s.schedule := rfl
@[simp] theorem State.sendFlit_raised (p : Nat) (t : Option Nat) (y : BitVec 8) (l : List Word) : (s.sendFlit p t y l).raised = s.raised := rfl
@[simp] theorem State.sendFlit_tick (p : Nat) (t : Option Nat) (y : BitVec 8) (l : List Word) : (s.sendFlit p t y l).tick = s.tick := rfl
@[simp] theorem State.sendFlit_fresh (p : Nat) (t : Option Nat) (y : BitVec 8) (l : List Word) : (s.sendFlit p t y l).fresh = s.fresh := rfl
@[simp] theorem State.sendFlit_nextId (p : Nat) (t : Option Nat) (y : BitVec 8) (l : List Word) : (s.sendFlit p t y l).nextId = s.nextId := rfl
@[simp] theorem State.sendFlit_nextHandle (p : Nat) (t : Option Nat) (y : BitVec 8) (l : List Word) : (s.sendFlit p t y l).nextHandle = s.nextHandle := rfl

/-! ### tdisp -/

@[simp] theorem State.tdisp_cycle (c : TdispCode) : (s.tdisp c).cycle = s.cycle := rfl
@[simp] theorem State.tdisp_timeAcc (c : TdispCode) : (s.tdisp c).timeAcc = s.timeAcc := rfl
@[simp] theorem State.tdisp_cores (c : TdispCode) : (s.tdisp c).cores = s.cores := rfl
@[simp] theorem State.tdisp_mem (c : TdispCode) : (s.tdisp c).mem = s.mem := rfl
@[simp] theorem State.tdisp_tags (c : TdispCode) : (s.tdisp c).tags = s.tags := rfl
@[simp] theorem State.tdisp_badUnits (c : TdispCode) : (s.tdisp c).badUnits = s.badUnits := rfl
@[simp] theorem State.tdisp_l2 (c : TdispCode) : (s.tdisp c).l2 = s.l2 := rfl
@[simp] theorem State.tdisp_tlb (c : TdispCode) : (s.tdisp c).tlb = s.tlb := rfl
@[simp] theorem State.tdisp_atc (c : TdispCode) : (s.tdisp c).atc = s.atc := rfl
@[simp] theorem State.tdisp_hostPerm (c : TdispCode) : (s.tdisp c).hostPerm = s.hostPerm := rfl
@[simp] theorem State.tdisp_hostFails (c : TdispCode) : (s.tdisp c).hostFails = s.hostFails := rfl
@[simp] theorem State.tdisp_walks (c : TdispCode) : (s.tdisp c).walks = s.walks := rfl
@[simp] theorem State.tdisp_walkTurn (c : TdispCode) : (s.tdisp c).walkTurn = s.walkTurn := rfl
@[simp] theorem State.tdisp_frames (c : TdispCode) : (s.tdisp c).frames = s.frames := rfl
@[simp] theorem State.tdisp_hostWords (c : TdispCode) : (s.tdisp c).hostWords = s.hostWords := rfl
@[simp] theorem State.tdisp_pageReqs (c : TdispCode) : (s.tdisp c).pageReqs = s.pageReqs := rfl
@[simp] theorem State.tdisp_images (c : TdispCode) : (s.tdisp c).images = s.images := rfl
@[simp] theorem State.tdisp_blocks (c : TdispCode) : (s.tdisp c).blocks = s.blocks := rfl
@[simp] theorem State.tdisp_bms (c : TdispCode) : (s.tdisp c).bms = s.bms := rfl
@[simp] theorem State.tdisp_counterOps (c : TdispCode) : (s.tdisp c).counterOps = s.counterOps := rfl
@[simp] theorem State.tdisp_hostOps (c : TdispCode) : (s.tdisp c).hostOps = s.hostOps := rfl
@[simp] theorem State.tdisp_slotStamps (c : TdispCode) : (s.tdisp c).slotStamps = s.slotStamps := rfl
@[simp] theorem State.tdisp_heldWrites (c : TdispCode) : (s.tdisp c).heldWrites = s.heldWrites := rfl
@[simp] theorem State.tdisp_sends (c : TdispCode) : (s.tdisp c).sends = s.sends := rfl
@[simp] theorem State.tdisp_taken (c : TdispCode) : (s.tdisp c).taken = s.taken := rfl
@[simp] theorem State.tdisp_polls (c : TdispCode) : (s.tdisp c).polls = s.polls := rfl
@[simp] theorem State.tdisp_spillReads (c : TdispCode) : (s.tdisp c).spillReads = s.spillReads := rfl
@[simp] theorem State.tdisp_watches (c : TdispCode) : (s.tdisp c).watches = s.watches := rfl
@[simp] theorem State.tdisp_cmds (c : TdispCode) : (s.tdisp c).cmds = s.cmds := rfl
@[simp] theorem State.tdisp_faulted (c : TdispCode) : (s.tdisp c).faulted = s.faulted := rfl
@[simp] theorem State.tdisp_xfer (c : TdispCode) : (s.tdisp c).xfer = s.xfer := rfl
@[simp] theorem State.tdisp_jobs (c : TdispCode) : (s.tdisp c).jobs = s.jobs := rfl
@[simp] theorem State.tdisp_mx (c : TdispCode) : (s.tdisp c).mx = s.mx := rfl
@[simp] theorem State.tdisp_flights (c : TdispCode) : (s.tdisp c).flights = s.flights := rfl
@[simp] theorem State.tdisp_gates (c : TdispCode) : (s.tdisp c).gates = s.gates := rfl
@[simp] theorem State.tdisp_tenants (c : TdispCode) : (s.tdisp c).tenants = s.tenants := rfl
@[simp] theorem State.tdisp_nodes (c : TdispCode) : (s.tdisp c).nodes = s.nodes := rfl
@[simp] theorem State.tdisp_slots (c : TdispCode) : (s.tdisp c).slots = s.slots := rfl
@[simp] theorem State.tdisp_weeds (c : TdispCode) : (s.tdisp c).weeds = s.weeds := rfl
@[simp] theorem State.tdisp_sweep (c : TdispCode) : (s.tdisp c).sweep = s.sweep := rfl
@[simp] theorem State.tdisp_sweepFrom (c : TdispCode) : (s.tdisp c).sweepFrom = s.sweepFrom := rfl
@[simp] theorem State.tdisp_late (c : TdispCode) : (s.tdisp c).late = s.late := rfl
@[simp] theorem State.tdisp_old (c : TdispCode) : (s.tdisp c).old = s.old := rfl
@[simp] theorem State.tdisp_fns (c : TdispCode) : (s.tdisp c).fns = s.fns := rfl
@[simp] theorem State.tdisp_ports (c : TdispCode) : (s.tdisp c).ports = s.ports := rfl
@[simp] theorem State.tdisp_heldReqs (c : TdispCode) : (s.tdisp c).heldReqs = s.heldReqs := rfl
@[simp] theorem State.tdisp_pkgLog (c : TdispCode) : (s.tdisp c).pkgLog = s.pkgLog := rfl
@[simp] theorem State.tdisp_service (c : TdispCode) : (s.tdisp c).service = s.service := rfl
@[simp] theorem State.tdisp_power (c : TdispCode) : (s.tdisp c).power = s.power := rfl
@[simp] theorem State.tdisp_cur (c : TdispCode) : (s.tdisp c).cur = s.cur := rfl
@[simp] theorem State.tdisp_agent (c : TdispCode) : (s.tdisp c).agent = s.agent := rfl
@[simp] theorem State.tdisp_schedule (c : TdispCode) : (s.tdisp c).schedule = s.schedule := rfl
@[simp] theorem State.tdisp_raised (c : TdispCode) : (s.tdisp c).raised = s.raised := rfl
@[simp] theorem State.tdisp_tick (c : TdispCode) : (s.tdisp c).tick = s.tick := rfl
@[simp] theorem State.tdisp_fresh (c : TdispCode) : (s.tdisp c).fresh = s.fresh := rfl
@[simp] theorem State.tdisp_nextId (c : TdispCode) : (s.tdisp c).nextId = s.nextId := rfl
@[simp] theorem State.tdisp_nextHandle (c : TdispCode) : (s.tdisp c).nextHandle = s.nextHandle := rfl

/-! ### setTdi -/

@[simp] theorem State.setTdi_cycle (n : Nat) (t : Tdi) : (s.setTdi n t).cycle = s.cycle := rfl
@[simp] theorem State.setTdi_timeAcc (n : Nat) (t : Tdi) : (s.setTdi n t).timeAcc = s.timeAcc := rfl
@[simp] theorem State.setTdi_cores (n : Nat) (t : Tdi) : (s.setTdi n t).cores = s.cores := rfl
@[simp] theorem State.setTdi_mem (n : Nat) (t : Tdi) : (s.setTdi n t).mem = s.mem := rfl
@[simp] theorem State.setTdi_tags (n : Nat) (t : Tdi) : (s.setTdi n t).tags = s.tags := rfl
@[simp] theorem State.setTdi_badUnits (n : Nat) (t : Tdi) : (s.setTdi n t).badUnits = s.badUnits := rfl
@[simp] theorem State.setTdi_l2 (n : Nat) (t : Tdi) : (s.setTdi n t).l2 = s.l2 := rfl
@[simp] theorem State.setTdi_tlb (n : Nat) (t : Tdi) : (s.setTdi n t).tlb = s.tlb := rfl
@[simp] theorem State.setTdi_atc (n : Nat) (t : Tdi) : (s.setTdi n t).atc = s.atc := rfl
@[simp] theorem State.setTdi_hostPerm (n : Nat) (t : Tdi) : (s.setTdi n t).hostPerm = s.hostPerm := rfl
@[simp] theorem State.setTdi_hostFails (n : Nat) (t : Tdi) : (s.setTdi n t).hostFails = s.hostFails := rfl
@[simp] theorem State.setTdi_walks (n : Nat) (t : Tdi) : (s.setTdi n t).walks = s.walks := rfl
@[simp] theorem State.setTdi_walkTurn (n : Nat) (t : Tdi) : (s.setTdi n t).walkTurn = s.walkTurn := rfl
@[simp] theorem State.setTdi_frames (n : Nat) (t : Tdi) : (s.setTdi n t).frames = s.frames := rfl
@[simp] theorem State.setTdi_hostWords (n : Nat) (t : Tdi) : (s.setTdi n t).hostWords = s.hostWords := rfl
@[simp] theorem State.setTdi_pageReqs (n : Nat) (t : Tdi) : (s.setTdi n t).pageReqs = s.pageReqs := rfl
@[simp] theorem State.setTdi_images (n : Nat) (t : Tdi) : (s.setTdi n t).images = s.images := rfl
@[simp] theorem State.setTdi_blocks (n : Nat) (t : Tdi) : (s.setTdi n t).blocks = s.blocks := rfl
@[simp] theorem State.setTdi_bms (n : Nat) (t : Tdi) : (s.setTdi n t).bms = s.bms := rfl
@[simp] theorem State.setTdi_counterOps (n : Nat) (t : Tdi) : (s.setTdi n t).counterOps = s.counterOps := rfl
@[simp] theorem State.setTdi_hostOps (n : Nat) (t : Tdi) : (s.setTdi n t).hostOps = s.hostOps := rfl
@[simp] theorem State.setTdi_slotStamps (n : Nat) (t : Tdi) : (s.setTdi n t).slotStamps = s.slotStamps := rfl
@[simp] theorem State.setTdi_heldWrites (n : Nat) (t : Tdi) : (s.setTdi n t).heldWrites = s.heldWrites := rfl
@[simp] theorem State.setTdi_sends (n : Nat) (t : Tdi) : (s.setTdi n t).sends = s.sends := rfl
@[simp] theorem State.setTdi_taken (n : Nat) (t : Tdi) : (s.setTdi n t).taken = s.taken := rfl
@[simp] theorem State.setTdi_polls (n : Nat) (t : Tdi) : (s.setTdi n t).polls = s.polls := rfl
@[simp] theorem State.setTdi_spillReads (n : Nat) (t : Tdi) : (s.setTdi n t).spillReads = s.spillReads := rfl
@[simp] theorem State.setTdi_watches (n : Nat) (t : Tdi) : (s.setTdi n t).watches = s.watches := rfl
@[simp] theorem State.setTdi_cmds (n : Nat) (t : Tdi) : (s.setTdi n t).cmds = s.cmds := rfl
@[simp] theorem State.setTdi_faulted (n : Nat) (t : Tdi) : (s.setTdi n t).faulted = s.faulted := rfl
@[simp] theorem State.setTdi_xfer (n : Nat) (t : Tdi) : (s.setTdi n t).xfer = s.xfer := rfl
@[simp] theorem State.setTdi_jobs (n : Nat) (t : Tdi) : (s.setTdi n t).jobs = s.jobs := rfl
@[simp] theorem State.setTdi_mx (n : Nat) (t : Tdi) : (s.setTdi n t).mx = s.mx := rfl
@[simp] theorem State.setTdi_flights (n : Nat) (t : Tdi) : (s.setTdi n t).flights = s.flights := rfl
@[simp] theorem State.setTdi_gates (n : Nat) (t : Tdi) : (s.setTdi n t).gates = s.gates := rfl
@[simp] theorem State.setTdi_tenants (n : Nat) (t : Tdi) : (s.setTdi n t).tenants = s.tenants := rfl
@[simp] theorem State.setTdi_nodes (n : Nat) (t : Tdi) : (s.setTdi n t).nodes = s.nodes := rfl
@[simp] theorem State.setTdi_slots (n : Nat) (t : Tdi) : (s.setTdi n t).slots = s.slots := rfl
@[simp] theorem State.setTdi_weeds (n : Nat) (t : Tdi) : (s.setTdi n t).weeds = s.weeds := rfl
@[simp] theorem State.setTdi_sweep (n : Nat) (t : Tdi) : (s.setTdi n t).sweep = s.sweep := rfl
@[simp] theorem State.setTdi_sweepFrom (n : Nat) (t : Tdi) : (s.setTdi n t).sweepFrom = s.sweepFrom := rfl
@[simp] theorem State.setTdi_late (n : Nat) (t : Tdi) : (s.setTdi n t).late = s.late := rfl
@[simp] theorem State.setTdi_old (n : Nat) (t : Tdi) : (s.setTdi n t).old = s.old := rfl
@[simp] theorem State.setTdi_ports (n : Nat) (t : Tdi) : (s.setTdi n t).ports = s.ports := rfl
@[simp] theorem State.setTdi_heldReqs (n : Nat) (t : Tdi) : (s.setTdi n t).heldReqs = s.heldReqs := rfl
@[simp] theorem State.setTdi_answer (n : Nat) (t : Tdi) : (s.setTdi n t).answer = s.answer := rfl
@[simp] theorem State.setTdi_pkgLog (n : Nat) (t : Tdi) : (s.setTdi n t).pkgLog = s.pkgLog := rfl
@[simp] theorem State.setTdi_service (n : Nat) (t : Tdi) : (s.setTdi n t).service = s.service := rfl
@[simp] theorem State.setTdi_power (n : Nat) (t : Tdi) : (s.setTdi n t).power = s.power := rfl
@[simp] theorem State.setTdi_cur (n : Nat) (t : Tdi) : (s.setTdi n t).cur = s.cur := rfl
@[simp] theorem State.setTdi_agent (n : Nat) (t : Tdi) : (s.setTdi n t).agent = s.agent := rfl
@[simp] theorem State.setTdi_schedule (n : Nat) (t : Tdi) : (s.setTdi n t).schedule = s.schedule := rfl
@[simp] theorem State.setTdi_raised (n : Nat) (t : Tdi) : (s.setTdi n t).raised = s.raised := rfl
@[simp] theorem State.setTdi_tick (n : Nat) (t : Tdi) : (s.setTdi n t).tick = s.tick := rfl
@[simp] theorem State.setTdi_fresh (n : Nat) (t : Tdi) : (s.setTdi n t).fresh = s.fresh := rfl
@[simp] theorem State.setTdi_nextId (n : Nat) (t : Tdi) : (s.setTdi n t).nextId = s.nextId := rfl
@[simp] theorem State.setTdi_nextHandle (n : Nat) (t : Tdi) : (s.setTdi n t).nextHandle = s.nextHandle := rfl

/-! ### The entry that an update names -/

@[simp] theorem State.core_updCore_self (k : Nat) (f : Core → Core) : (s.updCore k f).core k = f (s.core k) := Table.get_set_self ..
theorem State.core_updCore_ne {k j : Nat} (f : Core → Core) (h : j ≠ k) : (s.updCore k f).core j = s.core j := Table.get_set_ne _ _ _ h
@[simp] theorem State.core_setCore_self (k : Nat) (c : Core) : (s.setCore k c).core k = c := Table.get_set_self ..
theorem State.core_setCore_ne {k j : Nat} (c : Core) (h : j ≠ k) : (s.setCore k c).core j = s.core j := Table.get_set_ne _ _ _ h
@[simp] theorem State.tenant_updTenant_self (t : Nat) (f : Tenant → Tenant) : (s.updTenant t f).tenant t = f (s.tenant t) :=
  Table.get_set_self ..
theorem State.tenant_updTenant_ne {t u : Nat} (f : Tenant → Tenant) (h : u ≠ t) : (s.updTenant t f).tenant u = s.tenant u :=
  Table.get_set_ne _ _ _ h
@[simp] theorem State.fn_updFn_self (n : Nat) (f : Fn → Fn) : (s.updFn n f).fn n = f (s.fn n) := Table.get_set_self ..
theorem State.fn_updFn_ne {n m : Nat} (f : Fn → Fn) (h : m ≠ n) : (s.updFn n f).fn m = s.fn m := Table.get_set_ne _ _ _ h
@[simp] theorem State.port_updPort_self (p : Nat) (f : Port → Port) : (s.updPort p f).port p = f (s.port p) := Table.get_set_self ..
theorem State.port_updPort_ne {p q : Nat} (f : Port → Port) (h : q ≠ p) : (s.updPort p f).port q = s.port q :=
  Table.get_set_ne _ _ _ h
@[simp] theorem State.node_updNode_self (n : Nat) (f : Node → Node) : (s.updNode n f).node n = f (s.node n) := Table.get_set_self ..
theorem State.node_updNode_ne {n m : Nat} (f : Node → Node) (h : m ≠ n) : (s.updNode n f).node m = s.node m :=
  Table.get_set_ne _ _ _ h
@[simp] theorem State.slot_updSlot_self (n : Nat) (f : Slot → Slot) : (s.updSlot n f).slot n = f (s.slot n) := Table.get_set_self ..
theorem State.slot_updSlot_ne {n m : Nat} (f : Slot → Slot) (h : m ≠ n) : (s.updSlot n f).slot m = s.slot m :=
  Table.get_set_ne _ _ _ h

@[simp] theorem State.strand_setStrand (t : Strand) : (s.setStrand t).strand = t := by
  simp only [State.strand, State.setStrand, State.updCore_cur, State.core_updCore_self]

/-! ### The entries of the tables that an update does not name -/

@[simp] theorem State.tenant_setCore (i : Nat) (c : Core) (k : Nat) : (s.setCore i c).tenant k = s.tenant k := rfl
@[simp] theorem State.fn_setCore (i : Nat) (c : Core) (k : Nat) : (s.setCore i c).fn k = s.fn k := rfl
@[simp] theorem State.port_setCore (i : Nat) (c : Core) (k : Nat) : (s.setCore i c).port k = s.port k := rfl
@[simp] theorem State.node_setCore (i : Nat) (c : Core) (k : Nat) : (s.setCore i c).node k = s.node k := rfl
@[simp] theorem State.slot_setCore (i : Nat) (c : Core) (k : Nat) : (s.setCore i c).slot k = s.slot k := rfl
@[simp] theorem State.gen_setCore (i : Nat) (c : Core) (k : Nat) : (s.setCore i c).gen k = s.gen k := rfl
@[simp] theorem State.tenant_updCore (i : Nat) (f : Core → Core) (k : Nat) : (s.updCore i f).tenant k = s.tenant k := rfl
@[simp] theorem State.fn_updCore (i : Nat) (f : Core → Core) (k : Nat) : (s.updCore i f).fn k = s.fn k := rfl
@[simp] theorem State.port_updCore (i : Nat) (f : Core → Core) (k : Nat) : (s.updCore i f).port k = s.port k := rfl
@[simp] theorem State.node_updCore (i : Nat) (f : Core → Core) (k : Nat) : (s.updCore i f).node k = s.node k := rfl
@[simp] theorem State.slot_updCore (i : Nat) (f : Core → Core) (k : Nat) : (s.updCore i f).slot k = s.slot k := rfl
@[simp] theorem State.gen_updCore (i : Nat) (f : Core → Core) (k : Nat) : (s.updCore i f).gen k = s.gen k := rfl
@[simp] theorem State.tenant_setStrand (t : Strand) (k : Nat) : (s.setStrand t).tenant k = s.tenant k := rfl
@[simp] theorem State.fn_setStrand (t : Strand) (k : Nat) : (s.setStrand t).fn k = s.fn k := rfl
@[simp] theorem State.port_setStrand (t : Strand) (k : Nat) : (s.setStrand t).port k = s.port k := rfl
@[simp] theorem State.node_setStrand (t : Strand) (k : Nat) : (s.setStrand t).node k = s.node k := rfl
@[simp] theorem State.slot_setStrand (t : Strand) (k : Nat) : (s.setStrand t).slot k = s.slot k := rfl
@[simp] theorem State.gen_setStrand (t : Strand) (k : Nat) : (s.setStrand t).gen k = s.gen k := rfl
@[simp] theorem State.core_updTenant (t : Nat) (f : Tenant → Tenant) (k : Nat) : (s.updTenant t f).core k = s.core k := rfl
@[simp] theorem State.fn_updTenant (t : Nat) (f : Tenant → Tenant) (k : Nat) : (s.updTenant t f).fn k = s.fn k := rfl
@[simp] theorem State.port_updTenant (t : Nat) (f : Tenant → Tenant) (k : Nat) : (s.updTenant t f).port k = s.port k := rfl
@[simp] theorem State.node_updTenant (t : Nat) (f : Tenant → Tenant) (k : Nat) : (s.updTenant t f).node k = s.node k := rfl
@[simp] theorem State.slot_updTenant (t : Nat) (f : Tenant → Tenant) (k : Nat) : (s.updTenant t f).slot k = s.slot k := rfl
@[simp] theorem State.core_updFn (n : Nat) (f : Fn → Fn) (k : Nat) : (s.updFn n f).core k = s.core k := rfl
@[simp] theorem State.tenant_updFn (n : Nat) (f : Fn → Fn) (k : Nat) : (s.updFn n f).tenant k = s.tenant k := rfl
@[simp] theorem State.port_updFn (n : Nat) (f : Fn → Fn) (k : Nat) : (s.updFn n f).port k = s.port k := rfl
@[simp] theorem State.node_updFn (n : Nat) (f : Fn → Fn) (k : Nat) : (s.updFn n f).node k = s.node k := rfl
@[simp] theorem State.slot_updFn (n : Nat) (f : Fn → Fn) (k : Nat) : (s.updFn n f).slot k = s.slot k := rfl
@[simp] theorem State.gen_updFn (n : Nat) (f : Fn → Fn) (k : Nat) : (s.updFn n f).gen k = s.gen k := rfl
@[simp] theorem State.core_updPort (p : Nat) (f : Port → Port) (k : Nat) : (s.updPort p f).core k = s.core k := rfl
@[simp] theorem State.tenant_updPort (p : Nat) (f : Port → Port) (k : Nat) : (s.updPort p f).tenant k = s.tenant k := rfl
@[simp] theorem State.fn_updPort (p : Nat) (f : Port → Port) (k : Nat) : (s.updPort p f).fn k = s.fn k := rfl
@[simp] theorem State.node_updPort (p : Nat) (f : Port → Port) (k : Nat) : (s.updPort p f).node k = s.node k := rfl
@[simp] theorem State.slot_updPort (p : Nat) (f : Port → Port) (k : Nat) : (s.updPort p f).slot k = s.slot k := rfl
@[simp] theorem State.gen_updPort (p : Nat) (f : Port → Port) (k : Nat) : (s.updPort p f).gen k = s.gen k := rfl
@[simp] theorem State.core_updNode (n : Nat) (f : Node → Node) (k : Nat) : (s.updNode n f).core k = s.core k := rfl
@[simp] theorem State.tenant_updNode (n : Nat) (f : Node → Node) (k : Nat) : (s.updNode n f).tenant k = s.tenant k := rfl
@[simp] theorem State.fn_updNode (n : Nat) (f : Node → Node) (k : Nat) : (s.updNode n f).fn k = s.fn k := rfl
@[simp] theorem State.port_updNode (n : Nat) (f : Node → Node) (k : Nat) : (s.updNode n f).port k = s.port k := rfl
@[simp] theorem State.slot_updNode (n : Nat) (f : Node → Node) (k : Nat) : (s.updNode n f).slot k = s.slot k := rfl
@[simp] theorem State.gen_updNode (n : Nat) (f : Node → Node) (k : Nat) : (s.updNode n f).gen k = s.gen k := rfl
@[simp] theorem State.core_updSlot (n : Nat) (f : Slot → Slot) (k : Nat) : (s.updSlot n f).core k = s.core k := rfl
@[simp] theorem State.tenant_updSlot (n : Nat) (f : Slot → Slot) (k : Nat) : (s.updSlot n f).tenant k = s.tenant k := rfl
@[simp] theorem State.fn_updSlot (n : Nat) (f : Slot → Slot) (k : Nat) : (s.updSlot n f).fn k = s.fn k := rfl
@[simp] theorem State.port_updSlot (n : Nat) (f : Slot → Slot) (k : Nat) : (s.updSlot n f).port k = s.port k := rfl
@[simp] theorem State.node_updSlot (n : Nat) (f : Slot → Slot) (k : Nat) : (s.updSlot n f).node k = s.node k := rfl
@[simp] theorem State.gen_updSlot (n : Nat) (f : Slot → Slot) (k : Nat) : (s.updSlot n f).gen k = s.gen k := rfl
@[simp] theorem State.core_updMx (e : Nat) (f : MxEngine → MxEngine) (k : Nat) : (s.updMx e f).core k = s.core k := rfl
@[simp] theorem State.tenant_updMx (e : Nat) (f : MxEngine → MxEngine) (k : Nat) : (s.updMx e f).tenant k = s.tenant k := rfl
@[simp] theorem State.fn_updMx (e : Nat) (f : MxEngine → MxEngine) (k : Nat) : (s.updMx e f).fn k = s.fn k := rfl
@[simp] theorem State.port_updMx (e : Nat) (f : MxEngine → MxEngine) (k : Nat) : (s.updMx e f).port k = s.port k := rfl
@[simp] theorem State.node_updMx (e : Nat) (f : MxEngine → MxEngine) (k : Nat) : (s.updMx e f).node k = s.node k := rfl
@[simp] theorem State.slot_updMx (e : Nat) (f : MxEngine → MxEngine) (k : Nat) : (s.updMx e f).slot k = s.slot k := rfl
@[simp] theorem State.gen_updMx (e : Nat) (f : MxEngine → MxEngine) (k : Nat) : (s.updMx e f).gen k = s.gen k := rfl
@[simp] theorem State.core_bump (k : Nat) : s.bump.core k = s.core k := rfl
@[simp] theorem State.tenant_bump (k : Nat) : s.bump.tenant k = s.tenant k := rfl
@[simp] theorem State.fn_bump (k : Nat) : s.bump.fn k = s.fn k := rfl
@[simp] theorem State.port_bump (k : Nat) : s.bump.port k = s.port k := rfl
@[simp] theorem State.node_bump (k : Nat) : s.bump.node k = s.node k := rfl
@[simp] theorem State.slot_bump (k : Nat) : s.bump.slot k = s.slot k := rfl
@[simp] theorem State.gen_bump (k : Nat) : s.bump.gen k = s.gen k := rfl
@[simp] theorem State.core_unhold (id : Nat) (k : Nat) : (s.unhold id).core k = s.core k := rfl
@[simp] theorem State.tenant_unhold (id : Nat) (k : Nat) : (s.unhold id).tenant k = s.tenant k := rfl
@[simp] theorem State.fn_unhold (id : Nat) (k : Nat) : (s.unhold id).fn k = s.fn k := rfl
@[simp] theorem State.port_unhold (id : Nat) (k : Nat) : (s.unhold id).port k = s.port k := rfl
@[simp] theorem State.node_unhold (id : Nat) (k : Nat) : (s.unhold id).node k = s.node k := rfl
@[simp] theorem State.slot_unhold (id : Nat) (k : Nat) : (s.unhold id).slot k = s.slot k := rfl
@[simp] theorem State.gen_unhold (id : Nat) (k : Nat) : (s.unhold id).gen k = s.gen k := rfl
@[simp] theorem State.core_setCmd (c : Cmd) (k : Nat) : (s.setCmd c).core k = s.core k := rfl
@[simp] theorem State.tenant_setCmd (c : Cmd) (k : Nat) : (s.setCmd c).tenant k = s.tenant k := rfl
@[simp] theorem State.fn_setCmd (c : Cmd) (k : Nat) : (s.setCmd c).fn k = s.fn k := rfl
@[simp] theorem State.port_setCmd (c : Cmd) (k : Nat) : (s.setCmd c).port k = s.port k := rfl
@[simp] theorem State.node_setCmd (c : Cmd) (k : Nat) : (s.setCmd c).node k = s.node k := rfl
@[simp] theorem State.slot_setCmd (c : Cmd) (k : Nat) : (s.setCmd c).slot k = s.slot k := rfl
@[simp] theorem State.gen_setCmd (c : Cmd) (k : Nat) : (s.setCmd c).gen k = s.gen k := rfl
@[simp] theorem State.core_dropFaulted (h : Nat) (k : Nat) : (s.dropFaulted h).core k = s.core k := rfl
@[simp] theorem State.tenant_dropFaulted (h : Nat) (k : Nat) : (s.dropFaulted h).tenant k = s.tenant k := rfl
@[simp] theorem State.fn_dropFaulted (h : Nat) (k : Nat) : (s.dropFaulted h).fn k = s.fn k := rfl
@[simp] theorem State.port_dropFaulted (h : Nat) (k : Nat) : (s.dropFaulted h).port k = s.port k := rfl
@[simp] theorem State.node_dropFaulted (h : Nat) (k : Nat) : (s.dropFaulted h).node k = s.node k := rfl
@[simp] theorem State.slot_dropFaulted (h : Nat) (k : Nat) : (s.dropFaulted h).slot k = s.slot k := rfl
@[simp] theorem State.gen_dropFaulted (h : Nat) (k : Nat) : (s.dropFaulted h).gen k = s.gen k := rfl
@[simp] theorem State.core_setJob (j : Job) (k : Nat) : (s.setJob j).core k = s.core k := rfl
@[simp] theorem State.tenant_setJob (j : Job) (k : Nat) : (s.setJob j).tenant k = s.tenant k := rfl
@[simp] theorem State.fn_setJob (j : Job) (k : Nat) : (s.setJob j).fn k = s.fn k := rfl
@[simp] theorem State.port_setJob (j : Job) (k : Nat) : (s.setJob j).port k = s.port k := rfl
@[simp] theorem State.node_setJob (j : Job) (k : Nat) : (s.setJob j).node k = s.node k := rfl
@[simp] theorem State.slot_setJob (j : Job) (k : Nat) : (s.setJob j).slot k = s.slot k := rfl
@[simp] theorem State.gen_setJob (j : Job) (k : Nat) : (s.setJob j).gen k = s.gen k := rfl
@[simp] theorem State.core_dropJob (j : Job) (k : Nat) : (s.dropJob j).core k = s.core k := by
  simp [State.core]
@[simp] theorem State.tenant_dropJob (j : Job) (k : Nat) : (s.dropJob j).tenant k = s.tenant k := by
  simp [State.tenant]
@[simp] theorem State.fn_dropJob (j : Job) (k : Nat) : (s.dropJob j).fn k = s.fn k := by
  simp [State.fn]
@[simp] theorem State.port_dropJob (j : Job) (k : Nat) : (s.dropJob j).port k = s.port k := by
  simp [State.port]
@[simp] theorem State.node_dropJob (j : Job) (k : Nat) : (s.dropJob j).node k = s.node k := by
  simp [State.node]
@[simp] theorem State.slot_dropJob (j : Job) (k : Nat) : (s.dropJob j).slot k = s.slot k := by
  simp [State.slot]
@[simp] theorem State.gen_dropJob (j : Job) (k : Nat) : (s.dropJob j).gen k = s.gen k := by
  simp [State.gen, State.tenant]
@[simp] theorem State.core_answered (a : Answer) (k : Nat) : (s.answered a).core k = s.core k := rfl
@[simp] theorem State.tenant_answered (a : Answer) (k : Nat) : (s.answered a).tenant k = s.tenant k := rfl
@[simp] theorem State.fn_answered (a : Answer) (k : Nat) : (s.answered a).fn k = s.fn k := rfl
@[simp] theorem State.port_answered (a : Answer) (k : Nat) : (s.answered a).port k = s.port k := rfl
@[simp] theorem State.node_answered (a : Answer) (k : Nat) : (s.answered a).node k = s.node k := rfl
@[simp] theorem State.slot_answered (a : Answer) (k : Nat) : (s.answered a).slot k = s.slot k := rfl
@[simp] theorem State.gen_answered (a : Answer) (k : Nat) : (s.answered a).gen k = s.gen k := rfl
@[simp] theorem State.core_zero (lo hi : Nat) (k : Nat) : (s.zero lo hi).core k = s.core k := rfl
@[simp] theorem State.tenant_zero (lo hi : Nat) (k : Nat) : (s.zero lo hi).tenant k = s.tenant k := rfl
@[simp] theorem State.fn_zero (lo hi : Nat) (k : Nat) : (s.zero lo hi).fn k = s.fn k := rfl
@[simp] theorem State.port_zero (lo hi : Nat) (k : Nat) : (s.zero lo hi).port k = s.port k := rfl
@[simp] theorem State.node_zero (lo hi : Nat) (k : Nat) : (s.zero lo hi).node k = s.node k := rfl
@[simp] theorem State.slot_zero (lo hi : Nat) (k : Nat) : (s.zero lo hi).slot k = s.slot k := rfl
@[simp] theorem State.gen_zero (lo hi : Nat) (k : Nat) : (s.zero lo hi).gen k = s.gen k := rfl
@[simp] theorem State.core_setPair (d : Nat) (p : Pair) (k : Nat) : (s.setPair d p).core k = s.core k := rfl
@[simp] theorem State.tenant_setPair (d : Nat) (p : Pair) (k : Nat) : (s.setPair d p).tenant k = s.tenant k := rfl
@[simp] theorem State.fn_setPair (d : Nat) (p : Pair) (k : Nat) : (s.setPair d p).fn k = s.fn k := rfl
@[simp] theorem State.port_setPair (d : Nat) (p : Pair) (k : Nat) : (s.setPair d p).port k = s.port k := rfl
@[simp] theorem State.node_setPair (d : Nat) (p : Pair) (k : Nat) : (s.setPair d p).node k = s.node k := rfl
@[simp] theorem State.slot_setPair (d : Nat) (p : Pair) (k : Nat) : (s.setPair d p).slot k = s.slot k := rfl
@[simp] theorem State.gen_setPair (d : Nat) (p : Pair) (k : Nat) : (s.setPair d p).gen k = s.gen k := rfl
@[simp] theorem State.core_sendFlit (p : Nat) (t : Option Nat) (y : BitVec 8) (l : List Word) (k : Nat) : (s.sendFlit p t y l).core k = s.core k := rfl
@[simp] theorem State.tenant_sendFlit (p : Nat) (t : Option Nat) (y : BitVec 8) (l : List Word) (k : Nat) : (s.sendFlit p t y l).tenant k = s.tenant k := rfl
@[simp] theorem State.fn_sendFlit (p : Nat) (t : Option Nat) (y : BitVec 8) (l : List Word) (k : Nat) : (s.sendFlit p t y l).fn k = s.fn k := rfl
@[simp] theorem State.node_sendFlit (p : Nat) (t : Option Nat) (y : BitVec 8) (l : List Word) (k : Nat) : (s.sendFlit p t y l).node k = s.node k := rfl
@[simp] theorem State.slot_sendFlit (p : Nat) (t : Option Nat) (y : BitVec 8) (l : List Word) (k : Nat) : (s.sendFlit p t y l).slot k = s.slot k := rfl
@[simp] theorem State.gen_sendFlit (p : Nat) (t : Option Nat) (y : BitVec 8) (l : List Word) (k : Nat) : (s.sendFlit p t y l).gen k = s.gen k := rfl
@[simp] theorem State.core_tdisp (c : TdispCode) (k : Nat) : (s.tdisp c).core k = s.core k := rfl
@[simp] theorem State.tenant_tdisp (c : TdispCode) (k : Nat) : (s.tdisp c).tenant k = s.tenant k := rfl
@[simp] theorem State.fn_tdisp (c : TdispCode) (k : Nat) : (s.tdisp c).fn k = s.fn k := rfl
@[simp] theorem State.port_tdisp (c : TdispCode) (k : Nat) : (s.tdisp c).port k = s.port k := rfl
@[simp] theorem State.node_tdisp (c : TdispCode) (k : Nat) : (s.tdisp c).node k = s.node k := rfl
@[simp] theorem State.slot_tdisp (c : TdispCode) (k : Nat) : (s.tdisp c).slot k = s.slot k := rfl
@[simp] theorem State.gen_tdisp (c : TdispCode) (k : Nat) : (s.tdisp c).gen k = s.gen k := rfl
@[simp] theorem State.core_setTdi (n : Nat) (t : Tdi) (k : Nat) : (s.setTdi n t).core k = s.core k := rfl
@[simp] theorem State.tenant_setTdi (n : Nat) (t : Tdi) (k : Nat) : (s.setTdi n t).tenant k = s.tenant k := rfl
@[simp] theorem State.port_setTdi (n : Nat) (t : Tdi) (k : Nat) : (s.setTdi n t).port k = s.port k := rfl
@[simp] theorem State.node_setTdi (n : Nat) (t : Tdi) (k : Nat) : (s.setTdi n t).node k = s.node k := rfl
@[simp] theorem State.slot_setTdi (n : Nat) (t : Tdi) (k : Nat) : (s.setTdi n t).slot k = s.slot k := rfl
@[simp] theorem State.gen_setTdi (n : Nat) (t : Tdi) (k : Nat) : (s.setTdi n t).gen k = s.gen k := rfl

/-! ### The registers of a strand -/

section

variable (t : Strand)

@[simp] theorem Strand.setC_x (r : CReg) (v : CapReg) : (t.setC r v).x = t.x := rfl
@[simp] theorem Strand.setC_pcc (r : CReg) (v : CapReg) : (t.setC r v).pcc = t.pcc := rfl
@[simp] theorem Strand.setC_pc (r : CReg) (v : CapReg) : (t.setC r v).pc = t.pc := rfl
@[simp] theorem Strand.setC_v (r : CReg) (v : CapReg) : (t.setC r v).v = t.v := rfl
@[simp] theorem Strand.setC_p (r : CReg) (v : CapReg) : (t.setC r v).p = t.p := rfl
@[simp] theorem Strand.setC_status (r : CReg) (v : CapReg) : (t.setC r v).status = t.status := rfl
@[simp] theorem Strand.setC_livemask (r : CReg) (v : CapReg) : (t.setC r v).livemask = t.livemask := rfl
@[simp] theorem Strand.setC_faultinfo (r : CReg) (v : CapReg) : (t.setC r v).faultinfo = t.faultinfo := rfl
@[simp] theorem Strand.setC_bind (r : CReg) (v : CapReg) : (t.setC r v).bind = t.bind := rfl
@[simp] theorem Strand.setC_prio (r : CReg) (v : CapReg) : (t.setC r v).prio = t.prio := rfl
@[simp] theorem Strand.setC_lstamp (r : CReg) (v : CapReg) : (t.setC r v).lstamp = t.lstamp := rfl
@[simp] theorem Strand.setV_x (r : VReg) (v : Vec) : (t.setV r v).x = t.x := rfl
@[simp] theorem Strand.setV_c (r : VReg) (v : Vec) : (t.setV r v).c = t.c := rfl
@[simp] theorem Strand.setV_pcc (r : VReg) (v : Vec) : (t.setV r v).pcc = t.pcc := rfl
@[simp] theorem Strand.setV_pc (r : VReg) (v : Vec) : (t.setV r v).pc = t.pc := rfl
@[simp] theorem Strand.setV_p (r : VReg) (v : Vec) : (t.setV r v).p = t.p := rfl
@[simp] theorem Strand.setV_status (r : VReg) (v : Vec) : (t.setV r v).status = t.status := rfl
@[simp] theorem Strand.setV_livemask (r : VReg) (v : Vec) : (t.setV r v).livemask = t.livemask := rfl
@[simp] theorem Strand.setV_faultinfo (r : VReg) (v : Vec) : (t.setV r v).faultinfo = t.faultinfo := rfl
@[simp] theorem Strand.setV_bind (r : VReg) (v : Vec) : (t.setV r v).bind = t.bind := rfl
@[simp] theorem Strand.setV_prio (r : VReg) (v : Vec) : (t.setV r v).prio = t.prio := rfl
@[simp] theorem Strand.setV_lstamp (r : VReg) (v : Vec) : (t.setV r v).lstamp = t.lstamp := rfl
@[simp] theorem Strand.setP_x (r : PReg) (v : Word) : (t.setP r v).x = t.x := rfl
@[simp] theorem Strand.setP_c (r : PReg) (v : Word) : (t.setP r v).c = t.c := rfl
@[simp] theorem Strand.setP_pcc (r : PReg) (v : Word) : (t.setP r v).pcc = t.pcc := rfl
@[simp] theorem Strand.setP_pc (r : PReg) (v : Word) : (t.setP r v).pc = t.pc := rfl
@[simp] theorem Strand.setP_v (r : PReg) (v : Word) : (t.setP r v).v = t.v := rfl
@[simp] theorem Strand.setP_status (r : PReg) (v : Word) : (t.setP r v).status = t.status := rfl
@[simp] theorem Strand.setP_livemask (r : PReg) (v : Word) : (t.setP r v).livemask = t.livemask := rfl
@[simp] theorem Strand.setP_faultinfo (r : PReg) (v : Word) : (t.setP r v).faultinfo = t.faultinfo := rfl
@[simp] theorem Strand.setP_bind (r : PReg) (v : Word) : (t.setP r v).bind = t.bind := rfl
@[simp] theorem Strand.setP_prio (r : PReg) (v : Word) : (t.setP r v).prio = t.prio := rfl
@[simp] theorem Strand.setP_lstamp (r : PReg) (v : Word) : (t.setP r v).lstamp = t.lstamp := rfl
@[simp] theorem Strand.next_x : t.next.x = t.x := rfl
@[simp] theorem Strand.next_c : t.next.c = t.c := rfl
@[simp] theorem Strand.next_pcc : t.next.pcc = t.pcc := rfl
@[simp] theorem Strand.next_v : t.next.v = t.v := rfl
@[simp] theorem Strand.next_p : t.next.p = t.p := rfl
@[simp] theorem Strand.next_livemask : t.next.livemask = t.livemask := rfl
@[simp] theorem Strand.next_faultinfo : t.next.faultinfo = t.faultinfo := rfl
@[simp] theorem Strand.next_bind : t.next.bind = t.bind := rfl
@[simp] theorem Strand.next_prio : t.next.prio = t.prio := rfl
@[simp] theorem Strand.next_lstamp : t.next.lstamp = t.lstamp := rfl
@[simp] theorem Strand.setX_c (r : XReg) (v : Word) : (t.setX r v).c = t.c := by
  unfold Strand.setX; split <;> rfl
@[simp] theorem Strand.setX_pcc (r : XReg) (v : Word) : (t.setX r v).pcc = t.pcc := by
  unfold Strand.setX; split <;> rfl
@[simp] theorem Strand.setX_pc (r : XReg) (v : Word) : (t.setX r v).pc = t.pc := by
  unfold Strand.setX; split <;> rfl
@[simp] theorem Strand.setX_v (r : XReg) (v : Word) : (t.setX r v).v = t.v := by
  unfold Strand.setX; split <;> rfl
@[simp] theorem Strand.setX_p (r : XReg) (v : Word) : (t.setX r v).p = t.p := by
  unfold Strand.setX; split <;> rfl
@[simp] theorem Strand.setX_status (r : XReg) (v : Word) : (t.setX r v).status = t.status := by
  unfold Strand.setX; split <;> rfl
@[simp] theorem Strand.setX_livemask (r : XReg) (v : Word) : (t.setX r v).livemask = t.livemask := by
  unfold Strand.setX; split <;> rfl
@[simp] theorem Strand.setX_faultinfo (r : XReg) (v : Word) : (t.setX r v).faultinfo = t.faultinfo := by
  unfold Strand.setX; split <;> rfl
@[simp] theorem Strand.setX_bind (r : XReg) (v : Word) : (t.setX r v).bind = t.bind := by
  unfold Strand.setX; split <;> rfl
@[simp] theorem Strand.setX_prio (r : XReg) (v : Word) : (t.setX r v).prio = t.prio := by
  unfold Strand.setX; split <;> rfl
@[simp] theorem Strand.setX_lstamp (r : XReg) (v : Word) : (t.setX r v).lstamp = t.lstamp := by
  unfold Strand.setX; split <;> rfl

@[simp] theorem Strand.next_pc : t.next.pc = t.pc + 4 := rfl
@[simp] theorem Strand.next_status : t.next.status = setPP t.status false := rfl
@[simp] theorem Strand.getX_zero : t.getX 0 = 0 := rfl
@[simp] theorem Strand.setX_zero (v : Word) : t.setX 0 v = t := rfl
@[simp] theorem Strand.getX_setX_self {r : XReg} (v : Word) (h : r ≠ 0) : (t.setX r v).getX r = v := by
  rw [Strand.setX, if_neg h, Strand.getX, if_neg h]
  simp
theorem Strand.getX_setX_ne {r q : XReg} (v : Word) (h : q ≠ r) : (t.setX r v).getX q = t.getX q := by
  unfold Strand.getX Strand.setX
  split
  · rfl
  · split
    · rfl
    · simp [BitVec.toNat_inj, h.symm]
@[simp] theorem Strand.getC_setC_self (r : CReg) (v : CapReg) : (t.setC r v).getC r = v := by simp [Strand.getC, Strand.setC]
theorem Strand.getC_setC_ne {r q : CReg} (v : CapReg) (h : q ≠ r) : (t.setC r v).getC q = t.getC q := by
  simp [Strand.getC, Strand.setC, BitVec.toNat_inj, h.symm]
@[simp] theorem Strand.getV_setV_self (r : VReg) (v : Vec) : (t.setV r v).getV r = v := by simp [Strand.getV, Strand.setV]
theorem Strand.getV_setV_ne {r q : VReg} (v : Vec) (h : q ≠ r) : (t.setV r v).getV q = t.getV q := by
  simp [Strand.getV, Strand.setV, BitVec.toNat_inj, h.symm]
@[simp] theorem Strand.getP_setP_self (r : PReg) (v : Word) : (t.setP r v).getP r = v := by simp [Strand.getP, Strand.setP]
theorem Strand.getP_setP_ne {r q : PReg} (v : Word) (h : q ≠ r) : (t.setP r v).getP q = t.getP q := by
  simp [Strand.getP, Strand.setP, BitVec.toNat_inj, h.symm]

end

end Sys2Proof.Machine
end

