-- ==== Sys2Proof/Laws/Memory.lean ====
section
/-! SUPPORT. The memory list: a byte read after a write, and the canonical form kept by every operation on it. -/

namespace Sys2Proof.Machine

/-! ### Reading after writing -/

@[simp] theorem memGet_nil (a : Nat) : memGet [] a = 0 := rfl

theorem memGet_memPut (m : List Host.Cell) (a q : Nat) (b : Byte) : memGet (memPut m a b) q = if q = a then b else memGet m q := by
  unfold memGet memPut
  by_cases hb : b = 0
  · rw [if_pos hb]
    by_cases hq : q = a
    · rw [if_pos hq, hq, Table.get_del_self, hb]
    · rw [if_neg hq, Table.get_del_ne _ _ hq]
  · rw [if_neg hb, Table.get_set]

/-- A byte at no listed place is as it was. -/
theorem memGet_memPuts_ne (m cs : List Host.Cell) (q : Nat) (h : ∀ c ∈ cs, c.1 ≠ q) : memGet (memPuts m cs) q = memGet m q := by
  induction cs generalizing m with
  | nil => rfl
  | cons c r ih =>
    change memGet (memPuts (memPut m c.1 c.2) r) q = _
    rw [ih _ fun x hx => h x (List.mem_cons_of_mem _ hx), memGet_memPut, if_neg (h c List.mem_cons_self).symm]

theorem cellsFrom_mem {a : Nat} {bs : List Byte} {c : Host.Cell} (h : c ∈ cellsFrom a bs) : a ≤ c.1 ∧ c.1 < a + bs.length := by
  induction bs generalizing a with
  | nil => cases h
  | cons b r ih =>
    rcases List.mem_cons.1 h with h | h
    · subst h; simp
    · have := ih h; simp only [List.length_cons]; omega

/-- Bytes outside a run that is written are as they were. -/
theorem memGet_cellsFrom_outside (m : List Host.Cell) (a q : Nat) (bs : List Byte) (h : q < a ∨ a + bs.length ≤ q) :
    memGet (memPuts m (cellsFrom a bs)) q = memGet m q :=
  memGet_memPuts_ne _ _ _ fun c hc => by have := cellsFrom_mem hc; omega

/-- A byte of a run that is written. -/
theorem memGet_cellsFrom_inside (m : List Host.Cell) (a i : Nat) (bs : List Byte) (h : i < bs.length) :
    memGet (memPuts m (cellsFrom a bs)) (a + i) = bs[i] := by
  induction bs generalizing m a i with
  | nil => cases h
  | cons b r ih =>
    change memGet (memPuts (memPut m a b) (cellsFrom (a + 1) r)) (a + i) = _
    cases i with
    | zero =>
      rw [memGet_cellsFrom_outside _ _ _ _ (by omega), memGet_memPut, if_pos (by omega)]
      rfl
    | succ i =>
      rw [show a + (i + 1) = a + 1 + i by omega, ih _ _ _ (by simpa using h)]
      rfl

@[simp] theorem natBytes_length (n v : Nat) : (natBytes n v).length = n := by
  induction n generalizing v with
  | zero => rfl
  | succ n ih => simp [natBytes, ih]

/-- The bytes of a value, put together again. -/
theorem bytesNat_natBytes (n v : Nat) : bytesNat (natBytes n v) = v % 256 ^ n := by
  induction n generalizing v with
  | zero => simp [natBytes, bytesNat, Nat.mod_one]
  | succ n ih =>
    have h : bytesNat (natBytes (n + 1) v) = v % 256 + 256 * bytesNat (natBytes n (v / 256)) := by
      simp [natBytes, bytesNat]
    rw [h, ih, Nat.pow_succ, Nat.mul_comm (256 ^ n) 256, Nat.mod_mul]

/-- The n bytes read where n bytes were written. -/
theorem memNat_cellsFrom (m : List Host.Cell) (a n v : Nat) : memNat (memPuts m (cellsFrom a (natBytes n v))) a n = v % 256 ^ n := by
  rw [← bytesNat_natBytes]
  unfold memNat memRead
  congr 1
  apply List.ext_getElem (by simp)
  intro i h1 h2
  simp only [List.getElem_map, List.getElem_range]
  exact memGet_cellsFrom_inside _ _ _ _ h2

/-- A byte of a memory from which places were dropped by their address. -/
theorem memGet_filter (m : List Host.Cell) (p : Nat → Bool) (q : Nat) :
    memGet (m.filter fun c => p c.1) q = if p q then memGet m q else 0 := by
  unfold memGet
  induction m with
  | nil => simp [Table.get]
  | cons c r ih =>
    obtain ⟨i, b⟩ := c
    by_cases hp : p i
    · rw [List.filter_cons_of_pos (by simpa using hp)]
      simp only [Table.get]
      by_cases hi : i = q
      · subst hi; simp [hp]
      · rw [if_neg hi, if_neg hi]; exact ih
    · rw [List.filter_cons_of_neg (by simpa using hp), ih]
      simp only [Table.get]
      by_cases hi : i = q
      · subst hi; simp [hp]
      · simp [hi]

theorem memGet_memClear (m : List Host.Cell) (lo hi q : Nat) :
    memGet (memClear m lo hi) q = if lo ≤ q ∧ q < hi then 0 else memGet m q := by
  unfold memClear
  rw [memGet_filter m (fun a => !(decide (lo ≤ a) && decide (a < hi)))]
  by_cases h : lo ≤ q ∧ q < hi
  · simp [h]
  · rw [if_neg h, if_pos]
    simp only [Bool.not_eq_true', Bool.and_eq_false_iff, decide_eq_false_iff_not]
    omega

/-! ### The canonical form -/

theorem memSorted_mono {lo lo' : Nat} {m : List Host.Cell} (h : lo' ≤ lo) (w : memSorted lo m = true) : memSorted lo' m = true := by
  cases m with
  | nil => rfl
  | cons c r =>
    obtain ⟨a, b⟩ := c
    simp only [memSorted, Bool.and_eq_true, decide_eq_true_eq] at w ⊢
    exact ⟨⟨by omega, w.1.2⟩, w.2⟩

theorem memSorted_filter {lo : Nat} {m : List Host.Cell} (p : Host.Cell → Bool) (w : memSorted lo m = true) :
    memSorted lo (m.filter p) = true := by
  induction m generalizing lo with
  | nil => rfl
  | cons c r ih =>
    obtain ⟨a, b⟩ := c
    simp only [memSorted, Bool.and_eq_true, decide_eq_true_eq] at w
    by_cases hp : p (a, b)
    · rw [List.filter_cons_of_pos hp]
      simp only [memSorted, Bool.and_eq_true, decide_eq_true_eq]
      exact ⟨⟨w.1.1, w.1.2⟩, ih w.2⟩
    · rw [List.filter_cons_of_neg hp]
      exact memSorted_mono (by omega) (ih w.2)

theorem Table.del_eq_filter {α : Type} (t : Table α) (k : Nat) : Table.del t k = t.filter fun x => x.1 != k := by
  induction t with
  | nil => rfl
  | cons x r ih =>
    obtain ⟨i, a⟩ := x
    by_cases h : i = k <;> simp [Table.del, h, ih]

theorem memSorted_ins {lo a : Nat} {b : Byte} {m : List Host.Cell} (w : memSorted lo m = true) (h : lo ≤ a) (hb : b ≠ 0)
    (hn : ∀ x ∈ m, x.1 ≠ a) : memSorted lo (Table.ins m a b) = true := by
  induction m generalizing lo with
  | nil => simpa [Table.ins, memSorted, h] using hb
  | cons c r ih =>
    obtain ⟨i, x⟩ := c
    simp only [memSorted, Bool.and_eq_true, decide_eq_true_eq] at w
    unfold Table.ins
    split
    · simp only [memSorted, Bool.and_eq_true, decide_eq_true_eq]
      exact ⟨⟨h, by simpa using hb⟩, ⟨by omega, w.1.2⟩, w.2⟩
    · have hi : i ≠ a := hn (i, x) (by simp)
      simp only [memSorted, Bool.and_eq_true, decide_eq_true_eq]
      exact ⟨⟨w.1.1, w.1.2⟩, ih w.2 (by omega) fun y hy => hn y (by simp [hy])⟩

theorem memPut_wf {m : List Host.Cell} (w : Memory.wf m = true) (a : Nat) (b : Byte) : Memory.wf (memPut m a b) = true := by
  unfold memPut Memory.wf
  split
  · rw [Table.del_eq_filter]; exact memSorted_filter _ w
  · refine memSorted_ins ?_ (by omega) (by assumption) (Table.del_none m a)
    rw [Table.del_eq_filter]; exact memSorted_filter _ w

theorem memPuts_wf {m : List Host.Cell} (w : Memory.wf m = true) (cs : List Host.Cell) : Memory.wf (memPuts m cs) = true := by
  unfold memPuts
  induction cs generalizing m with
  | nil => exact w
  | cons c r ih => exact ih (memPut_wf w c.1 c.2)

theorem memFilter_wf {m : List Host.Cell} (w : Memory.wf m = true) (p : Host.Cell → Bool) : Memory.wf (m.filter p) = true :=
  memSorted_filter p w

theorem memClear_wf {m : List Host.Cell} (w : Memory.wf m = true) (lo hi : Nat) : Memory.wf (memClear m lo hi) = true :=
  memSorted_filter _ w

theorem setMark_wf {m : List Host.Cell} (w : Memory.wf m = true) (p : Nat) (b : Bool) : Memory.wf (setMark m p b) = true :=
  memPut_wf w _ _

theorem setMarks_wf {m : List Host.Cell} (w : Memory.wf m = true) (l : List Nat) (b : Bool) :
    Memory.wf (l.foldl (fun m p => setMark m p b) m) = true := by
  induction l generalizing m with
  | nil => exact w
  | cons p r ih => exact ih (setMark_wf w p b)

/-! ### The tag list -/

theorem rising_mono {lo lo' : Nat} {l : List Nat} (h : lo' ≤ lo) (w : rising lo l = true) : rising lo' l = true := by
  cases l with
  | nil => rfl
  | cons a r =>
    simp only [rising, Bool.and_eq_true, decide_eq_true_eq] at w ⊢
    exact ⟨by omega, w.2⟩

theorem rising_filter {lo : Nat} {l : List Nat} (p : Nat → Bool) (w : rising lo l = true) : rising lo (l.filter p) = true := by
  induction l generalizing lo with
  | nil => rfl
  | cons a r ih =>
    simp only [rising, Bool.and_eq_true, decide_eq_true_eq] at w
    by_cases hp : p a
    · rw [List.filter_cons_of_pos hp]
      simp only [rising, Bool.and_eq_true, decide_eq_true_eq]
      exact ⟨w.1, ih w.2⟩
    · rw [List.filter_cons_of_neg hp]
      exact rising_mono (by omega) (ih w.2)

theorem rising_tagIns {lo g : Nat} {l : List Nat} (w : rising lo l = true) (h : lo ≤ g) : rising lo (tagIns l g) = true := by
  induction l generalizing lo with
  | nil => simp [tagIns, rising, h]
  | cons a r ih =>
    simp only [rising, Bool.and_eq_true, decide_eq_true_eq] at w
    unfold tagIns
    split
    · simp only [rising, Bool.and_eq_true, decide_eq_true_eq]
      exact ⟨h, by omega, w.2⟩
    · split
      · simp only [rising, Bool.and_eq_true, decide_eq_true_eq]
        exact w
      · simp only [rising, Bool.and_eq_true, decide_eq_true_eq]
        exact ⟨w.1, ih w.2 (by omega)⟩

theorem rising_tagPut {l : List Nat} (w : rising 0 l = true) (g : Nat) (v : Bool) : rising 0 (tagPut l g v) = true := by
  unfold tagPut tagDel
  split
  · exact rising_tagIns (rising_filter _ w) (by omega)
  · exact rising_filter _ w

theorem not_mem_tagPut_false (l : List Nat) (g : Nat) : g ∉ tagPut l g false := by simp [tagPut, tagDel]

/-! ### The operations of the state -/

theorem State.reset_memOk : State.reset.memOk := by decide

/-- An update that leaves memory and tags alone keeps their form. -/
theorem State.memOk_of_eq {s t : State} (w : s.memOk) (hm : t.mem = s.mem) (ht : t.tags = s.tags) : t.memOk := by
  unfold State.memOk
  rw [hm, ht]
  exact w

theorem State.pokeByte_memOk {s : State} (w : s.memOk) (t : Nat) (p : Place) (b : Byte) : (s.pokeByte t p b).memOk := by
  unfold State.pokeByte
  split
  · exact w
  · exact ⟨memPut_wf w.1 _ _, by dsimp only [State.putSlot]; exact rising_tagPut w.2 _ _⟩

theorem State.pokeBytes_memOk {s : State} (w : s.memOk) (t : Nat) (ps : List (Place × Byte)) :
    (ps.foldl (fun s p => s.pokeByte t p.1 p.2) s).memOk := by
  induction ps generalizing s with
  | nil => exact w
  | cons p r ih => exact ih (s.pokeByte_memOk w t p.1 p.2)

theorem State.putWord_memOk {s : State} (w : s.memOk) (a : Nat) (v : Word) : (s.putWord a v).memOk := by
  unfold State.putWord
  split
  · exact w
  · exact ⟨memPuts_wf w.1 _, by dsimp only [State.putSlot]; exact rising_tagPut w.2 _ _⟩

theorem State.putSlot_memOk {s : State} (w : s.memOk) (a : Nat) (l : List Word) : (s.putSlot a l).memOk :=
  ⟨memPuts_wf w.1 _, by dsimp only [State.putSlot]; exact rising_tagPut w.2 _ _⟩

theorem State.zero_memOk {s : State} (w : s.memOk) (lo hi : Nat) : (s.zero lo hi).memOk :=
  ⟨memClear_wf w.1 _ _, by dsimp only [State.zero]; exact rising_filter _ w.2⟩

theorem State.pokeHost_memOk {s : State} (w : s.memOk) (fn io : Nat) (bs : List Byte) : (s.pokeHost fn io bs).memOk :=
  ⟨memPuts_wf w.1 _, w.2⟩

theorem State.logAt_mem (s : State) (k d : BitVec 8) (u : BitVec 16) (f : Option Nat) (a x : Word) :
    (s.logAt k d u f a x).mem = s.mem ∧ (s.logAt k d u f a x).tags = s.tags := by
  unfold State.logAt
  dsimp only
  split <;> exact ⟨rfl, rfl⟩

theorem State.putUnits_memOk {s : State} (w : s.memOk) (r : Ring) (i : Nat) (us : List Vec) : (s.putUnits r i us).memOk := by
  induction us generalizing s i with
  | nil => exact w
  | cons u us ih =>
    refine ih ?_ _
    split
    · exact State.memOk_of_eq w (s.logAt_mem ..).1 (s.logAt_mem ..).2
    · exact ⟨memPuts_wf w.1 _, by dsimp only; exact rising_tagPut w.2 _ _⟩

theorem State.writeBack_memOk {s : State} (w : s.memOk) (l : L2Line) : (s.writeBack l).memOk := by
  unfold State.writeBack
  split
  · exact w
  · split
    · exact State.memOk_of_eq w (s.logAt_mem ..).1 (s.logAt_mem ..).2
    · split
      · exact w
      · refine ⟨memPuts_wf w.1 _, ?_⟩
        dsimp only
        split
        · exact w.2
        · exact rising_tagPut w.2 _ _

theorem State.writeBack_l2_memOk {s : State} (w : s.memOk) (l : L2Line) (ls : List L2Line) :
    State.memOk { s.writeBack l with l2 := ls } := State.writeBack_memOk w l

theorem State.writeBacks_memOk {s : State} (w : s.memOk) (ls : List L2Line) :
    (ls.foldl (fun s l => s.writeBack l) s).memOk := by
  induction ls generalizing s with
  | nil => exact w
  | cons l r ih => exact ih (State.writeBack_memOk w l)

theorem State.flushHeld_memOk {s : State} (w : s.memOk) (fn : Nat) : (s.flushHeld fn).memOk := by
  have h := State.writeBacks_memOk (s := { s with heldWrites := dropWhere s.heldWrites fun l => l.tenant == fn }) w
    (s.heldWrites.filter fun l => l.tenant == fn)
  exact ⟨h.1, h.2⟩

theorem State.serviceWrite_memOk {s : State} (w : s.memOk) (t a : Nat) (v : Word) : (s.serviceWrite t a v).memOk := by
  unfold State.serviceWrite
  split
  · exact State.memOk_of_eq w (s.logAt_mem ..).1 (s.logAt_mem ..).2
  · exact State.putWord_memOk w a v

theorem State.l2Fill_memOk {s s' : State} {slice flat t va : Nat} (w : s.memOk) (h : s.l2Fill slice flat t va = .ok s') :
    s'.memOk := by
  unfold State.l2Fill at h
  split at h
  · cases h; exact w
  · split at h
    · cases h
    · dsimp only at h
      cases h
      split
      · exact w
      · dsimp only
        split
        · exact State.writeBack_l2_memOk (s := { s with fresh := s.fresh + 1, l2 := _ }) w _ _
        · exact w

theorem State.touch_memOk {s s' : State} {t va : Nat} {ps : List Place} (w : s.memOk) (h : s.touch t va ps = .ok s') :
    s'.memOk := by
  unfold State.touch at h
  induction ps generalizing s with
  | nil => cases h; exact w
  | cons p r ih =>
    rw [List.foldlM_cons] at h
    split at h
    · cases hf : s.l2Fill _ p.flat t va with
      | error e => rw [hf] at h; cases h
      | ok u => rw [hf] at h; exact ih (State.l2Fill_memOk w hf) h
    · split at h
      · cases h
      · exact ih w h

theorem State.readPlaces_memOk {s s' : State} {t va : Nat} {ps : List Place} {bs : List Byte} (w : s.memOk)
    (h : s.readPlaces t va ps = .ok (s', bs)) : s'.memOk := by
  unfold State.readPlaces at h
  cases hf : s.touch t va ps with
  | error e => rw [hf] at h; cases h
  | ok u =>
    rw [hf] at h
    cases h
    exact State.touch_memOk w hf

theorem State.replaced_memOk {s : State} (w : s.memOk) (fs : List Nat) : (s.replaced fs).memOk := by
  unfold State.replaced
  split
  · exact w
  · exact w

theorem State.putRecord_memOk {s : State} (w : s.memOk) (r : Ring) (i : Nat) (us : List Vec) : (s.putRecord r i us).memOk :=
  State.putUnits_memOk (State.replaced_memOk w _) r i us

theorem State.writePlaces_memOk {s s' : State} {t va : Nat} {ps : List (Place × Byte)} (w : s.memOk)
    (h : s.writePlaces t va ps = .ok s') : s'.memOk := by
  unfold State.writePlaces at h
  cases hf : (s.replaced (ps.map (·.1.flat))).touch t va (ps.map (·.1)) with
  | error e => rw [hf] at h; cases h
  | ok u =>
    rw [hf] at h
    cases h
    exact State.pokeBytes_memOk (State.touch_memOk (State.replaced_memOk w _) hf) t ps

theorem State.writeGranule_memOk {s s' : State} {t va : Nat} {p : Place} {img : Vec} {tag : Bool} (w : s.memOk)
    (h : s.writeGranule t va p img tag = .ok s') : s'.memOk := by
  unfold State.writeGranule at h
  dsimp only at h
  generalize hf : s.writePlaces t va _ = r at h
  cases r with
  | error e => cases h
  | ok u =>
    have hu := State.writePlaces_memOk w hf
    dsimp only [bind, Except.bind] at h
    split at h
    · cases h; exact hu
    · cases h; exact ⟨hu.1, by dsimp only; exact rising_tagPut hu.2 _ _⟩

theorem State.pump_memOk {s : State} (w : s.memOk) (fn fuel : Nat) : (s.pump fn fuel).memOk := by
  induction fuel generalizing s with
  | zero => exact w
  | succ n ih =>
    unfold State.pump
    dsimp only
    split
    · split
      · exact w
      · exact ih ⟨memPuts_wf w.1 _, w.2⟩
    · exact w

theorem State.post_memOk {s : State} (w : s.memOk) (fn : Nat) (type : BitVec 8) (rest : BitVec 480) :
    (s.post fn type rest).memOk := State.pump_memOk (s := s.updFn fn _) w _ _

end Sys2Proof.Machine
end

