-- ==== Sys2Proof/Laws/Ops.lean ====
section
/-! SUPPORT. What each shared operation can do, said once: the frames of an instruction, taking an exception, holding and
releasing bookmarks, and the turn of a core. -/

namespace Sys2Proof.Machine

/-! ### The frames of an instruction -/

/-- An instruction of a strand answers its effect. -/
theorem State.runAny_ok {s s' : State} {f : State → Raises State} (a : s.agent = .strand) (h : f s = .ok s') :
    s.runAny f = .next s' := by
  unfold State.runAny
  rw [a, h]

/-- An instruction of a strand that raises takes the exception. -/
theorem State.runAny_error {s : State} {f : State → Raises State} {t : Trap} (a : s.agent = .strand) (h : f s = .error t) :
    s.runAny f = .next (s.takeTrap t) := by
  unfold State.runAny
  rw [a, h]

/-- An instruction of strands never stops a strand: it answers a next state. -/
theorem State.runAny_next {s : State} (f : State → Raises State) (a : s.agent = .strand) : ∃ s', s.runAny f = .next s' := by
  cases h : f s with
  | ok s' => exact ⟨s', State.runAny_ok a h⟩
  | error t => exact ⟨_, State.runAny_error a h⟩

theorem State.run_ok {s s' : State} {i : Instr} {f : State → Raises State} (p : s.plain) (h : f s = .ok s') :
    s.run i f = .next s' :=
  State.runAny_ok p.1 (by simpa [p.2] using h)

theorem State.run_error {s : State} {i : Instr} {f : State → Raises State} {t : Trap} (p : s.plain) (h : f s = .error t) :
    s.run i f = .next (s.takeTrap t) :=
  State.runAny_error p.1 (by simpa [p.2] using h)

/-- With a prefix pending, PREFIX_INVALID (R54). -/
theorem State.run_prefix {s : State} {i : Instr} {f : State → Raises State} (a : s.agent = .strand)
    (h : stPP s.strand.status = true) : s.run i f = .next (s.takeTrap { cause := cPrefix, detail := wordDetail i }) :=
  State.runAny_error a (by simp [h, raise])

/-- Clearing PP where it is clear changes nothing. -/
theorem setPP_of_clear {w : Word} (h : stPP w = false) : setPP w false = w := by
  apply BitVec.eq_of_getLsbD_eq
  intro i hi
  have hw : w.getLsbD 37 = false := h
  simp only [setPP, putBit, putBits, BitVec.getLsbD_or, BitVec.getLsbD_and, BitVec.getLsbD_not, BitVec.getLsbD_shiftLeft,
    BitVec.getLsbD_setWidth, BitVec.getLsbD_allOnes, hi, decide_true, Bool.true_and]
  by_cases h37 : i = 37
  · subst h37
    simpa using hw.symm
  · by_cases hlt : i < 37
    · simp [hlt]
    · have : ¬ i - 37 < 1 := by omega
      simp [hlt, this]

/-- A register instruction completes: the strand becomes u, past the word. -/
theorem State.runReg_completes {s : State} {i : Instr} {f : Strand → Raises Strand} {u : Strand} (p : s.plain)
    (h : f s.strand = .ok u) (pc : u.pc = s.strand.pc) (st : stPP u.status = false) : s.runReg i f = .next (s.past u) := by
  refine State.run_ok p ?_
  simp only [h, bind, Except.bind]
  unfold State.past Strand.next
  rw [pc, setPP_of_clear st]

/-- An instruction that writes one x register completes. -/
theorem State.runX_completes {s : State} {i : Instr} (d : XReg) (f : Strand → Word) (p : s.plain) :
    s.runX i d f = .next (s.past (s.strand.setX d (f s.strand))) :=
  State.runReg_completes p rfl (by simp) (by simpa using p.2)

/-- What an event does. -/
theorem State.event_enabled {s : State} {b : Bool} {f : State → State} (h : b = true) : s.event b f = .next (f s) := by
  rw [State.event, if_pos h]

theorem State.event_disabled {s : State} {b : Bool} {f : State → State} (h : b = false) : s.event b f = .next s := by
  rw [State.event, h]; rfl

/-! ### Holding and releasing bookmarks -/

theorem State.hold_mem (s : State) (b : Bookmark) (h : Holder) (c n : Nat) (r : Room) : (s.hold b h c n r).mem = s.mem := rfl
theorem State.hold_tags (s : State) (b : Bookmark) (h : Holder) (c n : Nat) (r : Room) : (s.hold b h c n r).tags = s.tags := rfl

/-- A held bookmark is the last of the list, under the next number. -/
theorem State.hold_bms (s : State) (b : Bookmark) (h : Holder) (c n : Nat) (r : Room) :
    (s.hold b h c n r).bms =
      s.bms ++ [{ id := s.nextId, bm := b, holder := h, cluster := c, stamp := n, room := r, entered := s.cycle }] := rfl

theorem State.hold_numbered {s : State} (w : s.numbered) (b : Bookmark) (h : Holder) (c n : Nat) (r : Room) :
    (s.hold b h c n r).numbered := by
  intro x hx
  rw [State.hold_bms, List.mem_append, List.mem_singleton] at hx
  rcases hx with hx | hx
  · exact Nat.lt_succ_of_lt (w x hx)
  · subst hx; exact Nat.lt_succ_self _

theorem State.unhold_numbered {s : State} (w : s.numbered) (id : Nat) : (s.unhold id).numbered :=
  fun x hx => w x (List.mem_of_mem_filter hx)

theorem State.heldOf_mem {s : State} {id : Nat} {h : Held} (e : s.heldOf id = some h) : h ∈ s.bms ∧ h.id = id :=
  ⟨List.mem_of_find?_eq_some e, by simpa using List.find?_some e⟩

/-- Releasing a bookmark changes memory in no way. -/
theorem State.releaseAfter_mem (s : State) (late id : Nat) (b : Bool) :
    (s.releaseAfter late id b).mem = s.mem ∧ (s.releaseAfter late id b).tags = s.tags := by
  unfold State.releaseAfter
  split
  · exact ⟨rfl, rfl⟩
  · dsimp only
    split <;> exact ⟨rfl, rfl⟩

theorem State.release_mem (s : State) (id : Nat) (b : Bool) :
    (s.release id b).mem = s.mem ∧ (s.release id b).tags = s.tags := s.releaseAfter_mem 0 id b

/-- What releasing a bookmark does: it moves to the end of the list, ready and stamped after the c-cycles it takes (R272). -/
theorem State.releaseAfter_bms {s : State} {id : Nat} {h : Held} (late : Nat) (b : Bool) (e : s.heldOf id = some h) :
    (s.releaseAfter late id b).nextId = s.nextId ∧ ∃ h', (s.releaseAfter late id b).bms = s.bms.filter (·.id != id) ++ [h'] ∧
      h'.id = id ∧ h'.holder = .ready ∧ h'.stamp = s.cycle + late ∧ h'.bm.strand = h.bm.strand := by
  have hid := (State.heldOf_mem e).2
  unfold State.releaseAfter
  rw [e]
  dsimp only
  split <;> exact ⟨rfl, _, rfl, hid, rfl, rfl, rfl⟩

/-- A bookmark that is not held is not released. -/
theorem State.releaseAfter_none {s : State} {id : Nat} (late : Nat) (b : Bool) (e : s.heldOf id = none) :
    s.releaseAfter late id b = s := by
  unfold State.releaseAfter
  rw [e]

theorem State.releaseAfter_readied {s : State} {id : Nat} {h : Held} (late : Nat) (b : Bool) (e : s.heldOf id = some h) :
    (s.releaseAfter late id b).readied id (s.cycle + late) := by
  obtain ⟨-, h', hb, h1, h2, h3, -⟩ := State.releaseAfter_bms late b e
  exact ⟨h', by rw [hb]; exact List.mem_append_right _ (List.mem_singleton.2 rfl), h1, h2, h3⟩

theorem State.release_readied {s : State} {id : Nat} {h : Held} (b : Bool) (e : s.heldOf id = some h) :
    (s.release id b).readied id s.cycle := State.releaseAfter_readied 0 b e

theorem State.releaseAfter_numbered {s : State} (w : s.numbered) (late id : Nat) (b : Bool) :
    (s.releaseAfter late id b).numbered := by
  cases e : s.heldOf id with
  | none => rw [State.releaseAfter_none late b e]; exact w
  | some h =>
    obtain ⟨hn, h', hb, h1, -, -, -⟩ := State.releaseAfter_bms late b e
    obtain ⟨hm, hid⟩ := State.heldOf_mem e
    intro x hx
    rw [hb, List.mem_append, List.mem_singleton] at hx
    rw [hn]
    rcases hx with hx | hx
    · exact w x (List.mem_of_mem_filter hx)
    · subst hx
      rw [h1, ← hid]
      exact w h hm

theorem State.release_numbered {s : State} (w : s.numbered) (id : Nat) (b : Bool) : (s.release id b).numbered :=
  State.releaseAfter_numbered w 0 id b

/-! ### Taking an exception -/

theorem State.beginReset_mem (s : State) (t c : Nat) :
    (s.beginReset t c).mem = s.mem ∧ (s.beginReset t c).tags = s.tags ∧ (s.beginReset t c).bms = s.bms ∧
      (s.beginReset t c).nextId = s.nextId := by
  unfold State.beginReset
  split
  · split <;> exact ⟨rfl, rfl, rfl, rfl⟩
  · exact ⟨rfl, rfl, rfl, rfl⟩

theorem State.escalate_mem (s : State) (t : Nat) (k : BitVec 16) (h : Nat) :
    (s.escalate t k h).mem = s.mem ∧ (s.escalate t k h).tags = s.tags ∧ (s.escalate t k h).bms = s.bms ∧
      s.nextId ≤ (s.escalate t k h).nextId := by
  unfold State.escalate
  split
  · obtain ⟨h1, h2, h3, h4⟩ := s.beginReset_mem t 4
    exact ⟨h1, h2, h3, h4.ge⟩
  · exact ⟨rfl, rfl, rfl, Nat.le_succ _⟩

theorem State.escalate_numbered {s : State} (w : s.numbered) (t : Nat) (k : BitVec 16) (h : Nat) : (s.escalate t k h).numbered := by
  obtain ⟨-, -, h3, h4⟩ := s.escalate_mem t k h
  intro x hx
  rw [h3] at hx
  exact Nat.lt_of_lt_of_le (w x hx) h4

theorem State.beginReset_numbered {s : State} (w : s.numbered) (t c : Nat) : (s.beginReset t c).numbered := by
  obtain ⟨-, -, h3, h4⟩ := s.beginReset_mem t c
  intro x hx
  rw [h3] at hx
  rw [h4]
  exact w x hx

theorem State.placeFaultTask_some {s s' : State} {t core : Nat} {n : BitVec 6} {e : TaskEntry} {st : FaultStart}
    (h : s.placeFaultTask t core n e st = some s') : ∃ b r, s' = s.hold b .ready (core / 8) s.cycle r := by
  unfold State.placeFaultTask at h
  dsimp only at h
  obtain ⟨r, -, hr⟩ := Option.map_eq_some_iff.1 h
  exact ⟨_, r, hr.symm⟩

/-- Delivering a FAULT bookmark leaves memory and tags alone and keeps the numbering (R423, R424). -/
theorem State.deliver_spec {s : State} (b : Bookmark) :
    (s.deliver b).mem = s.mem ∧ (s.deliver b).tags = s.tags ∧ (s.numbered → (s.deliver b).numbered) := by
  unfold State.deliver
  dsimp only
  split
  · generalize he : Option.bind (β := State) _ _ = r
    cases r with
    | none =>
      obtain ⟨h1, h2, -, -⟩ := State.escalate_mem
        (({ s with nextHandle := s.newHandle + 1 } : State).hold b (.fault s.newHandle true) (b.lcore / 8) s.cycle .reserve)
        b.tenant (stComp b.strand.status) s.newHandle
      exact ⟨h1, h2, fun w => State.escalate_numbered (State.hold_numbered (s := { s with nextHandle := s.newHandle + 1 }) w _ _ _ _ _) _ _ _⟩
    | some u =>
      obtain ⟨c, -, hc⟩ := Option.bind_eq_some_iff.1 he
      obtain ⟨b', r, rfl⟩ := State.placeFaultTask_some hc
      exact ⟨rfl, rfl, fun w => State.hold_numbered (State.hold_numbered (s := { s with nextHandle := s.newHandle + 1 }) w _ _ _ _ _) _ _ _ _ _⟩
  · split
    · obtain ⟨h1, h2, -, -⟩ := State.escalate_mem
        ((({ s with nextHandle := s.newHandle + 1 } : State).updTenant b.tenant fun e =>
          { e with cssize := e.cssize + ceilDiv b.slots 64 }).hold b (.fault s.newHandle true) (b.lcore / 8) s.cycle .closed)
        b.tenant (stComp b.strand.status) s.newHandle
      exact ⟨h1, h2, fun w => State.escalate_numbered
        (State.hold_numbered (s := ({ s with nextHandle := s.newHandle + 1 } : State).updTenant b.tenant _) w _ _ _ _ _) _ _ _⟩
    · obtain ⟨h1, h2, -, -⟩ := State.beginReset_mem ({ s with nextHandle := s.newHandle + 1 } : State) b.tenant 4
      exact ⟨h1, h2, fun w => State.beginReset_numbered (s := { s with nextHandle := s.newHandle + 1 }) w _ _⟩

/-- A consumed error is logged and changes nothing but the log (R200). -/
theorem State.noteConsumed_mem (s : State) (t k : Nat) (c : BitVec 8) (d : BitVec 56) :
    (s.noteConsumed t k c d).mem = s.mem ∧ (s.noteConsumed t k c d).tags = s.tags ∧ (s.noteConsumed t k c d).bms = s.bms ∧
      (s.noteConsumed t k c d).nextId = s.nextId ∧ (s.noteConsumed t k c d).cores = s.cores := by
  unfold State.noteConsumed
  split <;> exact ⟨rfl, rfl, rfl, rfl, rfl⟩

/-- Only MEM_INTEGRITY is logged as consumed. -/
theorem State.noteConsumed_of_ne {s : State} {t k : Nat} {c : BitVec 8} {d : BitVec 56} (h : c ≠ cIntegrity) :
    s.noteConsumed t k c d = s := if_neg h

/-- A held bookmark that becomes a FAULT bookmark leaves memory and tags alone and keeps the numbering. -/
theorem State.faultHeld_spec (s : State) (id : Nat) (c : BitVec 8) (d : BitVec 56) (pc : Word) :
    (s.faultHeld id c d pc).mem = s.mem ∧ (s.faultHeld id c d pc).tags = s.tags ∧
      (s.numbered → (s.faultHeld id c d pc).numbered) := by
  unfold State.faultHeld
  split
  · exact ⟨rfl, rfl, fun w => w⟩
  next h _ =>
    obtain ⟨h1, h2, h3⟩ := ((s.unhold id).noteConsumed h.bm.tenant h.bm.lcore c d).deliver_spec (h.bm.toFault c d pc)
    obtain ⟨n1, n2, n3, n4, -⟩ := (s.unhold id).noteConsumed_mem h.bm.tenant h.bm.lcore c d
    refine ⟨h1.trans n1, h2.trans n2, fun w => h3 fun x hx => ?_⟩
    rw [n3] at hx
    rw [n4]
    exact State.unhold_numbered w id x hx

theorem State.charge_mem (s : State) (k : Nat) :
    (s.charge k).mem = s.mem ∧ (s.charge k).tags = s.tags ∧ (s.charge k).bms = s.bms ∧ (s.charge k).nextId = s.nextId := by
  unfold State.charge
  split <;> exact ⟨rfl, rfl, rfl, rfl⟩

/-- A core that its strand leaves changes nothing in memory or among the bookmarks. -/
theorem State.vacate_mem (s : State) (k : Nat) (m : CoreMode) (n : Nat) :
    (s.vacate k m n).mem = s.mem ∧ (s.vacate k m n).tags = s.tags ∧ (s.vacate k m n).bms = s.bms ∧
      (s.vacate k m n).nextId = s.nextId := s.charge_mem k

/-- The core is then in the mode given, without a strand. -/
theorem State.vacate_core (s : State) (k : Nat) (m : CoreMode) (n : Nat) :
    ((s.vacate k m n).core k).mode = m ∧ ((s.vacate k m n).core k).strand = {} := by
  unfold State.vacate
  simp

/-- A FAULT bookmark is entered: memory and tags stay, the numbering is kept (R423). -/
theorem State.enterFault_spec (s : State) (k : Nat) (f : Trap) :
    (s.enterFault k f).mem = s.mem ∧ (s.enterFault k f).tags = s.tags ∧ (s.numbered → (s.enterFault k f).numbered) := by
  unfold State.enterFault
  obtain ⟨h1, h2, h3⟩ := (s.vacate k .saving (ceilDiv (s.faultBookmark k f).slots 2)).deliver_spec (s.faultBookmark k f)
  obtain ⟨v1, v2, v3, v4⟩ := s.vacate_mem k .saving (ceilDiv (s.faultBookmark k f).slots 2)
  refine ⟨h1.trans v1, h2.trans v2, fun w => h3 fun x hx => ?_⟩
  rw [v3] at hx
  rw [v4]
  exact w x hx

/-- With nothing posted and no failure found, the drain is done at once (R218). -/
theorem State.drain_of_drained {s : State} (d : s.drained) : s.drain s.cur = .done s := by
  unfold State.drain State.offerAll
  rw [d.1]
  simp only [List.length_nil, State.acceptFrom, d.1, List.isEmpty_nil, if_true]
  unfold State.takeFailed
  rw [d.2]
  rfl

/-- A drained strand takes its exception at once (R421, R423). -/
theorem State.takeTrap_of_drained {s : State} (d : s.drained) (f : Trap) :
    s.takeTrap f = (s.noteConsumed (s.core s.cur).strand.tenant s.cur f.cause f.detail).enterFault s.cur f := by
  unfold State.takeTrap
  rw [State.drain_of_drained d]

/-- A drained drain point makes its effect. -/
theorem State.afterDrain_of_drained {s : State} (d : s.drained) (f : State → Raises State) : s.afterDrain f = f s := by
  unfold State.afterDrain
  rw [State.drain_of_drained d]

/-! ### The step -/

/-- A scheduled turn of a core with nothing due before it. -/
theorem step_core {s : State} {k w : Nat} {r : List Turn} (h : s.schedule = { wait := w, actor := .core k } :: r)
    (d : s.due (s.turnCycle { wait := w, actor := .core k }) = none) :
    step s = stepCore k (s.popTurn.advanceTo (s.turnCycle { wait := w, actor := .core k })) := by
  unfold step State.nextTurn
  rw [h]
  dsimp only
  rw [d]
  rfl

/-- A scheduled event with nothing due before it. -/
theorem step_event {s : State} {i : Instr} {w : Nat} {r : List Turn} (h : s.schedule = { wait := w, actor := .event i } :: r)
    (d : s.due (s.cycle + w) = none) (e : isEvent i = true) : step s = exec i (s.popTurn.advanceTo (s.cycle + w)) := by
  unfold step State.nextTurn
  rw [h]
  dsimp only [State.turnCycle]
  rw [d]
  dsimp only [act]
  rw [if_pos e]

end Sys2Proof.Machine
end

