-- ==== Sys2Proof/Laws/PerInstr.lean ====
section
/-! SUPPORT. The round trip of each instruction: the decoder reads from its word the instruction itself (02 R35 to R50). -/

namespace Sys2Proof.Laws

set_option Elab.async false

/-- The word of a well-formed instruction decodes to it; an event has no word. -/
def RoundTrip.Statement (i : Instr) : Prop := ∀ w, i.wf = true → encode i = some w → decode w = .ok i

/-- A word that decodes to i where i is well formed. -/
theorem RoundTrip.of_word {i : Instr} {w : Insn} (e : encode i = some w) (h : i.wf = true → decode w = .ok i) :
    RoundTrip.Statement i := by
  intro v hw hv
  rw [e] at hv
  cases hv
  exact h hw

/-- An event has no word. -/
theorem RoundTrip.of_none {i : Instr} (e : encode i = none) : RoundTrip.Statement i := by
  intro v _ hv
  rw [e] at hv
  cases hv

/-- The major 0b0010011. -/
theorem decode_13 {w : Insn} (h : fOp w = 0x13#7) : decode w = decodeOpImm w := by
  simp [decode, h]

/-- The major 0b0110011. -/
theorem decode_33 {w : Insn} (h : fOp w = 0x33#7) : decode w = decodeOp w := by
  simp [decode, h]

/-- The major 0b0110111. -/
theorem decode_37 {w : Insn} (h : fOp w = 0x37#7) : decode w = .ok (.lui (fRd w) (fU w)) := by
  simp [decode, h]

/-- The major 0b0010111. -/
theorem decode_17 {w : Insn} (h : fOp w = 0x17#7) : decode w = .ok (.auipc (fRd w) (fU w)) := by
  simp [decode, h]

/-- The major 0b1100011. -/
theorem decode_63 {w : Insn} (h : fOp w = 0x63#7) : decode w = decodeBranch w := by
  simp [decode, h]

/-- The major 0b1101111. -/
theorem decode_6f {w : Insn} (h : fOp w = 0x6F#7) : decode w = if fJz w = 0 then .ok (.jal (fRd w) (fJ w)) else .error .fixedField := by
  simp [decode, h]

/-- The major 0b1100111. -/
theorem decode_67 {w : Insn} (h : fOp w = 0x67#7) : decode w = decodeJalr w := by
  simp [decode, h]

/-- The major 0b0000011. -/
theorem decode_03 {w : Insn} (h : fOp w = 0x03#7) : decode w = decodeLoad w := by
  simp [decode, h]

/-- The major 0b0100011. -/
theorem decode_23 {w : Insn} (h : fOp w = 0x23#7) : decode w = decodeStore w := by
  simp [decode, h]

/-- The major 0b0001011. -/
theorem decode_0b {w : Insn} (h : fOp w = 0x0B#7) : decode w = decodeCap w := by
  simp [decode, h]

/-- The major 0b0101011. -/
theorem decode_2b {w : Insn} (h : fOp w = 0x2B#7) : decode w = decodeCounter w := by
  simp [decode, h]

/-- The major 0b1011011. -/
theorem decode_5b {w : Insn} (h : fOp w = 0x5B#7) : decode w = decodeEngine w := by
  simp [decode, h]

/-- The major 0b1111011. -/
theorem decode_7b {w : Insn} (h : fOp w = 0x7B#7) : decode w = decodeExchange w := by
  simp [decode, h]

/-- The major 0b1110011. -/
theorem decode_73 {w : Insn} (h : fOp w = 0x73#7) : decode w = decodeSystem w := by
  simp [decode, h]

/-- The major 0b0001111. -/
theorem decode_0f {w : Insn} (h : fOp w = 0x0F#7) : decode w = decodeMiscMem w := by
  simp [decode, h]

/-- The major 0b0101111. -/
theorem decode_2f {w : Insn} (h : fOp w = 0x2F#7) : decode w = decodeAmo w := by
  simp [decode, h]

/-- The major 0b1010111. -/
theorem decode_57 {w : Insn} (h : fOp w = 0x57#7) : decode w = decodeOpV (intEt w) w := by
  simp [decode, h]

/-- The major 0b1010011. -/
theorem decode_53 {w : Insn} (h : fOp w = 0x53#7) : decode w = withFp w decodeOpFp := by
  simp [decode, h]

/-- The major 0b1000011. -/
theorem decode_43 {w : Insn} (h : fOp w = 0x43#7) : decode w = decodeMadd (intEt w) w := by
  simp [decode, h]

/-- The major 0b1000111. -/
theorem decode_47 {w : Insn} (h : fOp w = 0x47#7) : decode w = withFp w decodeMsub := by
  simp [decode, h]

/-- The major 0b0000111. -/
theorem decode_07 {w : Insn} (h : fOp w = 0x07#7) : decode w = withEw w decodeLoadFp := by
  simp [decode, h]

/-- The major 0b0100111. -/
theorem decode_27 {w : Insn} (h : fOp w = 0x27#7) : decode w = withEw w decodeStoreFp := by
  simp [decode, h]

/-- The major 0b1001011. -/
theorem decode_4b {w : Insn} (h : fOp w = 0x4B#7) : decode w = decodePred w := by
  simp [decode, h]

/-- Every integer element type is read back. -/
theorem intEt_of_code {w : Insn} {et : IntEt} (h : fF3 w = et.code) : intEt w = et := by
  cases et <;> simp [intEt, h, IntEt.code]

/-- Every floating element type is read back. -/
theorem withFp_of_code {w : Insn} {et : FpEt} {k} (h : fF3 w = et.code) : withFp w k = k et w := by
  cases et <;> simp [withFp, h, FpEt.code]

/-- Every element width is read back. -/
theorem withEw_of_code {w : Insn} {ew : Ew} {k} (h : fF3 w = ew.code) : withEw w k = k ew w := by
  cases ew <;> simp [withEw, h, Ew.code]

/-- Every scope is read back. -/
@[simp] theorem withScope_code (s : Scope) (k) : withScope s.code k = .ok (k s) := by
  cases s <;> simp [withScope, Scope.code]

/-- The axes. -/
theorem axis_cases : ∀ axis : BitVec 2, axis = 0 ∨ axis = 1 ∨ axis = 2 ∨ axis = 3 := by decide

/-- The values of one bit. -/
theorem bit_cases : ∀ w : BitVec 1, w = 0 ∨ w = 1 := by decide

/-- funct7 of MSEND is not 0. -/
theorem msend_one : ∀ n : BitVec 3, (1#4 ++ n : BitVec 7) ≠ 0#7 := by decide

/-- funct7 of MSEND.W is not 0. -/
theorem msend_two : ∀ n : BitVec 3, (2#4 ++ n : BitVec 7) ≠ 0#7 := by decide

/-- The AMO width is read back. -/
@[simp] theorem wide_of_ofBool (w : Bool) : (BitVec.ofBool w == 1#1) = w := by cases w <;> decide

theorem RoundTrip.addi (d : XReg) (a : XReg) (imm : BitVec 12) : RoundTrip.Statement (.addi d a imm) := by
  refine RoundTrip.of_word rfl fun _ => ?_
  simp only [packI]
  rw [decode_13 (by simp)]
  simp [decodeOpImm]

theorem RoundTrip.slti (d : XReg) (a : XReg) (imm : BitVec 12) : RoundTrip.Statement (.slti d a imm) := by
  refine RoundTrip.of_word rfl fun _ => ?_
  simp only [packI]
  rw [decode_13 (by simp)]
  simp [decodeOpImm]

theorem RoundTrip.sltiu (d : XReg) (a : XReg) (imm : BitVec 12) : RoundTrip.Statement (.sltiu d a imm) := by
  refine RoundTrip.of_word rfl fun _ => ?_
  simp only [packI]
  rw [decode_13 (by simp)]
  simp [decodeOpImm]

theorem RoundTrip.xori (d : XReg) (a : XReg) (imm : BitVec 12) : RoundTrip.Statement (.xori d a imm) := by
  refine RoundTrip.of_word rfl fun _ => ?_
  simp only [packI]
  rw [decode_13 (by simp)]
  simp [decodeOpImm]

theorem RoundTrip.ori (d : XReg) (a : XReg) (imm : BitVec 12) : RoundTrip.Statement (.ori d a imm) := by
  refine RoundTrip.of_word rfl fun _ => ?_
  simp only [packI]
  rw [decode_13 (by simp)]
  simp [decodeOpImm]

theorem RoundTrip.andi (d : XReg) (a : XReg) (imm : BitVec 12) : RoundTrip.Statement (.andi d a imm) := by
  refine RoundTrip.of_word rfl fun _ => ?_
  simp only [packI]
  rw [decode_13 (by simp)]
  simp [decodeOpImm]

theorem RoundTrip.slli (d : XReg) (a : XReg) (sh : BitVec 6) : RoundTrip.Statement (.slli d a sh) := by
  refine RoundTrip.of_word rfl fun _ => ?_
  simp only [packI]
  rw [decode_13 (by simp)]
  simp [decodeOpImm]

theorem RoundTrip.srli (d : XReg) (a : XReg) (sh : BitVec 6) : RoundTrip.Statement (.srli d a sh) := by
  refine RoundTrip.of_word rfl fun _ => ?_
  simp only [packI]
  rw [decode_13 (by simp)]
  simp [decodeOpImm]

theorem RoundTrip.srai (d : XReg) (a : XReg) (sh : BitVec 6) : RoundTrip.Statement (.srai d a sh) := by
  refine RoundTrip.of_word rfl fun _ => ?_
  simp only [packI]
  rw [decode_13 (by simp)]
  simp [decodeOpImm]

theorem RoundTrip.clz (d : XReg) (a : XReg) : RoundTrip.Statement (.clz d a) := by
  refine RoundTrip.of_word rfl fun _ => ?_
  simp only [packI]
  rw [decode_13 (by simp)]
  simp [decodeOpImm]

theorem RoundTrip.ctz (d : XReg) (a : XReg) : RoundTrip.Statement (.ctz d a) := by
  refine RoundTrip.of_word rfl fun _ => ?_
  simp only [packI]
  rw [decode_13 (by simp)]
  simp [decodeOpImm]

theorem RoundTrip.cpop (d : XReg) (a : XReg) : RoundTrip.Statement (.cpop d a) := by
  refine RoundTrip.of_word rfl fun _ => ?_
  simp only [packI]
  rw [decode_13 (by simp)]
  simp [decodeOpImm]

theorem RoundTrip.add (d : XReg) (a : XReg) (b : XReg) : RoundTrip.Statement (.add d a b) := by
  refine RoundTrip.of_word rfl fun _ => ?_
  rw [decode_33 (by simp)]
  simp [decodeOp]

theorem RoundTrip.sub (d : XReg) (a : XReg) (b : XReg) : RoundTrip.Statement (.sub d a b) := by
  refine RoundTrip.of_word rfl fun _ => ?_
  rw [decode_33 (by simp)]
  simp [decodeOp]

theorem RoundTrip.sll (d : XReg) (a : XReg) (b : XReg) : RoundTrip.Statement (.sll d a b) := by
  refine RoundTrip.of_word rfl fun _ => ?_
  rw [decode_33 (by simp)]
  simp [decodeOp]

theorem RoundTrip.slt (d : XReg) (a : XReg) (b : XReg) : RoundTrip.Statement (.slt d a b) := by
  refine RoundTrip.of_word rfl fun _ => ?_
  rw [decode_33 (by simp)]
  simp [decodeOp]

theorem RoundTrip.sltu (d : XReg) (a : XReg) (b : XReg) : RoundTrip.Statement (.sltu d a b) := by
  refine RoundTrip.of_word rfl fun _ => ?_
  rw [decode_33 (by simp)]
  simp [decodeOp]

theorem RoundTrip.xor (d : XReg) (a : XReg) (b : XReg) : RoundTrip.Statement (.xor d a b) := by
  refine RoundTrip.of_word rfl fun _ => ?_
  rw [decode_33 (by simp)]
  simp [decodeOp]

theorem RoundTrip.srl (d : XReg) (a : XReg) (b : XReg) : RoundTrip.Statement (.srl d a b) := by
  refine RoundTrip.of_word rfl fun _ => ?_
  rw [decode_33 (by simp)]
  simp [decodeOp]

theorem RoundTrip.sra (d : XReg) (a : XReg) (b : XReg) : RoundTrip.Statement (.sra d a b) := by
  refine RoundTrip.of_word rfl fun _ => ?_
  rw [decode_33 (by simp)]
  simp [decodeOp]

theorem RoundTrip.or (d : XReg) (a : XReg) (b : XReg) : RoundTrip.Statement (.or d a b) := by
  refine RoundTrip.of_word rfl fun _ => ?_
  rw [decode_33 (by simp)]
  simp [decodeOp]

theorem RoundTrip.and (d : XReg) (a : XReg) (b : XReg) : RoundTrip.Statement (.and d a b) := by
  refine RoundTrip.of_word rfl fun _ => ?_
  rw [decode_33 (by simp)]
  simp [decodeOp]

theorem RoundTrip.mul (d : XReg) (a : XReg) (b : XReg) : RoundTrip.Statement (.mul d a b) := by
  refine RoundTrip.of_word rfl fun _ => ?_
  rw [decode_33 (by simp)]
  simp [decodeOp]

theorem RoundTrip.mulh (d : XReg) (a : XReg) (b : XReg) : RoundTrip.Statement (.mulh d a b) := by
  refine RoundTrip.of_word rfl fun _ => ?_
  rw [decode_33 (by simp)]
  simp [decodeOp]

theorem RoundTrip.mulhsu (d : XReg) (a : XReg) (b : XReg) : RoundTrip.Statement (.mulhsu d a b) := by
  refine RoundTrip.of_word rfl fun _ => ?_
  rw [decode_33 (by simp)]
  simp [decodeOp]

theorem RoundTrip.mulhu (d : XReg) (a : XReg) (b : XReg) : RoundTrip.Statement (.mulhu d a b) := by
  refine RoundTrip.of_word rfl fun _ => ?_
  rw [decode_33 (by simp)]
  simp [decodeOp]

theorem RoundTrip.div (d : XReg) (a : XReg) (b : XReg) : RoundTrip.Statement (.div d a b) := by
  refine RoundTrip.of_word rfl fun _ => ?_
  rw [decode_33 (by simp)]
  simp [decodeOp]

theorem RoundTrip.divu (d : XReg) (a : XReg) (b : XReg) : RoundTrip.Statement (.divu d a b) := by
  refine RoundTrip.of_word rfl fun _ => ?_
  rw [decode_33 (by simp)]
  simp [decodeOp]

theorem RoundTrip.rem (d : XReg) (a : XReg) (b : XReg) : RoundTrip.Statement (.rem d a b) := by
  refine RoundTrip.of_word rfl fun _ => ?_
  rw [decode_33 (by simp)]
  simp [decodeOp]

theorem RoundTrip.remu (d : XReg) (a : XReg) (b : XReg) : RoundTrip.Statement (.remu d a b) := by
  refine RoundTrip.of_word rfl fun _ => ?_
  rw [decode_33 (by simp)]
  simp [decodeOp]

theorem RoundTrip.min (d : XReg) (a : XReg) (b : XReg) : RoundTrip.Statement (.min d a b) := by
  refine RoundTrip.of_word rfl fun _ => ?_
  rw [decode_33 (by simp)]
  simp [decodeOp]

theorem RoundTrip.minu (d : XReg) (a : XReg) (b : XReg) : RoundTrip.Statement (.minu d a b) := by
  refine RoundTrip.of_word rfl fun _ => ?_
  rw [decode_33 (by simp)]
  simp [decodeOp]

theorem RoundTrip.max (d : XReg) (a : XReg) (b : XReg) : RoundTrip.Statement (.max d a b) := by
  refine RoundTrip.of_word rfl fun _ => ?_
  rw [decode_33 (by simp)]
  simp [decodeOp]

theorem RoundTrip.maxu (d : XReg) (a : XReg) (b : XReg) : RoundTrip.Statement (.maxu d a b) := by
  refine RoundTrip.of_word rfl fun _ => ?_
  rw [decode_33 (by simp)]
  simp [decodeOp]

theorem RoundTrip.lui (d : XReg) (imm : BitVec 20) : RoundTrip.Statement (.lui d imm) := by
  refine RoundTrip.of_word rfl fun _ => ?_
  simp only [packU]
  rw [decode_37 (by simp)]
  simp

theorem RoundTrip.auipc (d : XReg) (imm : BitVec 20) : RoundTrip.Statement (.auipc d imm) := by
  refine RoundTrip.of_word rfl fun _ => ?_
  simp only [packU]
  rw [decode_17 (by simp)]
  simp

theorem RoundTrip.beq (a : XReg) (b : XReg) (imm : BitVec 11) : RoundTrip.Statement (.beq a b imm) := by
  refine RoundTrip.of_word rfl fun _ => ?_
  simp only [packB]
  rw [decode_63 (by simp)]
  simp [decodeBranch]

theorem RoundTrip.bne (a : XReg) (b : XReg) (imm : BitVec 11) : RoundTrip.Statement (.bne a b imm) := by
  refine RoundTrip.of_word rfl fun _ => ?_
  simp only [packB]
  rw [decode_63 (by simp)]
  simp [decodeBranch]

theorem RoundTrip.blt (a : XReg) (b : XReg) (imm : BitVec 11) : RoundTrip.Statement (.blt a b imm) := by
  refine RoundTrip.of_word rfl fun _ => ?_
  simp only [packB]
  rw [decode_63 (by simp)]
  simp [decodeBranch]

theorem RoundTrip.bge (a : XReg) (b : XReg) (imm : BitVec 11) : RoundTrip.Statement (.bge a b imm) := by
  refine RoundTrip.of_word rfl fun _ => ?_
  simp only [packB]
  rw [decode_63 (by simp)]
  simp [decodeBranch]

theorem RoundTrip.bltu (a : XReg) (b : XReg) (imm : BitVec 11) : RoundTrip.Statement (.bltu a b imm) := by
  refine RoundTrip.of_word rfl fun _ => ?_
  simp only [packB]
  rw [decode_63 (by simp)]
  simp [decodeBranch]

theorem RoundTrip.bgeu (a : XReg) (b : XReg) (imm : BitVec 11) : RoundTrip.Statement (.bgeu a b imm) := by
  refine RoundTrip.of_word rfl fun _ => ?_
  simp only [packB]
  rw [decode_63 (by simp)]
  simp [decodeBranch]

theorem RoundTrip.jal (d : XReg) (imm : BitVec 19) : RoundTrip.Statement (.jal d imm) := by
  refine RoundTrip.of_word rfl fun _ => ?_
  simp only [packJ]
  rw [decode_6f (by simp)]
  simp
  exact join_j imm

theorem RoundTrip.jalr (d : XReg) (a : XReg) (imm : BitVec 12) : RoundTrip.Statement (.jalr d a imm) := by
  refine RoundTrip.of_word rfl fun _ => ?_
  simp only [packI]
  rw [decode_67 (by simp)]
  simp [decodeJalr]

theorem RoundTrip.ccall (a : CReg) (b : CReg) : RoundTrip.Statement (.ccall a b) := by
  refine RoundTrip.of_word rfl fun _ => ?_
  simp only [cField]
  rw [decode_67 (by simp)]
  simp [decodeJalr]

theorem RoundTrip.lbOffset (d : XReg) (a : CReg) (imm : BitVec 12) : RoundTrip.Statement (.lbOffset d a imm) := by
  refine RoundTrip.of_word rfl fun _ => ?_
  simp only [packI]
  rw [decode_03 (by simp)]
  simp [decodeLoad]

theorem RoundTrip.lbIndex (d : XReg) (a : CReg) (x : XReg) : RoundTrip.Statement (.lbIndex d a x) := by
  refine RoundTrip.of_word rfl fun _ => ?_
  rw [decode_03 (by simp)]
  simp [decodeLoad]

theorem RoundTrip.lhOffset (d : XReg) (a : CReg) (imm : BitVec 12) : RoundTrip.Statement (.lhOffset d a imm) := by
  refine RoundTrip.of_word rfl fun _ => ?_
  simp only [packI]
  rw [decode_03 (by simp)]
  simp [decodeLoad]

theorem RoundTrip.lhIndex (d : XReg) (a : CReg) (x : XReg) : RoundTrip.Statement (.lhIndex d a x) := by
  refine RoundTrip.of_word rfl fun _ => ?_
  rw [decode_03 (by simp)]
  simp [decodeLoad]

theorem RoundTrip.lwOffset (d : XReg) (a : CReg) (imm : BitVec 12) : RoundTrip.Statement (.lwOffset d a imm) := by
  refine RoundTrip.of_word rfl fun _ => ?_
  simp only [packI]
  rw [decode_03 (by simp)]
  simp [decodeLoad]

theorem RoundTrip.lwIndex (d : XReg) (a : CReg) (x : XReg) : RoundTrip.Statement (.lwIndex d a x) := by
  refine RoundTrip.of_word rfl fun _ => ?_
  rw [decode_03 (by simp)]
  simp [decodeLoad]

theorem RoundTrip.ldOffset (d : XReg) (a : CReg) (imm : BitVec 12) : RoundTrip.Statement (.ldOffset d a imm) := by
  refine RoundTrip.of_word rfl fun _ => ?_
  simp only [packI]
  rw [decode_03 (by simp)]
  simp [decodeLoad]

theorem RoundTrip.ldIndex (d : XReg) (a : CReg) (x : XReg) : RoundTrip.Statement (.ldIndex d a x) := by
  refine RoundTrip.of_word rfl fun _ => ?_
  rw [decode_03 (by simp)]
  simp [decodeLoad]

theorem RoundTrip.lbuOffset (d : XReg) (a : CReg) (imm : BitVec 12) : RoundTrip.Statement (.lbuOffset d a imm) := by
  refine RoundTrip.of_word rfl fun _ => ?_
  simp only [packI]
  rw [decode_03 (by simp)]
  simp [decodeLoad]

theorem RoundTrip.lbuIndex (d : XReg) (a : CReg) (x : XReg) : RoundTrip.Statement (.lbuIndex d a x) := by
  refine RoundTrip.of_word rfl fun _ => ?_
  rw [decode_03 (by simp)]
  simp [decodeLoad]

theorem RoundTrip.lhuOffset (d : XReg) (a : CReg) (imm : BitVec 12) : RoundTrip.Statement (.lhuOffset d a imm) := by
  refine RoundTrip.of_word rfl fun _ => ?_
  simp only [packI]
  rw [decode_03 (by simp)]
  simp [decodeLoad]

theorem RoundTrip.lhuIndex (d : XReg) (a : CReg) (x : XReg) : RoundTrip.Statement (.lhuIndex d a x) := by
  refine RoundTrip.of_word rfl fun _ => ?_
  rw [decode_03 (by simp)]
  simp [decodeLoad]

theorem RoundTrip.lwuOffset (d : XReg) (a : CReg) (imm : BitVec 12) : RoundTrip.Statement (.lwuOffset d a imm) := by
  refine RoundTrip.of_word rfl fun _ => ?_
  simp only [packI]
  rw [decode_03 (by simp)]
  simp [decodeLoad]

theorem RoundTrip.lwuIndex (d : XReg) (a : CReg) (x : XReg) : RoundTrip.Statement (.lwuIndex d a x) := by
  refine RoundTrip.of_word rfl fun _ => ?_
  rw [decode_03 (by simp)]
  simp [decodeLoad]

theorem RoundTrip.clcOffset (d : CReg) (a : CReg) (imm : BitVec 12) : RoundTrip.Statement (.clcOffset d a imm) := by
  refine RoundTrip.of_word rfl fun _ => ?_
  simp only [packI, cField]
  rw [decode_03 (by simp)]
  simp [decodeLoad]

theorem RoundTrip.clcIndex (d : CReg) (a : CReg) (x : XReg) : RoundTrip.Statement (.clcIndex d a x) := by
  refine RoundTrip.of_word rfl fun _ => ?_
  simp only [cField]
  rw [decode_03 (by simp)]
  simp [decodeLoad]

theorem RoundTrip.sbOffset (s : XReg) (a : CReg) (imm : BitVec 12) : RoundTrip.Statement (.sbOffset s a imm) := by
  refine RoundTrip.of_word rfl fun _ => ?_
  simp only [packS]
  rw [decode_23 (by simp)]
  simp [decodeStore]

theorem RoundTrip.sbIndex (s : XReg) (a : CReg) (x : XReg) : RoundTrip.Statement (.sbIndex s a x) := by
  refine RoundTrip.of_word rfl fun _ => ?_
  rw [decode_23 (by simp)]
  simp [decodeStore]

theorem RoundTrip.shOffset (s : XReg) (a : CReg) (imm : BitVec 12) : RoundTrip.Statement (.shOffset s a imm) := by
  refine RoundTrip.of_word rfl fun _ => ?_
  simp only [packS]
  rw [decode_23 (by simp)]
  simp [decodeStore]

theorem RoundTrip.shIndex (s : XReg) (a : CReg) (x : XReg) : RoundTrip.Statement (.shIndex s a x) := by
  refine RoundTrip.of_word rfl fun _ => ?_
  rw [decode_23 (by simp)]
  simp [decodeStore]

theorem RoundTrip.swOffset (s : XReg) (a : CReg) (imm : BitVec 12) : RoundTrip.Statement (.swOffset s a imm) := by
  refine RoundTrip.of_word rfl fun _ => ?_
  simp only [packS]
  rw [decode_23 (by simp)]
  simp [decodeStore]

theorem RoundTrip.swIndex (s : XReg) (a : CReg) (x : XReg) : RoundTrip.Statement (.swIndex s a x) := by
  refine RoundTrip.of_word rfl fun _ => ?_
  rw [decode_23 (by simp)]
  simp [decodeStore]

theorem RoundTrip.sdOffset (s : XReg) (a : CReg) (imm : BitVec 12) : RoundTrip.Statement (.sdOffset s a imm) := by
  refine RoundTrip.of_word rfl fun _ => ?_
  simp only [packS]
  rw [decode_23 (by simp)]
  simp [decodeStore]

theorem RoundTrip.sdIndex (s : XReg) (a : CReg) (x : XReg) : RoundTrip.Statement (.sdIndex s a x) := by
  refine RoundTrip.of_word rfl fun _ => ?_
  rw [decode_23 (by simp)]
  simp [decodeStore]

theorem RoundTrip.cscOffset (s : CReg) (a : CReg) (imm : BitVec 12) : RoundTrip.Statement (.cscOffset s a imm) := by
  refine RoundTrip.of_word rfl fun _ => ?_
  simp only [packS, cField]
  rw [decode_23 (by simp)]
  simp [decodeStore]

theorem RoundTrip.cscIndex (s : CReg) (a : CReg) (x : XReg) : RoundTrip.Statement (.cscIndex s a x) := by
  refine RoundTrip.of_word rfl fun _ => ?_
  simp only [cField]
  rw [decode_23 (by simp)]
  simp [decodeStore]

theorem RoundTrip.cgetb (d : XReg) (a : CReg) : RoundTrip.Statement (.cgetb d a) := by
  refine RoundTrip.of_word rfl fun _ => ?_
  simp only [cField]
  rw [decode_0b (by simp)]
  simp [decodeCap]

theorem RoundTrip.cgetx (d : XReg) (a : CReg) (axis : BitVec 2) : RoundTrip.Statement (.cgetx d a axis) := by
  refine RoundTrip.of_word rfl fun _ => ?_
  simp only [cField]
  rw [decode_0b (by simp)]
  rcases axis_cases axis with h | h | h | h <;> simp [decodeCap, h]

theorem RoundTrip.cgets (d : XReg) (a : CReg) (axis : BitVec 2) : RoundTrip.Statement (.cgets d a axis) := by
  refine RoundTrip.of_word rfl fun _ => ?_
  simp only [cField]
  rw [decode_0b (by simp)]
  rcases axis_cases axis with h | h | h | h <;> simp [decodeCap, h]

theorem RoundTrip.cgetf (d : XReg) (a : CReg) (w : BitVec 1) : RoundTrip.Statement (.cgetf d a w) := by
  refine RoundTrip.of_word rfl fun _ => ?_
  simp only [cField]
  rw [decode_0b (by simp)]
  rcases bit_cases w with h | h <;> simp [decodeCap, h]

theorem RoundTrip.ctag (d : XReg) (a : CReg) : RoundTrip.Statement (.ctag d a) := by
  refine RoundTrip.of_word rfl fun _ => ?_
  simp only [cField]
  rw [decode_0b (by simp)]
  simp [decodeCap]

theorem RoundTrip.cidx (d : XReg) (a : CReg) (b : XReg) : RoundTrip.Statement (.cidx d a b) := by
  refine RoundTrip.of_word rfl fun _ => ?_
  simp only [cField]
  rw [decode_0b (by simp)]
  simp [decodeCap]

theorem RoundTrip.cslice (d : CReg) (a : XReg) (b : XReg) (axis : BitVec 2) : RoundTrip.Statement (.cslice d a b axis) := by
  refine RoundTrip.of_word rfl fun _ => ?_
  simp only [cField]
  rw [decode_0b (by simp)]
  rcases axis_cases axis with h | h | h | h <;> simp [decodeCap, h]

theorem RoundTrip.cnarrow (d : CReg) (a : XReg) (axis : BitVec 2) : RoundTrip.Statement (.cnarrow d a axis) := by
  refine RoundTrip.of_word rfl fun _ => ?_
  simp only [cField]
  rw [decode_0b (by simp)]
  rcases axis_cases axis with h | h | h | h <;> simp [decodeCap, h]

theorem RoundTrip.cperm (d : CReg) (a : XReg) : RoundTrip.Statement (.cperm d a) := by
  refine RoundTrip.of_word rfl fun _ => ?_
  simp only [cField]
  rw [decode_0b (by simp)]
  simp [decodeCap]

theorem RoundTrip.cwrap (d : CReg) (b : CReg) (a : XReg) : RoundTrip.Statement (.cwrap d b a) := by
  refine RoundTrip.of_word rfl fun _ => ?_
  simp only [cField]
  rw [decode_0b (by simp)]
  simp [decodeCap]

theorem RoundTrip.cunwrap (d : CReg) (b : CReg) : RoundTrip.Statement (.cunwrap d b) := by
  refine RoundTrip.of_word rfl fun _ => ?_
  simp only [cField]
  rw [decode_0b (by simp)]
  simp [decodeCap]

theorem RoundTrip.cmov (d : CReg) (a : CReg) : RoundTrip.Statement (.cmov d a) := by
  refine RoundTrip.of_word rfl fun _ => ?_
  simp only [cField]
  rw [decode_0b (by simp)]
  simp [decodeCap]

theorem RoundTrip.kadd (a : CReg) (b : XReg) : RoundTrip.Statement (.kadd a b) := by
  refine RoundTrip.of_word rfl fun _ => ?_
  simp only [cField]
  rw [decode_2b (by simp)]
  simp [decodeCounter]

theorem RoundTrip.kaddRel (scope : Scope) (a : CReg) (b : XReg) : RoundTrip.Statement (.kaddRel scope a b) := by
  refine RoundTrip.of_word rfl fun _ => ?_
  simp only [cField]
  rw [decode_2b (by simp)]
  cases scope <;> simp [decodeCounter, Scope.code, withScope]

theorem RoundTrip.kmax (a : CReg) (b : XReg) : RoundTrip.Statement (.kmax a b) := by
  refine RoundTrip.of_word rfl fun _ => ?_
  simp only [cField]
  rw [decode_2b (by simp)]
  simp [decodeCounter]

theorem RoundTrip.kmaxRel (scope : Scope) (a : CReg) (b : XReg) : RoundTrip.Statement (.kmaxRel scope a b) := by
  refine RoundTrip.of_word rfl fun _ => ?_
  simp only [cField]
  rw [decode_2b (by simp)]
  cases scope <;> simp [decodeCounter, Scope.code, withScope]

theorem RoundTrip.kread (d : XReg) (a : CReg) : RoundTrip.Statement (.kread d a) := by
  refine RoundTrip.of_word rfl fun _ => ?_
  simp only [cField]
  rw [decode_2b (by simp)]
  simp [decodeCounter]

theorem RoundTrip.kwait (a : CReg) (b : XReg) : RoundTrip.Statement (.kwait a b) := by
  refine RoundTrip.of_word rfl fun _ => ?_
  simp only [cField]
  rw [decode_2b (by simp)]
  simp [decodeCounter]

theorem RoundTrip.kwaitAcq (scope : Scope) (a : CReg) (b : XReg) : RoundTrip.Statement (.kwaitAcq scope a b) := by
  refine RoundTrip.of_word rfl fun _ => ?_
  simp only [cField]
  rw [decode_2b (by simp)]
  cases scope <;> simp [decodeCounter, Scope.code, withScope]

theorem RoundTrip.spawn (a : XReg) (b : CReg) : RoundTrip.Statement (.spawn a b) := by
  refine RoundTrip.of_word rfl fun _ => ?_
  simp only [cField]
  rw [decode_2b (by simp)]
  simp [decodeCounter]

theorem RoundTrip.msend (d : XReg) (b : CReg) (a : XReg) (n : BitVec 3) : RoundTrip.Statement (.msend d b a n) := by
  refine RoundTrip.of_word rfl fun hw => ?_
  simp only [Instr.wf] at hw
  simp only [cField]
  rw [decode_2b (by simp)]
  simp [decodeCounter, hw, msend_one]

theorem RoundTrip.msendW (b : CReg) (a : XReg) (n : BitVec 3) : RoundTrip.Statement (.msendW b a n) := by
  refine RoundTrip.of_word rfl fun hw => ?_
  simp only [Instr.wf] at hw
  simp only [cField]
  rw [decode_2b (by simp)]
  simp [decodeCounter, hw, msend_two]

theorem RoundTrip.scall (d : CReg) (a : XReg) (b : CReg) : RoundTrip.Statement (.scall d a b) := by
  refine RoundTrip.of_word rfl fun _ => ?_
  simp only [cField]
  rw [decode_2b (by simp)]
  simp [decodeCounter]

theorem RoundTrip.tblk (a : XReg) : RoundTrip.Statement (.tblk a) := by
  refine RoundTrip.of_word rfl fun _ => ?_
  rw [decode_2b (by simp)]
  simp [decodeCounter]

theorem RoundTrip.tublk (a : XReg) : RoundTrip.Statement (.tublk a) := by
  refine RoundTrip.of_word rfl fun _ => ?_
  rw [decode_2b (by simp)]
  simp [decodeCounter]

theorem RoundTrip.xcopy (m : Bool) (d : CReg) (b : CReg) (k : CReg) : RoundTrip.Statement (.xcopy m d b k) := by
  refine RoundTrip.of_word rfl fun _ => ?_
  rw [decode_5b (by simp)]
  simp [decodeEngine]

theorem RoundTrip.xgath (m : Bool) (d : CReg) (b : CReg) (e : CReg) (k : CReg) : RoundTrip.Statement (.xgath m d b e k) := by
  refine RoundTrip.of_word rfl fun _ => ?_
  rw [decode_5b (by simp)]
  simp [decodeEngine]

theorem RoundTrip.xscat (m : Bool) (d : CReg) (b : CReg) (e : CReg) (k : CReg) : RoundTrip.Statement (.xscat m d b e k) := by
  refine RoundTrip.of_word rfl fun _ => ?_
  rw [decode_5b (by simp)]
  simp [decodeEngine]

theorem RoundTrip.xfill (m : Bool) (d : CReg) (a : XReg) (k : CReg) : RoundTrip.Statement (.xfill m d a k) := by
  refine RoundTrip.of_word rfl fun _ => ?_
  rw [decode_5b (by simp)]
  simp [decodeEngine]

theorem RoundTrip.xred (m : Bool) (op : RedOp) (d : CReg) (b : CReg) (k : CReg) : RoundTrip.Statement (.xred m op d b k) := by
  refine RoundTrip.of_word rfl fun _ => ?_
  rw [decode_5b (by simp)]
  cases op <;> simp [decodeEngine, RedOp.code]

theorem RoundTrip.xcryp (m : Bool) (d : CReg) (b : CReg) (e : CReg) (k : CReg) : RoundTrip.Statement (.xcryp m d b e k) := by
  refine RoundTrip.of_word rfl fun _ => ?_
  rw [decode_5b (by simp)]
  simp [decodeEngine]

theorem RoundTrip.xbind (m : Bool) (d : CReg) (b : CReg) (a : XReg) (k : CReg) : RoundTrip.Statement (.xbind m d b a k) := by
  refine RoundTrip.of_word rfl fun _ => ?_
  rw [decode_5b (by simp)]
  simp [decodeEngine]

theorem RoundTrip.xflush (m : Bool) (d : CReg) (k : CReg) : RoundTrip.Statement (.xflush m d k) := by
  refine RoundTrip.of_word rfl fun _ => ?_
  rw [decode_5b (by simp)]
  simp [decodeEngine]

theorem RoundTrip.xinval (m : Bool) (d : CReg) (k : CReg) : RoundTrip.Statement (.xinval m d k) := by
  refine RoundTrip.of_word rfl fun _ => ?_
  rw [decode_5b (by simp)]
  simp [decodeEngine]

theorem RoundTrip.xresume (b : CReg) : RoundTrip.Statement (.xresume b) := by
  refine RoundTrip.of_word rfl fun _ => ?_
  rw [decode_5b (by simp)]
  simp [decodeEngine]

theorem RoundTrip.mjob (d : XReg) (e : CReg) (k : CReg) : RoundTrip.Statement (.mjob d e k) := by
  refine RoundTrip.of_word rfl fun _ => ?_
  rw [decode_5b (by simp)]
  simp [decodeEngine]

theorem RoundTrip.sbind (v : BitVec 3) (b : CReg) (a : XReg) : RoundTrip.Statement (.sbind v b a) := by
  refine RoundTrip.of_word rfl fun _ => ?_
  rw [decode_5b (by simp)]
  simp [decodeEngine]

theorem RoundTrip.sfree (v : BitVec 3) : RoundTrip.Statement (.sfree v) := by
  refine RoundTrip.of_word rfl fun _ => ?_
  rw [decode_5b (by simp)]
  simp [decodeEngine]

theorem RoundTrip.exph (a : CReg) (b : XReg) : RoundTrip.Statement (.exph a b) := by
  refine RoundTrip.of_word rfl fun _ => ?_
  simp only [cField]
  rw [decode_7b (by simp)]
  simp [decodeExchange]

theorem RoundTrip.exsnd (b : VReg) (a : XReg) : RoundTrip.Statement (.exsnd b a) := by
  refine RoundTrip.of_word rfl fun _ => ?_
  rw [decode_7b (by simp)]
  simp [decodeExchange]

theorem RoundTrip.exrcv (d : VReg) (a : XReg) : RoundTrip.Statement (.exrcv d a) := by
  refine RoundTrip.of_word rfl fun _ => ?_
  rw [decode_7b (by simp)]
  simp [decodeExchange]

theorem RoundTrip.aclaim (d : XReg) (a : CReg) (b : XReg) : RoundTrip.Statement (.aclaim d a b) := by
  refine RoundTrip.of_word rfl fun _ => ?_
  simp only [cField]
  rw [decode_7b (by simp)]
  simp [decodeExchange]

theorem RoundTrip.afree (a : CReg) : RoundTrip.Statement (.afree a) := by
  refine RoundTrip.of_word rfl fun _ => ?_
  simp only [cField]
  rw [decode_7b (by simp)]
  simp [decodeExchange]

theorem RoundTrip.weed (a : CReg) (b : CReg) : RoundTrip.Statement (.weed a b) := by
  refine RoundTrip.of_word rfl fun _ => ?_
  simp only [cField]
  rw [decode_7b (by simp)]
  simp [decodeExchange]

theorem RoundTrip.fmt (fd : BitVec 5) (fa : BitVec 5) (fb : BitVec 5) (rm : BitVec 3) (sat : BitVec 2) : RoundTrip.Statement (.fmt fd fa fb rm sat) := by
  refine RoundTrip.of_word rfl fun _ => ?_
  simp only [packF]
  rw [decode_7b (by simp)]
  simp [decodeExchange]

theorem RoundTrip.wake (a : XReg) : RoundTrip.Statement (.wake a) := by
  refine RoundTrip.of_word rfl fun _ => ?_
  rw [decode_73 (by simp)]
  simp [decodeSystem]

theorem RoundTrip.ownset (a : XReg) (b : XReg) : RoundTrip.Statement (.ownset a b) := by
  refine RoundTrip.of_word rfl fun _ => ?_
  rw [decode_73 (by simp)]
  simp [decodeSystem]

theorem RoundTrip.csrwr (csr : BitVec 12) (a : XReg) : RoundTrip.Statement (.csrwr csr a) := by
  refine RoundTrip.of_word rfl fun hw => ?_
  simp only [Instr.wf] at hw
  simp only [packI]
  rw [decode_73 (by simp)]
  simp [decodeSystem, hw]

theorem RoundTrip.csrrd (d : XReg) (csr : BitVec 12) : RoundTrip.Statement (.csrrd d csr) := by
  refine RoundTrip.of_word rfl fun hw => ?_
  simp only [Instr.wf] at hw
  simp only [packI]
  rw [decode_73 (by simp)]
  simp [decodeSystem, hw]

theorem RoundTrip.trap (code : BitVec 12) : RoundTrip.Statement (.trap code) := by
  refine RoundTrip.of_word rfl fun _ => ?_
  simp only [packI]
  rw [decode_73 (by simp)]
  simp [decodeSystem]

theorem RoundTrip.fence (scope : Scope) (pred : BitVec 3) (succ : BitVec 3) : RoundTrip.Statement (.fence scope pred succ) := by
  refine RoundTrip.of_word rfl fun _ => ?_
  rw [decode_0f (by simp)]
  simp [decodeMiscMem]

theorem RoundTrip.ifence (scope : Scope) : RoundTrip.Statement (.ifence scope) := by
  refine RoundTrip.of_word rfl fun _ => ?_
  rw [decode_0f (by simp)]
  simp [decodeMiscMem]

theorem RoundTrip.amoadd (w : Bool) (d : XReg) (a : CReg) (b : XReg) : RoundTrip.Statement (.amoadd w d a b) := by
  refine RoundTrip.of_word rfl fun _ => ?_
  simp only [cField]
  rw [decode_2f (by simp)]
  simp [decodeAmo]

theorem RoundTrip.amoswap (w : Bool) (d : XReg) (a : CReg) (b : XReg) : RoundTrip.Statement (.amoswap w d a b) := by
  refine RoundTrip.of_word rfl fun _ => ?_
  simp only [cField]
  rw [decode_2f (by simp)]
  simp [decodeAmo]

theorem RoundTrip.amoxor (w : Bool) (d : XReg) (a : CReg) (b : XReg) : RoundTrip.Statement (.amoxor w d a b) := by
  refine RoundTrip.of_word rfl fun _ => ?_
  simp only [cField]
  rw [decode_2f (by simp)]
  simp [decodeAmo]

theorem RoundTrip.amoor (w : Bool) (d : XReg) (a : CReg) (b : XReg) : RoundTrip.Statement (.amoor w d a b) := by
  refine RoundTrip.of_word rfl fun _ => ?_
  simp only [cField]
  rw [decode_2f (by simp)]
  simp [decodeAmo]

theorem RoundTrip.amoand (w : Bool) (d : XReg) (a : CReg) (b : XReg) : RoundTrip.Statement (.amoand w d a b) := by
  refine RoundTrip.of_word rfl fun _ => ?_
  simp only [cField]
  rw [decode_2f (by simp)]
  simp [decodeAmo]

theorem RoundTrip.amocas (w : Bool) (d : XReg) (a : CReg) (b : XReg) : RoundTrip.Statement (.amocas w d a b) := by
  refine RoundTrip.of_word rfl fun _ => ?_
  simp only [cField]
  rw [decode_2f (by simp)]
  simp [decodeAmo]

theorem RoundTrip.amomin (w : Bool) (d : XReg) (a : CReg) (b : XReg) : RoundTrip.Statement (.amomin w d a b) := by
  refine RoundTrip.of_word rfl fun _ => ?_
  simp only [cField]
  rw [decode_2f (by simp)]
  simp [decodeAmo]

theorem RoundTrip.amomax (w : Bool) (d : XReg) (a : CReg) (b : XReg) : RoundTrip.Statement (.amomax w d a b) := by
  refine RoundTrip.of_word rfl fun _ => ?_
  simp only [cField]
  rw [decode_2f (by simp)]
  simp [decodeAmo]

theorem RoundTrip.amominu (w : Bool) (d : XReg) (a : CReg) (b : XReg) : RoundTrip.Statement (.amominu w d a b) := by
  refine RoundTrip.of_word rfl fun _ => ?_
  simp only [cField]
  rw [decode_2f (by simp)]
  simp [decodeAmo]

theorem RoundTrip.amomaxu (w : Bool) (d : XReg) (a : CReg) (b : XReg) : RoundTrip.Statement (.amomaxu w d a b) := by
  refine RoundTrip.of_word rfl fun _ => ?_
  simp only [cField]
  rw [decode_2f (by simp)]
  simp [decodeAmo]

theorem RoundTrip.vadd (et : IntEt) (d : VReg) (a : VReg) (b : VReg) (pg : PReg) : RoundTrip.Statement (.vadd et d a b pg) := by
  refine RoundTrip.of_word rfl fun _ => ?_
  rw [decode_57 (by simp)]
  rw [intEt_of_code (et := et) (by simp)]
  simp [decodeOpV]

theorem RoundTrip.vsub (et : IntEt) (d : VReg) (a : VReg) (b : VReg) (pg : PReg) : RoundTrip.Statement (.vsub et d a b pg) := by
  refine RoundTrip.of_word rfl fun _ => ?_
  rw [decode_57 (by simp)]
  rw [intEt_of_code (et := et) (by simp)]
  simp [decodeOpV]

theorem RoundTrip.vmul (et : IntEt) (d : VReg) (a : VReg) (b : VReg) (pg : PReg) : RoundTrip.Statement (.vmul et d a b pg) := by
  refine RoundTrip.of_word rfl fun _ => ?_
  rw [decode_57 (by simp)]
  rw [intEt_of_code (et := et) (by simp)]
  simp [decodeOpV]

theorem RoundTrip.vmulh (et : IntEt) (d : VReg) (a : VReg) (b : VReg) (pg : PReg) : RoundTrip.Statement (.vmulh et d a b pg) := by
  refine RoundTrip.of_word rfl fun _ => ?_
  rw [decode_57 (by simp)]
  rw [intEt_of_code (et := et) (by simp)]
  simp [decodeOpV]

theorem RoundTrip.vmin (et : IntEt) (d : VReg) (a : VReg) (b : VReg) (pg : PReg) : RoundTrip.Statement (.vmin et d a b pg) := by
  refine RoundTrip.of_word rfl fun _ => ?_
  rw [decode_57 (by simp)]
  rw [intEt_of_code (et := et) (by simp)]
  simp [decodeOpV]

theorem RoundTrip.vmax (et : IntEt) (d : VReg) (a : VReg) (b : VReg) (pg : PReg) : RoundTrip.Statement (.vmax et d a b pg) := by
  refine RoundTrip.of_word rfl fun _ => ?_
  rw [decode_57 (by simp)]
  rw [intEt_of_code (et := et) (by simp)]
  simp [decodeOpV]

theorem RoundTrip.vand (et : IntEt) (d : VReg) (a : VReg) (b : VReg) (pg : PReg) : RoundTrip.Statement (.vand et d a b pg) := by
  refine RoundTrip.of_word rfl fun _ => ?_
  rw [decode_57 (by simp)]
  rw [intEt_of_code (et := et) (by simp)]
  simp [decodeOpV]

theorem RoundTrip.vor (et : IntEt) (d : VReg) (a : VReg) (b : VReg) (pg : PReg) : RoundTrip.Statement (.vor et d a b pg) := by
  refine RoundTrip.of_word rfl fun _ => ?_
  rw [decode_57 (by simp)]
  rw [intEt_of_code (et := et) (by simp)]
  simp [decodeOpV]

theorem RoundTrip.vxor (et : IntEt) (d : VReg) (a : VReg) (b : VReg) (pg : PReg) : RoundTrip.Statement (.vxor et d a b pg) := by
  refine RoundTrip.of_word rfl fun _ => ?_
  rw [decode_57 (by simp)]
  rw [intEt_of_code (et := et) (by simp)]
  simp [decodeOpV]

theorem RoundTrip.vsll (et : IntEt) (d : VReg) (a : VReg) (b : VReg) (pg : PReg) : RoundTrip.Statement (.vsll et d a b pg) := by
  refine RoundTrip.of_word rfl fun _ => ?_
  rw [decode_57 (by simp)]
  rw [intEt_of_code (et := et) (by simp)]
  simp [decodeOpV]

theorem RoundTrip.vsr (et : IntEt) (d : VReg) (a : VReg) (b : VReg) (pg : PReg) : RoundTrip.Statement (.vsr et d a b pg) := by
  refine RoundTrip.of_word rfl fun _ => ?_
  rw [decode_57 (by simp)]
  rw [intEt_of_code (et := et) (by simp)]
  simp [decodeOpV]

theorem RoundTrip.vadc (et : IntEt) (d : VReg) (a : VReg) (b : VReg) (pg : PReg) : RoundTrip.Statement (.vadc et d a b pg) := by
  refine RoundTrip.of_word rfl fun _ => ?_
  rw [decode_57 (by simp)]
  rw [intEt_of_code (et := et) (by simp)]
  simp [decodeOpV]

theorem RoundTrip.vsbc (et : IntEt) (d : VReg) (a : VReg) (b : VReg) (pg : PReg) : RoundTrip.Statement (.vsbc et d a b pg) := by
  refine RoundTrip.of_word rfl fun _ => ?_
  rw [decode_57 (by simp)]
  rw [intEt_of_code (et := et) (by simp)]
  simp [decodeOpV]

theorem RoundTrip.vmuladc (et : IntEt) (d : VReg) (a : VReg) (b : VReg) (pg : PReg) : RoundTrip.Statement (.vmuladc et d a b pg) := by
  refine RoundTrip.of_word rfl fun _ => ?_
  rw [decode_57 (by simp)]
  rw [intEt_of_code (et := et) (by simp)]
  simp [decodeOpV]

theorem RoundTrip.vceq (et : IntEt) (d : PReg) (a : VReg) (b : VReg) (pg : PReg) : RoundTrip.Statement (.vceq et d a b pg) := by
  refine RoundTrip.of_word rfl fun _ => ?_
  rw [decode_57 (by simp)]
  rw [intEt_of_code (et := et) (by simp)]
  simp [decodeOpV]

theorem RoundTrip.vclt (et : IntEt) (d : PReg) (a : VReg) (b : VReg) (pg : PReg) : RoundTrip.Statement (.vclt et d a b pg) := by
  refine RoundTrip.of_word rfl fun _ => ?_
  rw [decode_57 (by simp)]
  rw [intEt_of_code (et := et) (by simp)]
  simp [decodeOpV]

theorem RoundTrip.vfadd (et : FpEt) (d : VReg) (a : VReg) (b : VReg) (pg : PReg) : RoundTrip.Statement (.vfadd et d a b pg) := by
  refine RoundTrip.of_word rfl fun hw => ?_
  simp only [Instr.wf] at hw
  rw [decode_53 (by simp)]
  rw [withFp_of_code (et := et) (by simp)]
  simp [decodeOpFp, hw]

theorem RoundTrip.vfsub (et : FpEt) (d : VReg) (a : VReg) (b : VReg) (pg : PReg) : RoundTrip.Statement (.vfsub et d a b pg) := by
  refine RoundTrip.of_word rfl fun hw => ?_
  simp only [Instr.wf] at hw
  rw [decode_53 (by simp)]
  rw [withFp_of_code (et := et) (by simp)]
  simp [decodeOpFp, hw]

theorem RoundTrip.vfmul (et : FpEt) (d : VReg) (a : VReg) (b : VReg) (pg : PReg) : RoundTrip.Statement (.vfmul et d a b pg) := by
  refine RoundTrip.of_word rfl fun hw => ?_
  simp only [Instr.wf] at hw
  rw [decode_53 (by simp)]
  rw [withFp_of_code (et := et) (by simp)]
  simp [decodeOpFp, hw]

theorem RoundTrip.vfma (et : FpEt) (d : VReg) (a : VReg) (b : VReg) (pg : PReg) : RoundTrip.Statement (.vfma et d a b pg) := by
  refine RoundTrip.of_word rfl fun hw => ?_
  simp only [Instr.wf] at hw
  rw [decode_53 (by simp)]
  rw [withFp_of_code (et := et) (by simp)]
  simp [decodeOpFp, hw]

theorem RoundTrip.vfnma (et : FpEt) (d : VReg) (a : VReg) (b : VReg) (pg : PReg) : RoundTrip.Statement (.vfnma et d a b pg) := by
  refine RoundTrip.of_word rfl fun hw => ?_
  simp only [Instr.wf] at hw
  rw [decode_53 (by simp)]
  rw [withFp_of_code (et := et) (by simp)]
  simp [decodeOpFp, hw]

theorem RoundTrip.vfmin (et : FpEt) (d : VReg) (a : VReg) (b : VReg) (pg : PReg) : RoundTrip.Statement (.vfmin et d a b pg) := by
  refine RoundTrip.of_word rfl fun _ => ?_
  rw [decode_53 (by simp)]
  rw [withFp_of_code (et := et) (by simp)]
  simp [decodeOpFp]

theorem RoundTrip.vfmax (et : FpEt) (d : VReg) (a : VReg) (b : VReg) (pg : PReg) : RoundTrip.Statement (.vfmax et d a b pg) := by
  refine RoundTrip.of_word rfl fun _ => ?_
  rw [decode_53 (by simp)]
  rw [withFp_of_code (et := et) (by simp)]
  simp [decodeOpFp]

theorem RoundTrip.vfabs (et : FpEt) (d : VReg) (a : VReg) (pg : PReg) : RoundTrip.Statement (.vfabs et d a pg) := by
  refine RoundTrip.of_word rfl fun _ => ?_
  rw [decode_53 (by simp)]
  rw [withFp_of_code (et := et) (by simp)]
  simp [decodeOpFp]

theorem RoundTrip.vfneg (et : FpEt) (d : VReg) (a : VReg) (pg : PReg) : RoundTrip.Statement (.vfneg et d a pg) := by
  refine RoundTrip.of_word rfl fun _ => ?_
  rw [decode_53 (by simp)]
  rw [withFp_of_code (et := et) (by simp)]
  simp [decodeOpFp]

theorem RoundTrip.vfceq (et : FpEt) (d : PReg) (a : VReg) (b : VReg) (pg : PReg) : RoundTrip.Statement (.vfceq et d a b pg) := by
  refine RoundTrip.of_word rfl fun _ => ?_
  rw [decode_53 (by simp)]
  rw [withFp_of_code (et := et) (by simp)]
  simp [decodeOpFp]

theorem RoundTrip.vfclt (et : FpEt) (d : PReg) (a : VReg) (b : VReg) (pg : PReg) : RoundTrip.Statement (.vfclt et d a b pg) := by
  refine RoundTrip.of_word rfl fun _ => ?_
  rw [decode_53 (by simp)]
  rw [withFp_of_code (et := et) (by simp)]
  simp [decodeOpFp]

theorem RoundTrip.vfcle (et : FpEt) (d : PReg) (a : VReg) (b : VReg) (pg : PReg) : RoundTrip.Statement (.vfcle et d a b pg) := by
  refine RoundTrip.of_word rfl fun _ => ?_
  rw [decode_53 (by simp)]
  rw [withFp_of_code (et := et) (by simp)]
  simp [decodeOpFp]

theorem RoundTrip.vexp2 (et : FpEt) (d : VReg) (a : VReg) (pg : PReg) : RoundTrip.Statement (.vexp2 et d a pg) := by
  refine RoundTrip.of_word rfl fun hw => ?_
  simp only [Instr.wf] at hw
  rw [decode_53 (by simp)]
  rw [withFp_of_code (et := et) (by simp)]
  simp [decodeOpFp, hw]

theorem RoundTrip.vrcp (et : FpEt) (d : VReg) (a : VReg) (pg : PReg) : RoundTrip.Statement (.vrcp et d a pg) := by
  refine RoundTrip.of_word rfl fun hw => ?_
  simp only [Instr.wf] at hw
  rw [decode_53 (by simp)]
  rw [withFp_of_code (et := et) (by simp)]
  simp [decodeOpFp, hw]

theorem RoundTrip.vrsq (et : FpEt) (d : VReg) (a : VReg) (pg : PReg) : RoundTrip.Statement (.vrsq et d a pg) := by
  refine RoundTrip.of_word rfl fun hw => ?_
  simp only [Instr.wf] at hw
  rw [decode_53 (by simp)]
  rw [withFp_of_code (et := et) (by simp)]
  simp [decodeOpFp, hw]

theorem RoundTrip.vlog2 (et : FpEt) (d : VReg) (a : VReg) (pg : PReg) : RoundTrip.Statement (.vlog2 et d a pg) := by
  refine RoundTrip.of_word rfl fun hw => ?_
  simp only [Instr.wf] at hw
  rw [decode_53 (by simp)]
  rw [withFp_of_code (et := et) (by simp)]
  simp [decodeOpFp, hw]

theorem RoundTrip.vsel (et : IntEt) (d : VReg) (a : VReg) (b : VReg) (pg : PReg) : RoundTrip.Statement (.vsel et d a b pg) := by
  refine RoundTrip.of_word rfl fun _ => ?_
  rw [decode_43 (by simp)]
  rw [intEt_of_code (et := et) (by simp)]
  simp [decodeMadd]

theorem RoundTrip.vperm (et : IntEt) (d : VReg) (a : VReg) (b : VReg) (pg : PReg) : RoundTrip.Statement (.vperm et d a b pg) := by
  refine RoundTrip.of_word rfl fun _ => ?_
  rw [decode_43 (by simp)]
  rw [intEt_of_code (et := et) (by simp)]
  simp [decodeMadd]

theorem RoundTrip.vbcast (et : IntEt) (d : VReg) (a : XReg) (pg : PReg) : RoundTrip.Statement (.vbcast et d a pg) := by
  refine RoundTrip.of_word rfl fun _ => ?_
  rw [decode_43 (by simp)]
  rw [intEt_of_code (et := et) (by simp)]
  simp [decodeMadd]

theorem RoundTrip.vcle (et : IntEt) (d : PReg) (a : VReg) (b : VReg) (pg : PReg) : RoundTrip.Statement (.vcle et d a b pg) := by
  refine RoundTrip.of_word rfl fun _ => ?_
  rw [decode_43 (by simp)]
  rw [intEt_of_code (et := et) (by simp)]
  simp [decodeMadd]

theorem RoundTrip.vcne (et : IntEt) (d : PReg) (a : VReg) (b : VReg) (pg : PReg) : RoundTrip.Statement (.vcne et d a b pg) := by
  refine RoundTrip.of_word rfl fun _ => ?_
  rw [decode_43 (by simp)]
  rw [intEt_of_code (et := et) (by simp)]
  simp [decodeMadd]

theorem RoundTrip.vradd (et : IntEt) (d : VReg) (a : VReg) (pg : PReg) : RoundTrip.Statement (.vradd et d a pg) := by
  refine RoundTrip.of_word rfl fun _ => ?_
  rw [decode_43 (by simp)]
  rw [intEt_of_code (et := et) (by simp)]
  simp [decodeMadd]

theorem RoundTrip.vrmin (et : IntEt) (d : VReg) (a : VReg) (pg : PReg) : RoundTrip.Statement (.vrmin et d a pg) := by
  refine RoundTrip.of_word rfl fun _ => ?_
  rw [decode_43 (by simp)]
  rw [intEt_of_code (et := et) (by simp)]
  simp [decodeMadd]

theorem RoundTrip.vrmax (et : IntEt) (d : VReg) (a : VReg) (pg : PReg) : RoundTrip.Statement (.vrmax et d a pg) := by
  refine RoundTrip.of_word rfl fun _ => ?_
  rw [decode_43 (by simp)]
  rw [intEt_of_code (et := et) (by simp)]
  simp [decodeMadd]

theorem RoundTrip.vcvtInt (et : IntEt) (d : VReg) (a : VReg) (pg : PReg) : RoundTrip.Statement (.vcvtInt et d a pg) := by
  refine RoundTrip.of_word rfl fun _ => ?_
  rw [decode_43 (by simp)]
  rw [intEt_of_code (et := et) (by simp)]
  simp [decodeMadd]

theorem RoundTrip.vabs (et : IntEt) (d : VReg) (a : VReg) (pg : PReg) : RoundTrip.Statement (.vabs et d a pg) := by
  refine RoundTrip.of_word rfl fun _ => ?_
  rw [decode_43 (by simp)]
  rw [intEt_of_code (et := et) (by simp)]
  simp [decodeMadd]

theorem RoundTrip.vext (et : IntEt) (d : XReg) (a : VReg) (b : XReg) : RoundTrip.Statement (.vext et d a b) := by
  refine RoundTrip.of_word rfl fun _ => ?_
  rw [decode_43 (by simp)]
  rw [intEt_of_code (et := et) (by simp)]
  simp [decodeMadd]

theorem RoundTrip.vcvtFp (et : FpEt) (d : VReg) (a : VReg) (pg : PReg) : RoundTrip.Statement (.vcvtFp et d a pg) := by
  refine RoundTrip.of_word rfl fun _ => ?_
  rw [decode_47 (by simp)]
  rw [withFp_of_code (et := et) (by simp)]
  simp [decodeMsub]

theorem RoundTrip.vquant (et : FpEt) (d : VReg) (a : VReg) (b : VReg) (pg : PReg) : RoundTrip.Statement (.vquant et d a b pg) := by
  refine RoundTrip.of_word rfl fun hw => ?_
  simp only [Instr.wf] at hw
  rw [decode_47 (by simp)]
  rw [withFp_of_code (et := et) (by simp)]
  simp [decodeMsub, hw]

theorem RoundTrip.vdeq (et : FpEt) (d : VReg) (a : VReg) (b : VReg) (pg : PReg) : RoundTrip.Statement (.vdeq et d a b pg) := by
  refine RoundTrip.of_word rfl fun _ => ?_
  rw [decode_47 (by simp)]
  rw [withFp_of_code (et := et) (by simp)]
  simp [decodeMsub]

theorem RoundTrip.vfrsum (et : FpEt) (d : VReg) (a : VReg) (pg : PReg) : RoundTrip.Statement (.vfrsum et d a pg) := by
  refine RoundTrip.of_word rfl fun hw => ?_
  simp only [Instr.wf] at hw
  rw [decode_47 (by simp)]
  rw [withFp_of_code (et := et) (by simp)]
  simp [decodeMsub, hw]

theorem RoundTrip.vfrmax (et : FpEt) (d : VReg) (a : VReg) (pg : PReg) : RoundTrip.Statement (.vfrmax et d a pg) := by
  refine RoundTrip.of_word rfl fun hw => ?_
  simp only [Instr.wf] at hw
  rw [decode_47 (by simp)]
  rw [withFp_of_code (et := et) (by simp)]
  simp [decodeMsub, hw]

theorem RoundTrip.vfrmin (et : FpEt) (d : VReg) (a : VReg) (pg : PReg) : RoundTrip.Statement (.vfrmin et d a pg) := by
  refine RoundTrip.of_word rfl fun hw => ?_
  simp only [Instr.wf] at hw
  rw [decode_47 (by simp)]
  rw [withFp_of_code (et := et) (by simp)]
  simp [decodeMsub, hw]

theorem RoundTrip.vld (ew : Ew) (v : VReg) (a : CReg) (x : XReg) (pg : PReg) : RoundTrip.Statement (.vld ew v a x pg) := by
  refine RoundTrip.of_word rfl fun _ => ?_
  simp only [cField]
  rw [decode_07 (by simp)]
  rw [withEw_of_code (ew := ew) (by simp)]
  simp [decodeLoadFp]

theorem RoundTrip.vldsA1 (ew : Ew) (v : VReg) (a : CReg) (x : XReg) (pg : PReg) : RoundTrip.Statement (.vldsA1 ew v a x pg) := by
  refine RoundTrip.of_word rfl fun _ => ?_
  simp only [cField]
  rw [decode_07 (by simp)]
  rw [withEw_of_code (ew := ew) (by simp)]
  simp [decodeLoadFp]

theorem RoundTrip.vldsA2 (ew : Ew) (v : VReg) (a : CReg) (x : XReg) (pg : PReg) : RoundTrip.Statement (.vldsA2 ew v a x pg) := by
  refine RoundTrip.of_word rfl fun _ => ?_
  simp only [cField]
  rw [decode_07 (by simp)]
  rw [withEw_of_code (ew := ew) (by simp)]
  simp [decodeLoadFp]

theorem RoundTrip.vldsA3 (ew : Ew) (v : VReg) (a : CReg) (x : XReg) (pg : PReg) : RoundTrip.Statement (.vldsA3 ew v a x pg) := by
  refine RoundTrip.of_word rfl fun _ => ?_
  simp only [cField]
  rw [decode_07 (by simp)]
  rw [withEw_of_code (ew := ew) (by simp)]
  simp [decodeLoadFp]

theorem RoundTrip.vldg (ew : Ew) (v : VReg) (a : CReg) (x : VReg) (pg : PReg) : RoundTrip.Statement (.vldg ew v a x pg) := by
  refine RoundTrip.of_word rfl fun _ => ?_
  simp only [cField]
  rw [decode_07 (by simp)]
  rw [withEw_of_code (ew := ew) (by simp)]
  simp [decodeLoadFp]

theorem RoundTrip.vst (ew : Ew) (v : VReg) (a : CReg) (x : XReg) (pg : PReg) : RoundTrip.Statement (.vst ew v a x pg) := by
  refine RoundTrip.of_word rfl fun _ => ?_
  simp only [cField]
  rw [decode_27 (by simp)]
  rw [withEw_of_code (ew := ew) (by simp)]
  simp [decodeStoreFp]

theorem RoundTrip.vstsA1 (ew : Ew) (v : VReg) (a : CReg) (x : XReg) (pg : PReg) : RoundTrip.Statement (.vstsA1 ew v a x pg) := by
  refine RoundTrip.of_word rfl fun _ => ?_
  simp only [cField]
  rw [decode_27 (by simp)]
  rw [withEw_of_code (ew := ew) (by simp)]
  simp [decodeStoreFp]

theorem RoundTrip.vstsA2 (ew : Ew) (v : VReg) (a : CReg) (x : XReg) (pg : PReg) : RoundTrip.Statement (.vstsA2 ew v a x pg) := by
  refine RoundTrip.of_word rfl fun _ => ?_
  simp only [cField]
  rw [decode_27 (by simp)]
  rw [withEw_of_code (ew := ew) (by simp)]
  simp [decodeStoreFp]

theorem RoundTrip.vstsA3 (ew : Ew) (v : VReg) (a : CReg) (x : XReg) (pg : PReg) : RoundTrip.Statement (.vstsA3 ew v a x pg) := by
  refine RoundTrip.of_word rfl fun _ => ?_
  simp only [cField]
  rw [decode_27 (by simp)]
  rw [withEw_of_code (ew := ew) (by simp)]
  simp [decodeStoreFp]

theorem RoundTrip.vstg (ew : Ew) (v : VReg) (a : CReg) (x : VReg) (pg : PReg) : RoundTrip.Statement (.vstg ew v a x pg) := by
  refine RoundTrip.of_word rfl fun _ => ?_
  simp only [cField]
  rw [decode_27 (by simp)]
  rw [withEw_of_code (ew := ew) (by simp)]
  simp [decodeStoreFp]

theorem RoundTrip.pand (d : PReg) (a : PReg) (b : PReg) : RoundTrip.Statement (.pand d a b) := by
  refine RoundTrip.of_word rfl fun _ => ?_
  rw [decode_4b (by simp)]
  simp [decodePred]

theorem RoundTrip.por (d : PReg) (a : PReg) (b : PReg) : RoundTrip.Statement (.por d a b) := by
  refine RoundTrip.of_word rfl fun _ => ?_
  rw [decode_4b (by simp)]
  simp [decodePred]

theorem RoundTrip.pxor (d : PReg) (a : PReg) (b : PReg) : RoundTrip.Statement (.pxor d a b) := by
  refine RoundTrip.of_word rfl fun _ => ?_
  rw [decode_4b (by simp)]
  simp [decodePred]

theorem RoundTrip.pandn (d : PReg) (a : PReg) (b : PReg) : RoundTrip.Statement (.pandn d a b) := by
  refine RoundTrip.of_word rfl fun _ => ?_
  rw [decode_4b (by simp)]
  simp [decodePred]

theorem RoundTrip.pnot (d : PReg) (a : PReg) : RoundTrip.Statement (.pnot d a) := by
  refine RoundTrip.of_word rfl fun _ => ?_
  rw [decode_4b (by simp)]
  simp [decodePred]

theorem RoundTrip.pfromx (d : PReg) (a : XReg) : RoundTrip.Statement (.pfromx d a) := by
  refine RoundTrip.of_word rfl fun _ => ?_
  rw [decode_4b (by simp)]
  simp [decodePred]

theorem RoundTrip.ptox (d : XReg) (a : PReg) : RoundTrip.Statement (.ptox d a) := by
  refine RoundTrip.of_word rfl fun _ => ?_
  rw [decode_4b (by simp)]
  simp [decodePred]

theorem RoundTrip.pcnt (d : XReg) (a : PReg) : RoundTrip.Statement (.pcnt d a) := by
  refine RoundTrip.of_word rfl fun _ => ?_
  rw [decode_4b (by simp)]
  simp [decodePred]

theorem RoundTrip.illegalInsnWord (w : Insn) : RoundTrip.Statement (.illegalInsnWord w) :=
  RoundTrip.of_none rfl

theorem RoundTrip.postedStoreAccept (core : Nat) (index : Nat) : RoundTrip.Statement (.postedStoreAccept core index) :=
  RoundTrip.of_none rfl

theorem RoundTrip.coreDrainComplete (core : Nat) : RoundTrip.Statement (.coreDrainComplete core) :=
  RoundTrip.of_none rfl

theorem RoundTrip.farAccessComplete (id : Nat) : RoundTrip.Statement (.farAccessComplete id) :=
  RoundTrip.of_none rfl

theorem RoundTrip.tlbWalkComplete (id : Nat) : RoundTrip.Statement (.tlbWalkComplete id) :=
  RoundTrip.of_none rfl

theorem RoundTrip.fetchLineFill (core : Nat) (line : Nat) : RoundTrip.Statement (.fetchLineFill core line) :=
  RoundTrip.of_none rfl

theorem RoundTrip.streamStripArrival (core : Nat) (reg : Nat) : RoundTrip.Statement (.streamStripArrival core reg) :=
  RoundTrip.of_none rfl

theorem RoundTrip.pageRequestGroupResponse (group : Nat) (resp : PageResponse) : RoundTrip.Statement (.pageRequestGroupResponse group resp) :=
  RoundTrip.of_none rfl

theorem RoundTrip.atsInvalidateRequest (fn : Nat) (page : Nat) (count : Nat) (perm : BitVec 2) : RoundTrip.Statement (.atsInvalidateRequest fn page count perm) :=
  RoundTrip.of_none rfl

theorem RoundTrip.engineTurn (engine : Nat) : RoundTrip.Statement (.engineTurn engine) :=
  RoundTrip.of_none rfl

theorem RoundTrip.counterOperationApply (id : Nat) : RoundTrip.Statement (.counterOperationApply id) :=
  RoundTrip.of_none rfl

theorem RoundTrip.spilledWaiterReadComplete (cell : Nat) : RoundTrip.Statement (.spilledWaiterReadComplete cell) :=
  RoundTrip.of_none rfl

theorem RoundTrip.hostCellPoll (cell : Nat) : RoundTrip.Statement (.hostCellPoll cell) :=
  RoundTrip.of_none rfl

theorem RoundTrip.hostReadCompletion (id : Nat) (status : HostStatus) : RoundTrip.Statement (.hostReadCompletion id status) :=
  RoundTrip.of_none rfl

theorem RoundTrip.hostAtomicCompletion (id : Nat) (status : HostStatus) : RoundTrip.Statement (.hostAtomicCompletion id status) :=
  RoundTrip.of_none rfl

theorem RoundTrip.dispatchChoose (core : Nat) : RoundTrip.Statement (.dispatchChoose core) :=
  RoundTrip.of_none rfl

theorem RoundTrip.dispatchLoadComplete (core : Nat) : RoundTrip.Statement (.dispatchLoadComplete core) :=
  RoundTrip.of_none rfl

theorem RoundTrip.preemptRequest (core : Nat) (service : Bool) : RoundTrip.Statement (.preemptRequest core service) :=
  RoundTrip.of_none rfl

theorem RoundTrip.preemption (core : Nat) : RoundTrip.Statement (.preemption core) :=
  RoundTrip.of_none rfl

theorem RoundTrip.launchDoorbell (fn : OfTlp Nat) (tail : BitVec 16) :
    RoundTrip.Statement (.launchDoorbell fn tail) :=
  RoundTrip.of_none rfl

theorem RoundTrip.launchSlot (fn : Nat) : RoundTrip.Statement (.launchSlot fn) :=
  RoundTrip.of_none rfl

theorem RoundTrip.ingestFlit (port : Nat) (hdr : FlitHeader) (start : Bool) (u0 : Vec) (u1 : Vec) (u2 : Vec) : RoundTrip.Statement (.ingestFlit port hdr start u0 u1 u2) :=
  RoundTrip.of_none rfl

theorem RoundTrip.ingestHeldRecord (port : Nat) : RoundTrip.Statement (.ingestHeldRecord port) :=
  RoundTrip.of_none rfl

theorem RoundTrip.exchangeArmed (core : Nat) : RoundTrip.Statement (.exchangeArmed core) :=
  RoundTrip.of_none rfl

theorem RoundTrip.phaseStart (gate : Nat) : RoundTrip.Statement (.phaseStart gate) :=
  RoundTrip.of_none rfl

theorem RoundTrip.phaseTimeout (core : Nat) : RoundTrip.Statement (.phaseTimeout core) :=
  RoundTrip.of_none rfl

theorem RoundTrip.exchangeVectorArrival (id : Nat) : RoundTrip.Statement (.exchangeVectorArrival id) :=
  RoundTrip.of_none rfl

theorem RoundTrip.kstepBoundary (engine : Nat) : RoundTrip.Statement (.kstepBoundary engine) :=
  RoundTrip.of_none rfl

theorem RoundTrip.serviceCall (us : Nat) : RoundTrip.Statement (.serviceCall us) :=
  RoundTrip.of_none rfl

theorem RoundTrip.resetGenerationAdvance (tenant : Nat) : RoundTrip.Statement (.resetGenerationAdvance tenant) :=
  RoundTrip.of_none rfl

theorem RoundTrip.mediatedCompletion (fn : Nat) : RoundTrip.Statement (.mediatedCompletion fn) :=
  RoundTrip.of_none rfl

theorem RoundTrip.faultReportAnswer (fn : Nat) : RoundTrip.Statement (.faultReportAnswer fn) :=
  RoundTrip.of_none rfl

theorem RoundTrip.partitionRestore (tenant : Nat) (core : Nat) : RoundTrip.Statement (.partitionRestore tenant core) :=
  RoundTrip.of_none rfl

theorem RoundTrip.partitionSwapOut (core : Nat) (part : Nat) : RoundTrip.Statement (.partitionSwapOut core part) :=
  RoundTrip.of_none rfl

theorem RoundTrip.partitionModeChange (core : Nat) (mode : BitVec 2) : RoundTrip.Statement (.partitionModeChange core mode) :=
  RoundTrip.of_none rfl

theorem RoundTrip.mappingShootdown (tenant : Nat) (va : Nat) (pteAddr : Nat) (pte : Word) : RoundTrip.Statement (.mappingShootdown tenant va pteAddr pte) :=
  RoundTrip.of_none rfl

theorem RoundTrip.vaultBlockAssign (vault : Nat) (block : Nat) (tenant : Option Nat) : RoundTrip.Statement (.vaultBlockAssign vault block tenant) :=
  RoundTrip.of_none rfl

theorem RoundTrip.programLoad (req : LoadRequest) : RoundTrip.Statement (.programLoad req) :=
  RoundTrip.of_none rfl

theorem RoundTrip.adapterSlotAllot (slot : Nat) (tenant : Nat) (dbase : Nat) (dsize : Nat) (dest : Nat) : RoundTrip.Statement (.adapterSlotAllot slot tenant dbase dsize dest) :=
  RoundTrip.of_none rfl

theorem RoundTrip.nodeSplit (node : Nat) : RoundTrip.Statement (.nodeSplit node) :=
  RoundTrip.of_none rfl

theorem RoundTrip.nodeMerge (node : Nat) : RoundTrip.Statement (.nodeMerge node) :=
  RoundTrip.of_none rfl

theorem RoundTrip.nodeAllot (node : Nat) (tenant : Nat) : RoundTrip.Statement (.nodeAllot node tenant) :=
  RoundTrip.of_none rfl

theorem RoundTrip.nodeShare (node : Nat) (tenant : Nat) : RoundTrip.Statement (.nodeShare node tenant) :=
  RoundTrip.of_none rfl

theorem RoundTrip.nodeRelease (node : Nat) (tenant : Nat) : RoundTrip.Statement (.nodeRelease node tenant) :=
  RoundTrip.of_none rfl

theorem RoundTrip.nodeLock (node : Nat) : RoundTrip.Statement (.nodeLock node) :=
  RoundTrip.of_none rfl

theorem RoundTrip.nodeUnlock (node : Nat) : RoundTrip.Statement (.nodeUnlock node) :=
  RoundTrip.of_none rfl

theorem RoundTrip.functionLevelReset (fn : Nat) : RoundTrip.Statement (.functionLevelReset fn) :=
  RoundTrip.of_none rfl

theorem RoundTrip.vfEnableSet (vfs : List TenantInit) : RoundTrip.Statement (.vfEnableSet vfs) :=
  RoundTrip.of_none rfl

theorem RoundTrip.serviceTenantReset (tenant : Nat) : RoundTrip.Statement (.serviceTenantReset tenant) :=
  RoundTrip.of_none rfl

theorem RoundTrip.bringUp (inp : BringUpInput) : RoundTrip.Statement (.bringUp inp) :=
  RoundTrip.of_none rfl

theorem RoundTrip.apertureMemoryRead (fn : Nat) (bar : Nat) (off : Nat) (len : Nat) (ide : IdeTag) : RoundTrip.Statement (.apertureMemoryRead fn bar off len ide) :=
  RoundTrip.of_none rfl

theorem RoundTrip.apertureMemoryWrite (fn : Nat) (off : Nat) (data : List Byte) (ide : IdeTag) : RoundTrip.Statement (.apertureMemoryWrite fn off data ide) :=
  RoundTrip.of_none rfl

theorem RoundTrip.apertureAtomicop (fn : Nat) (off : Nat) (op : HostAtomic) (wide : Bool) (a : Word) (b : Word) (ide : IdeTag) : RoundTrip.Statement (.apertureAtomicop fn off op wide a b ide) :=
  RoundTrip.of_none rfl

theorem RoundTrip.counterApertureFetchadd (fn : Nat) (off : Nat) (amount : Word) (ide : IdeTag) : RoundTrip.Statement (.counterApertureFetchadd fn off amount ide) :=
  RoundTrip.of_none rfl

theorem RoundTrip.mailboxDoorbell (fn : OfTlp Nat) (tail : BitVec 16) :
    RoundTrip.Statement (.mailboxDoorbell fn tail) :=
  RoundTrip.of_none rfl

theorem RoundTrip.moheadWrite (fn : OfTlp Nat) (head : BitVec 16) :
    RoundTrip.Statement (.moheadWrite fn head) :=
  RoundTrip.of_none rfl

theorem RoundTrip.qerrClear (fn : OfTlp Nat) :
    RoundTrip.Statement (.qerrClear fn) :=
  RoundTrip.of_none rfl

theorem RoundTrip.bar0RegisterWrite (fn : OfTlp Nat) (off : Nat) (size : Nat) (value : Word) :
    RoundTrip.Statement (.bar0RegisterWrite fn off size value) :=
  RoundTrip.of_none rfl

theorem RoundTrip.portModeWrite (port : OfTlp Nat) (off : Nat) (value : Word) :
    RoundTrip.Statement (.portModeWrite port off value) :=
  RoundTrip.of_none rfl

theorem RoundTrip.binderrClear (port : OfTlp Nat) :
    RoundTrip.Statement (.binderrClear port) :=
  RoundTrip.of_none rfl

theorem RoundTrip.plimitWrite (value : OfTlp (BitVec 16)) :
    RoundTrip.Statement (.plimitWrite value) :=
  RoundTrip.of_none rfl

theorem RoundTrip.lockInterfaceRequest (fn : Nat) : RoundTrip.Statement (.lockInterfaceRequest fn) :=
  RoundTrip.of_none rfl

theorem RoundTrip.startInterfaceRequest (fn : Nat) : RoundTrip.Statement (.startInterfaceRequest fn) :=
  RoundTrip.of_none rfl

theorem RoundTrip.stopInterfaceRequest (fn : Nat) : RoundTrip.Statement (.stopInterfaceRequest fn) :=
  RoundTrip.of_none rfl

theorem RoundTrip.quiesce (fn : Nat) : RoundTrip.Statement (.quiesce fn) :=
  RoundTrip.of_none rfl

theorem RoundTrip.unquiesce (fn : Nat) : RoundTrip.Statement (.unquiesce fn) :=
  RoundTrip.of_none rfl

theorem RoundTrip.tdiConfigWrite (fn : Nat) : RoundTrip.Statement (.tdiConfigWrite fn) :=
  RoundTrip.of_none rfl

theorem RoundTrip.ideTlpFailure (fn : Nat) (stream : Nat) : RoundTrip.Statement (.ideTlpFailure fn stream) :=
  RoundTrip.of_none rfl

theorem RoundTrip.ideKeyProgram (fn : Nat) (stream : Nat) (set : Nat) : RoundTrip.Statement (.ideKeyProgram fn stream set) :=
  RoundTrip.of_none rfl

theorem RoundTrip.kSetGo (fn : Nat) (stream : Nat) : RoundTrip.Statement (.kSetGo fn stream) :=
  RoundTrip.of_none rfl

theorem RoundTrip.spdmRequest (req : SpdmReq) : RoundTrip.Statement (.spdmRequest req) :=
  RoundTrip.of_none rfl

theorem RoundTrip.powerStateD3hot (fn : Nat) : RoundTrip.Statement (.powerStateD3hot fn) :=
  RoundTrip.of_none rfl

theorem RoundTrip.powerStateD0 (fn : Nat) : RoundTrip.Statement (.powerStateD0 fn) :=
  RoundTrip.of_none rfl

theorem RoundTrip.firmwareActivation (image : FirmwareImage) : RoundTrip.Statement (.firmwareActivation image) :=
  RoundTrip.of_none rfl

theorem RoundTrip.writeFlit (port : Nat) (hdr : FlitHeader) (addr : BitVec 46) (data : List Byte) : RoundTrip.Statement (.writeFlit port hdr addr data) :=
  RoundTrip.of_none rfl

theorem RoundTrip.caddFlit (port : Nat) (hdr : FlitHeader) (addr : BitVec 46) (amount : Word) : RoundTrip.Statement (.caddFlit port hdr addr amount) :=
  RoundTrip.of_none rfl

theorem RoundTrip.cmaxFlit (port : Nat) (hdr : FlitHeader) (addr : BitVec 46) (candidate : Word) : RoundTrip.Statement (.cmaxFlit port hdr addr candidate) :=
  RoundTrip.of_none rfl

theorem RoundTrip.creadFlit (port : Nat) (hdr : FlitHeader) (addr : BitVec 46) : RoundTrip.Statement (.creadFlit port hdr addr) :=
  RoundTrip.of_none rfl

theorem RoundTrip.cwatchFlit (port : Nat) (hdr : FlitHeader) (addr : BitVec 46) (threshold : Word) : RoundTrip.Statement (.cwatchFlit port hdr addr threshold) :=
  RoundTrip.of_none rfl

theorem RoundTrip.cansFlit (port : Nat) (hdr : FlitHeader) (op : Nat) (answer : CansAnswer) : RoundTrip.Statement (.cansFlit port hdr op answer) :=
  RoundTrip.of_none rfl

theorem RoundTrip.abortFlit (port : Nat) (hdr : FlitHeader) (oldGen : BitVec 8) (newGen : BitVec 8) (func : BitVec 10) : RoundTrip.Statement (.abortFlit port hdr oldGen newGen func) :=
  RoundTrip.of_none rfl

theorem RoundTrip.linkctlFlit (port : Nat) (hdr : FlitHeader) (nak : BitVec 12) : RoundTrip.Statement (.linkctlFlit port hdr nak) :=
  RoundTrip.of_none rfl

theorem RoundTrip.idleFlit (port : Nat) (hdr : FlitHeader) : RoundTrip.Statement (.idleFlit port hdr) :=
  RoundTrip.of_none rfl

theorem RoundTrip.flitReceiveError (port : Nat) (kind : FlitError) : RoundTrip.Statement (.flitReceiveError port kind) :=
  RoundTrip.of_none rfl

theorem RoundTrip.linkUp (port : Nat) (peerEnc : Bool) : RoundTrip.Statement (.linkUp port peerEnc) :=
  RoundTrip.of_none rfl

theorem RoundTrip.linkDown (port : Nat) (cause : BitVec 3) : RoundTrip.Statement (.linkDown port cause) :=
  RoundTrip.of_none rfl

theorem RoundTrip.linkRekey (port : Nat) : RoundTrip.Statement (.linkRekey port) :=
  RoundTrip.of_none rfl

theorem RoundTrip.powerSample (watts : Nat) (temp0 : Nat) (temp1 : Nat) : RoundTrip.Statement (.powerSample watts temp0 temp1) :=
  RoundTrip.of_none rfl

theorem RoundTrip.priEnableWrite (fn : Nat) : RoundTrip.Statement (.priEnableWrite fn) :=
  RoundTrip.of_none rfl

theorem RoundTrip.atomicopRequesterEnableWrite (fn : Nat) : RoundTrip.Statement (.atomicopRequesterEnableWrite fn) :=
  RoundTrip.of_none rfl

theorem RoundTrip.cret : RoundTrip.Statement .cret := by
  refine RoundTrip.of_word rfl fun _ => ?_
  rw [decode_67 (by simp)]
  simp [decodeJalr]

theorem RoundTrip.yield : RoundTrip.Statement .yield := by
  refine RoundTrip.of_word rfl fun _ => ?_
  rw [decode_2b (by simp)]
  simp [decodeCounter]

theorem RoundTrip.fin : RoundTrip.Statement .fin := by
  refine RoundTrip.of_word rfl fun _ => ?_
  rw [decode_2b (by simp)]
  simp [decodeCounter]

theorem RoundTrip.brk : RoundTrip.Statement .brk := by
  refine RoundTrip.of_word rfl fun _ => ?_
  rw [decode_73 (by simp)]
  simp [decodeSystem]

theorem RoundTrip.sret : RoundTrip.Statement .sret := by
  refine RoundTrip.of_word rfl fun _ => ?_
  rw [decode_73 (by simp)]
  simp [decodeSystem]

theorem RoundTrip.shalt : RoundTrip.Statement .shalt := by
  refine RoundTrip.of_word rfl fun _ => ?_
  rw [decode_73 (by simp)]
  simp [decodeSystem]

theorem RoundTrip.engineDeficitRaise : RoundTrip.Statement .engineDeficitRaise :=
  RoundTrip.of_none rfl

theorem RoundTrip.dispatchDeficitRaise : RoundTrip.Statement .dispatchDeficitRaise :=
  RoundTrip.of_none rfl

theorem RoundTrip.matrixDeficitRaise : RoundTrip.Statement .matrixDeficitRaise :=
  RoundTrip.of_none rfl

theorem RoundTrip.sweepMark : RoundTrip.Statement .sweepMark :=
  RoundTrip.of_none rfl

theorem RoundTrip.sweepCores : RoundTrip.Statement .sweepCores :=
  RoundTrip.of_none rfl

theorem RoundTrip.sweepRecords : RoundTrip.Statement .sweepRecords :=
  RoundTrip.of_none rfl

theorem RoundTrip.sweepMemory : RoundTrip.Statement .sweepMemory :=
  RoundTrip.of_none rfl

theorem RoundTrip.sweepClose : RoundTrip.Statement .sweepClose :=
  RoundTrip.of_none rfl

theorem RoundTrip.launchCall : RoundTrip.Statement .launchCall :=
  RoundTrip.of_none rfl

theorem RoundTrip.bmread : RoundTrip.Statement .bmread :=
  RoundTrip.of_none rfl

theorem RoundTrip.bmresume : RoundTrip.Statement .bmresume :=
  RoundTrip.of_none rfl

theorem RoundTrip.bmdrop : RoundTrip.Statement .bmdrop :=
  RoundTrip.of_none rfl

theorem RoundTrip.serviceDeficitRaise : RoundTrip.Statement .serviceDeficitRaise :=
  RoundTrip.of_none rfl

theorem RoundTrip.vfEnableClear : RoundTrip.Statement .vfEnableClear :=
  RoundTrip.of_none rfl

theorem RoundTrip.chime : RoundTrip.Statement .chime :=
  RoundTrip.of_none rfl

theorem RoundTrip.leaderTakeover : RoundTrip.Statement .leaderTakeover :=
  RoundTrip.of_none rfl

theorem RoundTrip.clockStepChange : RoundTrip.Statement .clockStepChange :=
  RoundTrip.of_none rfl

theorem RoundTrip.instructionFetch : RoundTrip.Statement .instructionFetch :=
  RoundTrip.of_none rfl

theorem RoundTrip.packageReset : RoundTrip.Statement .packageReset :=
  RoundTrip.of_none rfl

end Sys2Proof.Laws
end

