-- ==== Sys2Proof/Tests/Slice0.lean ====
section
/-! SUPPORT. Tests of the model against the words and worked examples of the spec, and states that meet the hypotheses of
each statement. -/

namespace Sys2Proof.Tests
open Sys2Proof Sys2Proof.Machine

set_option Elab.async false

/-- The decoder reads an instruction from a 32-bit word. -/
abbrev reads (w : Nat) (i : Instr) : Prop := decodeTableWord 32 w = some i

/-! ### Small states -/

/-- A capability of TENANT scope owned by compartment 0. -/
def cap (fmt base len : Nat) (perm : BitVec 16) (otype : BitVec 16 := 0) : CapReg :=
  { img := mkCap fmt base len perm otype 0 2, tag := true }

/-- A strand of tenant 0 with code at address 0. -/
def tT : Strand := { pcc := cap 3 0 16 0x0010, pc := 0x20 }

/-- Tenant 0 holds every core and partition 0 of cores 0, 1 and 8; tT runs on core 0. -/
def sS : State :=
  let r : Vector Residency 4 := (Vector.replicate 4 ({} : Residency)).set 0 { v := true }
  { State.reset with
    cores := [(0, { mode := .running, strand := tT, residency := r }), (1, { residency := r }), (8, { residency := r })]
    tenants := [(0, { v := true, nodes := [1], ctbase := 0x10000, ctlen := 1, cssize := 1024, callw := 16,
                        dispw := 16, xferw := 16 })]
    blocks := [(0, { v := true })]
    cycle := 100000 }

/-- The state with x registers of the running strand set. -/
def withX (l : List (XReg × Word)) (s : State) : State :=
  s.setStrand (l.foldl (fun t e => t.setX e.1 e.2) s.strand)
/-- The state with c registers of the running strand set. -/
def withC (l : List (CReg × CapReg)) (s : State) : State :=
  s.setStrand (l.foldl (fun t e => t.setC e.1 e.2) s.strand)
/-- The state with v registers of the running strand set. -/
def withV (l : List (VReg × Vec)) (s : State) : State :=
  s.setStrand (l.foldl (fun t e => t.setV e.1 e.2) s.strand)
/-- The state with STATUS of the running strand set. -/
def withStatus (v : Word) (s : State) : State := s.setStrand { s.strand with status := v }
/-- The state with f applied to core k. -/
def withCore (k : Nat) (f : Core → Core) (s : State) : State := s.updCore k f
/-- The state with a little-endian doubleword in memory. -/
def withMem (a : Nat) (v : Word) (s : State) : State := { s with mem := memPuts s.mem (cellsFrom a (natBytes 8 v.toNat)) }

/-- The next state satisfies a property. -/
def thenIs (o : Out) (p : State → Bool) : Bool := match o with
  | .next s => p s
  | .fault _ => false
  | .refused _ => false
/-- The strand after an instruction satisfies a property. -/
def gives (i : Instr) (s : State) (p : Strand → Bool) : Bool := thenIs (exec i s) fun s' => p s'.strand
/-- The instruction ends the strand with a FAULT bookmark of a cause and DETAIL. -/
def ends (i : Instr) (s : State) (cause : BitVec 8) (detail : BitVec 56) : Bool :=
  thenIs (exec i s) fun s' => s'.bms.any fun h => h.bm.kind == .fault && h.bm.cause == cause && h.bm.strand.faultinfo == cause ++ detail

/-! ### Decoding: the words of the spec's examples -/

/-- 01 and 02: the first program of 02, and the words of 02's tables. -/
theorem test_words_scalar :
    reads 0x0000B283 (.ldOffset 5 1 0) ∧ reads 0x0080B303 (.ldOffset 6 1 8) ∧ reads 0x006283B3 (.add 7 5 6) ∧
    reads 0x0070B823 (.sdOffset 7 1 16) ∧ reads 0x00100413 (.addi 8 0 1) ∧ reads 0x001022F3 (.csrrd 5 0x001) ∧
    reads 0x00304073 (.trap 3) ∧ reads 0x00100073 .brk ∧ reads 0x4000402B .yield ∧ reads 0x0062C02B (.spawn 5 6) ∧
    reads 0x4803C02B (.tblk 7) ∧ reads 0x4A03C02B (.tublk 7) := by decide +kernel

/-- 04: the CSLICE, CNARROW and CIDX example, CWRAP, CUNWRAP and CCALL; 05: VADC, FMT, VFMA, VDEQ and PAND. -/
theorem test_words_capability_and_vector :
    reads 0x1262918B (.cslice 3 5 6 1) ∧ reads 0x1803918B (.cnarrow 3 7 0) ∧ reads 0x2881848B (.cidx 9 3 8) ∧
    reads 0x4063928B (.cwrap 5 6 7) ∧ reads 0x4260128B (.cunwrap 5 6) ∧ reads 0x00521067 (.ccall 4 5) ∧
    reads 0xB2407457 (.vadc .z64 8 0 4 1) ∧ reads 0xB250F4D7 (.vadc .z64 9 1 5 1) ∧ reads 0xB2617557 (.vadc .z64 10 2 6 1) ∧
    reads 0x4A40747B (.fmt 8 9 9 0 0) ∧ reads 0x3020A1D3 (.vfma .f32 3 1 2 0) ∧ reads 0x207302C7 (.vdeq .bf16 5 6 7 0) ∧
    reads 0x003100CB (.pand 1 2 3) ∧ reads 0x000010CB (.pfromx 1 0) := by decide +kernel

/-- 07, 08, 10, 11 and 12: fences, streams, engines, counters, messages, calls, jobs, exchange, claims and WEED. -/
theorem test_words_units :
    reads 0x0140800F (.fence .clus 1 4) ∧ reads 0x0000100F (.ifence .core) ∧ reads 0x585018DB (.sbind 1 3 10) ∧
    reads 0x4800085B (.xresume 1) ∧ reads 0x304B995B (.xbind false 2 3 9 7) ∧ reads 0x0001A4AB (.kread 9 3) ∧
    reads 0x14454A2B (.msend 20 4 10 2) ∧ reads 0x2445402B (.msendW 4 10 2) ∧ reads 0x4462C1AB (.scall 3 5 6) ∧
    reads 0x502382DB (.mjob 5 4 7) ∧ reads 0x502002DB (.mjob 5 4 0) ∧ reads 0x0051007B (.exph 2 5) ∧
    reads 0x021A007B (.exsnd 1 20) ∧ reads 0x106202FB (.aclaim 5 4 6) ∧ reads 0x1202007B (.afree 4) ∧
    reads 0x2062007B (.weed 4 6) := by decide +kernel

/-- The encoder writes the same words (07 R230, 10 R342, 11 R376). -/
theorem test_encode_words :
    encode (.fence .clus 1 4) = some 0x0140800F ∧ encode (.tblk 7) = some 0x4803C02B ∧
    encode (.exph 2 5) = some 0x0051007B ∧ encode (.vadc .z64 8 0 4 1) = some 0xB2407457 ∧
    encode (.weed 4 6) = some 0x2062007B := by decide +kernel

/-- 02 R39 to R41: a reserved major, a fixed field that is not zero, and an et outside its set are no instruction. -/
theorem test_words_refused :
    decodeTableWord 32 0 = none ∧ decodeTableWord 32 0xFFFFFFFF = none ∧ decodeTableWord 32 0x00108073 = none ∧
    decodeTableWord 32 0x8000402B = none ∧ decodeTableWord 32 0x00003053 = none := by decide +kernel

/-! ### Decoding: a word for every row of the opcode table -/

/-- Major 0b0010011: each word is the match value of its row with the operands laid into the row's fields. -/
theorem test_decode_op_imm :
    reads 0xA5C28393 (.addi 7 5 0xa5c) ∧ reads 0xA5C2A393 (.slti 7 5 0xa5c) ∧
    reads 0xA5C2B393 (.sltiu 7 5 0xa5c) ∧ reads 0xA5C2C393 (.xori 7 5 0xa5c) ∧
    reads 0xA5C2E393 (.ori 7 5 0xa5c) ∧ reads 0xA5C2F393 (.andi 7 5 0xa5c) ∧
    reads 0x00329393 (.slli 7 5 3) ∧ reads 0x0032D393 (.srli 7 5 3) ∧
    reads 0x4032D393 (.srai 7 5 3) ∧ reads 0x60029393 (.clz 7 5) ∧
    reads 0x60129393 (.ctz 7 5) ∧ reads 0x60229393 (.cpop 7 5) := by
  decide +kernel

/-- Major 0b0110011: each word is the match value of its row with the operands laid into the row's fields. -/
theorem test_decode_op :
    reads 0x006283B3 (.add 7 5 6) ∧ reads 0x406283B3 (.sub 7 5 6) ∧
    reads 0x006293B3 (.sll 7 5 6) ∧ reads 0x0062A3B3 (.slt 7 5 6) ∧
    reads 0x0062B3B3 (.sltu 7 5 6) ∧ reads 0x0062C3B3 (.xor 7 5 6) ∧
    reads 0x0062D3B3 (.srl 7 5 6) ∧ reads 0x4062D3B3 (.sra 7 5 6) ∧
    reads 0x0062E3B3 (.or 7 5 6) ∧ reads 0x0062F3B3 (.and 7 5 6) ∧
    reads 0x026283B3 (.mul 7 5 6) ∧ reads 0x026293B3 (.mulh 7 5 6) ∧
    reads 0x0262A3B3 (.mulhsu 7 5 6) ∧ reads 0x0262B3B3 (.mulhu 7 5 6) ∧
    reads 0x0262C3B3 (.div 7 5 6) ∧ reads 0x0262D3B3 (.divu 7 5 6) ∧
    reads 0x0262E3B3 (.rem 7 5 6) ∧ reads 0x0262F3B3 (.remu 7 5 6) ∧
    reads 0x0A62C3B3 (.min 7 5 6) ∧ reads 0x0A62D3B3 (.minu 7 5 6) ∧
    reads 0x0A62E3B3 (.max 7 5 6) ∧ reads 0x0A62F3B3 (.maxu 7 5 6) := by
  decide +kernel

/-- Major 0b0110111: each word is the match value of its row with the operands laid into the row's fields. -/
theorem test_decode_lui :
    reads 0x00A5C3B7 (.lui 7 0xa5c) := by
  decide +kernel

/-- Major 0b0010111: each word is the match value of its row with the operands laid into the row's fields. -/
theorem test_decode_auipc :
    reads 0x00A5C397 (.auipc 7 0xa5c) := by
  decide +kernel

/-- Major 0b1100011: each word is the match value of its row with the operands laid into the row's fields. -/
theorem test_decode_branch :
    reads 0xD4628A63 (.beq 5 6 0x555) ∧ reads 0xD4629A63 (.bne 5 6 0x555) ∧
    reads 0xD462CA63 (.blt 5 6 0x555) ∧ reads 0xD462DA63 (.bge 5 6 0x555) ∧
    reads 0xD462EA63 (.bltu 5 6 0x555) ∧ reads 0xD462FA63 (.bgeu 5 6 0x555) := by
  decide +kernel

/-- Major 0b1101111: each word is the match value of its row with the operands laid into the row's fields. -/
theorem test_decode_jal :
    reads 0xA953C3EF (.jal 7 0x4f2a5) := by
  decide +kernel

/-- Major 0b1100111: each word is the match value of its row with the operands laid into the row's fields. -/
theorem test_decode_jalr :
    reads 0xA5C283E7 (.jalr 7 5 0xa5c) ∧ reads 0x00629067 (.ccall 5 6) ∧
    reads 0x00002067 .cret := by
  decide +kernel

/-- Major 0b0000011: each word is the match value of its row with the operands laid into the row's fields. -/
theorem test_decode_load :
    reads 0xA5C20383 (.lbOffset 7 4 0xa5c) ∧ reads 0x009A0383 (.lbIndex 7 4 9) ∧
    reads 0xA5C21383 (.lhOffset 7 4 0xa5c) ∧ reads 0x009A1383 (.lhIndex 7 4 9) ∧
    reads 0xA5C22383 (.lwOffset 7 4 0xa5c) ∧ reads 0x009A2383 (.lwIndex 7 4 9) ∧
    reads 0xA5C23383 (.ldOffset 7 4 0xa5c) ∧ reads 0x009A3383 (.ldIndex 7 4 9) ∧
    reads 0xA5C24383 (.lbuOffset 7 4 0xa5c) ∧ reads 0x009A4383 (.lbuIndex 7 4 9) ∧
    reads 0xA5C25383 (.lhuOffset 7 4 0xa5c) ∧ reads 0x009A5383 (.lhuIndex 7 4 9) ∧
    reads 0xA5C26383 (.lwuOffset 7 4 0xa5c) ∧ reads 0x009A6383 (.lwuIndex 7 4 9) ∧
    reads 0xA5C27383 (.clcOffset 7 4 0xa5c) ∧ reads 0x009A7383 (.clcIndex 7 4 9) := by
  decide +kernel

/-- Major 0b0100011: each word is the match value of its row with the operands laid into the row's fields. -/
theorem test_decode_store :
    reads 0xB8320DA3 (.sbOffset 3 4 0xb9b) ∧ reads 0x003A04A3 (.sbIndex 3 4 9) ∧
    reads 0xB8321DA3 (.shOffset 3 4 0xb9b) ∧ reads 0x003A14A3 (.shIndex 3 4 9) ∧
    reads 0xB8322DA3 (.swOffset 3 4 0xb9b) ∧ reads 0x003A24A3 (.swIndex 3 4 9) ∧
    reads 0xB8323DA3 (.sdOffset 3 4 0xb9b) ∧ reads 0x003A34A3 (.sdIndex 3 4 9) ∧
    reads 0xB8324DA3 (.cscOffset 3 4 0xb9b) ∧ reads 0x003A44A3 (.cscIndex 3 4 9) := by
  decide +kernel

/-- Major 0b0001011: each word is the match value of its row with the operands laid into the row's fields. -/
theorem test_decode_capability :
    reads 0x0002838B (.cgetb 7 5) ∧ reads 0x0C02838B (.cgetx 7 5 2) ∧
    reads 0x1402838B (.cgets 7 5 2) ∧ reads 0x1A02838B (.cgetf 7 5 1) ∧
    reads 0x2002838B (.ctag 7 5) ∧ reads 0x2862838B (.cidx 7 5 6) ∧
    reads 0x1462938B (.cslice 7 5 6 2) ∧ reads 0x1C02938B (.cnarrow 7 5 2) ∧
    reads 0x2002938B (.cperm 7 5) ∧ reads 0x4062938B (.cwrap 7 6 5) ∧
    reads 0x4260138B (.cunwrap 7 6) ∧ reads 0x6002938B (.cmov 7 5) := by
  decide +kernel

/-- Major 0b0101011: each word is the match value of its row with the operands laid into the row's fields. -/
theorem test_decode_counter :
    reads 0x0062002B (.kadd 4 6) ∧ reads 0x9062002B (.kaddRel .sys 4 6) ∧
    reads 0x0062102B (.kmax 4 6) ∧ reads 0x9062102B (.kmaxRel .sys 4 6) ∧
    reads 0x000223AB (.kread 7 4) ∧ reads 0x0062302B (.kwait 4 6) ∧
    reads 0x9062302B (.kwaitAcq .sys 4 6) ∧ reads 0x0062C02B (.spawn 5 6) ∧
    reads 0x146543AB (.msend 7 6 10 2) ∧ reads 0x2465402B (.msendW 6 10 2) ∧
    reads 0x4000402B .yield ∧ reads 0x4200402B .fin ∧
    reads 0x4462C3AB (.scall 7 5 6) ∧ reads 0x4802C02B (.tblk 5) ∧
    reads 0x4A02C02B (.tublk 5) := by
  decide +kernel

/-- Major 0b1011011: each word is the match value of its row with the operands laid into the row's fields. -/
theorem test_decode_engine :
    reads 0x0405B3DB (.xcopy true 7 6 11) ∧ reads 0x0C15B3DB (.xgath true 7 6 2 11) ∧
    reads 0x1415B3DB (.xscat true 7 6 2 11) ∧ reads 0x1C4D83DB (.xfill true 7 9 11) ∧
    reads 0x2505B3DB (.xred true .min 7 6 11) ∧ reads 0x2C15B3DB (.xcryp true 7 6 2 11) ∧
    reads 0x344DB3DB (.xbind true 7 6 9 11) ∧ reads 0x3C0583DB (.xflush true 7 11) ∧
    reads 0x440583DB (.xinval true 7 11) ∧ reads 0x4800305B (.xresume 6) ∧
    reads 0x501583DB (.mjob 7 2 11) ∧ reads 0x584831DB (.sbind 3 6 9) ∧
    reads 0x600001DB (.sfree 3) := by
  decide +kernel

/-- Major 0b1111011: each word is the match value of its row with the operands laid into the row's fields. -/
theorem test_decode_exchange :
    reads 0x0062807B (.exph 5 6) ∧ reads 0x0222807B (.exsnd 2 5) ∧
    reads 0x040283FB (.exrcv 7 5) ∧ reads 0x106283FB (.aclaim 7 5 6) ∧
    reads 0x1202807B (.afree 5) ∧ reads 0x2062807B (.weed 5 6) ∧
    reads 0x17C8F87B (.fmt 16 2 31 4 1) := by
  decide +kernel

/-- Major 0b1110011: each word is the match value of its row with the operands laid into the row's fields. -/
theorem test_decode_system :
    reads 0x00100073 .brk ∧ reads 0x10200073 .sret ∧
    reads 0x12000073 .shalt ∧ reads 0x14028073 (.wake 5) ∧
    reads 0x16628073 (.ownset 5 6) ∧ reads 0xC0029073 (.csrwr 0xc00 5) ∧
    reads 0xC00023F3 (.csrrd 7 0xc00) ∧ reads 0x9A304073 (.trap 0x9a3) := by
  decide +kernel

/-- Major 0b0001111: each word is the match value of its row with the operands laid into the row's fields. -/
theorem test_decode_misc_mem :
    reads 0x0231800F (.fence .pkg 2 3) ∧ reads 0x0002100F (.ifence .sys) := by
  decide +kernel

/-- Major 0b0101111: each word is the match value of its row with the operands laid into the row's fields. -/
theorem test_decode_amo :
    reads 0x006233AF (.amoadd true 7 4 6) ∧ reads 0x086233AF (.amoswap true 7 4 6) ∧
    reads 0x206233AF (.amoxor true 7 4 6) ∧ reads 0x406233AF (.amoor true 7 4 6) ∧
    reads 0x606233AF (.amoand true 7 4 6) ∧ reads 0x286233AF (.amocas true 7 4 6) ∧
    reads 0x806233AF (.amomin true 7 4 6) ∧ reads 0xA06233AF (.amomax true 7 4 6) ∧
    reads 0xC06233AF (.amominu true 7 4 6) ∧ reads 0xE06233AF (.amomaxu true 7 4 6) := by
  decide +kernel

/-- Major 0b1010111: each word is the match value of its row with the operands laid into the row's fields. -/
theorem test_decode_op_v :
    reads 0x0662A3D7 (.vadd .s32 7 5 6 3) ∧ reads 0x1662A3D7 (.vsub .s32 7 5 6 3) ∧
    reads 0x2662A3D7 (.vmul .s32 7 5 6 3) ∧ reads 0x3662A3D7 (.vmulh .s32 7 5 6 3) ∧
    reads 0x4662A3D7 (.vmin .s32 7 5 6 3) ∧ reads 0x5662A3D7 (.vmax .s32 7 5 6 3) ∧
    reads 0x6662A3D7 (.vand .s32 7 5 6 3) ∧ reads 0x7662A3D7 (.vor .s32 7 5 6 3) ∧
    reads 0x8662A3D7 (.vxor .s32 7 5 6 3) ∧ reads 0x9662A3D7 (.vsll .s32 7 5 6 3) ∧
    reads 0xA662A3D7 (.vsr .s32 7 5 6 3) ∧ reads 0xB662A3D7 (.vadc .s32 7 5 6 3) ∧
    reads 0xC662A3D7 (.vsbc .s32 7 5 6 3) ∧ reads 0xD662A3D7 (.vmuladc .s32 7 5 6 3) ∧
    reads 0xE662A157 (.vceq .s32 2 5 6 3) ∧ reads 0xF662A157 (.vclt .s32 2 5 6 3) := by
  decide +kernel

/-- Major 0b1010011: each word is the match value of its row with the operands laid into the row's fields. -/
theorem test_decode_op_fp :
    reads 0x0662A3D3 (.vfadd .f32 7 5 6 3) ∧ reads 0x1662A3D3 (.vfsub .f32 7 5 6 3) ∧
    reads 0x2662A3D3 (.vfmul .f32 7 5 6 3) ∧ reads 0x3662A3D3 (.vfma .f32 7 5 6 3) ∧
    reads 0x4662A3D3 (.vfnma .f32 7 5 6 3) ∧ reads 0x5662C3D3 (.vfmin .e5m2 7 5 6 3) ∧
    reads 0x6662C3D3 (.vfmax .e5m2 7 5 6 3) ∧ reads 0x7602C3D3 (.vfabs .e5m2 7 5 3) ∧
    reads 0x8602C3D3 (.vfneg .e5m2 7 5 3) ∧ reads 0x9662C153 (.vfceq .e5m2 2 5 6 3) ∧
    reads 0xA662C153 (.vfclt .e5m2 2 5 6 3) ∧ reads 0xB662C153 (.vfcle .e5m2 2 5 6 3) ∧
    reads 0xC602A3D3 (.vexp2 .f32 7 5 3) ∧ reads 0xD602A3D3 (.vrcp .f32 7 5 3) ∧
    reads 0xE602A3D3 (.vrsq .f32 7 5 3) ∧ reads 0xF602A3D3 (.vlog2 .f32 7 5 3) := by
  decide +kernel

/-- Major 0b1000011: each word is the match value of its row with the operands laid into the row's fields. -/
theorem test_decode_madd :
    reads 0x0662A3C3 (.vsel .s32 7 5 6 3) ∧ reads 0x1662A3C3 (.vperm .s32 7 5 6 3) ∧
    reads 0x2604A3C3 (.vbcast .s32 7 9 3) ∧ reads 0x3662A143 (.vcle .s32 2 5 6 3) ∧
    reads 0x4662A143 (.vcne .s32 2 5 6 3) ∧ reads 0x5602A3C3 (.vradd .s32 7 5 3) ∧
    reads 0x6602A3C3 (.vrmin .s32 7 5 3) ∧ reads 0x7602A3C3 (.vrmax .s32 7 5 3) ∧
    reads 0x8602A3C3 (.vcvtInt .s32 7 5 3) ∧ reads 0x9602A3C3 (.vabs .s32 7 5 3) ∧
    reads 0xA062A3C3 (.vext .s32 7 5 6) := by
  decide +kernel

/-- Major 0b1000111: each word is the match value of its row with the operands laid into the row's fields. -/
theorem test_decode_msub :
    reads 0x0602C3C7 (.vcvtFp .e5m2 7 5 3) ∧ reads 0x1662A3C7 (.vquant .f32 7 5 6 3) ∧
    reads 0x2662C3C7 (.vdeq .e5m2 7 5 6 3) ∧ reads 0x3602A3C7 (.vfrsum .f32 7 5 3) ∧
    reads 0x4602A3C7 (.vfrmax .f32 7 5 3) ∧ reads 0x5602A3C7 (.vfrmin .f32 7 5 3) := by
  decide +kernel

/-- Major 0b0000111: each word is the match value of its row with the operands laid into the row's fields. -/
theorem test_decode_load_fp :
    reads 0x07C21107 (.vld .z16 2 4 28 3) ∧ reads 0x17C21107 (.vldsA1 .z16 2 4 28 3) ∧
    reads 0x27C21107 (.vldsA2 .z16 2 4 28 3) ∧ reads 0x37C21107 (.vldsA3 .z16 2 4 28 3) ∧
    reads 0x47C21107 (.vldg .z16 2 4 28 3) := by
  decide +kernel

/-- Major 0b0100111: each word is the match value of its row with the operands laid into the row's fields. -/
theorem test_decode_store_fp :
    reads 0x07C21127 (.vst .z16 2 4 28 3) ∧ reads 0x17C21127 (.vstsA1 .z16 2 4 28 3) ∧
    reads 0x27C21127 (.vstsA2 .z16 2 4 28 3) ∧ reads 0x37C21127 (.vstsA3 .z16 2 4 28 3) ∧
    reads 0x47C21127 (.vstg .z16 2 4 28 3) := by
  decide +kernel

/-- Major 0b1001011: each word is the match value of its row with the operands laid into the row's fields. -/
theorem test_decode_predicate :
    reads 0x006283CB (.pand 7 5 6) ∧ reads 0x026283CB (.por 7 5 6) ∧
    reads 0x046283CB (.pxor 7 5 6) ∧ reads 0x066283CB (.pandn 7 5 6) ∧
    reads 0x080283CB (.pnot 7 5) ∧ reads 0x000493CB (.pfromx 7 9) ∧
    reads 0x0002A3CB (.ptox 7 5) ∧ reads 0x0002B3CB (.pcnt 7 5) := by
  decide +kernel

/-! ### Well-formedness: a term that each check refuses -/

/-- Operands the encoding tables exclude (02 R39, R45, R49; 04 Table 11). -/
theorem test_wf_operands :
    (Instr.csrrd 5 0x004).wf = false ∧ (Instr.csrwr 0x900 5).wf = false ∧ (Instr.csrrd 5 0x8FF).wf = true ∧
    (Instr.msend 1 2 31 1).wf = false ∧ (Instr.msend 1 2 24 7).wf = true ∧ (Instr.msendW 2 25 7).wf = false ∧
    (Instr.vfadd .e4m3 1 2 3 0).wf = false ∧ (Instr.vfma .e5m2 1 2 3 0).wf = false ∧ (Instr.vrcp .e4m3 1 2 0).wf = false ∧
    (Instr.vquant .e5m2 1 2 3 0).wf = false ∧ (Instr.vfrsum .e4m3 1 2 0).wf = false ∧
    (Instr.vfrsum .f16 1 2 0).wf = true := by decide

/-- Events that name no unit of the part. -/
theorem test_wf_units :
    (Instr.postedStoreAccept 1024 0).wf = false ∧ (Instr.streamStripArrival 0 23).wf = false ∧
    (Instr.streamStripArrival 0 31).wf = true ∧ (Instr.streamStripArrival 0 32).wf = false ∧
    (Instr.engineTurn 136).wf = false ∧ (Instr.engineTurn 135).wf = true ∧ (Instr.kstepBoundary 128).wf = false ∧
    (Instr.launchSlot 513).wf = false ∧ (Instr.launchSlot 512).wf = true ∧ (Instr.ingestHeldRecord 4).wf = false ∧
    (Instr.partitionModeChange 0 3).wf = false ∧ (Instr.partitionSwapOut 0 4).wf = false ∧
    (Instr.vaultBlockAssign 0 24 none).wf = false ∧ (Instr.adapterSlotAllot 8192 0 0 0 0).wf = false ∧
    (Instr.nodeSplit 0).wf = false ∧ (Instr.nodeLock 2048).wf = false ∧ (Instr.serviceCall 51).wf = false ∧
    (Instr.apertureMemoryRead 0 1 0 4 none).wf = false ∧ (Instr.bar0RegisterWrite ⟨0, none⟩ 8 2 0).wf = false ∧
    (Instr.portModeWrite ⟨0, none⟩ 16 0).wf = false ∧ (Instr.ideTlpFailure 0 2).wf = false ∧
    (Instr.ideKeyProgram 0 0 2).wf = false := by decide

/-! ### Reset and the step -/

/-- 04 R113, 12 Reset columns, 14 Table 2: the version register is no part of the state, so the word at 0 reads 1.0. -/
theorem test_reset : (State.reset.core 1023).mode = .idle ∧ (State.reset.tenant 512).v = false ∧
    State.reset.bar0Word 0 0 = 0x100 ∧ State.reset.power.plimit = 600 ∧ State.reset.memOk := by decide

/-- The words of an ADDI, placed where the next step fetches, are what the step executes. -/
theorem test_step_runs_word : thenIs (step ((State.reset).withFetchWord 32 0x00100413)) (fun s =>
    (s.core 0).strand.getX 8 == 1 && (s.core 0).strand.pc == 4) = true := by decide +kernel

/-! ### Effects: the worked examples of the spec -/

/-- 04 Table 10: division by zero and the overflow of a signed division. -/
theorem test_division_boundaries :
    gives (.div 7 5 6) (withX [(5, 9)] sS) (fun t => t.getX 7 == -1) = true ∧
    gives (.rem 7 5 6) (withX [(5, 9)] sS) (fun t => t.getX 7 == 9) = true ∧
    gives (.div 7 5 6) (withX [(5, 0x8000000000000000), (6, -1)] sS) (fun t => t.getX 7 == 0x8000000000000000) = true ∧
    gives (.rem 7 5 6) (withX [(5, 0x8000000000000000), (6, -1)] sS) (fun t => t.getX 7 == 0) = true := by decide +kernel

/-- The tile of the example in 04: BF16, base 0x4000_0000, 64 by 32, strides 1 and 64. -/
def tile : CapReg :=
  { img := setStr (setExt (setRankm1 (mkCap 6 0x40000000 64 3 0 0 2) 1) 1 32) 1 64, tag := true }

/-- 04, the example of CSLICE: the base moves by 1,024 bytes and e1 becomes 16; from 20 rows on it raises CAP_WIDEN with operand 3
and axis 1. -/
theorem test_cslice :
    gives (.cslice 3 5 6 1) (withC [(3, tile)] (withX [(5, 8), (6, 16)] sS)) (fun t =>
      cBase (t.getC 3).img == 0x40000400 && cExt (t.getC 3).img 1 == 16 && cExt (t.getC 3).img 0 == 64) = true ∧
    ends (.cslice 3 5 6 1) (withC [(3, tile)] (withX [(5, 20), (6, 16)] sS)) 0x15 (capDetail 3 1) = true := by decide +kernel

/-- 04, the same example: CNARROW of column 5 and CIDX of element 3. -/
theorem test_cnarrow_cidx :
    let c : CapReg := { img := setExt (setBase tile.img 0x40000400) 1 16, tag := true }
    let d : CapReg :=
      { img := setStr (setStr (setRankm1 (setExt (setExt (setBase tile.img 0x4000040A) 0 16) 1 1) 0) 0 64) 1 0, tag := true }
    gives (.cnarrow 3 7 0) (withC [(3, c)] (withX [(7, 5)] sS)) (fun t => t.getC 3 == d) = true ∧
    gives (.cidx 9 3 8) (withC [(3, d)] (withX [(8, 3)] sS)) (fun t => t.getX 9 == 0x4000058A) = true := by decide +kernel

/-- 04 Table 8, step 1: CCALL. -/
theorem test_ccall :
    let own (c : CapReg) (o : BitVec 16) : CapReg := { c with img := setOwn c.img o }
    let s := withC [(4, own (cap 3 0x200000 64 0x0090 0x31) 5), (5, own (cap 0 0x300000 64 0x0080 0x31) 5)] sS
    let s := s.setStrand { s.strand with pc := 0x140, pcc := cap 3 0x100000 2048 0x0010 }
    gives (.ccall 4 5) s (fun t => t.pc == 0 && t.comp == 5 && cOty t.pcc.img == 0 && cOty (t.getC 14).img == 0xFFFF &&
      cStr (t.getC 14).img 1 == 0x144 && cBase (t.getC 14).img == 0x100000 && cOty (t.getC 15).img == 0) = true := by
  decide +kernel

/-- 05 Table 4: the carry chain, first and last limb. -/
theorem test_vadc :
    gives (.vadc .z64 8 0 4 1) (withV [(0, 0xFFFFFFFFFFFFFFFF), (4, 1)] sS) (fun t =>
      t.getV 8 == 0 && t.getP 1 == 1) = true ∧
    gives (.vadc .z64 10 2 6 1) ((withV [(2, 1)] sS).setStrand ((withV [(2, 1)] sS).strand.setP 1 1)) (fun t =>
      t.getV 10 == 2 && t.getP 1 == 0) = true := by decide +kernel

/-- 05, the example of VDEQ: codes 0x8F under the scale 2⁻¹. -/
theorem test_vdeq : gives (.vdeq .bf16 5 6 7 0) (withV [(6, 0x8F), (7, 0x7E)] sS) (fun t =>
    elemAt 16 (t.getV 5) 0 == 0xBF00 && elemAt 16 (t.getV 5) 1 == 0xC080 && t.status == 0) = true := by decide +kernel

/-- 03 R108, the example: the tree sum of 2^24, 1, 1 and 1 is 16,777,218, and INEXACT is set. -/
theorem test_vfrsum : gives (.vfrsum .f32 2 1 0) (withV [(1, 0x3F8000003F8000003F8000004B800000)] sS) (fun t =>
    t.getV 2 == 0x4B800001 && t.status == 1) = true := by decide +kernel

/-- 03 R95, the example: FP32 to E4M3, ties and overflow with saturation; 03 R96: NaN. -/
theorem test_convert_e4m3 :
    writeFp (ffmtOf 9) .rne true (decodeFp (ffmtOf 8) 0x3F880000) = (0x38, 1) ∧
    writeFp (ffmtOf 9) .rne true (decodeFp (ffmtOf 8) 0x3F980000) = (0x3A, 1) ∧
    writeFp (ffmtOf 9) .rne true (decodeFp (ffmtOf 8) 0x43E80000) = (0x7E, 1) ∧
    (writeFp (ffmtOf 9) .rne true (decodeFp (ffmtOf 8) 0x43E84000)).1 = 0x7E ∧
    (writeFp (ffmtOf 9) .rne false (decodeFp (ffmtOf 8) 0x43E84000)).1 = 0x7F := by decide +kernel

/-- 02 R52, the example: the prefix word of fd = e4m3, sat = on. -/
theorem test_fmt : reads 0xFFC0F4FB (.fmt 9 31 31 0 1) ∧
    gives (.fmt 9 31 31 0 1) sS (fun t => stPP t.status && t.pc == 0x24) = true := by decide +kernel

/-- 08 Table 4: the wrap rule. -/
theorem test_kadd_wrap :
    let cell := 0xF000000000000000
    let h : Held := { id := 0, bm := {}, holder := .counter Config.spadFlat cell 0x10 0 false false, cluster := 0, stamp := 0,
                      room := .reading 0 }
    let s := withMem Config.spadFlat 0xFFFFFFFFFFFFFFF0 { withC [(2, cap 14 0xF0000000000000 1 0x0800)] sS with bms := [h] }
    thenIs (exec (.kadd 2 5) (withX [(5, 0x30)] s)) (fun s' => s'.cellVal Config.spadFlat == 0x20 &&
      s'.bms.all (·.holder == .ready)) = true ∧
    ends (.kadd 2 5) (withX [(5, 0x8000000000000020)] s) 0x40 0xF0000000000000 = true := by decide +kernel

/-- 06, the example of R207: the home slice of the leaf 0x0000_F012_3440_000F for address 0x12_3456_7840. -/
theorem test_home_slice : sliceOf 0x0000F0123440000F 0x1234567840 = 16 := by decide +kernel

/-- 12 R412, the example: the byte of the revocation bitmap for page 0x123_4567. -/
theorem test_bitmap : bitmapAt 0x1234567 = 0x2FF82468AC := by decide

/-- 04 R149: TRAP saves the pc of the word after it. -/
theorem test_trap : ends (.trap 3) sS 0x05 3 = true ∧
    thenIs (exec (.trap 3) sS) (fun s => s.bms.all fun h => h.bm.strand.pc == 0x24) = true := by decide +kernel

/-- 07 R217 and R222: a store stands in the queue and memory is as it was; accepted, it is in memory. -/
theorem test_store :
    let s := withC [(2, cap 0 0xF0000000000000 64 3)] (withX [(5, 7)] sS)
    thenIs (exec (.sdOffset 5 2 8) s) (fun s' => s'.mem == [] && (s'.core 0).posted.length == 1 &&
      thenIs (exec (.postedStoreAccept 0 0) s') fun s'' => s''.mem == [(Config.spadFlat + 8, 7)]) = true := by decide +kernel

/-- 07 R222: LB extends the sign, LBU does not. -/
theorem test_loads :
    let s := withMem Config.spadFlat 0x80 (withC [(2, cap 0 0xF0000000000000 64 3)] sS)
    gives (.lbOffset 5 2 0) s (fun t => t.getX 5 == 0xFFFFFFFFFFFFFF80) = true ∧
    gives (.lbuOffset 5 2 0) s (fun t => t.getX 5 == 0x80) = true := by decide +kernel

/-! ### The hypotheses of the statements can be met -/

/-- The state with a next state that keeps a property. -/
abbrev steps (s : State) : Prop := thenIs (step s) (fun _ => true) = true

theorem wit_StepKeepsTheInvariants : let s := sS.withFetchWord 32 0x00100413
    steps s ∧ s.memOk ∧ s.numbered := by decide +kernel

theorem wit_EncodeThenDecode : (Instr.msend 1 2 24 7).wf = true ∧ encode (.msend 1 2 24 7) = some 0x1E2C40AB := by
  decide +kernel

theorem wit_DecodeOnlyEncodings : decode 0x14454A2B = .ok (.msend 20 4 10 2) := by decide +kernel

theorem wit_StepRunsTheDecodedInstruction_word : let s := sS.withFetchWord 32 0x00100413
    s.due (s.turnCycle s.nextTurn) = none ∧ s.nextTurn.actor = .core 0 ∧ (s.core 0).runs = true ∧ (s.core 0).waiting = false ∧
    (s.popTurn.advanceTo (s.turnCycle s.nextTurn)).preemptDue 0 = false ∧ s.fetch 0 = .word 0x00100413 ∧ decode 0x00100413 = .ok (.addi 8 0 1) := by
  decide +kernel

theorem wit_StepRunsTheDecodedInstruction_event : let s := { State.reset with schedule := [{ actor := .event .vfEnableClear }] }
    s.due (s.turnCycle s.nextTurn) = none ∧ s.nextTurn.actor = .event .vfEnableClear ∧
    isEvent .vfEnableClear = true := by decide +kernel

/-- A strand with a pcc and a pc, its line at base 0 in the instruction cache. -/
def fetchS (pcc : CapReg) (pc : Word) : State := sS.updCore 0 fun c =>
  { c with strand := { c.strand with pcc, pc }, icache := [{ tenant := 0, gen := 0, base := 0, data := 7 }] }

theorem wit_FetchReadsTheWordAtPc :
    let ok := cap 3 0 64 0x0010
    (fetchS { ok with rev := true } 0).fetch 0 = .raised { cause := 0x17, detail := capDetail 16 0 0 } ∧
    (fetchS { ok with tag := false } 0).fetch 0 = .raised { cause := 0x10, detail := capDetail 16 0 0 } ∧
    (fetchS (cap 3 0 64 0x0010 9) 0).fetch 0 = .raised { cause := 0x13, detail := capDetail 16 0 0 } ∧
    (fetchS (cap 3 0 64 0x0001) 0).fetch 0 = .raised { cause := 0x12, detail := capDetail 16 0 0 } ∧
    (fetchS ok 256).fetch 0 = .raised { cause := 0x11, detail := capDetail 16 0 256 } ∧
    (fetchS ok 2).fetch 0 = .raised { cause := 0x11, detail := capDetail 16 0 2 } ∧
    (fetchS ok 252).fetch 0 = .miss 3 ∧ (fetchS ok 60).fetch 0 = .word 0 ∧ (fetchS ok 0).fetch 0 = .word 7 := by
  decide +kernel

theorem wit_ZeroRegister : (31 : XReg) ≠ 0 ∧ (1 : XReg) ≠ 31 := by decide

/-- For SumsAndLogic, ShiftsComparesCounts, ProductsAndQuotients, PredicateInstructions and VectorIntegerLanes: operands at the
ends of their ranges. -/
theorem wit_plain : let s := withX [(5, 0x8000000000000000), (6, -1)] sS
    s.plain ∧ s.unbound ∧ s.strand.getX 6 ≠ 0 ∧ s.drained ∧ s.queueRoom ∧ s.memOk ∧ s.numbered := by decide +kernel

theorem wit_DivisionBoundaries : let s := withX [(5, 0x8000000000000000), (6, -1)] sS
    s.plain ∧ s.strand.getX 0 = 0 ∧ s.strand.getX 5 = 0x8000000000000000 ∧ s.strand.getX 6 = -1 := by decide +kernel

/-- A transfer to the last word of the code, and one past it. -/
theorem wit_BranchesAndJumps : let s := sS.setStrand { sS.strand with pcc := cap 3 0 16 0x0010, pc := 0 }
    s.plain ∧ gives (.beq 0 0 15) s (fun t => t.pc == 60) = true ∧
    ends (.beq 0 0 16) s 0x11 (capDetail 16 0 64) = true ∧ ends (.jal 1 (-1)) s 0x11 (capDetail 16 0 0xFFFFFFFFFFFC) = true ∧
    gives (.bne 0 0 16) s (fun t => t.pc == 4) = true := by decide +kernel

/-- For CapabilityReads and CapabilityDerivations: each check of 04 Table 6 in turn, and both sides of each bound. -/
theorem wit_CapabilityDerivations :
    let at3 (c : CapReg) (x y : Word) : State := withC [(3, c)] (withX [(5, x), (6, y)] sS)
    let group : CapReg := { img := setFmt tile.img 11, tag := true }
    (at3 tile 0 0).plain ∧
    ends (.cidx 9 3 5) (at3 { tile with rev := true } 0 0) 0x17 (capDetail 3) = true ∧
    ends (.cidx 9 3 5) (at3 { tile with tag := false } 0 0) 0x10 (capDetail 3) = true ∧
    ends (.cidx 9 3 5) (at3 { tile with img := setScp (setOwn tile.img 1) 0 } 0 0) 0x16 (capDetail 3) = true ∧
    ends (.cidx 9 3 5) (at3 { tile with img := setOty tile.img 1 } 0 0) 0x13 (capDetail 3) = true ∧
    gives (.cidx 9 3 5) (at3 tile 2047 0) (fun t => t.getX 9 == 0x40000FFE) = true ∧
    ends (.cidx 9 3 5) (at3 tile 2048 0) 0x11 (capDetail 3 0 2048) = true ∧
    gives (.cslice 3 5 6 0) (at3 tile 63 1) (fun t => cExt (t.getC 3).img 0 == 1) = true ∧
    ends (.cslice 3 5 6 0) (at3 tile 64 0) 0x15 (capDetail 3 0) = true ∧
    ends (.cslice 3 5 6 2) (at3 tile 0 1) 0x15 (capDetail 3 2) = true ∧
    ends (.cslice 3 5 6 0) (at3 group 16 32) 0x14 (capDetail 3 0) = true ∧
    gives (.cslice 3 5 6 0) (at3 group 32 32) (fun t => cBase (t.getC 3).img == 0x40000010) = true ∧
    ends (.cnarrow 3 5 1) (at3 tile 32 0) 0x15 (capDetail 3 1) = true ∧
    ends (.cnarrow 3 5 0) (at3 group 0 0) 0x14 (capDetail 3 0) = true ∧
    gives (.cnarrow 3 5 1) (at3 group 31 0) (fun t => cRankm1 (t.getC 3).img == 0) = true ∧
    gives (.cperm 3 5) (at3 tile 0x30001 0) (fun t => cPrm (t.getC 3).img == 1 && cScp (t.getC 3).img == 2) = true := by
  decide +kernel

/-- The object types at both ends of a key's range, and outside it. -/
theorem wit_SealingAndUnsealing :
    let at3 (c : CapReg) (x : Word) : State := withC [(3, c), (4, cap 0 0xFFE0 16 0x0060)] (withX [(5, x)] sS)
    let t := (at3 tile 0).strand
    (at3 tile 0).plain ∧ (t.getC 4).rev = false ∧ (t.getC 4).tag = true ∧ cScp (t.getC 4).img = 2 ∧ cOty (t.getC 4).img = 0 ∧
    cFmt (t.getC 4).img = 0 ∧ cRankm1 (t.getC 4).img = 0 ∧ (cPrm (t.getC 4).img).getLsbD 5 = true ∧
    (cPrm (t.getC 4).img).getLsbD 6 = true ∧ (t.getC 3).tag = true ∧ cScp (t.getC 3).img = 2 ∧
    gives (.cwrap 3 4 5) (at3 tile 0xFFE0) (fun t => cOty (t.getC 3).img == 0xFFE0) = true ∧
    gives (.cwrap 3 4 5) (at3 tile 0xFFEF) (fun t => cOty (t.getC 3).img == 0xFFEF) = true ∧
    ends (.cwrap 3 4 5) (at3 tile 0xFFF0) 0x12 (capDetail 4) = true ∧
    ends (.cwrap 3 4 5) (at3 tile 0xFFDF) 0x12 (capDetail 4) = true ∧
    ends (.cwrap 3 4 5) (at3 { tile with img := setOty tile.img 0xFFEF } 0xFFEF) 0x13 (capDetail 3) = true ∧
    gives (.cunwrap 3 4) (at3 { tile with img := setOty tile.img 0xFFEF } 0) (fun t => cOty (t.getC 3).img == 0) = true ∧
    ends (.cunwrap 3 4) (at3 { tile with img := setOty tile.img 0x1 } 0) 0x12 (capDetail 4) = true ∧
    ends (.cunwrap 3 4) (at3 tile 0) 0x13 (capDetail 3) = true := by decide +kernel

/-- The two sealed operands of test_ccall, at the ends of the range of object types; then each return. -/
theorem wit_CompartmentCallAndReturn :
    let call (ty : BitVec 16) : State := withC [(4, cap 3 0x200000 1 0x0090 ty), (5, cap 0 0x300000 64 0x0080 ty)] sS
    let good (ty : BitVec 16) : Prop :=
      let t := (call ty).strand
      (call ty).plain ∧ (t.getC 4).rev = false ∧ (t.getC 5).rev = false ∧ cScp (t.getC 4).img = 2 ∧ cScp (t.getC 5).img = 2 ∧
      1 ≤ (cOty (t.getC 4).img).toNat ∧ (cOty (t.getC 4).img).toNat ≤ 0xFFEF ∧ cOty (t.getC 5).img = cOty (t.getC 4).img ∧
      cFmt (t.getC 4).img = 3 ∧ cRankm1 (t.getC 4).img = 0 ∧ cStr (t.getC 4).img 0 = 1 ∧ 1 ≤ cExt (t.getC 4).img 0 ∧
      (cPrm (t.getC 4).img).getLsbD 4 = true ∧ (cPrm (t.getC 4).img).getLsbD 7 = true ∧ cFmt (t.getC 5).img ≤ 16 ∧
      (cPrm (t.getC 5).img).getLsbD 7 = true ∧ (t.getC 15).tag = false ∧
      gives (.ccall 4 5) (call ty) (fun t => t.pc == 0) = true
    let sentry (s1 : Int) : CapReg := { img := setStr (cap 3 0x200000 16 0x0010 0xFFFF).img 1 s1, tag := true }
    let ret (c : CapReg) : State := withC [(14, c), (13, cap 0 0 1 1 0xFFFE)] sS
    good 1 ∧ good 0xFFEF ∧ (ret (sentry 60)).plain ∧
    gives .cret (ret (sentry 60)) (fun t => t.pc == 60 && cOty (t.getC 15).img == 0) = true ∧
    ends .cret (ret {}) 0x10 (capDetail 14) = true ∧
    ends .cret (ret (cap 3 0 16 0x0010 1)) 0x13 (capDetail 14) = true := by decide +kernel

/-- For VectorIntegerLanes, VectorSelect, VectorElementMoves, CarryChains and IntegerReductions: a governing predicate with an
inactive element, and vectors of all ones. -/
theorem wit_vectors : let s := (withV [(1, -1), (2, 64)] (withX [(5, 63), (6, 64)] sS))
    let s := s.setStrand (s.strand.setP 1 0xFFFFFFFFFFFFFFFE)
    s.plain ∧ s.unbound ∧ laneActive s.strand 1 8 0 = false ∧ laneActive s.strand 1 8 63 = true ∧
    gives (.vext .s8 7 1 5) s (fun t => t.getX 7 == -1) = true ∧ gives (.vext .s8 7 1 6) s (fun t => t.getX 7 == 0) = true := by
  decide +kernel

/-- The largest FP16 value, and a value half-way between two FP16 values. -/
theorem wit_RoundingIsCorrect :
    let f := ffmtOf 7
    let top : Machine.Num := { neg := false, m := 2047, e := 5 }
    let tie : Machine.Num := { neg := true, m := 4097, e := -1 }
    ffmt 7 = some f ∧ top.st = false ∧ |top.rat| ≤ (magNum f false f.maxEnc).rat ∧ tie.st = false ∧
    |tie.rat| ≤ (magNum f false f.maxEnc).rat := by
  have h : magNum (ffmtOf 7) false (ffmtOf 7).maxEnc = { neg := false, m := 2047, e := 5 } := by decide
  refine ⟨by decide, rfl, ?_, rfl, ?_⟩ <;> rw [h] <;> norm_num [Num.rat]

/-- The state with the prefix of an FMT word pending. -/
def prefixed (w : Insn) (s : State) : State := withStatus (BitVec.ofNat 64 (2 ^ 37 + w.toNat / 2 ^ 7 * 2 ^ 12)) s

/-- For FloatingArithmetic, FloatingSelectAndCompare, FloatingFunctionsAndReductions and FloatingConversions: without a prefix,
and with one that overrides a format. -/
theorem wit_floating :
    let p := prefixed 0x4A40747B sS
    sS.agent = .strand ∧ sS.unbound ∧ stPP sS.strand.status = false ∧ sS.plain ∧
    p.agent = .strand ∧ p.unbound ∧ stPP p.strand.status = true ∧ (overrides p.strand.status).fa = 9 ∧
    (overrides p.strand.status).fb = 9 ∧ (overrides p.strand.status).fd = 8 := by decide +kernel

theorem wit_FloatingFunctionsAndReductions : let p := prefixed ((encode (.fmt 6 31 31 4 2)).getD 0) sS
    p.agent = .strand ∧ p.unbound ∧ stPP p.strand.status = true ∧ (overrides p.strand.status).fa = 31 ∧
    (overrides p.strand.status).fb = 31 ∧ (overrides p.strand.status).fd = 6 := by decide +kernel

/-- sS with task 3 of cores 0 and 8, and compartment 0 valid with a fault channel in task 3. -/
def sC : State :=
  let e : TaskEntry := { codetag := true, code := mkCap 3 0 16 0x0010 0 0 2, v := true, prio := 1 }
  let f (c : Core) : Core := { c with tasks := [(3, e)] }
  withMem 0x10000 0xC300000000000000 ((sS.updCore 0 f).updCore 8 f)

theorem wit_TakingAnException :
    sS.drained ∧ sS.unbound ∧ sS.reserveUsed sS.strand.tenant + 54 ≤ sS.reserveSlots sS.strand.tenant ∧
    let s' := (prefixed 0x4A40747B sS).takeTrap { cause := 0x02, detail := 7 }
    ((s'.core 0).mode == .saving && s'.bms.any fun h => h.bm.warg == 7 && h.room == .reserve && !stPP h.bm.strand.status) = true := by
  decide +kernel

/-- With a fault channel, and without one. -/
theorem wit_FaultDelivery :
    let b (s : State) : Bookmark := s.faultBookmark 0 { cause := 5, detail := 3 }
    stComp (b sC).strand.status = 0 ∧ (b sC).tenant = 0 ∧
    sC.reserveUsed 0 + (b sC).slots ≤ sC.reserveSlots 0 ∧ sC.pendingOf 0 0 < 16 ∧
    (sC.faultChannel 0 0 (b sC).lcore).map (fun c => (c.1, c.2.1)) = some (0, 3) ∧ sC.roomFor 0 0 1 = some (.reading 0) ∧
    ((sC.deliver (b sC)).bms.any fun h => h.holder == .ready && h.bm.task == 3 && h.bm.bind) = true ∧
    sS.reserveUsed 0 + (b sS).slots ≤ sS.reserveSlots 0 ∧ sS.faultChannel 0 0 0 = none ∧ sS.escalations 0 < 64 ∧
    (sS.deliver (b sS)).service.calls.map (·.fault) = [some 1] := by decide +kernel

/-- Fields at the ends of their sets, and a prefix before an instruction that takes none. -/
theorem wit_FormatPrefixes :
    sS.plain ∧ gives (.fmt 16 31 0 4 2) sS (fun t => stPP t.status) = true ∧
    ends (.fmt 17 31 31 0 0) sS 0x02 (((encode (.fmt 17 31 31 0 0)).getD 0).setWidth 56) = true ∧
    ends (.fmt 31 31 31 5 0) sS 0x02 (((encode (.fmt 31 31 31 5 0)).getD 0).setWidth 56) = true ∧
    ends (.fmt 31 31 31 0 3) sS 0x02 (((encode (.fmt 31 31 31 0 3)).getD 0).setWidth 56) = true ∧
    refusesPrefix .fin = true ∧ (prefixed 0x4A40747B sS).agent = .strand ∧ (prefixed 0x4A40747B sS).unbound ∧
    stPP (prefixed 0x4A40747B sS).strand.status = true ∧
    ends .fin (prefixed 0x4A40747B sS) 0x02 (((encode .fin).getD 0).setWidth 56) = true := by decide +kernel

theorem wit_ControlRegisters :
    sS.plain ∧ gives (.csrwr 0x000 5) (withX [(5, -1)] sS) (fun t => t.status == 0x1FF) = true ∧
    gives (.csrwr 0x001 5) (withX [(5, -1)] sS) (fun t => t.livemask == 0xFFFFFFFFFFFF) = true ∧
    gives (.csrrd 7 0xC00) sS (fun t => t.getX 7 == 100000) = true ∧
    ends (.csrrd 7 0x800) sS 0x03 (wordDetail (.csrrd 7 0x800)) = true ∧
    ends (.csrrd 7 0x8FF) sS 0x03 (wordDetail (.csrrd 7 0x8FF)) = true ∧ csrListed 0x900 = false ∧
    ends (.csrwr 0x900 7) sS 0x01 (wordDetail (.csrwr 0x900 7)) = true := by decide +kernel

theorem wit_TrapAndBreak :
    sS.agent = .strand ∧ stPP sS.strand.status = false ∧ ends .brk sS 0x04 0x100073 = true ∧
    ends .shalt sS 0x03 (wordDetail .shalt) = true ∧ ends (.ownset 5 6) sS 0x03 (wordDetail (.ownset 5 6)) = true := by
  decide +kernel

/-- A service pair wakes core 1023 at most; a Curator sets an owner register. -/
theorem wit_ServiceInstructions :
    let s : State := { sS with agent := .service 1 }
    let p : Pair := { x := (Vector.replicate 32 0).set 5 1023 }
    let t := s.setPair 1 p
    t.agent = .service 1 ∧ (t.pair 1).halted = false ∧ ((t.pair 1).getX 5).toNat < 1024 ∧
    thenIs (exec (.wake 5) t) (fun s' => (s'.core 1023).rescan && (s'.pair 1).pc == 4) = true ∧
    ({ sS with agent := .curator 0 } : State).agent = .curator 0 ∧
    thenIs (exec (.ownset 5 6) { sS with agent := .curator 0 }) (fun s' => (s'.core 0).owner == 0) = true := by decide +kernel

/-- A posted store to an absent partition is waited for; a failed store is raised at the drain. -/
theorem wit_Fences :
    let e : Posted := { no := 1, va := 0xF0000000000000, op := .data [({ flat := Config.spadFlat, home := .spad 0 }, 7)], tenant := 0,
                        gen := 0 }
    let w := withCore 0 (fun c => { c with posted := [e], absent := 1 }) sS
    let f := withCore 0 (fun c => { c with failed := [(1, 0x23, 64)] }) sS
    sS.plain ∧ sS.drained ∧ w.plain ∧ f.plain ∧ (1 : BitVec 3).getLsbD 0 = true ∧
    (match w.drain w.cur with | .waits _ => true | .failed _ _ _ => false | .done _ => false) = true ∧
    (match f.drain f.cur with | .waits _ => false | .failed _ c va => c == 0x23 && va == 64 | .done _ => false) = true ∧
    thenIs (exec (.fence .clus 1 4) w) (fun s' => (s'.core 0).strand.pc == 0x20) = true ∧
    ends (.ifence .core) f 0x23 64 = true ∧ gives (.fence .clus 2 4) w (fun t => t.pc == 0x24) = true := by decide +kernel

/-- The places of an address in the scratchpad of core k. -/
def spadAt (k off : Nat) (q : Nat) : Place := { flat := Config.spadFlat + 0x20000 * k + off + q, home := .spad k }
/-- An address in the scratchpad window of core k. -/
def spadVa (k off : Nat) : Nat := 0xF0000000000000 + 0x20000 * k + off

/-- A byte capability with every data permission, and one of four INT64 elements. -/
def sM : State := withC [(2, cap 0 (spadVa 0 0) 64 0x0F0F), (3, cap 4 (spadVa 0 0) 4 0x0F0F)] sC

/-- The last doubleword of a capability by offset and by index; one byte and one element further it is out of bounds. -/
theorem wit_ScalarLoads :
    let s := withX [(5, 3), (6, 4)] sM
    s.plain ∧ (s.core s.cur).posted = [] ∧ s.strand.usable 2 1 ∧ s.strand.usable 3 1 ∧
    opndAt s.strand (s.strand.getC 2).img 8 (.off 56) (spadVa 0 56) ∧ s.nearAt (spadVa 0 56) 8 (spadAt 0 56) ∧
    opndAt s.strand (s.strand.getC 3).img 8 (.idx 5) (spadVa 0 24) ∧ s.nearAt (spadVa 0 24) 8 (spadAt 0 24) ∧
    cExt (s.strand.getC 2).img 0 < (57 : BitVec 12).toInt + 8 ∧
    cExt (s.strand.getC 3).img 0 * cExt (s.strand.getC 3).img 1 * cExt (s.strand.getC 3).img 2 * cExt (s.strand.getC 3).img 3 ≤
      (s.strand.getX 6).toNat ∧
    ends (.ldOffset 7 2 57) s 0x11 (capDetail 2 0 57) = true ∧ ends (.ldIndex 7 3 6) s 0x11 (capDetail 3 0 4) = true ∧
    ends (.ldOffset 7 2 (-1)) s 0x11 (capDetail 2 0 0xFFFFFFFFFFFF) = true := by
  simp only [opndAt]; decide +kernel

/-- A full store queue less one entry, and the last word of a capability. -/
theorem wit_ScalarStores :
    let e : Posted := { no := 1, va := 0, op := .data [], tenant := 0, gen := 0 }
    let s := withCore 0 (fun c => { c with posted := List.replicate 31 e }) sM
    s.plain ∧ s.queueRoom ∧ s.strand.usable 2 2 ∧ opndAt s.strand (s.strand.getC 2).img 8 (.off 56) (spadVa 0 56) ∧
    s.postsAt (spadVa 0 56) 8 needW (spadAt 0 56) := by
  simp only [opndAt]; decide +kernel

/-- sM with a store-only capability, one with STC, and tagged values of TENANT and LOCAL scope. -/
def sK : State :=
  withC [(4, cap 0 (spadVa 0 0) 64 0x0003), (5, cap 0 (spadVa 0 0) 64 0x000B), (6, cap 0 8 8 1),
    (7, { img := setScp (cap 0 8 8 1).img 0, tag := true })] sM

theorem wit_CapabilityLoadsAndStores_operands :
    sK.plain ∧ (sK.core sK.cur).posted = [] ∧ (sK.tenant sK.ten).sweepPending = false ∧ sK.queueRoom ∧
    sK.strand.usable 2 1 ∧ sK.strand.usable 4 2 ∧ sK.strand.usable 5 2 := by decide +kernel

/-- Aligned, with and without STC and STL for a tagged value of LOCAL scope and not. -/
theorem wit_CapabilityLoadsAndStores :
    opndAt sK.strand (sK.strand.getC 2).img 64 (.off 0) (spadVa 0 0) ∧ sK.nearAt (spadVa 0 0) 64 (spadAt 0 0) ∧
    opndAt sK.strand (sK.strand.getC 5).img 64 (.off 0) (spadVa 0 0) ∧ sK.postsAt (spadVa 0 0) 64 needW (spadAt 0 0) ∧
    ends (.cscOffset 6 4 0) sK 0x12 (capDetail 4) = true ∧ ends (.cscOffset 7 5 0) sK 0x16 (capDetail 5) = true ∧
    thenIs (exec (.cscOffset 6 5 0) sK) (fun s' => (s'.core 0).posted.length == 1) = true := by
  simp only [opndAt]; decide +kernel

/-- An unaligned granule. -/
theorem wit_CapabilityLoadsAndStores_unaligned : let s := withC [(8, cap 0 (spadVa 0 8) 64 0x000F)] sK
    s.strand.usable 8 1 ∧ opndAt s.strand (s.strand.getC 8).img 64 (.off 0) (spadVa 0 8) ∧ spadVa 0 8 % 64 ≠ 0 ∧
    ends (.clcOffset 6 8 0) s 0x14 (capDetail 8) = true := by
  simp only [opndAt]; decide +kernel

/-- An INT32 tensor of four axes of extent 2 over the scratchpad of core 0, its predicate with lanes 0 and 1 active, and indices 15
and 0 in the lanes of v4. -/
def sV : State :=
  let c := setStr (setStr (setStr (setExt (setExt (setExt (mkCap 3 (spadVa 0 0) 2 0x0003 0 0 2) 1 2) 2 2) 3 2) 1 2) 2 4) 3 8
  let s := withV [(4, 15)] (withC [(2, { img := setRankm1 c 3, tag := true })] sC)
  s.setStrand (s.strand.setP 1 0x11)

/-- What VectorLoads and VectorStores ask of the active lanes. -/
def laneHyps (idx : Nat → Idx) (flat : Nat → Nat) : Bool :=
  let c := (sV.strand.getC 2).img
  (List.range 16).all fun j => !laneActive sV.strand 1 32 j ||
    (inShape c (idx j) && decide (sV.nearAt (elemAddr c (idx j)) 4 (spadAt 0 (flat j))) &&
      decide (sV.postsAt (elemAddr c (idx j)) 4 needW (spadAt 0 (flat j))))

theorem wit_VectorLoads_VectorStores :
    sV.plain ∧ sV.unbound ∧ sV.queueRoom ∧ (sV.core sV.cur).posted = [] ∧ sV.strand.usable 2 3 ∧
    Machine.sizeOf (cFmt (sV.strand.getC 2).img) * 8 = ewBits .z32 ∧ laneActive sV.strand 1 32 1 = true ∧
    laneActive sV.strand 1 32 2 = false ∧ (List.range 16).filter (laneActive sV.strand 2 32) = [] := by decide +kernel

/-- The first element and the next one on each axis, and the last and the first by index. -/
theorem wit_VectorLoads_VectorStores_lanes :
    laneHyps (fun j => decompose (sV.strand.getC 2).img j) (fun j => 4 * j) = true ∧
    laneHyps (stepIdx (decompose (sV.strand.getC 2).img 0) 1) (fun j => 8 * j) = true ∧
    laneHyps (stepIdx (decompose (sV.strand.getC 2).img 0) 2) (fun j => 16 * j) = true ∧
    laneHyps (stepIdx (decompose (sV.strand.getC 2).img 0) 3) (fun j => 32 * j) = true ∧
    laneHyps (fun j => decompose (sV.strand.getC 2).img (elemAt 32 (sV.strand.getV 4) j)) (fun j => if j = 0 then 60 else 0) = true := by
  decide +kernel

/-- The atomics of both widths, on the last element of the scratchpad. -/
theorem wit_DataAtomics : let s := withC [(2, cap 4 (spadVa 0 0x1FFF8) 1 3), (3, cap 3 (spadVa 0 0x1FFFC) 1 3)] sC
    s.plain ∧ s.queueRoom ∧ s.strand.usable 2 3 ∧ cFmt (s.strand.getC 2).img = 4 ∧ spadVa 0 0x1FFF8 % 8 = 0 ∧
    s.postsAt (spadVa 0 0x1FFF8) 8 needRW (spadAt 0 0x1FFF8) ∧ s.strand.usable 3 3 ∧ cFmt (s.strand.getC 3).img = 3 ∧
    s.postsAt (spadVa 0 0x1FFFC) 4 needRW (spadAt 0 0x1FFFC) := by decide +kernel

/-- The scratchpad of core 8 is far for core 0. -/
theorem wit_FarAccesses : let s := withC [(2, cap 4 (spadVa 8 0) 1 3)] sC
    s.plain ∧ s.drained ∧ (s.core s.cur).inPhase = false ∧ s.strand.usable 2 3 ∧ nearAddr s.cur (spadVa 8 0) = false ∧
    hostAddr (spadVa 8 0) = false ∧ cFmt (s.strand.getC 2).img = 4 ∧ cBase (s.strand.getC 2).img = spadVa 8 0 ∧
    opndAt s.strand (s.strand.getC 2).img 8 (.off 0) (spadVa 8 0) ∧ opndAt s.strand (s.strand.getC 2).img 8 (.idx 0) (spadVa 8 0) ∧
    s.roomFor 0 0 ((s.mkBookmark 0 s.strand.next .far (liveSaved s.strand 0) 0 (farWarg (spadVa 8 0) 0 5) false).slots) =
      some (.reading 0) := by
  simp only [opndAt]; decide +kernel

/-- A bookmark is in the waiter table of a cell, at an address with a threshold. -/
def waitsOn (h : Holder) (cell va : Nat) (thr : Word) : Bool := match h with
  | .counter c v t _ sp ex => c == cell && v == va && t == thr && !sp && !ex
  | _ => false

/-- sC with counter cells in the scratchpads of cores 0 and 8 in c2 and c3, a value in the first, and operands. -/
def sN : State :=
  withMem (Config.spadFlat + 16) 5 (withX [(5, 5), (6, 6)] (withC [(2, cap 14 (spadVa 0 16) 1 0x0800), (3, cap 14 (spadVa 8 16) 1 0x0800)] sC))
/-- sN with a waiter on the first cell. -/
def sNw : State :=
  { sN with bms := [{ id := 0, bm := {}, holder := .counter (Config.spadFlat + 16) (spadVa 0 16) 6 0 false false, cluster := 0,
                      stamp := 0, room := .reading 0 }] }

theorem wit_CounterChanges :
    sN.plain ∧ sN.memOk ∧ sN.drained ∧ sN.queueRoom ∧ sN.cellAt 2 needRW (spadAt 0 16 0) ∧ sN.cellAt 3 needRW (spadAt 8 16 0) ∧
    nearAddr sN.cur (spadVa 0 16) = true ∧ nearAddr sN.cur (spadVa 8 16) = false ∧
    sN.badAt (spadAt 0 16 0).flat = false ∧ sN.distances (spadAt 0 16 0).flat 5 = [] := by decide +kernel

/-- An increase by one less than what the wrap rule refuses, and by that much. -/
theorem wit_CounterChanges_wrap :
    sNw.cellAt 2 needRW (spadAt 0 16 0) ∧ sNw.distances (spadAt 0 16 0).flat 5 = [1] ∧
    thenIs (exec (.kadd 2 7) (withX [(7, 0x8000000000000000)] sNw)) (fun s' => s'.cellVal (Config.spadFlat + 16) == 0x8000000000000005) =
      true ∧
    ends (.kadd 2 7) (withX [(7, 0x8000000000000001)] sNw) 0x40 (BitVec.ofNat 56 (spadVa 0 16)) = true := by decide +kernel

/-- Satisfied with a difference of 0; not satisfied; far. -/
theorem wit_CounterReadsAndWaits :
    sN.numbered ∧ (sN.core sN.cur).inPhase = false ∧ sN.cellAt 2 needR (spadAt 0 16 0) ∧ sN.cellAt 3 needR (spadAt 8 16 0) ∧
    sN.cellVal (Config.spadFlat + 16) - sN.strand.getX 5 = 0 ∧ 2 ^ 63 ≤ (sN.cellVal (Config.spadFlat + 16) - sN.strand.getX 6).toNat ∧
    sN.tableFits (Config.spadFlat + 16) sN.strand.tenant = true ∧
    sN.roomFor 0 0 ((sN.mkBookmark 0 sN.strand.next .counter (liveSaved sN.strand.next 0) 2 6 false).slots) = some (.reading 0) ∧
    gives (.kwait 2 5) sN (fun t => t.pc == 0x24) = true ∧
    thenIs (exec (.kwait 2 6) sN) (fun s' => (s'.core 0).mode == .saving && s'.bms.any fun h =>
      waitsOn h.holder (Config.spadFlat + 16) (spadVa 0 16) 6 && h.bm.warg == 6 && h.bm.wcap == 2) = true ∧
    thenIs (exec (.kwait 3 6) sN) (fun s' => s'.counterOps.any fun o => o.place == (spadAt 8 16 0).flat && o.va == spadVa 8 16) = true ∧
    thenIs (exec (.kread 7 3) sN) (fun s' => s'.bms.any fun h => h.holder == .far (spadVa 8 16) .kread) = true := by decide +kernel

/-- Task 3 of core 8: with room, without room, and named by another compartment. -/
theorem wit_SpawnYieldFin :
    let s := withX [(5, 0x000000000008000B + 0x40)] sC
    let x : Word := 0x80003
    let s := withX [(5, x)] s
    let e := s.task 8 3
    let full : Held := { id := 0, bm := { kind := .fault, saved := -1 }, holder := .ready, cluster := 1, stamp := 0, room := .reading 1 }
    let f : State := { s with bms := List.replicate 64 full, tenants := s.tenants.map fun e => (e.1, { e.2 with cssize := 1 }) }
    s.plain ∧ s.inNodes s.ten 8 = true ∧ s.taskValid 8 e = true ∧ e.tenant.toNat = s.ten ∧ e.comp = s.strand.comp ∧
    s.roomFor 1 s.ten 1 = some (.reading 1) ∧ f.roomFor 1 f.ten 1 = none ∧ ends (.spawn 5 2) f 0x44 (taskDetail x 0) = true ∧
    (withStatus (mkStatus 0 1) s).strand.comp ≠ e.comp ∧
    ends (.tblk 5) (withStatus (mkStatus 0 1) s) 0x43 (taskDetail x 1) = true ∧ s.drained ∧ (s.core s.cur).inPhase = false ∧
    s.roomFor 0 0 ((s.mkBookmark 0 s.strand.next .yield (liveSaved s.strand.next 0) 0 0 false).slots) = some (.reading 0) := by
  decide +kernel

/-- An inbox of 4 slots on core 8 with an arrival count; c2 names it. -/
def sI (arrival free : Word) (en : Byte) : State :=
  let b := Config.spadFlat + 0x20000 * 8
  let s := withMem (b + 32) (0x0000000200000040 + en.setWidth 64 * 2 ^ 40) (withMem (b + 16) free (withMem b arrival sC))
  withC [(2, cap 0 (spadVa 8 0) 64 0x0080)] s

/-- Closed, with one slot left, full, and on an absent partition. -/
theorem wit_InboxMessages :
    let b := Config.spadFlat + 0x20000 * 8
    let box (s : State) := s.inboxAt b 0x20000
    let o := sI 3 0 1
    let f := sI 4 0 1
    o.plain ∧ o.drained ∧ o.memOk ∧ o.numbered ∧ (o.strand.getC 2).rev = false ∧ (o.strand.getC 2).tag = true ∧
    cScp (o.strand.getC 2).img = 2 ∧ cFmt (o.strand.getC 2).img = 0 ∧ cRankm1 (o.strand.getC 2).img = 0 ∧
    cExt (o.strand.getC 2).img 0 = 64 ∧ cPrm (o.strand.getC 2).img &&& 0x0080#16 = 0x0080#16 ∧
    windowOf (cBase (o.strand.getC 2).img) = .spad 8 0 ∧ o.partPlace o.ten 8 = some (b, 0x20000) ∧ o.absentOn o.ten 8 = false ∧
    (box o).opened = true ∧ (box o).slots = 4 ∧ o.badAt b = false ∧ o.distances b 3 = [] ∧ f.tableFits (b + 16) 0 = true ∧
    f.roomFor 0 0 ((f.mkBookmark 0 f.strand .send (liveSaved f.strand (saveC 2)) 2 1 false).slots) = some (.reading 0) := by
  decide +kernel

theorem wit_InboxMessages_answers :
    let s := sI 3 0 1
    gives (.msend 7 2 10 0) (withCore 8 (fun c => { c with absent := 1 }) s) (fun t => t.getX 7 == 1) = true ∧
    gives (.msend 7 2 10 0) (sI 3 0 0) (fun t => t.getX 7 == 2) = true ∧
    ends (.msendW 2 10 0) (sI 3 0 0) 0x45 (BitVec.ofNat 56 (spadVa 8 0)) = true ∧
    thenIs (exec (.msend 7 2 10 7) (withX [(7, 9), (10, 11), (17, 12)] s)) (fun s' => (s'.core 0).strand.getX 7 == 0 &&
      memNat s'.mem (Config.spadFlat + 0x20000 * 8 + 64 + 192) 8 == 11 &&
      memNat s'.mem (Config.spadFlat + 0x20000 * 8 + 64 + 248) 8 == 12 && s'.cellVal (Config.spadFlat + 0x20000 * 8) == 4) = true ∧
    gives (.msend 7 2 10 0) (sI 4 0 1) (fun t => t.getX 7 == 1) = true ∧
    thenIs (exec (.msendW 2 10 0) (sI 4 0 1)) (fun s' => s'.bms.any fun h => h.bm.kind == .send && h.bm.strand.pc == 0x20 &&
      waitsOn h.holder (Config.spadFlat + 0x20000 * 8 + 16) (spadVa 8 16) 1) = true := by decide +kernel

/-- With a slip page in the scratchpad; with 256 calls queued. -/
theorem wit_ServiceCalls :
    let s := withX [(5, 1)] { sC with tenants := sC.tenants.map fun e => (e.1, { e.2 with slippage := spadVa 0 0x1000 }) }
    let c : Call := { id := 0, tenant := 0, gen := 0, comp := 0, word := 0, cap := {}, slip := none, fault := none }
    let f : State := { s with service := { s.service with calls := List.replicate 256 c } }
    s.plain ∧ s.memOk ∧ (s.strand.getC 4).rev = false ∧ s.queuedCalls s.ten < 256 ∧
    ((Table.get s.service.slips s.ten {}).issue).map (·.1) = some 0 ∧
    s.placeOf s.ten (spadVa 0 0x1000) needRW true (spadVa 0 0x1000) = .ok (spadAt 0 0x1000 0) ∧ 256 ≤ f.queuedCalls f.ten ∧
    thenIs (exec (.scall 3 5 4) s) (fun s' => s'.service.calls.any (·.slip == some 0)) = true ∧
    gives (.scall 3 5 4) f (fun t => t.getC 3 == {}) = true := by decide +kernel

/-- A capability image with rank and further extents. -/
def shaped (c : CapReg) (r e1 : Nat) (s1 : Int) : CapReg :=
  { c with img := setStr (setExt (setRankm1 c.img r) 1 e1) 1 s1 }

/-- sC with operands of engine commands: c1 and c2 byte tensors, c3 and c4 BF16 tensors, c5 an INT32 index, c6 an unsealed key, c7 a
counter. -/
def sE : State :=
  withC [(1, cap 0 (spadVa 0 0x1000) 64 0x0600), (2, cap 0 (spadVa 0 0x2000) 64 0x0600),
    (3, cap 6 (spadVa 0 0x1000) 64 0x0600), (4, cap 6 (spadVa 0 0x2000) 64 0x0600), (5, cap 3 (spadVa 0 0x3000) 64 0x0200),
    (6, cap 0 (spadVa 0 0x3000) 64 0x0200 0xFFF3), (7, cap 14 (spadVa 0 16) 1 0x0800)] sC

theorem wit_EngineCommands :
    let t := sE.strand
    let c : Cmd := { id := 0, engine := 0, op := .fill, perCmd := true, dst := {}, src := {}, idx := {}, ctr := {}, val := 0,
                     tenant := 0, gen := 0, comp := 0, lcore := 0 }
    let f : State := { sE with cmds := List.replicate 63 c }
    sE.plain ∧ sE.cellAt 7 needRW (spadAt 0 16 0) ∧ sE.homeRefuses (spadAt 0 16 0) = false ∧ f.cmdRoom 0 f.ten = true ∧
    t.usable 1 0x0400 ∧ t.usable 2 0x0200 ∧ t.usable 3 0x0400 ∧ t.usable 4 0x0200 ∧ t.usable 5 0x0200 ∧
    cFmt (t.getC 1).img = cFmt (t.getC 2).img ∧ cFmt (t.getC 3).img = cFmt (t.getC 4).img ∧
    cExt (t.getC 5).img 0 = cExt (t.getC 3).img (cRankm1 (t.getC 3).img) ∧ 1 ≤ cFmt (t.getC 3).img ∧ cFmt (t.getC 3).img ≤ 8 ∧
    cOty (t.getC 6).img = 0xFFF3 ∧ cExt (t.getC 6).img 0 = 64 := by decide +kernel

theorem wit_EngineCommands_issue :
    let one (i : Instr) (op : CmdOp) : Bool := thenIs (exec i sE) fun s' => s'.cmds.map (·.op) == [op] && s'.strand.pc == 0x24
    one (.xcopy true 1 2 7) .copy = true ∧ one (.xgath true 3 4 5 7) .gath = true ∧ one (.xscat true 3 4 5 7) .scat = true ∧
    one (.xfill true 3 9 7) .fill = true ∧ one (.xred true .add 3 4 7) (.red .add) = true ∧ one (.xcryp true 1 2 6 7) .cryp = true ∧
    one (.xflush true 3 7) .flush = true ∧ one (.xinval true 3 7) .inval = true := by decide +kernel

/-- A mapping word with reason 0, and one whose reason is 3 (07, the example of XBIND: f_0 = 6, then 7 on 64 elements). -/
theorem wit_EngineCommands_bind :
    let d := shaped (cap 8 (spadVa 0 0x1000) 64 0x0400) 1 64 64
    let s := withX [(5, 0x0001000006000001), (6, 0x0001000007000001)] (withC [(1, d), (2, cap 8 (spadVa 0 0x8000) 4096 0x0200)] sE)
    s.strand.usable 1 0x0400 ∧ s.strand.usable 2 0x0200 ∧ layoutReason (s.strand.getC 2).img (s.strand.getC 1).img (s.strand.getX 5) = 0 ∧
    layoutReason (s.strand.getC 2).img (s.strand.getC 1).img (s.strand.getX 6) ≠ 0 ∧
    thenIs (exec (.xbind false 1 2 5 7) s) (fun s' => s'.cmds.map (·.engine) == [128]) = true ∧
    ends (.xbind false 1 2 6 7) s 0x31 (layoutDetail 8 0x0001000007000001) = true := by decide +kernel

/-- A pattern word of 16 elements of 2 bytes; a faulted record, live and not. -/
theorem wit_StreamsAndResumes :
    let s := withX [(5, 0x0100000100000010)] (withC [(1, cap 6 (spadVa 0 0) 64 1), (2, cap 0 7 1 0x0080 0xFFF0), (3, cap 0 7 1 0 0xFFF0)] sC)
    let c : Cmd := { id := 0, engine := 0, op := .fill, perCmd := true, dst := {}, src := {}, idx := {}, ctr := {}, val := 0,
                     tenant := 0, gen := 0, comp := 0, lcore := 0 }
    let f (live : Bool) : State := { s with faulted := [{ handle := 7, cmd := c, cause := 0, detail := 0, live, escalated := false, resumable := true }] }
    s.plain ∧ s.strand.usable 1 1 ∧ cFmt (s.strand.getC 1).img = 6 ∧ (s.strand.getX 5).extractLsb' 59 5 = 0 ∧
    (s.strand.getX 5).extractLsb' 0 32 = 16 ∧ Machine.sizeOf (cFmt (s.strand.getC 1).img) = 2 ^ ((s.strand.getX 5).extractLsb' 56 3).toNat ∧
    ((f true).faultedOf 7).map (·.live) = some true ∧ (f true).cmdRoom 0 0 = true ∧ cOty (s.strand.getC 2).img = 0xFFF0 ∧
    thenIs (exec (.sbind 1 1 5) s) (fun s' => (s'.strand.bind[1]?.bind id).map sdCount == some 16) = true ∧
    thenIs (exec (.xresume 2) (f true)) (fun s' => s'.faulted.length == 0 && s'.cmds.length == 1) = true ∧
    thenIs (exec (.xresume 3) (f true)) (fun s' => s'.faulted.length == 0 && s'.cmds.length == 0) = true ∧
    ends (.xresume 2) (f false) 0x10 (capDetail 31) = true ∧ ends (.xresume 2) s 0x10 (capDetail 31) = true := by decide +kernel

/-- A granule written with its tag. -/
def withGran (a : Nat) (c : CapReg) (s : State) : State :=
  { s with mem := memPuts s.mem (cellsFrom a (natBytes 64 c.img.toNat)), tags := tagPut s.tags (a / 64) c.tag }

/-- The control granule of a job of a class on one BF16 element. -/
def ctl (cls : Nat) : CapReg :=
  { img := BitVec.ofNat 512 (2 ^ 128 + 2 ^ 160 + 2 ^ 192 + 6 * 2 ^ 224 + 6 * 2 ^ 232 + 6 * 2 ^ 240 + cls * 2 ^ 256) }
/-- The four granules of a job descriptor. -/
def granule (cls : Nat) (j : Nat) : CapReg :=
  if j = 0 then ctl cls else cap 6 (spadVa 0 (0x2000 * j)) 1 (if j = 3 then 0x0102 else 0x0101)

/-- sC with a job descriptor in core 0's scratchpad, named by c4. -/
def sJ (cls : Nat) : State :=
  let p := Config.spadFlat + 0x1000
  let s := withGran p (granule cls 0) (withGran (p + 64) (granule cls 1) (withGran (p + 128) (granule cls 2)
    (withGran (p + 192) (granule cls 3) (withC [(4, cap 0 (spadVa 0 0x1000) 256 0x0807)] sC))))
  { s with tenants := s.tenants.map fun e => (e.1, { e.2 with mxw := [(0, 1)] }) }

theorem wit_MatrixJobs :
    (sJ 1).plain ∧ (sJ 1).drained ∧ (sJ 1).memOk ∧ (sJ 1).strand.usable 4 0x0807 ∧
    byteForm 256 ((sJ 1).strand.getC 4).img = true ∧ (sJ 1).jobPort ((sJ 1).strand.getC 7) (opC 7) = .ok 0 ∧
    (sJ 1).heldAt (sJ 1).ten (spadVa 0 0x1000) = false ∧
    (∀ j, j < 4 → (sJ 1).engineGranule (sJ 1).ten (spadVa 0 0x1000 + 64 * j) = .ok (sJ 1, granule 1 j)) := by decide +kernel

/-- The checks of the operands. -/
theorem wit_MatrixJobs_operands :
    let s := sJ 1
    let g := (granule 1 0).img
    let ops := slotList g (granule 1 1).img (granule 1 2).img (granule 1 2).img 0 (granule 1 3).img
    jReservedOk g = true ∧ isGroup (jBfmt g) = false ∧ jSfmt g = 0 ∧ (tileOf (jAfmt g) (jBfmt g)).isSome = true ∧ jM g = 1 ∧ jN g = 1 ∧
    jK g = 1 ∧ s.slotCheck 1 anyForm 0x0101 (granule 1 1) = .ok () ∧ s.slotCheck 2 anyForm 0x0101 (granule 1 2) = .ok () ∧
    s.slotCheck 3 anyForm 0x0102 (granule 1 3) = .ok () ∧
    (∀ o ∈ ops, slotShape o = .ok () ∧ (o.1 ≠ 3 → overlaps (granule 1 3).img o.2.1 = false)) ∧
    (∀ o ∈ ops, inPlace 0 o.2.1 = true ∧ s.unheldByte o.2.1 = none) := by decide +kernel

/-- Each answer: accepted, 16 of the tenant's, 64 in all, a class-0 job there, and no class-0 right. -/
theorem wit_MatrixJobs_answers :
    let j (t cls : Nat) : Job :=
      { id := 0, engine := 0, seq := 0, tenant := t, gen := 0, comp := 0, desc := {}, control := (ctl cls).img, a := {}, b := {}, scale := {},
        cc := {}, accepted := 0, lastRun := 0 }
    let ans (s : State) : Word := match exec (.mjob 5 4 7) s with
      | .next s => s.strand.getX 5
      | .fault _ => 99
      | .refused _ => 99
    ans (sJ 1) = 0x8000000000000000 ∧ ans { sJ 1 with jobs := List.replicate 16 (j 0 1) } = 1 ∧
    ans { sJ 1 with jobs := List.replicate 64 (j 1 1) } = 2 ∧ ans { sJ 0 with jobs := [j 1 0] } = 3 ∧ ans (sJ 0) = 4 := by
  decide +kernel

/-- A slot capability of slot 8191, allotted and claimed or not; the storage of a claimed slot; a region of one page. -/
theorem wit_ClaimsAndRevocations :
    let e (b : Bool) : Slot := { dbase := 0x10000, dsize := 4096, allot := true, claimed := b, cgen := 4 }
    let s (b : Bool) : State := { withC [(4, cap 0 8191 1 0x0080 0xFFF2), (5, cap 0 (e b).dbase 4096 0x000F), (7, cap 14 (spadVa 0 16) 1 0x0800)]
      sC with slots := [(8191, e b)] }
    (s true).plain ∧ (s true).drained ∧ cOty ((s true).strand.getC 4).img = 0xFFF2 ∧ cFmt ((s true).strand.getC 4).img = 0 ∧
    cExt ((s true).strand.getC 4).img 0 = 1 ∧ cBase ((s true).strand.getC 4).img = 8191 ∧ ((s true).slot 8191).tenant = (s true).ten ∧
    (s true).claimedSlot 0 (cBase ((s true).strand.getC 5).img) = some (8191, e true) ∧ (s true).strand.usable 5 0x000F ∧
    cBase ((s true).strand.getC 5).img % 4096 = 0 ∧ (s true).cellAt 7 needRW (spadAt 0 16 0) ∧ (s true).weedRoom 0 = true ∧
    gives (.aclaim 7 4 6) (s true) (fun t => t.getX 7 == 0x8000000000000004) = true ∧
    gives (.aclaim 7 4 6) (s false) (fun t => t.getX 7 == 5 && cExt (t.getC 4).img 0 == 4096) = true ∧
    gives (.afree 5) (s true) (fun t => cOty (t.getC 5).img == 0xFFF2 && cBase (t.getC 5).img == 8191) = true ∧
    thenIs (exec (.weed 5 7) (s true)) (fun s' => s'.weeds.map (·.len) == [4096]) = true := by decide +kernel

/-- sC with cores 0 and 8 as the barrier domain and c2 on a gate cell. -/
def sX : State :=
  let s := withX [(5, 1)] (withC [(2, cap 14 (spadVa 0 16) 1 0x0800)] sC)
  { s with tenants := s.tenants.map fun e => (e.1, { e.2 with barrier := 0x101 }) }

/-- EXPH arms at the last arrival, and is refused outside the domain; READY reports start the phase when both have come. -/
theorem wit_TimedExchange :
    let out : State := { sX with tenants := sX.tenants.map fun e => (e.1, { e.2 with barrier := 0x100 }) }
    let gate := Config.spadFlat + 16
    let a := withCore 0 (fun c => { c with phase := .arming gate }) sX
    let b : State := withCore 8 (fun c => { c with phase := .armed gate }) { a with gates := [{ cell := gate, tenant := 0, mask := 0x101, ready := 1, start := none }] }
    out.plain ∧ (out.tenant out.ten).barrier.getLsbD 0 = false ∧ (sX.tenant sX.ten).barrier.getLsbD 0 = true ∧
    sX.cellAt 2 needRW (spadAt 0 16 0) ∧ sX.distances gate 0 = [] ∧ translated (spadVa 0 16) = false ∧
    ends (.exph 2 5) out 0x52 (exDetail 0 0 1) = true ∧
    thenIs (exec (.exph 2 5) sX) (fun s' => (s'.core 0).phase == .arming gate && s'.cellVal gate == 1) = true ∧
    (a.core 0).mode = .running ∧ thenIs (exec (.exchangeArmed 0) a) (fun s' => (s'.core 0).phase == .armed gate) = true ∧
    thenIs (exec (.exchangeArmed 0) b) (fun s' => (s'.core 0).phase == .starting gate 100128 &&
      (s'.core 8).phase == .starting gate 100128 && (s'.gate gate).map (·.ready) == some 0) = true := by decide +kernel

/-- Both cores start; a phase closes after 4,096 c-cycles; a vector is sent in its slot, arrives, and is taken or not. -/
theorem wit_TimedExchange_phase :
    let gate := Config.spadFlat + 16
    let st : State := withCore 8 (fun c => { c with phase := .starting gate 99900 }) (withCore 0 (fun c => { c with phase := .starting gate 99900 })
      { sX with gates := [{ cell := gate, tenant := 0, mask := 0x101, ready := 0, start := some 99900 }] })
    let inn (start : Nat) : State := withX [(6, 1)] (withCore 0 (fun c => { c with phase := .inside gate start, domain := 0x101, rxbuf := [(1, 9)] }) sX)
    let f : Flight := { id := 5, core := 0, sender := 1, due := 100000, data := 3 }
    thenIs (exec (.phaseStart gate) st) (fun s' => (s'.core 0).phase == .inside gate 99900 && (s'.core 8).phase == .inside gate 99900) = true ∧
    thenIs (exec (.phaseTimeout 0) (inn 95904)) (fun s' => (s'.core 0).phase == .none) = true ∧
    (inn 99996).plain ∧ (inn 99996).unbound ∧ ends (.exsnd 1 6) sX 0x52 (exDetail 0 0 2) = true ∧
    ends (.exrcv 1 6) sX 0x53 (exDetail 0 0 1) = true ∧
    thenIs (exec (.exsnd 1 6) (inn 99996)) (fun s' => s'.flights.map (fun (x : Flight) => (x.core, x.due)) == [(8, 100024)]) = true ∧
    gives (.exrcv 1 6) (inn 99996) (fun t => t.getV 1 == 9) = true ∧
    ends (.exrcv 1 0) (inn 99996) 0x53 (exDetail 0 4 3) = true ∧
    thenIs (exec (.exchangeVectorArrival 5) { inn 99996 with flights := [f] }) (fun s' => (s'.core 0).rxbuf == [(1, 9), (1, 3)]) = true := by
  decide +kernel

/-- A capability with FMT, base and length for a place of the model's own; a held bookmark. -/
def heldBm (id : Nat) (holder : Holder) (b : Bookmark := {}) : Held :=
  { id, bm := b, holder, cluster := 0, stamp := 0, room := .reading 0 }

/-- A store accepted; a drain complete; a far load that completes and one that faults. -/
theorem wit_UnitEvents :
    let e : Posted := { no := 1, va := spadVa 0 8, op := .data [(spadAt 0 8 0, 7)], tenant := 0, gen := 0 }
    let p := withCore 0 (fun c => { c with posted := [e] }) sC
    let d := withCore 8 (fun c => { c with mode := .saving }) sC
    let far (va : Nat) : State :=
      { withMem (Config.spadFlat + 8) 0x80 sC with bms := [heldBm 3 (.far va (.load 1 true)) { warg := farWarg va 0 5 }] }
    (p.core 0).posted = [e] ∧ (∀ a ∈ e.va :: e.vas, p.heldAt e.tenant a = false) ∧ p.direct [spadAt 0 8 0] ∧
    thenIs (exec (.postedStoreAccept 0 0) p) (fun s' => s'.mem == memPuts p.mem [(Config.spadFlat + 8, 7)]) = true ∧
    (d.core 8).mode = .saving ∧ (d.core 8).nextIssue ≤ d.cycle ∧
    thenIs (exec (.coreDrainComplete 8) d) (fun s' => (s'.core 8).mode == .idle) = true ∧
    (far (spadVa 0 8)).heldIn 0 (spadVa 0 8) 1 = none ∧ (far (spadVa 0 8)).xlate (some 0) 0 (spadVa 0 8) = .ok ∧
    (far (spadVa 0 8)).xlate (some 0) 0 (lastVa (spadVa 0 8) 1) = .ok ∧ (far (spadVa 0 8)).placesOf 0 (spadVa 0 8) 1 needR = .ok [spadAt 0 8 0] ∧
    thenIs (exec (.farAccessComplete 3) (far (spadVa 0 8))) (fun s' => s'.bms.any fun h =>
      h.id == 3 && h.holder == .ready && h.bm.strand.getX 5 == 0xFFFFFFFFFFFFFF80) = true ∧
    (far 8).heldIn 0 8 1 = none ∧ (far 8).xlate (some 0) 0 8 = .fails 0x20 ∧ (far (3 * 2 ^ 48)).xlate (some 0) 0 (3 * 2 ^ 48) = .ok ∧
    ((far (3 * 2 ^ 48)).placesOf 0 (3 * 2 ^ 48) 1 needR).toOption.isSome = false ∧
    thenIs (exec (.farAccessComplete 3) (far (3 * 2 ^ 48))) (fun s' => s'.bms.any fun h => h.bm.kind == .fault) = true ∧
    thenIs (exec (.farAccessComplete 3) (far 8)) (fun s' => s'.bms.any fun h => h.bm.kind == .fault && h.bm.cause == 0x20) = true := by
  decide +kernel

/-- sC with the heap page at 0 mapped onto frame 0 by a 2 MiB leaf, its tables in device memory. -/
def sP : State :=
  let s := withMem 0x1000000 0x2000001 (withMem 0x2000000 0x3000001 (withMem 0x3000000 0x000010000000008D
    { sC with tenants := sC.tenants.map fun e => (e.1, { e.2 with ptroot := 0x1000000 }) }))
  withMem 0x3000000 0x000010000000009F s

/-- A walk that finds a leaf and one that does not; an instruction line filled from a scratchpad; a strip read. -/
theorem wit_UnitEvents_reads :
    let x (va : Nat) : State := { sP with bms := [heldBm 3 (.xlate va)], nextId := 4 }
    let line := spadVa 0 0 / 64
    let f : State := { sC with bms := [heldBm 3 (.fetch line)], nextId := 4 }
    let d := mkStream (cap 6 (spadVa 0 0) 64 1).img 0x0100000100000010
    let st := withCore 0 (fun c => { c with strand := { c.strand with bind := c.strand.bind.set 7 (some d) } }) sC
    ((x 64).walk 0 64).toOption.isSome = true ∧ ((x (2 ^ 40)).walk 0 (2 ^ 40)) = .error 0x20 ∧
    thenIs (exec (.tlbWalkComplete 3) (x 64)) (fun s' => s'.tlbHit 0 0 64 && s'.bms.all (·.holder == .ready)) = true ∧
    thenIs (exec (.tlbWalkComplete 3) (x (2 ^ 40))) (fun s' => s'.bms.any fun h => h.bm.kind == .fault && h.bm.cause == 0x20) = true ∧
    (f.fetchers 0 line).map (·.id) = [3] ∧ f.cached 0 0 line = none ∧ (f.core 0).heldLines < 4 ∧ (f.core 0).icache.length < 512 ∧
    thenIs (exec (.fetchLineFill 0 line) f) (fun s' => (s'.cached 0 0 line).isSome && s'.bms.all (·.holder == .ready)) = true ∧
    (st.core 0).mode = .running ∧ sdTag d = true ∧ sdNext d < sdCount d ∧
    thenIs (exec (.streamStripArrival 0 31) st) (fun s' => (s'.core 0).strips.map (·.pos) == [0]) = true := by decide +kernel

/-- A fetch that raises, and one that misses; a page request answered; an invalidation. -/
theorem wit_UnitEvents_pages :
    let m := fetchS (cap 3 0 64 0x0010) 252
    let r : PageReq := { group := 9, fn := 0, gen := 0, page := 5, perm := 3, issued := true }
    let q : State := { sC with pageReqs := [r], bms := [heldBm 3 (.page 9)] }
    (fetchS {} 0).agent = .strand ∧ thenIs (exec .instructionFetch (fetchS {} 0)) (fun s' => s'.bms.any fun h => h.bm.cause == 0x10) = true ∧
    m.drained ∧ (m.core m.cur).inPhase = false ∧ thenIs (exec .instructionFetch m) (fun s' => s'.bms.any fun h => h.holder == .fetch 3) = true ∧
    (q.pageReqs.find? fun r => r.group == 9 && r.issued) = some r ∧ r.gen = q.gen r.fn ∧
    thenIs (exec (.pageRequestGroupResponse 9 (.success 3)) q) (fun s' => s'.bms.all (·.holder == .ready)) = true := by decide +kernel

/-- An add and a satisfied wait at a home; a spilled-waiter read; a poll. -/
theorem wit_HomeAndEngineEvents :
    let cell := Config.spadFlat + 0x20000 * 8 + 16
    let op (k : CtrKind) : CtrOp := { id := 4, place := cell, va := spadVa 8 16, kind := k, tenant := 0, gen := 0, origin := .strand }
    let s (k : CtrKind) : State := { sC with counterOps := [op k], bms := [heldBm 3 (.travelling 4)] }
    let sp : State := { sC with spillReads := [{ cell, order := [3] }], bms := [heldBm 3 (.counter cell 0 0 0 true false)] }
    let pl : State := { sC with polls := [{ place := Config.hostFlat, tenant := 0, every := 100, next := 0 }],
                                bms := [heldBm 3 (.counter Config.hostFlat 0 1 0 false false)] }
    ((s (.add 5)).opPlace (op (.add 5))).home = .spad 8 ∧ (s (.add 5)).heldAt 0 (spadVa 8 16) = false ∧
    (s (.add 5)).distances cell 0 = [] ∧
    thenIs (exec (.counterOperationApply 4) (s (.add 5))) (fun s' => s'.cellVal cell == 5) = true ∧
    thenIs (exec (.counterOperationApply 4) (s (.wait 0 3))) (fun s' => s'.bms.all (·.holder == .ready)) = true ∧
    thenIs (exec (.spilledWaiterReadComplete cell) sp) (fun s' => s'.bms.all (·.holder == .ready) && s'.spillReads == []) = true ∧
    pl.waitersOn Config.hostFlat ≠ [] ∧
    thenIs (exec (.hostCellPoll Config.hostFlat) pl) (fun s' => s'.hostOps.map (·.req) == [.poll] && s'.polls.map (·.next) == [100]) = true := by
  decide +kernel

/-- The answers to the part's own host requests. -/
theorem wit_HomeAndEngineEvents_host :
    let o (r : HostReq) : HostOp :=
      { id := 4, place := Config.hostFlat + 16, va := 2 ^ 48 + 16, tenant := 0, gen := 0, req := r, origin := .strand, held := false }
    let s (r : HostReq) : State := withMem (Config.hostFlat + 16) 6 { sC with hostOps := [o r], bms := [heldBm 3 (.travelling 4)
      { warg := farWarg (2 ^ 48 + 16) 0 5 }] }
    (s (.readValue 3)).issued (o (.readValue 3)) = true ∧
    thenIs (exec (.hostReadCompletion 4 .ok) (s (.readValue 3))) (fun s' => s'.hostOps == [] && s'.bms.any fun h =>
      h.holder == .ready && h.bm.strand.getX 5 == 6) = true ∧
    thenIs (exec (.hostReadCompletion 4 .completerAbort) (s (.readValue 3))) (fun s' => s'.bms.any fun h => h.bm.cause == 0x24) = true ∧
    thenIs (exec (.hostAtomicCompletion 4 .ok) (s (.fetchAdd 2))) (fun s' => s'.hostOps == [] && s'.cellVal (Config.hostFlat + 16) == 8) =
      true := by decide +kernel

/-- The last element of an XFILL; a k-step; the raises of the engines. -/
theorem wit_HomeAndEngineEvents_engines :
    let d := cap 4 (spadVa 0 0x1000) 2 0x0400
    let c : Cmd := { id := 4, engine := 0, op := .fill, perCmd := true, dst := d, src := {}, idx := {}, ctr := cap 14 (spadVa 0 16) 1 0x0800,
                     val := 9, tenant := 0, gen := 0, comp := 0, lcore := 0, walk := 1 }
    let s : State := { sC with cmds := [c] }
    let r : State := { s with cycle := 8192, raised := 0 }
    (s.cmds.filter fun c => c.engine == 0 && s.canProceed c) = [c] ∧ (s.xfr 0).left = 0 ∧ s.heldIn 0 (spadVa 0 0x1008) 8 = none ∧
    s.xlate (some 0) 0 (spadVa 0 0x1008) = .ok ∧ s.xlate (some 0) 0 (lastVa (spadVa 0 0x1008) 8) = .ok ∧ c.walk + 1 = c.total ∧ isGroup (cFmt c.dst.img) = false ∧
    translated (cBase c.ctr.img) = false ∧ s.placeOf 0 (spadVa 0 16) needRW true (spadVa 0 16) = .ok (spadAt 0 16 0) ∧
    thenIs (exec (.engineTurn 0) s) (fun s' => memNat s'.mem (Config.spadFlat + 0x1008) 8 == 9 && s'.counterOps.length == 1 &&
      s'.cmds.all (·.state == .finishing)) = true ∧
    r.cycle % 8192 = 0 ∧ r.raised.getLsbD 1 = false ∧
    thenIs (exec .engineDeficitRaise r) (fun s' => Table.get (s'.xfr 0).deficit 0 0 == 65536) = true := by decide +kernel

/-- A job of two k-steps on one element, in a bank. -/
theorem wit_HomeAndEngineEvents_jobs :
    let g : Vec := (ctl 1).img + BitVec.ofNat 512 (63 * 2 ^ 192)
    let j : Job := { id := 4, engine := 0, seq := 0, tenant := 0, gen := 0, comp := 0, desc := {}, control := g,
                     a := cap 6 (spadVa 0 0x2000) 64 0x0101, b := cap 6 (spadVa 0 0x4000) 64 0x0101, scale := {},
                     cc := cap 6 (spadVa 0 0x6000) 1 0x0102, accepted := 0, lastRun := 0, bank := .bank 0, acc := [0] }
    let s : State := { sJ 1 with jobs := [j], mx := [(0, {})], cycle := 16384, raised := 0 }
    (s.chooseJob 0).map (·.id) = some 4 ∧ s.jobHeld j = false ∧ s.kstep j = .ok ([0], 0) ∧ j.kstep + 1 < j.ksteps ∧
    thenIs (exec (.kstepBoundary 0) s) (fun s' => s'.jobs.map (·.kstep) == [1]) = true ∧ s.cycle % 8192 = 0 ∧ s.raised.getLsbD 2 = false ∧
    thenIs (exec .matrixDeficitRaise s) (fun s' => Table.get (s'.mxe 0).deficit 0 0 == 16) = true := by decide +kernel

/-- A NEW record chosen by an idle core; a load complete; a pre-emption; the raise of the dispatcher. -/
theorem wit_DispatchEvents :
    let h : Held := { heldBm 3 .ready { kind := .new, task := 3, lcore := 8, bind := true } with cluster := 1 }
    let s : State := { sC with bms := [h] }
    let l := withCore 8 (fun c => { c with mode := .loading }) sC
    let p := withCore 0 (fun c => { c with preemptReq := true }) sC
    let w := withCore 0 (fun c => { c with svcWant := true }) sC
    let r : State := { sC with cycle := 4096, raised := 0 }
    (s.core 8).mode = .idle ∧ (s.core 8).nextIssue + 2 ≤ s.cycle ∧ s.dropInvalid 8 = s ∧ s.markedFor 8 = none ∧
    (s.untaken 8).choose 8 = some (0, .held h) ∧
    thenIs (exec (.dispatchChoose 8) s) (fun s' => (s'.core 8).mode == .loading && s'.bms == [] && (s'.core 8).strand.pcc.tag) = true ∧
    (l.core 8).mode = .loading ∧ (l.core 8).nextIssue ≤ l.cycle ∧
    thenIs (exec (.dispatchLoadComplete 8) l) (fun s' => (s'.core 8).mode == .running) = true ∧
    thenIs (exec (.preemptRequest 0 true) w) (fun s' => (s'.core 0).preemptReq) = true ∧ (w.core 0).svcWant = true ∧
    p.preemptDue 0 = true ∧ (p.core 0).waiting = false ∧ (p.core 0).phase = .none ∧ (p.core 0).posted = [] ∧ (p.core 0).failed = [] ∧ (∀ i : Fin 8, (p.core 0).strand.bind[i] = none) ∧
    thenIs (exec (.preemption 0) p) (fun s' => s'.bms.any fun h => h.bm.kind == .preempt && h.holder == .ready) = true ∧
    ((r.core 0).residency[0]).v = true ∧ r.cycle % 4096 = 0 ∧ r.raised.getLsbD 0 = false ∧
    thenIs (exec .dispatchDeficitRaise r) (fun s' => (s'.core 0).deficit[0] == 256) = true := by decide +kernel

/-- sC with the service side up, pair 0 leading. -/
def sD : State :=
  { sC with
    service := { booted := true, leader := some 0, pairs := Vector.replicate 2 { passed := true, halted := true } }
    fns := [(0, { ready := true })] }

/-- A call with a byte block of 512 bytes at the start of core 0's scratchpad. -/
def callOf (n : Nat) : Call :=
  { id := 7, tenant := 0, gen := 0, comp := 0, word := BitVec.ofNat 64 (n + 5 * 2 ^ 16), cap := cap 0 (spadVa 0 0) 512 3, slip := none,
    fault := none }
/-- sD with an active call. -/
def sA (n : Nat) : State := { sD with service := { sD.service with active := some (callOf n) } }

/-- A launch block for task 3 whose placement lies at offset 0x400 of core 0's scratchpad. -/
def launchBytes (s : State) (at' : Nat) : State :=
  withMem (at' + 8) (BitVec.ofNat 64 (spadVa 0 0x400)) (withMem at' 0x30001 (withMem (Config.spadFlat + 0x400) 8 s))

/-- A call taken; the launch call; BMREAD, BMRESUME and BMDROP of a fault. -/
theorem wit_CallsAndDoorbells :
    let q : State := { sD with service := { sD.service with calls := [callOf 4] } }
    let bm : Bookmark := { (sC.faultBookmark 0 { cause := 5, detail := 3 }) with lcore := 0 }
    q.service.leader.isSome = true ∧ q.service.stopped = false ∧ (q.nextCall).map (·.id) = some 7 ∧ (callOf 4).number = 4 ∧
    (callOf 1).number = 1 ∧ thenIs (exec (.serviceCall 50) q) (fun s' => s'.service.active.isSome && s'.service.calls == []) = true ∧
    blockCap (callOf 1).cap (callOf 1).comp = true ∧ cExt (callOf 1).cap.img 0 = 512 ∧
    thenIs (exec .launchCall (launchBytes (sA 1) Config.spadFlat)) (fun s' => s'.service.active == none && s'.bms.any fun h =>
      h.holder == .ready && h.bm.lcore == 8 && h.bm.task == 3) = true ∧
    stComp bm.strand.status = (callOf 2).comp := by decide +kernel

/-- A pending fault with handle 5, and a block of ones. -/
def sB (n : Nat) : State :=
  { withMem Config.spadFlat (-1) (sA n) with
    bms := [heldBm 3 (.fault 5 true) { (sC.faultBookmark 0 { cause := 5, detail := 3 }) with lcore := 0 }] }

/-- The block is read and the handle found; BMREAD asks for the same with its number. -/
theorem wit_CallsAndDoorbells_faults :
    (match (sB 2).readBlock 0 (callOf 2).cap.img 320 with
      | .ok (t, _) => (match t.handleOf 0 ((callOf 2).word.extractLsb' 16 32).toNat with
        | .bookmark h => stComp h.bm.strand.status == (callOf 2).comp
        | .command _ => false
        | .unknown => false)
      | .error _ => false) = true ∧ (callOf 2).number = 2 ∧
    thenIs (exec .bmresume (sB 3)) (fun s' => s'.bms.all fun h => h.holder == .ready) = true ∧
    thenIs (exec .bmdrop (sB 4)) (fun s' => s'.bms == []) = true := by decide +kernel

/-- The deficit raise of the calls; doorbells with a full ring and one past it. -/
theorem wit_CallsAndDoorbells_rings :
    let r : State := { sD with raised := 0, timeAcc := 0, service := { sD.service with calls := [callOf 4] } }
    let s : State := { sD with fns := [(0, { ready := true, lqbase := 4, mibase := 0x1004 })] }
    r.time % 10000 = 0 ∧ r.raised.getLsbD 3 = false ∧
    thenIs (exec .serviceDeficitRaise r) (fun s' => Table.get s'.service.deficit 0 0 == 1600) = true ∧
    (s.fn 0).dropsWrite none = false ∧ (s.fn 0).tdi ≠ .locked ∧ s.isReady 0 = true ∧ ringLog (s.fn 0).lqbase = some 4 ∧
    ringLog (s.fn 0).mibase = some 4 ∧ thenIs (exec (.launchDoorbell ⟨0, none⟩ 16) s) (fun s' => (s'.fn 0).lqtail == 16) = true ∧
    thenIs (exec (.launchDoorbell ⟨0, none⟩ 17) s) (fun s' => (s'.fn 0).qerr) = true ∧
    thenIs (exec (.mailboxDoorbell ⟨0, none⟩ 17) s) (fun s' => (s'.fn 0).qerr) = true ∧
    thenIs (exec (.moheadWrite ⟨0, none⟩ 3) s) (fun s' => (s'.fn 0).mohead == 3) = true := by decide +kernel

/-- A launch from a slot; a mediated answer; a fault report answered. -/
theorem wit_CallsAndDoorbells_host :
    let fn : Fn := { ready := true, lqbase := 4, lqtail := 1, mibase := 0x1004, mitail := 1 }
    let s : State := { sD with fns := [(0, fn)] }
    let l := withMem (Config.hostFlat + 24) 64 (launchBytes s Config.hostFlat)
    let o : HostOp := { id := 4, place := Config.hostFlat + 0x2010, va := 2 ^ 48 + 16, tenant := 0, gen := 0, req := .mediated 6 (.add 2),
                        origin := .strand, held := false }
    let m : State := { withMem (Config.hostFlat + 0x1010) 9 (withMem (Config.hostFlat + 0x1000) 0x60081 s) with hostOps := [o] }
    let f : State :=
      { withMem (Config.hostFlat + 0x1008) 5 (withMem (Config.hostFlat + 0x1000) 0x400000082 s) with
        bms := [heldBm 3 (.fault 5 true)] }
    s.readsRings 0 = true ∧ (s.fn 0).lqtail ≠ (s.fn 0).lqhead ∧
    thenIs (exec (.launchSlot 0) l) (fun s' => (s'.fn 0).accepted == 1 && (s'.fn 0).lqhead == 1 && s'.bms.length == 1) = true ∧
    m.headMessage 0 = some (.mediated 6 9) ∧ thenIs (exec (.mediatedCompletion 0) m) (fun s' => s'.hostOps == []) = true ∧
    f.headMessage 0 = some (.answer 4 5 0) ∧ thenIs (exec (.faultReportAnswer 0) f) (fun s' => s'.bms == []) = true := by
  decide +kernel

/-- Tenant 3's partition of a core is away, its place taken by the partition of index 0. -/
def awayOf (k : Nat) (s : State) : State := withCore k (fun c => { c with away := [(0, { v := true, tenant := 3 })] }) s

/-- Partitions swapped out, restored, refused for a locked core, and a mode set; a vault block assigned. -/
theorem wit_PlacesAndNodes :
    let lk := withCore 1 (fun c => { c with owner := 0x8000000000000000 }) sC
    let s := withMem (Config.spadFlat + 0x20000) 9 (awayOf 1 sC)
    let img : Image := { tenant := 0, core := 1, cells := [(8, 9)], tags := [] }
    let r : State := { withCore 1 (fun c => { c with absent := 1 }) sC with images := [img] }
    lk.coreLocked 1 = true ∧ thenIs (exec (.partitionSwapOut 1 0) lk) (fun s' => s'.pkgLog.length == 1) = true ∧
    s.coreLocked 1 = false ∧ s.partHeld 1 0 = true ∧ (s.core 1).absent.getLsbD 0 = false ∧ s.strandOn 0 1 = false ∧
    s.class0Reaches 0 1 = false ∧
    thenIs (exec (.partitionSwapOut 1 0) s) (fun s' => s'.images.map (·.cells) == [[(0, 9)]] && memGet s'.mem (Config.spadFlat + 0x20000) == 0) =
      true ∧
    r.absentOn 0 1 = true ∧ r.partOf 0 1 = some 0 ∧
    thenIs (exec (.partitionRestore 0 1) r) (fun s' => memGet s'.mem (Config.spadFlat + 0x20008) == 9 && s'.images == []) = true ∧
    (∀ i, i < 4 → s.partHeld 2 i = false) ∧ thenIs (exec (.partitionModeChange 2 2) s) (fun s' => (s'.core 2).pmode == 2) = true ∧
    (Table.get s.blocks 5 {}).v = false ∧ thenIs (exec (.vaultBlockAssign 0 5 (some 0)) s) (fun s' => (Table.get s'.blocks 5 {}).v) = true := by
  decide +kernel

/-- A shootdown at the last level reached, a load refused and one that writes a task, and a slot allotted to the last of them. -/
theorem wit_PlacesAndNodes_tables :
    let d : State := { sP with service := sD.service }
    let rq (prio : BitVec 2) (entry : Nat) : LoadRequest :=
      { tenant := 0, images := [], roots := [], tasks := [{ index := 9, entry, prio, comp := 0 }], cores := [8]
        segments := [{ kind := .text, base := 0, bytes := 64 }] }
    entryLevel d.mem 64 0x3000000 4 0 (d.tenant 0).ptroot = some 2 ∧ translated 64 = true ∧ d.accessWithin 0 0 (2 ^ 21) = false ∧
    thenIs (exec (.mappingShootdown 0 64 0x3000000 0) d) (fun s' => (s'.walk 0 64).toOption == none) = true ∧
    d.service.stopped = false ∧ (d.load75 (rq 0 60)).toOption.isSome = true ∧ (d.load75 (rq 0 64)).toOption.isSome = false ∧
    wordsOf (rq 0 60) = 16 ∧ admitImage [textOf (rq 0 60)] [] (codeOf (textOf (rq 0 60)) 16 0) = .ok () ∧
    thenIs (exec (.programLoad (rq 0 60)) d) (fun s' => (s'.task 8 9).v && s'.answer == .loaded 0) = true ∧
    thenIs (exec (.programLoad (rq 0 64)) d) (fun s' => s'.answer == .loaded 0x43) = true ∧
    thenIs (exec (.adapterSlotAllot 8191 0 65536 4096 (spadVa 0 0)) d) (fun s' => (s'.slot 8191).allot && s'.tags.contains
      (Config.spadFlat / 64)) = true := by decide +kernel

/-- The nodes of the tree, each in the state that its event asks for. -/
theorem wit_PlacesAndNodes_nodes :
    let up (l : Nat) (s : State) : State := (List.range l).foldl (fun s i => { s with nodes := Table.set s.nodes (2 ^ i) { state := .split } }) s
    let t : State := { sC with tenants := [(0, { v := true }), (1, { v := true, nodes := [1024] })] }
    let leaf (n : Node) : State := { up 10 t with nodes := Table.set (up 10 t).nodes 1024 n }
    let a : State := leaf { state := .allotted, sharers := 1 }
    let k : State := leaf { state := .allotted, sharers := 1, lock := true }
    (up 0 t).meaningful 1 = true ∧ ((up 0 t).node 1).state = .free ∧
    thenIs (exec (.nodeSplit 1) (up 0 t)) (fun s' => (s'.node 1).state == .split) = true ∧ (up 1 t).meaningful 1 = true ∧
    thenIs (exec (.nodeMerge 1) (up 1 t)) (fun s' => (s'.node 1).state == .free) = true ∧ (leaf {}).meaningful 1024 = true ∧
    (leaf {}).nodeRoom 0 = true ∧ a.meaningful 1024 = true ∧ a.nodeRoom 0 = true ∧ (a.node 1024).state = .allotted ∧
    a.holdsOverlap 0 1024 = false ∧ a.workOnNode 1 1024 = false ∧
    thenIs (exec (.nodeRelease 1024 1) a) (fun s' => (s'.node 1024).state == .free && (s'.tenant 1).nodes == []) = true ∧
    thenIs (exec (.nodeLock 1024) a) (fun s' => (s'.node 1024).lock) = true ∧ (∀ c ∈ nodeCores 1024, k.coreLocked c = false) ∧
    thenIs (exec (.nodeUnlock 1024) k) (fun s' => !(s'.node 1024).lock) = true := by decide +kernel

/-- A sweep over the first mapped page, phase by phase. -/
theorem wit_PlacesAndNodes_sweep :
    let w (swept : Bool) : WeedReq :=
      { base := 0, len := 4096, ctr := cap 14 (spadVa 0 16) 1 0x0800, tenant := 0, gen := 0, comp := 0, lcore := 0, swept := swept
        withdrawn := false }
    let s : State := { sP with weeds := [w false] }
    let run (i : Instr) (s : State) : State := match exec i s with
      | .next s => s
      | .fault _ => s
      | .refused _ => s
    let s1 := run .sweepMark (withC [(5, cap 0 64 8 1)] s)
    let s2 := run .sweepCores s1
    let s3 := run .sweepRecords s2
    let s4 := run .sweepMemory s3
    s.sweep = .none ∧ s.weeds ≠ [] ∧ s1.sweep = .marked ∧ s1.covered 0 = true ∧ s2.sweep = .coresDone ∧
    ((s2.core 0).strand.getC 5).tag = false ∧ s2.cmds = [] ∧ s2.jobs = [] ∧ s3.sweep = .recordsDone ∧ s4.sweep = .memoryDone ∧
    s4.weeds = [w true] ∧ s4.covers (w true) = true ∧ s4.distances (Config.spadFlat + 16) 0 = [] ∧
    (run .sweepClose s4).sweep = .none ∧ (run .sweepClose s4).cellVal (Config.spadFlat + 16) = 1 := by decide +kernel

/-- A tenant entry as a host asks for it. -/
def initOf (t : Nat) : TenantInit :=
  { tenant := t, ptroot := Config.serviceBase + 0x4000, csbase := Config.closedBase, cssize := 1, slippage := 0, ctbase := Config.serviceBase, ctlen := 1, dispw := 1
    xferw := 1, callw := 1, steal := 0, mxw := [], class0 := 0, barrier := 0 }

/-- Resets begun and ended; a virtual function enabled; bring-up with and without a failure. -/
theorem wit_ResetsAndBringUp :
    let two : State := { sD with tenants := sD.tenants ++ [(3, { v := true })] }
    let mid (vfs : Nat) : State :=
      { two with fns := [(3, { reset := .refusing 1, resetting := true })], service := { two.service with vfEnabled := vfs } }
    let esc : State := withCore 0 (fun c => { c with phase := .armed 0 }) sD
    let inp (self : BitVec 2) : BringUpInput :=
      { failStep := none, selfTest := self, remap0 := List.replicate 8 0, remap1 := List.replicate 8 0, pf := initOf 0 }
    thenIs (exec (.functionLevelReset 3) two) (fun s' => (s'.fn 3).reset == .refusing 1) = true ∧ two.vfResetting = false ∧
    thenIs (exec (.functionLevelReset 0) two) (fun s' => (s'.fn 3).reset == .refusing 2 && (s'.fn 0).reset == .refusing 2) = true ∧
    esc.service.stopped = false ∧ (esc.core 0).phase = .armed 0 ∧ thenIs (exec (.serviceTenantReset 0) esc) (fun s' => (s'.fn 0).resetting) = true ∧
    (mid 1).carries 3 1 = false ∧ ((mid 1).fn 0).flrWaits = false ∧
    thenIs (exec (.resetGenerationAdvance 3) (mid 1)) (fun s' => s'.gen 3 == 1 && (s'.fn 3).ready) = true ∧
    thenIs (exec (.resetGenerationAdvance 3) (mid 0)) (fun s' => !(s'.fn 3).ready && !(s'.tenant 3).v) = true ∧
    sD.service.booted = true ∧ sD.mayEnable (initOf 512) = true ∧ (sD.tenant 512).v = false ∧
    thenIs (exec (.vfEnableSet [initOf 512]) sD) (fun s' => (s'.tenant 512).v && (s'.fn 512).ready && s'.service.vfEnabled == 1) = true ∧
    bringFails (inp 3) = none ∧ bringFails (inp 0) = some 2 ∧
    thenIs (exec (.bringUp (inp 2)) sC) (fun s' => s'.service.booted && s'.service.leader == some 1) = true ∧
    thenIs (exec (.bringUp (inp 0)) sC) (fun s' => s'.service.stopped && (s'.fn 0).bootErr == 2) = true := by decide +kernel

/-- The chime and the takeover at the times they are due; firmware of the security version held or above. -/
theorem wit_ResetsAndBringUp_service :
    let at' (t : Nat) (p1 : Pair) : State := { sD with timeAcc := 12600 * t, service := { sD.service with pairs := sD.service.pairs.set 1 p1 } }
    let quiet : State := { State.reset with service := sD.service }
    let w : State := { sC with power := { want := some 6 } }
    sD.service.lastChime + 10000 ≤ (at' 10000 {}).time ∧
    thenIs (exec .chime (at' 10000 {})) (fun s' => s'.service.lastChime == 10000) = true ∧ sD.service.lastChime + 35000 ≤ (at' 35000 {}).time ∧
    (at' 10000 {}).time < sD.service.lastChime + 35000 ∧ (sD.pair 0).failed = false ∧
    thenIs (exec .leaderTakeover (at' 35000 { passed := true })) (fun s' => s'.service.leader == some 1 && !s'.service.stopped) = true ∧
    thenIs (exec .leaderTakeover (at' 35000 {})) (fun s' => s'.service.stopped) = true ∧
    thenIs (exec .leaderTakeover (at' 35000 { passed := true, lost := true })) (fun s' => s'.service.stopped) = true ∧
    quiet.quietForFirmware = true ∧ thenIs (exec .clockStepChange w) (fun s' => s'.power.step == 6) = true ∧
    (w.fn 0).dropsWrite none = false ∧ thenIs (exec (.plimitWrite ⟨100, none⟩) w) (fun s' => s'.power.plimit == 100) = true ∧
    thenIs (exec (.plimitWrite ⟨601, none⟩) w) (fun s' => s'.power.plimit == 600) = true ∧
    thenIs (exec (.powerSample 300 211 0) sC) (fun s' => s'.power.hot && s'.power.want == some 6) = true := by decide +kernel

theorem wit_ResetsAndBringUp_firmware : Config.svn.toNat ≤ (0xFFFF : BitVec 16).toNat := Nat.le_of_lt_succ Config.svn.isLt

/-- The last byte of BAR 2 and of BAR 4, reached and not. -/
theorem wit_HostRequests :
    let s (b : Word) : State := withMem Config.spadFlat 5 { sC with fns := [(0, { apbase := b, cbase := b })] }
    let v : Word := BitVec.ofNat 64 (spadVa 0 0)
    let t := s v
    (t.fn 0).admits none = .yes ∧ (t.tenant 0).v = true ∧ (t.fn 0).dataVa 0 = spadVa 0 0 ∧ t.heldAt 0 (spadVa 0 0) = false ∧
    t.placesOf 0 (spadVa 0 0) 1 needR = .ok [spadAt 0 0 0] ∧ t.direct [spadAt 0 0 0] ∧
    thenIs (exec (.apertureMemoryRead 0 2 0 1 none) t) (fun s' => s'.answer == .data [5]) = true ∧
    thenIs (exec (.apertureMemoryRead 0 2 0 1 none) (s 0)) (fun s' => s'.answer == .aborted) = true ∧
    thenIs (exec (.apertureMemoryWrite 0 1 [7] none) t) (fun s' => memGet s'.mem (Config.spadFlat + 1) == 7) = true ∧
    t.placesOf 0 (spadVa 0 0) 8 needRW = .ok ((List.range 8).map (spadAt 0 0)) ∧
    thenIs (exec (.apertureAtomicop 0 0 .fetchAdd true 2 0 none) t) (fun s' => memNat s'.mem Config.spadFlat 8 == 7) = true ∧
    (t.fn 0).counterVa 0 = spadVa 0 0 ∧ t.placeOf 0 (spadVa 0 0) needR true (spadVa 0 0) = .ok (spadAt 0 0 0) ∧
    t.distances Config.spadFlat 5 = [] ∧
    thenIs (exec (.apertureMemoryRead 0 4 0 8 none) t) (fun s' => s'.answer == .data [5, 0, 0, 0, 0, 0, 0, 0]) = true ∧
    thenIs (exec (.counterApertureFetchadd 0 0 2 none) t) (fun s' => s'.cellVal Config.spadFlat == 7) = true ∧
    thenIs (exec (.apertureMemoryRead 0 0 0x30 8 none) t) (fun s' => s'.answer == .data (List.replicate 8 0)) = true := by decide +kernel

/-- Each state of the interface with the requests it takes and refuses. -/
theorem wit_HostRequests_states :
    let st : IdeStream := { keys := 3, secure := true }
    let f (t : Tdi) : State :=
      { State.reset with
        tenants := [(3, { v := true, nodes := [1024] })], nodes := [(1024, { state := .allotted, sharers := 1 })]
        fns := [(3, { tdi := t, ide := (Vector.replicate 2 {}).set 0 st })], service := { sD.service with sessions := 1 } }
    let ans (i : Instr) (t : Tdi) (a : TdispCode) : Bool := thenIs (exec i (f t)) fun s' => s'.answer == .tdisp a
    (f .unlocked).lockable 3 = true ∧ ({ f .unlocked with nodes := [] } : State).lockable 3 = false ∧
    thenIs (exec (.lockInterfaceRequest 3) (f .unlocked)) (fun s' => (s'.fn 3).tdi == .locked && (s'.tenant 3).conf) = true ∧
    ans (.lockInterfaceRequest 3) .run .invalidInterfaceState = true ∧ ans (.startInterfaceRequest 3) .locked .success = true ∧
    ans (.startInterfaceRequest 3) .run .invalidInterfaceState = true ∧ ans (.stopInterfaceRequest 3) .unlocked .invalidInterfaceState = true ∧
    thenIs (exec (.stopInterfaceRequest 3) (f .run)) (fun s' => (s'.fn 3).stopping) = true ∧ ans (.quiesce 3) .run .success = true ∧
    ans (.quiesce 3) .locked .invalidInterfaceState = true ∧ ans (.unquiesce 3) .quiesced .success = true ∧
    ans (.unquiesce 3) .run .invalidInterfaceState = true ∧
    thenIs (exec (.tdiConfigWrite 3) (f .run)) (fun s' => (s'.fn 3).tdi == .error) = true ∧
    thenIs (exec (.ideTlpFailure 3 0) (f .run)) (fun s' => (s'.fn 3).tdi == .error) = true ∧ (f .run).service.sessions ≠ 0 ∧
    thenIs (exec (.ideKeyProgram 3 1 1) (f .run)) (fun s' => (s'.fn 3).ide[1].keys == 2) = true ∧
    ((f .run).fn 3).ide[0].keys.getLsbD 1 = true ∧
    thenIs (exec (.kSetGo 3 0) (f .run)) (fun s' => (s'.fn 3).ide[0].current == 1) = true := by decide +kernel

/-- sC with port 1 joined to a peer, an export of the first cells of core 0's scratchpad and one of its bytes. -/
def sL (f : Port → Port) : State :=
  let e (data : Bool) : Export := { v := true, data, tenant := 0, peer := 3, base := spadVa 0 0, len := 256 }
  { sC with ports := [(1, f { mode := 1, up := true, exports := [(0, e false), (1, e true)] })] }
/-- A flit header of function 3. -/
def flit (seq : BitVec 12) : FlitHeader := { seq, ack := 0, cred := 0, gen := 0, func := 3 }

theorem wit_LinksAndFlits :
    let s := sL id
    let r (n : Nat) : State := sL fun p => { p with retained := [{ no := 5, type := 0x09, payload := [], resent := n }] }
    let last (s' : State) (w : List Word) : Bool := ((s'.port 1).retained.getLast?.map fun x => (x.no, x.type, x.payload)) == some (0, 0x06, w)
    thenIs (exec (.idleFlit 1 (flit 0)) s) (fun s' => (s'.port 1).rxseq == 1) = true ∧
    thenIs (exec (.linkctlFlit 1 (flit 0) 5) (r 62)) (fun s' => (s'.port 1).up && (s'.port 1).retained.map (·.resent) == [63]) = true ∧
    thenIs (exec (.linkctlFlit 1 (flit 0) 5) (r 63)) (fun s' => !(s'.port 1).up && (s'.port 1).downCause == 1) = true ∧
    thenIs (exec (.abortFlit 1 (flit 0) 255 0 3) s) (fun s' => (s'.port 1).closedTo == [(3, 255)]) = true ∧
    (s.exportedCell 1 (flit 0) 0 needRW).map (fun x => (x.2.1, x.2.2)) = some (spadVa 0 0, spadAt 0 0 0) ∧
    s.distances Config.spadFlat 0 = [] ∧ thenIs (exec (.creadFlit 1 (flit 0) 0) s) (fun s' => last s' [0, 0, 0]) = true ∧
    thenIs (exec (.cwatchFlit 1 (flit 0) 0 0) s) (fun s' => last s' [0, 3, 0]) = true ∧
    thenIs (exec (.cwatchFlit 1 (flit 0) 0 1) s) (fun s' => s'.watches.map (·.thr) == [1]) = true ∧
    thenIs (exec (.caddFlit 1 (flit 0) 0 4) s) (fun s' => s'.cellVal Config.spadFlat == 4 && last s' [0, 0, 4]) = true ∧
    thenIs (exec (.cmaxFlit 1 (flit 0) 0 4) s) (fun s' => s'.cellVal Config.spadFlat == 4) = true ∧
    (s.admitted 1 (flit 0) 0x10000000000 true 4).isSome = true ∧
    thenIs (exec (.writeFlit 1 (flit 0) 0x10000000000 [1, 2, 3, 4]) s) (fun s' => memNat s'.mem Config.spadFlat 4 == 0x04030201) = true := by
  decide +kernel

/-- The answer to an operation of this part's; a record placed in a ring; held records; errors, and links going down and up. -/
theorem wit_LinksAndFlits_more :
    let o : PeerOp := { id := 4, tenant := 0, gen := 0, off := 0, place := 2 ^ 60, va := 0xF2 * 2 ^ 48, kind := .add 0, read := some 3, watch := false,
                        origin := .strand }
    let c : State := { sL fun p => { p with pending := [o] } with bms := [heldBm 3 (.far (0xF2 * 2 ^ 48) .kread) { warg := farWarg (0xF2 * 2 ^ 48) 0 5 }] }
    let ring := withMem (Config.vaultFlat + 48) 0x0000004000000100 (sL fun p => { p with mode := 2, ringva := 0xF1000000000000, enc := false })
    let u : Vec := 0x00010001
    let held : State := { ring with ports := [(1, { mode := 2, ringva := 0xF1000000000000, waiting := [[u]] })] }
    let down (m : BitVec 2) (enc : Bool) : State := sL fun p => { p with up := false, mode := m, enc }
    let key := sL fun p => { p with txseq := 2 ^ 40 }
    thenIs (exec (.cansFlit 1 (flit 0) 4 (.applied 9)) c) (fun s' => s'.bms.any fun h => h.holder == .ready && h.bm.strand.getX 5 == 9) = true ∧
    (ring.portRing 1).map (·.size) = some 64 ∧ headerOk u = true ∧ recLen u = 1 ∧
    thenIs (exec (.ingestFlit 1 (flit 0) true u 0 0) ring) (fun s' => s'.cellVal Config.vaultFlat == 1 &&
      memNat s'.mem (Config.vaultFlat + 256) 64 == u.toNat) = true ∧
    thenIs (exec (.ingestHeldRecord 1) held) (fun s' => (s'.port 1).waiting == []) = true ∧
    thenIs (exec (.idleFlit 1 (flit 1)) (sL id)) (fun s' => (s'.port 1).retained.map (·.type) == [0x09]) = true ∧
    thenIs (exec (.flitReceiveError 1 .crc) (sL id)) (fun s' => (s'.port 1).retained.map (·.type) == [0x09]) = true ∧
    thenIs (exec (.flitReceiveError 1 .mac) (sL id)) (fun s' => (s'.port 1).downCause == 2) = true ∧
    thenIs (exec (.linkDown 1 5) (sL id)) (fun s' => (s'.port 1).downCause == 5 && !(s'.port 1).up) = true ∧
    thenIs (exec (.linkRekey 1) key) (fun s' => (s'.port 1).rekeys == 1) = true ∧
    thenIs (exec (.linkUp 1 true) (down 1 true)) (fun s' => (s'.port 1).up) = true ∧
    thenIs (exec (.linkUp 1 false) (down 1 true)) (fun s' => !(s'.port 1).up && (s'.port 1).downCause == 3) = true ∧
    (sC.fn 0).dropsWrite none = false ∧ thenIs (exec (.portModeWrite ⟨1, none⟩ 0 0x2000005) (down 0 true)) (fun s' => (s'.port 1).mode == 1 &&
      (s'.port 1).enc && (s'.port 1).tenant == 512) = true ∧
    thenIs (exec (.portModeWrite ⟨1, none⟩ 0 0x8) (down 0 true)) (fun s' => (s'.port 1).mode == 0) = true ∧
    thenIs (exec (.portModeWrite ⟨1, none⟩ 8 7) (down 1 true)) (fun s' => (s'.port 1).ringva == 7) = true := by decide +kernel

/-! ### Further clauses of the statements -/

/-- An ADDI that waits resident for a drain, and has been the core's instruction since. -/
theorem wit_StepRunsTheDecodedInstruction_waiting :
    let s := withCore 0 (fun c => { c with waiting := true, inExec := some (.addi 8 0 1), nextIssue := 0 }) sS
    s.due (s.turnCycle s.nextTurn) = none ∧ s.nextTurn.actor = .core 0 ∧ (s.core 0).runs = true ∧ (s.core 0).waiting = true ∧
    (s.core 0).inExec = some (.addi 8 0 1) := by decide +kernel

/-- 05 Table 7 and R174 on 1 and on 4: a value that is no zero, is exact, and is a power of two with an even exponent. -/
theorem wit_FloatingFunctionsAndReductions_values :
    let u : Machine.Num := { neg := false, m := 4, e := 0 }
    u.m ≠ 0 ∧ u.st = false ∧ u.m = 2 ^ 2 ∧ (u.e + (2 : Nat)) % 2 = 0 ∧ (-320 : Int) ≤ u.e ∧
    SpecialFn.exp2.value (.fin u) = (.fin { neg := false, m := 1, e := 4 }, 0) ∧
    SpecialFn.log2.value (.fin u) = (.fin { neg := false, m := 2, e := 0 }, 0) ∧
    SpecialFn.log2.value (.fin { u with m := 1 }) = (.fin { neg := false, m := 0, e := 0 }, 0) ∧
    (writeFp fp32 .rne false (SpecialFn.rsq.value (.fin u)).1) = (0x3F000000, 0) ∧
    (writeFp fp32 .rne false (SpecialFn.rcp.value (.fin u)).1) = (0x3E800000, 0) ∧
    (SpecialFn.rcp.value (.fin { u with m := 3 })).1 ≠ .fin { neg := false, m := 1, e := 0 } := by decide +kernel

theorem wit_FloatingFunctionsAndReductions_integer : ({ neg := false, m := 4, e := 0 } : Machine.Num).rat = (4 : Int) := by
  norm_num [Machine.Num.rat]

/-- VEXP2 of ones is 2; VFRMAX and VFRSUM of ones. -/
theorem wit_FloatingConversions_functions :
    let s := withV [(4, 0x3F800000)] sS
    s.plain ∧ s.unbound ∧ gives (.vexp2 .f32 5 4 0) s (fun t => elemAt 32 (t.getV 5) 0 == 0x40000000) = true ∧
    gives (.vrcp .f32 5 4 0) s (fun t => elemAt 32 (t.getV 5) 0 == 0x3F800000) = true ∧
    gives (.vfrsum .f32 5 4 0) s (fun t => t.getV 5 == 0x3F800000) = true ∧
    gives (.vfrmax .f32 5 4 0) s (fun t => t.getV 5 == 0x3F800000) = true ∧
    gives (.vfrmin .f32 5 4 0) s (fun t => t.getV 5 == 0) = true := by decide +kernel

/-- FMT with the least and the greatest codes admitted. -/
theorem wit_ControlRegisters_fmt :
    gives (.fmt 0 16 31 4 2) sS (fun t => stPP t.status && t.pc == 0x24) = true ∧
    gives (.fmt 31 0 16 0 0) sS (fun t => stPP t.status) = true := by decide +kernel

/-- WAKE of core 1024. -/
theorem wit_ServiceInstructions_wake :
    let t := ({ sS with agent := .service 1 } : State).setPair 1 { x := (Vector.replicate 32 0).set 5 1024, pc := 0x40 }
    (t.pair 1).halted = false ∧ 1024 ≤ ((t.pair 1).getX 5).toNat ∧
    thenIs (exec (.wake 5) t) (fun s' => s'.cores == t.cores) = true := by decide +kernel

/-- A FENCE with r and not w waits for a queued atomic and not for a queued store. -/
theorem wit_Fences_reads :
    let pl : Place := spadAt 0 0 0
    let e (op : PostOp) : Posted := { no := 1, va := spadVa 0 0, op, tenant := 0, gen := 0 }
    let w (op : PostOp) : State := withCore 0 (fun c => { c with posted := [e op], absent := 1 }) sS
    (2 : BitVec 3).getLsbD 0 = false ∧ (2 : BitVec 3).getLsbD 1 = true ∧
    gives (.fence .clus 2 4) (w (.counter pl false 1)) (fun t => t.pc == 0x20) = true ∧
    gives (.fence .clus 2 4) (w (.data [(pl, 1)])) (fun t => t.pc == 0x24) = true := by decide +kernel

/-- FIN with a store that its partition does not take. -/
theorem wit_SpawnYieldFin_waits :
    let e : Posted := { no := 1, va := spadVa 0 0, op := .data [(spadAt 0 0 0, 7)], tenant := 0, gen := 0 }
    let w := withCore 0 (fun c => { c with posted := [e], absent := 1 }) sC
    w.plain ∧ (match w.drain w.cur with | .waits _ => true | .failed _ _ _ => false | .done _ => false) = true ∧
    thenIs (exec .fin w) (fun s' => (s'.core 0).mode == .draining && (s'.core 0).waiting) = true := by decide +kernel

/-- A slip in a failing unit. -/
theorem wit_ServiceCalls_integrity :
    let s := withX [(5, 1)] { sC with
      tenants := sC.tenants.map (fun e => (e.1, { e.2 with slippage := spadVa 0 0x1000 }))
      badUnits := [(Config.spadFlat + 0x1000) / 512] }
    s.badAt (spadAt 0 0x1000 0).flat = true ∧ ends (.scall 3 5 4) s 0x23 (BitVec.ofNat 56 (spadVa 0 0x1000)) = true := by
  decide +kernel

/-- EXPH at a gate in an absent partition waits resident. -/
theorem wit_TimedExchange_held :
    let s := withC [(2, cap 14 (spadVa 8 16) 1 0x0800)] (withCore 8 (fun c => { c with absent := 1 }) sX)
    s.plain ∧ s.drained ∧ (s.tenant s.ten).barrier.getLsbD 0 = true ∧ (s.core 0).inPhase = false ∧ translated (spadVa 8 16) = false ∧
    s.cellAt 2 needRW (spadAt 8 16 0) ∧ s.heldAt s.ten (spadVa 8 16) = true ∧
    thenIs (exec (.exph 2 5) s) (fun s' => (s'.core 0).strand.pc == 0x20) = true := by decide +kernel

/-- A miss that no walker serves yet, then the walker's walk, which finds the leaf. -/
theorem wit_UnitEvents_walk :
    let x : State := { sP with bms := [heldBm 3 (.xlate 64)], nextId := 4 }
    let u := x.walkers 0
    let w : Walk := { die := 0, tenant := 0, gen := 0, va := 0 }
    x.heldOf 3 = some (heldBm 3 (.xlate 64)) ∧ (x.walk 0 64).toOption.isSome = true ∧ u.walks.length = 1 ∧
    (u.walks.all fun v => v.die == w.die && v.tenant == 0) = true := by decide +kernel

/-- An operation behind another of its port, and of a function whose traffic is held. -/
theorem wit_HomeAndEngineEvents_held :
    let cell := Config.spadFlat + 0x20000 * 8 + 16
    let op (id : Nat) : CtrOp := { id, place := cell, va := spadVa 8 16, kind := .add 1, tenant := 0, gen := 0, origin := .remote 1 9 }
    let s : State := { sC with counterOps := [op 4, op 5] }
    s.behind (op 5) = true ∧ s.behind (op 4) = false ∧ (s.fn 0).halted = false ∧
    thenIs (exec (.counterOperationApply 5) s) (fun s' => decide (s' = s)) = true ∧
    thenIs (exec (.counterOperationApply 4) s) (fun s' => s'.cellVal cell == 1) = true := by decide +kernel

/-- The write of a block of one element, and the end of its job. -/
theorem wit_HomeAndEngineEvents_blocks :
    let j (due wrote : Nat) : Job :=
      { id := 4, engine := 0, seq := 0, tenant := 0, gen := 0, comp := 0, desc := {}, control := (ctl 1).img,
        a := cap 6 (spadVa 0 0x2000) 1 0x0101, b := cap 6 (spadVa 0 0x4000) 1 0x0101, scale := {},
        cc := cap 6 (spadVa 0 0x6000) 1 0x0102, accepted := 0, lastRun := 0, bank := .bank 0, acc := [0x3F800000], kstep := 1,
        due := due, wrote := wrote }
    let s (due wrote : Nat) : State := { sJ 1 with jobs := [j due wrote], mx := [(0, {})] }
    (s 0 0).jobsAt 0 = [j 0 0] ∧ (j 0 0).writing = true ∧ (s 0 0).jobHeld (j 0 0) = false ∧
    0 < min (4096 / Machine.sizeOf (cFmt (j 0 0).cc.img)) ((j 0 0).rows * (j 0 0).cols - (j 0 0).wrote) ∧
    ((s 0 0).writeOn (j 0 0)).jobs.map (·.wrote) = [1] ∧ memNat ((s 0 0).writeOn (j 0 0)).mem (Config.spadFlat + 0x6000) 2 = 0x3F80 ∧
    (j 9 1).wrote = (j 9 1).rows * (j 9 1).cols ∧ (j 9 1).block + 1 = (j 9 1).blocks ∧
    thenIs (exec (.kstepBoundary 0) (s 9 1)) (fun s' => s'.jobs == []) = true := by decide +kernel

/-- Two idle cores of a cluster want one entry; a header with a reserved wait kind; a turn that is due. -/
theorem wit_DispatchEvents_contest :
    let h (bind : Bool) (kind : Option (BitVec 4)) : Held :=
      { heldBm 3 .ready { kind := .new, task := 3, lcore := 8, bind, badKind := kind } with cluster := 1 }
    let s (b : Bool) (k : Option (BitVec 4)) : State :=
      { (withCore 9 (fun c => { c with residency := (sC.core 8).residency, tasks := (sC.core 8).tasks }) sC) with bms := [h b k] }
    let r : State := { sC with bms := [heldBm 3 .ready { kind := .new, task := 3, lcore := 0, bind := true, prio := 3 }], cycle := 400000 }
    ((s false none).untaken 9).choose 9 = some (0, .held (h false none)) ∧ (s false none).outranked 9 (h false none) = true ∧
    thenIs (exec (.dispatchChoose 9) (s false none)) (fun s' => (s'.core 9).mode == .idle && s'.bms.length == 1) = true ∧
    ((s true (some 15)).untaken 8).choose 8 = some (0, .held (h true (some 15))) ∧
    thenIs (exec (.dispatchChoose 8) (s true (some 15))) (fun s' => s'.bms == [] && (s'.fn 0).loghead == 1) = true ∧
    r.turnDue 0 = true ∧ thenIs (exec (.preemptRequest 0 false) r) (fun s' => (s'.core 0).preemptReq) = true := by
  decide +kernel

/-- A call without a block ends at once, its slice charged; a slice begun now has not run out, and its block lies in no locked core. -/
theorem wit_CallsAndDoorbells_slice :
    let c : Call := { callOf 1 with cap := {} }
    let s : State := { sD with service := { sD.service with active := some c, calls := [callOf 2] } }
    blockCap c.cap c.comp = false ∧ s.time ≤ s.service.since + sliceTicks ∧
    (∀ i ∈ [0, 127, 319], (sA 1).lockedAt (blockAddr (callOf 1).cap.img i) = none) ∧
    thenIs (exec .launchCall s) (fun s' => s'.service.active == none) = true := by decide +kernel

/-- An absent partition whose index another tenant has meanwhile comes back once that one is absent. -/
theorem wit_PlacesAndNodes_away :
    let img : Image := { tenant := 3, core := 1, cells := [(8, 9)], tags := [] }
    let s (absent : BitVec 4) : State :=
      { withCore 1 (fun c => { c with away := [(0, { v := true, tenant := 3 })], absent }) sC with
        images := [img], tenants := sC.tenants ++ [(3, { v := true })] }
    (s 1).partOf 3 1 = some 0 ∧ (s 1).absentOn 3 1 = true ∧ (s 1).backFree 3 1 0 = true ∧ (s 0).backFree 3 1 0 = false ∧
    thenIs (exec (.partitionRestore 3 1) (s 1)) (fun s' => ((s'.core 1).resid 0).tenant == 3 && s'.absentOn 0 1) = true := by
  decide +kernel

/-- A leaf beyond program memory is refused; one within it is written at once, or pending while an access is on its way. -/
theorem wit_PlacesAndNodes_mappings :
    let d : State := { sP with service := sD.service }
    let op : CtrOp := { id := 4, place := 16, va := 16, kind := .add 1, tenant := 0, gen := 0, origin := .strand }
    let low : Word := 0x000010000020008F
    let high : Word := 0x0000102F0000008F
    let without := memPuts d.mem (cellsFrom 0x3000000 (natBytes 8 0))
    (entryLeaves d.mem 2 low).length = 1 ∧ (∀ l ∈ entryLeaves d.mem 2 low, d.mayMap without 0 l = true) ∧
    d.accessWithin 0 0 (2 ^ 21) = false ∧
    thenIs (exec (.mappingShootdown 0 64 0x3000000 low) d) (fun s' => memNat s'.mem 0x3000000 8 == low.toNat) = true ∧
    thenIs (exec (.mappingShootdown 0 64 0x3000000 low) { d with counterOps := [op] }) (fun s' => s'.service.shootdowns.length == 1) = true ∧
    (entryLeaves d.mem 2 high).map (fun l => d.mayMap without 0 l) = [false] ∧
    thenIs (exec (.mappingShootdown 0 64 0x3000000 high) d) (fun s' => decide (s' = d)) = true := by decide +kernel

/-- A halted function takes an answer later; a flit behind another of its port waits. -/
theorem wit_LinksAndFlits_held :
    let o : PeerOp := { id := 4, tenant := 0, gen := 0, off := 0, place := 2 ^ 60, va := 0xF2 * 2 ^ 48, kind := .add 0, read := some 3, watch := false,
                        origin := .strand }
    let c : State := { sL fun p => { p with pending := [o] } with
      bms := [heldBm 3 (.far (0xF2 * 2 ^ 48) .kread) { warg := farWarg (0xF2 * 2 ^ 48) 0 5 }], fns := [(0, { d3hot := true })] }
    let op : CtrOp := { id := 4, place := 16, va := 16, kind := .add 1, tenant := 0, gen := 0, origin := .remote 1 9 }
    let b : State := { sL id with counterOps := [op], nextId := 5 }
    (c.fn 0).halted = true ∧ thenIs (exec (.cansFlit 1 (flit 0) 4 (.applied 9)) c) (fun s' => (s'.port 1).pending.map (·.answer) == [some (.applied 9)]) =
      true ∧
    (∃ o ∈ b.counterOps, o.port = some 1) ∧
    thenIs (exec (.abortFlit 1 (flit 0) 255 0 3) b) (fun s' => s'.counterOps.length == 2 && (s'.port 1).closedTo == [(3, 255)]) = true := by
  decide +kernel

/-- A format that holds no code, and a word of two lines: its second line missing, filled without the bytes before it, and with them. -/
theorem wit_FetchReadsTheWordAtPc_lines :
    let line (lead : Option (BitVec 24)) : ILine := { tenant := 0, gen := 0, base := 1, data := 0x7766, lead }
    let two (l : List ILine) : State := (fetchS (cap 3 2 64 0x0010) 60).updCore 0 fun c => { c with icache := c.icache ++ l }
    (fetchS (cap 4 0 16 0x0010) 0).fetch 0 = .raised { cause := 0x14, detail := capDetail 16 0 0 } ∧ (two []).fetch 0 = .miss 1 ∧
    (two [line none]).fetch 0 = .miss 0 ∧ (two [line (some 0x554433)]).fetch 0 = .word 0x77665544 := by decide +kernel

/-- The stream of 16 INT16 elements from the start of core 0's scratchpad, and sS with it bound to v24 and strips in the buffer. -/
def sdT : Vec := mkStream (cap 6 (spadVa 0 0) 64 1).img 0x0100000100000010
def sU (d : Vec) (l : List Strip) : State :=
  withV [(2, 3)] (withCore 0 (fun c => { c with strips := l, strand := { c.strand with bind := c.strand.bind.set 0 (some d) } }) sC)

/-- A bound source with its strip, revoked, at its end, marked, and without its strip. -/
theorem wit_VectorIntegerLanes_bound :
    let p (data : StripData) : Strip := { reg := 0, pos := 0, data }
    let s := sU sdT [p (.ok 5)]
    s.plain ∧ s.strand.boundOf 1 = none ∧ s.strand.boundOf 24 = some sdT ∧ s.strand.boundOf 2 = none ∧ s.strand.getV 2 = 3 ∧
    ((s.core 0).strips.find? fun p => p.owner == 0 && p.reg == 0 && p.pos == sdNext sdT) = some (p (.ok 5)) ∧ sdRevoked sdT = false ∧ sdNext sdT < sdCount sdT ∧ sdRevoked (putBit sdT 510 true) = true ∧
    sdCount sdT ≤ sdNext (putBits sdT 472 (16 : BitVec 32)) ∧
    gives (.vadd .z32 1 24 2 0) s (fun t => t.getV 1 == 8 && (t.boundOf 24).map sdNext == some 1) = true ∧
    ends (.vadd .z32 1 24 2 0) (sU (putBit sdT 510 true) []) 0x17 (capDetail 31) = true ∧
    ends (.vadd .z32 1 24 2 0) (sU (putBits sdT 472 (16 : BitVec 32)) []) 0x32 0 = true ∧
    ends (.vadd .z32 1 24 2 0) (sU sdT [p (.marked 0x23 7)]) 0x23 7 = true ∧ (sU sdT []).drained ∧
    ((sU sdT []).core 0).inPhase = false ∧ ((sU sdT []).roomFor 0 0
      ((sU sdT []).mkBookmark 0 (sU sdT []).strand .stream (liveSaved (sU sdT []).strand 0) 0 0 true).slots).isSome = true ∧
    thenIs (exec (.vadd .z32 1 24 2 0) (sU sdT [])) (fun s' => s'.bms.any fun h => h.holder == .stream 0) = true := by
  decide +kernel

/-- A value above FP16, a tiny one, and a sticky one beside an exact one that it stands for. -/
theorem wit_RoundingIsCorrect_range :
    let f := ffmtOf 7
    let big : Machine.Num := { neg := false, m := 1, e := 20 }
    let tiny : Machine.Num := { neg := false, m := 3, e := -26 }
    let s : Machine.Num := { neg := true, m := 4096, e := 0, st := true }
    let x : Machine.Num := { neg := true, m := 8193, e := -1 }
    ffmt 7 = some f ∧ f.mw = 10 ∧ f.bias = 15 ∧
    ((2 : ℚ) ^ (20 : Int) ≤ |big.rat| ∧ |big.rat| < (2 : ℚ) ^ (21 : Int) ∧ roundsTo .rne (big.rat / (2 : ℚ) ^ (10 : Int)) 1024) ∧
    ((2 : ℚ) ^ (-25 : Int) ≤ |tiny.rat| ∧ |tiny.rat| < (2 : ℚ) ^ (-24 : Int) ∧
      roundsTo .rne (tiny.rat / (2 : ℚ) ^ (-35 : Int)) 1536) ∧
    2 ^ (f.mw + 2) ≤ s.m ∧ s.standsFor x.rat := by
  refine ⟨by decide, by decide, by decide, ⟨?_, ?_, ?_⟩, ⟨?_, ?_, ?_⟩, by decide, ?_⟩ <;>
    norm_num [Machine.Num.rat, roundsTo, Machine.Num.standsFor]

theorem wit_RoundingIsCorrect_values :
    let f := ffmtOf 7
    let w (mode : Mode) (sat : Bool) (n : Machine.Num) : Nat × Flags := writeFp f mode sat (.fin n)
    w .rne false { neg := false, m := 1, e := 20 } = (0x7C00, 0b000101) ∧ w .rtz false { neg := false, m := 1, e := 20 } = (0x7BFF, 0b000101) ∧
    w .rne true { neg := true, m := 1, e := 20 } = (0xFBFF, 0b100101) ∧ w .rne false { neg := false, m := 3, e := -26 } = (1, 0b000011) ∧
    w .rup false { neg := false, m := 4096, e := 0, st := true } = w .rup false { neg := false, m := 8193, e := -1 } ∧
    writeFp (ffmtOf 13) .rne false (.inf true) = (15, 0b110000) ∧ writeFp (ffmtOf 9) .rne false (.inf true) = (0x7F, 0b010000) := by
  decide +kernel

/-- Exact sums and products; the sign of a zero sum; infinities and zeros (03 R90, R94, R95). -/
theorem test_exact_operations :
    let n (neg : Bool) (m : Nat) : FVal := .fin { neg, m, e := 0 }
    eqVal (addVal .rne (n false 3) (n true 1)).1 (n false 2) = true ∧ (addVal .rne (n false 3) (n true 3)) = (n false 0, 0) ∧
    (addVal .rdn (n false 3) (n true 3)) = (n true 0, 0) ∧ eqVal (mulVal (n false 3) (n true 5)).1 (n true 15) = true ∧
    eqVal (fmaVal .rne (n false 3) (n true 5) (n false 16)).1 (n false 1) = true ∧ (mulVal (.inf true) (n false 0)).2 = fgInvalid ∧
    ltVal (n true 3) (n false 0) = true ∧ eqVal (n true 0) (n false 0) = true ∧ ltVal (.inf true) (n true 3) = true := by decide +kernel

/-- The prefixes that a select and a comparison, a conversion, VQUANT and VDEQ take. -/
theorem wit_floating_prefixes :
    let p (i : Instr) : State := prefixed ((encode i).getD 0) (withV [(4, 0x3C00), (5, 0x4000), (6, 0x7F)] sS)
    let o (i : Instr) : Nat × Nat × Nat := let o := overrides (p i).strand.status; (o.fd, o.fa, o.fb)
    (p (.fmt 31 7 31 0 0)).unbound ∧ o (.fmt 31 7 7 0 0) = (31, 7, 7) ∧ (overrides (p (.fmt 31 7 31 0 0)).strand.status).rm = 0 ∧
    (overrides (p (.fmt 31 7 31 0 0)).strand.status).sat = 0 ∧ o (.fmt 31 31 31 0 0) = (31, 31, 31) ∧ o (.fmt 7 31 31 0 0) = (7, 31, 31) ∧
    o (.fmt 1 31 31 0 0) = (1, 31, 31) ∧ o (.fmt 13 31 9 0 0) = (13, 31, 9) ∧ o (.fmt 31 13 16 0 0) = (31, 13, 16) ∧
    gives (.vfclt .f32 1 4 5 0) (p (.fmt 31 7 7 0 0)) (fun t => t.getP 1 == 1 && !stPP t.status) = true ∧
    gives (.vfmin .f16 1 4 5 0) (p (.fmt 31 31 31 0 0)) (fun t => t.getV 1 == 0x3C00) = true ∧
    gives (.vcvtInt .s32 1 4 0) (p (.fmt 7 31 31 0 0)) (fun t => elemAt 16 (t.getV 1) 0 == 0x7380) = true ∧
    gives (.vcvtFp .f16 1 4 0) (p (.fmt 1 31 31 0 0)) (fun t => elemAt 8 (t.getV 1) 0 == 1) = true ∧
    gives (.vquant .f16 1 4 6 0) (p (.fmt 13 31 16 0 0)) (fun t => t.getV 1 == 2) = true ∧
    gives (.vdeq .f16 1 7 6 0) (p (.fmt 31 13 16 0 0)) (fun t => t.getV 1 == 0) = true := by decide +kernel

/-- 03 R80, R83 and R101: a value and the integer it rounds to, a scale that is no zero, and the ends of E8M0. -/
theorem wit_FloatingConversions_values :
    roundsTo .rne ((5 : ℚ) / 2) 2 ∧ roundsTo .rtz ((5 : ℚ) / 2) 2 ∧ roundsTo .rdn (-(5 : ℚ) / 2) (-3) ∧ roundsTo .rup ((5 : ℚ) / 2) 3 ∧
    ({ neg := false, m := 5, e := -1 } : Machine.Num).rat = 5 / 2 ∧
    toIntClamped .rne (-128) 127 (.fin { neg := false, m := 5, e := -1 }) = (2, fgInexact) ∧
    toIntClamped .rne (-128) 127 (.fin { neg := false, m := 128, e := 0 }) = (127, fgInvalid ||| fgSat ||| fgInexact) ∧
    decodeE8m0 127 = .fin { neg := false, m := 1, e := 0 } ∧ quantCode 12 .rne false true (.fin { neg := true, m := 9, e := 0 }) 127 = (4, fgSat) ∧
    (quantCode 13 .rne false true (.fin { neg := false, m := 3, e := 0 }) 127).1 = 5 ∧
    quantCode 11 .rne false true (.fin { neg := false, m := 1, e := 0 }) 255 = (0, fgInvalid) := by
  have h : Int.floor (-(5 : ℚ) / 2) = -3 ∧ Int.ceil ((5 : ℚ) / 2) = 3 ∧ Int.floor ((5 : ℚ) / 2) = 2 := by
    refine ⟨?_, ?_, ?_⟩ <;> norm_num [Int.floor_eq_iff, Int.ceil_eq_iff]
  refine ⟨?_, ?_, ?_, ?_, ?_, by decide +kernel, by decide +kernel, by decide +kernel, by decide +kernel, by decide +kernel, by decide +kernel⟩
  · norm_num [roundsTo, abs_of_pos]
  · simp only [roundsTo]; norm_num [h.2.2]
  · exact h.1.symm
  · exact h.2.1.symm
  · norm_num [Machine.Num.rat]

/-- VEXP2 within its range, and past it. -/
theorem wit_FloatingFunctionsAndReductions_bounds :
    let a : Machine.Num := { neg := false, m := 3, e := -1 }
    let b : Machine.Num := { neg := true, m := 1, e := 16 }
    (-320 : Int) ≤ a.e ∧ |a.rat| < 2 ^ 16 ∧ 2 ^ 16 ≤ |b.rat| ∧ b.rat < 0 ∧ a.m ≠ 0 := by
  refine ⟨by decide, ?_, ?_, ?_, by decide⟩ <;> norm_num [Machine.Num.rat]

/-- A Curator takes LOCK off a core of a tenant whose CONF is 1. -/
theorem wit_ServiceInstructions_conf :
    let s : State := { sS with
      agent := .curator 0
      tenants := [(0, { v := true, nodes := [1], conf := true })]
      nodes := [(1, { state := .allotted })] }
    s.agent = .curator 0 ∧ s.inNodes 0 0 = true ∧ ((0 : Word) &&& 0x8FFFFC0000000000#64).getLsbD 63 = false ∧
    thenIs (exec (.ownset 5 6) s) (fun s' => !(s'.tenant 0).conf) = true := by decide +kernel

/-- Offsets and indices just outside the shape, for a byte and a word. -/
theorem wit_ScalarLoads_outside :
    let s := withC [(3, cap 3 (spadVa 0 0) 4 0x0F0F)] (withX [(5, 4)] sM)
    s.plain ∧ s.strand.usable 2 1 ∧ s.strand.usable 3 1 ∧ cFmt (s.strand.getC 2).img = 0 ∧ cStr (s.strand.getC 2).img 0 = 1 ∧
    cFmt (s.strand.getC 3).img = 3 ∧ Machine.sizeOf 3 = 4 ∧
    ends (.lbOffset 7 2 64) s 0x11 (capDetail 2 0 64) = true ∧ gives (.lbOffset 7 2 63) s (fun t => t.pc == 0x24) = true ∧
    ends (.lhuOffset 7 2 63) s 0x11 (capDetail 2 0 63) = true ∧ ends (.lwuIndex 7 3 5) s 0x11 (capDetail 3 0 4) = true := by
  decide +kernel

/-- A held bookmark of an access on its way, with its destination index. -/
def onWay (va index : Nat) (p : FarOp → Bool) (s : State) : Bool := (s.core 0).mode == .saving && s.bms.any fun h =>
  h.bm.kind == .far && h.bm.warg.toNat == va + 2 ^ 56 * index && match h.holder with
    | .far a op => a == va && p op
    | _ => false

/-- Stores into a host window and across its end; a capability load from another core's scratchpad; a vector load of which the second
lane is far. -/
theorem wit_farStoresAndLoads :
    let host := 2 ^ 48
    let c (fmt va len : Nat) : CapReg := cap fmt va len 0x0F0F
    let s := withX [(5, 7), (9, 1)] (withC [(2, c 0 host 64), (3, c 0 (2 ^ 48 - 1) 64), (4, c 0 (spadVa 8 0) 64), (8, c 3 (spadVa 0 0x1FFFC) 4)] sC)
    s.plain ∧ s.drained ∧ s.unbound ∧ (s.core s.cur).inPhase = false ∧ s.strand.usable 2 2 ∧ s.strand.usable 4 1 ∧ s.strand.usable 8 1 ∧
    hostAddr host = true ∧ hostAddr (2 ^ 48 - 1) = false ∧ nearAddr s.cur (spadVa 8 0) = false ∧ host % 64 = 0 ∧
    nearAddr s.cur (spadVa 0 0x1FFFC) = true ∧ nearAddr s.cur (spadVa 1 0) = false ∧
    thenIs (exec (.sdOffset 5 2 8) s) (onWay (host + 8) 0 fun op => op == .store ((List.range 8).map fun q => (host + 8 + q, if q = 0 then 7 else 0))) =
      true ∧
    thenIs (exec (.shOffset 5 3 0) s) (onWay (host - 1) 0 fun op => op == .store [(host - 1, 7), (host, 0)]) = true ∧
    thenIs (exec (.cscOffset 6 2 0) s) (onWay host 0 fun op => op == .capStore 0) = true ∧
    thenIs (exec (.clcOffset 7 4 0) s) (onWay (spadVa 8 0) (1 * 64 + 7) fun op => op == .capLoad true) = true ∧
    thenIs (exec (.vst .z8 1 2 0 0) s) (onWay host 0 fun op => op == .store ((List.range 64).map fun q => (host + q, 0)) 1) = true := by
  decide +kernel

/-- A vector load of which the last lane lies in the next core's scratchpad. -/
theorem wit_VectorLoads_far :
    let s := withC [(8, cap 3 (spadVa 0 0x1FFC4) 16 0x0F0F)] sC
    s.strand.usable 8 1 ∧ ((List.range 16).filter (laneActive s.strand 0 32)).find? (fun j =>
      !(nearAddr s.cur (spadVa 0 0x1FFC4 + 4 * j))) = some 15 ∧
    thenIs (exec (.vld .z32 5 8 0 0) s) (onWay (spadVa 1 0) (2 * 64 + 5) fun op =>
      op == .vecLoad 4 16 true ((List.range 16).map fun j => (j, spadVa 0 0x1FFC4 + 4 * j))) = true := by decide +kernel

/-- Groups of INT4 and INT3: from index 32 of 96 elements, past the end, and with a form that is not admitted. -/
theorem wit_VectorLoads_VectorStores_groups :
    let s := withMem (Config.spadFlat + 16) 9 (withX [(5, 32), (6, 96), (7, 1)] (withC [(2, cap 11 (spadVa 0 0) 96 0x0003),
      (3, cap 12 (spadVa 0 0) 96 0x0003)] sC))
    s.plain ∧ s.unbound ∧ s.queueRoom ∧ s.strand.usable 2 3 ∧ s.strand.usable 3 3 ∧ isGroup 11 = true ∧ isGroup 12 = true ∧
    cExt (s.strand.getC 2).img 0 * cExt (s.strand.getC 2).img 1 * cExt (s.strand.getC 2).img 2 * cExt (s.strand.getC 2).img 3 = 96 ∧
    s.nearAt (spadVa 0 16) 16 (spadAt 0 16) ∧ s.nearAt (spadVa 0 12) 12 (spadAt 0 12) ∧ s.postsAt (spadVa 0 16) 16 needW (spadAt 0 16) ∧
    gives (.vld .z8 1 2 5 0) s (fun t => t.getV 1 == 9) = true ∧
    ends (.vld .z8 1 2 6 0) s 0x11 (capDetail 2 0 96) = true ∧ ends (.vld .z8 1 2 7 0) s 0x14 (capDetail 2) = true ∧
    ends (.vld .z16 1 2 5 0) s 0x14 (capDetail 2) = true ∧ ends (.vst .z8 1 2 6 0) s 0x11 (capDetail 2 0 96) = true ∧
    ends (.vst .z8 1 2 5 1) s 0x14 (capDetail 2) = true ∧
    thenIs (exec (.vst .z8 1 2 5 0) s) (fun s' => (s'.core 0).posted.map (·.va) == [spadVa 0 16]) = true := by decide +kernel

/-- 07 R227: the 32-bit forms on operands whose upper halves differ. -/
theorem test_amo_values :
    AmoOp.value .swap false 1 0x100000002 0 = 2 ∧ AmoOp.value .cas false 0x100000001 7 1 = 7 ∧ AmoOp.value .cas false 2 7 1 = 2 ∧
    AmoOp.value .max false 0xFFFFFFFF 1 0 = 1 ∧ AmoOp.value .maxu false 0xFFFFFFFF 1 0 = 0xFFFFFFFF := by decide +kernel

/-- An atomic on host memory: ADD whatever its destination, and XOR. -/
theorem wit_FarAccesses_host :
    let s := withC [(2, cap 4 (2 ^ 48) 1 3)] sC
    s.strand.usable 2 3 ∧ cFmt (s.strand.getC 2).img = 4 ∧ hostAddr (2 ^ 48) = true ∧ nearAddr s.cur (2 ^ 48) = false ∧
    thenIs (exec (.amoadd true 0 2 6) s) (onWay (2 ^ 48) 0 fun op => op == .atomic .add true 0 0) = true ∧
    ends (.amoxor true 7 2 6) s 0x25 (BitVec.ofNat 56 (2 ^ 48)) = true := by decide +kernel

/-- The descriptor, and the slot, in a failing unit. -/
theorem wit_InboxMessages_integrity :
    let b := Config.spadFlat + 0x20000 * 8
    let box := (sI 3 0 1).inboxAt b 0x20000
    let bad (u : Nat) (s : State) : State := { s with badUnits := [u / 512] }
    let far : State := withMem (b + 32) (0x0000010200001000 ) (sI 3 0 1)
    (bad b (sI 3 0 0)).badAt b = true ∧ ends (.msend 7 2 10 0) (bad b (sI 3 0 0)) 0x23 (BitVec.ofNat 56 (spadVa 8 0)) = true ∧
    ends (.msendW 2 10 0) (bad b (sI 3 0 1)) 0x23 (BitVec.ofNat 56 (spadVa 8 0)) = true ∧ box.opened = true ∧
    (far.inboxAt b 0x20000).opened = true ∧ (bad (b + 0x1000) far).badAt b = false ∧
    (bad (b + 0x1000) far).badAt (b + (far.inboxAt b 0x20000).ring + 64 * 3) = true ∧
    ends (.msend 7 2 10 0) (bad (b + 0x1000) far) 0x23 (BitVec.ofNat 56 (spadVa 8 0)) = true := by decide +kernel

/-- A word for each reason of 13 R422: src is a matrix of 4 rows of 64 bytes. -/
theorem wit_EngineCommands_layout :
    let src := (shaped (cap 0 (spadVa 0 0x8000) 64 0x0200) 1 4 64).img
    let dst := (shaped (cap 0 (spadVa 0 0x1000) 64 0x0400) 1 4 64).img
    let r (w : Word) : Nat := layoutReason src dst w
    r 0x0001000000000008 = 0 ∧ r 0x0009000000000008 = 1 ∧ r 0x0001800000000008 = 1 ∧ r 0x0001001000000008 = 2 ∧
    r 0x0001000070000008 = 3 ∧ r 0x0002000000000008 = 4 ∧ r 0x0001000000000009 = 5 ∧ r 0x0001000000000048 = 5 ∧
    r 0x0001020000000008 = 6 ∧ r 0x0001000000000001 = 8 ∧ r 0x0001010000000008 = 8 := by decide +kernel

/-- Four axes of which one is split come to five runs. -/
theorem wit_EngineCommands_layout_runs :
    let src := setExt (setExt (setExt (setRankm1 (mkCap 0 (spadVa 0 0x8000) 64 0x0200 0 0 2) 3) 1 4) 2 4) 3 4
    layoutReason src src 0x0004000001004688 = 7 := by decide +kernel

/-- A miss that its die's TLB answers, with the leaf still there and with its tables emptied since. -/
theorem wit_UnitEvents_dieTlb :
    let x : State := ({ sP with bms := [heldBm 3 (.xlate 64)], nextId := 4 } : State).tlbUse 128 0 64
    let y : State := withMem 0x3000000 0 x
    x.heldOf 3 = some (heldBm 3 (.xlate 64)) ∧ x.tlbHit 128 0 64 = true ∧ (x.leafOf 0 64).toOption.isSome = true ∧
    thenIs (exec (.tlbWalkComplete 3) x) (fun s' => s'.bms.all (·.holder == .ready)) = true ∧ y.tlbHit 128 0 64 = true ∧
    thenIs (exec (.tlbWalkComplete 3) { y with bms := [heldBm 3 (.xlate (2 ^ 40))] }) (fun s' => s'.bms.any fun h => h.bm.cause == 0x20) =
      true := by decide +kernel

/-- Accumulation of infinities, of a NaN, and of a sum that cancels (03 R101 to R103, R106). -/
theorem wit_HomeAndEngineEvents_sums :
    let n (neg : Bool) (m : Nat) : FVal × Flags := (.fin { neg, m, e := 0 }, 0)
    accStep 0 [n false 3, n true 1] = (0x40000000, 0) ∧ accStep 0x3F800000 [n true 1] = (0, 0) ∧ accStep 0x80000000 [n true 0] = (0x80000000, 0) ∧
    accStep 0 [(.inf false, 0), n true 1] = (0x7F800000, 0) ∧ accStep 0 [(.inf true, 0), n true 1] = (0xFF800000, 0) ∧
    accStep 0 [(.inf true, 0), (.inf false, 0)] = (0x7FC00000, fgInvalid) ∧ accStep 0x7FC00001 [n true 1] = (0x7FC00000, 0) := by
  decide +kernel

/-- A job that accumulates into C, on group-scaled weights: elements and weights read, the values it starts from, and its block written. -/
theorem wit_HomeAndEngineEvents_values :
    let g : Vec := (ctl 1).img + BitVec.ofNat 512 (5 * 2 ^ 232 + 16 * 2 ^ 248)
    let j (acc : Bool) : Job :=
      { id := 4, engine := 0, seq := 0, tenant := 0, gen := 0, comp := 0, desc := {}, control := if acc then putBit g 258 true else g,
        a := cap 6 (spadVa 0 0x2000) 1 0x0101, b := cap 11 (spadVa 0 0x4000) 32 0x0101, scale := cap 16 (spadVa 0 0x5000) 1 0x0101,
        cc := cap 6 (spadVa 0 0x6000) 1 0x0103, accepted := 0, lastRun := 0, bank := .bank 0, acc := [0x3F800000] }
    let s : State := withMem (Config.spadFlat + 0x2000) 0x3F80 (withMem (Config.spadFlat + 0x4000) 0xE
      (withMem (Config.spadFlat + 0x5000) 0x80 (withMem (Config.spadFlat + 0x6000) 0x4000 (sJ 1))))
    jBfmt g = 11 ∧ jSfmt g = 16 ∧ jAcc (j true).control = true ∧ jAcc (j false).control = false ∧ (j true).rows * (j true).cols = 1 ∧
    s.placesOf 0 (spadVa 0 0x2000) 2 needR = .ok ((List.range 2).map (spadAt 0 0x2000)) ∧ s.direct ((List.range 2).map (spadAt 0 0x2000)) ∧
    s.placesOf 0 (spadVa 0 0x4000) 16 needR = .ok ((List.range 16).map (spadAt 0 0x4000)) ∧
    s.placesOf 0 (spadVa 0 0x5000) 1 needR = .ok [spadAt 0 0x5000 0] ∧
    (s.readElem 0 (cap 6 (spadVa 0 0x2000) 1 0x0101).img 0 0).toOption.any (fun v => eqVal v (.fin { neg := false, m := 1, e := 0 })) = true ∧
    (s.startAcc (j true)).toOption = some [0x40000000] ∧ (s.startAcc (j false)).toOption = some [0] ∧
    (s.kstep (j false)).toOption.isSome = true ∧
    memNat (s.writeChunk (j true)).1.mem (Config.spadFlat + 0x6000) 2 = 0x3F80 ∧ (s.writeChunk (j true)).2 = 0 := by decide +kernel

/-- The end of a job whose record and cell lie in a scratchpad. -/
theorem wit_HomeAndEngineEvents_record :
    let j : Job :=
      { id := 4, engine := 0, seq := 0, tenant := 0, gen := 0, comp := 0, desc := cap 0 (spadVa 0 0x1000) 256 0x0807, control := (ctl 1).img,
        a := cap 6 (spadVa 0 0x2000) 1 0x0101, b := cap 6 (spadVa 0 0x4000) 1 0x0101, scale := {}, cc := cap 6 (spadVa 0 0x6000) 1 0x0102,
        accepted := 0, lastRun := 0, bank := .bank 0, acc := [0x3F800000], kstep := 1, due := 9, wrote := 1, flags := 1 }
    let s : State := { sJ 1 with jobs := [j], mx := [(0, {})] }
    let p := Config.spadFlat + 0x1000
    s.jobsAt 0 = [j] ∧ j.writing = true ∧ s.jobHeld j = false ∧ j.due ≤ s.cycle ∧ translated (spadVa 0 0x1000) = false ∧
    s.placeOf 0 (spadVa 0 0x1000) needRW true (spadVa 0 0x1000) = .ok (spadAt 0 0x1000 0) ∧
    s.placesOf 0 (spadVa 0 0x1030) 3 needW = .ok ((List.range 3).map (spadAt 0 0x1030)) ∧
    s.placesOf 0 (spadVa 0 0x1038) 3 needW = .ok ((List.range 3).map (spadAt 0 0x1038)) ∧ s.distances p (s.cellVal p) = [] ∧
    thenIs (exec (.kstepBoundary 0) s) (fun s' => s'.jobs == [] && s'.cellVal p == s.cellVal p + 1 && memGet s'.mem (p + 48) == 2 &&
      memGet s'.mem (p + 50) == 1 && memNat s'.mem (p + 56) 3 == 1) = true := by decide +kernel

/-- A halted function drops register writes; a doorbell of one that is not ready, or is locked, sets QERR. -/
theorem wit_CallsAndDoorbells_refused :
    let s (f : Fn) : State := { sD with fns := [(0, f)] }
    let h : State := s { ready := true, tdi := .quiesced }
    let l : State := s { ready := true, tdi := .locked, lqbase := 4 }
    (h.fn 0).dropsWrite none = true ∧ thenIs (exec (.moheadWrite ⟨0, none⟩ 3) h) (fun s' => decide (s' = h)) = true ∧
    thenIs (exec (.launchDoorbell ⟨0, none⟩ 1) h) (fun s' => decide (s' = h)) = true ∧ (l.fn 0).dropsWrite none = false ∧ (l.fn 0).tdi = .locked ∧
    thenIs (exec (.launchDoorbell ⟨0, none⟩ 1) l) (fun s' => (s'.fn 0).qerr) = true ∧ (s {}).isReady 0 = false ∧
    thenIs (exec (.mailboxDoorbell ⟨0, none⟩ 1) (s {})) (fun s' => (s'.fn 0).qerr) = true := by decide +kernel

/-- The launch block of wit_CallsAndDoorbells_host, its placement and its task; the argument's granule, tagged, with a stride and not. -/
theorem wit_CallsAndDoorbells_launch :
    let s := withMem (Config.hostFlat + 24) 64 (launchBytes sD Config.hostFlat)
    let d := memRead s.mem Config.hostFlat 128
    let a : State := { sD with tags := [Config.spadFlat / 64 + 1] }
    let c := (cap 0 (spadVa 0 0) 128 1).img
    launchForm true d = true ∧ field d 0 2 = 1 ∧ s.lockedAt (field d 8 8) = none ∧
    (match s.readPlacement 0 (field d 8 8) 1 with | .ok (_, l) => l == [8] | .error _ => false) = true ∧ s.inNodes 0 8 = true ∧
    s.taskValid 8 (s.task 8 3) = true ∧ (s.task 8 3).tenant.toNat = 0 ∧ s.roomFor 1 0 2 = some (.reading 1) ∧
    cStr c 0 = 1 ∧ elemAddr c (64, 0, 0, 0) % 64 = 0 ∧ a.placeOf 0 (elemAddr c (64, 0, 0, 0)) needR false (elemAddr c (64, 0, 0, 0)) =
      .ok (spadAt 0 64 0) ∧ a.argTag 0 c = true ∧ a.argTag 0 (setStr c 0 64) = false ∧ a.argTag 0 (setBase c (spadVa 0 8)) = false := by
  decide +kernel

/-- A restore on a locked core; a strand in the way of a swap, of a mode change and of a node's release. -/
theorem wit_PlacesAndNodes_asked :
    let lk := withCore 1 (fun c => { c with owner := 0x8000000000000000 }) sC
    let e : Posted := { no := 1, va := 0, op := .data [], tenant := 0, gen := 0 }
    let s := awayOf 0 sC
    let q := withCore 1 (fun c => { c with posted := [e] }) (awayOf 1 sC)
    let n : State := { sC with nodes := [(1, { state := .allotted, sharers := 1 })] }
    lk.coreLocked 1 = true ∧ thenIs (exec (.partitionRestore 0 1) lk) (fun s' => s'.pkgLog.length == 1) = true ∧
    s.coreLocked 0 = false ∧ s.maySwap 0 0 = true ∧ ((s.core 0).resid 0).tenant = 0 ∧ s.strandOn 0 0 = true ∧
    thenIs (exec (.partitionSwapOut 0 0) s) (fun s' => (s'.core 0).svcWant && s'.images == []) = true ∧ q.strandOn 0 1 = true ∧
    thenIs (exec (.partitionSwapOut 1 0) q) (fun s' => !(s'.core 1).svcWant) = true ∧ s.partHeld 0 0 = true ∧ s.soleHolder 0 0 = false ∧ sC.soleHolder 0 0 = true ∧
    thenIs (exec (.partitionModeChange 0 2) s) (fun s' => (s'.core 0).svcWant && (s'.core 0).pmode == 0) = true ∧
    thenIs (exec (.partitionModeChange 0 2) sC) (fun s' => decide (s' = sC)) = true ∧
    n.meaningful 1 = true ∧ (n.node 1).state = .allotted ∧ (1 : BitVec 11) ∈ (n.tenant 0).nodes ∧ n.workOnNode 0 1 = true ∧
    thenIs (exec (.nodeRelease 1 0) n) (fun s' => (s'.core 0).svcWant && (s'.tenant 0).nodes == [1]) = true := by decide +kernel

/-- Every core of the part's first node that the release asks about is unlocked. -/
theorem wit_PlacesAndNodes_unlocked : ∀ k ∈ nodeCores 1024,
    ({ sC with nodes := [(1024, { state := .allotted, sharers := 1 })] } : State).coreLocked k = false := by decide +kernel

/-- Granules of a swapped-out image, and of one restored. -/
theorem wit_PlacesAndNodes_tags :
    let lo := (Config.spadFlat + 0x20000) / 64
    let s : State := { awayOf 1 sC with tags := [lo - 1, lo + 2] }
    let r : State := { withCore 1 (fun c => { c with absent := 1 }) sC with images := [{ tenant := 0, core := 1, cells := [], tags := [2] }] }
    s.partBase 1 0 = 64 * lo ∧ thenIs (exec (.partitionSwapOut 1 0) s) (fun s' => s'.images.map (·.tags) == [[2]] && s'.tags == [lo - 1]) = true ∧
    r.coreLocked 1 = false ∧ r.backFree 0 1 0 = true ∧ r.heldReqs = [] ∧
    thenIs (exec (.partitionRestore 0 1) r) (fun s' => s'.tags == [lo + 2]) = true := by decide +kernel

/-- An entry that names a table outside the service region is refused; one that stays empty, and whose place reads well, is kept. -/
theorem wit_PlacesAndNodes_entries :
    let d : State := { sP with service := sD.service }
    entryLevel d.mem 64 0x2000000 4 0 (d.tenant 0).ptroot = some 1 ∧ entryKept d.mem 1 0x5000001 = false ∧ entryKept d.mem 1 0 = true ∧
    entryKept d.mem 2 0x000010000020008F = true ∧ d.badAt 0x3000000 = false ∧
    thenIs (exec (.mappingShootdown 0 64 0x2000000 0x5000001) d) (fun s' => decide (s' = d)) = true := by decide +kernel

/-- A Function Level Reset that meets a reset in progress; the end of a trigger-4 reset, with and without it; a second VF Enable while the
entry is reset; a chime at its time and one that comes too late. -/
theorem wit_ResetsAndBringUp_merged :
    let two : State := { sD with tenants := sD.tenants ++ [(3, { v := true })] }
    let s (trigger : Nat) (f : Fn) : State :=
      { two with fns := [(3, { f with reset := .refusing trigger, resetting := true })], service := { two.service with vfEnabled := 1 }
                 walks := [{ die := 0, tenant := 3, gen := 0, va := 0 }] }
    let end4 (f : Fn) (p : Fn → Bool) : Bool := thenIs (exec (.resetGenerationAdvance 3) (s 4 f)) fun s' => p (s'.fn 3) && s'.walks == []
    (two.tenant 3).v = true ∧ ((s 4 {}).fn 3).reset = .refusing 4 ∧ two.pfResetting = false ∧ two.vfResetting = false ∧
    thenIs (exec (.functionLevelReset 3) (s 4 {})) (fun s' => (s'.fn 3).unlock) = true ∧ (s 4 {}).carries 3 1 = false ∧
    ((s 4 {}).fn 3).rebuild = none ∧ end4 { tdi := .run } (fun f => f.tdi == .run && f.ready) = true ∧
    end4 { tdi := .run, unlock := true } (fun f => f.tdi == .unlocked) = true ∧ end4 { vfGone := true } (fun f => !f.ready) = true ∧
    thenIs (exec .vfEnableClear two) (fun s' => (s'.fn 3).reset == .refusing 3) = true ∧
    thenIs (exec (.vfEnableSet [initOf 3]) (s 4 {})) (fun s' => (s'.fn 3).rebuild.isSome) = true := by decide +kernel

/-- No core arms for an exchange at reset. -/
theorem wit_ResetsAndBringUp_noneArmed : ∀ k g, (State.reset.core k).strand.tenant = 3 → (State.reset.core k).phase ≠ .armed g := by
  intro k g _
  simp [State.core, State.reset, Table.get]

theorem wit_ResetsAndBringUp_chime : let s : State := { sD with timeAcc := 12600 * 35000 }
    s.service.lastChime + 35000 ≤ s.time ∧ thenIs (exec .chime s) (fun s' => decide (s' = s)) = true := by decide +kernel

/-- A physical function whose register writes are dropped keeps PLIMIT and the port registers. -/
theorem wit_droppedWrites : let s : State := { sC with fns := [(0, { tdi := .quiesced })] }
    (s.fn 0).dropsWrite none = true ∧ thenIs (exec (.plimitWrite ⟨100, none⟩) s) (fun s' => decide (s' = s)) = true ∧
    thenIs (exec (.portModeWrite ⟨1, none⟩ 8 7) s) (fun s' => decide (s' = s)) = true ∧
    thenIs (exec (.binderrClear ⟨1, none⟩) s) (fun s' => decide (s' = s)) = true := by decide +kernel

/-- The streams a request may come on, in each state of the interface. -/
theorem wit_HostRequests_admits :
    let f (t : Tdi) (secure : Bool) : Fn := { tdi := t, ide := (Vector.replicate 2 {}).set 0 { keys := 3, secure } }
    (f .unlocked false).admits (some (0, true)) = .discarded ∧ (f .unlocked false).admits none = .yes ∧
    (f .unlocked true).admits (some (0, true)) = .yes ∧ (f .run true).admits (some (0, true)) = .yes ∧
    (f .run true).admits none = .unsupported ∧ (f .run true).admits (some (1, true)) = .unsupported ∧
    (f .run false).admits (some (0, true)) = .unsupported ∧ (f .error false).admits (some (0, true)) = .aborted ∧
    (f .quiesced true).admits none = .aborted ∧ (f .locked true).admits none = .yes := by decide +kernel

/-- A request that is not admitted; a request to the Curator while it is busy; what a refused LOCK asks for; a function with nothing held. -/
theorem wit_HostRequests_refused :
    let s (f : Fn) : State := { sD with fns := [(0, f)] }
    let r : State := s { tdi := .run }
    let b : State := s { stopping := true }
    let q : State := s { tdi := .quiesced }
    let l : State := { sD with tenants := [(3, { v := true, nodes := [1024] })] }
    (r.fn 0).admits none = .unsupported ∧
    thenIs (exec (.apertureMemoryRead 0 4 0 8 none) r) (fun s' => s'.answer == (r.fn 0 |>.admits none).answer) = true ∧
    b.curatorBusy = true ∧ thenIs (exec (.quiesce 0) b) (fun s' => decide (s' = b)) = true ∧ l.curatorBusy = false ∧ (l.fn 3).tdi = .unlocked ∧
    l.lockable 3 = false ∧ thenIs (exec (.lockInterfaceRequest 3) l) (fun s' => (s'.core 0).svcWant && s'.answer == .tdisp .invalidRequest) = true ∧
    q.curatorBusy = false ∧ (q.fn 0).outbox = [] ∧ (q.fn 0).msixHeld = [] ∧ q.heldWrites = [] ∧ q.ports = [] ∧ (q.fn 0).d3hot = false ∧
    thenIs (exec (.unquiesce 0) q) (fun s' => (s'.fn 0).tdi == .run) = true := by decide +kernel

/-- Flits resent from the one that a NAK names, a flit resent for the 64th time, a second gap, and a flit with a reserved TYPE in its
sequence. -/
theorem wit_LinksAndFlits_resends :
    let x (no resent : Nat) : Flit := { no, type := 0x06, payload := [], resent }
    let s (l : List Flit) (nakked : Bool) : State := sL fun p => { p with retained := l, nakked }
    let l := [x 4 9, x 5 62, x 6 0]
    (s l false |>.port 1).retained[1]? = some (x 5 62) ∧
    thenIs (exec (.linkctlFlit 1 (flit 0) 5) (s l false)) (fun s' => (s'.port 1).up && (s'.port 1).retained.map (·.resent) == [0, 63, 1]) = true ∧
    thenIs (exec (.linkctlFlit 1 (flit 0) 5) (s [x 5 0, x 6 63] false)) (fun s' => !(s'.port 1).up && (s'.port 1).downCause == 1) = true ∧
    thenIs (exec (.idleFlit 1 (flit 1)) (s l true)) (fun s' => decide (s' = s l true)) = true ∧
    thenIs (exec (.flitReceiveError 1 (.reserved 0 0x3F)) (s l false)) (fun s' => (s'.port 1).rxseq == 1 && s'.pkgLog.length == 1) = true ∧
    thenIs (exec (.flitReceiveError 1 (.reserved 1 0x3F)) (s l true)) (fun s' => decide (s' = s l true)) = true := by decide +kernel

/-! ### Clauses on late sight, waits, bound sources and held traffic -/

/-- A FENCE, and a fence at a scope too narrow for the byte that engine 0 still sees late. -/
theorem wit_Fences_orders :
    let s : State := { sC with late := [0], old := [{ unit := 0, tenant := 0, flat := Config.spadFlat, byte := 1 }] }
    s.plain ∧ s.drained ∧ scopeHas .clus 0 0 Config.spadFlat = true ∧ scopeHas .core 0 0 Config.spadFlat = false ∧
    thenIs (exec (.fence .clus 1 4) s) (fun s' => s'.old == []) = true ∧
    thenIs (exec (.fence .clus 1 1) s) (fun s' => s'.old == s.old) = true ∧
    thenIs (exec (.fence .core 1 4) s) (fun s' => s'.old == s.old) = true := by decide +kernel

/-- A queue whose oldest entry its home accepts, and one whose oldest entry is held; a store to a page that the cluster TLB lacks. -/
theorem wit_ScalarStores_waits :
    let e (a : Nat) : Posted := { no := 1, va := a, op := .data [], tenant := 0, gen := 0 }
    let full (a : Nat) : State :=
      withCore 8 (fun c => { c with absent := 1 }) (withCore 0 (fun c => { c with posted := List.replicate 32 (e a) }) sM)
    let free := full (spadVa 0 0)
    let held := full (spadVa 8 0)
    let x := withC [(2, cap 0 64 64 0x0F0F)] sP
    ¬ free.queueRoom ∧ (free.acceptAt 0 0).1.queueRoom ∧ ¬ (held.acceptAt 0 0).1.queueRoom ∧ free.plain ∧ free.strand.usable 2 2 ∧
    free.postsAt (spadVa 0 56) 8 needW (spadAt 0 56) ∧
    thenIs (exec (.sdOffset 0 2 56) free) (fun s' => (s'.core 0).posted.length == 32 && (s'.core 0).strand.pc == 0x24) = true ∧
    thenIs (exec (.sdOffset 0 2 56) held) (fun s' => (s'.core 0).waiting && (s'.core 0).strand.pc == 0x20) = true ∧
    x.strand.usable 2 2 ∧ x.drained ∧ translated 64 = true ∧ x.tlbHit 0 0 64 = false ∧ hostAddr 71 = false ∧
    (x.roomFor 0 0 (x.mkBookmark 0 x.strand .xlate (liveSaved x.strand 0) 0 64 false).slots).isSome = true ∧
    thenIs (exec (.sdOffset 0 2 0) x) (fun s' => s'.bms.map (fun h => (h.holder, h.bm.strand.pc)) == [(.xlate 64, 0x20)]) = true := by
  decide +kernel

/-- A bound source of VABS, VFADD, VRADD, VST and EXSND; a carry chain's. -/
theorem wit_VectorIntegerLanes_consumers :
    let s := withC [(2, cap 3 (spadVa 0 0) 64 0x0003)] (sU sdT [{ reg := 0, pos := 0, data := .ok 5 }])
    let next (t : Strand) : Bool := (t.boundOf 24).map sdNext == some 1
    s.plain ∧ s.strand.boundOf 1 = none ∧ s.strand.boundOf 24 = some sdT ∧
    gives (.vabs .z32 1 24 0) s (fun t => t.getV 1 == 5 && next t) = true ∧
    gives (.vadc .z32 1 24 2 1) s (fun t => t.getV 1 == 8 && next t) = true ∧
    gives (.vradd .z32 1 24 0) s (fun t => t.getV 1 == 5 && next t) = true ∧
    gives (.vfadd .f32 1 24 2 0) s (fun t => t.getV 1 == 8 && next t) = true ∧
    gives (.vext .z32 5 24 0) s (fun t => t.getX 5 == 5 && next t) = true ∧
    thenIs (exec (.vst .z32 24 2 0 0) s) (fun s' => (s'.core 0).posted.length == 1 && (s'.core 0).mode == .running &&
      !(s'.core 0).waiting && s'.strand.pc == 0x24 && next s'.strand) = true ∧
    thenIs (exec (.vst .z32 24 2 0 0) (s.withStrips 24 24 5 5)) (fun s' => (s'.core 0).mode == .running && !(s'.core 0).waiting &&
      s'.strand.pc == 0x24) = true := by decide +kernel

/-- Operands with an infinity, a zero and a NaN, and sums that cancel. -/
theorem wit_FloatingArithmetic_special :
    let n (neg : Bool) (m : Nat) : Machine.Num := { neg, m, e := 0 }
    (n false 1).m ≠ 0 ∧ (n true 0).m = 0 ∧ (n false 0).st = false ∧
    fmaVal .rne (.inf false) (.fin (n true 0)) (.nan true) = (.nan false, fgInvalid) ∧
    fmaVal .rne (.inf false) (.fin (n true 1)) (.inf false) = (.nan false, fgInvalid) ∧
    fmaVal .rdn (.fin (n false 2)) (.fin (n false 3)) (.fin (n true 6)) = (.fin (n true 0), 0) ∧
    fmaVal .rdn (.fin (n false 0)) (.fin (n false 3)) (.fin (n false 0)) = (.fin (n false 0), 0) := by decide +kernel

/-- VFRMAX and VFRMIN under a prefix that overrides nothing, which they consume. -/
theorem wit_FloatingFunctionsAndReductions_prefix :
    let s := prefixed ((encode (.fmt 31 31 31 0 0)).getD 0) (withV [(4, 0x3F800000)] sS)
    let o := overrides s.strand.status
    stPP s.strand.status = true ∧ o.fa = 31 ∧ o.fb = 31 ∧ o.fd = 31 ∧ o.rm = 0 ∧ o.sat = 0 ∧ s.unbound ∧ s.agent = .strand ∧
    gives (.vfrmax .f32 5 4 0) s (fun t => t.getV 5 == 0x3F800000 && !stPP t.status) = true ∧
    gives (.vfrmin .f32 5 4 0) s (fun t => t.getV 5 == 0 && !stPP t.status) = true := by decide +kernel

/-- The tenant holds every record it may at a transfer engine. -/
theorem wit_EngineCommands_full :
    let c : Cmd := { id := 0, engine := 0, op := .fill, perCmd := true, dst := {}, src := {}, idx := {}, ctr := {}, val := 0,
                     tenant := 0, gen := 0, comp := 0, lcore := 0 }
    let f : State := { sE with cmds := List.replicate 64 c }
    f.plain ∧ f.drained ∧ (f.core f.cur).inPhase = false ∧
    (f.roomFor 0 0 (f.mkBookmark 0 f.strand .slot (liveSaved f.strand 0) 0 0 false).slots).isSome = true ∧
    thenIs (exec (.xfill true 3 9 7) f) (fun s' => s'.bms.map (fun h => (h.holder, h.bm.strand.pc, h.bm.kind)) == [(.slot 0, 0x20, .slot)]) =
      true := by decide +kernel

/-- An XCRYP abandoned after a resumable stop, by XRESUME and by BMDROP, and after another stop; a faulted command resumed by BMRESUME. -/
theorem wit_StreamsAndResumes_abandons :
    let s (t : State) : State := withMem (Config.spadFlat + 0x800) (-1) (withC [(3, cap 0 7 1 0 0xFFF0)] t)
    let dst := cap 0 (spadVa 0 0x800) 64 0x0400
    let c : Cmd := { id := 0, engine := 0, op := .cryp, perCmd := true, dst, src := {}, idx := {}, ctr := {}, val := 0, walk := 4,
                     tenant := 0, gen := 0, comp := 0, lcore := 0 }
    let f (resumable : Bool) (t : State) : State :=
      { s t with faulted := [{ handle := 7, cmd := c, cause := 0, detail := 0, live := true, escalated := true, resumable }] }
    let b (n : Nat) : State := { f true (sA n) with service := { (sA n).service with active := some { callOf n with
      word := BitVec.ofNat 64 (n + 7 * 2 ^ 16) } } }
    let left (s' : State) : Nat := memNat s'.mem (Config.spadFlat + 0x800) 8
    (f true sC).memOk ∧ elemAddr dst.img (decompose dst.img 3) = spadVa 0 0x803 ∧ translated (spadVa 0 0x803) = false ∧
    (f true sC).heldAt 0 (spadVa 0 0x803) = false ∧ (f true sC).placesOf 0 (spadVa 0 0x803) 1 needW = .ok [spadAt 0 0x800 3] ∧
    (f true sC).direct [spadAt 0 0x800 3] ∧
    thenIs (exec (.xresume 3) (f true sC)) (fun s' => left s' == 0xFFFFFFFF00000000 && s'.faulted.length == 0) = true ∧
    thenIs (exec (.xresume 3) (f false sC)) (fun s' => left s' == 0xFFFFFFFFFFFFFFFF && s'.faulted.length == 0) = true ∧
    thenIs (exec .bmdrop (b 4)) (fun s' => left s' == 0xFFFFFFFF00000000 && s'.faulted.length == 0) = true ∧
    thenIs (exec .bmresume (b 3)) (fun s' => left s' == 0xFFFFFFFFFFFFFFFF && s'.cmds.length == 1) = true := by decide +kernel

/-- A gate that counts with another mask than the tenant's: EXPH and a READY report of a core outside it; a phase left for a pre-emption;
no line waits. -/
theorem wit_TimedExchange_domain :
    let gate := Config.spadFlat + 16
    let g (m : BitVec 1024) (s : State) : State := { s with gates := [{ cell := gate, tenant := 0, mask := m, ready := 1, start := none }] }
    let a := withCore 0 (fun c => { c with phase := .arming gate }) sX
    let p := withCore 0 (fun c => { c with phase := .inside gate 99900, domain := 0x101, preemptReq := true }) sX
    (g 0x100 sX).cellAt 2 needRW (spadAt 0 16 0) ∧ ((g 0x100 sX).domainOf 0 gate).getLsbD 0 = false ∧
    ends (.exph 2 5) (g 0x100 sX) 0x52 (exDetail 0 0 1) = true ∧ (∀ l ∈ phaseLines (a.core 0).strand, a.lineWaits 0 l = false) ∧
    (a.domainOf 0 gate).getLsbD 0 = true ∧
    thenIs (exec (.exchangeArmed 0) (g 0x100 a)) (fun s' => (s'.core 0).phase == .armed gate && (s'.gate gate).map (·.ready) == some 1) = true ∧
    p.cellAt 2 needRW (spadAt 0 16 0) ∧ (p.domainOf 0 gate).getLsbD 0 = true ∧ p.preemptDue 0 = true ∧ (p.core 0).inPhase = true ∧
    thenIs (exec (.exph 2 5) p) (fun s' => (s'.core 0).phase == .none && (s'.core 0).strand.pc == 0x20) = true := by decide +kernel

/-- A function whose traffic is held accepts no invalidation, no page response and no ingest flit. -/
theorem wit_heldTraffic :
    let h : State := { sC with fns := [(0, { d3hot := true })], ports := [(1, { mode := 2, up := true })] }
    let v : State := { sC with fns := [(3, { tdi := .locked })] }
    let r : State := { sC with fns := [(0, { reset := .refusing 2 })] }
    (h.fn 0).halted = true ∧ (h.port 1).mode = 2 ∧ (h.fn (h.port 1).tenant).halted = true ∧ (v.tenant 3).v = false ∧ (v.fn 3).tdi ≠ .unlocked ∧
    thenIs (exec (.atsInvalidateRequest 0 1 1 3) h) (fun s' => decide (s' = h)) = true ∧
    thenIs (exec (.pageRequestGroupResponse 1 (.success 3)) h) (fun s' => decide (s' = h)) = true ∧
    thenIs (exec (.ingestFlit 1 (flit 0) true 1 0 0) h) (fun s' => decide (s' = h)) = true ∧
    thenIs (exec (.ingestHeldRecord 1) h) (fun s' => decide (s' = h)) = true ∧
    thenIs (exec (.functionLevelReset 3) v) (fun s' => (s'.fn 3).tdi == .unlocked) = true ∧
    thenIs (exec (.stopInterfaceRequest 3) v) (fun s' => (s'.fn 3).tdi == .unlocked) = true ∧
    (r.fn 0).reset = .refusing 2 ∧ thenIs (exec (.functionLevelReset 0) r) (fun s' => decide (s' = r)) = true := by decide +kernel

end Sys2Proof.Tests
end

section
/-! Package reset (O1): every table of State.reset is empty, so each entry reads as its reset value. -/

namespace Sys2Proof.Machine

@[simp] theorem State.core_reset (k : Nat) : State.reset.core k = {} := rfl
@[simp] theorem State.tenant_reset (t : Nat) : State.reset.tenant t = {} := rfl
@[simp] theorem State.gen_reset (t : Nat) : State.reset.gen t = 0 := rfl
@[simp] theorem State.node_reset (n : Nat) : State.reset.node n = {} := rfl
@[simp] theorem State.slot_reset (n : Nat) : State.reset.slot n = {} := rfl
@[simp] theorem State.fn_reset (f : Nat) : State.reset.fn f = {} := rfl
@[simp] theorem State.port_reset (p : Nat) : State.reset.port p = {} := rfl

/-- No residency entry of a core at its reset value is valid (12 R402). -/
theorem Core.resid_default (i : Nat) : Core.resid {} i = {} := by
  unfold Core.resid
  split
  · simp
  · rfl

/-- READY, RESETTING, QERR, GEN and BOOTERR of every function are 0 after package reset. -/
@[simp] theorem State.statusWord_reset (f : Nat) : State.reset.statusWord f = 0 := by
  simp [State.statusWord, State.isReady, w64]

theorem State.reset_numbered : State.reset.numbered := fun _ h => nomatch h

/-- Settles O1: the registers of the package by their defaults, the tables entry by entry. -/
theorem resetState : Obligations.ResetState := by
  unfold Obligations.ResetState
  refine ⟨rfl, rfl, rfl, rfl, rfl, rfl, rfl, rfl, rfl, rfl, rfl, rfl, rfl, rfl, State.reset_memOk, State.reset_numbered, rfl, rfl,
    fun k => ?core, fun t => ?tenant, fun n => ?node, fun n => ?slot, fun n => rfl, fun f => ?function, fun p => ?port⟩
  case core =>
    rw [State.core_reset]
    exact ⟨rfl, rfl, rfl, rfl, fun i => congrArg Residency.v (Core.resid_default i), fun n => rfl, rfl, rfl, rfl⟩
  case tenant => simp
  case node => simp
  case slot => simp
  case function => simp
  case port => simp

end Sys2Proof.Machine
end

section
/-! What a strand that takes an exception leaves behind (O29): its FAULT bookmark, the reserve that the bookmark finds room
in, and the cores beside its own. -/

namespace Sys2Proof.Machine

/-! ### The FAULT bookmark of a strand without stream registers (R145, R313, R423) -/

/-- SBOUND is 0 where no vector register is bound (R313). -/
theorem Strand.sbound_of_unbound {t : Strand} (h : ∀ k : Fin 8, t.bind[k] = none) : t.sbound = 0 := by
  have step (acc : BitVec 8) (k : Nat) :
      (if h : k < 8 then (if t.bind[k].isSome then putBit acc k true else acc) else acc) = acc := by
    by_cases hk : k < 8
    · have hn : t.bind[k] = none := h ⟨k, hk⟩
      simp [hk, hn]
    · simp [hk]
  unfold Strand.sbound
  simp only [step]
  rfl

/-- Without stream registers every c and v register is saved (R145). -/
theorem allSaved_of_sbound {t : Strand} (h : t.sbound = 0) : allSaved t = BitVec.allOnes 48 := by
  unfold allSaved
  rw [h]
  decide

/-- A bookmark that saves every register keeps the strand as it is (R317). -/
@[simp] theorem maskStrand_allOnes (t : Strand) : maskStrand t (BitVec.allOnes 48) = t := by
  have hc : (Vector.ofFn fun (i : Fin 16) => if (BitVec.allOnes 48).getLsbD i then t.c[i] else nullCap) = t.c := by
    ext1 i hi
    have saved : (BitVec.allOnes 48).getLsbD i = true := by simp only [BitVec.getLsbD_allOnes, decide_eq_true_eq]; omega
    simp only [Vector.getElem_ofFn, saved, if_true, Fin.getElem_fin]
  have hv : (Vector.ofFn fun (i : Fin 32) => if (BitVec.allOnes 48).getLsbD (16 + i) then t.v[i] else 0) = t.v := by
    ext1 i hi
    have saved : (BitVec.allOnes 48).getLsbD (16 + i) = true := by simp only [BitVec.getLsbD_allOnes, decide_eq_true_eq]; omega
    simp only [Vector.getElem_ofFn, saved, if_true, Fin.getElem_fin]
  unfold maskStrand
  rw [hc, hv]

/-- PP lies outside STATUS.TENANT (R143). -/
@[simp] theorem stTenant_setPP (w : Word) (b : Bool) : stTenant (setPP w b) = stTenant w := by
  unfold stTenant
  congr 1
  apply BitVec.eq_of_getLsbD_eq
  intro i hi
  have above : ¬ 54 + i - 37 < 1 ∧ 54 + i - 37 ≠ 0 ∧ 54 + i < 64 := by omega
  simp only [setPP, putBit, putBits, BitVec.getLsbD_extractLsb', BitVec.getLsbD_or, BitVec.getLsbD_and, BitVec.getLsbD_not,
    BitVec.getLsbD_shiftLeft, BitVec.getLsbD_setWidth, BitVec.getLsbD_allOnes, BitVec.getLsbD_ofBool, above]
  simp

/-- A strand as its FAULT bookmark holds it: the pc of the cause, FAULTINFO, and no pending prefix after PREFIX_INVALID (R54, R423). -/
def Strand.trapped (t : Strand) (f : Trap) : Strand :=
  { t with
    pc := f.pc.getD t.pc
    faultinfo := f.cause ++ f.detail
    status := if f.cause = 0x02 then setPP t.status false else t.status }

@[simp] theorem Strand.trapped_tenant (t : Strand) (f : Trap) : (t.trapped f).tenant = t.tenant := by
  unfold Strand.trapped Strand.tenant
  dsimp only
  split <;> simp

/-- The FAULT bookmark of a strand that has no stream register holds every register (R145, R423). -/
theorem State.faultBookmark_of_unbound {s : State} {k : Nat} (f : Trap) (h : (s.core k).strand.sbound = 0) :
    s.faultBookmark k f =
      { strand := (s.core k).strand.trapped f, saved := BitVec.allOnes 48, kind := .fault, cause := f.cause
        warg := f.detail.setWidth 64, gen := s.gen (s.core k).strand.tenant, lcore := k, prio := (s.core k).strand.prio } := by
  have hs : allSaved ((s.core k).strand.trapped f) = BitVec.allOnes 48 := allSaved_of_sbound h
  change ({ strand := maskStrand ((s.core k).strand.trapped f) (allSaved ((s.core k).strand.trapped f))
            saved := allSaved ((s.core k).strand.trapped f), kind := .fault, cause := f.cause, warg := f.detail.setWidth 64
            gen := s.gen ((s.core k).strand.trapped f).tenant, lcore := k
            prio := ((s.core k).strand.trapped f).prio } : Bookmark) = _
  rw [hs, maskStrand_allOnes, Strand.trapped_tenant]
  rfl

/-- A FAULT bookmark that saves all 48 registers and no stream descriptor has 53 units and a bookplate (R312, R320). -/
theorem Bookmark.slots_of_allSaved {b : Bookmark} (hk : b.kind = .fault) (hs : b.saved = BitVec.allOnes 48) (hb : b.strand.sbound = 0) :
    b.slots = 54 := by
  have h48 : popcount (BitVec.allOnes 48) = 48 := by decide
  have h0 : popcount (0 : BitVec 8) = 0 := by decide
  simp only [Bookmark.slots, Bookmark.units, hk, hs, hb, h48, h0, reduceCtorEq, if_false]

/-! ### What the room of the reserve and the next handle depend on -/

/-- The partitions of a tenant depend on its generation and the residency of the cores alone (R402). -/
theorem State.partOf_congr {s u : State} {t k : Nat} (hg : u.gen t = s.gen t) (hm : (u.core k).pmode = (s.core k).pmode)
    (hr : (u.core k).residency = (s.core k).residency) (ha : (u.core k).away = (s.core k).away) : u.partOf t k = s.partOf t k := by
  have hres (i : Nat) : (u.core k).resid i = (s.core k).resid i := by
    unfold Core.resid
    rw [hr]
  unfold State.partOf State.residentOn State.awayOn
  simp only [hg, hm, ha, hres]

/-- The reserve of a tenant depends on its table entry and its partitions alone (R320). -/
theorem State.reserveSlots_congr {s u : State} {t : Nat} (ht : u.tenant t = s.tenant t) (hp : ∀ k, u.partOf t k = s.partOf t k) :
    u.reserveSlots t = s.reserveSlots t := by
  unfold State.reserveSlots State.partitions
  simp only [ht, hp]

theorem State.reserveUsed_congr {s u : State} (h : u.bms = s.bms) (t : Nat) : u.reserveUsed t = s.reserveUsed t := by
  unfold State.reserveUsed State.slotsOf
  rw [h]

theorem State.newHandle_congr {s u : State} (hb : u.bms = s.bms) (hf : u.faulted = s.faulted) (hn : u.nextHandle = s.nextHandle) :
    u.newHandle = s.newHandle := by
  unfold State.newHandle State.handles
  rw [hb, hf, hn]

/-! ### A core that its strand leaves -/

/-- Charging a partition changes the deficits of its core alone (R326). -/
theorem State.charge_core (s : State) (k j : Nat) : ∃ d, (s.charge k).core j = { s.core j with deficit := d } ∧
    (j ≠ k → (s.charge k).core j = s.core j) := by
  unfold State.charge
  split
  · by_cases h : j = k
    · subst h
      exact ⟨_, State.core_updCore_self .., fun hn => absurd rfl hn⟩
    · rw [State.core_updCore_ne _ _ h]
      exact ⟨_, rfl, fun _ => rfl⟩
  · exact ⟨_, rfl, fun _ => rfl⟩

theorem State.vacate_core_ne (s : State) {k j : Nat} (m : CoreMode) (n : Nat) (h : j ≠ k) : (s.vacate k m n).core j = s.core j := by
  obtain ⟨-, -, hc⟩ := s.charge_core k j
  unfold State.vacate
  rw [State.core_updCore_ne _ _ h, hc h]

/-- The residency of a core stays when its strand leaves it. -/
theorem State.vacate_residency (s : State) (k : Nat) (m : CoreMode) (n j : Nat) :
    ((s.vacate k m n).core j).pmode = (s.core j).pmode ∧ ((s.vacate k m n).core j).residency = (s.core j).residency ∧
      ((s.vacate k m n).core j).away = (s.core j).away := by
  by_cases h : j = k
  · subst h
    obtain ⟨d, hc, -⟩ := s.charge_core j j
    unfold State.vacate
    rw [State.core_updCore_self, hc]
    exact ⟨rfl, rfl, rfl⟩
  · rw [State.vacate_core_ne s m n h]
    exact ⟨rfl, rfl, rfl⟩

theorem State.vacate_records (s : State) (k : Nat) (m : CoreMode) (n : Nat) :
    (s.vacate k m n).tenants = s.tenants ∧ (s.vacate k m n).faulted = s.faulted ∧ (s.vacate k m n).nextHandle = s.nextHandle := by
  unfold State.vacate State.charge
  split <;> exact ⟨rfl, rfl, rfl⟩

theorem State.vacate_newHandle (s : State) (k : Nat) (m : CoreMode) (n : Nat) : (s.vacate k m n).newHandle = s.newHandle := by
  obtain ⟨-, -, hb, -⟩ := s.vacate_mem k m n
  obtain ⟨-, hf, hn⟩ := s.vacate_records k m n
  exact State.newHandle_congr hb hf hn

theorem State.vacate_reserveUsed (s : State) (k : Nat) (m : CoreMode) (n t : Nat) :
    (s.vacate k m n).reserveUsed t = s.reserveUsed t := by
  obtain ⟨-, -, hb, -⟩ := s.vacate_mem k m n
  exact State.reserveUsed_congr hb t

theorem State.vacate_reserveSlots (s : State) (k : Nat) (m : CoreMode) (n t : Nat) :
    (s.vacate k m n).reserveSlots t = s.reserveSlots t := by
  have ht : (s.vacate k m n).tenant t = s.tenant t := by
    unfold State.tenant
    rw [(s.vacate_records k m n).1]
  refine State.reserveSlots_congr ht fun j => ?_
  obtain ⟨hm, hr, ha⟩ := s.vacate_residency k m n j
  exact State.partOf_congr (congrArg Tenant.gen ht) hm hr ha

/-! ### Delivery (R423, R424) -/

theorem State.beginReset_core (s : State) (t c j : Nat) : (s.beginReset t c).core j = s.core j := by
  unfold State.beginReset
  split
  · split <;> rfl
  · rfl

theorem State.escalate_core (s : State) (t : Nat) (k : BitVec 16) (h j : Nat) : (s.escalate t k h).core j = s.core j := by
  unfold State.escalate
  split
  · exact s.beginReset_core t 4 j
  · rfl

/-- Delivering a FAULT bookmark changes no core. -/
theorem State.deliver_core (s : State) (b : Bookmark) (j : Nat) : (s.deliver b).core j = s.core j := by
  unfold State.deliver
  dsimp only
  split
  · generalize he : Option.bind (β := State) _ _ = r
    cases r with
    | none => exact State.escalate_core ..
    | some u =>
      obtain ⟨c, -, hc⟩ := Option.bind_eq_some_iff.1 he
      obtain ⟨b', r, rfl⟩ := State.placeFaultTask_some hc
      rfl
  · split
    · exact State.escalate_core ..
    · exact State.beginReset_core ..

/-- A FAULT bookmark that finds room in the reserve is pending there under the next handle, delivered to a fault channel or escalated
(R320, R423, R424). -/
theorem State.deliver_holds {s : State} {b : Bookmark} (room : s.reserveUsed b.tenant + b.slots ≤ s.reserveSlots b.tenant) :
    ∃ h ∈ (s.deliver b).bms, ∃ esc, h.bm = b ∧ h.holder = .fault s.newHandle esc ∧ h.room = .reserve := by
  have last (u : State) (esc : Bool) : ∃ h ∈ (u.hold b (.fault s.newHandle esc) (b.lcore / 8) s.cycle .reserve).bms,
      ∃ esc, h.bm = b ∧ h.holder = .fault s.newHandle esc ∧ h.room = .reserve :=
    ⟨_, List.mem_append_right _ (List.mem_singleton.2 rfl), esc, rfl, rfl, rfl⟩
  unfold State.deliver
  dsimp only
  split
  · generalize he : Option.bind (β := State) _ _ = r
    cases r with
    | none =>
      obtain ⟨-, -, hb, -⟩ := State.escalate_mem
        (({ s with nextHandle := s.newHandle + 1 } : State).hold b (.fault s.newHandle true) (b.lcore / 8) s.cycle .reserve)
        b.tenant (stComp b.strand.status) s.newHandle
      dsimp only
      rw [hb]
      exact last _ true
    | some u =>
      obtain ⟨c, -, hc⟩ := Option.bind_eq_some_iff.1 he
      obtain ⟨b', r, rfl⟩ := State.placeFaultTask_some hc
      exact last _ false
  next full => exact absurd room full

/-! ### The entry of the exception (R421, R423) -/

section

variable (s : State) (t k : Nat) (c : BitVec 8) (d : BitVec 56)

/-- Logging a consumed error changes no core (R200). -/
@[simp] theorem State.noteConsumed_core (j : Nat) : (s.noteConsumed t k c d).core j = s.core j := by
  unfold State.noteConsumed
  split <;> rfl

@[simp] theorem State.noteConsumed_newHandle : (s.noteConsumed t k c d).newHandle = s.newHandle := by
  unfold State.noteConsumed
  split <;> rfl

@[simp] theorem State.noteConsumed_reserveUsed (n : Nat) : (s.noteConsumed t k c d).reserveUsed n = s.reserveUsed n := by
  unfold State.noteConsumed
  split <;> rfl

@[simp] theorem State.noteConsumed_reserveSlots (n : Nat) : (s.noteConsumed t k c d).reserveSlots n = s.reserveSlots n := by
  unfold State.noteConsumed
  split <;> rfl

@[simp] theorem State.noteConsumed_faultBookmark (j : Nat) (f : Trap) :
    (s.noteConsumed t k c d).faultBookmark j f = s.faultBookmark j f := by
  unfold State.noteConsumed
  split <;> rfl

end

/-- What the entry of a fault does to the cores: its own is saving and empty, the others are as they were (R332, R423). -/
theorem State.enterFault_cores (s : State) (k : Nat) (f : Trap) :
    ((s.enterFault k f).core k).mode = .saving ∧ ((s.enterFault k f).core k).strand = {} ∧
      ∀ j, j ≠ k → (s.enterFault k f).core j = s.core j := by
  unfold State.enterFault
  simp only [State.deliver_core]
  obtain ⟨hm, ht⟩ := s.vacate_core k .saving (ceilDiv (s.faultBookmark k f).slots 2)
  exact ⟨hm, ht, fun j hj => s.vacate_core_ne _ _ hj⟩

/-- The strand of a fault is pending in its tenant's reserve when its 54 slots fit there (R320, R423). -/
theorem State.enterFault_holds {s : State} {k : Nat} (f : Trap) (unbound : (s.core k).strand.sbound = 0)
    (room : s.reserveUsed (s.core k).strand.tenant + 54 ≤ s.reserveSlots (s.core k).strand.tenant) :
    ∃ h ∈ (s.enterFault k f).bms, ∃ esc, h.bm = s.faultBookmark k f ∧ h.holder = .fault s.newHandle esc ∧ h.room = .reserve := by
  have hb := State.faultBookmark_of_unbound f unbound
  have slots : (s.faultBookmark k f).slots = 54 := Bookmark.slots_of_allSaved (by rw [hb]) (by rw [hb]) (by rw [hb]; exact unbound)
  have tenant : (s.faultBookmark k f).tenant = (s.core k).strand.tenant := by
    rw [hb]
    exact Strand.trapped_tenant _ f
  unfold State.enterFault
  rw [← s.vacate_newHandle k .saving (ceilDiv (s.faultBookmark k f).slots 2)]
  refine State.deliver_holds ?_
  rw [State.vacate_reserveUsed, State.vacate_reserveSlots, tenant, slots]
  exact room

/-- Settles O29: the drain finds nothing, so the strand enters its fault at once; what it may log of a consumed error touches neither its
core nor its tenant's reserve. -/
theorem takingAnException : Obligations.TakingAnException := by
  unfold Obligations.TakingAnException
  intro s f drained unbound k t room s'
  let u := s.noteConsumed t.tenant k f.cause f.detail
  have taken : s' = u.enterFault k f := State.takeTrap_of_drained drained f
  have streams : t.sbound = 0 := Strand.sbound_of_unbound unbound
  obtain ⟨umem, utags, -⟩ := s.noteConsumed_mem t.tenant k f.cause f.detail
  obtain ⟨mem, tags, -⟩ := u.enterFault_spec k f
  obtain ⟨mode, empty, others⟩ := u.enterFault_cores k f
  obtain ⟨h, held, esc, bm, holder, place⟩ : ∃ h ∈ (u.enterFault k f).bms, ∃ esc,
      h.bm = u.faultBookmark k f ∧ h.holder = .fault u.newHandle esc ∧ h.room = .reserve :=
    State.enterFault_holds f (by rw [State.noteConsumed_core]; exact streams) (by
      rw [State.noteConsumed_core, State.noteConsumed_reserveUsed, State.noteConsumed_reserveSlots]
      exact room)
  rw [State.noteConsumed_faultBookmark, State.faultBookmark_of_unbound f streams] at bm
  rw [State.noteConsumed_newHandle] at holder
  rw [taken]
  refine ⟨mode, empty, fun j hj => (others j hj).trans (State.noteConsumed_core ..), mem.trans umem, tags.trans utags,
    h, held, esc, holder, place, ?_⟩
  rw [bm]
  exact ⟨rfl, rfl, rfl, rfl, rfl, rfl⟩

end Sys2Proof.Machine
end

section
/-! SERVICE_TENANT_RESET of a tenant without an armed core (O58). The event asks of the listed entries of the core table whether one is
armed, where the statement asks it of the cores: they differ on a table that lists an index twice, of which State.core reads the first
entry. -/

namespace Sys2Proof.Machine

/-- The core table lists core 0 twice: at its reset value, and behind that, where no reading of the table comes to, armed for tenant 0. -/
def shadowedArmed : State := { tenants := [(0, { v := true })], cores := [(0, {}), (0, { phase := .armed 0 })] }

/-- Every core reads as its reset value. -/
theorem shadowedArmed_core (k : Nat) : shadowedArmed.core k = {} := by
  simp only [State.core, shadowedArmed, Table.get]
  split <;> rfl

/-- The entry that is never read enables the reset of tenant 0. -/
theorem shadowedArmed_serviceTenantReset :
    exec (.serviceTenantReset 0) shadowedArmed = .next (shadowedArmed.beginReset 0 4) := rfl

theorem shadowedArmed_beginReset_ne : shadowedArmed.beginReset 0 4 ≠ shadowedArmed := fun same =>
  absurd (congrArg (fun s => (s.fn 0).resetting) same) (by decide)

/-- Refutes O58 by its last clause on SERVICE_TENANT_RESET: in `shadowedArmed` no core is armed, and the event begins the reset of
tenant 0 all the same. Table.set removes an index before it writes it, so the model's own writes make no such table; what the clause
lacks is the hypothesis that s.cores lists no index twice. -/
theorem not_resetsAndBringUp : ¬ Obligations.ResetsAndBringUp := by
  unfold Obligations.ResetsAndBringUp
  rintro ⟨triggers, -⟩
  obtain ⟨-, -, -, -, unarmed⟩ := triggers shadowedArmed 0 rfl rfl
  have none_armed : ∀ k g, (shadowedArmed.core k).strand.tenant = 0 → (shadowedArmed.core k).phase ≠ .armed g := by
    intro k g _
    rw [shadowedArmed_core]
    exact nofun
  have same := shadowedArmed_serviceTenantReset.symm.trans (unarmed none_armed)
  exact shadowedArmed_beginReset_ne (Host.Outcome.next.inj same)

end Sys2Proof.Machine
end

section
/-! What a word that decodes determines: read back field by field, it is the encoding of the instruction that it decodes to (02 R36, R39). -/

namespace Sys2Proof.Laws

/-! ### Fields that a word cuts in two, joined again -/

theorem join_1_6 (v : BitVec 7) : (v.extractLsb' 6 1 ++ v.extractLsb' 0 6 : BitVec 7) = v :=
  (extract_join v 1 6 0).trans BitVec.extractLsb'_eq_self

theorem join_5_2 {v : BitVec 7} {c : BitVec 5} (h : v.extractLsb' 2 5 = c) : v = c ++ v.extractLsb' 0 2 := by
  rw [← h]
  exact ((extract_join v 5 2 0).trans BitVec.extractLsb'_eq_self).symm

theorem join_6_1 {v : BitVec 7} {c : BitVec 6} (h : v.extractLsb' 1 6 = c) : v = c ++ v.extractLsb' 0 1 := by
  rw [← h]
  exact ((extract_join v 6 1 0).trans BitVec.extractLsb'_eq_self).symm

theorem join_4_3 {v : BitVec 7} {c : BitVec 4} (h : v.extractLsb' 3 4 = c) : v = c ++ v.extractLsb' 0 3 := by
  rw [← h]
  exact ((extract_join v 4 3 0).trans BitVec.extractLsb'_eq_self).symm

/-- A field of five bits whose fixed bit 4 is read apart. -/
theorem field_1_4 {v : BitVec 5} {c : BitVec 1} (h : v.extractLsb' 4 1 = c) : v = c ++ v.extractLsb' 0 4 := by
  rw [← h]
  exact (join_1_4 v).symm

/-- A field of five bits with a predicate index. -/
theorem field_2_3 {v : BitVec 5} (h : v.extractLsb' 3 2 = 0) : v = 0#2 ++ v.extractLsb' 0 3 := by
  rw [← BitVec.ofNat_eq_ofNat, ← h]
  exact (join_2_3 v).symm

/-- A field of five bits whose fixed bit 1 lies between two parts. -/
theorem field_3_1_1 {v : BitVec 5} (h : v.extractLsb' 1 1 = 0) : (v.extractLsb' 2 3 ++ 0#1 ++ v.extractLsb' 0 1 : BitVec 5) = v := by
  rw [← BitVec.ofNat_eq_ofNat, ← h, extract_join v 3 1 1]
  exact (extract_join v 4 1 0).trans BitVec.extractLsb'_eq_self

/-! ### A word by its fields -/

section

variable {w : Insn} {f7 : BitVec 7} {b a d : BitVec 5} {f3 : BitVec 3} {op : BitVec 7}

/-- The fields of the A cut make up the word. -/
theorem packA_fields (w : Insn) : packA (fF7 w) (fRs2 w) (fRs1 w) (fF3 w) (fRd w) (fOp w) = w := by
  have hi : fF7 w ++ fRs2 w = w.extractLsb' 20 12 := extract_join w 7 5 20
  have mid : w.extractLsb' 20 12 ++ fRs1 w = w.extractLsb' 15 17 := extract_join w 12 5 15
  have low : w.extractLsb' 15 17 ++ fF3 w = w.extractLsb' 12 20 := extract_join w 17 3 12
  have last : w.extractLsb' 12 20 ++ fRd w = w.extractLsb' 7 25 := extract_join w 20 5 7
  rw [packA, hi, mid, low, last]
  exact (extract_join w 25 7 0).trans BitVec.extractLsb'_eq_self

theorem packA_eq (h7 : fF7 w = f7) (hb : fRs2 w = b) (ha : fRs1 w = a) (h3 : fF3 w = f3) (hd : fRd w = d)
    (ho : fOp w = op) : packA f7 b a f3 d op = w := by
  subst h7 hb ha h3 hd ho
  exact packA_fields w

theorem packI_eq {imm : BitVec 12} (hi : fI w = imm) (ha : fRs1 w = a) (h3 : fF3 w = f3) (hd : fRd w = d)
    (ho : fOp w = op) : packI imm a f3 d op = w := by
  subst hi
  exact packA_eq (extract_upper (fF7 w) (fRs2 w)).symm (extract_lower (fF7 w) (fRs2 w)).symm ha h3 hd ho

/-- The immediate of a shift: its amount, and what stands above it. -/
theorem fI_of_shift {c : BitVec 6} (h : fHi6 w = c) : fI w = c ++ fSh w := by
  have low : fSh w = w.extractLsb' 20 6 :=
    (congrArg (· ++ fRs2 w) (extract_extract w 25 7 0 1 (by decide))).trans (extract_join w 1 5 20)
  have high : fHi6 w = w.extractLsb' 26 6 := extract_extract w 25 7 1 6 (by decide)
  rw [← h, low, high, extract_join w 6 6 20]
  exact extract_join w 7 5 20

theorem packS_eq {imm : BitVec 12} (hs : fS w = imm) (hb : fRs2 w = b) (ha : fRs1 w = a) (h3 : fF3 w = f3)
    (ho : fOp w = 0x23#7) : packS imm b a f3 = w := by
  subst hs
  exact packA_eq (extract_upper (fF7 w) (fRd w)).symm hb ha h3 (extract_lower (fF7 w) (fRd w)).symm ho

theorem packU_eq (ho : fOp w = op) : packU (fU w) (fRd w) op = w := by
  have h7 : (fU w).extractLsb' 13 7 = fF7 w :=
    (extract_high _ (fF3 w) 13 7 (by decide)).trans <| (extract_high _ (fRs1 w) 10 7 (by decide)).trans (extract_upper ..)
  have hb : (fU w).extractLsb' 8 5 = fRs2 w :=
    (extract_high _ (fF3 w) 8 5 (by decide)).trans <| (extract_high _ (fRs1 w) 5 5 (by decide)).trans (extract_lower ..)
  have ha : (fU w).extractLsb' 3 5 = fRs1 w := (extract_high _ (fF3 w) 3 5 (by decide)).trans (extract_lower ..)
  exact packA_eq h7.symm hb.symm ha.symm (extract_lower ..).symm rfl ho

theorem packB_eq (hz : fBz w = 0) (hb : fRs2 w = b) (ha : fRs1 w = a) (h3 : fF3 w = f3) (ho : fOp w = 0x63#7) :
    packB (fB w) b a f3 = w := by
  have top : (fB w).extractLsb' 10 1 = (fF7 w).extractLsb' 6 1 :=
    (extract_high _ _ 10 1 (by decide)).trans <| (extract_high _ _ 7 1 (by decide)).trans (extract_upper ..)
  have next : (fB w).extractLsb' 9 1 = (fRd w).extractLsb' 0 1 :=
    (extract_high _ _ 9 1 (by decide)).trans <| (extract_high _ _ 6 1 (by decide)).trans (extract_lower ..)
  have mid : (fB w).extractLsb' 3 6 = (fF7 w).extractLsb' 0 6 := (extract_high _ _ 3 6 (by decide)).trans (extract_lower ..)
  have low : (fB w).extractLsb' 0 3 = (fRd w).extractLsb' 2 3 := extract_lower ..
  refine packA_eq ?_ hb ha h3 ?_ ho
  · rw [top, mid, join_1_6]
  · rw [low, next]
    exact (field_3_1_1 hz).symm

theorem packJ_eq (hz : fJz w = 0) (ho : fOp w = 0x6F#7) : packJ (fJ w) (fRd w) = w := by
  have top : (fJ w).extractLsb' 18 1 = (fF7 w).extractLsb' 6 1 :=
    (extract_high _ _ 18 1 (by decide)).trans <| (extract_high _ _ 9 1 (by decide)).trans (extract_upper ..)
  have mid : (fJ w).extractLsb' 10 8 = fRs1 w ++ fF3 w :=
    (extract_high _ _ 10 8 (by decide)).trans <| (extract_high _ _ 1 8 (by decide)).trans (extract_lower ..)
  have next : (fJ w).extractLsb' 9 1 = (fRs2 w).extractLsb' 0 1 := (extract_high _ _ 9 1 (by decide)).trans (extract_lower ..)
  have last : (fJ w).extractLsb' 0 9 = (fF7 w).extractLsb' 0 6 ++ (fRs2 w).extractLsb' 2 3 := extract_lower ..
  have high : (fJ w).extractLsb' 3 6 = (fF7 w).extractLsb' 0 6 :=
    (extract_extract (fJ w) 0 9 3 6 (by decide)).symm.trans <| (congrArg _ last).trans (extract_upper ..)
  have low : (fJ w).extractLsb' 0 3 = (fRs2 w).extractLsb' 2 3 :=
    (extract_extract (fJ w) 0 9 0 3 (by decide)).symm.trans <| (congrArg _ last).trans (extract_lower ..)
  refine packA_eq ?_ ?_ ?_ ?_ rfl ho
  · rw [top, high, join_1_6]
  · rw [low, next]
    exact (field_3_1_1 hz).symm
  · rw [← extract_extract (fJ w) 10 8 3 5 (by decide), mid]
    exact (extract_upper ..).symm
  · rw [← extract_extract (fJ w) 10 8 0 3 (by decide), mid]
    exact (extract_lower ..).symm

theorem packX_fields (w : Insn) (h : fOp w = 0x5B#7) :
    packX (xF5 w) (xMb w) (xSub w) (xCe w) (xCk w) (xCb w) (xCd w) = w := by
  have a1 : xF5 w ++ xMb w = w.extractLsb' 26 6 := extract_join w 5 1 26
  have a2 : w.extractLsb' 26 6 ++ xSub w = w.extractLsb' 23 9 := extract_join w 6 3 23
  have a3 : w.extractLsb' 23 9 ++ xCe w = w.extractLsb' 19 13 := extract_join w 9 4 19
  have a4 : w.extractLsb' 19 13 ++ xCk w = w.extractLsb' 15 17 := extract_join w 13 4 15
  have a5 : w.extractLsb' 15 17 ++ xCb w = w.extractLsb' 11 21 := extract_join w 17 4 11
  have a6 : w.extractLsb' 11 21 ++ xCd w = w.extractLsb' 7 25 := extract_join w 21 4 7
  rw [packX, a1, a2, a3, a4, a5, a6, ← h]
  exact (extract_join w 25 7 0).trans BitVec.extractLsb'_eq_self

theorem packX_eq {f5 : BitVec 5} {m : BitVec 1} {sub : BitVec 3} {ce ck cb cd : BitVec 4} (h5 : xF5 w = f5) (hm : xMb w = m)
    (hs : xSub w = sub) (he : xCe w = ce) (hk : xCk w = ck) (hb : xCb w = cb) (hd : xCd w = cd) (ho : fOp w = 0x5B#7) :
    packX f5 m sub ce ck cb cd = w := by
  subst h5 hm hs he hk hb hd
  exact packX_fields w ho

/-! ### Fields from what the decoder tests -/

theorem xMb_eq (w : Insn) : xMb w = BitVec.ofBool (xM w) := by
  rcases bit_cases (xMb w) with h | h <;> simp [xM, h]

/-- The x register of an X-form word: its upper bit ends the field sub, whose other bits are fixed. -/
theorem xSub_eq (h : xSubHi w = 0) : xSub w = 0#2 ++ (xX w).extractLsb' 4 1 := by
  rw [← BitVec.ofNat_eq_ofNat, ← h, xX, upper_1_4]
  exact (join_2_1 (xSub w)).symm

theorem xCe_eq (w : Insn) : xCe w = (xX w).extractLsb' 0 4 := (lower_1_4 ..).symm

theorem xCd_eq (h : xCdHi w = 0) : xCd w = 0#1 ++ xV w := by
  rw [← BitVec.ofNat_eq_ofNat, ← h]
  exact ((extract_join (xCd w) 1 3 0).trans BitVec.extractLsb'_eq_self).symm

/-- The destination of an MJOB reaches from cd into cb, whose other bits are funct3. -/
theorem xCb_eq (h : fF3 w = 0) : xCb w = 0#3 ++ (fRd w).extractLsb' 4 1 := by
  rw [← BitVec.ofNat_eq_ofNat, ← h]
  exact ((congrArg (fF3 w ++ ·) (extract_extract w 7 5 4 1 (by decide))).trans (extract_join w 3 1 11)).symm

theorem xCd_eq_fRd (w : Insn) : xCd w = (fRd w).extractLsb' 0 4 := (extract_extract w 7 5 0 4 (by decide)).symm

/-- The operation of an atomic, with the fixed bits below it. -/
theorem fF7_of_xF5 {c : BitVec 5} (h : xF5 w = c) (hz : fF7Lo w = 0) : fF7 w = c ++ 0#2 := by
  rw [← BitVec.ofNat_eq_ofNat, ← hz]
  exact join_5_2 ((extract_extract w 25 7 2 5 (by decide)).trans h)

theorem fF3_of_wide (h : fF3Hi w = 1) : fF3 w = 1#2 ++ BitVec.ofBool (fWide w) := by
  have wide : BitVec.ofBool (fWide w) = (fF3 w).extractLsb' 0 1 := by
    rcases bit_cases ((fF3 w).extractLsb' 0 1) with h | h <;> simp [fWide, h]
  rw [wide, ← BitVec.ofNat_eq_ofNat, ← h]
  exact (join_2_1 (fF3 w)).symm

/-- The scope of a K-form word, with the ord of a release or acquire. -/
theorem fF7_of_ord {s : Scope} (h : fOrd w = 0x8) (hs : fScope w = s.code) : fF7 w = s.code ++ 1#1 ++ 0#3 := by
  have join : fF7 w = s.code ++ 8#4 := by
    rw [← hs, ← BitVec.ofNat_eq_ofNat, ← h]
    exact ((extract_join (fF7 w) 3 4 0).trans BitVec.extractLsb'_eq_self).symm
  rw [join]
  cases s <;> rfl

/-- The fields of FENCE and IFENCE about their fixed zeros. -/
theorem fMz_eq (h : fMz w = 0) :
    fF7 w = 0#5 ++ (fPred w).extractLsb' 1 2 ∧ fRs2 w = (fPred w).extractLsb' 0 1 ++ 0#1 ++ fSucc w ∧ fRs1 w = 0#2 ++ fMScope w := by
  have parts : ∀ (x : BitVec 5) (y : BitVec 1) (z : BitVec 2), x ++ y ++ z = (0 : BitVec 8) → x = 0 ∧ y = 0 ∧ z = 0 := by decide
  obtain ⟨h7, h2, h1⟩ := parts _ _ _ h
  have hi : (fPred w).extractLsb' 1 2 = (fF7 w).extractLsb' 0 2 := extract_upper ..
  have lo : (fPred w).extractLsb' 0 1 = (fRs2 w).extractLsb' 4 1 := extract_lower ..
  refine ⟨by rw [hi]; exact join_5_2 h7, ?_, field_2_3 h1⟩
  rw [lo, ← BitVec.ofNat_eq_ofNat, ← h2, extract_join (fRs2 w) 1 1 3]
  exact ((extract_join (fRs2 w) 2 3 0).trans BitVec.extractLsb'_eq_self).symm

theorem packF_eq (h3 : fF3 w = 7) (hz : fFz w = 0) (ho : fOp w = 0x7B#7) :
    packF (fFa w) (fFb w) (fRm w) (fSat w) (fRd w) = w := by
  have hi : (fFb w).extractLsb' 3 2 = (fF7 w).extractLsb' 0 2 := extract_upper ..
  have lo : (fFb w).extractLsb' 0 3 = (fRs2 w).extractLsb' 2 3 := extract_lower ..
  refine packA_eq ?_ ?_ ?_ h3 rfl ho
  · rw [hi]
    exact join_5_2 rfl
  · rw [lo, ← BitVec.ofNat_eq_ofNat, ← hz]
    exact ((extract_join (fRs2 w) 3 2 0).trans BitVec.extractLsb'_eq_self).symm
  · exact ((extract_join (fRs1 w) 3 2 0).trans BitVec.extractLsb'_eq_self).symm

theorem intEt_code (w : Insn) : fF3 w = (intEt w).code := by
  have codes : ∀ c : BitVec 3, c = 0 ∨ c = 1 ∨ c = 2 ∨ c = 3 ∨ c = 4 ∨ c = 5 ∨ c = 6 ∨ c = 7 := by decide
  rcases codes (fF3 w) with h | h | h | h | h | h | h | h <;> simp [intEt, IntEt.code, h]

/-! ### What a decoder gives is well formed and encodes to its word -/

/-- Every instruction that r gives is well formed and has the word w. -/
def Encodes (w : Insn) (r : Except DecodeError Instr) : Prop := ∀ i, r = .ok i → i.wf = true ∧ encode i = some w

theorem Encodes.error {e : DecodeError} : Encodes w (.error e) := fun i h => by
  simp at h

theorem Encodes.ite {c : Prop} [Decidable c] {r q : Except DecodeError Instr} (h : c → Encodes w r) (g : Encodes w q) :
    Encodes w (if c then r else q) := by
  split
  · exact h ‹_›
  · exact g

/-- A row of an encoding table: the instruction, its word, and that the word is w. -/
theorem Encodes.row {i : Instr} {v : Insn} (wf : i.wf = true) (word : encode i = some v) (same : v = w) : Encodes w (.ok i) := by
  rintro j ⟨⟩
  exact ⟨wf, word.trans (congrArg some same)⟩

theorem Encodes.scope {c : BitVec 3} {k : Scope → Instr} (h : ∀ s : Scope, c = s.code → Encodes w (.ok (k s))) :
    Encodes w (withScope c k) :=
  .ite (h .core) <| .ite (h .clus) <| .ite (h .die) <| .ite (h .pkg) <| .ite (h .sys) .error

theorem Encodes.fp {k : FpEt → Insn → Except DecodeError Instr} (h : ∀ et : FpEt, fF3 w = et.code → Encodes w (k et w)) :
    Encodes w (withFp w k) :=
  .ite (h .bf16) <| .ite (h .f16) <| .ite (h .f32) <| .ite (h .e4m3) <| .ite (h .e5m2) .error

theorem Encodes.ew {k : Ew → Insn → Except DecodeError Instr} (h : ∀ ew : Ew, fF3 w = ew.code → Encodes w (k ew w)) :
    Encodes w (withEw w k) :=
  .ite (h .z8) <| .ite (h .z16) <| .ite (h .z32) <| .ite (h .z64) .error

/-! ### The majors, row by row -/

theorem encodes_opImm (op : fOp w = 0x13) : Encodes w (decodeOpImm w) := by
  unfold decodeOpImm
  iterate 6 refine .ite (fun f3 => .row rfl rfl (packI_eq rfl rfl f3 rfl op)) ?_
  iterate 3 refine .ite (fun ⟨f3, hi⟩ => .row rfl rfl (packI_eq (fI_of_shift hi) rfl f3 rfl op)) ?_
  iterate 3 refine .ite (fun ⟨f3, imm⟩ => .row rfl rfl (packI_eq imm rfl f3 rfl op)) ?_
  exact .error

theorem encodes_op (op : fOp w = 0x33) : Encodes w (decodeOp w) := by
  unfold decodeOp
  iterate 22 refine .ite (fun ⟨f7, f3⟩ => .row rfl rfl (packA_eq f7 rfl rfl f3 rfl op)) ?_
  exact .error

theorem encodes_branch (op : fOp w = 0x63) : Encodes w (decodeBranch w) := by
  unfold decodeBranch
  iterate 6 refine .ite (fun ⟨f3, z⟩ => .row rfl rfl (packB_eq z rfl rfl f3 op)) ?_
  exact .error

theorem encodes_jalr (op : fOp w = 0x67) : Encodes w (decodeJalr w) := by
  unfold decodeJalr
  refine .ite (fun f3 => .row rfl rfl (packI_eq rfl rfl f3 rfl op)) ?_
  refine .ite (fun ⟨f3, f7, d, b, a⟩ => .row rfl rfl (packA_eq f7 (field_1_4 b) (field_1_4 a) f3 d op)) ?_
  exact .ite (fun ⟨f3, f7, b, a, d⟩ => .row rfl rfl (packA_eq f7 b a f3 d op)) .error

theorem encodes_load (op : fOp w = 0x03) : Encodes w (decodeLoad w) := by
  unfold decodeLoad
  iterate 7
    refine .ite (fun ⟨f3, m⟩ => .row rfl rfl (packI_eq rfl (field_1_4 m) f3 rfl op)) ?_
    refine .ite (fun ⟨f3, m, f7⟩ => .row rfl rfl (packA_eq f7 rfl (field_1_4 m) f3 rfl op)) ?_
  refine .ite (fun ⟨f3, m, d⟩ => .row rfl rfl (packI_eq rfl (field_1_4 m) f3 (field_1_4 d) op)) ?_
  exact .ite (fun ⟨f3, m, f7, d⟩ => .row rfl rfl (packA_eq f7 rfl (field_1_4 m) f3 (field_1_4 d) op)) .error

theorem encodes_store (op : fOp w = 0x23) : Encodes w (decodeStore w) := by
  unfold decodeStore
  iterate 4
    refine .ite (fun ⟨f3, m⟩ => .row rfl rfl (packS_eq rfl rfl (field_1_4 m) f3 op)) ?_
    refine .ite (fun ⟨f3, m, f7⟩ => .row rfl rfl (packA_eq f7 rfl (field_1_4 m) f3 rfl op)) ?_
  refine .ite (fun ⟨f3, m, s⟩ => .row rfl rfl (packS_eq rfl (field_1_4 s) (field_1_4 m) f3 op)) ?_
  exact .ite (fun ⟨f3, m, f7, s⟩ => .row rfl rfl (packA_eq f7 (field_1_4 s) (field_1_4 m) f3 rfl op)) .error

theorem encodes_cap (op : fOp w = 0x0B) : Encodes w (decodeCap w) := by
  unfold decodeCap
  refine .ite (fun ⟨f3, f7, b, a⟩ => .row rfl rfl (packA_eq f7 b (field_1_4 a) f3 rfl op)) ?_
  iterate 2 refine .ite (fun ⟨f3, f7, b, a⟩ => .row rfl rfl (packA_eq (join_5_2 f7) b (field_1_4 a) f3 rfl op)) ?_
  refine .ite (fun ⟨f3, f7, b, a⟩ => .row rfl rfl (packA_eq (join_6_1 f7) b (field_1_4 a) f3 rfl op)) ?_
  refine .ite (fun ⟨f3, f7, b, a⟩ => .row rfl rfl (packA_eq f7 b (field_1_4 a) f3 rfl op)) ?_
  refine .ite (fun ⟨f3, f7, a⟩ => .row rfl rfl (packA_eq f7 rfl (field_1_4 a) f3 rfl op)) ?_
  refine .ite (fun ⟨f3, f7, d⟩ => .row rfl rfl (packA_eq (join_5_2 f7) rfl rfl f3 (field_1_4 d) op)) ?_
  refine .ite (fun ⟨f3, f7, d, b⟩ => .row rfl rfl (packA_eq (join_5_2 f7) b rfl f3 (field_1_4 d) op)) ?_
  refine .ite (fun ⟨f3, f7, d, b⟩ => .row rfl rfl (packA_eq f7 b rfl f3 (field_1_4 d) op)) ?_
  refine .ite (fun ⟨f3, f7, d, b⟩ => .row rfl rfl (packA_eq f7 (field_1_4 b) rfl f3 (field_1_4 d) op)) ?_
  refine .ite (fun ⟨f3, f7, d, b, a⟩ => .row rfl rfl (packA_eq f7 (field_1_4 b) a f3 (field_1_4 d) op)) ?_
  exact .ite (fun ⟨f3, f7, d, b, a⟩ => .row rfl rfl (packA_eq f7 b (field_1_4 a) f3 (field_1_4 d) op)) .error

theorem encodes_counter (op : fOp w = 0x2B) : Encodes w (decodeCounter w) := by
  unfold decodeCounter
  iterate 3
    refine .ite (fun ⟨f3, f7, a, d⟩ => .row rfl rfl (packA_eq f7 rfl (field_1_4 a) f3 d op)) ?_
    refine .ite (fun ⟨f3, ord, a, d⟩ => .scope fun s hs => .row rfl rfl (packA_eq (fF7_of_ord ord hs) rfl (field_1_4 a) f3 d op)) ?_
  refine .ite (fun ⟨f3, f7, a, b⟩ => .row rfl rfl (packA_eq f7 b (field_1_4 a) f3 rfl op)) ?_
  refine .ite (fun ⟨f3, f7, d, b⟩ => .row rfl rfl (packA_eq f7 (field_1_4 b) rfl f3 d op)) ?_
  refine .ite (fun ⟨f3, f7, b⟩ => .ite (fun fits => .row fits rfl (packA_eq (join_4_3 f7) (field_1_4 b) rfl f3 rfl op)) .error) ?_
  refine .ite (fun ⟨f3, f7, b, d⟩ => .ite (fun fits => .row fits rfl (packA_eq (join_4_3 f7) (field_1_4 b) rfl f3 d op)) .error) ?_
  iterate 2 refine .ite (fun ⟨f3, f7, b, a, d⟩ => .row rfl rfl (packA_eq f7 b a f3 d op)) ?_
  refine .ite (fun ⟨f3, f7, d, b⟩ => .row rfl rfl (packA_eq f7 (field_1_4 b) rfl f3 (field_1_4 d) op)) ?_
  iterate 2 refine .ite (fun ⟨f3, f7, b, d⟩ => .row rfl rfl (packA_eq f7 b rfl f3 d op)) ?_
  exact .error

theorem encodes_engine (op : fOp w = 0x5B) : Encodes w (decodeEngine w) := by
  have m := xMb_eq w
  have ce := xCe_eq w
  unfold decodeEngine
  refine .ite (fun ⟨f5, sub, e⟩ => .row rfl rfl (packX_eq f5 m sub e rfl rfl rfl op)) ?_
  iterate 2 refine .ite (fun ⟨f5, sub⟩ => .row rfl rfl (packX_eq f5 m sub rfl rfl rfl rfl op)) ?_
  refine .ite (fun ⟨f5, hi, b⟩ => .row rfl rfl (packX_eq f5 m (xSub_eq hi) ce rfl b rfl op)) ?_
  iterate 3 refine .ite (fun ⟨f5, sub, e⟩ => .row rfl rfl (packX_eq f5 m sub e rfl rfl rfl op)) ?_
  refine .ite (fun ⟨f5, sub⟩ => .row rfl rfl (packX_eq f5 m sub rfl rfl rfl rfl op)) ?_
  refine .ite (fun ⟨f5, hi⟩ => .row rfl rfl (packX_eq f5 m (xSub_eq hi) ce rfl rfl rfl op)) ?_
  iterate 2 refine .ite (fun ⟨f5, sub, e, b⟩ => .row rfl rfl (packX_eq f5 m sub e rfl b rfl op)) ?_
  refine .ite (fun ⟨f5, m, sub, e, k, d⟩ => .row rfl rfl (packX_eq f5 m sub e k rfl d op)) ?_
  refine .ite (fun ⟨f5, m, sub, f3⟩ => .row rfl rfl (packX_eq f5 m sub rfl rfl (xCb_eq f3) (xCd_eq_fRd w) op)) ?_
  refine .ite (fun ⟨f5, m, hi, k, d⟩ => .row rfl rfl (packX_eq f5 m (xSub_eq hi) ce k rfl (xCd_eq d) op)) ?_
  exact .ite (fun ⟨f5, m, sub, e, k, b, d⟩ => .row rfl rfl (packX_eq f5 m sub e k b (xCd_eq d) op)) .error

theorem encodes_exchange (op : fOp w = 0x7B) : Encodes w (decodeExchange w) := by
  unfold decodeExchange
  refine .ite (fun ⟨f3, z⟩ => .row rfl rfl (packF_eq f3 z op)) ?_
  refine .ite (fun ⟨f3, f7, d, a⟩ => .row rfl rfl (packA_eq f7 rfl (field_1_4 a) f3 d op)) ?_
  refine .ite (fun ⟨f3, f7, d⟩ => .row rfl rfl (packA_eq f7 rfl rfl f3 d op)) ?_
  refine .ite (fun ⟨f3, f7, b⟩ => .row rfl rfl (packA_eq f7 b rfl f3 rfl op)) ?_
  refine .ite (fun ⟨f3, f7, a⟩ => .row rfl rfl (packA_eq f7 rfl (field_1_4 a) f3 rfl op)) ?_
  refine .ite (fun ⟨f3, f7, b, d, a⟩ => .row rfl rfl (packA_eq f7 b (field_1_4 a) f3 d op)) ?_
  exact .ite (fun ⟨f3, f7, d, b, a⟩ => .row rfl rfl (packA_eq f7 (field_1_4 b) (field_1_4 a) f3 d op)) .error

theorem encodes_system (op : fOp w = 0x73) : Encodes w (decodeSystem w) := by
  unfold decodeSystem
  iterate 3 refine .ite (fun ⟨f3, f7, b, a, d⟩ => .row rfl rfl (packA_eq f7 b a f3 d op)) ?_
  refine .ite (fun ⟨f3, f7, b, d⟩ => .row rfl rfl (packA_eq f7 b rfl f3 d op)) ?_
  refine .ite (fun ⟨f3, f7, d⟩ => .row rfl rfl (packA_eq f7 rfl rfl f3 d op)) ?_
  refine .ite (fun ⟨f3, d⟩ => .ite (fun listed => .row listed rfl (packI_eq rfl rfl f3 d op)) .error) ?_
  refine .ite (fun ⟨f3, a⟩ => .ite (fun listed => .row listed rfl (packI_eq rfl a f3 rfl op)) .error) ?_
  exact .ite (fun ⟨f3, a, d⟩ => .row rfl rfl (packI_eq rfl a f3 d op)) .error

theorem encodes_miscMem (op : fOp w = 0x0F) : Encodes w (decodeMiscMem w) := by
  unfold decodeMiscMem
  refine .ite (fun ⟨f3, z, d⟩ => .scope fun s hs => ?_) (.ite (fun ⟨f3, z, p, u, d⟩ => .scope fun s hs => ?_) .error)
  · obtain ⟨f7, b, a⟩ := fMz_eq z
    exact .row rfl rfl (packA_eq f7 b (hs ▸ a) f3 d op)
  · obtain ⟨f7, b, a⟩ := fMz_eq z
    rw [p] at f7 b
    rw [u] at b
    exact .row rfl rfl (packA_eq f7 b (hs ▸ a) f3 d op)

theorem encodes_amo (op : fOp w = 0x2F) : Encodes w (decodeAmo w) := by
  unfold decodeAmo
  iterate 10
    refine .ite (fun ⟨f3, z, a, f5⟩ => .row rfl rfl (packA_eq (fF7_of_xF5 f5 z) rfl (field_1_4 a) (fF3_of_wide f3) rfl op)) ?_
  exact .error

theorem encodes_opV (op : fOp w = 0x57) : Encodes w (decodeOpV (intEt w) w) := by
  have et := intEt_code w
  unfold decodeOpV
  iterate 14 refine .ite (fun f7 => .row rfl rfl (packA_eq (join_4_3 f7) rfl rfl et rfl op)) ?_
  iterate 2 refine .ite (fun ⟨f7, d⟩ => .row rfl rfl (packA_eq (join_4_3 f7) rfl rfl et (field_2_3 d) op)) ?_
  exact .error

theorem encodes_opFp {et : FpEt} (f3 : fF3 w = et.code) (op : fOp w = 0x53) : Encodes w (decodeOpFp et w) := by
  unfold decodeOpFp
  iterate 5 refine .ite (fun ⟨f7, wide⟩ => .row wide rfl (packA_eq (join_4_3 f7) rfl rfl f3 rfl op)) ?_
  iterate 2 refine .ite (fun f7 => .row rfl rfl (packA_eq (join_4_3 f7) rfl rfl f3 rfl op)) ?_
  iterate 2 refine .ite (fun ⟨f7, b⟩ => .row rfl rfl (packA_eq (join_4_3 f7) b rfl f3 rfl op)) ?_
  iterate 3 refine .ite (fun ⟨f7, d⟩ => .row rfl rfl (packA_eq (join_4_3 f7) rfl rfl f3 (field_2_3 d) op)) ?_
  iterate 4 refine .ite (fun ⟨f7, b, wide⟩ => .row wide rfl (packA_eq (join_4_3 f7) b rfl f3 rfl op)) ?_
  exact .error

theorem encodes_madd (op : fOp w = 0x43) : Encodes w (decodeMadd (intEt w) w) := by
  have et := intEt_code w
  unfold decodeMadd
  iterate 2 refine .ite (fun f7 => .row rfl rfl (packA_eq (join_4_3 f7) rfl rfl et rfl op)) ?_
  refine .ite (fun ⟨f7, b⟩ => .row rfl rfl (packA_eq (join_4_3 f7) b rfl et rfl op)) ?_
  iterate 2 refine .ite (fun ⟨f7, d⟩ => .row rfl rfl (packA_eq (join_4_3 f7) rfl rfl et (field_2_3 d) op)) ?_
  iterate 5 refine .ite (fun ⟨f7, b⟩ => .row rfl rfl (packA_eq (join_4_3 f7) b rfl et rfl op)) ?_
  exact .ite (fun ⟨f7, pg⟩ => .row rfl rfl (packA_eq ((join_4_3 f7).trans (congrArg _ pg)) rfl rfl et rfl op)) .error

theorem encodes_msub {et : FpEt} (f3 : fF3 w = et.code) (op : fOp w = 0x47) : Encodes w (decodeMsub et w) := by
  unfold decodeMsub
  refine .ite (fun ⟨f7, b⟩ => .row rfl rfl (packA_eq (join_4_3 f7) b rfl f3 rfl op)) ?_
  refine .ite (fun ⟨f7, wide⟩ => .row wide rfl (packA_eq (join_4_3 f7) rfl rfl f3 rfl op)) ?_
  refine .ite (fun f7 => .row rfl rfl (packA_eq (join_4_3 f7) rfl rfl f3 rfl op)) ?_
  iterate 3 refine .ite (fun ⟨f7, b, wide⟩ => .row wide rfl (packA_eq (join_4_3 f7) b rfl f3 rfl op)) ?_
  exact .error

theorem encodes_loadFp {ew : Ew} (f3 : fF3 w = ew.code) (op : fOp w = 0x07) : Encodes w (decodeLoadFp ew w) := by
  unfold decodeLoadFp
  iterate 5 refine .ite (fun ⟨f7, a⟩ => .row rfl rfl (packA_eq (join_4_3 f7) rfl (field_1_4 a) f3 rfl op)) ?_
  exact .error

theorem encodes_storeFp {ew : Ew} (f3 : fF3 w = ew.code) (op : fOp w = 0x27) : Encodes w (decodeStoreFp ew w) := by
  unfold decodeStoreFp
  iterate 5 refine .ite (fun ⟨f7, a⟩ => .row rfl rfl (packA_eq (join_4_3 f7) rfl (field_1_4 a) f3 rfl op)) ?_
  exact .error

theorem encodes_pred (op : fOp w = 0x4B) : Encodes w (decodePred w) := by
  unfold decodePred
  iterate 4 refine .ite (fun ⟨f3, f7, b, a, d⟩ => .row rfl rfl (packA_eq f7 (field_2_3 b) (field_2_3 a) f3 (field_2_3 d) op)) ?_
  refine .ite (fun ⟨f3, f7, b, a, d⟩ => .row rfl rfl (packA_eq f7 b (field_2_3 a) f3 (field_2_3 d) op)) ?_
  refine .ite (fun ⟨f3, f7, b, d⟩ => .row rfl rfl (packA_eq f7 b rfl f3 (field_2_3 d) op)) ?_
  iterate 2 refine .ite (fun ⟨f3, f7, b, a⟩ => .row rfl rfl (packA_eq f7 b (field_2_3 a) f3 rfl op)) ?_
  exact .error

theorem encodes_decode (w : Insn) : Encodes w (decode w) := by
  unfold decode
  refine .ite encodes_opImm <| .ite encodes_op <| .ite (fun op => .row rfl rfl (packU_eq op)) <|
    .ite (fun op => .row rfl rfl (packU_eq op)) <| .ite encodes_branch <|
    .ite (fun op => .ite (fun z => .row rfl rfl (packJ_eq z op)) .error) <| .ite encodes_jalr <| .ite encodes_load <|
    .ite encodes_store <| .ite encodes_cap <| .ite encodes_counter <| .ite encodes_engine <| .ite encodes_exchange <|
    .ite encodes_system <| .ite encodes_miscMem <| .ite encodes_amo <| .ite encodes_opV <|
    .ite (fun op => .fp fun _ f3 => encodes_opFp f3 op) <| .ite encodes_madd <|
    .ite (fun op => .fp fun _ f3 => encodes_msub f3 op) <| .ite (fun op => .ew fun _ f3 => encodes_loadFp f3 op) <|
    .ite (fun op => .ew fun _ f3 => encodes_storeFp f3 op) <| .ite encodes_pred <| .ite (fun _ => .error) .error

/-- Settles O4: along the decoder's branches, the fields that a branch tests and those it reads are all the bits of the word. -/
theorem decodeOnlyEncodings : Obligations.DecodeOnlyEncodings := encodes_decode

end

end Sys2Proof.Laws
end


section
/-! The round trip of the encoding, assembled from that of each instruction (02 R36 to R53), and words of the encoding tables. -/

namespace Sys2Proof.Laws

/-- Decoding an instruction's word gives that instruction back; an event has no word. -/
theorem RoundTrip.every (i : Instr) : RoundTrip.Statement i := by
  cases i with
  | addi => exact RoundTrip.addi _ _ _
  | slti => exact RoundTrip.slti _ _ _
  | sltiu => exact RoundTrip.sltiu _ _ _
  | xori => exact RoundTrip.xori _ _ _
  | ori => exact RoundTrip.ori _ _ _
  | andi => exact RoundTrip.andi _ _ _
  | slli => exact RoundTrip.slli _ _ _
  | srli => exact RoundTrip.srli _ _ _
  | srai => exact RoundTrip.srai _ _ _
  | clz => exact RoundTrip.clz _ _
  | ctz => exact RoundTrip.ctz _ _
  | cpop => exact RoundTrip.cpop _ _
  | add => exact RoundTrip.add _ _ _
  | sub => exact RoundTrip.sub _ _ _
  | sll => exact RoundTrip.sll _ _ _
  | slt => exact RoundTrip.slt _ _ _
  | sltu => exact RoundTrip.sltu _ _ _
  | xor => exact RoundTrip.xor _ _ _
  | srl => exact RoundTrip.srl _ _ _
  | sra => exact RoundTrip.sra _ _ _
  | or => exact RoundTrip.or _ _ _
  | and => exact RoundTrip.and _ _ _
  | mul => exact RoundTrip.mul _ _ _
  | mulh => exact RoundTrip.mulh _ _ _
  | mulhsu => exact RoundTrip.mulhsu _ _ _
  | mulhu => exact RoundTrip.mulhu _ _ _
  | div => exact RoundTrip.div _ _ _
  | divu => exact RoundTrip.divu _ _ _
  | rem => exact RoundTrip.rem _ _ _
  | remu => exact RoundTrip.remu _ _ _
  | min => exact RoundTrip.min _ _ _
  | minu => exact RoundTrip.minu _ _ _
  | max => exact RoundTrip.max _ _ _
  | maxu => exact RoundTrip.maxu _ _ _
  | lui => exact RoundTrip.lui _ _
  | auipc => exact RoundTrip.auipc _ _
  | beq => exact RoundTrip.beq _ _ _
  | bne => exact RoundTrip.bne _ _ _
  | blt => exact RoundTrip.blt _ _ _
  | bge => exact RoundTrip.bge _ _ _
  | bltu => exact RoundTrip.bltu _ _ _
  | bgeu => exact RoundTrip.bgeu _ _ _
  | jal => exact RoundTrip.jal _ _
  | jalr => exact RoundTrip.jalr _ _ _
  | ccall => exact RoundTrip.ccall _ _
  | cret => exact RoundTrip.cret
  | lbOffset => exact RoundTrip.lbOffset _ _ _
  | lbIndex => exact RoundTrip.lbIndex _ _ _
  | lhOffset => exact RoundTrip.lhOffset _ _ _
  | lhIndex => exact RoundTrip.lhIndex _ _ _
  | lwOffset => exact RoundTrip.lwOffset _ _ _
  | lwIndex => exact RoundTrip.lwIndex _ _ _
  | ldOffset => exact RoundTrip.ldOffset _ _ _
  | ldIndex => exact RoundTrip.ldIndex _ _ _
  | lbuOffset => exact RoundTrip.lbuOffset _ _ _
  | lbuIndex => exact RoundTrip.lbuIndex _ _ _
  | lhuOffset => exact RoundTrip.lhuOffset _ _ _
  | lhuIndex => exact RoundTrip.lhuIndex _ _ _
  | lwuOffset => exact RoundTrip.lwuOffset _ _ _
  | lwuIndex => exact RoundTrip.lwuIndex _ _ _
  | clcOffset => exact RoundTrip.clcOffset _ _ _
  | clcIndex => exact RoundTrip.clcIndex _ _ _
  | sbOffset => exact RoundTrip.sbOffset _ _ _
  | sbIndex => exact RoundTrip.sbIndex _ _ _
  | shOffset => exact RoundTrip.shOffset _ _ _
  | shIndex => exact RoundTrip.shIndex _ _ _
  | swOffset => exact RoundTrip.swOffset _ _ _
  | swIndex => exact RoundTrip.swIndex _ _ _
  | sdOffset => exact RoundTrip.sdOffset _ _ _
  | sdIndex => exact RoundTrip.sdIndex _ _ _
  | cscOffset => exact RoundTrip.cscOffset _ _ _
  | cscIndex => exact RoundTrip.cscIndex _ _ _
  | cgetb => exact RoundTrip.cgetb _ _
  | cgetx => exact RoundTrip.cgetx _ _ _
  | cgets => exact RoundTrip.cgets _ _ _
  | cgetf => exact RoundTrip.cgetf _ _ _
  | ctag => exact RoundTrip.ctag _ _
  | cidx => exact RoundTrip.cidx _ _ _
  | cslice => exact RoundTrip.cslice _ _ _ _
  | cnarrow => exact RoundTrip.cnarrow _ _ _
  | cperm => exact RoundTrip.cperm _ _
  | cwrap => exact RoundTrip.cwrap _ _ _
  | cunwrap => exact RoundTrip.cunwrap _ _
  | cmov => exact RoundTrip.cmov _ _
  | kadd => exact RoundTrip.kadd _ _
  | kaddRel => exact RoundTrip.kaddRel _ _ _
  | kmax => exact RoundTrip.kmax _ _
  | kmaxRel => exact RoundTrip.kmaxRel _ _ _
  | kread => exact RoundTrip.kread _ _
  | kwait => exact RoundTrip.kwait _ _
  | kwaitAcq => exact RoundTrip.kwaitAcq _ _ _
  | spawn => exact RoundTrip.spawn _ _
  | msend => exact RoundTrip.msend _ _ _ _
  | msendW => exact RoundTrip.msendW _ _ _
  | yield => exact RoundTrip.yield
  | fin => exact RoundTrip.fin
  | scall => exact RoundTrip.scall _ _ _
  | tblk => exact RoundTrip.tblk _
  | tublk => exact RoundTrip.tublk _
  | xcopy => exact RoundTrip.xcopy _ _ _ _
  | xgath => exact RoundTrip.xgath _ _ _ _ _
  | xscat => exact RoundTrip.xscat _ _ _ _ _
  | xfill => exact RoundTrip.xfill _ _ _ _
  | xred => exact RoundTrip.xred _ _ _ _ _
  | xcryp => exact RoundTrip.xcryp _ _ _ _ _
  | xbind => exact RoundTrip.xbind _ _ _ _ _
  | xflush => exact RoundTrip.xflush _ _ _
  | xinval => exact RoundTrip.xinval _ _ _
  | xresume => exact RoundTrip.xresume _
  | mjob => exact RoundTrip.mjob _ _ _
  | sbind => exact RoundTrip.sbind _ _ _
  | sfree => exact RoundTrip.sfree _
  | exph => exact RoundTrip.exph _ _
  | exsnd => exact RoundTrip.exsnd _ _
  | exrcv => exact RoundTrip.exrcv _ _
  | aclaim => exact RoundTrip.aclaim _ _ _
  | afree => exact RoundTrip.afree _
  | weed => exact RoundTrip.weed _ _
  | fmt => exact RoundTrip.fmt _ _ _ _ _
  | brk => exact RoundTrip.brk
  | sret => exact RoundTrip.sret
  | shalt => exact RoundTrip.shalt
  | wake => exact RoundTrip.wake _
  | ownset => exact RoundTrip.ownset _ _
  | csrwr => exact RoundTrip.csrwr _ _
  | csrrd => exact RoundTrip.csrrd _ _
  | trap => exact RoundTrip.trap _
  | fence => exact RoundTrip.fence _ _ _
  | ifence => exact RoundTrip.ifence _
  | amoadd => exact RoundTrip.amoadd _ _ _ _
  | amoswap => exact RoundTrip.amoswap _ _ _ _
  | amoxor => exact RoundTrip.amoxor _ _ _ _
  | amoor => exact RoundTrip.amoor _ _ _ _
  | amoand => exact RoundTrip.amoand _ _ _ _
  | amocas => exact RoundTrip.amocas _ _ _ _
  | amomin => exact RoundTrip.amomin _ _ _ _
  | amomax => exact RoundTrip.amomax _ _ _ _
  | amominu => exact RoundTrip.amominu _ _ _ _
  | amomaxu => exact RoundTrip.amomaxu _ _ _ _
  | vadd => exact RoundTrip.vadd _ _ _ _ _
  | vsub => exact RoundTrip.vsub _ _ _ _ _
  | vmul => exact RoundTrip.vmul _ _ _ _ _
  | vmulh => exact RoundTrip.vmulh _ _ _ _ _
  | vmin => exact RoundTrip.vmin _ _ _ _ _
  | vmax => exact RoundTrip.vmax _ _ _ _ _
  | vand => exact RoundTrip.vand _ _ _ _ _
  | vor => exact RoundTrip.vor _ _ _ _ _
  | vxor => exact RoundTrip.vxor _ _ _ _ _
  | vsll => exact RoundTrip.vsll _ _ _ _ _
  | vsr => exact RoundTrip.vsr _ _ _ _ _
  | vadc => exact RoundTrip.vadc _ _ _ _ _
  | vsbc => exact RoundTrip.vsbc _ _ _ _ _
  | vmuladc => exact RoundTrip.vmuladc _ _ _ _ _
  | vceq => exact RoundTrip.vceq _ _ _ _ _
  | vclt => exact RoundTrip.vclt _ _ _ _ _
  | vfadd => exact RoundTrip.vfadd _ _ _ _ _
  | vfsub => exact RoundTrip.vfsub _ _ _ _ _
  | vfmul => exact RoundTrip.vfmul _ _ _ _ _
  | vfma => exact RoundTrip.vfma _ _ _ _ _
  | vfnma => exact RoundTrip.vfnma _ _ _ _ _
  | vfmin => exact RoundTrip.vfmin _ _ _ _ _
  | vfmax => exact RoundTrip.vfmax _ _ _ _ _
  | vfabs => exact RoundTrip.vfabs _ _ _ _
  | vfneg => exact RoundTrip.vfneg _ _ _ _
  | vfceq => exact RoundTrip.vfceq _ _ _ _ _
  | vfclt => exact RoundTrip.vfclt _ _ _ _ _
  | vfcle => exact RoundTrip.vfcle _ _ _ _ _
  | vexp2 => exact RoundTrip.vexp2 _ _ _ _
  | vrcp => exact RoundTrip.vrcp _ _ _ _
  | vrsq => exact RoundTrip.vrsq _ _ _ _
  | vlog2 => exact RoundTrip.vlog2 _ _ _ _
  | vsel => exact RoundTrip.vsel _ _ _ _ _
  | vperm => exact RoundTrip.vperm _ _ _ _ _
  | vbcast => exact RoundTrip.vbcast _ _ _ _
  | vcle => exact RoundTrip.vcle _ _ _ _ _
  | vcne => exact RoundTrip.vcne _ _ _ _ _
  | vradd => exact RoundTrip.vradd _ _ _ _
  | vrmin => exact RoundTrip.vrmin _ _ _ _
  | vrmax => exact RoundTrip.vrmax _ _ _ _
  | vcvtInt => exact RoundTrip.vcvtInt _ _ _ _
  | vabs => exact RoundTrip.vabs _ _ _ _
  | vext => exact RoundTrip.vext _ _ _ _
  | vcvtFp => exact RoundTrip.vcvtFp _ _ _ _
  | vquant => exact RoundTrip.vquant _ _ _ _ _
  | vdeq => exact RoundTrip.vdeq _ _ _ _ _
  | vfrsum => exact RoundTrip.vfrsum _ _ _ _
  | vfrmax => exact RoundTrip.vfrmax _ _ _ _
  | vfrmin => exact RoundTrip.vfrmin _ _ _ _
  | vld => exact RoundTrip.vld _ _ _ _ _
  | vldsA1 => exact RoundTrip.vldsA1 _ _ _ _ _
  | vldsA2 => exact RoundTrip.vldsA2 _ _ _ _ _
  | vldsA3 => exact RoundTrip.vldsA3 _ _ _ _ _
  | vldg => exact RoundTrip.vldg _ _ _ _ _
  | vst => exact RoundTrip.vst _ _ _ _ _
  | vstsA1 => exact RoundTrip.vstsA1 _ _ _ _ _
  | vstsA2 => exact RoundTrip.vstsA2 _ _ _ _ _
  | vstsA3 => exact RoundTrip.vstsA3 _ _ _ _ _
  | vstg => exact RoundTrip.vstg _ _ _ _ _
  | pand => exact RoundTrip.pand _ _ _
  | por => exact RoundTrip.por _ _ _
  | pxor => exact RoundTrip.pxor _ _ _
  | pandn => exact RoundTrip.pandn _ _ _
  | pnot => exact RoundTrip.pnot _ _
  | pfromx => exact RoundTrip.pfromx _ _
  | ptox => exact RoundTrip.ptox _ _
  | pcnt => exact RoundTrip.pcnt _ _
  | _ => exact RoundTrip.of_none rfl

/-- Settles O3: the round trip of every constructor. -/
theorem encodeThenDecode : Obligations.EncodeThenDecode := RoundTrip.every

/-- Settles O5: the decoder's branches on closed words. -/
theorem decodeWords : Obligations.DecodeWords := by
  unfold Obligations.DecodeWords
  decide +kernel

end Sys2Proof.Laws
end


section
/-! Instruction fetch (O7): the conditions of R58 in their order, and the word of one line or of two. -/

namespace Sys2Proof.Machine

/-- What a passed need leaves to be tested. -/
theorem need_true_bind {α : Type} {c : BitVec 8} {d : BitVec 56} (f : Unit → Raises α) : (need true c d >>= f) = f () := rfl

/-- A failed need raises, whatever would follow. -/
theorem need_false_bind {α : Type} {c : BitVec 8} {d : BitVec 56} (f : Unit → Raises α) :
    (need false c d >>= f) = .error { cause := c, detail := d } := rfl

@[simp] theorem need_true {c : BitVec 8} {d : BitVec 56} : need true c d = .ok () := rfl

@[simp] theorem need_false {c : BitVec 8} {d : BitVec 56} : need false c d = .error { cause := c, detail := d } := rfl

/-- The fetch raises what the check of the pc raises. -/
theorem State.fetch_of_error {s : State} {k : Nat} {f : Trap} (h : checkPc (s.core k).strand = .error f) : s.fetch k = .raised f := by
  simp only [State.fetch, h]

/-- Past the check of the pc, the fetch gives the word that the cached lines hold. -/
theorem State.fetch_of_word {s : State} {k : Nat} {w : Insn} (h : checkPc (s.core k).strand = .ok ())
    (r : s.codeWord k (s.core k).strand.tenant (fetchVa (s.core k).strand) = .ok w) : s.fetch k = .word w := by
  simp only [State.fetch, h, r]

theorem State.fetch_of_miss {s : State} {k line : Nat} (h : checkPc (s.core k).strand = .ok ())
    (r : s.codeWord k (s.core k).strand.tenant (fetchVa (s.core k).strand) = .error line) : s.fetch k = .miss line := by
  simp only [State.fetch, h, r]

theorem codeForm_iff (c : Vec) : codeForm c = true ↔ cFmt c = 3 ∧ cRankm1 c = 0 ∧ cStr c 0 = 1 := by
  simp [codeForm, fInt32, and_assoc]

theorem grants_iff (c : Vec) (p : BitVec 16) : grants c p = true ↔ cPrm c &&& p = p := beq_iff_eq

section

variable {t : Strand}

/-- DETAIL of a pc that cannot be fetched from: pcc with the offset (R146). -/
def pcDetail (t : Strand) : BitVec 56 := capDetail opPcc 0 (t.pc.extractLsb' 0 48)

theorem checkPc_revoked (h : t.pcc.rev = true) : checkPc t = .error { cause := cRevoked, detail := pcDetail t } := by
  simp only [checkPc, h, Bool.not_true, need_false_bind]
  rfl

theorem checkPc_of_unrevoked (h : t.pcc.rev = false) : checkPc t = checkFetch t.pcc t.pc := by
  simp only [checkPc, h, Bool.not_false, need_true_bind]

theorem checkFetch_untagged (h : t.pcc.tag = false) : checkFetch t.pcc t.pc = .error { cause := cTag, detail := pcDetail t } := by
  simp only [checkFetch, h, need_false_bind]
  rfl

theorem checkFetch_sealed (tag : t.pcc.tag = true) (h : cOty t.pcc.img ≠ 0) :
    checkFetch t.pcc t.pc = .error { cause := cSealed, detail := pcDetail t } := by
  simp only [checkFetch, tag, beq_eq_false_iff_ne.2 h, need_true_bind, need_false_bind]
  rfl

theorem checkFetch_misformed (tag : t.pcc.tag = true) (unsealed : cOty t.pcc.img = 0) (h : codeForm t.pcc.img = false) :
    checkFetch t.pcc t.pc = .error { cause := cFormat, detail := pcDetail t } := by
  simp only [checkFetch, tag, beq_iff_eq.2 unsealed, h, need_true_bind, need_false_bind]
  rfl

theorem checkFetch_ungranted (tag : t.pcc.tag = true) (unsealed : cOty t.pcc.img = 0) (form : codeForm t.pcc.img = true)
    (h : grants t.pcc.img pExe = false) : checkFetch t.pcc t.pc = .error { cause := cPerm, detail := pcDetail t } := by
  simp only [checkFetch, tag, beq_iff_eq.2 unsealed, form, h, need_true_bind, need_false_bind]
  rfl

/-- With a pcc to fetch through, the offset decides. -/
theorem checkFetch_offset (tag : t.pcc.tag = true) (unsealed : cOty t.pcc.img = 0) (form : codeForm t.pcc.img = true)
    (exe : grants t.pcc.img pExe = true) : checkFetch t.pcc t.pc =
      need (t.pc.toNat % 4 == 0 && decide (t.pc.toNat + 4 ≤ 4 * cExt t.pcc.img 0)) cBounds (pcDetail t) := by
  simp only [checkFetch, tag, beq_iff_eq.2 unsealed, form, exe, need_true_bind]
  rfl

end

section

variable {s : State} {k t va : Nat} {l m : ILine}

theorem State.codeWord_of_miss (h : s.cached k t (va / 64) = none) : s.codeWord k t va = .error (va / 64) := by
  simp only [State.codeWord, h]

theorem State.codeWord_of_inside (h : s.cached k t (va / 64) = some l) (inside : va % 64 ≤ 60) :
    s.codeWord k t va = .ok (l.data.extractLsb' (8 * (va % 64)) 32) := by
  simp only [State.codeWord, h, if_pos inside]

theorem State.codeWord_of_nextMiss (h : s.cached k t (va / 64) = some l) (across : 60 < va % 64)
    (n : s.cached k t ((va + 3) / 64) = none) : s.codeWord k t va = .error ((va + 3) / 64) := by
  simp only [State.codeWord, h, if_neg (Nat.not_le.2 across), n]

theorem State.codeWord_of_torn (h : s.cached k t (va / 64) = some l) (across : 60 < va % 64)
    (n : s.cached k t ((va + 3) / 64) = some m) (torn : m.lead = none) : s.codeWord k t va = .error (va / 64) := by
  simp only [State.codeWord, h, if_neg (Nat.not_le.2 across), n, torn]

theorem State.codeWord_of_joined {b : BitVec 24} (h : s.cached k t (va / 64) = some l) (across : 60 < va % 64)
    (n : s.cached k t ((va + 3) / 64) = some m) (lead : m.lead = some b) :
    s.codeWord k t va = .ok ((m.data.extractLsb' 0 24 ++ b : BitVec 48).extractLsb' (8 * (va % 64 - 61)) 32) := by
  simp only [State.codeWord, h, if_neg (Nat.not_le.2 across), n, lead]

end

/-- A bit of the word that reaches from the three bytes before a line into it (R64). -/
theorem getLsbD_joined {m : Vec} {b : BitVec 24} {o i : Nat} (ho : o ≤ 2) (hi : i < 32) :
    ((m.extractLsb' 0 24 ++ b : BitVec 48).extractLsb' (8 * o) 32).getLsbD i =
      if 8 * o + i < 24 then b.getLsbD (8 * o + i) else m.getLsbD (8 * o + i - 24) := by
  have inside : 8 * o + i - 24 < 24 := by omega
  have joined := BitVec.getLsbD_append (x := m.extractLsb' 0 24) (y := b) (i := 8 * o + i)
  simp only [BitVec.getLsbD_extractLsb', hi, inside, decide_true, Bool.true_and, Nat.zero_add] at joined ⊢
  exact joined

/-- Settles O7: the first condition of R58 that fails is raised; past them the cached lines give the word or the miss. -/
theorem fetchReadsTheWordAtPc : Obligations.FetchReadsTheWordAtPc := by
  unfold Obligations.FetchReadsTheWordAtPc
  intro s k t c va d form exe
  refine ⟨fun rev => s.fetch_of_error (checkPc_revoked rev), fun rev tag => ?_, fun rev tag => ?_⟩
  · exact s.fetch_of_error ((checkPc_of_unrevoked rev).trans (checkFetch_untagged tag))
  have check := checkPc_of_unrevoked rev
  refine ⟨fun h => ?_, fun unsealed h => ?_, fun unsealed hform h => ?_, fun unsealed hform hexe => ?_⟩
  · exact s.fetch_of_error (check.trans (checkFetch_sealed tag h))
  · exact s.fetch_of_error (check.trans (checkFetch_misformed tag unsealed (Bool.eq_false_iff.2 (mt (codeForm_iff c).1 h))))
  · exact s.fetch_of_error (check.trans (checkFetch_ungranted tag unsealed ((codeForm_iff c).2 hform)
      (Bool.eq_false_iff.2 (mt (grants_iff c _).1 h))))
  have offset := check.trans (checkFetch_offset tag unsealed ((codeForm_iff c).2 hform) ((grants_iff c _).2 hexe))
  refine ⟨fun h => ?_, fun aligned bound => ?_⟩
  · refine s.fetch_of_error (offset.trans ?_)
    rw [show (t.pc.toNat % 4 == 0 && decide (t.pc.toNat + 4 ≤ 4 * cExt t.pcc.img 0)) = false by simpa using h]
    rfl
  have passed := offset.trans (by
    rw [show (t.pc.toNat % 4 == 0 && decide (t.pc.toNat + 4 ≤ 4 * cExt t.pcc.img 0)) = true by simpa using ⟨aligned, bound⟩,
      need_true])
  refine ⟨fun miss => s.fetch_of_miss passed ?_, fun l line => ⟨fun inside => s.fetch_of_word passed ?_, fun across => ?_⟩⟩
  · exact s.codeWord_of_miss miss
  · exact s.codeWord_of_inside line inside
  refine ⟨fun miss => s.fetch_of_miss passed ?_, fun m next => ⟨fun torn => s.fetch_of_miss passed ?_, fun b lead => ?_⟩⟩
  · exact s.codeWord_of_nextMiss line across miss
  · exact s.codeWord_of_torn line across next torn
  · exact ⟨_, s.fetch_of_word passed (s.codeWord_of_joined line across next lead), fun i hi => getLsbD_joined (by omega) hi⟩

end Sys2Proof.Machine
end


section
/-! The step (O6): what the clocks leave of the core that has the turn, and the instruction that it then executes. -/

namespace Sys2Proof.Machine

/-- The clocks move; cores, tenants and the rest of the part stand. -/
theorem State.advanceTo_cores (s : State) (n : Nat) : (s.advanceTo n).cores = s.cores := by
  unfold State.advanceTo
  split <;> rfl

theorem State.advanceTo_tenants (s : State) (n : Nat) : (s.advanceTo n).tenants = s.tenants := by
  unfold State.advanceTo
  split <;> rfl

/-- A core of the state whose turn is taken is the core of the state before. -/
theorem State.core_turn (s : State) (n k : Nat) : (s.popTurn.advanceTo n).core k = s.core k := by
  simp only [State.core, State.advanceTo_cores, State.popTurn]

/-- A fetch depends on the cores and the tenant table alone. -/
theorem State.fetch_congr {s u : State} (hc : u.cores = s.cores) (ht : u.tenants = s.tenants) (k : Nat) : u.fetch k = s.fetch k := by
  unfold State.fetch State.codeWord State.cached State.gen State.tenant State.core
  rw [hc, ht]

theorem State.fetch_turn (s : State) (n k : Nat) : (s.popTurn.advanceTo n).fetch k = s.fetch k :=
  State.fetch_congr (s.popTurn.advanceTo_cores n) (s.popTurn.advanceTo_tenants n) k

/-- With nothing due before it, the next turn's actor acts once the clocks stand at its c-cycle. -/
theorem step_of_turn {s : State} (d : s.due (s.turnCycle s.nextTurn) = none) :
    step s = act s.nextTurn.actor (s.popTurn.advanceTo (s.turnCycle s.nextTurn)) := by
  unfold step
  dsimp only
  rw [d]

/-- A core executes the instruction that its fetched word decodes to, where no pre-emption takes the boundary (R429). -/
theorem State.coreInstr_of_word {s : State} {k : Nat} {w : Insn} {i : Instr} (hw : (s.core k).waiting = false)
    (hp : s.preemptDue k = true → (s.core k).inPhase = true) (hf : s.fetch k = .word w) (hd : decode w = .ok i) :
    s.coreInstr k = i := by
  have free : ¬ (s.preemptDue k && (s.core k).phase == .none) = true := by
    rw [Bool.and_eq_true, beq_iff_eq]
    rintro ⟨due, none⟩
    have inside := hp due
    rw [Core.inPhase, none] at inside
    exact absurd inside (by decide)
  simp only [State.coreInstr, hw, if_neg free, State.nextInstr, hf, hd]

/-- A core whose instruction waits resident goes on with it, whatever is asked of it (R430). -/
theorem State.coreInstr_of_waiting {s : State} {k : Nat} {i : Instr} (hw : (s.core k).waiting = true)
    (hi : (s.core k).inExec = some i) : s.coreInstr k = i := by
  simp only [State.coreInstr, hw, hi]

section

variable {k : Nat} {s : State} {i : Instr} (hr : (s.core k).runs = true) (hi : s.coreInstr k = i)
include hr hi

/-- A core's turn executes its instruction where no exception of it stands. -/
theorem stepCore_executes (ht : (if (s.core k).waiting then (s.core k).trap else none) = none) :
    stepCore k s = match exec i (s.atCore k i) with
      | .next u => .next (u.afterIssue k i ((s.atCore k i).latency k (timing i)) ((s.atCore k i).core k) (s.atCore k i).cycle)
      | .fault r => .fault r
      | .refused r => .refused r := by
  unfold stepCore
  dsimp only
  rw [if_pos hr, hi, ht] <;> rfl

/-- A core whose waiting instruction has raised takes the exception (R13, R218). -/
theorem stepCore_takes {f : Trap} (hw : (s.core k).waiting = true) (ht : (s.core k).trap = some f) :
    stepCore k s = .next (((s.atCore k i).takeTrap f).afterIssue k i ((s.atCore k i).latency k (timing i)) ((s.atCore k i).core k)
      (s.atCore k i).cycle) := by
  unfold stepCore
  dsimp only
  rw [if_pos hr, hi, if_pos hw, ht]

end

/-- Settles O6: the turn of a running core is its `stepCore`, whose instruction is the decoded or the resident one. -/
theorem stepRunsTheDecodedInstruction : Obligations.StepRunsTheDecodedInstruction := by
  intro s t n due
  have turn : step s = act t.actor (s.popTurn.advanceTo n) := step_of_turn due
  have core (k : Nat) : (s.popTurn.advanceTo n).core k = s.core k := s.core_turn n k
  refine ⟨fun k i actor runs => ?_, fun i actor event => ?_⟩
  · have runs' : ((s.popTurn.advanceTo n).core k).runs = true := by rw [core, runs]
    have turn' : step s = stepCore k (s.popTurn.advanceTo n) := by rw [turn, actor, act]
    refine ⟨fun w free preempt word decoded => ?_, fun waits resident => ?_⟩
    · have word' : (s.popTurn.advanceTo n).fetch k = .word w := (s.fetch_turn n k).trans word
      have instr := State.coreInstr_of_word ((congrArg Core.waiting (core k)).trans free)
        (fun d => (congrArg Core.inPhase (core k)).trans (preempt d)) word' decoded
      refine ⟨word', turn'.trans (stepCore_executes runs' instr ?_)⟩
      rw [core, free]
      rfl
    · have waits' : ((s.popTurn.advanceTo n).core k).waiting = true := by rw [core, waits]
      have instr := State.coreInstr_of_waiting waits' (by rw [core, resident])
      refine ⟨fun clear => turn'.trans (stepCore_executes runs' instr ?_), fun f raised => turn'.trans (stepCore_takes runs' instr waits' ?_)⟩
      · rw [if_pos waits', core, clear]
      · rw [core, raised]
  · rw [turn, actor, act, if_pos event]

end Sys2Proof.Machine
end


section
/-! TRAP, BRK (O33) and the instructions of the service side (O34). -/

namespace Sys2Proof.Machine

/-- A strand that executes an instruction of the service pair takes PRIV (R51). -/
theorem State.runService_of_strand {s : State} {i : Instr} (a : s.agent = .strand) (f : Nat → Pair → Out) :
    s.runService i f = .next (s.takeTrap { cause := cPriv, detail := wordDetail i }) := by
  unfold State.runService
  rw [a]
  exact State.runAny_error a rfl

/-- Settles O33: each of the six is a frame whose body only raises. -/
theorem trapAndBreak : Obligations.TrapAndBreak := by
  intro s code a b agent
  refine ⟨fun clear => ?_, ?_, State.runService_of_strand agent _, State.runService_of_strand agent _,
    State.runService_of_strand agent _, ?_⟩
  · change execTrap code s = _
    exact State.run_error ⟨agent, clear⟩ rfl
  · change execBrk s = _
    exact State.runAny_error agent rfl
  · change execOwnset a b s = _
    unfold execOwnset
    rw [agent]
    exact State.runAny_error agent rfl

/-! ### The service pair -/

/-- The pair just written is read back, on either die. -/
theorem State.pair_setPair {s : State} {die : Nat} (p : Pair) (hd : die < 2) : (s.setPair die p).pair die = p := by
  simp [State.pair, State.setPair, hd]

/-- The service registers are the numbers 0x800 to 0x8FF, by their low eight bits (R142). -/
theorem isServiceCsr_append (n : BitVec 8) : isServiceCsr (0x8#4 ++ n) = true := by
  have high : (0x8#4 ++ n).extractLsb' 8 4 = 0x8#4 := BitVec.extractLsb'_append_eq_left
  rw [isServiceCsr, high]
  rfl

section

variable {s : State} {die : Nat} (agent : s.agent = .service die) (running : (s.pair die).halted = false)
include agent running

/-- A service pair that fetches executes its instruction. -/
theorem State.runService_of_pair {i : Instr} (f : Nat → Pair → Out) : s.runService i f = f die (s.pair die) := by
  unfold State.runService
  rw [agent]
  dsimp only
  rw [State.byPair, running]
  rfl

theorem exec_wake_pair (a : XReg) : exec (.wake a) s =
    if ((s.pair die).getX a).extractLsb' 10 54 != 0 then .next (s.setPair die ((s.pair die).raises cIllegal))
    else .next ((s.setPair die (s.pair die).next).updCore (((s.pair die).getX a).extractLsb' 0 10).toNat
      fun c => { c with rescan := true }) :=
  State.runService_of_pair agent running _

/-- The pair reads a service register by the low eight bits of its number (R142). -/
theorem exec_csrrd_pair (d : XReg) (n : BitVec 8) : exec (.csrrd d (0x8#4 ++ n)) s =
    .next (s.setPair die ((s.pair die).setX d (Table.get (s.pair die).regs n.toNat 0)).next) := by
  have low : (0x8#4 ++ n).extractLsb' 0 8 = n := BitVec.extractLsb'_append_eq_right
  change execCsrrd d _ s = _
  unfold execCsrrd
  rw [agent]
  dsimp only
  rw [State.byPair, running, if_pos (isServiceCsr_append n), low]
  rfl

theorem exec_csrwr_pair (a : XReg) (n : BitVec 8) : exec (.csrwr (0x8#4 ++ n) a) s =
    .next (s.setPair die { (s.pair die) with regs := Table.set (s.pair die).regs n.toNat ((s.pair die).getX a) }.next) := by
  have low : (0x8#4 ++ n).extractLsb' 0 8 = n := BitVec.extractLsb'_append_eq_right
  change execCsrwr _ a s = _
  unfold execCsrwr
  rw [agent]
  dsimp only
  rw [State.byPair, running, if_pos (isServiceCsr_append n), low]
  rfl

theorem exec_ownset_pair (a b : XReg) : exec (.ownset a b) s = .next ((s.setPair die (s.pair die).next).logAt 0x0A (BitVec.ofNat 8 die)
    (((s.pair die).getX a).extractLsb' 0 10 |>.setWidth 16) none ((s.pair die).getX a) 0) := by
  change execOwnset a b s = _
  unfold execOwnset
  rw [agent]
  dsimp only
  rw [State.byPair, running]
  rfl

end

/-- A log entry changes neither cores nor memory; one of no tenant is in the package's log too (R471). -/
theorem State.logAt_package (s : State) (kind die : BitVec 8) (unit : BitVec 16) (addr arg : Word) :
    (s.logAt kind die unit none addr arg).cores = s.cores ∧ (s.logAt kind die unit none addr arg).mem = s.mem ∧
      (s.logAt kind die unit none addr arg).pkgLog.length = s.pkgLog.length + 1 :=
  ⟨rfl, rfl, List.length_append⟩

@[simp] theorem Pair.setX_pc (p : Pair) (r : XReg) (v : Word) : (p.setX r v).pc = p.pc := by
  unfold Pair.setX
  split <;> rfl

/-- The bits from n on of a word are zero exactly where its value lies below 2^n. -/
theorem extractLsb'_ten_eq_zero_iff (x : Word) : x.extractLsb' 10 54 = 0 ↔ x.toNat < 1024 := by
  rw [← BitVec.toNat_inj, BitVec.extractLsb'_toNat]
  have : x.toNat < 2 ^ 64 := x.isLt
  simp only [Nat.shiftRight_eq_div_pow, BitVec.ofNat_eq_ofNat, BitVec.toNat_ofNat]
  omega

/-! ### OWNSET of the Curator -/

/-- An unlocked value is always allowed. -/
theorem State.ownOk_of_unlocked (s : State) (k : Nat) {w : Word} (h : w.getLsbD 63 = false) : s.ownOk k w = true := by
  simp only [State.ownOk, ownLock, h, Bool.not_false, Bool.true_or]

theorem State.setOwner_owner (s : State) (k : Nat) (w : Word) : ((s.setOwner k w).core k).owner = w := by
  have : (s.setOwner k w).core k = (s.updCore k fun c => { c with owner := w }).core k := by
    unfold State.setOwner
    dsimp only
    split <;> rfl
  rw [this, State.core_updCore_self]

theorem State.setOwner_core_ne (s : State) {j k : Nat} (w : Word) (h : j ≠ k) : (s.setOwner k w).core j = s.core j := by
  have : (s.setOwner k w).core j = (s.updCore k fun c => { c with owner := w }).core j := by
    unfold State.setOwner
    dsimp only
    split <;> rfl
  rw [this, State.core_updCore_ne _ _ h]

theorem State.setOwner_mem (s : State) (k : Nat) (w : Word) : (s.setOwner k w).mem = s.mem := by
  unfold State.setOwner
  dsimp only
  split <;> rfl

theorem State.setOwner_tenants_of_locked (s : State) (k : Nat) {w : Word} (h : w.getLsbD 63 = true) :
    (s.setOwner k w).tenants = s.tenants := by
  have locked : ownLock w = true := h
  unfold State.setOwner
  dsimp only
  rw [if_pos locked]
  rfl

/-- An entry mapped by a function of its index and value is that function of the entry. -/
theorem Table.get_map {α : Type} (t : Table α) (k : Nat) (d : α) (f : Nat → α → α) (hd : f k d = d) :
    Table.get (t.map fun e => (e.1, f e.1 e.2)) k d = f k (Table.get t k d) := by
  induction t with
  | nil => exact hd.symm
  | cons e r ih =>
    obtain ⟨i, a⟩ := e
    simp only [List.map_cons, Table.get]
    split
    next h => rw [h]
    next => exact ih

/-- Where LOCK is cleared, CONF of every tenant whose nodes hold the core falls (R401). -/
theorem State.setOwner_conf (s : State) {t k : Nat} {w : Word} (h : w.getLsbD 63 = false) (hold : s.inNodes t k = true) :
    ((s.setOwner k w).tenant t).conf = false := by
  have tenants : (s.setOwner k w).tenants =
      s.tenants.map fun e => (e.1, if s.inNodes e.1 k then { e.2 with conf := false } else e.2) := by
    have unlocked : ¬ ownLock w = true := by rw [ownLock, h]; decide
    unfold State.setOwner
    dsimp only
    rw [if_neg unlocked]
    rfl
  rw [State.tenant, tenants,
    Table.get_map s.tenants t {} (fun i e => if s.inNodes i k then { e with conf := false } else e) (if_pos hold), if_pos hold]

/-- The Curator of a die past its instruction. -/
def State.pastCurator (s : State) (die : Nat) : State :=
  let c := (s.service.curators[die]?).getD {}
  { s with service := { s.service with curators := s.service.curators.set! die { c with pc := c.pc + 4 } } }

/-- What the Curator of a die reads of a register; x0 reads as zero. -/
def State.curatorX (s : State) (die : Nat) (r : XReg) : Word :=
  if r = 0 then 0 else ((s.service.curators[die]?).getD {}).x[r.toNat]

theorem exec_ownset_curator {s : State} {die : Nat} (agent : s.agent = .curator die) (a b : XReg) :
    exec (.ownset a b) s = .next
      (if s.ownOk ((s.curatorX die a).toNat % 1024) (s.curatorX die b &&& ownMask) = true then
        (s.pastCurator die).setOwner ((s.curatorX die a).toNat % 1024) (s.curatorX die b &&& ownMask)
      else s.pastCurator die) := by
  have low (x : Word) : (x.extractLsb' 0 10).toNat = x.toNat % 1024 := by simp [BitVec.extractLsb'_toNat]
  change execOwnset a b s = _
  unfold execOwnset
  split
  next h => exact nomatch agent.symm.trans h
  next h => exact nomatch agent.symm.trans h
  next h =>
    obtain rfl := Agent.curator.inj (agent.symm.trans h)
    dsimp only
    rw [low]
    rfl

/-! ### The obligation -/

/-- WAKE of a core has it scan again, and changes no other. -/
theorem wake_of_core {s : State} {die : Nat} (hd : die < 2) (agent : s.agent = .service die) (running : (s.pair die).halted = false)
    {a : XReg} (named : ((s.pair die).getX a).toNat < 1024) :
    ∃ s', exec (.wake a) s = .next s' ∧ s'.pair die = { s.pair die with pc := (s.pair die).pc + 4 } ∧
      s'.core ((s.pair die).getX a).toNat = { s.core ((s.pair die).getX a).toNat with rescan := true } ∧
      (∀ j, j ≠ ((s.pair die).getX a).toNat → s'.core j = s.core j) ∧ s'.mem = s.mem := by
  have zero := (extractLsb'_ten_eq_zero_iff _).2 named
  have low : (((s.pair die).getX a).extractLsb' 0 10).toNat = ((s.pair die).getX a).toNat := by
    simp [BitVec.extractLsb'_toNat, Nat.mod_eq_of_lt named]
  rw [exec_wake_pair agent running, if_neg (by simp [zero]), low]
  exact ⟨_, rfl, State.pair_setPair _ hd, State.core_updCore_self .., fun j hj => State.core_updCore_ne _ _ hj, rfl⟩

/-- WAKE of anything else is an exception of the pair (log 8). -/
theorem wake_raises {s : State} {die : Nat} (hd : die < 2) (agent : s.agent = .service die) (running : (s.pair die).halted = false)
    {a : XReg} (outside : 1024 ≤ ((s.pair die).getX a).toNat) :
    ∃ s', exec (.wake a) s = .next s' ∧ s'.cores = s.cores ∧ s'.mem = s.mem ∧ (s'.pair die).x = (s.pair die).x ∧
      (s'.pair die).pc = Config.handler ∧ Table.get (s'.pair die).regs Config.sretReg.toNat 0 = (s.pair die).pc := by
  have nonzero : ((s.pair die).getX a).extractLsb' 10 54 ≠ 0 := fun z =>
    absurd ((extractLsb'_ten_eq_zero_iff _).1 z) (Nat.not_lt.2 outside)
  rw [exec_wake_pair agent running, if_pos (by simpa using nonzero)]
  refine ⟨_, rfl, rfl, rfl, ?_⟩
  rw [State.pair_setPair _ hd]
  exact ⟨rfl, rfl, Table.get_set_self ..⟩

/-- OWNSET of the Curator: the owner register where the value is allowed, and CONF where LOCK is cleared. -/
theorem ownset_of_curator {s : State} {die : Nat} (agent : s.agent = .curator die) (a b : XReg) {k : Nat} {w : Word}
    (hk : k = (s.curatorX die a).toNat % 1024) (hw : w = s.curatorX die b &&& ownMask) :
    ∃ s', exec (.ownset a b) s = .next s' ∧ s'.mem = s.mem ∧
      (s'.core k).owner = (if s.ownOk k w = true then w else (s.core k).owner) ∧
      (w.getLsbD 63 = false → ∀ t, s.inNodes t k = true → (s'.tenant t).conf = false) ∧
      ((w.getLsbD 63 = true ∨ s.ownOk k w = false) → s'.tenants = s.tenants) ∧ ∀ j, j ≠ k → s'.core j = s.core j := by
  refine ⟨_, exec_ownset_curator agent a b, ?_⟩
  rw [← hk, ← hw]
  by_cases ok : s.ownOk k w = true
  · simp only [if_pos ok]
    refine ⟨State.setOwner_mem .., State.setOwner_owner .., fun clear t hold => State.setOwner_conf _ clear hold, fun h => ?_,
      fun j hj => State.setOwner_core_ne _ _ hj⟩
    have locked := h.resolve_right (by simp [ok])
    exact State.setOwner_tenants_of_locked _ _ locked
  · simp only [if_neg ok]
    exact ⟨rfl, rfl, fun clear => absurd (s.ownOk_of_unlocked k clear) ok, fun _ => rfl, fun j _ => rfl⟩

/-- Settles O34: the instructions of a service pair that fetches, then OWNSET of a Curator. -/
theorem serviceInstructions : Obligations.ServiceInstructions := by
  intro s die a b d n hd p reg
  refine ⟨fun agent running => ?_, fun agent => ownset_of_curator agent a b rfl rfl⟩
  refine ⟨State.runService_of_pair agent running _, State.runService_of_pair agent running _, wake_of_core hd agent running,
    wake_raises hd agent running, ?_, ?_, ?_⟩
  · rw [exec_csrrd_pair agent running, Pair.next, Pair.setX_pc]
  · refine ⟨_, exec_csrwr_pair agent running a n, ?_⟩
    rw [State.pair_setPair _ hd]
    exact ⟨Table.get_set_self .., rfl⟩
  · exact ⟨_, exec_ownset_pair agent running a b, State.logAt_package ..⟩

end Sys2Proof.Machine
end


section
/-! FMT, and the instructions that refuse a pending prefix (O31): each frame of execution refuses it, and every such instruction
runs in one of the frames. -/

namespace Sys2Proof.Machine

/-! ### FMT -/

/-- The bits of a word after a field was written. -/
theorem getLsbD_putBits {m n lo i : Nat} (w : BitVec m) (x : BitVec n) (hi : i < m) :
    (putBits w lo x).getLsbD i = if lo ≤ i ∧ i < lo + n then x.getLsbD (i - lo) else w.getLsbD i := by
  simp only [putBits, BitVec.getLsbD_or, BitVec.getLsbD_and, BitVec.getLsbD_not, BitVec.getLsbD_shiftLeft, BitVec.getLsbD_setWidth,
    BitVec.getLsbD_allOnes, hi, decide_true, Bool.true_and]
  by_cases below : i < lo
  · simp [below, Nat.not_le.2 below]
  · by_cases inside : i < lo + n
    · have : i - lo < n := by omega
      have : i - lo < m := by omega
      simp [*, Nat.not_lt.1 below]
    · have out : x.getLsbD (i - lo) = false := BitVec.getLsbD_of_ge _ _ (by omega)
      have beyond : ¬ i - lo < n := by omega
      simp [below, inside, out, beyond]

/-- STATUS with a prefix pending: PP is set and PREFIX holds the bits given (R53). -/
theorem getLsbD_pendingStatus (st : Word) (p : BitVec 25) {b : Nat} (hb : b < 64) :
    (setPrefix (setPP st true) p).getLsbD b =
      if b = 37 then true else if 12 ≤ b ∧ b < 37 then p.getLsbD (b - 12) else st.getLsbD b := by
  rw [setPrefix, getLsbD_putBits _ _ hb, setPP, putBit, getLsbD_putBits _ _ hb]
  by_cases h37 : b = 37
  · subst h37
    rfl
  · have : ¬ (37 ≤ b ∧ b < 37 + 1) := by omega
    simp only [this, h37, if_false, show 12 + 25 = 37 from rfl]

/-- The F form is the row of its fields (02 R53). -/
theorem packF_append (fa fb : BitVec 5) (rm : BitVec 3) (sat : BitVec 2) (fd : BitVec 5) :
    packF fa fb rm sat fd = fa ++ fb ++ 0#2 ++ rm ++ sat ++ 0b111#3 ++ fd ++ 0x7B#7 := by
  apply BitVec.eq_of_getLsbD_eq
  intro i hi
  simp only [packF, packA, BitVec.getLsbD_append, BitVec.getLsbD_extractLsb']
  grind

theorem fmtOk_iff (f : BitVec 5) : fmtOk f = true ↔ f.toNat ≤ 16 ∨ f = 31 := by
  rw [fmtOk, Bool.or_eq_true, decide_eq_true_iff, beq_iff_eq]

/-- What FMT asks of its codes (R53). -/
theorem fmtCodes_iff (fd fa fb : BitVec 5) (rm : BitVec 3) (sat : BitVec 2) :
    (fmtOk fa && fmtOk fb && fmtOk fd && decide (rm.toNat ≤ 4) && sat != 3) = true ↔
      (fa.toNat ≤ 16 ∨ fa = 31) ∧ (fb.toNat ≤ 16 ∨ fb = 31) ∧ (fd.toNat ≤ 16 ∨ fd = 31) ∧ rm.toNat ≤ 4 ∧ sat ≠ 3 := by
  simp only [Bool.and_eq_true, fmtOk_iff, decide_eq_true_iff, bne_iff_ne, and_assoc]

/-- FMT of codes that exist makes its word the pending prefix (R53). -/
theorem fmt_pends {s : State} (plain : s.plain) {fd fa fb : BitVec 5} {rm : BitVec 3} {sat : BitVec 2}
    (ok : (fmtOk fa && fmtOk fb && fmtOk fd && decide (rm.toNat ≤ 4) && sat != 3) = true) :
    Completes (.fmt fd fa fb rm sat) s { s.strand with
      status := setPrefix (setPP s.strand.status true) ((packF fa fb rm sat fd).extractLsb' 7 25) } := by
  change execFmt fd fa fb rm sat s = _
  refine State.run_ok plain ?_
  rw [ok]
  rfl

/-- FMT of any other codes raises PREFIX_INVALID. -/
theorem fmt_refuses {s : State} (plain : s.plain) {fd fa fb : BitVec 5} {rm : BitVec 3} {sat : BitVec 2}
    (bad : (fmtOk fa && fmtOk fb && fmtOk fd && decide (rm.toNat ≤ 4) && sat != 3) = false) :
    Traps (.fmt fd fa fb rm sat) s 0x02 ((packF fa fb rm sat fd).setWidth 56) := by
  change execFmt fd fa fb rm sat s = _
  refine State.run_error plain ?_
  rw [bad]
  rfl

/-! ### The frames refuse a prefix -/

/-- An unbound strand has no bound register. -/
theorem State.boundOf_of_unbound {s : State} (unbound : s.unbound) (r : VReg) : s.strand.boundOf r = none := by
  unfold Strand.boundOf
  split
  · rfl
  · exact unbound ⟨_, (r.extractLsb' 0 3).isLt⟩

/-- Executed with a prefix pending and no register bound, i raises PREFIX_INVALID with its word (R54). -/
def RefusesPrefix (i : Instr) : Prop := ∀ s : State, s.agent = .strand → s.unbound → stPP s.strand.status = true →
  exec i s = .next (s.takeTrap { cause := cPrefix, detail := wordDetail i })

namespace RefusesPrefix

variable {i : Instr}

theorem run (h : ∃ f, ∀ s, exec i s = s.run i f) : RefusesPrefix i := by
  intro s agent _ pending
  obtain ⟨f, h⟩ := h
  rw [h, State.run_prefix agent pending]

/-- In the vector unit no bound destination comes before the prefix. -/
theorem vec (h : ∃ srcs dsts f, ∀ s, exec i s = s.runVec i srcs dsts noPrefix f) : RefusesPrefix i := by
  intro s agent unbound pending
  obtain ⟨srcs, dsts, f, h⟩ := h
  have free : (dsts.all fun r => (s.strand.boundOf r).isNone) = true :=
    List.all_eq_true.2 fun r _ => by rw [State.boundOf_of_unbound unbound]; rfl
  rw [h, State.runVec]
  refine State.runAny_error agent ?_
  dsimp only
  rw [free, pending]
  rfl

theorem vld (h : ∃ kind ew d a m pg, ∀ s, exec i s = s.runVld i kind ew d a m pg) : RefusesPrefix i := by
  intro s agent unbound pending
  obtain ⟨kind, ew, d, a, m, pg, h⟩ := h
  rw [h, State.runVld]
  refine State.runAny_error agent ?_
  rw [State.boundOf_of_unbound unbound, pending]
  rfl

theorem vst (h : ∃ kind ew v a m pg, ∀ s, exec i s = s.runVst i kind ew v a m pg) : RefusesPrefix i := by
  intro s agent _ pending
  obtain ⟨kind, ew, v, a, m, pg, h⟩ := h
  rw [h, State.runVst]
  refine State.runAny_error agent ?_
  rw [pending]
  rfl

theorem exrcv (d : VReg) (a : XReg) : RefusesPrefix (.exrcv d a) := by
  intro s agent unbound pending
  change execExrcv d a s = _
  refine State.runAny_error agent ?_
  dsimp only
  rw [State.boundOf_of_unbound unbound, pending]
  rfl

/-- A register that is no service register is not reached under a prefix (R54, R142). -/
theorem csrrd {d : XReg} {n : BitVec 12} (strands : isServiceCsr n = false) : RefusesPrefix (.csrrd d n) := by
  intro s agent _ pending
  change execCsrrd d n s = _
  unfold execCsrrd
  rw [agent]
  refine State.runAny_error agent ?_
  rw [strands, pending]
  rfl

theorem csrwr {a : XReg} {n : BitVec 12} (strands : isServiceCsr n = false) : RefusesPrefix (.csrwr n a) := by
  intro s agent _ pending
  change execCsrwr n a s = _
  unfold execCsrwr
  rw [agent]
  refine State.runAny_error agent ?_
  rw [strands, pending]
  rfl

/-- Every instruction of 02 R54 runs in a frame that refuses: no other is named by `refusesPrefix`, and no event has a word. -/
theorem of_refusesPrefix : ∀ i, refusesPrefix i = true → RefusesPrefix i
  | .addi .., _ | .slti .., _ | .sltiu .., _ | .xori .., _ | .ori .., _ | .andi .., _ | .slli .., _ | .srli .., _ | .srai .., _
  | .clz .., _ | .ctz .., _ | .cpop .., _ | .add .., _ | .sub .., _ | .sll .., _ | .slt .., _ | .sltu .., _ | .xor .., _
  | .srl .., _ | .sra .., _ | .or .., _ | .and .., _ | .mul .., _ | .mulh .., _ | .mulhsu .., _ | .mulhu .., _ | .div .., _
  | .divu .., _ | .rem .., _ | .remu .., _ | .min .., _ | .minu .., _ | .max .., _ | .maxu .., _ | .lui .., _ | .auipc .., _
  | .beq .., _ | .bne .., _ | .blt .., _ | .bge .., _ | .bltu .., _ | .bgeu .., _ | .jal .., _ | .jalr .., _ | .ccall .., _
  | .lbOffset .., _ | .lbIndex .., _ | .lhOffset .., _ | .lhIndex .., _ | .lwOffset .., _ | .lwIndex .., _ | .ldOffset .., _
  | .ldIndex .., _ | .lbuOffset .., _ | .lbuIndex .., _ | .lhuOffset .., _ | .lhuIndex .., _ | .lwuOffset .., _ | .lwuIndex .., _
  | .clcOffset .., _ | .clcIndex .., _ | .sbOffset .., _ | .sbIndex .., _ | .shOffset .., _ | .shIndex .., _ | .swOffset .., _
  | .swIndex .., _ | .sdOffset .., _ | .sdIndex .., _ | .cscOffset .., _ | .cscIndex .., _ | .cgetb .., _ | .cgetx .., _
  | .cgets .., _ | .cgetf .., _ | .ctag .., _ | .cidx .., _ | .cslice .., _ | .cnarrow .., _ | .cperm .., _ | .cwrap .., _
  | .cunwrap .., _ | .cmov .., _ | .kadd .., _ | .kaddRel .., _ | .kmax .., _ | .kmaxRel .., _ | .kread .., _ | .kwait .., _
  | .kwaitAcq .., _ | .spawn .., _ | .msend .., _ | .msendW .., _ | .scall .., _ | .tblk .., _ | .tublk .., _ | .xcopy .., _
  | .xgath .., _ | .xscat .., _ | .xfill .., _ | .xred .., _ | .xcryp .., _ | .xbind .., _ | .xflush .., _ | .xinval .., _
  | .xresume .., _ | .mjob .., _ | .sbind .., _ | .sfree .., _ | .exph .., _ | .exsnd .., _ | .aclaim .., _ | .afree .., _
  | .weed .., _ | .fmt .., _ | .trap .., _ | .fence .., _ | .ifence .., _ | .amoadd .., _ | .amoswap .., _ | .amoxor .., _
  | .amoor .., _ | .amoand .., _ | .amocas .., _ | .amomin .., _ | .amomax .., _ | .amominu .., _ | .amomaxu .., _ | .pand .., _
  | .por .., _ | .pxor .., _ | .pandn .., _ | .pnot .., _ | .pfromx .., _ | .ptox .., _ | .pcnt .., _ | .cret .., _
  | .yield .., _ | .fin .., _ => run ⟨_, fun _ => rfl⟩
  | .vadd .., _ | .vsub .., _ | .vmul .., _ | .vmulh .., _ | .vmin .., _ | .vmax .., _ | .vand .., _ | .vor .., _ | .vxor .., _
  | .vsll .., _ | .vsr .., _ | .vadc .., _ | .vsbc .., _ | .vmuladc .., _ | .vceq .., _ | .vclt .., _ | .vsel .., _
  | .vperm .., _ | .vbcast .., _ | .vcle .., _ | .vcne .., _ | .vradd .., _ | .vrmin .., _ | .vrmax .., _ | .vabs .., _
  | .vext .., _ => vec ⟨_, _, _, fun _ => rfl⟩
  | .vld .., _ | .vldsA1 .., _ | .vldsA2 .., _ | .vldsA3 .., _ | .vldg .., _ => vld ⟨_, _, _, _, _, _, fun _ => rfl⟩
  | .vst .., _ | .vstsA1 .., _ | .vstsA2 .., _ | .vstsA3 .., _ | .vstg .., _ => vst ⟨_, _, _, _, _, _, fun _ => rfl⟩
  | .exrcv d a, _ => exrcv d a
  | .csrrd .., h => csrrd (Bool.not_eq_true' _ ▸ h)
  | .csrwr .., h => csrwr (Bool.not_eq_true' _ ▸ h)
  | .wake .., h | .ownset .., h | .vfadd .., h | .vfsub .., h | .vfmul .., h | .vfma .., h | .vfnma .., h | .vfmin .., h
  | .vfmax .., h | .vfabs .., h | .vfneg .., h | .vfceq .., h | .vfclt .., h | .vfcle .., h | .vexp2 .., h | .vrcp .., h
  | .vrsq .., h | .vlog2 .., h | .vcvtInt .., h | .vcvtFp .., h | .vquant .., h | .vdeq .., h | .vfrsum .., h | .vfrmax .., h
  | .vfrmin .., h | .illegalInsnWord .., h | .postedStoreAccept .., h | .coreDrainComplete .., h | .farAccessComplete .., h
  | .tlbWalkComplete .., h | .fetchLineFill .., h | .streamStripArrival .., h | .pageRequestGroupResponse .., h
  | .atsInvalidateRequest .., h | .engineTurn .., h | .counterOperationApply .., h | .spilledWaiterReadComplete .., h
  | .hostCellPoll .., h | .hostReadCompletion .., h | .hostAtomicCompletion .., h | .dispatchChoose .., h
  | .dispatchLoadComplete .., h | .preemptRequest .., h | .preemption .., h | .launchDoorbell .., h | .launchSlot .., h
  | .ingestFlit .., h | .ingestHeldRecord .., h | .exchangeArmed .., h | .phaseStart .., h | .phaseTimeout .., h
  | .exchangeVectorArrival .., h | .kstepBoundary .., h | .serviceCall .., h | .resetGenerationAdvance .., h
  | .mediatedCompletion .., h | .faultReportAnswer .., h | .partitionRestore .., h | .partitionSwapOut .., h
  | .partitionModeChange .., h | .mappingShootdown .., h | .vaultBlockAssign .., h | .programLoad .., h | .adapterSlotAllot .., h
  | .nodeSplit .., h | .nodeMerge .., h | .nodeAllot .., h | .nodeShare .., h | .nodeRelease .., h | .nodeLock .., h
  | .nodeUnlock .., h | .functionLevelReset .., h | .vfEnableSet .., h | .serviceTenantReset .., h | .bringUp .., h
  | .apertureMemoryRead .., h | .apertureMemoryWrite .., h | .apertureAtomicop .., h | .counterApertureFetchadd .., h
  | .mailboxDoorbell .., h | .moheadWrite .., h | .qerrClear .., h | .bar0RegisterWrite .., h | .portModeWrite .., h
  | .binderrClear .., h | .plimitWrite .., h | .lockInterfaceRequest .., h | .startInterfaceRequest .., h
  | .stopInterfaceRequest .., h | .quiesce .., h | .unquiesce .., h | .tdiConfigWrite .., h | .ideTlpFailure .., h
  | .ideKeyProgram .., h | .kSetGo .., h | .spdmRequest .., h | .powerStateD3hot .., h | .powerStateD0 .., h
  | .firmwareActivation .., h | .writeFlit .., h | .caddFlit .., h | .cmaxFlit .., h | .creadFlit .., h | .cwatchFlit .., h
  | .cansFlit .., h | .abortFlit .., h | .linkctlFlit .., h | .idleFlit .., h | .flitReceiveError .., h | .linkUp .., h
  | .linkDown .., h | .linkRekey .., h | .powerSample .., h | .priEnableWrite .., h | .atomicopRequesterEnableWrite .., h
  | .brk .., h | .sret .., h | .shalt .., h | .engineDeficitRaise .., h | .dispatchDeficitRaise .., h | .matrixDeficitRaise .., h
  | .sweepMark .., h | .sweepCores .., h | .sweepRecords .., h | .sweepMemory .., h | .sweepClose .., h | .launchCall .., h
  | .bmread .., h | .bmresume .., h | .bmdrop .., h | .serviceDeficitRaise .., h | .vfEnableClear .., h | .chime .., h
  | .leaderTakeover .., h | .clockStepChange .., h | .instructionFetch .., h | .packageReset .., h => nomatch h

end RefusesPrefix

/-- Settles O31: FMT by its codes, and the refusal by the frame of each instruction. -/
theorem formatPrefixes : Obligations.FormatPrefixes := by
  refine ⟨fun s fd fa fb rm sat plain => ?_, fun i s refuses agent unbound pending =>
    RefusesPrefix.of_refusesPrefix i refuses s agent unbound pending⟩
  dsimp only
  rw [← packF_append, ← fmtCodes_iff, Bool.not_eq_true]
  refine ⟨rfl, fun ok => ⟨_, fmt_pends plain ok, fun b hb => ?_⟩, fmt_refuses plain⟩
  rw [getLsbD_pendingStatus _ _ hb]
  refine if_congr Iff.rfl rfl (ite_congr rfl (fun inside => ?_) fun _ => rfl)
  rw [BitVec.getLsbD_extractLsb', show 7 + (b - 12) = b - 5 by omega, decide_eq_true (show b - 12 < 25 by omega), Bool.true_and]

end Sys2Proof.Machine
end


section
/-! Exact arithmetic on finite values (O25): sums, products and negation on the rationals they stand for (03 R90, R94, R95). -/

namespace Sys2Proof.Machine

/-- A number of units of 2^q, q at most its exponent, is the value itself. -/
theorem numUnits_mul (n : Num) {q : Int} (h : q ≤ n.e) : (numUnits n q : ℚ) * (2 : ℚ) ^ q = n.rat := by
  have scale : (2 : ℚ) ^ n.e = 2 ^ (n.e - q).toNat * 2 ^ q := by
    rw [← zpow_natCast, ← zpow_add₀ (by norm_num), Int.toNat_of_nonneg (by omega), Int.sub_add_cancel]
  rw [Num.rat, scale, numUnits]
  cases n.neg
  · simp [mul_assoc]
  · simp [mul_assoc]

/-- The integer s as a number of units of 2^q, with a sign for zero. -/
def Num.ofUnits (zeroNeg : Bool) (s q : Int) : Num :=
  if s = 0 then { neg := zeroNeg, m := 0, e := q } else { neg := decide (s < 0), m := s.natAbs, e := q }

theorem Num.ofUnits_st (z : Bool) (s q : Int) : (Num.ofUnits z s q).st = false := by
  unfold Num.ofUnits
  split <;> rfl

theorem Num.ofUnits_rat (z : Bool) (s q : Int) : (Num.ofUnits z s q).rat = s * (2 : ℚ) ^ q := by
  unfold Num.ofUnits
  split
  next h => simp [Num.rat, h]
  next =>
    have magnitude : (s.natAbs : ℚ) = |(s : ℚ)| := by rw [Nat.cast_natAbs, Int.cast_abs]
    rw [Num.rat, magnitude]
    rcases lt_or_ge s 0 with neg | pos
    · simp [neg, abs_of_neg (Int.cast_lt_zero.2 neg : (s : ℚ) < 0)]
    · simp [Int.not_lt.2 pos, abs_of_nonneg (Int.cast_nonneg pos : (0 : ℚ) ≤ s)]

/-- A zero has the sign it is given. -/
theorem Num.ofUnits_neg {z : Bool} {s q : Int} (h : (Num.ofUnits z s q).m = 0) : (Num.ofUnits z s q).neg = z := by
  unfold Num.ofUnits at h ⊢
  split at h
  next zero => rw [if_pos zero]
  next nonzero => exact absurd (Int.natAbs_eq_zero.1 h) nonzero

/-- The sum of two is taken in units that both are multiples of. -/
theorem sumNums_pair (z : Bool) (a b : Num) :
    ∃ q, q ≤ a.e ∧ q ≤ b.e ∧ sumNums z [a, b] = Num.ofUnits z (numUnits a q + numUnits b q) q := by
  refine ⟨if b.e < a.e then b.e else a.e, by omega, by omega, ?_⟩
  simp only [sumNums, List.foldl_cons, List.foldl_nil, Int.zero_add, lt_irrefl, if_false]
  rfl

/-- What the sum of two finite values is (R90, R95). -/
theorem sumNums_spec (z : Bool) (a b : Num) :
    (sumNums z [a, b]).st = false ∧ (sumNums z [a, b]).rat = a.rat + b.rat ∧
      ((sumNums z [a, b]).m = 0 → (sumNums z [a, b]).neg = z) := by
  obtain ⟨q, ha, hb, sum⟩ := sumNums_pair z a b
  rw [sum]
  refine ⟨Num.ofUnits_st .., ?_, Num.ofUnits_neg⟩
  rw [Num.ofUnits_rat, Int.cast_add, add_mul, numUnits_mul a ha, numUnits_mul b hb]

/-- The product of two finite values. -/
def Num.mul (a b : Num) : Num := { neg := a.neg != b.neg, m := a.m * b.m, e := a.e + b.e }

theorem Num.mul_rat (a b : Num) : (a.mul b).rat = a.rat * b.rat := by
  have sign : (if (a.mul b).neg then (-1 : ℚ) else 1) = (if a.neg then -1 else 1) * (if b.neg then -1 else 1) := by
    rw [Num.mul]
    cases a.neg <;> cases b.neg <;> norm_num
  rw [Num.rat, sign, Num.mul, Nat.cast_mul, zpow_add₀ two_ne_zero, Num.rat, Num.rat]
  ring

theorem mulVal_fin (a b : Num) : mulVal (.fin a) (.fin b) = (.fin (a.mul b), 0) := rfl

/-- The sign of a zero sum (R95). -/
def zeroSign (mode : Mode) (a b : Num) : Bool := if a.m = 0 ∧ b.m = 0 ∧ a.neg = b.neg then a.neg else decide (mode = .rdn)

theorem addVal_fin (mode : Mode) (a b : Num) : addVal mode (.fin a) (.fin b) = (.fin (sumNums (zeroSign mode a b) [a, b]), 0) := by
  have sign : (if a.m = 0 && b.m = 0 && a.neg == b.neg then a.neg else mode == .rdn) = zeroSign mode a b := by
    simp only [zeroSign, Bool.and_eq_true, decide_eq_true_eq, beq_iff_eq, and_assoc]
    rfl
  rw [← sign]
  rfl

/-- A product without flags is added to the addend. -/
theorem fmaVal_of_exact {mode : Mode} {x y p : FVal} (h : mulVal x y = (p, 0)) (c : FVal) : fmaVal mode x y c = addVal mode p c := by
  simp [fmaVal, h]

theorem fmaVal_fin (mode : Mode) (a b c : Num) :
    fmaVal mode (.fin a) (.fin b) (.fin c) = (.fin (sumNums (zeroSign mode (a.mul b) c) [a.mul b, c]), 0) :=
  (fmaVal_of_exact (mulVal_fin a b) _).trans (addVal_fin mode _ _)

/-- The sign of a zero fused sum (R95). -/
theorem zeroSign_mul (mode : Mode) (a b c : Num) : zeroSign mode (a.mul b) c =
    if a.m * b.m = 0 ∧ c.m = 0 ∧ (a.neg != b.neg) = c.neg then c.neg else decide (mode = .rdn) := by
  rw [zeroSign]
  exact if_ctx_congr Iff.rfl (fun ⟨_, _, same⟩ => same) fun _ => rfl

theorem negVal_rat (a : Num) : ({ a with neg := !a.neg } : Num).rat = -a.rat := by
  unfold Num.rat
  cases a.neg <;> simp

/-! ### Infinities (R94) -/

theorem addVal_inf (mode : Mode) (p q : Bool) :
    addVal mode (.inf p) (.inf q) = if p = q then (.inf p, 0) else (.nan false, fgInvalid) := rfl

theorem mulVal_inf_fin (p : Bool) (a : Num) :
    mulVal (.inf p) (.fin a) = if a.m = 0 then (.nan false, fgInvalid) else (.inf (p != a.neg), 0) := rfl

theorem mulVal_fin_inf (p : Bool) (a : Num) :
    mulVal (.fin a) (.inf p) = if a.m = 0 then (.nan false, fgInvalid) else (.inf (a.neg != p), 0) := rfl

/-- An infinite product meets the addend as an infinity does. -/
theorem fmaVal_of_inf {mode : Mode} {x y : FVal} {s : Bool} (h : mulVal x y = (.inf s, 0)) :
    (∀ c, fmaVal mode x y (.fin c) = (.inf s, 0)) ∧
      ∀ r, fmaVal mode x y (.inf r) = if s = r then (.inf r, 0) else (.nan false, fgInvalid) := by
  refine ⟨fun c => fmaVal_of_exact h _, fun r => ?_⟩
  rw [fmaVal_of_exact h, addVal_inf]
  split
  next same => rw [same]
  next => rfl

/-- An invalid product is INVALID whatever the addend. -/
theorem fmaVal_of_invalid {mode : Mode} {x y : FVal} (h : mulVal x y = (.nan false, fgInvalid)) (v : FVal) :
    fmaVal mode x y v = (.nan false, fgInvalid) := by
  have absorbs : addVal mode (.nan false) v = (.nan false, 0) := rfl
  simp [fmaVal, h, absorbs]

/-! ### NaNs (R94) -/

theorem addVal_nan_right (mode : Mode) (p : Bool) (v : FVal) : ∃ q, addVal mode v (.nan p) = (.nan q, 0) := by
  cases v <;> exact ⟨_, rfl⟩

theorem mulVal_nan_right (p : Bool) (v : FVal) : ∃ q, mulVal v (.nan p) = (.nan q, 0) := by
  cases v <;> exact ⟨_, rfl⟩

/-- A fused sum of a NaN product is a NaN. -/
theorem fmaVal_of_nan {mode : Mode} {x y : FVal} (h : ∃ q, mulVal x y = (.nan q, 0)) (w : FVal) :
    ∃ q, fmaVal mode x y w = (.nan q, 0) := by
  obtain ⟨q, h⟩ := h
  exact ⟨q, fmaVal_of_exact h w⟩

theorem fmaVal_nan_addend (mode : Mode) (p : Bool) (v w : FVal) : ∃ q, fmaVal mode v w (.nan p) = (.nan q, (mulVal v w).2) := by
  obtain ⟨q, h⟩ := addVal_nan_right mode p (mulVal v w).1
  refine ⟨q, ?_⟩
  simp [fmaVal, h]

/-! ### The values of the obligation -/

/-- Sums, products and fused sums of finite values are exact, and infinities combine as 03 R94 says. -/
theorem exact_values (mode : Mode) (a b c : Num) :
    (∃ n : Num, addVal mode (.fin a) (.fin b) = (.fin n, 0) ∧ n.st = false ∧ n.rat = a.rat + b.rat ∧
      (n.m = 0 → n.neg = zeroSign mode a b)) ∧
    (∃ n : Num, mulVal (.fin a) (.fin b) = (.fin n, 0) ∧ n.st = false ∧ n.rat = a.rat * b.rat ∧ n.neg = (a.neg != b.neg)) ∧
    ∃ n : Num, fmaVal mode (.fin a) (.fin b) (.fin c) = (.fin n, 0) ∧ n.st = false ∧ n.rat = a.rat * b.rat + c.rat ∧
      (n.m = 0 → n.neg = if a.m * b.m = 0 ∧ c.m = 0 ∧ (a.neg != b.neg) = c.neg then c.neg else decide (mode = .rdn)) := by
  refine ⟨⟨_, addVal_fin mode a b, sumNums_spec _ a b⟩, ⟨_, mulVal_fin a b, rfl, Num.mul_rat a b, rfl⟩, _, fmaVal_fin mode a b c, ?_⟩
  rw [← Num.mul_rat, ← zeroSign_mul]
  exact sumNums_spec _ (a.mul b) c

/-- A fused sum with an infinity among its operands (R94). -/
theorem fused_infinities (mode : Mode) (a b c : Num) (p q r : Bool) :
    fmaVal mode (.inf p) (.inf q) (.fin c) = (.inf (p != q), 0) ∧ fmaVal mode (.fin a) (.fin b) (.inf r) = (.inf r, 0) ∧
    fmaVal mode (.inf p) (.inf q) (.inf r) = (if (p != q) = r then (.inf r, 0) else (.nan false, fgInvalid)) ∧
    (a.m ≠ 0 → fmaVal mode (.inf p) (.fin a) (.fin c) = (.inf (p != a.neg), 0) ∧
      fmaVal mode (.fin a) (.inf p) (.fin c) = (.inf (a.neg != p), 0) ∧
      fmaVal mode (.inf p) (.fin a) (.inf r) = (if (p != a.neg) = r then (.inf r, 0) else (.nan false, fgInvalid)) ∧
      fmaVal mode (.fin a) (.inf p) (.inf r) = (if (a.neg != p) = r then (.inf r, 0) else (.nan false, fgInvalid))) ∧
    (a.m = 0 → ∀ v, fmaVal mode (.inf p) (.fin a) v = (.nan false, fgInvalid) ∧
      fmaVal mode (.fin a) (.inf p) v = (.nan false, fgInvalid)) := by
  obtain ⟨pq_fin, pq_inf⟩ := fmaVal_of_inf (mode := mode) (x := .inf p) (y := .inf q) rfl
  refine ⟨pq_fin c, fmaVal_of_exact (mulVal_fin a b) _, pq_inf r, fun nonzero => ?_, fun zero v => ?_⟩
  · obtain ⟨left_fin, left_inf⟩ := fmaVal_of_inf (mode := mode) ((mulVal_inf_fin p a).trans (if_neg nonzero))
    obtain ⟨right_fin, right_inf⟩ := fmaVal_of_inf (mode := mode) ((mulVal_fin_inf p a).trans (if_neg nonzero))
    exact ⟨left_fin c, right_fin c, left_inf r, right_inf r⟩
  · exact ⟨fmaVal_of_invalid ((mulVal_inf_fin p a).trans (if_pos zero)) v, fmaVal_of_invalid ((mulVal_fin_inf p a).trans (if_pos zero)) v⟩

end Sys2Proof.Machine
end


section
/-! The encodings that a result is written to lie within their format (O25, 03 R90 to R95). -/

namespace Sys2Proof.Machine

/-- What the formats of element codes 6 to 10 have in common: their encodings fit, and the largest finite one is normal. -/
structure FFmt.Fits (f : FFmt) : Prop where
  max : f.maxEnc + (if f.hasInf then 1 else 0) < 2 ^ (f.ew + f.mw)
  nan : f.nan < 2 ^ f.width
  normal : 2 ^ f.mw ≤ f.maxEnc
  hasNan : f.hasNan = true

theorem ffmtOf_fits {c : Nat} (h6 : 6 ≤ c) (h10 : c ≤ 10) : (ffmtOf c).Fits ∧ (ffmtOf c).width = fmtBits c := by
  interval_cases c <;> exact ⟨⟨by decide, by decide, by decide, rfl⟩, rfl⟩

theorem FFmt.width_eq (f : FFmt) : 2 ^ f.width = 2 * 2 ^ (f.ew + f.mw) := by
  rw [FFmt.width, Nat.add_assoc, Nat.pow_add, Nat.pow_one]

/-- A magnitude that fits, with its sign. -/
theorem withSign_lt {f : FFmt} (neg : Bool) {enc : Nat} (h : enc < 2 ^ (f.ew + f.mw)) : withSign f neg enc < 2 ^ f.width := by
  rw [FFmt.width_eq, withSign]
  split <;> omega

theorem lt_two_pow_bitLen (m : Nat) : m < 2 ^ bitLen m := by
  unfold bitLen
  split
  next h => subst h; decide
  next => exact Nat.lt_log2_self

/-- Rounding to units of 2^q carries no further than to the next power of two. -/
theorem roundAt_le {mode : Mode} {n : Num} {q : Int} {k : Nat} (h : n.e + bitLen n.m ≤ q + k) : (roundAt mode n q).1 ≤ 2 ^ k := by
  have small := lt_two_pow_bitLen n.m
  unfold roundAt
  split
  next le =>
    calc n.m * 2 ^ (n.e - q).toNat ≤ 2 ^ bitLen n.m * 2 ^ (n.e - q).toNat := Nat.mul_le_mul_right _ small.le
      _ = 2 ^ (bitLen n.m + (n.e - q).toNat) := (Nat.pow_add ..).symm
      _ ≤ 2 ^ k := Nat.pow_le_pow_right (by decide) (by omega)
  next gt =>
    have below : n.m < 2 ^ k * 2 ^ (q - n.e).toNat :=
      calc n.m < 2 ^ bitLen n.m := small
        _ ≤ 2 ^ (k + (q - n.e).toNat) := Nat.pow_le_pow_right (by decide) (by omega)
        _ = 2 ^ k * 2 ^ (q - n.e).toNat := Nat.pow_add ..
    have quotient : n.m / 2 ^ (q - n.e).toNat < 2 ^ k := (Nat.div_lt_iff_lt_mul (Nat.two_pow_pos _)).2 below
    have either (up : Bool) : (if up then n.m / 2 ^ (q - n.e).toNat + 1 else n.m / 2 ^ (q - n.e).toNat) ≤ 2 ^ k := by
      split <;> omega
    exact either _

/-- The encoding that a rounded magnitude of r units of 2^q has. -/
def FFmt.encOf (f : FFmt) (r : Nat) (q : Int) : Nat :=
  if r < 2 ^ f.mw then r else (q + f.mw + f.bias).toNat * 2 ^ f.mw + (r - 2 ^ f.mw)

/-- Below the normal range, the encoding is at most that of the least normal value. -/
theorem encOf_le_of_tiny {f : FFmt} {r : Nat} (h : r ≤ 2 ^ f.mw) : f.encOf r (1 - (f.bias : Int) - f.mw) ≤ 2 ^ f.mw := by
  have field : (1 - (f.bias : Int) - f.mw + f.mw + f.bias).toNat = 1 := by omega
  unfold FFmt.encOf
  rw [field]
  split <;> omega

/-- The largest finite value of a format whose largest encoding is normal. -/
theorem magNum_max {f : FFmt} (fits : f.Fits) : ∃ ef mf, f.maxEnc = ef * 2 ^ f.mw + mf ∧ mf < 2 ^ f.mw ∧
    (magNum f false f.maxEnc).m = 2 ^ f.mw + mf ∧ (magNum f false f.maxEnc).e = (ef : Int) - f.bias - f.mw := by
  have nonzero : f.maxEnc / 2 ^ f.mw ≠ 0 :=
    (Nat.div_pos fits.normal (Nat.two_pow_pos _)).ne'
  refine ⟨f.maxEnc / 2 ^ f.mw, f.maxEnc % 2 ^ f.mw, by rw [Nat.mul_comm, Nat.div_add_mod], Nat.mod_lt _ (Nat.two_pow_pos _), ?_, ?_⟩
  · simp only [magNum, if_neg nonzero]
  · simp only [magNum, if_neg nonzero]

/-- What `magLe` says of a magnitude in units no smaller than those of the other. -/
theorem magLe_of_ge {b a : Nat} {j i : Int} (h : magLe b j a i = true) (ge : i ≤ j) : b * 2 ^ (j - i).toNat ≤ a := by
  unfold magLe at h
  split at h
  next le =>
    have : i = j := by omega
    subst this
    simpa using h
  next => exact of_decide_eq_true h

/-- A rounded value that does not overflow has an encoding up to the largest finite one. -/
theorem encOf_le_max {f : FFmt} (fits : f.Fits) {r : Nat} {q : Int} (hr : r ≤ 2 ^ (f.mw + 1))
    (bounded : magLe r q (magNum f false f.maxEnc).m (magNum f false f.maxEnc).e = true) : f.encOf r q ≤ f.maxEnc := by
  obtain ⟨ef, mf, max, frac, hm, he⟩ := magNum_max fits
  rw [hm, he] at bounded
  have normal := fits.normal
  rw [Nat.pow_succ] at hr
  unfold FFmt.encOf
  split
  next small => omega
  next large =>
    rcases Nat.lt_trichotomy (q + f.mw + f.bias).toNat ef with lt | eq | gt
    · have step : ((q + f.mw + f.bias).toNat + 1) * 2 ^ f.mw ≤ ef * 2 ^ f.mw := Nat.mul_le_mul_right _ lt
      rw [Nat.add_mul, Nat.one_mul] at step
      omega
    · rcases Nat.eq_zero_or_pos ef with zero | pos
      · subst zero
        omega
      · have same : q = (ef : Int) - f.bias - f.mw := by omega
        have le := magLe_of_ge bounded same.ge
        rw [same, Int.sub_self, Int.toNat_zero, Nat.pow_zero, Nat.mul_one] at le
        rw [eq, max]
        omega
    · have le := magLe_of_ge bounded (by omega)
      obtain ⟨x, hx⟩ : ∃ x, (q - ((ef : Int) - f.bias - f.mw)).toNat = x + 1 := Nat.exists_eq_succ_of_ne_zero (by omega)
      rw [hx, Nat.pow_succ] at le
      have twice : r * 2 ≤ r * (2 ^ x * 2) := Nat.mul_le_mul_left _ (Nat.le_mul_of_pos_left _ (Nat.two_pow_pos _))
      omega

theorem overflowFp_lt {f : FFmt} (fits : f.Fits) (mode : Mode) (sat neg : Bool) : (overflowFp f mode sat neg).1 < 2 ^ f.width := by
  have max := fits.max
  have big : withSign f neg f.maxEnc < 2 ^ f.width := withSign_lt neg (by omega)
  have either (toMax : Bool) : (if toMax then (withSign f neg f.maxEnc, fgOver ||| fgInexact)
      else if f.hasInf then (withSign f neg (f.maxEnc + 1), fgOver ||| fgInexact) else (f.nan, fgOver ||| fgInexact)).1 < 2 ^ f.width := by
    split
    · exact big
    · split
      next inf => exact withSign_lt neg (by simpa [inf] using max)
      next => exact fits.nan
  unfold overflowFp
  dsimp only
  split
  · exact big
  · split
    · exact big
    · exact either _

theorem writeInf_lt {f : FFmt} (fits : f.Fits) (sat neg : Bool) : (writeInf f sat neg).1 < 2 ^ f.width := by
  have max := fits.max
  have big : withSign f neg f.maxEnc < 2 ^ f.width := withSign_lt neg (by omega)
  unfold writeInf
  split
  · exact big
  · split
    next inf => exact withSign_lt neg (by simpa [inf] using max)
    next =>
      rw [if_pos fits.hasNan]
      exact fits.nan

/-- A finite result is written within its format (R90, R91). -/
theorem writeNum_lt {f : FFmt} (fits : f.Fits) (mode : Mode) (sat : Bool) (n : Num) : (writeNum f mode sat n).1 < 2 ^ f.width := by
  have max := fits.max
  have normal := fits.normal
  have room : f.maxEnc < 2 ^ (f.ew + f.mw) := by omega
  unfold writeNum
  split
  · exact withSign_lt _ (Nat.two_pow_pos _)
  · dsimp only
    split
    · exact overflowFp_lt fits mode sat n.neg
    next bounded =>
      refine withSign_lt _ (Nat.lt_of_le_of_lt ?_ room)
      split
      next tiny => exact (encOf_le_of_tiny (roundAt_le (by omega))).trans normal
      next => exact encOf_le_max fits (roundAt_le (by push_cast; omega)) (by simpa using bounded)

theorem writeFp_lt {f : FFmt} (fits : f.Fits) (mode : Mode) (sat : Bool) : ∀ v, (writeFp f mode sat v).1 < 2 ^ f.width
  | .nan _ => by
    rw [writeFp, writeNan, if_pos fits.hasNan]
    exact fits.nan
  | .inf neg => writeInf_lt fits sat neg
  | .fin n => writeNum_lt fits mode sat n

end Sys2Proof.Machine
end


section
/-! Vector results lane by lane, the vector frame of a strand without stream registers, and the arithmetic of VFADD to VFNMA (O25). -/

namespace Sys2Proof.Machine

/-! ### Elements of a packed vector (R155, R158) -/

theorem lt_two_pow_of_le {x k n : Nat} (h : x < 2 ^ k) (le : k ≤ n) : x < 2 ^ n := h.trans_le (Nat.pow_le_pow_right Nat.two_pos le)

theorem packElems_lt (w : Nat) (es : List Nat) : packElems w es < 2 ^ (w * es.length) := by
  induction es with
  | nil => simp [packElems]
  | cons e r ih =>
    have low : e % 2 ^ w < 2 ^ w := Nat.mod_lt _ (Nat.two_pow_pos w)
    calc packElems w (e :: r) = e % 2 ^ w + 2 ^ w * packElems w r := rfl
      _ < 2 ^ w * (packElems w r + 1) := by rw [Nat.mul_add_one]; omega
      _ ≤ 2 ^ w * 2 ^ (w * r.length) := Nat.mul_le_mul_left _ ih
      _ = 2 ^ (w * (r.length + 1)) := by rw [← Nat.pow_add, Nat.mul_add_one, Nat.add_comm]

theorem packElems_elem (w : Nat) (es : List Nat) (i : Nat) (h : i < es.length) :
    packElems w es / 2 ^ (w * i) % 2 ^ w = es[i] % 2 ^ w := by
  induction es generalizing i with
  | nil => exact absurd h (Nat.not_lt_zero i)
  | cons e r ih =>
    have low : e % 2 ^ w < 2 ^ w := Nat.mod_lt _ (Nat.two_pow_pos w)
    have split : packElems w (e :: r) = e % 2 ^ w + 2 ^ w * packElems w r := rfl
    cases i with
    | zero => rw [split, Nat.mul_zero, Nat.pow_zero, Nat.div_one, Nat.add_mul_mod_self_left, Nat.mod_mod, List.getElem_cons_zero]
    | succ i =>
      have shift : (e % 2 ^ w + 2 ^ w * packElems w r) / 2 ^ w = packElems w r := by
        rw [Nat.add_mul_div_left _ _ (Nat.two_pow_pos w), Nat.div_eq_of_lt low, Nat.zero_add]
      rw [split, Nat.mul_succ, Nat.add_comm (w * i), Nat.pow_add, ← Nat.div_div_eq_div_mul, shift]
      exact ih i (Nat.lt_of_succ_lt_succ h)

section

variable {w : Nat} {es : List Nat} (fits : w * es.length ≤ 512)
include fits

theorem ofElems_toNat : (ofElems w es).toNat = packElems w es := by
  rw [ofElems, BitVec.toNat_ofNat]
  exact Nat.mod_eq_of_lt (lt_two_pow_of_le (packElems_lt w es) fits)

/-- Element i of a vector made of elements. -/
theorem elemAt_ofElems (i : Nat) (h : i < es.length) : elemAt w (ofElems w es) i = es[i] % 2 ^ w := by
  rw [elemAt, BitVec.extractLsb'_toNat, ofElems_toNat fits, Nat.shiftRight_eq_div_pow, Nat.mul_comm i, packElems_elem w es i h]

/-- The bits above its elements are zero. -/
theorem ofElems_above (q : Nat) (h : w * es.length ≤ q) : (ofElems w es).getLsbD q = false := by
  rw [← BitVec.testBit_toNat, ofElems_toNat fits]
  exact Nat.testBit_lt_two_pow (lt_two_pow_of_le (packElems_lt w es) h)

end

theorem elemAt_lt (w : Nat) (v : Vec) (i : Nat) : elemAt w v i < 2 ^ w := (v.extractLsb' (i * w) w).isLt

/-! ### Lanes with flags (R97, R159) -/

theorem laneActive_iff (t : Strand) (pg : PReg) (W i : Nat) :
    laneActive t pg W i = true ↔ pg = 0 ∨ (t.getP pg).getLsbD (W / 8 * i) = true := by
  rw [laneActive, Bool.or_eq_true, beq_iff_eq]

/-- Flags ORed together are raised where one of them is. -/
theorem getLsbD_foldl_or {α : Type} (g : α → Flags) (l : List α) (a : Flags) (b : Nat) :
    (l.foldl (fun acc r => acc ||| g r) a).getLsbD b = true ↔ a.getLsbD b = true ∨ ∃ r ∈ l, (g r).getLsbD b = true := by
  induction l generalizing a with
  | nil => simp
  | cons r l ih => simp only [List.foldl_cons, ih, BitVec.getLsbD_or, Bool.or_eq_true, List.exists_mem_cons_iff, or_assoc]

/-- What lane i of a result with flags is. -/
def laneResult (t : Strand) (pg : PReg) (W w : Nat) (old : Vec) (f : Nat → Nat × Flags) (i : Nat) : Nat × Flags :=
  if laneActive t pg W i then f i else (elemAt w old i, 0)

section

variable (t : Strand) (pg : PReg) {W w : Nat} (old : Vec) {f : Nat → Nat × Flags}

theorem mergeFlags_fst : (mergeFlags t pg W w old f).1 = ofElems w ((List.range (512 / W)).map fun i => (laneResult t pg W w old f i).1) := by
  simp only [mergeFlags, List.map_map]
  rfl

section

variable (wide : w ≤ W) (pos : 0 < W) (bound : ∀ i, (f i).1 < 2 ^ w)

include wide in
theorem lanes_fit (g : Nat → Nat) : w * ((List.range (512 / W)).map g).length ≤ 512 := by
  rw [List.length_map, List.length_range]
  exact (Nat.mul_le_mul_right _ wide).trans (Nat.mul_div_le 512 W)

include wide bound in
/-- An active lane has its result, another keeps its element. -/
theorem elemAt_mergeFlags {i : Nat} (hi : i < 512 / W) :
    elemAt w (mergeFlags t pg W w old f).1 i = (laneResult t pg W w old f i).1 := by
  have small : (laneResult t pg W w old f i).1 < 2 ^ w := by
    unfold laneResult
    split
    · exact bound i
    · exact elemAt_lt w old i
  rw [mergeFlags_fst, elemAt_ofElems (lanes_fit wide _) i (by simpa using hi), List.getElem_map, List.getElem_range, Nat.mod_eq_of_lt small]

include wide in
theorem mergeFlags_above {q : Nat} (h : w * (512 / W) ≤ q) : (mergeFlags t pg W w old f).1.getLsbD q = false := by
  rw [mergeFlags_fst]
  exact ofElems_above (lanes_fit wide _) q (by simpa using h)

end

/-- The flags of the result are those of its active lanes. -/
theorem mergeFlags_flags (b : Nat) : (mergeFlags t pg W w old f).2.getLsbD b = true ↔
    ∃ j, j < 512 / W ∧ laneActive t pg W j = true ∧ (f j).2.getLsbD b = true := by
  have lane (j : Nat) : (laneResult t pg W w old f j).2.getLsbD b = true ↔ laneActive t pg W j = true ∧ (f j).2.getLsbD b = true := by
    unfold laneResult
    split
    next h => simp [h]
    next h => simp [h]
  have flags : (mergeFlags t pg W w old f).2 =
      (List.range (512 / W)).foldl (fun acc i => acc ||| (laneResult t pg W w old f i).2) 0 := by
    simp only [mergeFlags, List.foldl_map]
    rfl
  rw [flags, getLsbD_foldl_or]
  simp only [List.mem_range, lane]
  simp

end

/-! ### The vector frame without stream registers -/

theorem Table.del_ins {α : Type} (t : Table α) (k : Nat) (a : α) : (Table.ins t k a).del k = t.del k := by
  induction t with
  | nil => simp [Table.ins, Table.del]
  | cons e r ih =>
    obtain ⟨i, b⟩ := e
    unfold Table.ins
    split
    · simp [Table.del]
    · rw [Table.del, Table.del, ih]

theorem Table.del_del {α : Type} (t : Table α) (k : Nat) : (Table.del t k).del k = t.del k := by
  induction t with
  | nil => rfl
  | cons e r ih =>
    obtain ⟨i, b⟩ := e
    by_cases h : i = k
    · rw [Table.del, if_pos h, ih]
    · rw [Table.del, if_neg h, Table.del, if_neg h, ih]

/-- Of two writes of an entry the later stands. -/
theorem Table.set_set {α : Type} (t : Table α) (k : Nat) (a b : α) : (Table.set t k a).set k b = Table.set t k b := by
  simp only [Table.set, Table.del_ins, Table.del_del]

theorem State.setCore_setCore (s : State) (k : Nat) (c d : Core) : (s.setCore k c).setCore k d = s.setCore k d := by
  simp only [State.setCore, Table.set_set]

/-- Nothing is consumed of no stream register. -/
theorem Core.advance_nil (c : Core) : c.advance [] = c := by
  simp [Core.advance, Strand.advance, dropWhere]

/-- Of a core written as it is, the strand is replaced all the same. -/
theorem State.setStrand_rewritten (s : State) (g : Strand → Strand) :
    (s.setCore s.cur (s.core s.cur)).setStrand (g (s.setCore s.cur (s.core s.cur)).strand) = s.setStrand (g s.strand) := by
  simp only [State.setStrand, State.updCore, State.strand, State.setCore_cur, State.core_setCore_self, State.setCore_setCore]

/-- Without bound registers the sources are the registers themselves. -/
theorem State.withSources_of_unbound {s : State} (unbound : s.unbound) (srcs : List VReg) (f : State → State → Strand → Raises State) :
    s.withSources srcs f = f s (s.setCore s.cur (s.core s.cur)) s.strand := by
  have free : (srcs.filter fun r => ((s.core s.cur).strand.boundOf r).isSome) = [] := List.filter_eq_nil_iff.2 fun r _ => by
    have none_bound : (s.core s.cur).strand.boundOf r = none := State.boundOf_of_unbound unbound r
    simp [none_bound]
  have sources : (s.core s.cur).strand.boundSrcs srcs = [] := by
    rw [Strand.boundSrcs, free]
    rfl
  unfold State.withSources
  dsimp only
  rw [sources]
  exact congrArg (fun c => f s (s.setCore s.cur c) s.strand) (Core.advance_nil _)

/-- Without bound registers an instruction of the vector unit computes on the registers alone (R161, R162). -/
theorem State.runVec_of_unbound {s : State} {i : Instr} {srcs dsts : List VReg} {accepts : Overrides → Bool}
    {f : Strand → Raises (Strand → Strand)} {g : Strand → Strand} (agent : s.agent = .strand) (unbound : s.unbound)
    (prefixed : stPP s.strand.status = true → accepts (overridesOf (stPrefix s.strand.status)) = true) (h : f s.strand = .ok g) :
    s.runVec i srcs dsts accepts f = .next (s.setStrand (g s.strand).next) := by
  have free : (dsts.all fun r => (s.strand.boundOf r).isNone) = true := 
    List.all_eq_true.2 fun r _ => by rw [State.boundOf_of_unbound unbound]; rfl
  have admitted : (!stPP s.strand.status || accepts (overridesOf (stPrefix s.strand.status))) = true := by
    cases pending : stPP s.strand.status
    · rfl
    · rw [prefixed pending]
      rfl
  refine State.runAny_ok agent ?_
  dsimp only
  rw [free, admitted, need_true_bind, need_true_bind, State.withSources_of_unbound unbound, h]
  exact congrArg Except.ok (State.setStrand_rewritten s fun u => (g u).next)

/-! ### VFADD to VFNMA -/

theorem fpFmt_mem (et : FpEt) : 6 ≤ fpFmt et ∧ fpFmt et ≤ 10 := by
  cases et <;> decide

theorem effFmt_mem {o hi : Nat} (et : FpEt) (le : hi ≤ 10) (h : o = 31 ∨ 6 ≤ o ∧ o ≤ hi) :
    6 ≤ effFmt o (fpFmt et) ∧ effFmt o (fpFmt et) ≤ 10 := by
  unfold effFmt
  split
  · exact fpFmt_mem et
  · omega

theorem fieldIn_iff (lo hi f : Nat) : fieldIn lo hi f = true ↔ f = 31 ∨ lo ≤ f ∧ f ≤ hi := by
  simp [fieldIn]

/-- The overrides in force lie in the formats that arithmetic admits: those of a pending prefix, or none (R182). -/
def ArithOverrides (o : Overrides) : Prop :=
  (o.fa = 31 ∨ 6 ≤ o.fa ∧ o.fa ≤ 10) ∧ (o.fb = 31 ∨ 6 ≤ o.fb ∧ o.fb ≤ 10) ∧ (o.fd = 31 ∨ 6 ≤ o.fd ∧ o.fd ≤ 8)

theorem acceptArith_iff (o : Overrides) : acceptArith o = true ↔ ArithOverrides o := by
  simp only [acceptArith, Bool.and_eq_true, fieldIn_iff, ArithOverrides, and_assoc]

theorem overrides_of_clear {st : Word} (h : stPP st = false) : overrides st = {} := by
  rw [overrides, h]
  rfl

theorem overrides_of_pending {st : Word} (h : stPP st = true) : overrides st = overridesOf (stPrefix st) := by
  rw [overrides, if_pos h]

theorem arithOverrides_of_pending {st : Word} (h : stPP st = true → ArithOverrides (overrides st)) : ArithOverrides (overrides st) := by
  cases pending : stPP st
  · rw [overrides_of_clear pending]
    exact ⟨.inl rfl, .inl rfl, .inl rfl⟩
  · exact h pending

section

variable (t : Strand) (et : FpEt) (d a b : VReg) (f : Mode → FVal → FVal → FVal → FVal × Flags)

/-- The formats in force of the two sources and of the destination, and the width that governs the lanes (R158, R183). -/
def arithFa : Nat := effFmt (overrides t.status).fa (fpFmt et)
def arithFb : Nat := effFmt (overrides t.status).fb (fpFmt et)
def arithFd : Nat := effFmt (overrides t.status).fd (fpFmt et)
def arithWidth : Nat := maxNat (fmtBits (arithFa t et)) (fmtBits (arithFb t et)) (fmtBits (arithFd t et))

theorem fmtBits_arithFd_le : fmtBits (arithFd t et) ≤ arithWidth t et := (Nat.le_max_right _ _).trans (Nat.le_max_right _ _)

/-- Lane i of an arithmetic form: the exact result, written once (R171). -/
def arithLane (i : Nat) : Nat × Flags :=
  let x := f (effMode t.status) (fpElem (arithFa t et) (t.getV a) i) (fpElem (arithFb t et) (t.getV b) i) (fpElem (arithFd t et) (t.getV d) i)
  let w := writeFp (ffmtOf (arithFd t et)) (effMode t.status) (effSat t.status) x.1
  (w.1, x.2 ||| w.2)

/-- The result of an arithmetic form, with its flags. -/
def arithResult (pg : PReg) : Vec × Flags :=
  mergeFlags t pg (arithWidth t et) (fmtBits (arithFd t et)) (t.getV d) (arithLane t et d a b f)

end

section

variable {s : State} {et : FpEt} {d a b : VReg} {pg : PReg} {f : Mode → FVal → FVal → FVal → FVal × Flags}
  (agent : s.agent = .strand) (unbound : s.unbound) (admitted : stPP s.strand.status = true → ArithOverrides (overrides s.strand.status))
include admitted

include agent unbound in
/-- An arithmetic form completes with its result and flags, and consumes the prefix (R55, R97, R161). -/
theorem fpArith_completes (i : Instr) : s.fpArith i et d a b pg f = .next (s.past { s.strand.setV d (arithResult s.strand et d a b f pg).1 with
    status := setPP (orFlags s.strand.status (arithResult s.strand et d a b f pg).2) false }) := by
  have accepted (pending : stPP s.strand.status = true) : acceptArith (overridesOf (stPrefix s.strand.status)) = true := by
    rw [acceptArith_iff, ← overrides_of_pending pending]
    exact admitted pending
  exact State.runVec_of_unbound (g := writeVF d (arithResult s.strand et d a b f pg)) agent unbound accepted rfl

/-- An arithmetic form fills the lanes of its destination: each active one with its result, whose flags it raises. -/
theorem arithResult_lane {j : Nat} (hj : j < 512 / arithWidth s.strand et) :
    elemAt (fmtBits (arithFd s.strand et)) (arithResult s.strand et d a b f pg).1 j =
      (laneResult s.strand pg (arithWidth s.strand et) (fmtBits (arithFd s.strand et)) (s.strand.getV d) (arithLane s.strand et d a b f) j).1 := by
  obtain ⟨-, -, inFd⟩ := arithOverrides_of_pending admitted
  obtain ⟨lo, hi⟩ := effFmt_mem et (by decide) inFd
  obtain ⟨fits, width⟩ := ffmtOf_fits lo hi
  have bound (i : Nat) : (arithLane s.strand et d a b f i).1 < 2 ^ fmtBits (arithFd s.strand et) :=
    (writeFp_lt fits _ _ _).trans_eq (congrArg (2 ^ ·) width)
  exact elemAt_mergeFlags _ _ _ (fmtBits_arithFd_le _ _) bound hj

end

/-- Settles O25: exact values, infinities and NaNs by the cases of the operations, then one frame for the five instructions. -/
theorem floatingArithmetic : Obligations.FloatingArithmetic := by
  refine ⟨fun mode a b c _ _ _ => ?_, fun mode p v => ?_, fun s et d a b pg agent unbound => ?_⟩
  · obtain ⟨sum, product, fused⟩ := exact_values mode a b c
    refine ⟨sum, product, fused, fused_infinities mode a b c, ⟨_, rfl, ‹a.st = false›, negVal_rat a⟩, fun p q => ?_⟩
    exact ⟨addVal_inf mode p q, rfl, rfl, rfl, mulVal_inf_fin p a, mulVal_fin_inf p a, rfl⟩
  · exact ⟨⟨_, rfl⟩, addVal_nan_right mode p v, ⟨_, rfl⟩, mulVal_nan_right p v, rfl, fun w =>
      ⟨fmaVal_of_nan ⟨_, rfl⟩ w, fmaVal_of_nan (mulVal_nan_right p v) w, fmaVal_nan_addend mode p v w⟩⟩
  · intro t o mode sat act fills admitted
    have fill (f : Mode → FVal → FVal → FVal → FVal × Flags) (i : Instr) (h : exec i s = s.fpArith i et d a b pg f) :
        fills i (arithWidth t et) (fmtBits (arithFd t et)) (arithLane t et d a b f) := by
      refine ⟨_, _, h.trans (fpArith_completes agent unbound admitted i), fun j hj => ?_, fun q hq =>
        mergeFlags_above _ _ _ (fmtBits_arithFd_le _ _) hq, fun b' => ?_⟩
      · rw [arithResult_lane admitted hj, laneResult]
        exact ⟨fun active => by rw [if_pos ((laneActive_iff ..).2 active)], fun idle => by rw [if_neg (mt (laneActive_iff ..).1 idle)]⟩
      · rw [arithResult, mergeFlags_flags]
        simp only [laneActive_iff]
        rfl
    exact ⟨fill (fun m x y _ => addVal m x y) _ rfl, fill (fun m x y _ => addVal m x (negVal y)) _ rfl, fill (fun _ x y _ => mulVal x y) _ rfl,
      fill (fun m x y z => fmaVal m x y z) _ rfl, fill (fun m x y z => fmaVal m (negVal x) y z) _ rfl⟩

end Sys2Proof.Machine
end

section
/-! O57, part 1: the nodes of the buddy tree (12 R396 to R401). -/

namespace Sys2Proof.Machine

/-- An event that is enabled answers the state that it makes. -/
theorem State.event_happens {s : State} {b : Bool} {f : State → State} {P : State → Prop} (enabled : b = true) (p : P (f s)) :
    ∃ s', s.event b f = .next s' ∧ P s' := ⟨f s, State.event_enabled enabled, p⟩

/-! ### What an operation on a partition leaves -/

/-- A log entry changes the log of a function or of the package, and nothing else of the state. -/
theorem State.logAt_eq (s : State) (kind die : BitVec 8) (unit : BitVec 16) (func : Option Nat) (addr arg : Word) :
    ∃ fns pkgLog, s.logAt kind die unit func addr arg = { s with fns, pkgLog } := by
  unfold State.logAt
  dsimp only
  split
  · exact ⟨_, _, rfl⟩
  · exact ⟨_, s.pkgLog, rfl⟩

theorem State.logLocked_eq (s : State) (k va : Nat) : ∃ fns pkgLog, s.logLocked k va = { s with fns, pkgLog } :=
  s.logAt_eq ..

/-- A fold of steps that keep a part of the state keeps it. -/
theorem State.foldl_keeps {α β : Type} (f : State → α) (g : State → β → State) (l : List β)
    (h : ∀ (u : State), ∀ b ∈ l, f (g u b) = f u) (s : State) : f (l.foldl g s) = f s :=
  List.foldlRecOn (motive := fun u => f u = f s) l g rfl fun u e b hb => (h u b hb).trans e

theorem State.givePartition_nodes (s : State) (t k : Nat) : (s.givePartition t k).nodes = s.nodes := by
  unfold State.givePartition
  split
  · obtain ⟨fns, pkgLog, e⟩ := s.logLocked_eq k (0xF0 * 2 ^ 48 + 0x20000 * k)
    rw [e]
  · split
    · rfl
    · dsimp only
      split <;> rfl

theorem State.givePartition_tenants (s : State) (t k : Nat) : (s.givePartition t k).tenants = s.tenants := by
  unfold State.givePartition
  split
  · obtain ⟨fns, pkgLog, e⟩ := s.logLocked_eq k (0xF0 * 2 ^ 48 + 0x20000 * k)
    rw [e]
  · split
    · rfl
    · dsimp only
      split <;> rfl

theorem State.takePartition_nodes (s : State) (t k : Nat) : (s.takePartition t k).nodes = s.nodes := by
  unfold State.takePartition
  dsimp only
  split <;> rfl

theorem State.takePartition_tenants (s : State) (t k : Nat) : (s.takePartition t k).tenants = s.tenants := by
  unfold State.takePartition
  dsimp only
  split <;> rfl

theorem State.joinNode_nodes (s : State) (t n : Nat) : (s.joinNode t n).nodes = s.nodes :=
  State.foldl_keeps State.nodes _ _ (fun u k _ => u.givePartition_nodes t k) _

theorem State.joinNode_tenants (s : State) (t n : Nat) :
    (s.joinNode t n).tenants = (s.updTenant t fun e => { e with nodes := e.nodes ++ [BitVec.ofNat 11 n] }).tenants :=
  State.foldl_keeps State.tenants _ _ (fun u k _ => u.givePartition_tenants t k) _

theorem State.joinNode_node (s : State) (t n m : Nat) : (s.joinNode t n).node m = s.node m := by
  rw [State.node, State.joinNode_nodes, ← State.node]

theorem State.joinNode_tenant (s : State) (t n : Nat) :
    ((s.joinNode t n).tenant t).nodes = (s.tenant t).nodes ++ [BitVec.ofNat 11 n] := by
  rw [State.tenant, State.joinNode_tenants, ← State.tenant, State.tenant_updTenant_self]

/-! ### Asking for pre-emption -/

theorem State.askCores_nodes (s : State) (ks : List Nat) : (s.askCores ks).nodes = s.nodes :=
  State.foldl_keeps State.nodes (fun s k => s.updCore k _) ks (fun _ _ _ => rfl) s

theorem State.askCores_tenants (s : State) (ks : List Nat) : (s.askCores ks).tenants = s.tenants :=
  State.foldl_keeps State.tenants (fun s k => s.updCore k _) ks (fun _ _ _ => rfl) s

theorem State.askCores_mem (s : State) (ks : List Nat) : (s.askCores ks).mem = s.mem :=
  State.foldl_keeps State.mem (fun s k => s.updCore k _) ks (fun _ _ _ => rfl) s

/-- A core already asked stays asked, and keeps its mode. -/
theorem State.askCores_stays {s : State} {ks : List Nat} {k : Nat} (mode : (s.core k).mode = .running)
    (asked : (s.core k).svcWant = true ∨ k ∈ ks) : ((s.askCores ks).core k).svcWant = true := by
  induction ks generalizing s with
  | nil => exact asked.resolve_right List.not_mem_nil
  | cons j ks ih =>
    refine ih (s := s.updCore j fun c => { c with svcWant := c.svcWant || c.mode == .running || c.mode == .loading }) ?_ ?_
    · by_cases e : k = j
      · subst e; rw [State.core_updCore_self]; exact mode
      · rw [State.core_updCore_ne _ _ e]; exact mode
    · by_cases e : k = j
      · subst e; left; rw [State.core_updCore_self]; simp [mode]
      · rw [State.core_updCore_ne _ _ e]
        exact asked.imp_right fun h => (List.mem_cons.1 h).resolve_left e

/-! ### The transitions (R397) -/

section
variable {s : State} {n t : Nat} (meant : s.meaningful n = true)
include meant

theorem nodeSplit_happens (free : (s.node n).state = .free) (inner : n < 1024) (root : 0 < n) :
    Happens (.nodeSplit n) s fun s' => (s'.node n).state = .split ∧
      (s'.node (2 * n)).state = .free ∧ (s'.node (2 * n + 1)).state = .free ∧ s'.tenants = s.tenants := by
  change ∃ s', execNodeSplit n s = .next s' ∧ _
  refine State.event_happens (by simp [meant, free, inner]) ⟨?_, ?_, ?_, rfl⟩
  · rw [State.node_updNode_ne _ _ (by omega), State.node_updNode_ne _ _ (by omega), State.node_updNode_self]
  · rw [State.node_updNode_ne _ _ (by omega), State.node_updNode_self]
  · rw [State.node_updNode_self]

theorem nodeMerge_happens (split : (s.node n).state = .split) (left : (s.node (2 * n)).state = .free)
    (right : (s.node (2 * n + 1)).state = .free) :
    Happens (.nodeMerge n) s fun s' => s'.node n = { s.node n with state := .free } ∧ ∀ m, m ≠ n → s'.node m = s.node m := by
  change ∃ s', execNodeMerge n s = .next s' ∧ _
  exact State.event_happens (by simp [meant, split, left, right])
    ⟨State.node_updNode_self .., fun _ h => State.node_updNode_ne _ _ h⟩

theorem nodeAllot_happens (room : s.nodeRoom t = true) (unlocked : (s.tenant t).conf = false)
    (free : (s.node n).state = .free) : Happens (.nodeAllot n t) s fun s' =>
      s'.node n = { s.node n with state := .allotted, sharers := 1 } ∧
      (s'.tenant t).nodes = (s.tenant t).nodes ++ [BitVec.ofNat 11 n] := by
  change ∃ s', execNodeAllot n t s = .next s' ∧ _
  refine State.event_happens (by simp [meant, room, unlocked, free]) ⟨?_, ?_⟩
  · rw [State.joinNode_node, State.node_updNode_self]
  · rw [State.joinNode_tenant, State.tenant_updNode]

variable (allotted : (s.node n).state = .allotted)
include allotted

theorem nodeShare_happens (room : s.nodeRoom t = true) (open' : (s.tenant t).conf = false) (unlocked : (s.node n).lock = false)
    (few : (s.node n).sharers ≠ 255) (apart : s.holdsOverlap t n = false) : Happens (.nodeShare n t) s fun s' =>
      s'.node n = { s.node n with sharers := (s.node n).sharers + 1 } ∧
      (s'.tenant t).nodes = (s.tenant t).nodes ++ [BitVec.ofNat 11 n] := by
  change ∃ s', execNodeShare n t s = .next s' ∧ _
  refine State.event_happens ?_ ⟨?_, ?_⟩
  · simp only [meant, allotted, unlocked, bne_iff_ne.2 few, room, open', apart]
    rfl
  · rw [State.joinNode_node, State.node_updNode_self]
  · rw [State.joinNode_tenant, State.tenant_updNode]

/-- A release on unlocked cores asks the strands in the way, or gives the node back. -/
theorem exec_nodeRelease (held : BitVec.ofNat 11 n ∈ (s.tenant t).nodes) (unlocked : ∀ k ∈ nodeCores n, s.coreLocked k = false) :
    exec (.nodeRelease n t) s = .next (
      if s.workOnNode t n then s.askCores ((nodeCores n).filter fun k => s.strandOn t k) else
      ((nodeCores n).foldl (fun s k => s.takePartition t k) (s.updTenant t fun e => e.without n)).updNode n fun e =>
        if e.sharers - 1 = 0 then {} else { e with sharers := e.sharers - 1 }) := by
  have none' : (nodeCores n).find? s.coreLocked = none := List.find?_eq_none.2 fun k hk => by simp [unlocked k hk]
  change execNodeRelease n t s = _
  unfold execNodeRelease
  rw [none']
  exact State.event_enabled (by simp [meant, allotted, held])

theorem nodeRelease_asks (held : BitVec.ofNat 11 n ∈ (s.tenant t).nodes) (unlocked : ∀ k ∈ nodeCores n, s.coreLocked k = false)
    (work : s.workOnNode t n = true) : Happens (.nodeRelease n t) s fun s' => s'.nodes = s.nodes ∧ s'.tenants = s.tenants ∧
      s'.mem = s.mem ∧ ∀ k ∈ nodeCores n, s.strandOn t k = true → (s.core k).mode = .running → (s'.core k).svcWant = true := by
  refine ⟨_, exec_nodeRelease meant allotted held unlocked, ?_⟩
  rw [if_pos work]
  exact ⟨State.askCores_nodes .., State.askCores_tenants .., State.askCores_mem .., fun k hk on mode =>
    State.askCores_stays mode (Or.inr (List.mem_filter.2 ⟨hk, on⟩))⟩

theorem nodeRelease_gives (held : BitVec.ofNat 11 n ∈ (s.tenant t).nodes) (unlocked : ∀ k ∈ nodeCores n, s.coreLocked k = false)
    (idle : s.workOnNode t n = false) : Happens (.nodeRelease n t) s fun s' =>
      (s'.node n).sharers = (s.node n).sharers - 1 ∧ ((s.node n).sharers = 1 → s'.node n = {}) ∧
      (s'.tenant t).barrier = (s.tenant t).barrier &&& ~~~nodeMask n ∧
      (s'.tenant t).nodes = (s.tenant t).nodes.filter (· != BitVec.ofNat 11 n) := by
  refine ⟨_, exec_nodeRelease meant allotted held unlocked, ?_⟩
  rw [if_neg (by simp [idle])]
  beta_reduce
  have nodes := State.foldl_keeps State.nodes (fun s k => s.takePartition t k) (nodeCores n)
    (fun u k _ => u.takePartition_nodes t k) (s.updTenant t fun e => e.without n)
  have tenants := State.foldl_keeps State.tenants (fun s k => s.takePartition t k) (nodeCores n)
    (fun u k _ => u.takePartition_tenants t k) (s.updTenant t fun e => e.without n)
  generalize (nodeCores n).foldl (fun s k => s.takePartition t k) (s.updTenant t fun e => e.without n) = u at nodes tenants ⊢
  have node : u.node n = s.node n := by rw [State.node, nodes]; rfl
  have tenant : u.tenant t = (s.tenant t).without n := by
    rw [State.tenant, tenants, ← State.tenant, State.tenant_updTenant_self]
  rw [State.node_updNode_self, State.tenant_updNode, node, tenant]
  refine ⟨?_, fun one => by simp [one], rfl, rfl⟩
  split
  next h => exact h.symm
  next => rfl

theorem nodeLock_happens (one : (s.node n).sharers = 1) :
    Happens (.nodeLock n) s fun s' => s'.node n = { s.node n with lock := true } := by
  change ∃ s', execNodeLock n s = .next s' ∧ _
  exact State.event_happens (by simp [meant, allotted, one]) (State.node_updNode_self ..)

theorem nodeUnlock_happens (locked : (s.node n).lock = true) (unlocked : ∀ k ∈ nodeCores n, s.coreLocked k = false) :
    Happens (.nodeUnlock n) s fun s' => s'.node n = { s.node n with lock := false } ∧
      ∀ u, BitVec.ofNat 11 n ∈ (s.tenant u).nodes → (s'.tenant u).conf = false := by
  change ∃ s', execNodeUnlock n s = .next s' ∧ _
  refine State.event_happens ?_ ⟨State.node_updNode_self s n fun e => { e with lock := false }, fun u hu => ?_⟩
  · simp only [meant, allotted, locked, beq_self_eq_true, Bool.true_and, List.all_eq_true]
    exact fun k hk => by simp [unlocked k hk]
  · have get := Table.get_map s.tenants u ({} : Tenant)
      (fun _ e => if e.nodes.contains (BitVec.ofNat 11 n) then { e with conf := false } else e) (by simp)
    have same : (s.tenants.map fun e => (e.1, if e.2.nodes.contains (BitVec.ofNat 11 n) then { e.2 with conf := false } else e.2)) =
        s.tenants.map fun e => if e.2.nodes.contains (BitVec.ofNat 11 n) then (e.1, { e.2 with conf := false }) else e :=
      List.map_congr_left fun e _ => by split <;> rfl
    rw [same] at get
    refine (congrArg Tenant.conf get).trans ?_
    change (if (s.tenant u).nodes.contains (BitVec.ofNat 11 n) then ({ s.tenant u with conf := false } : Tenant)
      else s.tenant u).conf = false
    rw [if_pos (by simpa using hu)]

end

end Sys2Proof.Machine
end

section
/-! O57, part 2: partitions and vault blocks (06 R188 to R194, 12 R397, R402, 13 R429). -/

namespace Sys2Proof.Machine

/-! ### Tag lists and images of memory -/

theorem mem_tagIns (l : List Nat) (h g : Nat) : g ∈ tagIns l h ↔ g = h ∨ g ∈ l := by
  induction l with
  | nil => simp [tagIns]
  | cons a r ih =>
    unfold tagIns
    split
    · simp
    · split
      next e => subst e; simp
      next => rw [List.mem_cons, ih, List.mem_cons]; tauto

theorem mem_tagPut_true (l : List Nat) (h g : Nat) : g ∈ tagPut l h true ↔ g = h ∨ g ∈ l := by
  rw [tagPut, if_pos rfl, mem_tagIns, tagDel, List.mem_filter]
  by_cases e : g = h <;> simp [e]

theorem mem_tagPuts_true (f : Nat → Nat) (l ts : List Nat) (g : Nat) :
    g ∈ l.foldl (fun ts h => tagPut ts (f h) true) ts ↔ (∃ h ∈ l, g = f h) ∨ g ∈ ts := by
  induction l generalizing ts with
  | nil => simp
  | cons a r ih =>
    rw [List.foldl_cons, ih, mem_tagPut_true]
    simp only [List.mem_cons, exists_eq_or_imp, ← or_assoc]
    rw [or_comm (a := ∃ h ∈ r, g = f h)]

/-- A byte of cells moved down by a distance. -/
theorem memGet_moved (lo o : Nat) (m : List Host.Cell) (above : ∀ c ∈ m, lo ≤ c.1) :
    memGet (m.map fun (c : Host.Cell) => (c.1 - lo, c.2)) o = memGet m (lo + o) := by
  unfold memGet
  induction m with
  | nil => rfl
  | cons c r ih =>
    have hc := above c List.mem_cons_self
    have hr := ih fun x hx => above x (List.mem_cons_of_mem _ hx)
    simp only [List.map_cons, Table.get]
    by_cases e : c.1 = lo + o
    · rw [if_pos e, if_pos (by omega)]
    · rw [if_neg e, if_neg (by omega)]
      exact hr

/-- The cells of a place kept in an image, read at their offsets. -/
theorem memGet_image (m : List Host.Cell) {lo n o : Nat} (ho : o < n) :
    memGet ((m.filter fun c => decide (lo ≤ c.1) && decide (c.1 < lo + n)).map fun (c : Host.Cell) => (c.1 - lo, c.2)) o =
      memGet m (lo + o) := by
  rw [memGet_moved, memGet_filter m (fun a => decide (lo ≤ a) && decide (a < lo + n)), if_pos (by simp; omega)]
  intro c hc
  have := (List.mem_filter.1 hc).2
  simp only [Bool.and_eq_true, decide_eq_true_eq] at this
  exact this.1

theorem mem_zero_tags (s : State) (lo hi g : Nat) :
    g ∈ (s.zero lo hi).tags ↔ g ∈ s.tags ∧ ¬ (lo ≤ 64 * g ∧ 64 * g < hi) := by
  change g ∈ s.tags.filter _ ↔ _
  rw [List.mem_filter, Bool.not_eq_true', ← Bool.not_eq_true, Bool.and_eq_true, decide_eq_true_eq, decide_eq_true_eq]

theorem zero_reads_zero (s : State) {lo hi q : Nat} (h : lo ≤ q ∧ q < hi) : memGet (s.zero lo hi).mem q = 0 :=
  (memGet_memClear ..).trans (if_pos h)

theorem zero_reads_same (s : State) {lo hi q : Nat} (h : q < lo ∨ hi ≤ q) : memGet (s.zero lo hi).mem q = memGet s.mem q :=
  (memGet_memClear ..).trans (if_neg (by omega))

/-! ### The entries of a core -/

theorem partCount_le (mode : BitVec 2) : partCount mode ≤ 4 := by
  unfold partCount
  split
  · omega
  · split <;> omega

theorem Core.setAbsent_absent (c : Core) {i : Nat} (hi : i < 4) (b : Bool) : (c.setAbsent i b).absent.getLsbD i = b := by
  change (putBits c.absent i (BitVec.ofBool b)).getLsbD i = b
  rw [getLsbD_putBits _ _ hi, if_pos (by omega)]
  simp

/-- Beyond the four partitions there is no ABSENT bit. -/
theorem Core.absent_beyond (c : Core) {i : Nat} (hi : 4 ≤ i) : c.absent.getLsbD i = false := BitVec.getLsbD_of_ge _ _ hi

theorem Core.setAbsent_false (c : Core) (i : Nat) : (c.setAbsent i false).absent.getLsbD i = false := by
  by_cases hi : i < 4
  · exact c.setAbsent_absent hi false
  · exact Core.absent_beyond _ (Nat.le_of_not_lt hi)

theorem Core.resid_comeBack (c : Core) (t : Nat) {i : Nat} (r : Residency) (hi : i < 4) : (c.comeBack t i r).resid i = r := by
  change (if h : i < 4 then (c.residency.set! i r)[i] else {}) = r
  rw [dif_pos hi]
  simp [Vector.set!]

/-- The residency entry that names a tenant. -/
theorem State.residentOn_some {s : State} {t k i : Nat} (h : s.residentOn t k = some i) :
    (s.core k).resid i = { v := true, tenant := t, gen := s.gen t } := by
  have found := List.find?_some h
  simp only [Bool.and_eq_true, beq_iff_eq] at found
  obtain ⟨⟨hv, ht⟩, hg⟩ := found
  generalize (s.core k).resid i = r at hv ht hg
  cases r
  simp_all

/-! ### Locked cores and strands in the way (R399, R429) -/

theorem partitionSwapOut_locked {s : State} {k : Nat} (i : Nat) (locked : s.coreLocked k = true) :
    Happens (.partitionSwapOut k i) s fun s' =>
      s'.cores = s.cores ∧ s'.mem = s.mem ∧ s'.pkgLog.length = s.pkgLog.length + 1 := by
  refine ⟨s.logLocked k, ?_, State.logAt_package ..⟩
  change execPartitionSwapOut k i s = _
  rw [execPartitionSwapOut, if_pos locked]

theorem partitionRestore_locked {s : State} {k : Nat} (t : Nat) (locked : s.coreLocked k = true) :
    Happens (.partitionRestore t k) s fun s' =>
      s'.cores = s.cores ∧ s'.mem = s.mem ∧ s'.pkgLog.length = s.pkgLog.length + 1 := by
  refine ⟨s.logLocked k, ?_, State.logAt_package ..⟩
  change execPartitionRestore t k s = _
  rw [execPartitionRestore, if_pos locked]

theorem State.askCores_one (s : State) (k : Nat) : (s.askCores [k]).core k =
    { s.core k with svcWant := (s.core k).svcWant || (s.core k).mode == .running || (s.core k).mode == .loading } :=
  State.core_updCore_self s k fun c => { c with svcWant := c.svcWant || c.mode == .running || c.mode == .loading }

theorem partitionSwapOut_asks {s : State} {k i : Nat} (unlocked : s.coreLocked k = false) (may : s.maySwap k i = true)
    (on : s.strandOn ((s.core k).resid i).tenant k = true) : Happens (.partitionSwapOut k i) s fun s' =>
      s'.core k = { s.core k with svcWant := (s.core k).svcWant || (s.core k).mode == .running || (s.core k).mode == .loading } ∧
      s'.mem = s.mem ∧ s'.images = s.images := by
  refine ⟨s.askCores [k], ?_, s.askCores_one k, rfl, rfl⟩
  change execPartitionSwapOut k i s = _
  rw [execPartitionSwapOut, if_neg (by simp [unlocked]), if_pos (by simp [may, on])]

/-! ### PARTITION_SWAP_OUT (R191) -/

theorem State.maySwap_of_displaced {s : State} {k i : Nat} (held : s.partHeld k i = true) (inside : i < partCount (s.core k).pmode)
    (present : (s.core k).absent.getLsbD i = false)
    (displacer : ∃ a ∈ (s.core k).away, a.1 = i ∧ a.2.v = true ∧ a.2.tenant ≠ ((s.core k).resid i).tenant ∧ a.2.gen = s.gen a.2.tenant)
    (jobs : s.class0Reaches ((s.core k).resid i).tenant k = false) : s.maySwap k i = true := by
  have displaced : s.displaced ((s.core k).resid i).tenant k i = true := by
    obtain ⟨a, ha, hi, hv, ht, hg⟩ := displacer
    exact List.any_eq_true.2 ⟨a, ha, by simp [hi, hv, ht, hg]⟩
  simp [State.maySwap, held, inside, present, displaced, jobs]

theorem partitionSwapOut_happens {s : State} {k i : Nat} (unlocked : s.coreLocked k = false) (may : s.maySwap k i = true)
    (inside : i < partCount (s.core k).pmode) (off : s.strandOn ((s.core k).resid i).tenant k = false) :
    let t := ((s.core k).resid i).tenant
    let lo := s.partBase k i
    let n := partBytes (s.core k).pmode
    Happens (.partitionSwapOut k i) s fun s' =>
      (s'.core k).absent.getLsbD i = true ∧ (∀ q, lo ≤ q → q < lo + n → memGet s'.mem q = 0) ∧
      (∀ q, q < lo ∨ lo + n ≤ q → memGet s'.mem q = memGet s.mem q) ∧ ∃ img, s'.images = s.images ++ [img] ∧
        img.tenant = t ∧ img.core = k ∧ (∀ o, o < n → Table.get img.cells o 0 = memGet s.mem (lo + o)) ∧
        (∀ g, g ∈ img.tags ↔ ∃ h ∈ s.tags, lo ≤ 64 * h ∧ 64 * h < lo + n ∧ g = h - lo / 64) ∧
        ∀ g, g ∈ s'.tags ↔ g ∈ s.tags ∧ ¬ (lo ≤ 64 * g ∧ 64 * g < lo + n) := by
  intro t lo n
  change ∃ s', execPartitionSwapOut k i s = .next s' ∧ _
  rw [execPartitionSwapOut, if_neg (by simp [unlocked]), if_neg (by simp [off])]
  refine State.event_happens may ⟨?_, fun q h1 h2 => zero_reads_zero s ⟨h1, h2⟩, fun q h => zero_reads_same s h, _, rfl, rfl, rfl,
    fun o ho => memGet_image s.mem ho, fun g => ?_, fun g => mem_zero_tags s lo (lo + n) g⟩
  · change (((s.zero lo (lo + n)).updCore k fun c => c.setAbsent i true).core k).absent.getLsbD i = true
    rw [State.core_updCore_self]
    exact Core.setAbsent_absent _ (Nat.lt_of_lt_of_le inside (partCount_le _)) true
  · simp only [List.mem_map, List.mem_filter, Bool.and_eq_true, decide_eq_true_eq]
    constructor
    · rintro ⟨h, ⟨hm, h1, h2⟩, rfl⟩
      exact ⟨h, hm, h1, h2, rfl⟩
    · rintro ⟨h, hm, h1, h2, rfl⟩
      exact ⟨h, ⟨hm, h1, h2⟩, rfl⟩

/-! ### PARTITION_RESTORE (R191, R397) -/

theorem State.performHeld_of_none {s : State} {t k : Nat} (none' : ∀ r ∈ s.heldReqs, ¬ (r.tenant = t ∧ r.core = k)) :
    s.performHeld t k = { s with heldReqs := s.heldReqs.filter fun r => !(r.tenant == t && r.core == k) } := by
  have nil : (s.heldReqs.filter fun r => r.tenant == t && r.core == k) = [] :=
    List.filter_eq_nil_iff.2 fun r hr => by simpa using none' r hr
  unfold State.performHeld
  rw [nil]
  rfl

/-- The core that a partition comes back to: as it is, or with its index given back (R397). -/
def State.withBack (s : State) (t k i : Nat) : State :=
  if (s.residentOn t k).isSome then s else s.updCore k fun c => c.comeBack t i { v := true, tenant := t, gen := s.gen t }

theorem State.withBack_same (s : State) (t k i : Nat) : (s.withBack t k i).mem = s.mem ∧ (s.withBack t k i).tags = s.tags ∧
    (s.withBack t k i).images = s.images ∧ (s.withBack t k i).heldReqs = s.heldReqs ∧
    ((s.withBack t k i).core k).pmode = (s.core k).pmode := by
  unfold State.withBack
  split
  · exact ⟨rfl, rfl, rfl, rfl, rfl⟩
  · refine ⟨rfl, rfl, rfl, rfl, ?_⟩
    rw [State.core_updCore_self]
    rfl

theorem State.withBack_resid {s : State} {t k i : Nat} (part : s.partOf t k = some i) (hi : i < 4) :
    ((s.withBack t k i).core k).resid i = { v := true, tenant := t, gen := s.gen t } := by
  unfold State.withBack
  cases h : s.residentOn t k with
  | some j =>
    have : j = i := by simpa [State.partOf, h] using part
    subst this
    exact State.residentOn_some h
  | none =>
    rw [if_neg (by simp), State.core_updCore_self]
    exact Core.resid_comeBack _ _ _ hi

/-- An image put back from a place on. -/
def State.imageBack (s : State) (t k i lo : Nat) (img : Image) : State :=
  let u := (s.zero lo (lo + partBytes (s.core k).pmode)).updCore k fun c =>
    { (c.setAbsent i false) with asked := c.asked.filter (· != t) }
  { u with
    mem := memPuts u.mem (img.cells.map fun (c : Host.Cell) => (c.1 + lo, c.2))
    tags := img.tags.foldl (fun ts g => tagPut ts (g + lo / 64) true) u.tags
    badUnits := u.badUnits ++ img.bad.map fun u => u + lo / 512
    slotStamps := img.stamps.foldl (fun (m : Table Nat) (x : Nat × Nat) => Table.set m (lo + x.1) x.2) u.slotStamps
    images := u.images.erase img }

theorem State.imageBack_core (s : State) (t k i lo : Nat) (img : Image) : (s.imageBack t k i lo img).core k =
    { ((s.core k).setAbsent i false) with asked := (s.core k).asked.filter (· != t) } :=
  State.core_updCore_self (s.zero lo (lo + partBytes (s.core k).pmode)) k fun c =>
    { (c.setAbsent i false) with asked := c.asked.filter (· != t) }

theorem exec_partitionRestore {s : State} {t k i : Nat} {img : Image} (unlocked : s.coreLocked k = false)
    (part : s.partOf t k = some i) (image : (s.images.find? fun p => p.tenant == t && p.core == k) = some img)
    (absent : s.absentOn t k = true) (free : s.backFree t k i = true) :
    exec (.partitionRestore t k) s = .next (((s.withBack t k i).imageBack t k i (s.partBase k i) img).performHeld t k) := by
  change execPartitionRestore t k s = _
  rw [execPartitionRestore, if_neg (by simp [unlocked]), part, image]
  exact State.event_enabled (by simp [absent, free])

theorem partitionRestore_happens {s : State} {t k i : Nat} {img : Image} (unlocked : s.coreLocked k = false)
    (part : s.partOf t k = some i) (image : (s.images.find? fun p => p.tenant == t && p.core == k) = some img)
    (absent : s.absentOn t k = true) (free : s.backFree t k i = true)
    (none' : ∀ r ∈ s.heldReqs, ¬ (r.tenant = t ∧ r.core = k)) : Happens (.partitionRestore t k) s fun s' =>
      let lo := s.partBase k i
      (s'.core k).absent.getLsbD i = false ∧ s'.images = s.images.erase img ∧
      (i < 4 → (s'.core k).resid i = { v := true, tenant := t, gen := s.gen t }) ∧
      s'.mem = memPuts (memClear s.mem lo (lo + partBytes (s.core k).pmode)) (img.cells.map fun c => (c.1 + lo, c.2)) ∧
      ∀ g, g ∈ s'.tags ↔ (∃ h ∈ img.tags, g = h + lo / 64) ∨
        (g ∈ s.tags ∧ ¬ (lo ≤ 64 * g ∧ 64 * g < lo + partBytes (s.core k).pmode)) := by
  obtain ⟨bmem, btags, bimages, bheld, bmode⟩ := s.withBack_same t k i
  have bresid := State.withBack_resid part
  refine ⟨_, (exec_partitionRestore unlocked part image absent free).trans (congrArg Host.Outcome.next
    (State.performHeld_of_none (by simpa [State.imageBack, bheld] using none'))), ?_⟩
  generalize s.withBack t k i = u at bmem btags bimages bheld bmode bresid ⊢
  rw [← bmem, ← btags, ← bimages, ← bmode]
  refine ⟨?_, rfl, fun hi => ?_, rfl, fun g => ?_⟩
  · exact (congrArg (fun c : Core => c.absent.getLsbD i) (u.imageBack_core t k i (s.partBase k i) img)).trans
      (Core.setAbsent_false _ i)
  · exact (congrArg (fun c : Core => c.resid i) (u.imageBack_core t k i (s.partBase k i) img)).trans (bresid hi)
  · refine (mem_tagPuts_true _ img.tags _ g).trans (or_congr_right ?_)
    exact mem_zero_tags u _ _ g

/-! ### PARTITION_MODE_CHANGE (R188) -/

theorem partitionModeChange_happens {s : State} {k : Nat} {mode : BitVec 2} (unlocked : s.coreLocked k = false)
    (free : ∀ i, i < 4 → s.partHeld k i = false) (none' : (s.core k).away = []) (known : mode ≠ 3) :
    Happens (.partitionModeChange k mode) s fun s' => s'.core k = { s.core k with pmode := mode } ∧ s'.mem = s.mem := by
  have empty : ((List.range 4).all (fun i => !s.partHeld k i) && (s.core k).away.isEmpty) = true := by
    rw [none', List.isEmpty_nil, Bool.and_true, List.all_eq_true]
    exact fun i hi => by simp [free i (List.mem_range.1 hi)]
  refine ⟨s.updCore k fun c => { c with pmode := mode }, ?_, State.core_updCore_self .., rfl⟩
  change execPartitionModeChange k mode s = _
  rw [execPartitionModeChange, if_neg (by simp [unlocked]), if_neg known, if_pos empty]

/-- A core that holds a partition of some tenant keeps its mode. -/
theorem exec_partitionModeChange_of_held {s : State} {k : Nat} {mode : BitVec 2} (unlocked : s.coreLocked k = false) (known : mode ≠ 3)
    (held : (∃ i, i < 4 ∧ s.partHeld k i = true) ∨ (s.core k).away ≠ []) : exec (.partitionModeChange k mode) s =
      if s.soleHolder (s.core k).strand.tenant k then .next s else .next (s.askCores [k]) := by
  have full : ¬ ((List.range 4).all (fun i => !s.partHeld k i) && (s.core k).away.isEmpty) = true := by
    rw [Bool.and_eq_true, List.all_eq_true, List.isEmpty_iff]
    rintro ⟨free, none'⟩
    rcases held with ⟨i, hi, h⟩ | h
    · simpa [h] using free i (List.mem_range.2 hi)
    · exact h none'
  change execPartitionModeChange k mode s = _
  rw [execPartitionModeChange, if_neg (by simp [unlocked]), if_neg known, if_neg full]

theorem partitionModeChange_asks {s : State} {k : Nat} {mode : BitVec 2} (unlocked : s.coreLocked k = false) (known : mode ≠ 3)
    (held : (∃ i, i < 4 ∧ s.partHeld k i = true) ∨ (s.core k).away ≠ [])
    (shared : s.soleHolder (s.core k).strand.tenant k = false) : Happens (.partitionModeChange k mode) s fun s' =>
      s'.core k = { s.core k with svcWant := (s.core k).svcWant || (s.core k).mode == .running || (s.core k).mode == .loading } ∧
      s'.mem = s.mem := by
  refine ⟨s.askCores [k], ?_, s.askCores_one k, rfl⟩
  rw [exec_partitionModeChange_of_held unlocked known held, if_neg (by simp [shared])]

/-! ### VAULT_BLOCK_ASSIGN (R194) -/

theorem vaultBlockAssign_happens {s : State} {v b : Nat} (t : Nat) (free : (Table.get s.blocks (24 * v + b) {}).v = false) :
    Happens (.vaultBlockAssign v b (some t)) s fun s' =>
      let lo := Config.vaultFlat + 0x200000 * v + 0x10000 * b
      Table.get s'.blocks (24 * v + b) {} = { v := true, tenant := t, gen := s.gen t } ∧
      (∀ q, lo ≤ q → q < lo + 0x10000 → memGet s'.mem q = 0) ∧
      ∀ q, q < lo ∨ lo + 0x10000 ≤ q → memGet s'.mem q = memGet s.mem q := by
  change ∃ s', execVaultBlockAssign v b (some t) s = .next s' ∧ _
  rw [execVaultBlockAssign]
  exact State.event_happens (by rw [free]; rfl)
    ⟨Table.get_set_self .., fun q h1 h2 => zero_reads_zero s ⟨h1, h2⟩, fun q h => zero_reads_same s h⟩

end Sys2Proof.Machine
end

section
/-! O57, part 3: mappings, program loads and adapter slots (02 R75, R76, 06 R203 to R214, 12 R406, R408). -/

namespace Sys2Proof.Machine

/-! ### Words of memory -/

theorem bytesNat_lt (bs : List Byte) : bytesNat bs < 256 ^ bs.length := by
  induction bs with
  | nil => exact Nat.one_pos
  | cons b r ih =>
    have hb : b.toNat < 256 := b.isLt
    have e : bytesNat (b :: r) = b.toNat + 256 * bytesNat r := rfl
    rw [e, List.length_cons, Nat.pow_succ]
    omega

theorem memNat_lt (m : List Host.Cell) (a n : Nat) : memNat m a n < 256 ^ n := by
  have h := bytesNat_lt (memRead m a n)
  rwa [memRead, List.length_map, List.length_range] at h

theorem memNat_putWord (s : State) (a : Nat) (v : Word) : memNat (s.putWord a v).mem a 8 = v.toNat := by
  unfold State.putWord
  split
  next h =>
    have lt := memNat_lt s.mem a 8
    rw [← h]
    exact (Nat.mod_eq_of_lt lt).symm
  next =>
    refine (memNat_cellsFrom s.mem a 8 v.toNat).trans (Nat.mod_eq_of_lt v.isLt)

/-! ### Cleaning and keying leave the units that fail as they were, or fewer (R197, R208) -/

theorem State.writeBack_badUnits (s : State) (l : L2Line) : (s.writeBack l).badUnits = s.badUnits := by
  unfold State.writeBack
  split
  · rfl
  · split
    · obtain ⟨fns, pkgLog, e⟩ := s.logAt_eq 0x03 (unitAt l.place).1 (unitAt l.place).2 (some l.tenant) (w64 l.place) 0x23
      rw [e]
    · split <;> rfl

theorem State.cleanLines_badUnits (s : State) (t lo hi : Nat) : (s.cleanLines t lo hi).badUnits = s.badUnits :=
  State.foldl_keeps State.badUnits _ s.l2 (fun u l _ => by
    split
    · exact u.writeBack_badUnits l
    · rfl) s

theorem State.cleanEntry_badUnits (s : State) (t level : Nat) (p : Word) : (s.cleanEntry t level p).badUnits = s.badUnits :=
  State.foldl_keeps State.badUnits _ _ (fun u _ _ => u.cleanLines_badUnits t _ _) s

theorem State.keyFrame_badAt {s : State} {a : Nat} (t frame : Nat) (h : s.badAt a = false) : (s.keyFrame t frame).badAt a = false := by
  unfold State.keyFrame
  split
  · exact h
  · have none' : a / 512 ∉ s.badUnits := by simpa [State.badAt] using h
    change (s.badUnits.filter _).contains (a / 512) = false
    rw [← Bool.not_eq_true, List.contains_iff_mem]
    exact fun hm => none' (List.mem_of_mem_filter hm)

theorem State.keyLeaves_badAt {s : State} {a : Nat} (t : Nat) (ls : List (Word × Nat)) (h : s.badAt a = false) :
    (s.keyLeaves t ls).badAt a = false :=
  List.foldlRecOn (motive := fun u : State => u.badAt a = false) ls _ h fun _ hu _ _ =>
    List.foldlRecOn (motive := fun u : State => u.badAt a = false) _ _ hu fun _ hv _ _ => State.keyFrame_badAt t _ hv

/-! ### MAPPING_SHOOTDOWN (R208, R213, R389) -/

section
variable {s : State} {t va a level : Nat} {pte : Word} (entry : entryLevel s.mem va a 4 0 (s.tenant t).ptroot = some level)
include entry

theorem mappingShootdown_refused (h : entryKept s.mem level pte = false ∨ ∃ l ∈ entryLeaves s.mem level pte,
    s.mayMap (memPuts s.mem (cellsFrom a (natBytes 8 0))) t l = false) : exec (.mappingShootdown t va a pte) s = .next s := by
  change execMappingShootdown t va a pte s = _
  rw [execMappingShootdown, entry]
  refine State.event_disabled ?_
  rcases h with h | ⟨l, hl, h⟩
  · rw [h, Bool.and_false, Bool.false_and]
  · rw [Bool.and_eq_false_iff]
    exact Or.inr (List.all_eq_false.2 ⟨l, hl, by simp [h]⟩)

variable (valid : (s.tenant t).v = true) (paged : translated va = true) (inside : a + 8 ≤ Config.deviceBytes)
  (kept : entryKept s.mem level pte = true)
  (may : ∀ l ∈ entryLeaves s.mem level pte, s.mayMap (memPuts s.mem (cellsFrom a (natBytes 8 0))) t l = true)
include valid paged inside kept may

omit entry in
theorem mappingShootdown_admits : ((s.tenant t).v && translated va && decide (a + 8 ≤ Config.deviceBytes) && entryKept s.mem level pte &&
    (entryLeaves s.mem level pte).all fun l => s.mayMap (memPuts s.mem (cellsFrom a (natBytes 8 0))) t l) = true := by
  simp only [valid, paged, inside, kept, decide_true, Bool.true_and, List.all_eq_true]
  exact may

theorem mappingShootdown_writes (sound : s.badAt a = false)
    (unused : s.accessWithin t (va - va % entrySpan level) (va - va % entrySpan level + entrySpan level) = false) :
    let size := entrySpan level
    let lo := va - va % size
    Happens (.mappingShootdown t va a pte) s fun s' =>
      memNat s'.mem a 8 = pte.toNat ∧ ∀ e ∈ s'.tlb, e.tenant = t → ¬ (e.base < lo + size ∧ lo < e.base + e.size) := by
  intro size lo
  change ∃ s', execMappingShootdown t va a pte s = .next s' ∧ _
  rw [execMappingShootdown, entry]
  refine State.event_happens (mappingShootdown_admits valid paged inside kept may) ?_
  dsimp only
  rw [if_neg (by rw [unused]; exact Bool.false_ne_true)]
  refine ⟨?_, fun e he et => ?_⟩
  · generalize hu : (s.cleanEntry t level (w64 (memNat s.mem a 8))).keyLeaves t _ = u
    have still : u.badAt a = false := by
      rw [← hu]
      refine State.keyLeaves_badAt t _ ?_
      rw [State.badAt, State.cleanEntry_badUnits]
      exact sound
    change memNat (u.serviceWrite t a pte).mem a 8 = _
    rw [State.serviceWrite, if_neg (by rw [still]; exact Bool.false_ne_true), memNat_putWord]
  · have out := (List.mem_filter.1 he).2
    beta_reduce at out
    rw [Bool.not_eq_true', et, beq_self_eq_true, Bool.true_and, ← Bool.not_eq_true, Bool.and_eq_true, decide_eq_true_eq,
      decide_eq_true_eq] at out
    exact out

theorem mappingShootdown_waits
    (used : s.accessWithin t (va - va % entrySpan level) (va - va % entrySpan level + entrySpan level) = true) :
    Happens (.mappingShootdown t va a pte) s fun s' =>
      s'.mem = s.mem ∧ s'.tlb = s.tlb ∧ (t, va, a, pte) ∈ s'.service.shootdowns := by
  change ∃ s', execMappingShootdown t va a pte s = .next s' ∧ _
  rw [execMappingShootdown, entry]
  refine State.event_happens (mappingShootdown_admits valid paged inside kept may) ?_
  dsimp only
  rw [if_pos used]
  exact ⟨rfl, rfl, List.mem_append_right _ (List.mem_singleton.2 rfl)⟩

end

/-! ### PROGRAM_LOAD (R75, R76) -/

theorem State.firstLocked_of_unlocked {s : State} {vas : List Nat} (h : ∀ va ∈ vas, s.lockedAt va = none) :
    s.firstLocked vas = none := by
  refine List.findSome?_eq_none_iff.2 fun va hva => ?_
  have unlocked := h va hva
  unfold State.lockedAt at unlocked
  cases w : windowOf va with
  | spad k o =>
    rw [w] at unlocked
    dsimp only at unlocked ⊢
    split at unlocked
    · exact absurd unlocked (Option.some_ne_none _)
    next h => exact if_neg h
  | heap => rfl
  | host => rfl
  | vault v o => rfl
  | counter p o => rfl
  | reserved => rfl

section
variable {s : State} {r : LoadRequest} (valid : (s.tenant r.tenant).v = true) (open' : s.service.stopped = false)
  (reach : ∀ x ∈ r.images, s.heldAt r.tenant x.place = false ∧ s.lockedAt x.place = none)
include valid open' reach

theorem exec_programLoad : exec (.programLoad r) s = s.event true fun s =>
    match s.load75 r with
    | .ok s => { s with answer := .loaded 0 }
    | .error f => { s with answer := .loaded f.cause } := by
  have unlocked : s.firstLocked (r.images.map (·.place)) = none := State.firstLocked_of_unlocked fun va hva => by
    obtain ⟨x, hx, rfl⟩ := List.mem_map.1 hva
    exact (reach x hx).2
  have present : (r.images.any fun x => s.heldAt r.tenant x.place) = false :=
    List.any_eq_false.2 fun x hx => by simp [(reach x hx).1]
  change execProgramLoad r s = _
  rw [execProgramLoad, unlocked, valid, open', present] <;> rfl

theorem programLoad_refused {f : Trap} (h : s.load75 r = .error f) :
    exec (.programLoad r) s = .next { s with answer := .loaded f.cause } := by
  rw [exec_programLoad valid open' reach, State.event_enabled rfl, h]

theorem programLoad_accepted {u : State} (h : s.load75 r = .ok u) :
    exec (.programLoad r) s = .next { u with answer := .loaded 0 } := by
  rw [exec_programLoad valid open' reach, State.event_enabled rfl, h]

end

/-- A task entry written on a core. -/
def State.withTask (s : State) (k : Nat) (n : BitVec 6) (e : TaskEntry) : State :=
  s.updCore k fun c => { c with tasks := Table.set c.tasks n.toNat e }

theorem State.task_withTask (s : State) (k : Nat) (n : BitVec 6) (e : TaskEntry) : (s.withTask k n e).task k n = e := by
  rw [State.task, State.withTask, State.core_updCore_self, Table.get_set_self]

/-- A load of one task for one core that passes its checks writes the entry. -/
theorem State.load75_one {s : State} {r : LoadRequest} {k : Nat} {t : LoadTask} (cores : r.cores = [k]) (tasks : r.tasks = [t])
    (images : r.images = []) (core : k < 1024) (entry : t.entry < 2 ^ 34) (words : wordsOf r < 2 ^ 32)
    (code : admitImage [textOf r] [] (codeOf (textOf r) (wordsOf r) t.comp) = .ok ()) (fits : s.taskValid k (loadEntry r t) = true) :
    s.load75 r = .ok (s.withTask k t.index (loadEntry r t)) := by
  have load : s.loadTask r k t = .ok (s.withTask k t.index (loadEntry r t)) := by
    have pass : (decide (t.entry < 2 ^ 34) && decide (k < Config.cores) && s.taskValid k (loadEntry r t)) = true := by
      rw [decide_eq_true entry, decide_eq_true (show k < Config.cores from core), fits]; rfl
    simp only [State.loadTask, pass, need_true_bind]
    rfl
  simp only [State.load75, cores, tasks, images, List.mapM_nil, List.mapM_cons, List.map_cons, List.map_nil, List.foldlM_cons,
    List.foldlM_nil, words, code, load]
  rfl

theorem programLoad_happens {s : State} {r : LoadRequest} (valid : (s.tenant r.tenant).v = true) (open' : s.service.stopped = false)
    {k : Nat} {t : LoadTask} (cores : r.cores = [k]) (tasks : r.tasks = [t])
    (images : r.images = []) (core : k < 1024) (entry : t.entry < 2 ^ 34) (words : wordsOf r < 2 ^ 32)
    (code : admitImage [textOf r] [] (codeOf (textOf r) (wordsOf r) t.comp) = .ok ()) (fits : s.taskValid k (loadEntry r t) = true) :
    Happens (.programLoad r) s fun s' => s'.task k t.index = loadEntry r t ∧ s'.answer = .loaded 0 ∧ s'.mem = s.mem := by
  refine ⟨_, programLoad_accepted valid open' (by rw [images]; exact fun x hx => absurd hx List.not_mem_nil)
    (State.load75_one cores tasks images core entry words code fits), ?_, rfl, rfl⟩
  exact s.task_withTask k t.index (loadEntry r t)

/-! ### Writes of granules at places that memory holds itself (R201, R224) -/

theorem State.badAt_replaced {s : State} {a : Nat} (fs : List Nat) (h : s.badAt a = false) : (s.replaced fs).badAt a = false := by
  unfold State.replaced
  split
  · exact h
  · have none' : a / 512 ∉ s.badUnits := by simpa [State.badAt] using h
    change (s.badUnits.filter _).contains (a / 512) = false
    rw [← Bool.not_eq_true, List.contains_iff_mem]
    exact fun hm => none' (List.mem_of_mem_filter hm)

/-- Touching places outside the L2 whose units can be read changes nothing. -/
theorem State.touch_direct {s : State} (t va : Nat) {ps : List Place}
    (h : ∀ p ∈ ps, p.home.sliceNo = none ∧ s.badAt p.flat = false) : s.touch t va ps = .ok s := by
  unfold State.touch
  induction ps with
  | nil => rfl
  | cons p ps ih =>
    obtain ⟨home, sound⟩ := h p List.mem_cons_self
    rw [List.foldlM_cons, home]
    simp only [sound]
    exact ih fun q hq => h q (List.mem_cons_of_mem _ hq)

/-- A byte poked outside the L2. -/
theorem State.pokeByte_direct (s : State) (t : Nat) {p : Place} (b : Byte) (home : p.home.sliceNo = none) :
    s.pokeByte t p b = { s with mem := memPut s.mem p.flat b, tags := tagPut s.tags (p.flat / 64) false } := by
  unfold State.pokeByte
  rw [home]

/-- Bytes laid at places that memory holds itself, the tags of their granules cleared. -/
def State.laid (s : State) (cells : List (Place × Byte)) : State :=
  { s with
    mem := memPuts s.mem (cells.map fun c => (c.1.flat, c.2))
    tags := cells.foldl (fun ts c => tagPut ts (c.1.flat / 64) false) s.tags }

theorem State.pokeBytes_direct (s : State) (t : Nat) {cells : List (Place × Byte)} (home : ∀ c ∈ cells, c.1.home.sliceNo = none) :
    cells.foldl (fun s p => s.pokeByte t p.1 p.2) s = s.laid cells := by
  induction cells generalizing s with
  | nil => rfl
  | cons c cells ih =>
    rw [List.foldl_cons, s.pokeByte_direct t c.2 (home c List.mem_cons_self), ih _ fun d hd => home d (List.mem_cons_of_mem _ hd)]
    rfl

theorem State.replaced_eq (s : State) (fs : List Nat) : ∃ bad, s.replaced fs = { s with badUnits := bad } := by
  unfold State.replaced
  split
  · exact ⟨s.badUnits, rfl⟩
  · exact ⟨_, rfl⟩

theorem State.keepOld_eq (s b : State) (t : Nat) (ps : List Place) : ∃ old, s.keepOld b t ps = { s with old } := ⟨_, rfl⟩

/-- Bytes written at places that memory holds itself: each lies there, and what was there is kept for the engines that see it late. -/
theorem State.writePlaces_direct {s : State} (t va : Nat) {cells : List (Place × Byte)} (h : s.direct (cells.map (·.1))) :
    ∃ badUnits old, s.writePlaces t va cells = .ok { s.laid cells with badUnits, old } := by
  have touched : (s.replaced (cells.map (·.1.flat))).touch t va (cells.map (·.1)) = .ok (s.replaced (cells.map (·.1.flat))) :=
    State.touch_direct t va fun p hp => ⟨(h p hp).2.1, State.badAt_replaced _ (h p hp).2.2⟩
  have home : ∀ c ∈ cells, c.1.home.sliceNo = none := fun c hc => (h c.1 (List.mem_map_of_mem hc)).2.1
  obtain ⟨badUnits, eb⟩ := s.replaced_eq (cells.map (·.1.flat))
  obtain ⟨old, eo⟩ := State.keepOld_eq (State.laid { s with badUnits } cells) { s with badUnits } t (cells.map (·.1))
  refine ⟨badUnits, old, ?_⟩
  unfold State.writePlaces
  rw [touched, eb]
  have poked := State.pokeBytes_direct { s with badUnits } t home
  exact congrArg Except.ok ((congrArg (fun u : State => u.keepOld _ t _) poked).trans eo)

theorem State.laid_tags_iff (s : State) (cells : List (Place × Byte)) (g : Nat) :
    g ∈ (s.laid cells).tags ↔ g ∈ s.tags ∧ ∀ c ∈ cells, g ≠ c.1.flat / 64 := by
  unfold State.laid
  dsimp only
  generalize s.tags = ts
  induction cells generalizing ts with
  | nil => simp
  | cons c cells ih =>
    rw [List.foldl_cons, ih]
    simp only [tagPut, tagDel, Bool.false_eq_true, if_false, List.mem_filter, bne_iff_ne, List.mem_cons, forall_eq_or_imp]
    exact and_assoc

theorem mem_cellsFrom_zip (flat : Nat) (home : Home) (bs : List Byte) :
    ((((List.range bs.length).map fun i => ({ flat := flat + i, home } : Place)).zip bs).map fun c => (c.1.flat, c.2)) =
      cellsFrom flat bs := by
  induction bs generalizing flat with
  | nil => rfl
  | cons b bs ih =>
    rw [List.length_cons, List.range_succ_eq_map, List.map_cons, List.zip_cons_cons, List.map_cons, List.map_map]
    refine congrArg _ (Eq.trans ?_ (ih (flat + 1)))
    congr 2
    exact List.map_congr_left fun i _ => by simp [Nat.add_right_comm, Nat.add_assoc]

/-- The bytes of a granule, each at its place. -/
def granuleCells (p : Place) (img : Vec) : List (Place × Byte) :=
  ((List.range 64).map fun i => ({ flat := p.flat + i, home := p.home } : Place)).zip (natBytes 64 img.toNat)

theorem granuleCells_places (p : Place) (img : Vec) :
    (granuleCells p img).map (·.1) = (List.range 64).map fun i => { flat := p.flat + i, home := p.home } :=
  List.map_fst_zip (by simp)

theorem granuleCells_cells (p : Place) (img : Vec) :
    ((granuleCells p img).map fun c => (c.1.flat, c.2)) = cellsFrom p.flat (natBytes 64 img.toNat) := by
  have cells := mem_cellsFrom_zip p.flat p.home (natBytes 64 img.toNat)
  rwa [natBytes_length] at cells

theorem State.writeGranule_of_written {s u : State} {t va : Nat} {p : Place} {img : Vec}
    (written : s.writePlaces t va (granuleCells p img) = .ok u) (home : p.home.sliceNo = none) (host : isHostPlace p.flat = false) :
    s.writeGranule t va p img true = .ok { u with tags := tagPut u.tags (p.flat / 64) true } := by
  unfold granuleCells at written
  unfold State.writeGranule
  dsimp only
  rw [written, home, host]
  rfl

/-- A granule written with its tag where memory holds it itself. -/
theorem State.writeGranule_direct {s : State} (t va : Nat) {p : Place} (img : Vec)
    (h : s.direct ((List.range 64).map fun i => { flat := p.flat + i, home := p.home })) :
    ∃ tags badUnits old, s.writeGranule t va p img true = .ok { s.laid (granuleCells p img) with tags, badUnits, old } ∧
      p.flat / 64 ∈ tags := by
  obtain ⟨badUnits, old, e⟩ := State.writePlaces_direct (s := s) t va (cells := granuleCells p img)
    (by rw [granuleCells_places]; exact h)
  obtain ⟨host, home, -⟩ := h { flat := p.flat + 0, home := p.home } (List.mem_map.2 ⟨0, by simp, rfl⟩)
  exact ⟨_, badUnits, old, State.writeGranule_of_written e home host, (mem_tagPut_true ..).2 (Or.inl rfl)⟩

theorem State.memNat_laid_granule (s : State) (p : Place) (img : Vec) :
    memNat (s.laid (granuleCells p img)).mem p.flat 64 = img.toNat := by
  have mem : (s.laid (granuleCells p img)).mem = memPuts s.mem (cellsFrom p.flat (natBytes 64 img.toNat)) :=
    congrArg (memPuts s.mem) (granuleCells_cells p img)
  rw [mem, memNat_cellsFrom]
  exact Nat.mod_eq_of_lt (img.isLt.trans_eq (Nat.pow_mul 2 8 64))

/-! ### ADAPTER_SLOT_ALLOT (R406, R408) -/

theorem adapterSlotAllot_happens {s : State} {n t dbase dsize dest : Nat} {p : Place} (slot : n < 8192) (valid : (s.tenant t).v = true)
    (aligned : dbase % 65536 = 0) (below : dbase + dsize ≤ 2 ^ 48) (pages : dsize % 4096 = 0) (some' : dsize ≠ 0) (small : dsize < 2 ^ 32)
    (granule : dest % 64 = 0) (apart : s.inStorage t n dbase (dbase + dsize) = false)
    (unlocked : s.lockedAt dest = none) (present : s.heldAt t dest = false) (place : s.placeOf t dest needW false dest = .ok p)
    (direct : s.direct ((List.range 64).map fun i => { flat := p.flat + i, home := p.home })) :
    Happens (.adapterSlotAllot n t dbase dsize dest) s fun s' => (s'.slot n).dbase = dbase ∧ (s'.slot n).dsize = dsize ∧
      (s'.slot n).tenant = t ∧ (s'.slot n).tgen = s.gen t ∧ (s'.slot n).allot = true ∧ (s'.slot n).claimed = false ∧
      (∀ m, m ≠ n → s'.slot m = s.slot m) ∧ memNat s'.mem p.flat 64 = (slotCap n).img.toNat ∧ p.flat / 64 ∈ s'.tags := by
  obtain ⟨tags, badUnits, old, written, tagged⟩ := State.writeGranule_direct t dest (slotCap n).img direct
  have fits : (decide (n < slotCount) && (s.tenant t).v && dbase % 65536 == 0 && decide (dbase + dsize ≤ 2 ^ 48) &&
      dsize % 4096 == 0 && dsize != 0 && decide (dsize < 2 ^ 32) && dest % 64 == 0 && !s.inStorage t n dbase (dbase + dsize)) = true := by
    simp only [decide_eq_true (show n < slotCount from slot), valid, aligned, decide_eq_true below, pages, bne_iff_ne.2 some',
      decide_eq_true small, granule, apart]
    rfl
  change ∃ s', execAdapterSlotAllot n t dbase dsize dest s = .next s' ∧ _
  rw [execAdapterSlotAllot, unlocked, present, place]
  dsimp only
  rw [if_neg Bool.false_ne_true, show (Except.ok p >>= fun p => s.writeGranule t dest p (slotCap n).img true) = _ from written]
  refine State.event_happens fits ?_
  rw [State.slot_updSlot_self]
  exact ⟨rfl, rfl, rfl, rfl, rfl, rfl, fun m hm => State.slot_updSlot_ne _ _ hm, s.memNat_laid_granule p (slotCap n).img, tagged⟩

end Sys2Proof.Machine
end

section
/-! O57, part 4: the first four phases of a sweep (12 R412 to R417). -/

namespace Sys2Proof.Machine

/-! ### The error logs, which the phases write beside what they mark and clear -/

/-- A state that differs from s at most in its error logs. -/
def State.LogsOnly (s u : State) : Prop := ∃ fns pkgLog, u = { s with fns, pkgLog }

theorem State.LogsOnly.refl (s : State) : s.LogsOnly s := ⟨s.fns, s.pkgLog, rfl⟩

theorem State.LogsOnly.trans {s u v : State} (h : s.LogsOnly u) (g : u.LogsOnly v) : s.LogsOnly v := by
  obtain ⟨_, _, rfl⟩ := h
  obtain ⟨fns, pkgLog, rfl⟩ := g
  exact ⟨fns, pkgLog, rfl⟩

theorem State.LogsOnly.foldl {α : Type} {f : State → α → State} (step : ∀ (u : State) a, u.LogsOnly (f u a)) (l : List α) (s : State) :
    s.LogsOnly (l.foldl f s) :=
  List.foldlRecOn (motive := s.LogsOnly) l f (State.LogsOnly.refl s) fun u h a _ => h.trans (step u a)

theorem State.noteFailing_logsOnly (s : State) (t flat va : Nat) : s.LogsOnly (s.noteFailing t flat va) := s.logAt_eq ..

theorem State.noteTests_logsOnly (s : State) (t : Nat) (imgs : List Vec) : s.LogsOnly (s.noteTests t imgs) := by
  unfold State.noteTests
  exact State.LogsOnly.foldl (fun u _ => State.LogsOnly.foldl (fun v va => v.noteFailing_logsOnly t (v.testPlace t va) va) _ u) imgs s

theorem State.noteAll_logsOnly (s : State) (l : List (Nat × List Vec)) : s.LogsOnly (s.noteAll l) := by
  unfold State.noteAll
  exact State.LogsOnly.foldl (fun u (x : Nat × List Vec) => u.noteTests_logsOnly x.1 x.2) l s

theorem State.noteWalks_logsOnly (s : State) (w : WeedReq) : s.LogsOnly (s.noteWalks w) := by
  unfold State.noteWalks
  exact State.LogsOnly.foldl (fun u va => u.noteFailing_logsOnly w.tenant (u.tenant w.tenant).ptroot va) _ s

theorem State.noteGranules_logsOnly (s : State) : s.LogsOnly s.noteGranules := by
  unfold State.noteGranules
  refine State.LogsOnly.foldl (fun u g => ?_) s.tags s
  split
  · exact State.LogsOnly.foldl (fun v (t : Nat × Tenant) => v.noteFailing_logsOnly t.1 (64 * g) (64 * g)) _ u
  · exact State.LogsOnly.refl u

/-! ### Phase 1: marks (R412, R416) -/

/-- Bit p of the revocation bitmap is set. -/
def Marked (m : List Host.Cell) (p : Nat) : Prop := (memGet m (bitmapAt p)).getLsbD (p % 8) = true

theorem marked_setMark (m : List Host.Cell) (p : Nat) : Marked (setMark m p true) p := by
  unfold Marked setMark putBit
  rw [memGet_memPut, if_pos rfl, getLsbD_putBits _ _ (Nat.mod_lt p (by decide)), if_pos (by omega)]
  simp

theorem marked_setMark_of_marked {m : List Host.Cell} {q : Nat} (p : Nat) (h : Marked m q) : Marked (setMark m p true) q := by
  unfold Marked setMark putBit at *
  rw [memGet_memPut]
  split
  next same =>
    rw [getLsbD_putBits _ _ (Nat.mod_lt q (by decide)), ← same]
    split
    next hit => rw [show q % 8 - p % 8 = 0 by omega]; rfl
    next => exact h
  next => exact h

/-- A state that differs from s at most in its error logs and in bits of memory set since. -/
def State.MarksOnly (s u : State) : Prop :=
  ∃ mem fns pkgLog, u = { s with mem, fns, pkgLog } ∧ ∀ q, Marked s.mem q → Marked mem q

theorem State.MarksOnly.refl (s : State) : s.MarksOnly s := ⟨s.mem, s.fns, s.pkgLog, rfl, fun _ h => h⟩

theorem State.MarksOnly.trans {s u v : State} (h : s.MarksOnly u) (g : u.MarksOnly v) : s.MarksOnly v := by
  obtain ⟨_, _, _, rfl, k⟩ := h
  obtain ⟨mem, fns, pkgLog, rfl, l⟩ := g
  exact ⟨mem, fns, pkgLog, rfl, fun q hq => l q (k q hq)⟩

theorem State.LogsOnly.marksOnly {s u : State} (h : s.LogsOnly u) : s.MarksOnly u := by
  obtain ⟨fns, pkgLog, rfl⟩ := h
  exact ⟨s.mem, fns, pkgLog, rfl, fun _ h => h⟩

theorem State.MarksOnly.marked {s u : State} {q : Nat} (h : s.MarksOnly u) (m : Marked s.mem q) : Marked u.mem q := by
  obtain ⟨_, _, _, rfl, k⟩ := h
  exact k q m

theorem State.MarksOnly.badAt {s u : State} (h : s.MarksOnly u) (a : Nat) : u.badAt a = s.badAt a := by
  obtain ⟨_, _, _, rfl, -⟩ := h
  rfl

theorem State.mark_marksOnly (s : State) (t p : Nat) : s.MarksOnly (s.mark t p) := by
  unfold State.mark
  split
  · exact (s.noteFailing_logsOnly ..).marksOnly
  · exact ⟨_, s.fns, s.pkgLog, rfl, fun q h => marked_setMark_of_marked p h⟩

theorem State.mark_marks {s : State} (t : Nat) {p : Nat} (sound : s.badAt (bitmapAt p) = false) : Marked (s.mark t p).mem p := by
  rw [State.mark, if_neg (by rw [sound]; exact Bool.false_ne_true)]
  exact marked_setMark s.mem p

/-- Pages marked one after the other. -/
theorem State.marks (s : State) (t : Nat) (l : List Nat) : s.MarksOnly (l.foldl (fun u p => u.mark t p) s) ∧
    ∀ p ∈ l, s.badAt (bitmapAt p) = false → Marked (l.foldl (fun u p => u.mark t p) s).mem p := by
  induction l generalizing s with
  | nil => exact ⟨State.MarksOnly.refl s, fun p hp => absurd hp List.not_mem_nil⟩
  | cons a l ih =>
    obtain ⟨only, all⟩ := ih (s.mark t a)
    have first := s.mark_marksOnly t a
    refine ⟨first.trans only, fun p hp sound => ?_⟩
    rcases List.mem_cons.1 hp with rfl | hp
    · exact only.marked (State.mark_marks t sound)
    · exact all p hp ((first.badAt _).trans sound)

/-- The pages of requests marked, request by request, `pages` their pages. -/
theorem State.marksAll (pages : WeedReq → List Nat) (s : State) (ws : List WeedReq) :
    let f := fun (u : State) (w : WeedReq) => (pages w).foldl (fun u p => u.mark w.tenant p) (u.noteWalks w)
    s.MarksOnly (ws.foldl f s) ∧ ∀ w ∈ ws, ∀ p ∈ pages w, s.badAt (bitmapAt p) = false → Marked (ws.foldl f s).mem p := by
  intro f
  induction ws generalizing s with
  | nil => exact ⟨State.MarksOnly.refl s, fun w hw => absurd hw List.not_mem_nil⟩
  | cons a ws ih =>
    have noted := (s.noteWalks_logsOnly a).marksOnly
    obtain ⟨one, own⟩ := (s.noteWalks a).marks a.tenant (pages a)
    obtain ⟨only, all⟩ := ih (f s a)
    have first : s.MarksOnly (f s a) := noted.trans one
    refine ⟨first.trans only, fun w hw p hp sound => ?_⟩
    rcases List.mem_cons.1 hw with rfl | hw
    · exact only.marked (own p hp ((noted.badAt _).trans sound))
    · exact all w hw p hp ((first.badAt _).trans sound)

/-- The flags of the tenants of requests set (R416). -/
def State.withPending (s : State) (ws : List WeedReq) : State :=
  ws.foldl (fun s w => s.updTenant w.tenant fun e => { e with sweepPending := true }) s

theorem State.withPending_eq (s : State) (ws : List WeedReq) : ∃ tenants, s.withPending ws = { s with tenants } :=
  List.foldlRecOn (motive := fun u : State => ∃ tenants, u = { s with tenants }) ws _ ⟨s.tenants, rfl⟩
    fun _ ⟨tenants, h⟩ w _ => by subst h; exact ⟨_, rfl⟩

theorem State.withPending_pending {s : State} {ws : List WeedReq} {t : Nat}
    (h : (s.tenant t).sweepPending = true ∨ ∃ w ∈ ws, w.tenant = t) : ((s.withPending ws).tenant t).sweepPending = true := by
  induction ws generalizing s with
  | nil => exact h.resolve_right fun ⟨w, hw, _⟩ => List.not_mem_nil hw
  | cons a ws ih =>
    refine ih (s := s.updTenant a.tenant fun e => { e with sweepPending := true }) ?_
    by_cases e : t = a.tenant
    · subst e; left; rw [State.tenant_updTenant_self]
    · rw [State.tenant_updTenant_ne _ _ e]
      refine h.imp_right fun ⟨w, hw, ht⟩ => ⟨w, (List.mem_cons.1 hw).resolve_left ?_, ht⟩
      rintro rfl
      exact e ht.symm

/-- A sweep of every request started (R416). -/
def State.started (s : State) : State :=
  { s with weeds := s.weeds.map (fun w => { w with swept := true }), sweep := .marked }

/-- The pages of every request marked. -/
def State.marking (s : State) : State :=
  s.weeds.foldl (fun u w => (s.regionPages w).foldl (fun u p => u.mark w.tenant p) (u.noteWalks w)) s

theorem exec_sweepMark {s : State} (idle : s.sweep = .none) (asked : s.weeds ≠ []) : exec .sweepMark s =
    .next { s.started.marking.withPending s.started.marking.weeds with sweepFrom := s.started.marking.cycle } := by
  change execSweepMark s = _
  have ready : (s.sweep == .none && !s.weeds.isEmpty) = true := by simp [idle, asked]
  exact State.event_enabled ready

theorem sweepMark_happens {s : State} (idle : s.sweep = .none) (asked : s.weeds ≠ []) :
    Happens .sweepMark s fun s' => s'.sweep = .marked ∧
      (∀ w ∈ s'.weeds, w.swept = true) ∧ ∀ w ∈ s.weeds, (s'.tenant w.tenant).sweepPending = true ∧
        ∀ p ∈ s.regionPages w, s.badAt (bitmapAt p) = false → (memGet s'.mem (bitmapAt p)).getLsbD (p % 8) = true := by
  refine ⟨_, exec_sweepMark idle asked, ?_⟩
  obtain ⟨only, all⟩ := State.marksAll s.started.regionPages s.started s.started.weeds
  change s.started.MarksOnly s.started.marking at only
  change ∀ w ∈ s.started.weeds, ∀ p ∈ s.regionPages w, s.badAt (bitmapAt p) = false → Marked s.started.marking.mem p at all
  generalize s.started.marking = u at only all ⊢
  obtain ⟨mem, fns, pkgLog, hu, -⟩ := only
  have weeds : u.weeds = s.started.weeds := by rw [hu]
  have sweep : u.sweep = .marked := by rw [hu]; rfl
  have pending := fun t => State.withPending_pending (s := u) (ws := u.weeds) (t := t)
  obtain ⟨tenants, ht⟩ := u.withPending_eq u.weeds
  rw [ht] at pending ⊢
  have inMap : ∀ w ∈ s.weeds, ({ w with swept := true } : WeedReq) ∈ s.started.weeds := fun w hw =>
    List.mem_map.2 ⟨w, hw, rfl⟩
  refine ⟨sweep, fun w hw => ?_, fun w hw => ⟨pending w.tenant (Or.inr ⟨{ w with swept := true }, weeds ▸ inMap w hw, rfl⟩), fun p hp sound => ?_⟩⟩
  · obtain ⟨x, -, rfl⟩ := List.mem_map.1 (show w ∈ s.started.weeds from weeds ▸ hw)
    rfl
  · exact all _ (inMap w hw) p hp sound

/-! ### Phase 2: the strands on the cores (R61, R416) -/

/-- An index whose entry is not the default is listed. -/
theorem Table.listed_of_get_ne {α : Type} {t : Table α} {k : Nat} {d : α} (h : Table.get t k d ≠ d) : ∃ e ∈ t, e.1 = k := by
  induction t with
  | nil => exact absurd rfl h
  | cons e r ih =>
    by_cases same : e.1 = k
    · exact ⟨e, List.mem_cons_self, same⟩
    · rw [Table.get, if_neg same] at h
      obtain ⟨x, hx, hk⟩ := ih h
      exact ⟨x, List.mem_cons_of_mem _ hx, hk⟩

@[simp] theorem Strand.getC_weed (t : Strand) (hit : Vec → Bool) (r : CReg) : (t.weed hit).getC r = (t.getC r).weed hit := by
  simp [Strand.getC, Strand.weed]

@[simp] theorem CapReg.weed_img (c : CapReg) (hit : Vec → Bool) : (c.weed hit).img = c.img := by
  unfold CapReg.weed
  split <;> rfl

@[simp] theorem CapReg.weed_tag (c : CapReg) (hit : Vec → Bool) : (c.weed hit).tag = (c.tag && !hit c.img) := by
  unfold CapReg.weed
  by_cases h : (c.tag && hit c.img) = true
  · rw [if_pos h]
    rw [Bool.and_eq_true] at h
    simp [h.2]
  · rw [if_neg h]
    cases tagged : c.tag with
    | false => rfl
    | true =>
      rw [tagged, Bool.true_and, Bool.not_eq_true] at h
      rw [h]
      rfl

/-- A state that differs from s at most in its cores and error logs. -/
def State.CoresOnly (s u : State) : Prop := ∃ cores fns pkgLog, u = { s with cores, fns, pkgLog }

theorem State.CoresOnly.trans {s u v : State} (h : s.CoresOnly u) (g : u.CoresOnly v) : s.CoresOnly v := by
  obtain ⟨_, _, _, rfl⟩ := h
  obtain ⟨cores, fns, pkgLog, rfl⟩ := g
  exact ⟨cores, fns, pkgLog, rfl⟩

theorem State.weedCore_eq (s : State) (k : Nat) : ∃ fns pkgLog cores, s.weedCore k = { s with cores, fns, pkgLog } ∧
    ∀ j, Table.get cores j {} = if j = k ∧ ((s.core k).mode = .running ∨ (s.core k).mode = .loading ∨ (s.core k).waiting = true) ∧
        s.covered (s.core k).strand.tenant = true
      then { s.core k with strand := (s.core k).strand.weed (s.hits (s.core k).strand.tenant) } else s.core j := by
  unfold State.weedCore
  dsimp only
  by_cases h : (((s.core k).mode == .running || (s.core k).mode == .loading || (s.core k).waiting) &&
      s.covered (s.core k).strand.tenant) = true
  · obtain ⟨fns, pkgLog, e⟩ := s.noteTests_logsOnly (s.core k).strand.tenant (s.core k).strand.tagged
    rw [if_pos h, e]
    refine ⟨fns, pkgLog, _, rfl, fun j => ?_⟩
    simp only [Bool.and_eq_true, Bool.or_eq_true, beq_iff_eq] at h
    rw [Table.get_set]
    by_cases same : j = k
    · rw [if_pos same, if_pos ⟨same, or_assoc.1 h.1, h.2⟩]
      rfl
    · rw [if_neg same, if_neg fun h => same h.1]
      rfl
  · rw [if_neg h]
    refine ⟨s.fns, s.pkgLog, s.cores, rfl, fun j => ?_⟩
    simp only [Bool.and_eq_true, Bool.or_eq_true, beq_iff_eq] at h
    rw [if_neg fun g => h ⟨or_assoc.2 g.2.1, g.2.2⟩]
    rfl

/-- What the second phase keeps of a covered strand that runs on core k while it clears cores: the images of its registers, each tag
as it was or cleared by `hit`, and cleared for good once `done`. -/
structure State.Weeding (s u : State) (k : Nat) (hit : Vec → Bool) (done : Prop) : Prop where
  only : s.CoresOnly u
  mode : (u.core k).mode = .running
  tenant : (u.core k).strand.tenant = (s.core k).strand.tenant
  img : ∀ r, ((u.core k).strand.getC r).img = ((s.core k).strand.getC r).img
  tag : ∀ r, ((u.core k).strand.getC r).tag = ((s.core k).strand.getC r).tag ∨
    ((u.core k).strand.getC r).tag = (((s.core k).strand.getC r).tag && !hit ((s.core k).strand.getC r).img)
  cleared : done → ∀ r, ((u.core k).strand.getC r).tag = (((s.core k).strand.getC r).tag && !hit ((s.core k).strand.getC r).img)

section
variable {s u : State} {k : Nat} {done : Prop} (covered : s.covered (s.core k).strand.tenant = true)
include covered

/-- Clearing one core goes on with the second phase; clearing core k ends it for its strand. -/
theorem State.Weeding.step (w : s.Weeding u k (s.hits (s.core k).strand.tenant) done) (j : Nat) :
    s.Weeding (u.weedCore j) k (s.hits (s.core k).strand.tenant) (done ∨ j = k) := by
  obtain ⟨fns, pkgLog, cores, e, get⟩ := u.weedCore_eq j
  have coreK : (u.weedCore j).core k = Table.get cores k {} := by rw [e]; rfl
  have only : s.CoresOnly (u.weedCore j) := w.only.trans ⟨cores, fns, pkgLog, e⟩
  by_cases same : k = j
  · subst same
    have still : u.covered (u.core k).strand.tenant = true ∧ u.hits (u.core k).strand.tenant = s.hits (s.core k).strand.tenant := by
      rw [w.tenant]
      obtain ⟨_, _, _, rfl⟩ := w.only
      exact ⟨covered, rfl⟩
    rw [get, if_pos ⟨rfl, Or.inl w.mode, still.1⟩, still.2] at coreK
    have weeded : ∀ r, (((u.weedCore k).core k).strand.getC r).tag =
        (((s.core k).strand.getC r).tag && !s.hits (s.core k).strand.tenant ((s.core k).strand.getC r).img) := fun r => by
      rw [coreK, Strand.getC_weed, CapReg.weed_tag, w.img]
      rcases w.tag r with h | h
      · rw [h]
      · rw [h, Bool.and_assoc, Bool.and_self]
    refine ⟨only, by rw [coreK]; exact w.mode, by rw [coreK]; exact w.tenant, fun r => ?_, fun r => Or.inr (weeded r), fun _ => weeded⟩
    rw [coreK, Strand.getC_weed, CapReg.weed_img]
    exact w.img r
  · rw [get, if_neg fun h => same h.1] at coreK
    refine ⟨only, ?_, ?_, ?_, ?_, fun h => ?_⟩
    · rw [coreK]; exact w.mode
    · rw [coreK]; exact w.tenant
    · rw [coreK]; exact w.img
    · rw [coreK]; exact w.tag
    · rw [coreK]; exact w.cleared (h.resolve_right (Ne.symm same))

theorem State.Weeding.foldl (w : s.Weeding u k (s.hits (s.core k).strand.tenant) done) (l : List (Nat × Core)) :
    s.Weeding (l.foldl (fun u c => u.weedCore c.1) u) k (s.hits (s.core k).strand.tenant) (done ∨ ∃ c ∈ l, c.1 = k) := by
  induction l generalizing u done with
  | nil => exact ⟨w.only, w.mode, w.tenant, w.img, w.tag, fun h => w.cleared (h.resolve_right fun ⟨_, hc, _⟩ => List.not_mem_nil hc)⟩
  | cons c l ih =>
    have next := ih (w.step covered c.1)
    refine ⟨next.only, next.mode, next.tenant, next.img, next.tag, fun h => next.cleared ?_⟩
    simpa only [List.mem_cons, exists_eq_or_imp, or_assoc] using h

end

theorem State.weedCores_only (s : State) (l : List (Nat × Core)) : s.CoresOnly (l.foldl (fun u c => u.weedCore c.1) s) :=
  List.foldlRecOn (motive := s.CoresOnly) l _ ⟨s.cores, s.fns, s.pkgLog, rfl⟩ fun u h c _ => by
    obtain ⟨fns, pkgLog, cores, e, -⟩ := u.weedCore_eq c.1
    exact h.trans ⟨cores, fns, pkgLog, e⟩

theorem sweepCores_happens {s : State} (marked : s.sweep = .marked) (between : s.midInstr = false) :
    Happens .sweepCores s fun s' => s'.sweep = .coresDone ∧ s'.mem = s.mem ∧
      ∀ k, (s.core k).mode = .running → s.covered (s.core k).strand.tenant = true → ∀ r : CReg,
        ((s'.core k).strand.getC r).tag = (((s.core k).strand.getC r).tag &&
          !s.intoMarked (s.core k).strand.tenant ((s.core k).strand.getC r).img) := by
  change ∃ s', execSweepCores s = .next s' ∧ _
  refine State.event_happens (by simp [marked, between]) ⟨rfl, ?_, fun k running covered r => ?_⟩
  · obtain ⟨_, _, _, e⟩ := s.weedCores_only s.cores
    exact (congrArg State.mem e).trans rfl
  · have listed : ∃ c ∈ s.cores, c.1 = k := Table.listed_of_get_ne (d := {}) fun h => by
      rw [State.core, h] at running
      cases running
    have begun : s.Weeding s k (s.hits (s.core k).strand.tenant) False :=
      ⟨⟨s.cores, s.fns, s.pkgLog, rfl⟩, running, rfl, fun _ => rfl, fun _ => Or.inl rfl, False.elim⟩
    exact (begun.foldl covered s.cores).cleared (Or.inr listed) r

end Sys2Proof.Machine
end

section
/-! O57, part 5: the last phases of a sweep (12 R416, R417). -/

namespace Sys2Proof.Machine

/-! ### Phase 3: the records -/

/-- An event that is enabled, its next state named. -/
theorem State.event_happens_named {s : State} {b : Bool} {f : State → State} {P : State → Prop} (enabled : b = true)
    (p : ∀ u, f s = u → P u) : ∃ s', s.event b f = .next s' ∧ P s' := State.event_happens enabled (p _ rfl)

/-- A held bookmark of a covered tenant cleared. -/
def State.weedHeld (s : State) (h : Held) : Held :=
  if s.covered h.bm.tenant = true then { h with bm := h.bm.weed (s.hits h.bm.tenant) } else h

theorem State.weedWaiter_of_kept {s : State} {h : Held} (kept : s.cellRevoked h = false) : s.weedWaiter h = s := by
  unfold State.weedWaiter
  split
  · rw [kept]; rfl
  · rfl

theorem State.weedWaiters_of_kept {s : State} (l : List Held) (kept : ∀ h ∈ l, s.cellRevoked h = false) :
    l.foldl (fun s h => s.weedWaiter h) s = s := by
  induction l with
  | nil => rfl
  | cons h l ih =>
    rw [List.foldl_cons, State.weedWaiter_of_kept (kept h List.mem_cons_self)]
    exact ih fun x hx => kept x (List.mem_cons_of_mem _ hx)

theorem State.weedLoading_only (s : State) (l : List (Nat × Core)) :
    s.CoresOnly (l.foldl (fun s c => if (s.core c.1).mode == .loading then s.weedCore c.1 else s) s) :=
  List.foldlRecOn (motive := s.CoresOnly) l _ ⟨s.cores, s.fns, s.pkgLog, rfl⟩ fun u h c _ => by
    split
    · obtain ⟨fns, pkgLog, cores, e, -⟩ := u.weedCore_eq c.1
      exact h.trans ⟨cores, fns, pkgLog, e⟩
    · exact h

theorem State.LogsOnly.withFaulted {s u : State} (h : s.LogsOnly u) (faulted : List FaultedCmd) :
    ∃ fns pkgLog, ({ u with faulted } : State) = { s with fns, pkgLog, faulted } := by
  obtain ⟨fns, pkgLog, rfl⟩ := h
  exact ⟨fns, pkgLog, rfl⟩

theorem State.LogsOnly.withMem {s u : State} (h : s.LogsOnly u) (mem : List Host.Cell) (tenants : Table Tenant) :
    ∃ fns pkgLog, ({ u with mem, tenants } : State) = { s with fns, pkgLog, mem, tenants } := by
  obtain ⟨fns, pkgLog, rfl⟩ := h
  exact ⟨fns, pkgLog, rfl⟩

/-- Clearing a held bookmark moves no waiter to another cell or tenant. -/
theorem State.cellRevoked_weedHeld (s : State) (h : Held) : s.cellRevoked (s.weedHeld h) = s.cellRevoked h := by
  unfold State.weedHeld
  split <;> rfl

theorem sweepRecords_happens {s : State} (phase : s.sweep = .coresDone) (cmds : s.cmds = []) (jobs : s.jobs = [])
    (kept : ∀ h ∈ s.bms, s.cellRevoked h = false) :
    Happens .sweepRecords s fun s' => s'.sweep = .recordsDone ∧ s'.mem = s.mem ∧ s'.bms = s.bms.map fun h =>
      if s.covered h.bm.tenant = true then { h with bm := h.bm.weed (s.hits h.bm.tenant) } else h := by
  change ∃ s', execSweepRecords s = .next s' ∧ _
  have ready : (s.sweep == .coresDone) = true := by rw [phase]; rfl
  refine State.event_happens_named ready fun u hu => ?_
  extract_lets s1 s2 s3 s4 bms s5 s6 s7 at hu
  obtain ⟨fns, pkgLog, e2⟩ : ∃ fns pkgLog, s2 = { s with fns, pkgLog, faulted := s1.faulted.map s1.weedFaulted } :=
    (s.noteAll_logsOnly s.recordImgs).withFaulted _
  have e3 : s3 = s2 := by
    have none' : s2.cmds = [] := by rw [e2]; exact cmds
    change s2.cmds.foldl (fun s c => s.weedCmd c) s2 = s2
    rw [none']
    rfl
  have e4 : s4 = s2 := by
    have none' : s3.jobs = [] := by rw [e3, e2]; exact jobs
    change s3.jobs.foldl (fun s j => s.weedJob j) s3 = s2
    rw [none']
    exact e3
  have ebms : bms = s.bms.map s.weedHeld := by
    change s4.bms.map s4.weedHeld = _
    rw [e4, e2]
    rfl
  have e6 : s6 = s5 := State.weedWaiters_of_kept _ fun h hh => by
    obtain ⟨x, hx, rfl⟩ := List.mem_map.1 (show h ∈ s.bms.map s.weedHeld from ebms ▸ hh)
    have same : s5.cellRevoked (s.weedHeld x) = s.cellRevoked (s.weedHeld x) := by
      change ({ s4 with bms } : State).cellRevoked _ = _
      rw [e4, e2]
      rfl
    rw [same, s.cellRevoked_weedHeld]
    exact kept x hx
  obtain ⟨cores, _, _, e7⟩ : s6.CoresOnly s7 := State.weedLoading_only ..
  subst hu
  refine ⟨rfl, ?_, ?_⟩
  · change s7.mem = s.mem
    rw [e7, e6]
    change s4.mem = s.mem
    rw [e4, e2]
  · change s7.bms = s.bms.map s.weedHeld
    rw [e7, e6, ← ebms]

/-! ### Phase 4: memory -/

theorem sweepMemory_happens {s : State} (phase : s.sweep = .recordsDone) :
    Happens .sweepMemory s fun s' => s'.sweep = .memoryDone ∧ s'.mem = s.mem ∧
      ∀ g, g ∈ s'.tags ↔ g ∈ s.tags ∧ s.granuleWeeded g = false := by
  change ∃ s', execSweepMemory s = .next s' ∧ _
  have ready : (s.sweep == .recordsDone) = true := by rw [phase]; rfl
  refine State.event_happens ready ?_
  obtain ⟨_, _, e⟩ := (s.noteAll_logsOnly s.memoryImgs).trans (State.noteGranules_logsOnly _)
  dsimp only
  rw [e]
  refine ⟨rfl, rfl, fun g => ?_⟩
  exact List.mem_filter.trans (and_congr_right fun _ => Bool.not_eq_true' _ ▸ Iff.rfl)

/-! ### A counter operation at a home where nothing waits (R263, R270) -/

theorem State.putWord_eq (s : State) (a : Nat) (v : Word) : ∃ mem tags, s.putWord a v = { s with mem, tags } := by
  unfold State.putWord
  split
  · exact ⟨s.mem, s.tags, rfl⟩
  · exact ⟨_, _, rfl⟩

section
variable {s : State} {cell : Nat}

theorem State.quiet_iff (v : Word) : s.distances cell v = [] ↔ s.waitersOn cell = [] ∧ s.watchesOn cell = [] := by
  rw [State.distances, List.append_eq_nil_iff, List.map_eq_nil_iff, List.map_eq_nil_iff]

variable (waiters : s.waitersOn cell = []) (watches : s.watchesOn cell = [])
include watches

theorem State.answerWatches_of_quiet (v : Word) : s.answerWatches cell v = s := by
  have none' : ∀ w ∈ s.watches, (w.cell == cell && satisfied v w.thr) = false := fun w hw => by
    have h := List.filter_eq_nil_iff.1 watches w hw
    rw [Bool.not_eq_true] at h
    rw [h, Bool.false_and]
  have hit : s.watches.filter (fun w => w.cell == cell && satisfied v w.thr) = [] :=
    List.filter_eq_nil_iff.2 fun w hw => by rw [none' w hw]; exact Bool.false_ne_true
  have kept : dropWhere s.watches (fun w => w.cell == cell && satisfied v w.thr) = s.watches :=
    List.filter_eq_self.2 fun w hw => congrArg not (none' w hw)
  unfold State.answerWatches
  dsimp only
  rw [hit, kept]
  rfl

include waiters

theorem State.seen_of_quiet (before v : Word) : s.seen cell before v = s := by
  unfold State.seen
  rw [waiters, State.answerWatches_of_quiet watches]
  rfl

theorem State.retest_of_quiet : s.retest cell = s := State.seen_of_quiet waiters watches _ _

theorem State.applyCell_of_quiet (va : Nat) (new : Word) : s.applyCell cell va new = .ok (s.putWord cell new) := by
  have none' : s.distances cell (s.cellVal cell) = [] := (State.quiet_iff _).2 ⟨waiters, watches⟩
  obtain ⟨mem, tags, e⟩ := s.putWord_eq cell new
  unfold State.applyCell
  dsimp only
  rw [none']
  rw [e]
  exact congrArg Except.ok (State.seen_of_quiet (s := { s with mem, tags }) waiters watches _ _)

end

theorem State.heldIn_one {s : State} {t va : Nat} (here : s.heldAt t va = false) : s.heldIn t va 1 = none := by
  have last : windowOf (lastVa va 1) = windowOf va := by
    unfold windowOf lastVa
    have low : (va + (1 - 1)) % 2 ^ 56 % 2 ^ 48 = va % 2 ^ 48 := by omega
    have high : (va + (1 - 1)) % 2 ^ 56 / 2 ^ 48 % 256 = va / 2 ^ 48 % 256 := by omega
    rw [low, high]
  have there : s.heldAt t (lastVa va 1) = false := by
    unfold State.heldAt at *
    rwa [last]
  simp [State.heldIn, here, there]

/-- An add to a cell of a scratchpad or a vault on which nothing waits takes effect where it arrives. -/
theorem State.atHome_add {s : State} {op : CtrOp} {p : Place} {a : Word} (kind : op.kind = .add a) (own : op.port = none)
    (present : s.heldAt op.tenant op.va = false) (home : ∃ n, p.home = .spad n ∨ p.home = .vault n) (sound : s.badAt p.flat = false)
    (quiet : s.distances p.flat (s.cellVal p.flat) = []) :
    s.atHome op p = .applied (s.putWord p.flat (s.cellVal p.flat + a)) := by
  obtain ⟨waiters, watches⟩ := (State.quiet_iff _).1 quiet
  have accepts : s.homeRefuses p = false := by
    unfold State.homeRefuses
    rcases home with ⟨n, h | h⟩ <;> rw [h]
  have free : ¬ ((s.heldIn op.tenant op.va (CtrKind.add a).span).isSome || op.port.isSome && (s.fn op.tenant).halted) = true := by
    rw [show (CtrKind.add a).span = 1 from rfl, State.heldIn_one present, own]
    exact Bool.false_ne_true
  have applied : ∀ v, (s.retest p.flat).applyCell p.flat op.va v = .ok (s.putWord p.flat v) := fun v => by
    rw [State.retest_of_quiet waiters watches, State.applyCell_of_quiet waiters watches]
  have value : (s.retest p.flat).cellVal p.flat = s.cellVal p.flat := by rw [State.retest_of_quiet waiters watches]
  unfold State.atHome
  rw [kind]
  dsimp only
  rw [if_neg free, if_neg (by rw [accepts]; exact Bool.false_ne_true)]
  rcases home with ⟨n, h | h⟩
  all_goals
    rw [h]
    dsimp only
    rw [if_neg (by rw [sound]; exact Bool.false_ne_true), show (CtrKind.add a).tests = true from rfl, if_pos rfl, applied, value]
    rfl

/-! ### Phase 5: the close (R417) -/

theorem State.releaseAfter_eq (s : State) (late id : Nat) (bind : Bool) : ∃ bms cores, s.releaseAfter late id bind = { s with bms, cores } := by
  unfold State.releaseAfter
  split
  · exact ⟨s.bms, s.cores, rfl⟩
  · dsimp only
    split
    · exact ⟨_, _, rfl⟩
    · exact ⟨_, s.cores, rfl⟩

theorem State.leaveWeed_eq (s : State) : ∃ bms cores, s.leaveWeed = { s with bms, cores } := by
  unfold State.leaveWeed
  split
  · exact s.releaseAfter_eq 0 _ false
  · exact ⟨s.bms, s.cores, rfl⟩

theorem State.noteKept_logsOnly (s : State) : s.LogsOnly s.noteKept := by
  unfold State.noteKept
  exact State.LogsOnly.foldl (fun u n => u.noteFailing_logsOnly (((u.weeds.find? (·.swept)).map (·.tenant)).getD 0) (512 * n) (512 * n)) _ s

/-- A place in the scratchpad or the vault window. -/
def nearWindow (va : Nat) : Prop := ∃ k o, windowOf va = .spad k o ∨ windowOf va = .vault k o

/-- What a place in a scratchpad or a vault is: beyond device memory, at a home that keeps its cells. -/
theorem State.placeOf_near {s : State} {t va : Nat} {n : Need} {ctr : Bool} {acc : Nat} {p : Place} (near : nearWindow va)
    (place : s.placeOf t va n ctr acc = .ok p) : Config.spadFlat ≤ p.flat ∧ ∃ k, p.home = .spad k ∨ p.home = .vault k := by
  obtain ⟨k, o, w | w⟩ := near
  · unfold State.placeOf at place
    rw [w] at place
    dsimp only at place
    split at place
    · cases place
    · split at place
      · injection place with e
        subst e
        exact ⟨by dsimp only; omega, k, Or.inl rfl⟩
      · cases place
  · unfold State.placeOf at place
    rw [w] at place
    dsimp only at place
    split at place
    · split at place
      · injection place with e
        subst e
        exact ⟨by dsimp only [Config.spadFlat, Config.vaultFlat]; omega, k, Or.inr rfl⟩
      · cases place
    · cases place

section
variable {s u : State} (cores : u.cores = s.cores) (blocks : u.blocks = s.blocks) (gens : ∀ t, u.gen t = s.gen t)
include cores gens

theorem State.residentOn_congr (t k : Nat) : u.residentOn t k = s.residentOn t k := by
  simp only [State.residentOn, State.core, cores, gens]

theorem State.awayOn_congr (t k : Nat) : u.awayOn t k = s.awayOn t k := by
  simp only [State.awayOn, State.core, cores, gens]

theorem State.heldAt_congr (t va : Nat) : u.heldAt t va = s.heldAt t va := by
  simp only [State.heldAt, State.absentOn, State.residentOn_congr cores gens, State.awayOn_congr cores gens, State.core, cores]

include blocks

theorem State.placeOf_near_congr {va : Nat} (near : nearWindow va) (t : Nat) (n : Need) (ctr : Bool) (acc : Nat) :
    u.placeOf t va n ctr acc = s.placeOf t va n ctr acc := by
  have core : ∀ k, u.core k = s.core k := fun k => by rw [State.core, cores]; rfl
  obtain ⟨k, o, w | w⟩ := near
  · unfold State.placeOf
    rw [w]
    dsimp only
    rw [State.partOf_congr (gens t) (by rw [core]) (by rw [core]) (by rw [core]), core]
  · unfold State.placeOf
    rw [w]
    dsimp only
    rw [blocks, gens]

end

theorem memNat_congr {m m' : List Host.Cell} {a n : Nat} (same : ∀ q, a ≤ q → q < a + n → memGet m q = memGet m' q) :
    memNat m a n = memNat m' a n := by
  refine congrArg bytesNat (List.map_congr_left fun i hi => same (a + i) (by omega) ?_)
  have := List.mem_range.1 hi
  omega

/-- A byte beyond the bitmap outlasts the clearing of the bitmap's bytes. -/
theorem memGet_clearBitmap (m : List Host.Cell) (bad : Nat → Bool) {q : Nat} (beyond : Config.spadFlat ≤ q) :
    memGet (m.filter fun c => !inBitmap c.1 || bad c.1) q = memGet m q := by
  have out : inBitmap q = false := by
    unfold inBitmap Config.bitmapBase
    unfold Config.spadFlat at beyond
    simp only [Bool.and_eq_false_iff, decide_eq_false_iff_not]
    omega
  rw [memGet_filter m (fun a => !inBitmap a || bad a), out]
  rfl

/-- The completion add of a request whose counter lies where nothing waits (R417). -/
theorem State.weedAdd_near {s : State} {w : WeedReq} {p : Place} (near : nearWindow (cBase w.ctr.img))
    (present : s.heldAt w.tenant (cBase w.ctr.img) = false)
    (place : s.placeOf w.tenant (cBase w.ctr.img) needRW true (cBase w.ctr.img) = .ok p) (sound : s.badAt p.flat = false)
    (quiet : s.distances p.flat (s.cellVal p.flat) = []) :
    s.weedAdd w = s.bump.putWord p.flat (s.cellVal p.flat + 1) := by
  unfold State.weedAdd
  dsimp only
  have add := State.atHome_add (s := s.bump) (p := p) (a := 1)
    (op := ⟨s.nextId, p.flat, cBase w.ctr.img, .add 1, w.tenant, w.gen, .sweep, 0⟩) rfl rfl present
    (State.placeOf_near near place).2 sound quiet
  rw [place]
  dsimp only
  rw [add]
  rfl

theorem State.closeWeed_near {s : State} {w : WeedReq} {p : Place} (only : s.weeds = [w]) (swept : w.swept = true)
    (covers : s.covers w = true) (near : nearWindow (cBase w.ctr.img)) (present : s.heldAt w.tenant (cBase w.ctr.img) = false)
    (place : s.placeOf w.tenant (cBase w.ctr.img) needRW true (cBase w.ctr.img) = .ok p) (sound : s.badAt p.flat = false)
    (quiet : s.distances p.flat (s.cellVal p.flat) = []) :
    (s.closeWeed w).weeds = [] ∧ (s.closeWeed w).tenants = s.tenants ∧ (s.closeWeed w).cellVal p.flat = s.cellVal p.flat + 1 := by
  have added := State.weedAdd_near near present place sound quiet
  have value : (s.weedAdd w).cellVal p.flat = s.cellVal p.flat + 1 := by
    rw [added, State.cellVal, memNat_putWord]
    exact BitVec.ofNat_toNat ..
  have kept : (s.weedAdd w).weeds = [w] ∧ (s.weedAdd w).tenants = s.tenants := by
    obtain ⟨mem, tags, e⟩ := s.bump.putWord_eq p.flat (s.cellVal p.flat + 1)
    rw [added, e]
    exact ⟨only, rfl⟩
  have standing : w.withdrawn = false := by
    simp only [State.covers, Bool.and_eq_true, Bool.not_eq_true'] at covers
    exact covers.1.2
  generalize hu : s.weedAdd w = u at value kept
  have gone : u.weeds.eraseIdx ((u.weeds.findIdx? fun x => x.swept).getD u.weeds.length) = [] := by
    rw [kept.1]
    simp [List.findIdx?_cons, swept]
  have form : s.closeWeed w = State.leaveWeed { u with weeds := [] } := by
    unfold State.closeWeed
    rw [if_pos covers, hu]
    dsimp only
    rw [gone, standing]
    rfl
  obtain ⟨bms, cores, left⟩ := State.leaveWeed_eq { u with weeds := [] }
  rw [form, left]
  exact ⟨rfl, kept.2, value⟩

theorem sweepClose_happens {s : State} {w : WeedReq} {p : Place} (phase : s.sweep = .memoryDone) (done : s.stopsOpen = false)
    (only : s.weeds = [w]) (swept : w.swept = true) (covers : s.covers w = true) (near : nearWindow (cBase w.ctr.img))
    (present : s.heldAt w.tenant (cBase w.ctr.img) = false)
    (place : s.placeOf w.tenant (cBase w.ctr.img) needRW true (cBase w.ctr.img) = .ok p) (sound : s.badAt p.flat = false)
    (quiet : s.distances p.flat (s.cellVal p.flat) = []) :
    Happens .sweepClose s fun s' => s'.sweep = .none ∧ s'.weeds = [] ∧ (s'.tenant w.tenant).sweepPending = false ∧
      s'.cellVal p.flat = s.cellVal p.flat + 1 := by
  change ∃ s', execSweepClose s = .next s' ∧ _
  have ready : (s.sweep == .memoryDone && !s.stopsOpen) = true := by rw [phase, done]; rfl
  refine State.event_happens_named ready fun u hu => ?_
  extract_lets needed keep s1 s2 s3 at hu
  obtain ⟨fns, pkgLog, e1⟩ : s.LogsOnly s1 := s.noteKept_logsOnly
  have weeds : s1.weeds = [w] := by rw [e1]; exact only
  have tenant (t : Nat) : s2.tenant t = if w.tenant = t then { s.tenant t with sweepPending := false } else s.tenant t := by
    have get := Table.get_map s1.tenants t ({} : Tenant)
      (fun i e => if s1.weeds.any (fun w => w.swept && w.tenant == i) then { e with sweepPending := false } else e)
      (by dsimp only; split <;> rfl)
    have same : (s1.tenants.map fun e => (e.1, if s1.weeds.any (fun w => w.swept && w.tenant == e.1) then
        { e.2 with sweepPending := false } else e.2)) = s2.tenants := List.map_congr_left fun e _ => by split <;> rfl
    rw [same, weeds] at get
    refine get.trans ?_
    simp only [List.any_cons, List.any_nil, Bool.or_false, swept, Bool.true_and, beq_iff_eq]
    rw [e1]
    rfl
  have gens (t : Nat) : s2.gen t = s.gen t := by
    change (s2.tenant t).gen = (s.tenant t).gen
    rw [tenant]
    split <;> rfl
  have cores : s2.cores = s.cores := by change s1.cores = _; rw [e1]
  have blocks : s2.blocks = s.blocks := by change s1.blocks = _; rw [e1]
  have value : s2.cellVal p.flat = s.cellVal p.flat := by
    have none' : keep = [] := by
      have none' : needed = [] := by
        change (s.weeds.filter fun w => !w.swept).flatMap s.regionPages = []
        rw [only]
        simp [swept]
      change needed.filter _ = []
      rw [none']
      rfl
    have mem : s2.mem = s.mem.filter fun c => !inBitmap c.1 || s.badAt c.1 := by
      change keep.foldl (fun m p => setMark m p true) (s1.mem.filter fun c => !inBitmap c.1 || s1.badAt c.1) = _
      rw [none', e1]
      rfl
    have beyond := (State.placeOf_near near place).1
    rw [State.cellVal, mem, memNat_congr fun q h _ => memGet_clearBitmap s.mem s.badAt (beyond.trans h)]
    rfl
  have quiet2 : s2.distances p.flat (s2.cellVal p.flat) = [] := by
    rw [value]
    obtain ⟨_, _, e2⟩ : ∃ fns pkgLog, s2 = { s with fns, pkgLog, mem := s2.mem, tenants := s2.tenants } :=
      s.noteKept_logsOnly.withMem _ _
    rw [e2]
    exact quiet
  have covers2 : s2.covers w = true := by
    change (w.swept && !w.withdrawn && w.gen == s2.gen w.tenant) = true
    rw [gens]
    exact covers
  have closed := State.closeWeed_near (s := s2) (w := w) (p := p) (by change s1.weeds = _; exact weeds) swept covers2 near
    (by rw [State.heldAt_congr cores gens]; exact present) (by rw [State.placeOf_near_congr cores blocks gens near]; exact place)
    (by change s1.badAt _ = _; rw [e1]; exact sound) quiet2
  have e3 : s3 = s2.closeWeed w := by
    change (s1.weeds.filter fun w => w.swept).foldl (fun s w => s.closeWeed w) s2 = _
    rw [weeds, List.filter_cons_of_pos swept]
    rfl
  rw [← e3] at closed
  obtain ⟨none', tenants, one⟩ := closed
  subst hu
  refine ⟨rfl, none', ?_, ?_⟩
  · change (Table.get s3.tenants w.tenant {}).sweepPending = false
    rw [tenants]
    change (s2.tenant w.tenant).sweepPending = false
    rw [tenant, if_pos rfl]
  · change s3.cellVal p.flat = _
    rw [one, value]

end Sys2Proof.Machine
end

section
/-! O57: places and nodes, put together. -/

namespace Sys2Proof.Machine

/-- Settles O57, event by event: partitions and blocks over the bytes and tags of their places, mappings, loads and slots over what
they write, nodes over their entries, and the sweep phase by phase. -/
theorem placesAndNodes : Obligations.PlacesAndNodes := by
  refine ⟨fun s k i => partitionSwapOut_locked i, fun s t k => partitionRestore_locked t, fun s k i => partitionSwapOut_asks,
    fun s k i unlocked held inside present displacer off jobs => partitionSwapOut_happens unlocked
      (State.maySwap_of_displaced held inside present displacer jobs) inside off,
    fun s t k i img => partitionRestore_happens, fun s k mode => partitionModeChange_happens,
    fun s k mode unlocked known held => ⟨fun sole => ?_, partitionModeChange_asks unlocked known held⟩,
    fun s v b t => vaultBlockAssign_happens t,
    fun s t va a level pte entry valid paged inside => ⟨mappingShootdown_refused entry, fun kept sound may =>
      ⟨mappingShootdown_writes entry valid paged inside kept may sound, mappingShootdown_waits entry valid paged inside kept may⟩⟩,
    fun s r valid open' reach => ⟨fun f => programLoad_refused valid open' reach, fun k t cores tasks images => programLoad_happens
      valid open' cores tasks images⟩,
    fun s n t dbase dsize dest p => adapterSlotAllot_happens,
    fun s n t meant => ⟨nodeSplit_happens meant, nodeMerge_happens meant, nodeAllot_happens meant, fun allotted =>
      ⟨fun held work unlocked => nodeRelease_asks meant allotted held unlocked work, nodeShare_happens meant allotted,
        fun held idle unlocked => nodeRelease_gives meant allotted held unlocked idle,
        nodeLock_happens meant allotted, nodeUnlock_happens meant allotted⟩⟩,
    fun s => sweepMark_happens, fun s => sweepCores_happens, fun s => sweepRecords_happens, fun s => sweepMemory_happens,
    fun s w p phase done only swept covers => sweepClose_happens phase done only swept covers⟩
  rw [exec_partitionModeChange_of_held unlocked known held, if_pos sole]

end Sys2Proof.Machine
end

section
/-! O53, part 1: posted stores, drains, and the instructions that are fetched (02 R36, R58, 07 R217, 10 R332). -/

namespace Sys2Proof.Machine

/-! ### POSTED_STORE_ACCEPT (R217) -/

theorem State.acceptEntry_data {s : State} {k : Nat} {e : Posted} {cells : List (Place × Byte)} (unsent : e.sent = none)
    (current : e.gen = s.gen e.tenant) (present : ∀ a ∈ e.va :: e.vas, s.heldAt e.tenant a = false) (op : e.op = .data cells)
    (direct : s.direct (cells.map (·.1))) :
    ∃ badUnits old, s.acceptEntry k e = .done { s.laid cells with badUnits, old } := by
  obtain ⟨badUnits, old, written⟩ := State.writePlaces_direct e.tenant e.va direct
  have here : ¬ ((e.va :: e.vas).any (s.heldAt e.tenant)) = true := by
    rw [Bool.not_eq_true, List.any_eq_false]
    exact fun a ha => by rw [present a ha]; exact Bool.false_ne_true
  refine ⟨badUnits, old, ?_⟩
  unfold State.acceptEntry
  dsimp only
  rw [if_neg (by rw [unsent]; exact Bool.false_ne_true), if_neg (by simp [current]), if_neg here, op]
  dsimp only
  rw [written]

theorem postedStoreAccept_happens {s : State} {k : Nat} {e : Posted} {rest : List Posted} {cells : List (Place × Byte)}
    (queue : (s.core k).posted = e :: rest) (unsent : e.sent = none) (current : e.gen = s.gen e.tenant)
    (present : ∀ a ∈ e.va :: e.vas, s.heldAt e.tenant a = false) (op : e.op = .data cells) (direct : s.direct (cells.map (·.1))) :
    Happens (.postedStoreAccept k 0) s fun s' =>
      (s'.core k).posted = rest ∧ (s'.core k).failed = (s.core k).failed ∧ (∀ j, j ≠ k → s'.core j = s.core j) ∧
      s'.mem = memPuts s.mem (cells.map fun c => (c.1.flat, c.2)) ∧ ∀ c ∈ cells, c.1.flat / 64 ∉ s'.tags := by
  obtain ⟨badUnits, old, done⟩ := State.acceptEntry_data (k := k) unsent current present op direct
  have accepted : s.acceptAt k 0 = (State.updCore { s.laid cells with badUnits, old } k fun c =>
      { c with posted := c.posted.eraseIdx 0 }, true) := by
    unfold State.acceptAt
    rw [queue]
    simp only [List.getElem?_cons_zero, List.take_zero, List.any_nil, Bool.false_eq_true, if_false]
    rw [done]
  refine ⟨_, congrArg (fun r : State × Bool => Host.Outcome.next r.1) accepted, ?_⟩
  dsimp only
  rw [State.core_updCore_self]
  refine ⟨?_, rfl, fun j hj => State.core_updCore_ne _ _ hj, rfl, fun c hc hin => ?_⟩
  · change (s.core k).posted.eraseIdx 0 = rest
    rw [queue]
    rfl
  · exact ((s.laid_tags_iff cells _).1 hin).2 c hc rfl

/-! ### CORE_DRAIN_COMPLETE (R332) -/

theorem coreDrainComplete_happens {s : State} {k : Nat} (mode : (s.core k).mode = .draining ∨ (s.core k).mode = .saving)
    (drained : (s.core k).posted = []) (still : (s.core k).waiting = false) (due : (s.core k).nextIssue ≤ s.cycle) :
    Happens (.coreDrainComplete k) s fun s' =>
      s'.core k = { s.core k with mode := .idle } ∧ (∀ j, j ≠ k → s'.core j = s.core j) ∧ s'.mem = s.mem := by
  have ready : (((s.core k).mode == .draining || (s.core k).mode == .saving) && !(s.core k).waiting && (s.core k).posted.isEmpty &&
      decide ((s.core k).nextIssue ≤ s.cycle)) = true := by
    rw [still, drained, decide_eq_true due]
    rcases mode with mode | mode
    all_goals
      rw [mode]
      rfl
  change ∃ s', execCoreDrainComplete k s = .next s' ∧ _
  unfold execCoreDrainComplete
  exact State.event_happens ready ⟨State.core_updCore_self .., fun j hj => State.core_updCore_ne _ _ hj, rfl⟩

/-! ### ILLEGAL_INSN_WORD and INSTRUCTION_FETCH (R36, R58, R63) -/

theorem illegalInsnWord_traps {s : State} (w : Insn) (agent : s.agent = .strand) : Traps (.illegalInsnWord w) s 0x01 (w.setWidth 56) := by
  change execIllegalInsnWord w s = _
  exact State.runAny_error agent rfl

theorem instructionFetch_raises {s : State} {f : Trap} (agent : s.agent = .strand) (h : s.fetch s.cur = .raised f) :
    exec .instructionFetch s = .next (s.takeTrap f) := by
  change execInstructionFetch s = _
  unfold execInstructionFetch
  exact State.runAny_error agent (by rw [h])

/-- A drained strand that ends outside a phase leaves its bookmark where it finds room, and its core saves it. -/
theorem State.endStrand_of_drained {s : State} {kind : WKind} {warg : Word} {r : Room} (holder : State → Nat → Raises State)
    (drained : s.drained) (out : (s.core s.cur).inPhase = false)
    (room : s.roomFor (s.cur / 8) s.strand.tenant (s.mkBookmark s.cur s.strand kind (allSaved s.strand) 0 warg true).slots = some r) :
    let b := s.mkBookmark s.cur s.strand kind (allSaved s.strand) 0 warg true
    s.endStrand kind true 0 0 warg true false 0 holder =
      holder ((s.vacate s.cur .saving (0 + ceilDiv b.slots 2)).hold b .ready (s.cur / 8) s.cycle r) s.nextId := by
  unfold State.endStrand State.endAfter
  dsimp only
  rw [if_neg (by rw [out]; exact Bool.false_ne_true), State.drain_of_drained drained]
  simp only [Bool.false_eq_true, if_false, if_true]
  rw [room]

theorem instructionFetch_misses {s : State} {line : Nat} {r : Room} (agent : s.agent = .strand) (miss : s.fetch s.cur = .miss line)
    (drained : s.drained) (out : (s.core s.cur).inPhase = false)
    (room : s.roomFor (s.cur / 8) s.strand.tenant
      ((s.mkBookmark s.cur s.strand .fetch (allSaved s.strand) 0 (w64 (line * 64)) true).slots) = some r) :
    Happens .instructionFetch s fun s' => (s'.core s.cur).mode = .saving ∧ s'.mem = s.mem ∧ ∃ h ∈ s'.bms,
      h.holder = .fetch line ∧ h.bm.kind = .fetch ∧ h.bm.strand.pc = s.strand.pc ∧ h.bm.bind = true ∧ h.bm.lcore = s.cur := by
  have ends := State.endStrand_of_drained (fun s id => .ok (s.setHolder id (.fetch line))) drained out room
  change ∃ s', execInstructionFetch s = .next s' ∧ _
  unfold execInstructionFetch
  refine ⟨_, State.runAny_ok agent (by rw [miss]; exact ends), ?_⟩
  generalize hb : s.mkBookmark s.cur s.strand .fetch (allSaved s.strand) 0 (w64 (line * 64)) true = b
  generalize hv : s.vacate s.cur .saving (0 + ceilDiv b.slots 2) = v
  have bm : b.kind = .fetch ∧ b.strand.pc = s.strand.pc ∧ b.bind = true ∧ b.lcore = s.cur := by
    rw [← hb]
    exact ⟨rfl, rfl, rfl, rfl⟩
  have left : (v.core s.cur).mode = .saving := by rw [← hv]; exact (s.vacate_core ..).1
  obtain ⟨mem, -, -, nextId⟩ := s.vacate_mem s.cur .saving (0 + ceilDiv b.slots 2)
  rw [hv] at mem nextId
  refine ⟨left, mem, { id := v.nextId, bm := b, holder := .fetch line, cluster := s.cur / 8, stamp := s.cycle, room := r, entered := v.cycle },
    ?_, rfl, bm⟩
  refine List.mem_map.2 ⟨{ id := v.nextId, bm := b, holder := .ready, cluster := s.cur / 8, stamp := s.cycle, room := r, entered := v.cycle },
    List.mem_append_right _ (List.mem_singleton.2 rfl), ?_⟩
  rw [nextId]
  simp

end Sys2Proof.Machine
end

section
/-! O53, part 2: far loads (07 R216) and the reads of a unit that meet no host memory and no cached line. -/

namespace Sys2Proof.Machine

/-! ### A unit's read of direct places -/

/-- A translation put into a TLB changes the TLBs and nothing else. -/
theorem State.tlbPut_eq (s : State) (unit cap t : Nat) (l : Leaf) : ∃ tlb fresh, s.tlbPut unit cap t l = { s with tlb, fresh } :=
  ⟨_, _, rfl⟩

theorem State.tlbFill_eq (s : State) (cluster t : Nat) (l : Leaf) : ∃ tlb fresh, s.tlbFill cluster t l = { s with tlb, fresh } :=
  ⟨_, _, rfl⟩

theorem State.tlbUse_eq (s : State) (unit t va : Nat) : ∃ tlb fresh, s.tlbUse unit t va = { s with tlb, fresh } := by
  unfold State.tlbUse
  dsimp only
  generalize (if unit < 128 then unit else 128 + unitDie unit) = own
  split
  · exact ⟨s.tlb, s.fresh, rfl⟩
  · cases s.leafOf t va with
    | error cause => exact ⟨s.tlb, s.fresh, rfl⟩
    | ok l =>
      dsimp only
      split
      · exact s.tlbPut_eq ..
      · split
        · exact s.tlbPut_eq ..
        · exact s.tlbFill_eq ..

theorem State.xlated_eq (s : State) (unit : Option Nat) (t va : Nat) : ∃ tlb fresh, s.xlated unit t va = { s with tlb, fresh } := by
  cases unit with
  | none => exact ⟨s.tlb, s.fresh, rfl⟩
  | some u => exact s.tlbUse_eq u t va

/-- Places outside host memory ask the host for nothing. -/
theorem State.reachAll_of_near {s : State} (fn : Nat) (n : Need) {ps : List Place} (near : ∀ p ∈ ps, isHostPlace p.flat = false) :
    s.reachAll fn n ps = .ok s := by
  induction ps with
  | nil => rfl
  | cons p ps ih =>
    have here : s.reach fn p n = .ok s := by
      unfold State.reach
      rw [if_neg (by rw [near p List.mem_cons_self]; exact Bool.false_ne_true)]
    rw [State.reachAll, here]
    exact ih fun q hq => near q (List.mem_cons_of_mem _ hq)

theorem State.parkedAt_of_near {s : State} (t : Nat) {ps : List Place} (near : ∀ p ∈ ps, isHostPlace p.flat = false) :
    s.parkedAt t ps = false := by
  unfold State.parkedAt
  rw [List.any_eq_false.2 fun p hp => by rw [near p hp]; exact Bool.false_ne_true, Bool.and_false]

/-- Bytes at direct places are the memory's. -/
theorem State.readPlaces_direct {s : State} (t va : Nat) {ps : List Place} (direct : s.direct ps) :
    s.readPlaces t va ps = .ok (s, ps.map fun p => memGet s.mem p.flat) := by
  unfold State.readPlaces
  rw [State.touch_direct t va fun p hp => (direct p hp).2]
  change Except.ok _ = _
  refine congrArg (fun bs => Except.ok (s, bs)) (List.map_congr_left fun p hp => ?_)
  unfold State.peekByte
  rw [(direct p hp).2.1]

/-- The translation of an access that fails stops it (R205). -/
theorem State.engRead_fails {s : State} {u : Option Nat} {t va n : Nat} {cause : BitVec 8} (present : s.heldIn t va n = none)
    (fails : s.xlate u t va = .fails cause) : s.engRead u t va n = .error (.stop cause (vaDetail va)) := by
  unfold State.engRead State.engPlaces State.engFind
  rw [present]
  unfold State.engXlate
  rw [fails]
  rfl

/-- A place that an access may not reach stops it. -/
theorem State.engRead_refused {s : State} {u : Option Nat} {t va n : Nat} {f : Trap} (present : s.heldIn t va n = none)
    (first : s.xlate u t va = .ok) (last : s.xlate u t (lastVa va n) = .ok) (places : s.placesOf t va n needR = .error f) :
    s.engRead u t va n = .error (.stop f.cause f.detail) := by
  unfold State.engRead State.engPlaces State.engFind
  rw [present]
  unfold State.engXlate
  rw [first, last, places]
  rfl

/-- An access that is translated reads the bytes of its places, and changes TLBs alone. -/
theorem State.engRead_direct {s : State} {u : Option Nat} {t va n : Nat} {ps : List Place} (present : s.heldIn t va n = none)
    (first : s.xlate u t va = .ok) (last : s.xlate u t (lastVa va n) = .ok) (places : s.placesOf t va n needR = .ok ps)
    (direct : s.direct ps) :
    ∃ tlb fresh, s.engRead u t va n = .ok ({ s with tlb, fresh }, ps.map fun p => memGet s.mem p.flat) := by
  have near : ∀ p ∈ ps, isHostPlace p.flat = false := fun p hp => (direct p hp).1
  have found : s.engFind u t va n needR = .ok ps := by
    unfold State.engFind
    rw [present]
    unfold State.engXlate
    rw [first, last, places]
    change (if s.parkedAt t ps = true then _ else _) = _
    rw [State.parkedAt_of_near t near]
    rfl
  obtain ⟨tlb₁, fresh₁, used₁⟩ := s.xlated_eq u t va
  obtain ⟨tlb₂, fresh₂, used₂⟩ := (s.xlated u t va).xlated_eq u t (lastVa va n)
  have used : (s.xlated u t va).xlated u t (lastVa va n) = { s with tlb := tlb₂, fresh := fresh₂ } := by rw [used₂, used₁]
  have reached : s.engPlaces u t va n needR = .ok ({ s with tlb := tlb₂, fresh := fresh₂ }, ps) := by
    unfold State.engPlaces
    rw [found]
    change engReached u t va n ps (s.reachAll t needR ps) = _
    rw [State.reachAll_of_near t needR near, engReached, used]
  refine ⟨tlb₂, fresh₂, ?_⟩
  unfold State.engRead
  rw [reached]
  change ofRaises (State.readPlaces { s with tlb := tlb₂, fresh := fresh₂ } t va ps) = _
  rw [State.readPlaces_direct (s := { s with tlb := tlb₂, fresh := fresh₂ }) t va direct]
  rfl

/-! ### FAR_ACCESS_COMPLETE of a load (R216) -/

theorem sextNat_eq (w v : Nat) : sextNat w v = (BitVec.ofNat w v).toInt := by
  unfold sextNat
  rw [BitVec.toInt_eq_toNat_cond, BitVec.toNat_ofNat]
  have : v % 2 ^ w < 2 ^ w := Nat.mod_lt _ (Nat.two_pow_pos w)
  cases w with
  | zero => simp [Nat.mod_one]
  | succ w =>
    rw [Nat.add_sub_cancel]
    rw [Nat.pow_succ] at *
    split <;> split <;> omega

/-- A loaded value of w bits, extended with its sign. -/
theorem w64_wrapInt_sextNat (w v : Nat) : w64 (wrapInt 64 (sextNat w v)) = (BitVec.ofNat w v).signExtend 64 := by
  rw [sextNat_eq, BitVec.signExtend]
  apply BitVec.eq_of_toNat_eq
  rw [w64, wrapInt, BitVec.toNat_ofNat, BitVec.toNat_ofInt]
  have := Int.emod_lt_of_pos (BitVec.ofNat w v).toInt (show (0 : Int) < 2 ^ 64 by decide)
  omega

theorem farWarg_space (va : Nat) (space : BitVec 2) (i : Nat) : (farWarg va space i).extractLsb' 62 2 = space := by
  ext j hj
  rw [farWarg, BitVec.getElem_extractLsb', BitVec.getLsbD_append, if_neg (by omega), BitVec.getLsbD_append, if_neg (by omega),
    BitVec.getLsbD_append, if_neg (by omega), BitVec.getLsbD_eq_getElem (by omega)]
  congr 1
  omega

theorem farWarg_index (va : Nat) (space : BitVec 2) (i : Nat) : (farWarg va space i).extractLsb' 56 5 = BitVec.ofNat 5 i := by
  ext j hj
  rw [farWarg, BitVec.getElem_extractLsb', BitVec.getLsbD_append, if_neg (by omega), BitVec.getLsbD_append, if_pos (by omega),
    BitVec.getLsbD_eq_getElem (by omega)]
  congr 1
  omega

/-- The register that WARG of a far load names takes the value. -/
theorem Strand.farResult_x (t : Strand) (va : Nat) (d : XReg) (x : Word) (c : CapReg) (v : Vec) :
    t.farResult (farWarg va 0 d.toNat) x c v = t.setX d x := by
  unfold Strand.farResult
  dsimp only
  rw [farWarg_space, farWarg_index, if_pos rfl, BitVec.ofNat_toNat]
  rfl

theorem State.heldOf_updHeld {s : State} {id : Nat} {h : Held} (f : Strand → Strand) (held : s.heldOf id = some h) :
    (s.updHeld id f).heldOf id = some { h with bm := { h.bm with strand := f h.bm.strand } } := by
  have hid := (State.heldOf_mem held).2
  unfold State.heldOf State.updHeld updWhere at *
  dsimp only
  have same : ((fun x : Held => x.id == id) ∘ fun a : Held =>
      if (a.id == id) = true then { a with bm := { a.bm with strand := f a.bm.strand } } else a) = fun x => x.id == id := by
    funext a
    dsimp only [Function.comp]
    split <;> rfl
  rw [List.find?_map, same, held, Option.map_some, if_pos (by simp [hid])]

/-- A far load that reaches its memory writes its destination and releases its bookmark, unbound. -/
theorem State.farDone_readied {s : State} {h : Held} {d : XReg} {va va' : Nat} {op : FarOp} (x : Word) (held : s.heldOf h.id = some h)
    (far : h.holder = .far va op) (dest : h.bm.warg = farWarg va' 0 d.toNat) :
    (s.farDone h x {} 0).mem = s.mem ∧ ∃ h' ∈ (s.farDone h x {} 0).bms, h'.id = h.id ∧ h'.holder = .ready ∧ h'.stamp = s.cycle ∧
      h'.bm = { h.bm with strand := h.bm.strand.setX d x, bind := false } := by
  have updated := State.heldOf_updHeld (fun t => t.farResult h.bm.warg x {} 0) held
  refine ⟨(State.release_mem ..).1, ?_⟩
  unfold State.farDone State.release State.releaseAfter
  rw [updated]
  dsimp only
  rw [far]
  refine ⟨_, List.mem_append_right _ (List.mem_singleton.2 rfl), rfl, rfl, rfl, ?_⟩
  dsimp only
  rw [dest, Strand.farResult_x]
  rfl

/-- A far load whose read is stopped becomes a fault bookmark at the load, the strips it consumed given back (R225, R234). -/
theorem farLoad_stops {s : State} {id va size : Nat} {h : Held} {sg : Bool} {cause : BitVec 8} {detail : BitVec 56}
    (held : s.heldOf id = some h) (far : h.holder = .far va (.load size sg)) (ours : hostAddr va = false)
    (stop : s.engRead (some h.cluster) h.bm.tenant va size = .error (.stop cause detail)) :
    exec (.farAccessComplete id) s = .next ((s.giveBack h.id).faultHeld h.id cause detail (h.bm.strand.pc - 4)) := by
  change execFarAccessComplete id s = _
  unfold execFarAccessComplete
  rw [held]
  dsimp only
  rw [far]
  dsimp only
  rw [State.event_enabled (by rw [ours]; rfl)]
  unfold State.farAt
  dsimp only
  rw [stop]
  rfl

/-- The value of a load of some bytes, extended as it asks. -/
def loadedWord (size : Nat) (sg : Bool) (v : Nat) : Word := if sg then (BitVec.ofNat (8 * size) v).signExtend 64 else BitVec.ofNat 64 v

theorem loadedWord_eq (size : Nat) (sg : Bool) (v : Nat) :
    w64 (if sg = true then wrapInt 64 (sextNat (8 * size) v) else v) = loadedWord size sg v := by
  cases sg with
  | true => exact w64_wrapInt_sextNat _ _
  | false => rfl

theorem farLoad_happens {s : State} {id va size : Nat} {h : Held} {sg : Bool} {d : XReg} {ps : List Place}
    (held : s.heldOf id = some h) (far : h.holder = .far va (.load size sg)) (dest : h.bm.warg = farWarg va 0 d.toNat)
    (ours : hostAddr va = false) (present : s.heldIn h.bm.tenant va size = none)
    (first : s.xlate (some h.cluster) h.bm.tenant va = .ok) (last : s.xlate (some h.cluster) h.bm.tenant (lastVa va size) = .ok)
    (places : s.placesOf h.bm.tenant va size needR = .ok ps) (direct : s.direct ps) :
    Happens (.farAccessComplete id) s fun s' =>
      s'.mem = s.mem ∧ ∃ h' ∈ s'.bms, h'.id = id ∧ h'.holder = .ready ∧ h'.stamp = s.cycle ∧
        h'.bm = { h.bm with
          strand := h.bm.strand.setX d (loadedWord size sg (bytesNat (ps.map fun p => memGet s.mem p.flat))), bind := false } := by
  have hid := (State.heldOf_mem held).2
  obtain ⟨tlb, fresh, read⟩ := State.engRead_direct present first last places direct
  have access : s.farAt h va (.load size sg) = .ok (State.farDone { s with tlb, fresh } h
      (loadedWord size sg (bytesNat (ps.map fun p => memGet s.mem p.flat))) {} 0) := by
    unfold State.farAt
    dsimp only
    rw [read]
    rw [← loadedWord_eq]
    rfl
  change ∃ s', execFarAccessComplete id s = .next s' ∧ _
  unfold execFarAccessComplete
  rw [held]
  dsimp only
  rw [far]
  dsimp only
  refine State.event_happens (by rw [ours]; rfl) ?_
  rw [access]
  dsimp only
  rw [← hid]
  exact State.farDone_readied (s := { s with tlb, fresh }) _ (hid ▸ held) far dest

end Sys2Proof.Machine
end

section
/-! O53, part 3: the walks that misses wait for (06 R206, 07 R217). -/

namespace Sys2Proof.Machine

/-! ### What a walk leaves -/

/-- Walkers that take misses change the walks of the package and nothing else. -/
theorem State.startWalks_eq (s : State) (die fuel : Nat) : ∃ walks walkTurn, s.startWalks die fuel = { s with walks, walkTurn } := by
  induction fuel generalizing s with
  | zero => exact ⟨s.walks, s.walkTurn, rfl⟩
  | succ fuel ih =>
    unfold State.startWalks
    dsimp only
    split
    · split
      · next h _ => exact ih _
      · exact ⟨s.walks, s.walkTurn, rfl⟩
    · exact ⟨s.walks, s.walkTurn, rfl⟩

theorem State.walkers_eq (s : State) (die : Nat) : ∃ walks walkTurn, s.walkers die = { s with walks, walkTurn } :=
  s.startWalks_eq die 32

theorem State.release_eq (s : State) (id : Nat) (b : Bool) : ∃ bms cores, s.release id b = { s with bms, cores } :=
  s.releaseAfter_eq 0 id b

/-- A bookmark that is held stays held when one is released. -/
theorem State.release_keeps_held {s : State} {id : Nat} (g : Nat) (b : Bool) (held : ∃ h ∈ s.bms, h.id = id) :
    ∃ h ∈ (s.release g b).bms, h.id = id := by
  obtain ⟨h, hin, hid⟩ := held
  cases e : s.heldOf g with
  | none => rw [State.release, State.releaseAfter_none 0 b e]; exact ⟨h, hin, hid⟩
  | some x =>
    obtain ⟨-, y, bms, yid, -⟩ := State.releaseAfter_bms 0 b e
    rw [State.release, bms]
    by_cases same : id = g
    · exact ⟨y, List.mem_append_right _ (List.mem_singleton.2 rfl), yid.trans same.symm⟩
    · exact ⟨h, List.mem_append_left _ (List.mem_filter.2 ⟨hin, by simp [hid, same]⟩), hid⟩

theorem State.heldOf_of_held {s : State} {id : Nat} (held : ∃ h ∈ s.bms, h.id = id) : ∃ h, s.heldOf id = some h := by
  obtain ⟨h, hin, hid⟩ := held
  exact Option.isSome_iff_exists.1 (List.find?_isSome.2 ⟨h, hin, by simp [hid]⟩)

/-- A bookmark released in this c-cycle stays ready when another is released in it. -/
theorem State.release_keeps_readied {s : State} {id : Nat} (g : Nat) (b : Bool) (ready : s.readied id s.cycle) :
    (s.release g b).readied id s.cycle := by
  obtain ⟨h, hin, hid, holder, stamp⟩ := ready
  by_cases same : id = g
  · subst same
    obtain ⟨x, held⟩ := State.heldOf_of_held ⟨h, hin, hid⟩
    exact State.release_readied b held
  · cases e : s.heldOf g with
    | none => rw [State.release, State.releaseAfter_none 0 b e]; exact ⟨h, hin, hid, holder, stamp⟩
    | some x =>
      obtain ⟨-, y, bms, -⟩ := State.releaseAfter_bms 0 b e
      refine ⟨h, ?_, hid, holder, stamp⟩
      rw [State.release, bms]
      exact List.mem_append_left _ (List.mem_filter.2 ⟨hin, by simp [hid, same]⟩)

theorem State.release_cycle (s : State) (id : Nat) (b : Bool) : (s.release id b).cycle = s.cycle := by
  obtain ⟨bms, cores, e⟩ := s.release_eq id b
  rw [e]

/-- Bookmarks released one after another, something else done before each, are all ready in this c-cycle. -/
theorem State.readied_of_releases {fill : State → Held → State} (fills : ∀ s g, (fill s g).bms = s.bms ∧ (fill s g).cycle = s.cycle)
    (l : List Held) (s : State) (id : Nat) (held : ∃ h ∈ s.bms, h.id = id) (mine : id ∈ l.map (·.id) ∨ s.readied id s.cycle) :
    (l.foldl (fun s g => (fill s g).release g.id false) s).readied id s.cycle := by
  induction l generalizing s with
  | nil => exact mine.resolve_left (List.not_mem_nil)
  | cons g l ih =>
    obtain ⟨bms, cycle⟩ := fills s g
    have held' : ∃ h ∈ (fill s g).bms, h.id = id := by rw [bms]; exact held
    have time : ((fill s g).release g.id false).cycle = s.cycle := by rw [State.release_cycle, cycle]
    have next := ih ((fill s g).release g.id false) (State.release_keeps_held g.id false held')
    rw [time] at next
    refine next ?_
    rcases mine with mine | ready
    · rcases List.mem_cons.1 mine with here | later
      · subst here
        obtain ⟨x, found⟩ := State.heldOf_of_held held'
        exact Or.inr (cycle ▸ State.release_readied false found)
      · exact Or.inl later
    · refine Or.inr ?_
      have kept : (fill s g).readied id (fill s g).cycle := by rw [State.readied, bms, cycle]; exact ready
      exact cycle ▸ State.release_keeps_readied g.id false kept

/-! ### A miss that its die's TLB answers (R206) -/

theorem tlbWalkComplete_answered {s : State} {id va : Nat} {h : Held} {l : Leaf} (held : s.heldOf id = some h) (miss : h.holder = .xlate va)
    (hit : s.tlbHit (128 + h.cluster / 64) h.bm.tenant va = true) (leaf : s.leafOf h.bm.tenant va = .ok l) :
    Happens (.tlbWalkComplete id) s fun s' => s'.readied id s.cycle ∧ s'.walks = s.walks ∧ s'.mem = s.mem := by
  have hid := (State.heldOf_mem held).2
  have done : exec (.tlbWalkComplete id) s = .next ((s.tlbPut h.cluster 2048 h.bm.tenant l).release id false) := by
    change execTlbWalkComplete id s = _
    unfold execTlbWalkComplete State.dieAnswers
    rw [held]
    dsimp only
    rw [miss]
    dsimp only
    rw [if_pos hit, leaf, hid]
  obtain ⟨tlb, fresh, put⟩ := s.tlbPut_eq h.cluster 2048 h.bm.tenant l
  rw [put] at done
  refine ⟨_, done, State.release_readied (s := { s with tlb, fresh }) false held, ?_⟩
  obtain ⟨bms, cores, e⟩ := State.release_eq { s with tlb, fresh } id false
  rw [e]
  exact ⟨rfl, rfl⟩

theorem tlbWalkComplete_answered_fault {s : State} {id va : Nat} {h : Held} {cause : BitVec 8} (held : s.heldOf id = some h)
    (miss : h.holder = .xlate va) (hit : s.tlbHit (128 + h.cluster / 64) h.bm.tenant va = true)
    (leaf : s.leafOf h.bm.tenant va = .error cause) :
    exec (.tlbWalkComplete id) s = .next (s.faultHeld h.id cause (BitVec.ofNat 56 va) h.bm.strand.pc) := by
  change execTlbWalkComplete id s = _
  unfold execTlbWalkComplete State.dieAnswers
  rw [held]
  dsimp only
  rw [miss]
  dsimp only
  rw [if_pos hit, leaf]
  rfl

/-! ### A miss that walkers serve (R206, R217) -/

/-- Where no walk serves the miss, it waits, and the free walkers have taken what waits for one. -/
theorem tlbWalkComplete_waits {s u : State} {id va : Nat} {h : Held} (held : s.heldOf id = some h) (miss : h.holder = .xlate va)
    (hit : s.tlbHit (128 + h.cluster / 64) h.bm.tenant va = false) (walkers : s.walkers (h.cluster / 64) = u)
    (none : (u.walks.find? fun w => w.serves u h va) = none) : exec (.tlbWalkComplete id) s = .next u := by
  change execTlbWalkComplete id s = _
  unfold execTlbWalkComplete
  rw [held]
  dsimp only
  rw [miss]
  dsimp only
  rw [if_neg (by rw [hit]; exact Bool.false_ne_true), walkers, none]

/-- The walk that serves the miss ends. -/
theorem tlbWalkComplete_ends {s u : State} {id va : Nat} {h : Held} {w : Walk} (held : s.heldOf id = some h)
    (miss : h.holder = .xlate va) (hit : s.tlbHit (128 + h.cluster / 64) h.bm.tenant va = false)
    (walkers : s.walkers (h.cluster / 64) = u) (some : (u.walks.find? fun w => w.serves u h va) = some w) :
    exec (.tlbWalkComplete id) s = .next (u.endWalk w) := by
  change execTlbWalkComplete id s = _
  unfold execTlbWalkComplete
  rw [held]
  dsimp only
  rw [miss]
  dsimp only
  rw [if_neg (by rw [hit]; exact Bool.false_ne_true), walkers, some]

/-- The entry of a TLB unit that holds a leaf for a tenant. -/
def Leaf.entry (l : Leaf) (unit t : Nat) (gen : BitVec 8) : TlbEntry :=
  { unit, tenant := t, gen, base := l.base, size := l.size, pte := l.pte }

theorem mem_addCapped_self {α : Type} (choice cap : Nat) (l : List α) (a : α) : a ∈ addCapped choice cap l a := by
  unfold addCapped
  split <;> exact List.mem_append_right _ (List.mem_singleton.2 rfl)

theorem State.entry_mem_tlbPut (s : State) (unit cap t : Nat) (l : Leaf) : l.entry unit t (s.gen t) ∈ (s.tlbPut unit cap t l).tlb :=
  List.mem_append_right _ (mem_addCapped_self ..)

/-- A leaf that a unit holds stays there when it is put into another, or again. -/
theorem State.entry_mem_tlbPut_of_mem {s : State} {c t : Nat} {l : Leaf} (unit cap : Nat) (h : l.entry c t (s.gen t) ∈ s.tlb) :
    l.entry c t (s.gen t) ∈ (s.tlbPut unit cap t l).tlb := by
  by_cases same : c = unit
  · subst same
    exact s.entry_mem_tlbPut c cap t l
  · exact List.mem_append_left _ (List.mem_filter.2 ⟨h, by simp [Leaf.entry, same]⟩)

/-- One miss answered with the leaf that its walk found. -/
def State.missAnswered (l : Leaf) (s : State) (h : Held) : State := (s.tlbFill h.cluster h.bm.tenant l).release h.id false

theorem State.missAnswered_eq (l : Leaf) (s : State) (h : Held) :
    ∃ tlb fresh bms cores, s.missAnswered l h = { s with tlb, fresh, bms, cores } ∧ tlb = (s.tlbFill h.cluster h.bm.tenant l).tlb := by
  obtain ⟨bms, cores, e⟩ := (s.tlbFill h.cluster h.bm.tenant l).release_eq h.id false
  exact ⟨_, _, bms, cores, e, rfl⟩

/-- The cluster of every miss that is answered holds the leaf then. -/
theorem State.entry_mem_of_missAnswered {l : Leaf} {t c : Nat} (ms : List Held) (s : State) (tenant : ∀ g ∈ ms, g.bm.tenant = t)
    (mine : (∃ g ∈ ms, g.cluster = c) ∨ l.entry c t (s.gen t) ∈ s.tlb) :
    l.entry c t (s.gen t) ∈ (ms.foldl (State.missAnswered l) s).tlb ∧ (ms.foldl (State.missAnswered l) s).mem = s.mem ∧
      ∀ x, (ms.foldl (State.missAnswered l) s).gen x = s.gen x := by
  induction ms generalizing s with
  | nil => exact ⟨mine.resolve_left fun ⟨_, hg, _⟩ => List.not_mem_nil hg, rfl, fun _ => rfl⟩
  | cons g ms ih =>
    obtain ⟨tlb, fresh, bms, cores, e, fill⟩ := s.missAnswered_eq l g
    have ours : g.bm.tenant = t := tenant g List.mem_cons_self
    rw [ours] at fill
    have next := ih (s.missAnswered l g) (fun g hg => tenant g (List.mem_cons_of_mem _ hg)) ?_
    · rw [List.foldl_cons]
      rw [e] at next ⊢
      exact next
    · rcases mine with ⟨g', hg', cluster⟩ | here
      · rcases List.mem_cons.1 hg' with same | later
        · subst same cluster
          refine Or.inr ?_
          rw [e, fill]
          exact State.entry_mem_tlbPut_of_mem (s := s.tlbPut g'.cluster 2048 t l) _ _ (s.entry_mem_tlbPut ..)
        · exact Or.inl ⟨g', later, cluster⟩
      · refine Or.inr ?_
        rw [e, fill]
        exact State.entry_mem_tlbPut_of_mem (s := s.tlbPut g.cluster 2048 t l) _ _ (State.entry_mem_tlbPut_of_mem _ _ here)

/-- The misses that joined a walk. -/
def State.joined (s : State) (w : Walk) : List Held := s.bms.filter fun h => (h.miss w.die).any fun va => w.serves s h va

theorem State.mem_joined {s : State} {w : Walk} {h : Held} {va : Nat} (hin : h ∈ s.bms) (miss : h.holder = .xlate va)
    (serves : w.serves s h va = true) : h ∈ s.joined w := by
  have die : h.cluster / 64 = w.die := by
    simp only [Walk.serves, Bool.and_eq_true, beq_iff_eq] at serves
    exact serves.1.1.1.symm
  refine List.mem_filter.2 ⟨hin, ?_⟩
  unfold Held.miss
  rw [miss]
  dsimp only
  rw [if_pos die]
  exact serves

theorem State.joined_tenant {s : State} {w : Walk} {h : Held} (hin : h ∈ s.joined w) : h.bm.tenant = w.tenant := by
  obtain ⟨-, joins⟩ := List.mem_filter.1 hin
  obtain ⟨va, -, serves⟩ := (Option.any_eq_true _ _).1 joins
  simp only [Walk.serves, Bool.and_eq_true, beq_iff_eq] at serves
  exact serves.1.1.2.symm

/-- A walk that finds a leaf answers every miss that joined it with the leaf. -/
theorem State.endWalk_found {s : State} {w : Walk} {l : Leaf} (walk : s.walk w.tenant w.va = .ok l) :
    s.endWalk w = (((s.joined w).foldl (State.missAnswered l) { s with walks := s.walks.filter (· != w) }).walkers w.die) := by
  unfold State.endWalk State.joined
  dsimp only
  rw [show State.walk { s with walks := s.walks.filter fun (o : Walk) => o != w } w.tenant w.va = .ok l from walk]
  rfl

theorem State.endWalk_readied {s : State} {w : Walk} {l : Leaf} (walk : s.walk w.tenant w.va = .ok l) {h : Held} (hin : h ∈ s.joined w) :
    (s.endWalk w).readied h.id s.cycle := by
  have held : ∃ x ∈ s.bms, x.id = h.id := ⟨h, (List.mem_filter.1 hin).1, rfl⟩
  have ready := State.readied_of_releases (fill := fun s g => s.tlbFill g.cluster g.bm.tenant l) (fun _ _ => ⟨rfl, rfl⟩) (s.joined w)
    { s with walks := s.walks.filter (· != w) } h.id held (Or.inl (List.mem_map_of_mem hin))
  obtain ⟨walks, turn, e⟩ := (((s.joined w).foldl (State.missAnswered l) { s with walks := s.walks.filter (· != w) })).walkers_eq w.die
  rw [State.endWalk_found walk, e]
  exact ready

theorem State.endWalk_fills {s : State} {w : Walk} {l : Leaf} (walk : s.walk w.tenant w.va = .ok l) {h : Held} {va : Nat}
    (hin : h ∈ s.joined w) (here : l.base ≤ va ∧ va < l.base + l.size) :
    (s.endWalk w).tlbHit h.cluster h.bm.tenant va = true ∧ (s.endWalk w).mem = s.mem := by
  obtain ⟨entry, mem, gen⟩ := State.entry_mem_of_missAnswered (l := l) (t := w.tenant) (c := h.cluster) (s.joined w)
    { s with walks := s.walks.filter (· != w) } (fun g hg => State.joined_tenant hg) (Or.inl ⟨h, hin, rfl⟩)
  obtain ⟨walks, turn, e⟩ := (((s.joined w).foldl (State.missAnswered l) { s with walks := s.walks.filter (· != w) })).walkers_eq w.die
  rw [State.endWalk_found walk, e]
  refine ⟨List.any_eq_true.2 ⟨_, entry, ?_⟩, mem⟩
  have gen := gen w.tenant
  unfold State.tlbEntry Leaf.entry
  rw [State.joined_tenant hin]
  simp only [beq_self_eq_true, Bool.true_and, here, decide_true, Bool.and_true, beq_iff_eq]
  exact gen.symm

/-- A walk that fails makes the one miss that joined it a fault bookmark at the access. -/
theorem State.endWalk_fails {s : State} {w : Walk} {h : Held} {va : Nat} {cause : BitVec 8} (walk : s.walk w.tenant w.va = .error cause)
    (alone : s.joined w = [h]) (miss : h.miss w.die = some va) :
    s.endWalk w = ((({ s with walks := s.walks.filter (· != w) }).faultHeld h.id cause (BitVec.ofNat 56 va) h.bm.strand.pc).walkers
      w.die) := by
  unfold State.endWalk
  unfold State.joined at alone
  dsimp only
  rw [alone, show State.walk { s with walks := s.walks.filter fun (o : Walk) => o != w } w.tenant w.va = .error cause from walk]
  rw [List.foldl_cons, miss]
  rfl

theorem Held.miss_of_serves {w : Walk} {s : State} {h : Held} {va : Nat} (miss : h.holder = .xlate va) (serves : w.serves s h va = true) :
    h.miss w.die = some va := by
  simp only [Walk.serves, Bool.and_eq_true, beq_iff_eq] at serves
  unfold Held.miss
  rw [miss]
  exact if_pos serves.1.1.1.symm

/-- A walk that serves an address has found a leaf that maps it. -/
theorem Walk.leaf_of_serves {w : Walk} {s : State} {h : Held} {va : Nat} {l : Leaf} (serves : w.serves s h va = true)
    (walk : s.walk w.tenant w.va = .ok l) : l.base ≤ va ∧ va < l.base + l.size := by
  simp only [Walk.serves, Bool.and_eq_true] at serves
  have same := serves.2
  unfold State.sameLeaf at same
  rw [walk] at same
  simpa using same

theorem tlbWalkComplete_found {s u : State} {id va : Nat} {h : Held} {w : Walk} {l : Leaf} (held : s.heldOf id = some h)
    (miss : h.holder = .xlate va) (hit : s.tlbHit (128 + h.cluster / 64) h.bm.tenant va = false)
    (walkers : s.walkers (h.cluster / 64) = u) (found : (u.walks.find? fun w => w.serves u h va) = some w)
    (walk : s.walk w.tenant w.va = .ok l) : Happens (.tlbWalkComplete id) s fun s' =>
      s'.tlbHit h.cluster h.bm.tenant va = true ∧ s'.mem = s.mem ∧ s'.readied id s.cycle ∧
      ∀ g b, s.heldOf g.id = some g → g.holder = .xlate b → w.serves s g b = true → s'.readied g.id s.cycle := by
  obtain ⟨walks, turn, e⟩ := s.walkers_eq (h.cluster / 64)
  have done := tlbWalkComplete_ends held miss hit walkers found
  rw [e] at walkers
  subst walkers
  have serves := List.find?_some found
  change w.serves s h va = true at serves
  obtain ⟨hin, hid⟩ := State.heldOf_mem held
  have joined := State.mem_joined (s := { s with walks, walkTurn := turn }) hin miss serves
  obtain ⟨fills, mem⟩ := State.endWalk_fills (s := { s with walks, walkTurn := turn }) walk joined (Walk.leaf_of_serves serves walk)
  have ready := State.endWalk_readied (s := { s with walks, walkTurn := turn }) walk joined
  refine ⟨_, done, fills, mem, hid ▸ ready, fun g b hg missed joins => ?_⟩
  exact State.endWalk_readied (s := { s with walks, walkTurn := turn }) walk
    (State.mem_joined (s := { s with walks, walkTurn := turn }) (State.heldOf_mem hg).1 missed joins)

theorem tlbWalkComplete_fails {s u : State} {id va : Nat} {h : Held} {w : Walk} {cause : BitVec 8} (held : s.heldOf id = some h)
    (miss : h.holder = .xlate va) (hit : s.tlbHit (128 + h.cluster / 64) h.bm.tenant va = false)
    (walkers : s.walkers (h.cluster / 64) = u) (found : (u.walks.find? fun w => w.serves u h va) = some w)
    (walk : s.walk w.tenant w.va = .error cause)
    (alone : (s.bms.filter fun g => (g.miss w.die).any fun b => w.serves s g b) = [h]) :
    exec (.tlbWalkComplete id) s =
      .next ((({ u with walks := u.walks.filter (· != w) }).faultHeld id cause (BitVec.ofNat 56 va) h.bm.strand.pc).walkers w.die) := by
  obtain ⟨walks, turn, e⟩ := s.walkers_eq (h.cluster / 64)
  have done := tlbWalkComplete_ends held miss hit walkers found
  rw [e] at walkers
  subst walkers
  have serves := List.find?_some found
  change w.serves s h va = true at serves
  rw [done, State.endWalk_fails (s := { s with walks, walkTurn := turn }) walk alone (Held.miss_of_serves miss serves),
    (State.heldOf_mem held).2]

end Sys2Proof.Machine
end

section
/-! Frames of the accesses beside a core: what a read or a write at memory leaves of the cores, the bookmarks and the tenants. -/

namespace Sys2Proof.Machine

/-- Cores, bookmarks and tenants are as they were: an access has changed memory, caches, TLBs and logs alone. -/
def State.Aside (s u : State) : Prop := u.cores = s.cores ∧ u.bms = s.bms ∧ u.tenants = s.tenants

theorem State.Aside.refl (s : State) : s.Aside s := ⟨rfl, rfl, rfl⟩

theorem State.Aside.trans {s u v : State} (h : s.Aside u) (g : u.Aside v) : s.Aside v :=
  ⟨g.1.trans h.1, g.2.1.trans h.2.1, g.2.2.trans h.2.2⟩

theorem State.Aside.core {s u : State} (h : s.Aside u) (k : Nat) : u.core k = s.core k := by rw [State.core, h.1]; rfl

theorem State.Aside.gen {s u : State} (h : s.Aside u) (t : Nat) : u.gen t = s.gen t := by
  rw [State.gen, State.tenant, h.2.2]
  rfl

/-- A fold of accesses that may be refused. -/
theorem State.Aside.foldlM {α β : Type} {ε : Type} {f : β → α → Except ε β} (st : β → State)
    (step : ∀ b a b', f b a = .ok b' → (st b).Aside (st b'))
    {l : List α} {b b' : β} (h : l.foldlM f b = .ok b') : (st b).Aside (st b') := by
  induction l generalizing b with
  | nil => cases h; exact State.Aside.refl _
  | cons a l ih =>
    rw [List.foldlM_cons] at h
    cases e : f b a with
    | error x => rw [e] at h; cases h
    | ok c => rw [e] at h; exact (step b a c e).trans (ih h)

/-! ### Reads -/

theorem State.writeBack_aside (s : State) (l : L2Line) : s.Aside (s.writeBack l) := by
  unfold State.writeBack
  split
  · exact State.Aside.refl s
  · split
    · obtain ⟨fns, pkgLog, e⟩ := s.logAt_eq 0x03 (unitAt l.place).1 (unitAt l.place).2 (some l.tenant) (w64 l.place) 0x23
      rw [e]
      exact State.Aside.refl s
    · split <;> exact State.Aside.refl s

theorem State.l2Fill_aside {s u : State} {slice flat t va : Nat} (h : s.l2Fill slice flat t va = .ok u) : s.Aside u := by
  unfold State.l2Fill at h
  split at h
  · cases h; exact State.Aside.refl s
  · split at h
    · cases h
    · dsimp only at h
      cases h
      split
      · exact State.Aside.refl s
      · dsimp only
        split
        · exact State.writeBack_aside { s with fresh := s.fresh + 1, l2 := _ } _
        · exact State.Aside.refl s

theorem State.touch_aside {s u : State} {t va : Nat} {ps : List Place} (h : s.touch t va ps = .ok u) : s.Aside u := by
  refine State.Aside.foldlM id (fun b p b' e => ?_) h
  split at e
  · exact State.l2Fill_aside e
  · split at e
    · cases e
    · cases e; exact State.Aside.refl b

theorem State.readPlaces_aside {s u : State} {t va : Nat} {ps : List Place} {bs : List Byte} (h : s.readPlaces t va ps = .ok (u, bs)) :
    s.Aside u := by
  unfold State.readPlaces at h
  cases e : s.touch t va ps with
  | error f => rw [e] at h; cases h
  | ok v => rw [e] at h; cases h; exact State.touch_aside e

theorem State.ats_aside {s u : State} {fn flat : Nat} {n : Need} (h : s.ats fn flat n = some u) : s.Aside u := by
  unfold State.ats at h
  dsimp only at h
  split at h
  · cases h; exact State.Aside.refl s
  · split at h
    · cases h; exact State.Aside.refl s
    · cases h

theorem State.reach_aside {s u : State} {fn : Nat} {p : Place} {n : Need} (h : s.reach fn p n = .ok u) : s.Aside u := by
  unfold State.reach at h
  split at h
  · cases e : s.ats fn p.flat n with
    | none =>
      rw [e] at h
      dsimp only at h
      unfold State.askPage at h
      split at h
      · cases h
      · split at h <;> cases h
    | some v =>
      rw [e] at h
      dsimp only at h
      split at h
      · cases h
      · split at h
        · cases h
        · cases h; exact State.ats_aside e
  · cases h; exact State.Aside.refl s

theorem State.reachAll_aside {s u : State} {fn : Nat} {n : Need} {ps : List Place} (h : s.reachAll fn n ps = .ok u) : s.Aside u := by
  induction ps generalizing s with
  | nil => cases h; exact State.Aside.refl _
  | cons p ps ih =>
    unfold State.reachAll at h
    cases e : s.reach fn p n with
    | ok v => rw [e] at h; exact (State.reach_aside e).trans (ih h)
    | page v g => rw [e] at h; cases h
    | refused cause => rw [e] at h; cases h
    | halted => rw [e] at h; cases h

theorem State.xlated_aside (s : State) (unit : Option Nat) (t va : Nat) : s.Aside (s.xlated unit t va) := by
  obtain ⟨tlb, fresh, e⟩ := s.xlated_eq unit t va
  rw [e]
  exact State.Aside.refl s

theorem State.readLine_aside {s u : State} {unit : Option Nat} {t line : Nat} {data : Vec} (h : s.readLine unit t line = .ok u data) :
    s.Aside u := by
  unfold State.readLine at h
  dsimp only at h
  split at h
  · cases h
  · split at h
    · cases h
    · cases h
    · split at h
      · cases h
      · next ps _ =>
        split at h
        · cases h
        · cases h
        · cases h
        · next v reached =>
          split at h
          · cases h
          · next w bs read =>
            cases h
            exact (State.reachAll_aside reached).trans ((State.readPlaces_aside read).trans (State.xlated_aside ..))

end Sys2Proof.Machine
end

section
/-! O53, part 4: the fill of a line of code (02 R62 to R64). -/

namespace Sys2Proof.Machine

/-- The line of a core's cache that holds an address of a tenant in a generation. -/
def Core.line? (c : Core) (t : Nat) (gen : BitVec 8) (line : Nat) : Option ILine :=
  c.icache.find? fun l => l.tenant == t && l.gen == gen && l.base == line

theorem State.cached_eq (s : State) (k t line : Nat) : s.cached k t line = (s.core k).line? t (s.gen t) line := rfl

theorem State.cached_congr {s u : State} (cores : u.cores = s.cores) (tenants : u.tenants = s.tenants) (k t line : Nat) :
    u.cached k t line = s.cached k t line := by
  unfold State.cached State.core State.gen State.tenant
  rw [cores, tenants]

/-- The strand of a bookmark holds a line of the cache. -/
theorem Core.line?_hold {c : Core} {t line : Nat} {gen : BitVec 8} {l : ILine} (sid : Nat) (held : c.line? t gen line = some l) :
    Core.line? { c with icache := updWhere c.icache (fun l => l.tenant == t && l.gen == gen && l.base == line) fun l =>
      { l with held := l.held ++ [sid] } } t gen line = some { l with held := l.held ++ [sid] } := by
  unfold Core.line? updWhere at *
  dsimp only
  have same : ((fun o : ILine => o.tenant == t && o.gen == gen && o.base == line) ∘ fun o =>
      if (o.tenant == t && o.gen == gen && o.base == line) = true then { o with held := o.held ++ [sid] } else o) =
      fun o => o.tenant == t && o.gen == gen && o.base == line := by
    funext o
    dsimp only [Function.comp]
    split <;> rfl
  rw [List.find?_map, same, held, Option.map_some, if_pos (List.find?_some held)]

/-- A line that the cache does not hold is added where there is room. -/
theorem Core.line?_putLine {c : Core} {l : ILine} (choice : Nat) (new : c.line? l.tenant l.gen l.base = none) (room : c.icache.length < 512) :
    (c.putLine choice l).line? l.tenant l.gen l.base = some l := by
  have absent : (c.icache.any fun o => o.tenant == l.tenant && o.gen == l.gen && o.base == l.base) = false := by
    rw [List.any_eq_false]
    exact List.find?_eq_none.1 new
  unfold Core.putLine
  rw [if_neg (by rw [absent]; exact Bool.false_ne_true), if_pos room]
  unfold Core.line?
  dsimp only
  rw [List.find?_append, show List.find? _ c.icache = none from new]
  simp

/-- Putting a line, in the place of its older copy or in a free one, leaves the other lines alone. -/
theorem Core.line?_putLine_other {c : Core} {l : ILine} {t line : Nat} {gen : BitVec 8} (choice : Nat) (ne : l.base ≠ line)
    (room : c.line? l.tenant l.gen l.base ≠ none ∨ c.icache.length < 512) :
    (c.putLine choice l).line? t gen line = c.line? t gen line := by
  have other : ∀ o : ILine, o.base = l.base → (o.tenant == t && o.gen == gen && o.base == line) = false := fun o ho => by
    rw [ho, beq_false_of_ne ne, Bool.and_false]
  unfold Core.putLine
  split
  · unfold Core.line? updWhere
    dsimp only
    rw [List.find?_map]
    have same : ((fun o : ILine => o.tenant == t && o.gen == gen && o.base == line) ∘ fun o =>
        if (o.tenant == l.tenant && o.gen == l.gen && o.base == l.base) = true then { l with held := o.held, phase := o.phase } else o) =
        fun o => o.tenant == t && o.gen == gen && o.base == line := by
      funext o
      dsimp only [Function.comp]
      split
      · next hit =>
        simp only [Bool.and_eq_true, beq_iff_eq] at hit
        rw [other o hit.2, other _ rfl]
      · rfl
    rw [same]
    cases found : c.icache.find? fun o => o.tenant == t && o.gen == gen && o.base == line with
    | none => rfl
    | some o =>
      have here := List.find?_some found
      rw [Option.map_some, if_neg]
      intro hit
      simp only [Bool.and_eq_true, beq_iff_eq] at hit
      rw [other o hit.2] at here
      exact Bool.false_ne_true here
  · next absent =>
    have free : c.icache.length < 512 := room.resolve_left fun held => held <| by
      rw [Bool.not_eq_true, List.any_eq_false] at absent
      exact List.find?_eq_none.2 absent
    rw [if_pos free]
    unfold Core.line?
    dsimp only
    rw [List.find?_append, List.find?_cons_of_neg (by rw [other l rfl]; exact Bool.false_ne_true), List.find?_nil, Option.or_none]

/-- A copy of another line given up leaves the line. -/
theorem Core.line?_drop {c : Core} {n : ILine} {t line : Nat} {gen : BitVec 8} (ne : n.base ≠ line) :
    Core.line? { c with icache := dropWhere c.icache (· == n) } t gen line = c.line? t gen line := by
  unfold Core.line? dropWhere
  dsimp only
  rw [List.find?_filter]
  congr 1
  funext o
  by_cases same : o = n
  · subst same
    simp [ne]
  · simp only [beq_false_of_ne same, Bool.not_false, true_and, Bool.decide_eq_true]

theorem State.fillCore_core (s : State) (k t line : Nat) (data : Vec) :
    (s.fillCore k t line data).core k = (s.core k).putLine (Config.victim s.fresh)
      { tenant := t, gen := s.gen t, base := line, data, lead := s.leadOf t line } := State.core_updCore_self ..

/-- A line filled where its cache has room is cached with its data, and the other lines as they were. -/
theorem State.fillCore_cached {s : State} {k t line : Nat} (data : Vec) (new : s.cached k t line = none) (room : (s.core k).icache.length < 512) :
    (∃ l, (s.fillCore k t line data).cached k t line = some l ∧ l.data = data) ∧
      ∀ line', line ≠ line' → (s.fillCore k t line data).cached k t line' = s.cached k t line' := by
  have core := s.fillCore_core k t line data
  constructor
  · refine ⟨{ tenant := t, gen := s.gen t, base := line, data, lead := s.leadOf t line }, ?_, rfl⟩
    rw [State.cached_eq, core]
    exact Core.line?_putLine _ new room
  · intro line' ne
    rw [State.cached_eq, core]
    exact Core.line?_putLine_other _ ne (Or.inr room)

/-- Reading the next line afresh leaves the lines before it cached, and the bookmarks as they were. -/
theorem State.renewNext_keeps (s : State) (k t line : Nat) :
    (s.renewNext k t line).cached k t line = s.cached k t line ∧ (s.renewNext k t line).bms = s.bms := by
  have ne : line + 1 ≠ line := Nat.succ_ne_self line
  unfold State.renewNext
  split
  · exact ⟨rfl, rfl⟩
  · next n next =>
    have base : n.base = line + 1 := by
      have := List.find?_some next
      simp only [Bool.and_eq_true, beq_iff_eq] at this
      exact this.2
    have dropped : (State.updCore s k fun c => { c with icache := dropWhere c.icache (· == n) }).cached k t line = s.cached k t line := by
      rw [State.cached_eq, State.core_updCore_self]
      exact Core.line?_drop (base ▸ ne)
    have given : ∀ u, u = (if n.held.isEmpty = true then s.updCore k fun c => { c with icache := dropWhere c.icache (· == n) } else s) →
        u.cached k t line = s.cached k t line ∧ u.bms = s.bms := by
      intro u hu
      subst hu
      split
      · exact ⟨dropped, rfl⟩
      · exact ⟨rfl, rfl⟩
    split
    · exact ⟨rfl, rfl⟩
    · cases read : s.readLine none t (line + 1) with
      | ok u data =>
        have aside := State.readLine_aside read
        refine ⟨?_, aside.2.1⟩
        rw [State.cached_eq, State.fillCore_core, aside.core, s.cached_eq]
        dsimp only
        have held : (s.core k).line? t (u.gen t) (line + 1) ≠ none := by
          rw [aside.gen, ← s.cached_eq, next]
          exact Option.some_ne_none n
        refine (Core.line?_putLine_other _ ne (Or.inl held)).trans ?_
        rw [show State.gen (u.fillCore k t (line + 1) data) t = u.gen t from rfl, aside.gen]
      | fault cause => exact given _ rfl
      | page u g => exact given _ rfl
      | held => exact given _ rfl

/-- A bookmark that waits for a line is released ready, and no core changes. -/
theorem State.release_fetch {s : State} {h : Held} {line : Nat} (bind : Bool) (held : s.heldOf h.id = some h) (fetch : h.holder = .fetch line) :
    (s.release h.id bind).cores = s.cores ∧ (s.release h.id bind).tenants = s.tenants ∧
      ∃ h' ∈ (s.release h.id bind).bms, h'.id = h.id ∧ h'.holder = .ready ∧ h'.bm.bind = bind := by
  unfold State.release State.releaseAfter
  rw [held]
  dsimp only
  rw [fetch]
  exact ⟨rfl, rfl, _, List.mem_append_right _ (List.mem_singleton.2 rfl), rfl, rfl, Bool.or_false bind⟩

/-- The bookmark of a line that is cached is released, and the line stays cached with its data. -/
theorem State.releaseFetch_keeps {s : State} {k t line : Nat} {h : Held} {l : ILine} (held : s.heldOf h.id = some h)
    (fetch : h.holder = .fetch line) (cached : s.cached k t line = some l) :
    (∃ l', (s.releaseFetch k t line h).cached k t line = some l' ∧ l'.data = l.data) ∧
      ∃ h' ∈ (s.releaseFetch k t line h).bms, h'.id = h.id ∧ h'.holder = .ready ∧ h'.bm.bind = true := by
  obtain ⟨cores, tenants, released⟩ := State.release_fetch (s := s.updCore k fun c => { c with
    icache := updWhere c.icache (fun l => l.tenant == t && l.gen == s.gen t && l.base == line) fun l =>
      { l with held := l.held ++ [h.bm.strand.sid] } }) true held fetch
  refine ⟨⟨{ l with held := l.held ++ [h.bm.strand.sid] }, ?_, rfl⟩, released⟩
  unfold State.releaseFetch
  rw [State.cached_congr cores tenants, State.cached_eq, State.core_updCore_self]
  exact Core.line?_hold _ cached

theorem State.haveLine_of_absent {s : State} {k t line : Nat} (h : Held) (absent : s.cached k t line = none) :
    s.haveLine k t line h = none := by
  unfold State.haveLine
  dsimp only
  split
  · rfl
  · exact absent

/-- A word that lies in one line, or whose second line is not cached, takes its line as it is cached. -/
theorem State.haveLine_of_whole {s : State} {k t line : Nat} {h : Held}
    (whole : s.cached k t (line + 1) ≠ none → fetchVa h.bm.strand % 64 ≤ 60) : s.haveLine k t line h = s.cached k t line := by
  unfold State.haveLine
  dsimp only
  rw [if_neg]
  intro torn
  simp only [Bool.and_eq_true, decide_eq_true_eq] at torn
  obtain ⟨⟨-, beyond⟩, next⟩ := torn
  cases e : s.cached k t (line + 1) with
  | none => rw [e] at next; exact Bool.false_ne_true next
  | some n => exact absurd (whole (by rw [e]; exact Option.some_ne_none n)) (by omega)

theorem State.renewNext_of_absent {s : State} {k t line : Nat} (absent : s.cached k t (line + 1) = none) : s.renewNext k t line = s := by
  unfold State.renewNext
  rw [absent]

/-- The one bookmark that waits for a line, once the line is read: it is filled, the next renewed, and the fetch ends. -/
theorem State.serveFetch_read {s u : State} {k line : Nat} {h : Held} {data : Vec} (absent : s.cached k h.bm.tenant line = none)
    (few : (s.core k).heldLines < 4) (read : s.readLine (some (k / 8)) h.bm.tenant line = .ok u data) :
    s.serveFetch k line h = ((u.fillCore k h.bm.tenant line data).renewNext k h.bm.tenant line).endFetch k h.bm.tenant line h := by
  unfold State.serveFetch
  dsimp only
  rw [State.haveLine_of_absent h absent, decide_eq_true few, Bool.or_true, if_neg (by decide), read]

theorem fetchLineFill_happens {s u : State} {k line : Nat} {h : Held} {data : Vec} (fetchers : s.fetchers k line = [h])
    (held : s.heldOf h.id = some h) (absent : s.cached k h.bm.tenant line = none)
    (whole : s.cached k h.bm.tenant (line + 1) ≠ none → fetchVa h.bm.strand % 64 ≤ 60) (few : (s.core k).heldLines < 4)
    (room : (s.core k).icache.length < 512) (read : s.readLine (some (k / 8)) h.bm.tenant line = .ok u data) :
    Happens (.fetchLineFill k line) s fun s' => (∃ l, s'.cached k h.bm.tenant line = some l ∧ l.data = data) ∧
      ∃ h' ∈ s'.bms, h'.id = h.id ∧ h'.holder = .ready ∧ h'.bm.bind = true := by
  have aside := State.readLine_aside read
  have fetch : h.holder = .fetch line := by
    have mine : h ∈ s.fetchers k line := by rw [fetchers]; exact List.mem_singleton.2 rfl
    simpa using (Bool.and_eq_true_iff.1 (List.mem_filter.1 mine).2).2
  have before : ∀ n, u.cached k h.bm.tenant n = s.cached k h.bm.tenant n := State.cached_congr aside.1 aside.2.2 k _
  obtain ⟨⟨l, filled, same⟩, others⟩ := State.fillCore_cached (s := u) (t := h.bm.tenant) data ((before line).trans absent)
    (by rw [aside.core]; exact room)
  generalize full : u.fillCore k h.bm.tenant line data = v at filled others
  obtain ⟨keeps, bms⟩ := v.renewNext_keeps k h.bm.tenant line
  have next : v.cached k h.bm.tenant (line + 1) = s.cached k h.bm.tenant (line + 1) :=
    (others (line + 1) (Nat.succ_ne_self line).symm).trans (before (line + 1))
  have whole' : (v.renewNext k h.bm.tenant line).cached k h.bm.tenant (line + 1) ≠ none → fetchVa h.bm.strand % 64 ≤ 60 := by
    cases e : s.cached k h.bm.tenant (line + 1) with
    | none => rw [e] at next; rw [State.renewNext_of_absent next, next]; exact fun h => absurd rfl h
    | some n => exact fun _ => whole (by rw [e]; exact Option.some_ne_none n)
  have bms' : (v.renewNext k h.bm.tenant line).bms = s.bms := by
    rw [bms, ← full]
    exact aside.2.1
  have held' : (v.renewNext k h.bm.tenant line).heldOf h.id = some h := by
    rw [State.heldOf, bms']
    exact held
  have cached := keeps.trans filled
  obtain ⟨⟨l', here, data'⟩, released⟩ := State.releaseFetch_keeps held' fetch cached
  have done : exec (.fetchLineFill k line) s = .next ((v.renewNext k h.bm.tenant line).releaseFetch k h.bm.tenant line h) := by
    change execFetchLineFill k line s = _
    unfold execFetchLineFill
    rw [fetchers]
    dsimp only
    rw [List.foldl_cons, List.foldl_nil, State.serveFetch_read absent few read, full]
    unfold State.endFetch
    rw [State.haveLine_of_whole whole', cached]
    rfl
  exact ⟨_, done, ⟨l', here, data'.trans same⟩, released⟩

end Sys2Proof.Machine
end

section
/-! Frames, continued: writes at memory, and counter operations of a core at their homes, leave the strips that cores have buffered. -/

namespace Sys2Proof.Machine

/-! ### Writes -/

theorem State.pokeByte_aside (s : State) (t : Nat) (p : Place) (b : Byte) : s.Aside (s.pokeByte t p b) := by
  unfold State.pokeByte
  split <;> exact State.Aside.refl s

theorem State.Aside.foldl {α : Type} {f : State → α → State} (step : ∀ (u : State) a, u.Aside (f u a)) (l : List α) (s : State) :
    s.Aside (l.foldl f s) :=
  List.foldlRecOn (motive := s.Aside) l f (State.Aside.refl s) fun u h a _ => h.trans (step u a)

theorem State.replaced_aside (s : State) (fs : List Nat) : s.Aside (s.replaced fs) := by
  unfold State.replaced
  split <;> exact State.Aside.refl s

theorem State.writePlaces_aside {s u : State} {t va : Nat} {ps : List (Place × Byte)} (h : s.writePlaces t va ps = .ok u) : s.Aside u := by
  unfold State.writePlaces at h
  cases e : (s.replaced (ps.map (·.1.flat))).touch t va (ps.map (·.1)) with
  | error f => rw [e] at h; cases h
  | ok v =>
    rw [e] at h
    cases h
    have poked : v.Aside (ps.foldl (fun s p => s.pokeByte t p.1 p.2) v) := State.Aside.foldl (fun u p => u.pokeByte_aside t p.1 p.2) ps v
    exact ((s.replaced_aside _).trans (State.touch_aside e)).trans poked

theorem State.writeGranule_aside {s u : State} {t va : Nat} {p : Place} {img : Vec} {tag : Bool} (h : s.writeGranule t va p img tag = .ok u) :
    s.Aside u := by
  unfold State.writeGranule at h
  dsimp only at h
  generalize e : s.writePlaces t va _ = r at h
  cases r with
  | error f => cases h
  | ok v =>
    have wrote := State.writePlaces_aside e
    cases home : p.home.sliceNo with
    | none => rw [home] at h; cases h; exact wrote
    | some k => rw [home] at h; cases h; exact wrote

theorem State.atomicAt_aside {s u : State} {t va n : Nat} {p : Place} {op : AmoOp} {wide : Bool} {b x : Word}
    (h : s.atomicAt t va p op wide b x = .ok (u, n)) : s.Aside u := by
  unfold State.atomicAt at h
  dsimp only at h
  cases e : s.readPlaces t va (p.run (amoBytes wide)) with
  | error f => rw [e] at h; cases h
  | ok r =>
    obtain ⟨v, bs⟩ := r
    rw [e] at h
    change (State.writePlaces v t va _ >>= _) = _ at h
    generalize e' : v.writePlaces t va _ = r at h
    cases r with
    | error f => cases h
    | ok w => cases h; exact (State.readPlaces_aside e).trans (State.writePlaces_aside e')

theorem State.putWord_aside (s : State) (place : Nat) (v : Word) : s.Aside (s.putWord place v) := by
  unfold State.putWord
  split <;> exact State.Aside.refl s

theorem State.syncHome_aside (s : State) (cell : Nat) : s.Aside (s.syncHome cell) := by
  unfold State.syncHome
  split
  · exact State.Aside.refl s
  · exact s.putWord_aside ..

theorem State.collectSlip_aside (s : State) (t va : Nat) (v : Word) : s.Aside (s.collectSlip t va v) := by
  unfold State.collectSlip
  split
  · split <;> exact State.Aside.refl s
  · exact State.Aside.refl s

/-! ### What homes send -/

theorem State.sendCans_aside (s : State) (port t : Nat) (payload : List Word) : s.Aside (s.sendCans port t payload) := by
  unfold State.sendCans
  split <;> exact State.Aside.refl s

theorem State.answerWatches_aside (s : State) (cell : Nat) (v : Word) : s.Aside (s.answerWatches cell v) :=
  State.Aside.foldl (fun (u : State) (w : Watch) => u.sendCans_aside w.port w.owner [w64 w.op, 3, v]) _ { s with watches := _ }

theorem State.pump_aside (s : State) (fn fuel : Nat) : s.Aside (s.pump fn fuel) := by
  induction fuel generalizing s with
  | zero => exact State.Aside.refl s
  | succ fuel ih =>
    unfold State.pump
    dsimp only
    split
    · split
      · exact State.Aside.refl s
      · exact ih _
    · exact State.Aside.refl s

/-- The state that an operation at its home leaves. -/
def HomeAnswer.state : HomeAnswer → State
  | .applied s => s
  | .sent s => s
  | .refused s _ => s
  | .held s => s

theorem State.fallback_aside (s : State) (op : CtrOp) : s.Aside (s.fallback op).state := by
  unfold State.fallback
  split
  · exact State.Aside.refl s
  · split
    · exact State.pump_aside (State.updFn (s.keepWord op.place) op.tenant _) op.tenant _
    · exact State.Aside.refl s

/-- An addition or a maximum, as a core posts it. -/
def CtrKind.adds (k : CtrKind) : Prop := ∃ a, k = .add a ∨ k = .max a

theorem State.toHost_aside {s : State} {op : CtrOp} (kind : op.kind.adds) : s.Aside (s.toHost op).state := by
  unfold State.toHost
  obtain ⟨a, kind | kind⟩ := kind
  all_goals
    rw [kind]
    dsimp only
  · split
    · exact State.Aside.refl s
    · split
      · exact State.fallback_aside (s.keepWord op.place) op
      · exact State.Aside.refl s
  · split
    · exact State.fallback_aside (s.keepWord op.place) op
    · exact State.Aside.refl s

theorem State.reach_page_aside {s u : State} {fn g : Nat} {p : Place} {n : Need} (h : s.reach fn p n = .page u g) : s.Aside u := by
  unfold State.reach at h
  split at h
  · split at h
    · split at h
      · cases h
      · split at h <;> cases h
    · unfold State.askPage at h
      split at h
      · cases h
      · split at h
        · cases h; exact State.Aside.refl s
        · cases h; exact State.Aside.refl s
  · cases h

theorem State.atHost_aside {s : State} {op : CtrOp} (kind : op.kind.adds) : s.Aside (s.atHost op).state := by
  have reached : s.Aside (HomeAnswer.state (match s.reach op.tenant { flat := op.place, home := .host } needRW with
      | .ok s => s.toHost op
      | .page s _ => .held s
      | .refused cause => .refused s cause
      | .halted => .held s)) := by
    cases e : s.reach op.tenant { flat := op.place, home := .host } needRW with
    | ok u => exact (State.reach_aside e).trans (State.toHost_aside kind)
    | page u g => exact State.reach_page_aside e
    | refused cause => exact State.Aside.refl s
    | halted => exact State.Aside.refl s
  unfold State.atHost
  obtain ⟨a, kind | kind⟩ := kind
  all_goals
    rw [kind]
    exact reached

theorem State.atPeer_aside {s : State} {op : CtrOp} (port : Nat) (kind : op.kind.adds) : s.Aside (s.atPeer port op).state := by
  unfold State.atPeer
  obtain ⟨a, kind | kind⟩ := kind
  all_goals
    rw [kind]
    exact State.Aside.refl s

/-! ### Strips that cores have buffered (R234) -/

/-- Every core has the strips buffered that it had. -/
def State.KeepsStrips (s u : State) : Prop := ∀ k, (u.core k).strips = (s.core k).strips

theorem State.KeepsStrips.refl (s : State) : s.KeepsStrips s := fun _ => rfl

theorem State.KeepsStrips.trans {s u v : State} (h : s.KeepsStrips u) (g : u.KeepsStrips v) : s.KeepsStrips v :=
  fun k => (g k).trans (h k)

theorem State.Aside.keepsStrips {s u : State} (h : s.Aside u) : s.KeepsStrips u := fun k => by rw [h.core]

theorem State.updCore_keepsStrips (s : State) (j : Nat) {f : Core → Core} (keeps : ∀ c, (f c).strips = c.strips) :
    s.KeepsStrips (s.updCore j f) := fun k => by
  by_cases same : k = j
  · subst same
    rw [State.core_updCore_self, keeps]
  · rw [State.core_updCore_ne _ _ same]

theorem State.releaseAfter_keepsStrips (s : State) (late id : Nat) (b : Bool) : s.KeepsStrips (s.releaseAfter late id b) := by
  unfold State.releaseAfter
  split
  · exact State.KeepsStrips.refl s
  · dsimp only
    split
    · exact State.updCore_keepsStrips _ _ fun _ => rfl
    · exact State.KeepsStrips.refl s

theorem State.releaseWaiter_keepsStrips (s : State) (v : Word) (late id : Nat) : s.KeepsStrips (s.releaseWaiter v late id) := by
  unfold State.releaseWaiter
  split
  · dsimp only
    split
    · exact (State.collectSlip_aside ..).keepsStrips.trans (State.releaseAfter_keepsStrips _ _ _ _)
    · exact State.releaseAfter_keepsStrips _ _ _ _
  · exact State.KeepsStrips.refl s

theorem State.releaseAll_keepsStrips (s : State) (cell : Nat) (v : Word) (ids : List Nat) : s.KeepsStrips (s.releaseAll cell v ids) :=
  List.foldlRecOn (motive := s.KeepsStrips) ids.zipIdx _ (State.KeepsStrips.refl s) fun u h _ _ =>
    h.trans (u.releaseWaiter_keepsStrips _ _ _)

theorem State.seen_keepsStrips (s : State) (cell : Nat) (before v : Word) : s.KeepsStrips (s.seen cell before v) := by
  have answered := (s.answerWatches_aside cell v).keepsStrips
  unfold State.seen
  dsimp only
  split
  · exact answered
  · refine State.KeepsStrips.trans ?_ (State.syncHome_aside ..).keepsStrips
    split
    · exact answered
    · exact answered.trans (State.releaseAll_keepsStrips _ _ _ _)

theorem State.applyCell_keepsStrips {s u : State} {cell va : Nat} {new : Word} (h : s.applyCell cell va new = .ok u) : s.KeepsStrips u := by
  unfold State.applyCell at h
  dsimp only at h
  generalize List.any (s.distances cell (s.cellVal cell)) _ = wraps at h
  cases wraps with
  | true => rw [if_pos rfl] at h; cases h
  | false =>
    rw [if_neg Bool.false_ne_true] at h
    rw [← Except.ok.inj h]
    exact (s.putWord_aside cell new).keepsStrips.trans (State.seen_keepsStrips _ _ _ _)

/-- A home's answer: what it has applied, or the cause that it refuses with. -/
def State.appliedOr (s : State) (r : Raises State) : HomeAnswer :=
  match r with
  | .ok u => .applied u
  | .error f => .refused s f.cause

/-- An operation that a core has posted leaves every core's strips at its home. -/
theorem State.atHome_keepsStrips {s : State} {op : CtrOp} (p : Place) (kind : op.kind.adds) : s.KeepsStrips (s.atHome op p).state := by
  have near : s.KeepsStrips (if s.badAt p.flat = true then HomeAnswer.refused s cIntegrity
      else (s.retest p.flat).appliedOr
        ((s.retest p.flat).applyCell p.flat op.va (op.kind.newValue ((s.retest p.flat).cellVal p.flat)))).state := by
    split
    · exact State.KeepsStrips.refl s
    · have tested : s.KeepsStrips (s.retest p.flat) := State.seen_keepsStrips _ _ _ _
      cases e : (s.retest p.flat).applyCell p.flat op.va (op.kind.newValue ((s.retest p.flat).cellVal p.flat)) with
      | ok u => exact tested.trans (State.applyCell_keepsStrips e)
      | error f => exact tested
  have host := (State.atHost_aside (s := s) kind).keepsStrips
  have peer := fun q => (State.atPeer_aside (s := s) q kind).keepsStrips
  obtain ⟨a, kind | kind⟩ := kind
  all_goals
    rw [kind] at near
    unfold State.atHome
    rw [kind]
    dsimp only
    split
    · exact State.KeepsStrips.refl s
    · split
      · exact State.KeepsStrips.refl s
      · cases home : p.home with
        | host => exact host
        | peer q =>
          dsimp only
          split
          · exact State.KeepsStrips.refl s
          · exact peer q
        | spad k => exact near
        | vault k => exact near
        | channel k => exact near
        | slice k => exact near
        | hostSlice k => exact near

end Sys2Proof.Machine
end

section
/-! O53, part 5: strips of bound registers (07 R233, R234). -/

namespace Sys2Proof.Machine

/-! ### The queue of a core offered -/

/-- The state in which an entry has been offered. -/
def Accept.state : Accept → State
  | .done s => s
  | .failed s _ => s
  | .sent s _ => s
  | .waits s => s

/-- An entry's outcome where its home has written, or refused. -/
def State.acceptedOr (s : State) (r : Raises State) : Accept :=
  match r with
  | .ok u => .done u
  | .error f => .failed s f.cause

theorem State.acceptedOr_keepsStrips {s : State} {r : Raises State} (h : ∀ u, r = .ok u → s.Aside u) : s.KeepsStrips (s.acceptedOr r).state := by
  cases r with
  | ok u => exact (h u rfl).keepsStrips
  | error f => exact State.KeepsStrips.refl s

theorem State.acceptEntry_keepsStrips (s : State) (k : Nat) (e : Posted) : s.KeepsStrips (s.acceptEntry k e).state := by
  unfold State.acceptEntry
  dsimp only
  split
  · exact State.KeepsStrips.refl s
  · split
    · exact State.KeepsStrips.refl s
    · split
      · exact State.KeepsStrips.refl s
      · cases entry : e.op with
        | data cells => exact State.acceptedOr_keepsStrips fun u h => State.writePlaces_aside h
        | cap p img tag => exact State.acceptedOr_keepsStrips fun u h => State.writeGranule_aside h
        | atomic p op wide b x =>
          refine State.acceptedOr_keepsStrips (r := (s.atomicAt e.tenant e.va p op wide b x).map (·.1)) fun u h => ?_
          cases done : s.atomicAt e.tenant e.va p op wide b x with
          | error f => rw [done] at h; cases h
          | ok r => rw [done] at h; cases h; exact State.atomicAt_aside done
        | counter p max arg =>
          have adds : (if max = true then CtrKind.max arg else CtrKind.add arg).adds := by
            cases max with
            | true => exact ⟨arg, Or.inr rfl⟩
            | false => exact ⟨arg, Or.inl rfl⟩
          have home := State.atHome_keepsStrips (s := { s with nextId := s.nextId + 1 }) (op :=
            { id := s.nextId, place := p.flat, va := e.va, kind := if max = true then .max arg else .add arg, tenant := e.tenant
              gen := e.gen, origin := .posted k }) p adds
          dsimp only
          split
          all_goals
            next answer =>
              rw [answer] at home
              exact home

theorem State.acceptAt_keepsStrips (s : State) (k i : Nat) : s.KeepsStrips (s.acceptAt k i).1 := by
  unfold State.acceptAt
  dsimp only
  split
  · exact State.KeepsStrips.refl s
  · next e _ =>
    split
    · exact State.KeepsStrips.refl s
    · have offered := s.acceptEntry_keepsStrips k e
      split
      · next u a =>
        rw [a] at offered
        exact offered.trans (u.updCore_keepsStrips k fun _ => rfl)
      · next u cause a =>
        rw [a] at offered
        have gone : u.KeepsStrips (u.updCore k fun c => { c with posted := c.posted.eraseIdx i }) := u.updCore_keepsStrips k fun _ => rfl
        exact (offered.trans gone).trans (State.updCore_keepsStrips _ k fun _ => rfl)
      · next u id a =>
        rw [a] at offered
        exact offered.trans (u.updCore_keepsStrips k fun _ => rfl)
      · next u a =>
        rw [a] at offered
        exact offered.trans (u.updCore_keepsStrips k fun _ => rfl)

theorem State.acceptFrom_keepsStrips (s : State) (k fuel i : Nat) : s.KeepsStrips (s.acceptFrom k fuel i) := by
  induction fuel generalizing s i with
  | zero => exact State.KeepsStrips.refl s
  | succ fuel ih => exact (s.acceptAt_keepsStrips k i).trans (ih _ _)

theorem State.offerAll_keepsStrips (s : State) (k : Nat) : s.KeepsStrips (s.offerAll k) := s.acceptFrom_keepsStrips k _ 0

/-! ### A strip read -/

theorem State.engPlaces_aside {s u : State} {unit : Option Nat} {t va n : Nat} {need : Need} {ps : List Place}
    (h : s.engPlaces unit t va n need = .ok (u, ps)) : s.Aside u := by
  unfold State.engPlaces at h
  cases found : s.engFind unit t va n need with
  | error f => rw [found] at h; cases h
  | ok qs =>
    rw [found] at h
    change engReached unit t va n qs (s.reachAll t need qs) = _ at h
    cases reached : s.reachAll t need qs with
    | ok v =>
      rw [reached] at h
      cases h
      exact (State.reachAll_aside reached).trans ((State.xlated_aside v unit t va).trans (State.xlated_aside _ unit t _))
    | page v g => rw [reached] at h; cases h
    | refused cause => rw [reached] at h; cases h
    | halted => rw [reached] at h; cases h

theorem State.engRead_aside {s u : State} {unit : Option Nat} {t va n : Nat} {bs : List Byte} (h : s.engRead unit t va n = .ok (u, bs)) :
    s.Aside u := by
  unfold State.engRead at h
  cases places : s.engPlaces unit t va n needR with
  | error f => rw [places] at h; cases h
  | ok r =>
    obtain ⟨v, ps⟩ := r
    rw [places] at h
    change ofRaises (v.readPlaces t va ps) = _ at h
    cases read : v.readPlaces t va ps with
    | error f => rw [read] at h; cases h
    | ok r =>
      rw [read] at h
      cases h
      exact (State.engPlaces_aside places).trans (State.readPlaces_aside read)

theorem State.readStrip_aside {s u : State} {unit t pos : Nat} {d v : Vec} (h : s.readStrip unit t d pos = .ok (u, v)) : s.Aside u := by
  unfold State.readStrip at h
  dsimp only at h
  generalize e : List.foldlM (m := Eng) _ (s, []) _ = r at h
  cases r with
  | error f => cases h
  | ok r =>
    cases h
    refine State.Aside.foldlM (fun acc : State × List Byte => acc.1) (fun acc i acc' step => ?_) e
    split at step
    · generalize read : acc.1.engRead _ _ _ _ = x at step
      cases x with
      | error f => cases step
      | ok x => cases step; exact State.engRead_aside read
    · split at step
      · cases step; exact State.Aside.refl _
      · cases step

/-! ### STREAM_STRIP_ARRIVAL (R234) -/

theorem streamStripArrival_happens {s s1 : State} {k j : Nat} {d v : Vec} {ahead pos : Nat}
    (free : (s.bms.find? fun h => h.bm.lcore == k && h.holder == .stream j) = none)
    (count : ((s.core k).strips.filter fun p => p.owner == 0 && p.reg == j).length = ahead) (next : sdNext d + ahead = pos)
    (mode : (s.core k).mode = .running) (bound : (s.core k).strand.bind[j]? = some (some d)) (tagged : sdTag d = true) (few : ahead < 4)
    (room : (s.core k).strips.length < 32) (more : pos < sdCount d) (stored : (s.offerAll k).storesBefore k j = true)
    (read : (s.offerAll k).readStrip (k / 8) (s.core k).strand.tenant d pos = .ok (s1, v)) :
    Happens (.streamStripArrival k (24 + j)) s fun s' =>
      (s'.core k).strips = (s.core k).strips ++ [{ reg := j, pos, data := .ok v, owner := 0 }] ∧ s'.mem = s1.mem := by
  have desc : (s.core k).strand.desc j = d := by
    unfold Strand.desc
    rw [bound]
    rfl
  have filled : s.refill k j (s.core k).strand.tenant d pos 0 (s.core k).runId =
      s1.putStrip k { reg := j, pos, data := .ok v, owner := 0 } := by
    unfold State.refill
    dsimp only
    rw [if_neg (by rw [stored]; decide), read]
  change ∃ s', execStreamStripArrival k (24 + j) s = .next s' ∧ _
  unfold execStreamStripArrival
  dsimp only
  rw [Nat.add_sub_cancel_left, if_neg (Nat.not_le.2 room), free]
  dsimp only
  rw [desc, count, next]
  refine State.event_happens ?_ ?_
  · rw [mode, bound, tagged, decide_eq_true few, decide_eq_true more]
    rfl
  · rw [filled]
    refine ⟨?_, rfl⟩
    unfold State.putStrip
    rw [State.core_updCore_self]
    dsimp only
    rw [(State.readStrip_aside read).core, s.offerAll_keepsStrips k k]

end Sys2Proof.Machine
end

section
/-! O53, part 6: what the host answers, withdraws and enables (06 R210, R211). -/

namespace Sys2Proof.Machine

/-! ### Permissions of the host's pages -/

theorem State.hostPermOf_setPerm (s : State) (fn page : Nat) (perm : BitVec 2) (f q : Nat) :
    (s.setPerm fn page perm).hostPermOf f q = if f = fn ∧ q = page then perm else s.hostPermOf f q := by
  unfold State.setPerm State.hostPermOf dropWhere
  dsimp only
  rw [List.find?_append, List.find?_filter]
  by_cases same : f = fn ∧ q = page
  · obtain ⟨rfl, rfl⟩ := same
    have dropped : s.hostPerm.find? (fun e => decide ((!(e.fn == f && e.page == q)) = true ∧ (e.fn == f && e.page == q) = true)) = none := by
      rw [List.find?_eq_none]
      intro e _
      cases e.fn == f && e.page == q <;> decide
    rw [if_pos ⟨rfl, rfl⟩, dropped]
    simp
  · have other : ∀ e : AtcEntry, (e.fn == f && e.page == q) = true → (e.fn == fn && e.page == page) = false := by
      intro e here
      rw [Bool.and_eq_true, beq_iff_eq, beq_iff_eq] at here
      rw [here.1, here.2, Bool.eq_false_iff]
      intro both
      rw [Bool.and_eq_true, beq_iff_eq, beq_iff_eq] at both
      exact same both
    have kept : (fun e : AtcEntry => decide ((!(e.fn == fn && e.page == page)) = true ∧ (e.fn == f && e.page == q) = true)) =
        fun e => e.fn == f && e.page == q := by
      funext e
      cases here : e.fn == f && e.page == q with
      | false => simp
      | true => simp [other e here]
    rw [if_neg same, kept, List.find?_cons_of_neg, List.find?_nil, Option.or_none]
    intro hit
    have := other _ hit
    simp at this

theorem State.setPerms_eq (s : State) (fn page count : Nat) (perm : BitVec 2) :
    ∃ hostPerm, (List.range count).foldl (fun s i => s.setPerm fn (page + i) perm) s = { s with hostPerm } := by
  induction count with
  | zero => exact ⟨s.hostPerm, rfl⟩
  | succ n ih =>
    obtain ⟨hostPerm, e⟩ := ih
    rw [List.range_succ, List.foldl_append, e]
    exact ⟨_, rfl⟩

theorem State.hostPermOf_setPerms (s : State) (fn page count : Nat) (perm : BitVec 2) (f q : Nat) :
    ((List.range count).foldl (fun s i => s.setPerm fn (page + i) perm) s).hostPermOf f q =
      if f = fn ∧ page ≤ q ∧ q < page + count then perm else s.hostPermOf f q := by
  induction count with
  | zero => rw [if_neg (by omega)]; rfl
  | succ n ih =>
    rw [List.range_succ, List.foldl_append, List.foldl_cons, List.foldl_nil, State.hostPermOf_setPerm, ih]
    by_cases last : f = fn ∧ q = page + n
    · rw [if_pos last, if_pos (by omega)]
    · rw [if_neg last]
      congr 1
      exact propext (by omega)

/-! ### PAGE_REQUEST_GROUP_RESPONSE (R211) -/

/-- Issuing a request changes no request's number. -/
theorem State.issuePage_eq (s : State) (fn : Nat) :
    ∃ pageReqs, s.issuePage fn = { s with pageReqs } ∧ ∀ q ∈ pageReqs, ∃ r ∈ s.pageReqs, r.group = q.group := by
  have kept : ∀ q ∈ s.pageReqs, ∃ r ∈ s.pageReqs, r.group = q.group := fun q hq => ⟨q, hq, rfl⟩
  unfold State.issuePage
  split
  · split
    · refine ⟨_, rfl, fun q hq => ?_⟩
      obtain ⟨r, hr, e⟩ := List.mem_map.1 hq
      refine ⟨r, hr, ?_⟩
      rw [← e]
      split <;> rfl
    · exact ⟨s.pageReqs, rfl, kept⟩
  · exact ⟨s.pageReqs, rfl, kept⟩

/-- Bookmarks released one after another change bookmarks and cores alone. -/
theorem State.releases_eq (s : State) (l : List Held) :
    ∃ bms cores, l.foldl (fun s h => s.release h.id false) s = { s with bms, cores } := by
  induction l generalizing s with
  | nil => exact ⟨s.bms, s.cores, rfl⟩
  | cons h l ih =>
    obtain ⟨bms, cores, e⟩ := s.release_eq h.id false
    rw [List.foldl_cons, e]
    obtain ⟨bms', cores', e'⟩ := ih { s with bms, cores }
    exact ⟨bms', cores', e'⟩

theorem State.not_parked_of_unpark {s : State} {group : Nat} {c : Cmd} (hc : c ∈ (s.unpark group).cmds) (va : Nat) :
    c.state ≠ .parked group va := by
  obtain ⟨d, -, e⟩ := List.mem_map.1 hc
  intro parked
  cases state : d.state with
  | parked g va' =>
    rw [state] at e
    dsimp only at e
    split at e
    · rw [← e] at parked; cases parked
    · next ne => rw [← e, state] at parked; exact ne (CmdState.parked.inj parked).1
  | _ => rw [state] at e; rw [← e, state] at parked; cases parked

/-- The first element that two conditions select is the first that the one selects, where that meets the other. -/
theorem find?_and_of_find? {α : Type} {p q : α → Bool} {l : List α} {a : α} (found : l.find? p = some a) (h : q a = true) :
    (l.find? fun x => p x && q x) = some a := by
  induction l with
  | nil => cases found
  | cons b l ih =>
    cases here : p b with
    | true =>
      rw [List.find?_cons_of_pos here] at found
      cases found
      exact List.find?_cons_of_pos (by rw [here, h]; rfl)
    | false =>
      rw [List.find?_cons_of_neg (by rw [here]; exact Bool.false_ne_true)] at found
      rw [List.find?_cons_of_neg (by rw [here]; exact Bool.false_ne_true)]
      exact ih found

theorem pageResponse_happens {s : State} {group : Nat} {perm : BitVec 2} {r : PageReq}
    (found : (s.pageReqs.find? fun r => r.group == group && r.issued) = some r) (current : r.gen = s.gen r.fn)
    (running : (s.fn r.fn).halted = false) :
    Happens (.pageRequestGroupResponse group (.success perm)) s fun s' => s'.hostPermOf r.fn r.page = perm ∧
      (∀ q ∈ s'.pageReqs, q.group ≠ group) ∧ (∀ c ∈ s'.cmds, ∀ va, c.state ≠ .parked group va) ∧
      ∀ h ∈ s.bms, s.heldOf h.id = some h → h.holder = .page group → s'.readied h.id s.cycle := by
  obtain ⟨pageReqs, issued, groups⟩ := State.issuePage_eq { s with pageReqs := s.pageReqs.filter fun q => q.group != group } r.fn
  have answered : exec (.pageRequestGroupResponse group (.success perm)) s =
      .next (((((s.bms.filter fun h => h.holder == .page group).foldl (fun s h => s.release h.id false)
        (State.setPerm { s with pageReqs } r.fn r.page perm))).unpark group).pageCalls group false) := by
    change execPageRequestGroupResponse group (.success perm) s = _
    unfold execPageRequestGroupResponse
    rw [find?_and_of_find? (q := fun r => !(s.fn r.fn).halted) found (by rw [running]; rfl)]
    dsimp only
    refine (if_neg (not_not.2 current)).trans ?_
    rw [issued]
    rfl
  obtain ⟨bms, cores, e⟩ := (State.setPerm { s with pageReqs } r.fn r.page perm).releases_eq (s.bms.filter fun h => h.holder == .page group)
  refine ⟨_, answered, ?_, ?_, fun c hc va => State.not_parked_of_unpark hc va, fun h hin held page => ?_⟩
  · rw [e]
    exact (State.hostPermOf_setPerm { s with pageReqs } r.fn r.page perm r.fn r.page).trans (if_pos ⟨rfl, rfl⟩)
  · rw [e]
    intro q hq
    obtain ⟨r, hr, same⟩ := groups q hq
    rw [← same]
    simpa using (List.mem_filter.1 hr).2
  · exact State.readied_of_releases (fill := fun s _ => s) (fun _ _ => ⟨rfl, rfl⟩) _ (State.setPerm { s with pageReqs } r.fn r.page perm) h.id
      ⟨h, hin, rfl⟩ (Or.inl (List.mem_map_of_mem (List.mem_filter.2 ⟨hin, by rw [page]; exact beq_self_eq_true _⟩)))

/-- A function whose requests are held takes no answer of the host (log 99). -/
theorem pageResponse_of_halted {s : State} {group fn : Nat} (resp : PageResponse) (halted : (s.fn fn).halted = true)
    (ours : ∀ r ∈ s.pageReqs, r.group = group → r.fn = fn) : exec (.pageRequestGroupResponse group resp) s = .next s := by
  change execPageRequestGroupResponse group resp s = _
  unfold execPageRequestGroupResponse
  rw [List.find?_eq_none.2]
  intro r hr hit
  simp only [Bool.and_eq_true, beq_iff_eq, Bool.not_eq_true'] at hit
  rw [ours r hr hit.1.1, halted] at hit
  exact Bool.noConfusion hit.2

/-! ### ATS_INVALIDATE_REQUEST and PRI_ENABLE_WRITE (R210, R211) -/

theorem atsInvalidate_of_halted {s : State} {fn : Nat} (page count : Nat) (perm : BitVec 2) (halted : (s.fn fn).halted = true) :
    exec (.atsInvalidateRequest fn page count perm) s = .next s := by
  change execAtsInvalidateRequest fn page count perm s = _
  unfold execAtsInvalidateRequest
  exact State.event_disabled (by rw [halted]; rfl)

theorem atsInvalidate_happens {s : State} {fn : Nat} (page count : Nat) (perm : BitVec 2) (running : (s.fn fn).halted = false) :
    Happens (.atsInvalidateRequest fn page count perm) s fun s' =>
      (∀ e ∈ s'.atc, ¬ (e.fn = fn ∧ page ≤ e.page ∧ e.page < page + count)) ∧ s'.mem = s.mem ∧
      (s.hostOps = [] → (s'.fn fn).invalsDone = (s.fn fn).invalsDone + 1) ∧
      ∀ f q, s'.hostPermOf f q = if f = fn ∧ page ≤ q ∧ q < page + count then perm else s.hostPermOf f q := by
  change ∃ s', execAtsInvalidateRequest fn page count perm s = .next s' ∧ _
  unfold execAtsInvalidateRequest
  refine State.event_happens_named (by rw [running]; rfl) fun u hu => ?_
  extract_lets open' s₁ s₂ at hu
  obtain ⟨hostPerm, e⟩ := s₂.setPerms_eq fn page count perm
  have perms := s₂.hostPermOf_setPerms fn page count perm
  rw [e] at hu perms
  subst hu
  refine ⟨fun x hx => ?_, rfl, fun none => ?_, perms⟩
  · have kept := (List.mem_filter.1 hx).2
    simp only [Bool.not_eq_true', Bool.and_eq_false_iff, beq_eq_false_iff_ne, decide_eq_false_iff_not] at kept
    tauto
  · have empty : open' = [] := by
      unfold open'
      rw [none]
      rfl
    have answered : s₁.fn fn = _ := State.fn_updFn_self ..
    change (s₁.fn fn).invalsDone = _
    rw [answered, empty]
    rfl

theorem priEnableWrite_happens (s : State) (fn : Nat) : Happens (.priEnableWrite fn) s fun s' =>
    s'.fn fn = { s.fn fn with priOff := false } ∧ (∀ g, g ≠ fn → s'.fn g = s.fn g) ∧ s'.mem = s.mem :=
  ⟨_, rfl, State.fn_updFn_self .., fun _ h => State.fn_updFn_ne _ _ h, rfl⟩

end Sys2Proof.Machine
end

section
/-! O53: what happens beside a core, each event by its own lemmas. -/

namespace Sys2Proof.Machine

/-- Settles O53: each event of a unit does to memory, caches, bookmarks and cores what its clause says. -/
theorem unitEvents : Obligations.UnitEvents := by
  unfold Obligations.UnitEvents
  refine ⟨fun s k e rest cells queue unsent current present op direct => postedStoreAccept_happens queue unsent current present op direct,
    fun s k mode drained still due => coreDrainComplete_happens mode drained still due,
    fun s id va size h sg d held far dest ours present => ⟨fun cause fails => ?_,
      fun first last => ⟨fun ps places direct => ?_, fun f places => ?_⟩⟩,
    fun s id va h held miss hit => ⟨fun l leaf => tlbWalkComplete_answered held miss hit leaf,
      fun cause leaf => tlbWalkComplete_answered_fault held miss hit leaf⟩,
    fun s id va h held miss hit => ⟨fun none => tlbWalkComplete_waits held miss hit rfl none, fun w found =>
      ⟨fun l walk => tlbWalkComplete_found held miss hit rfl found walk,
        fun cause walk alone => tlbWalkComplete_fails held miss hit rfl found walk alone⟩⟩,
    fun s s1 k line h data fetchers held absent whole few room read => fetchLineFill_happens fetchers held absent whole few room read,
    fun s s1 k j d v _ free mode bound tagged few room more stored read =>
      streamStripArrival_happens free rfl rfl mode bound tagged few room more stored read,
    fun s w agent => illegalInsnWord_traps w agent,
    fun s agent => ⟨fun f raised => instructionFetch_raises agent raised,
      fun line r miss drained out room => instructionFetch_misses agent miss drained out room⟩,
    fun s group perm r found current running => pageResponse_happens found current running,
    fun s group resp fn page count perm halted => ⟨atsInvalidate_of_halted page count perm halted, pageResponse_of_halted resp halted⟩,
    fun s fn page count perm running => atsInvalidate_happens page count perm running, priEnableWrite_happens⟩
  · exact farLoad_stops held far ours (State.engRead_fails present fails)
  · exact farLoad_happens held far dest ours present first last places direct
  · exact farLoad_stops held far ours (State.engRead_refused present first last places)

end Sys2Proof.Machine
end

section
/-! The trees of the reductions, and the integer reductions (O22, 03 R108, 05 R176). -/

namespace Sys2Proof.Machine

/-! ### The tree over a power of two of lanes (R108) -/

section

variable {α : Type} {op : α → α → α} {P : List α → α → Prop}

/-- What a node of the tree stands for: the values of its active lanes, of which P holds, or none. -/
def Summary (P : List α → α → Prop) (seg : List α) (o : Option α) : Prop := o.elim (seg = []) (P seg)

/-- Two lanes or nodes side by side as `treeLevel` joins them. -/
def treeNode (op : α → α → α) : Option α → Option α → Option α
  | some a, some b => some (op a b)
  | some a, none => some a
  | none, b => b

theorem treeLevel_cons_cons (a b : Option α) (r : List (Option α)) :
    treeLevel op (a :: b :: r) = treeNode op a b :: treeLevel op r := by
  cases a
  · rw [treeLevel]
    rfl
  · cases b <;> rw [treeLevel] <;> rfl

theorem treeLevel_one (a : Option α) : treeLevel op [a] = [a] := by
  cases a <;> rw [treeLevel]

theorem treeLevel_length : ∀ l : List (Option α), (treeLevel op l).length = (l.length + 1) / 2
  | [] => by rw [treeLevel]; simp
  | [a] => by rw [treeLevel_one]; simp
  | a :: b :: r => by
    rw [treeLevel_cons_cons, List.length_cons, treeLevel_length r]
    simp only [List.length_cons]
    omega

/-- Node j of a level joins nodes 2j and 2j + 1 of the level below. -/
theorem treeLevel_getElem? : ∀ (l : List (Option α)) (j : Nat), 2 * j + 1 < l.length →
    (treeLevel op l)[j]?.join = treeNode op (l[2 * j]?.join) (l[2 * j + 1]?.join)
  | [], _, h => absurd h (Nat.not_lt_zero _)
  | [_], j, h => absurd h (by simp)
  | a :: b :: r, 0, _ => by
    rw [treeLevel_cons_cons]
    simp
  | a :: b :: r, j + 1, h => by
    rw [treeLevel_cons_cons, List.getElem?_cons_succ, treeLevel_getElem? r j (by simp only [List.length_cons] at h; omega)]
    rfl

/-- What holds of single lanes and is kept by a node holds of every node of the level above. -/
theorem Summary.level (node : ∀ l r a b, P l a → P r b → P (l ++ r) (op a b)) :
    ∀ {segs : List (List α)} {l : List (Option α)}, List.Forall₂ (Summary P) segs l →
      ∃ segs', segs'.flatten = segs.flatten ∧ List.Forall₂ (Summary P) segs' (treeLevel op l)
  | _, _, .nil => ⟨[], rfl, by rw [treeLevel]; exact .nil⟩
  | _, _, .cons h .nil => ⟨_, rfl, by rw [treeLevel_one]; exact .cons h .nil⟩
  | x :: y :: segs, a :: b :: l, .cons ha (.cons hb rest) => by
    obtain ⟨segs', same, level⟩ := Summary.level node rest
    refine ⟨(x ++ y) :: segs', by simp [same], ?_⟩
    rw [treeLevel_cons_cons]
    refine .cons ?_ level
    cases a with
    | none =>
      obtain rfl : x = [] := ha
      exact hb
    | some a =>
      cases b with
      | none =>
        obtain rfl : y = [] := hb
        rw [List.append_nil]
        exact ha
      | some b => exact node _ _ _ _ ha hb

theorem Summary.root (node : ∀ l r a b, P l a → P r b → P (l ++ r) (op a b)) : ∀ (n : Nat) {segs : List (List α)} {l : List (Option α)},
    l.length = 2 ^ n → List.Forall₂ (Summary P) segs l → Summary P segs.flatten (treeRoot op n l)
  | 0, _, _, len, h => by
    obtain ⟨o, rfl⟩ := List.length_eq_one_iff.1 len
    obtain _ | ⟨h, ⟨⟩⟩ := h
    simpa [treeRoot] using h
  | n + 1, _, l, len, h => by
    obtain ⟨segs', same, level⟩ := Summary.level node h
    rw [← same, treeRoot]
    exact Summary.root node n (by rw [treeLevel_length, len, Nat.pow_succ]; omega) level

/-- What holds of single lanes and is kept by a node holds of the root and the active lanes (R108). -/
theorem treeRoot_summary (single : ∀ a, P [a] a) (node : ∀ l r a b, P l a → P r b → P (l ++ r) (op a b)) {n : Nat}
    {l : List (Option α)} (len : l.length = 2 ^ n) : Summary P l.reduceOption (treeRoot op n l) := by
  have lanes : List.Forall₂ (Summary P) (l.map Option.toList) l := by
    rw [List.forall₂_map_left_iff]
    refine List.forall₂_same.2 fun o _ => ?_
    cases o
    · rfl
    · exact single _
  have active : (l.map Option.toList).flatten = l.reduceOption := by
    induction l with
    | nil => rfl
    | cons o l => cases o <;> simp [List.reduceOption, List.flatten_eq_flatMap, List.flatMap_map, List.filterMap_eq_flatMap_toList]
  rw [← active]
  exact Summary.root node n len lanes

end

/-- The lanes of a register are a power of two. -/
theorem lanes_pow (k : Nat) (h : k ≤ 9) : 512 / 2 ^ k = 2 ^ treeDepth (512 / 2 ^ k) := by
  interval_cases k <;> decide

/-! ### Lanes of integers (R155, R176) -/

theorem etBits_pow (et : IntEt) : etBits et = 2 ^ Nat.log2 (etBits et) ∧ Nat.log2 (etBits et) ≤ 9 := by
  cases et <;> decide

/-- The value of element j of an integer type. -/
def intLane (et : IntEt) (v : Vec) (j : Nat) : Int :=
  if etSigned et then (BitVec.ofNat (etBits et) (elemAt (etBits et) v j)).toInt else (elemAt (etBits et) v j : Int)

theorem etVal_elemAt (et : IntEt) (v : Vec) (j : Nat) : etVal et (elemAt (etBits et) v j) = intLane et v j := by
  rw [etVal, intLane, sextNat_eq, Nat.mod_eq_of_lt (elemAt_lt ..)]

theorem activeLanes_length (t : Strand) (et : IntEt) (a : VReg) (pg : PReg) :
    (activeLanes t et a pg).length = 2 ^ treeDepth (activeLanes t et a pg).length := by
  obtain ⟨pow, le⟩ := etBits_pow et
  rw [activeLanes, List.length_map, List.length_range, pow]
  exact lanes_pow _ le

/-- The values of the active lanes. -/
theorem mem_activeLanes {t : Strand} {et : IntEt} {a : VReg} {pg : PReg} {x : Int} : x ∈ (activeLanes t et a pg).reduceOption ↔
    ∃ j, j < 512 / etBits et ∧ laneActive t pg (etBits et) j = true ∧ intLane et (t.getV a) j = x := by
  simp only [List.reduceOption_mem_iff, activeLanes, List.mem_map, List.mem_range, Option.ite_none_right_eq_some, Option.some.injEq,
    etVal_elemAt]

theorem activeLanes_sum (t : Strand) (et : IntEt) (a : VReg) (pg : PReg) : (activeLanes t et a pg).reduceOption.sum =
    ((List.range (512 / etBits et)).map fun j => if laneActive t pg (etBits et) j then intLane et (t.getV a) j else 0).sum := by
  rw [activeLanes]
  generalize List.range _ = l
  induction l with
  | nil => rfl
  | cons j l ih =>
    simp only [List.map_cons, List.sum_cons, etVal_elemAt] at ih ⊢
    rw [← ih]
    split <;> simp [List.reduceOption]

/-! ### Reductions of integers -/

/-- Where an op answers one of its operands that r relates to both, the root is an active lane that r relates to all of them. -/
theorem treeRoot_extreme {α : Type} {op : α → α → α} {r : α → α → Prop} (refl : ∀ a, r a a) (trans : ∀ a b c, r a b → r b c → r a c)
    (picks : ∀ a b, (op a b = a ∨ op a b = b) ∧ r (op a b) a ∧ r (op a b) b) {n : Nat} {l : List (Option α)} (len : l.length = 2 ^ n) :
    Summary (fun seg a => a ∈ seg ∧ ∀ x ∈ seg, r a x) l.reduceOption (treeRoot op n l) := by
  refine treeRoot_summary (fun a => ⟨List.mem_singleton_self a, fun x hx => List.mem_singleton.1 hx ▸ refl a⟩) ?_ len
  rintro left right a b ⟨ha, le_a⟩ ⟨hb, le_b⟩
  obtain ⟨one, to_a, to_b⟩ := picks a b
  refine ⟨?_, fun x hx => ?_⟩
  · rw [List.mem_append]
    exact one.imp (fun (h : op a b = a) => h.symm ▸ ha) fun (h : op a b = b) => h.symm ▸ hb
  · exact (List.mem_append.1 hx).elim (fun h => trans _ _ _ to_a (le_a x h)) fun h => trans _ _ _ to_b (le_b x h)

theorem treeRoot_sum {n : Nat} {l : List (Option Int)} (len : l.length = 2 ^ n) :
    (treeRoot (· + ·) n l).getD 0 = l.reduceOption.sum := by
  have summary : Summary (fun seg (a : Int) => a = seg.sum) l.reduceOption (treeRoot (· + ·) n l) :=
    treeRoot_summary (fun a => by simp) (fun left right a b ha hb => by rw [List.sum_append, ha, hb]) len
  cases root : treeRoot (· + ·) n l with
  | none =>
    rw [root] at summary
    have empty : l.reduceOption = [] := summary
    rw [empty]
    rfl
  | some a =>
    rw [root] at summary
    exact summary

/-- A write of a vector register alone, by a strand without stream registers (R55, R161). -/
theorem State.vecWrite_completes {s : State} {i : Instr} {srcs : List VReg} {accepts : Overrides → Bool}
    {f : Strand → Raises (Strand → Strand)} {d : VReg} {r : Vec} (agent : s.agent = .strand) (unbound : s.unbound)
    (prefixed : stPP s.strand.status = true → accepts (overridesOf (stPrefix s.strand.status)) = true)
    (h : f s.strand = .ok fun u => u.setV d r) :
    s.runVec i srcs [d] accepts f = .next (s.past { s.strand.setV d r with status := setPP s.strand.status false }) :=
  State.runVec_of_unbound (g := fun u => u.setV d r) agent unbound prefixed h

section

variable {s : State} (plain : s.plain) (unbound : s.unbound)
include plain unbound

/-- A reduction writes the root of its tree to bits 63:0, and zero above (R176). -/
theorem vecReduce_completes (i : Instr) (et : IntEt) (d a : VReg) (pg : PReg) (ident : Int) (op : Int → Int → Int) :
    s.vecReduce i et d a pg ident op = .next (s.past (s.strand.setV d ((BitVec.ofInt 64
      ((treeRoot op (treeDepth (activeLanes s.strand et a pg).length) (activeLanes s.strand et a pg)).getD ident)).setWidth 512))) := by
  obtain ⟨agent, clear⟩ := plain
  have write := State.vecWrite_completes (i := i) (srcs := [a]) (accepts := noPrefix) (d := d) agent unbound
    (fun pending => absurd (clear.symm.trans pending) Bool.false_ne_true) (f := fun t =>
      let l := activeLanes t et a pg
      let r := (treeRoot op (treeDepth l.length) l).getD ident
      .ok fun u => u.setV d ((BitVec.ofInt 64 r).setWidth 512)) rfl
  rw [setPP_of_clear clear] at write
  exact write

/-- A reduction to an extreme writes an active element that r relates to all of them, the identity where none is active (R108). -/
theorem vecReduce_extreme (i : Instr) (et : IntEt) (d a : VReg) (pg : PReg) (ident : Int) {op : Int → Int → Int} {r : Int → Int → Prop}
    (refl : ∀ a, r a a) (trans : ∀ a b c, r a b → r b c → r a c) (picks : ∀ a b, (op a b = a ∨ op a b = b) ∧ r (op a b) a ∧ r (op a b) b) :
    ∃ x, s.vecReduce i et d a pg ident op = .next (s.past (s.strand.setV d ((BitVec.ofInt 64 x).setWidth 512))) ∧
      (∀ j, j < 512 / etBits et → laneActive s.strand pg (etBits et) j = true → r x (intLane et (s.strand.getV a) j)) ∧
      ((∃ j, j < 512 / etBits et ∧ laneActive s.strand pg (etBits et) j = true ∧ x = intLane et (s.strand.getV a) j) ∨
        ((∀ j, j < 512 / etBits et → ¬ laneActive s.strand pg (etBits et) j = true) ∧ x = ident)) := by
  refine ⟨_, vecReduce_completes plain unbound i et d a pg ident op, ?_⟩
  have root := treeRoot_extreme refl trans picks (activeLanes_length s.strand et a pg)
  generalize treeRoot op _ _ = o at root
  cases o with
  | none =>
    have idle (j : Nat) (hj : j < 512 / etBits et) (active : laneActive s.strand pg (etBits et) j = true) : False := by
      have listed := mem_activeLanes (x := intLane et (s.strand.getV a) j).2 ⟨j, hj, active, rfl⟩
      rw [show (activeLanes s.strand et a pg).reduceOption = [] from root] at listed
      exact List.not_mem_nil listed
    exact ⟨fun j hj active => (idle j hj active).elim, .inr ⟨idle, rfl⟩⟩
  | some x =>
    obtain ⟨mem, extreme⟩ := root
    obtain ⟨j, hj, active, eq⟩ := mem_activeLanes.1 mem
    exact ⟨fun j hj active => extreme _ (mem_activeLanes.2 ⟨j, hj, active, rfl⟩), .inl ⟨j, hj, active, eq.symm⟩⟩

end

/-- Settles O22: the root of the tree is the sum, or an active element that bounds the others. -/
theorem integerReductions : Obligations.IntegerReductions := by
  intro s et d a pg plain unbound t w n act val writes none
  have lane (j : Nat) : laneActive t pg w j = true ↔ act j := laneActive_iff ..
  refine ⟨?_, ?_, ?_⟩
  · have sum := vecReduce_completes plain unbound (.vradd et d a pg) et d a pg 0 (· + ·)
    rw [treeRoot_sum (activeLanes_length ..), activeLanes_sum] at sum
    exact sum
  · simp only [← lane, act, none]
    refine vecReduce_extreme plain unbound (.vrmin et d a pg) et d a pg _ (r := (· ≤ ·)) le_refl (fun _ _ _ => le_trans) fun x y => ?_
    split <;> omega
  · simp only [← lane, act, none]
    refine vecReduce_extreme plain unbound (.vrmax et d a pg) et d a pg _ (r := (· ≥ ·)) le_refl (fun _ _ _ => ge_trans) fun x y => ?_
    split <;> omega

end Sys2Proof.Machine
end

section
/-! Rounding to a grid (03 R89): what `roundAt` answers is the integer that the exact value rounds to. -/

namespace Sys2Proof.Machine

/-! ### Integers that a value rounds to -/

theorem roundsTo_le {mode : Mode} {x : ℚ} {k b : ℤ} (h : roundsTo mode x k) (le : x ≤ b) : k ≤ b := by
  cases mode with
  | rne =>
    obtain ⟨near, -⟩ := h
    have upper := (abs_le.1 near).1
    have : (k : ℚ) < b + 1 := by linarith
    exact Int.lt_add_one_iff.1 (by exact_mod_cast this)
  | rtz =>
    simp only [roundsTo] at h
    subst h
    split
    · exact_mod_cast (Int.floor_le x).trans le
    · exact Int.ceil_le.2 le
  | rdn =>
    obtain rfl : k = ⌊x⌋ := h
    exact_mod_cast (Int.floor_le x).trans le
  | rup =>
    obtain rfl : k = ⌈x⌉ := h
    exact Int.ceil_le.2 le

theorem le_roundsTo {mode : Mode} {x : ℚ} {k a : ℤ} (h : roundsTo mode x k) (le : a ≤ x) : a ≤ k := by
  cases mode with
  | rne =>
    obtain ⟨near, -⟩ := h
    have lower := (abs_le.1 near).2
    have : (a : ℚ) < k + 1 := by linarith
    exact Int.lt_add_one_iff.1 (by exact_mod_cast this)
  | rtz =>
    simp only [roundsTo] at h
    subst h
    split
    · exact Int.le_floor.2 le
    · exact_mod_cast le.trans (Int.le_ceil x)
  | rdn =>
    obtain rfl : k = ⌊x⌋ := h
    exact Int.le_floor.2 le
  | rup =>
    obtain rfl : k = ⌈x⌉ := h
    exact_mod_cast le.trans (Int.le_ceil x)

theorem roundsTo_int (mode : Mode) (k : ℤ) : roundsTo mode (k : ℚ) k := by
  cases mode <;> simp [roundsTo]

/-- Integers apart are at least a unit apart in their distances. -/
theorem one_le_distances {x : ℚ} {j k : ℤ} (ne : j ≠ k) : 1 ≤ |x - j| + |x - k| := by
  have apart : (1 : ℚ) ≤ |(j : ℚ) - k| := by exact_mod_cast Int.one_le_abs (sub_ne_zero.2 ne)
  calc (1 : ℚ) ≤ |(j : ℚ) - k| := apart
    _ = |(x - k) - (x - j)| := by ring_nf
    _ ≤ |x - k| + |x - j| := abs_sub _ _
    _ = |x - j| + |x - k| := add_comm _ _

/-- A value rounds to one integer only. -/
theorem roundsTo_unique {mode : Mode} {x : ℚ} {j k : ℤ} (hj : roundsTo mode x j) (hk : roundsTo mode x k) : j = k := by
  cases mode with
  | rne =>
    by_contra ne
    obtain ⟨nearJ, evenJ⟩ := hj
    obtain ⟨nearK, evenK⟩ := hk
    have sum := one_le_distances (x := x) ne
    have oddJ := evenJ (by linarith)
    have oddK := evenK (by linarith)
    have close : |((j - k : ℤ) : ℚ)| < 2 := by
      have triangle := abs_sub (x - k) (x - j)
      rw [sub_sub_sub_cancel_left] at triangle
      push_cast
      linarith
    have small : |j - k| < 2 := by exact_mod_cast close
    rw [abs_lt] at small
    omega
  | rtz => exact hj.trans hk.symm
  | rdn => exact hj.trans hk.symm
  | rup => exact hj.trans hk.symm

/-! ### Rounding a magnitude -/

/-- An integer with a sign. -/
def signedInt (neg : Bool) (c : Nat) : ℤ := if neg then -(c : ℤ) else c

/-- A magnitude with a sign. -/
def signedRat (neg : Bool) (y : ℚ) : ℚ := if neg then -y else y

theorem signedRat_cast (neg : Bool) (c : Nat) : signedRat neg (c : ℚ) = (signedInt neg c : ℚ) := by
  unfold signedRat signedInt
  split <;> push_cast <;> rfl

theorem signedRat_mul (neg : Bool) (y z : ℚ) : signedRat neg y * z = signedRat neg (y * z) := by
  unfold signedRat
  split
  · rw [neg_mul]
  · rfl

theorem signedRat_div (neg : Bool) (y z : ℚ) : signedRat neg y / z = signedRat neg (y / z) := by
  rw [div_eq_mul_inv, signedRat_mul, div_eq_mul_inv]

theorem signedRat_inj {neg : Bool} {y z : ℚ} (h : signedRat neg y = signedRat neg z) : y = z := by
  unfold signedRat at h
  split at h
  · exact neg_injective h
  · exact h

theorem abs_signedRat (neg : Bool) {y : ℚ} (h : 0 ≤ y) : |signedRat neg y| = y := by
  unfold signedRat
  split
  · rw [abs_neg, abs_of_nonneg h]
  · exact abs_of_nonneg h

theorem natAbs_signedInt (neg : Bool) (c : Nat) : (signedInt neg c).natAbs = c := by
  unfold signedInt
  split <;> simp

theorem abs_signedInt (neg : Bool) (c : Nat) : |((signedInt neg c : ℤ) : ℚ)| = c := by
  rw [← signedRat_cast, abs_signedRat neg (Nat.cast_nonneg c)]

/-- Whether a magnitude of quo whole units is rounded up, with whether it is below, at or above the half and whether it is exact. -/
def roundsUp (mode : Mode) (neg : Bool) (quo : Nat) (half : Ordering) (inexact : Bool) : Bool :=
  match mode with
  | .rne => half == .gt || half == .eq && quo % 2 == 1
  | .rtz => false
  | .rdn => neg && inexact
  | .rup => !neg && inexact

theorem roundsTo_rne_signed (neg : Bool) (y : ℚ) (c : Nat) (near : |y - c| ≤ 1 / 2) (even : |y - c| = 1 / 2 → c % 2 = 0) :
    roundsTo .rne (signedRat neg y) (signedInt neg c) := by
  have distance : |signedRat neg y - (signedInt neg c : ℚ)| = |y - c| := by
    rw [← signedRat_cast]
    unfold signedRat
    split
    · rw [← abs_neg]
      congr 1
      ring
    · rfl
  unfold roundsTo
  rw [distance]
  refine ⟨near, fun half => ?_⟩
  have := even half
  unfold signedInt
  split <;> omega

section

variable {y : ℚ} {quo : Nat} (lower : (quo : ℚ) ≤ y) (upper : y < quo + 1)
include lower upper

theorem floor_of_frac : ⌊y⌋ = quo := Int.floor_eq_iff.2 ⟨by exact_mod_cast lower, by exact_mod_cast upper⟩

theorem ceil_of_frac {inexact : Bool} (h : inexact = true ↔ (quo : ℚ) ≠ y) : ⌈y⌉ = ((if inexact then quo + 1 else quo : Nat) : ℤ) := by
  cases inexact
  · have same : (quo : ℚ) = y := by simpa using h
    rw [← same]
    simp
  · have below : (quo : ℚ) < y := lt_of_le_of_ne lower (h.1 rfl)
    refine Int.ceil_eq_iff.2 ⟨?_, ?_⟩
    · simpa using below
    · simpa using upper.le

/-- The nearer neighbour, of two as near the even one (R89). -/
theorem nearest_of_frac (neg inexact : Bool) {c : Nat}
    (h : c = if roundsUp .rne neg quo (cmp (y - quo) (1 / 2)) inexact then quo + 1 else quo) :
    |y - c| ≤ 1 / 2 ∧ (|y - c| = 1 / 2 → c % 2 = 0) := by
  have down : |y - quo| = y - quo := abs_of_nonneg (by linarith)
  have up : |y - ((quo + 1 : Nat) : ℚ)| = 1 - (y - quo) := by
    push_cast
    rw [abs_of_neg (by linarith)]
    ring
  rcases lt_trichotomy (y - quo) (1 / 2) with below | tie | above
  · obtain rfl : c = quo := by rw [h, (cmp_eq_lt_iff _ _).2 below]; rfl
    rw [down]
    exact ⟨below.le, fun half => absurd half below.ne⟩
  · rw [(cmp_eq_eq_iff _ _).2 tie] at h
    rcases Nat.mod_two_eq_zero_or_one quo with even | odd
    · obtain rfl : c = quo := by simpa [roundsUp, even] using h
      exact ⟨by rw [down]; exact tie.le, fun _ => even⟩
    · obtain rfl : c = quo + 1 := by simpa [roundsUp, odd] using h
      rw [up]
      exact ⟨by linarith, fun _ => by omega⟩
  · obtain rfl : c = quo + 1 := by rw [h, (cmp_eq_gt_iff _ _).2 above]; rfl
    rw [up]
    exact ⟨by linarith, fun half => absurd half (by linarith)⟩

/-- Rounding up or not by the fraction left is what the modes ask (R89). -/
theorem roundsTo_of_frac (mode : Mode) (neg : Bool) {half : Ordering} {inexact : Bool} (frac : mode = .rne → half = cmp (y - quo) (1 / 2))
    (exact' : inexact = true ↔ (quo : ℚ) ≠ y) :
    roundsTo mode (signedRat neg y) (signedInt neg (if roundsUp mode neg quo half inexact then quo + 1 else quo)) := by
  have floor := floor_of_frac lower upper
  have ceil := ceil_of_frac lower upper exact'
  have nonneg : 0 ≤ y := (Nat.cast_nonneg quo).trans lower
  cases mode with
  | rne =>
    rw [frac rfl]
    obtain ⟨near, even⟩ := nearest_of_frac lower upper neg inexact rfl
    exact roundsTo_rne_signed neg y _ near even
  | rtz =>
    cases neg
    · simp [roundsTo, signedRat, signedInt, roundsUp, nonneg, floor]
    · rcases nonneg.eq_or_lt with zero | pos
      · have : quo = 0 := by simpa [← zero] using floor.symm
        simp [roundsTo, signedRat, signedInt, roundsUp, ← zero, this]
      · simp [roundsTo, signedRat, signedInt, roundsUp, pos, Int.ceil_neg, floor]
  | rdn =>
    cases neg
    · exact floor.symm
    · simp [roundsTo, signedRat, signedInt, Int.floor_neg, ceil, roundsUp]
  | rup =>
    cases neg
    · simp [roundsTo, signedRat, signedInt, ceil, roundsUp]
    · simp [roundsTo, signedRat, signedInt, Int.ceil_neg, floor, roundsUp]

omit lower in
/-- Rounding reaches the value only where nothing is left of it. -/
theorem rounded_eq_iff (mode : Mode) (neg : Bool) {half : Ordering} {inexact : Bool} (frac : half = cmp (y - quo) (1 / 2))
    (exact' : inexact = true ↔ (quo : ℚ) ≠ y) :
    ((if roundsUp mode neg quo half inexact then quo + 1 else quo : Nat) : ℚ) = y ↔ (quo : ℚ) = y := by
  cases up : roundsUp mode neg quo half inexact
  · rw [if_neg Bool.false_ne_true]
  · rw [if_pos rfl]
    refine ⟨fun h => ?_, fun same => ?_⟩
    · push_cast at h
      exact absurd h upper.ne'
    · have exactly : inexact = false := by simpa [same] using exact'
      have lt : half = .lt := by
        rw [frac, same, sub_self]
        exact (cmp_eq_lt_iff _ _).2 (by norm_num)
      rw [exactly, lt] at up
      cases mode <;> simp [roundsUp] at up

end

/-! ### What `roundAt` answers -/

theorem Num.rat_eq_signedRat (n : Num) : n.rat = signedRat n.neg ((n.m : ℚ) * (2 : ℚ) ^ n.e) := by
  unfold Num.rat signedRat
  split <;> ring

/-- The magnitude that a finite value stands for lies in its unit. -/
theorem Num.standsFor_magnitude {n : Num} {x : ℚ} (h : n.standsFor x) : x = signedRat n.neg |x| ∧
    (n.st = false → |x| = n.m * (2 : ℚ) ^ n.e) ∧ (n.st = true → (n.m : ℚ) * (2 : ℚ) ^ n.e < |x| ∧ |x| < ((n.m : ℚ) + 1) * (2 : ℚ) ^ n.e) := by
  unfold Num.standsFor at h
  cases sticky : n.st
  · rw [sticky, if_neg Bool.false_ne_true, Num.rat_eq_signedRat] at h
    have magnitude : |x| = n.m * (2 : ℚ) ^ n.e := by rw [← h, abs_signedRat _ (by positivity)]
    refine ⟨by rw [magnitude, h], fun _ => magnitude, fun absurd' => absurd absurd' Bool.false_ne_true⟩
  · rw [sticky, if_pos rfl] at h
    obtain ⟨sign, above, below⟩ := h
    refine ⟨?_, fun absurd' => absurd absurd'.symm Bool.false_ne_true, fun _ => ⟨above, below⟩⟩
    unfold signedRat
    split at sign
    next neg => rw [if_pos neg, abs_of_neg sign, neg_neg]
    next pos => rw [if_neg pos, abs_of_pos sign]

/-- A value as a number of units no larger than its own. -/
theorem scaled_eq (m : Nat) {e q : ℤ} (h : q ≤ e) : (m : ℚ) * (2 : ℚ) ^ e / (2 : ℚ) ^ q = ((m * 2 ^ (e - q).toNat : Nat) : ℚ) := by
  push_cast
  rw [mul_div_assoc, ← zpow_sub₀ two_ne_zero, ← zpow_natCast, Int.toNat_of_nonneg (by omega)]

/-- How what is left of a magnitude after whole units of d compares with half a unit. -/
def Num.half (n : Num) (d : Nat) : Ordering := if 2 * (n.m % d) = d ∧ n.st = true then .gt else cmp (2 * (n.m % d)) d

theorem roundAt_of_lt (mode : Mode) {n : Num} {q : ℤ} {d : Nat} (h : n.e < q) (hd : d = 2 ^ (q - n.e).toNat) :
    roundAt mode n q = (if roundsUp mode n.neg (n.m / d) (n.half d) (n.m % d != 0 || n.st) then n.m / d + 1 else n.m / d,
      n.m % d != 0 || n.st) := by
  have nearest : (decide (d < 2 * (n.m % d)) || (2 * (n.m % d) == d && (n.st || n.m / d % 2 == 1))) =
      (n.half d == .gt || n.half d == .eq && n.m / d % 2 == 1) := by
    unfold Num.half
    rcases lt_trichotomy (2 * (n.m % d)) d with below | tie | above
    · simp [below.ne, (cmp_eq_lt_iff _ _).2 below, Nat.lt_asymm below]
    · cases n.st <;> simp [tie]
    · simp [above.ne', (cmp_eq_gt_iff _ _).2 above, above]
  subst hd
  unfold roundAt
  rw [if_neg (by omega)]
  dsimp only
  rw [nearest]
  cases mode <;> rfl

/-- The whole units of a magnitude, and what is left of it, by the quotient and the remainder of its count. -/
theorem magnitude_units {n : Num} {d : Nat} {X : ℚ} (even : ∃ k, d = 2 * k) (pos : 0 < d)
    (exact' : n.st = false → X = n.m) (sticky : n.st = true → (n.m : ℚ) < X ∧ X < (n.m : ℚ) + 1) :
    ((n.m / d : Nat) : ℚ) ≤ X / d ∧ X / d < (n.m / d : Nat) + 1 ∧ n.half d = cmp (X / d - (n.m / d : Nat)) (1 / 2) ∧
      ((n.m % d != 0 || n.st) = true ↔ ((n.m / d : Nat) : ℚ) ≠ X / d) := by
  obtain ⟨k, dk⟩ := even
  have dpos : (0 : ℚ) < d := by exact_mod_cast pos
  have split : (n.m : ℚ) = d * (n.m / d : Nat) + (n.m % d : Nat) := by exact_mod_cast (Nat.div_add_mod n.m d).symm
  have room : ((n.m % d : Nat) : ℚ) + 1 ≤ d := by exact_mod_cast Nat.mod_lt n.m pos
  have bounds : (n.m : ℚ) ≤ X ∧ X < n.m + 1 := by
    cases st : n.st
    · rw [exact' st]
      exact ⟨le_rfl, by linarith⟩
    · exact ⟨(sticky st).1.le, (sticky st).2⟩
  obtain ⟨low, high⟩ := bounds
  have left : X / d - (n.m / d : Nat) = ((n.m % d : Nat) + (X - n.m)) / d := by
    rw [split]
    field_simp
    ring
  refine ⟨?_, ?_, ?_, ?_⟩
  · rw [le_div_iff₀ dpos]
    linarith [Nat.cast_nonneg (α := ℚ) (n.m % d)]
  · rw [div_lt_iff₀ dpos]
    linarith
  · rw [left]
    unfold Num.half
    rcases lt_trichotomy (2 * (n.m % d)) d with below | tie | above
    · rw [if_neg fun h => below.ne h.1, (cmp_eq_lt_iff _ _).2 below, eq_comm, cmp_eq_lt_iff, div_lt_iff₀ dpos]
      have two : 2 * ((n.m % d : Nat) : ℚ) + 2 ≤ d := by exact_mod_cast (by omega : 2 * (n.m % d) + 2 ≤ d)
      linarith
    · have tie' : 2 * ((n.m % d : Nat) : ℚ) = d := by exact_mod_cast tie
      cases st : n.st
      · rw [if_neg (by simp), (cmp_eq_eq_iff _ _).2 tie, eq_comm, cmp_eq_eq_iff, exact' st, div_eq_iff dpos.ne']
        linarith
      · rw [if_pos ⟨tie, rfl⟩, eq_comm, cmp_eq_gt_iff, lt_div_iff₀ dpos]
        linarith [(sticky st).1]
    · rw [if_neg fun h => above.ne' h.1, (cmp_eq_gt_iff _ _).2 above, eq_comm, cmp_eq_gt_iff, lt_div_iff₀ dpos]
      have above' : (d : ℚ) < 2 * ((n.m % d : Nat) : ℚ) := by exact_mod_cast above
      linarith
  · rw [ne_comm (a := ((n.m / d : Nat) : ℚ)), ne_eq, ← sub_eq_zero (a := X / d), left, div_eq_zero_iff, or_iff_left dpos.ne', Bool.or_eq_true, bne_iff_ne]
    have nonneg : (0 : ℚ) ≤ (n.m % d : Nat) := Nat.cast_nonneg _
    cases st : n.st
    · rw [exact' st]
      simp
    · have strict := (sticky st).1
      simp only [or_true, true_iff]
      intro zero
      linarith

/-- `roundAt` answers the integer that the exact value rounds to, and whether they differ. -/
theorem roundAt_roundsTo (mode : Mode) {n : Num} {q : ℤ} {x : ℚ} (stands : n.standsFor x) (fine : n.st = true → n.e < q) :
    roundsTo mode (x / (2 : ℚ) ^ q) (signedInt n.neg (roundAt mode n q).1) ∧
      ((roundAt mode n q).2 = true ↔ (signedInt n.neg (roundAt mode n q).1 : ℚ) * (2 : ℚ) ^ q ≠ x) := by
  obtain ⟨sign, exact', sticky⟩ := Num.standsFor_magnitude stands
  have unit : (2 : ℚ) ^ q ≠ 0 := by positivity
  have scaled : x / (2 : ℚ) ^ q = signedRat n.neg (|x| / (2 : ℚ) ^ q) := by rw [← signedRat_div, ← sign]
  have differs (c : Nat) : (signedInt n.neg c : ℚ) * (2 : ℚ) ^ q ≠ x ↔ (c : ℚ) ≠ |x| / (2 : ℚ) ^ q := by
    rw [← signedRat_cast, ne_eq, ← eq_div_iff unit, scaled, ne_eq, not_iff_not]
    exact ⟨signedRat_inj, fun h => by rw [h]⟩
  rw [differs, scaled]
  by_cases le : q ≤ n.e
  · have st : n.st = false := by
      cases st : n.st
      · rfl
      · exact absurd (fine st) (by omega)
    have units := scaled_eq n.m le
    rw [← exact' st] at units
    have whole : roundAt mode n q = (n.m * 2 ^ (n.e - q).toNat, false) := by rw [roundAt, if_pos le, st]
    rw [whole, units]
    refine ⟨?_, by simp⟩
    rw [signedRat_cast]
    exact roundsTo_int mode _
  · have lt : n.e < q := by omega
    obtain ⟨k, hk⟩ : ∃ k, (q - n.e).toNat = k + 1 := Nat.exists_eq_succ_of_ne_zero (by omega)
    have unitq : (2 : ℚ) ^ q = (2 ^ (q - n.e).toNat : Nat) * (2 : ℚ) ^ n.e := by
      rw [Nat.cast_pow, Nat.cast_ofNat, ← zpow_natCast, ← zpow_add₀ two_ne_zero]
      congr 1
      omega
    have small : (0 : ℚ) < (2 : ℚ) ^ n.e := by positivity
    rw [roundAt_of_lt mode lt rfl, unitq, ← div_div, div_right_comm]
    obtain ⟨lower, upper, half, inexact⟩ := magnitude_units (n := n) (d := 2 ^ (q - n.e).toNat) (X := |x| / (2 : ℚ) ^ n.e)
      ⟨2 ^ k, by rw [hk, Nat.pow_succ, Nat.mul_comm]⟩ (Nat.two_pow_pos _)
      (fun st => by rw [exact' st, mul_div_cancel_right₀ _ small.ne'])
      (fun st => by rw [lt_div_iff₀ small, div_lt_iff₀ small]; exact sticky st)
    refine ⟨roundsTo_of_frac lower upper mode n.neg (fun _ => half) inexact, ?_⟩
    rw [ne_eq, rounded_eq_iff upper mode n.neg half inexact]
    exact inexact

end Sys2Proof.Machine
end

section
/-! One rounding to a floating format (O24, 03 R89 to R95): the finite encodings lie on the grids that a value is rounded to. -/

namespace Sys2Proof.Machine

/-! ### Formats and the values of their encodings (R82, R83) -/

/-- What the floating formats of 03 Table 2 have in common: a mantissa, and a largest finite encoding that is normal and fits. -/
structure FFmt.Regular (f : FFmt) : Prop where
  mantissa : 1 ≤ f.mw
  normal : 2 ^ f.mw ≤ f.maxEnc
  room : f.maxEnc < 2 ^ (f.ew + f.mw)

theorem FFmt.regular_of_code {code : Nat} {f : FFmt} (h : ffmt code = some f) : f.Regular := by
  unfold ffmt at h
  split at h
  all_goals cases h
  all_goals exact ⟨by decide, by decide, by decide⟩

/-- The value of a magnitude encoding. -/
def FFmt.value (f : FFmt) (enc : Nat) : ℚ := (magNum f false enc).rat

theorem magNum_rat (f : FFmt) (neg : Bool) (enc : Nat) : (magNum f neg enc).rat = signedRat neg (f.value enc) := by
  rw [FFmt.value, Num.rat_eq_signedRat, Num.rat_eq_signedRat]
  unfold magNum
  dsimp only
  split <;> rfl

theorem FFmt.value_eq (f : FFmt) (enc : Nat) : f.value enc = (magNum f false enc).m * (2 : ℚ) ^ (magNum f false enc).e := by
  have positive : (magNum f false enc).neg = false := by
    unfold magNum
    dsimp only
    split <;> rfl
  rw [FFmt.value, Num.rat_eq_signedRat, positive]
  rfl

theorem FFmt.value_nonneg (f : FFmt) (enc : Nat) : 0 ≤ f.value enc := by
  rw [f.value_eq]
  positivity

theorem FFmt.value_subnormal (f : FFmt) {mf : Nat} (h : mf < 2 ^ f.mw) : f.value mf = mf * (2 : ℚ) ^ (1 - (f.bias : ℤ) - f.mw) := by
  rw [FFmt.value, Num.rat_eq_signedRat]
  simp [magNum, Nat.div_eq_of_lt h, Nat.mod_eq_of_lt h, signedRat]

theorem FFmt.value_normal (f : FFmt) {ef mf : Nat} (pos : ef ≠ 0) (h : mf < 2 ^ f.mw) :
    f.value (ef * 2 ^ f.mw + mf) = ((2 ^ f.mw + mf : Nat) : ℚ) * (2 : ℚ) ^ ((ef : ℤ) - f.bias - f.mw) := by
  have field : (ef * 2 ^ f.mw + mf) / 2 ^ f.mw = ef := by
    rw [Nat.add_comm, Nat.add_mul_div_right _ _ (Nat.two_pow_pos _), Nat.div_eq_of_lt h, Nat.zero_add]
  have frac : (ef * 2 ^ f.mw + mf) % 2 ^ f.mw = mf := by rw [Nat.add_comm, Nat.add_mul_mod_self_right, Nat.mod_eq_of_lt h]
  rw [FFmt.value, Num.rat_eq_signedRat]
  simp [magNum, field, frac, pos, signedRat]

/-- An encoding is a subnormal one or has an exponent field. -/
theorem FFmt.enc_cases (f : FFmt) (enc : Nat) : enc < 2 ^ f.mw ∨ ∃ ef mf, ef ≠ 0 ∧ mf < 2 ^ f.mw ∧ enc = ef * 2 ^ f.mw + mf := by
  rcases Nat.lt_or_ge enc (2 ^ f.mw) with small | large
  · exact .inl small
  · exact .inr ⟨enc / 2 ^ f.mw, enc % 2 ^ f.mw, (Nat.div_pos large (Nat.two_pow_pos _)).ne', Nat.mod_lt _ (Nat.two_pow_pos _),
      (Nat.div_add_mod' enc _).symm⟩

/-- A value as a count of units of at least the least unit. -/
theorem FFmt.value_units (f : FFmt) (enc : Nat) : ∃ (s : Nat) (e : ℤ), f.value enc = s * (2 : ℚ) ^ e ∧ s < 2 ^ (f.mw + 1) ∧
    1 - (f.bias : ℤ) - f.mw ≤ e := by
  rw [Nat.pow_succ]
  rcases f.enc_cases enc with small | ⟨ef, mf, pos, frac, rfl⟩
  · exact ⟨enc, _, f.value_subnormal small, by omega, le_refl _⟩
  · exact ⟨_, _, f.value_normal pos frac, by omega, by omega⟩

theorem two_zpow_succ (e : ℤ) : (2 : ℚ) ^ (e + 1) = 2 * (2 : ℚ) ^ e := by rw [zpow_add_one₀ two_ne_zero, mul_comm]

/-- Encodings rise with the values (R83). -/
theorem FFmt.value_strictMono (f : FFmt) : StrictMono f.value := by
  refine strictMono_nat_of_lt_succ fun enc => ?_
  rcases f.enc_cases enc with small | ⟨ef, mf, pos, frac, rfl⟩
  · rw [f.value_subnormal small]
    have unit : (0 : ℚ) < (2 : ℚ) ^ (1 - (f.bias : ℤ) - f.mw) := by positivity
    rcases Nat.lt_or_ge (enc + 1) (2 ^ f.mw) with inside | border
    · rw [f.value_subnormal inside]
      exact mul_lt_mul_of_pos_right (by exact_mod_cast Nat.lt_succ_self enc) unit
    · have top : enc + 1 = 1 * 2 ^ f.mw + 0 := by omega
      rw [top, f.value_normal one_ne_zero (Nat.two_pow_pos _)]
      exact mul_lt_mul_of_pos_right (by exact_mod_cast (by omega : enc < 2 ^ f.mw + 0)) unit
  · rw [f.value_normal pos frac]
    have unit : (0 : ℚ) < (2 : ℚ) ^ ((ef : ℤ) - f.bias - f.mw) := by positivity
    rcases Nat.lt_or_ge (mf + 1) (2 ^ f.mw) with inside | border
    · rw [Nat.add_assoc, f.value_normal pos inside]
      exact mul_lt_mul_of_pos_right (by exact_mod_cast (by omega : 2 ^ f.mw + mf < 2 ^ f.mw + (mf + 1))) unit
    · have top : ef * 2 ^ f.mw + mf + 1 = (ef + 1) * 2 ^ f.mw + 0 := by
        rw [Nat.add_mul]
        omega
      have next : ((ef + 1 : Nat) : ℤ) - f.bias - f.mw = ((ef : ℤ) - f.bias - f.mw) + 1 := by push_cast; ring
      rw [top, f.value_normal (Nat.succ_ne_zero ef) (Nat.two_pow_pos _), next, two_zpow_succ, ← mul_assoc]
      refine mul_lt_mul_of_pos_right ?_ unit
      exact_mod_cast (by omega : 2 ^ f.mw + mf < (2 ^ f.mw + 0) * 2)

/-- The encoding of a rounded count has its value and its parity (R90). -/
theorem FFmt.value_encOf {f : FFmt} (regular : f.Regular) {r : Nat} {q : ℤ} (top : r ≤ 2 ^ (f.mw + 1)) (least : 1 - (f.bias : ℤ) - f.mw ≤ q)
    (normal : 2 ^ f.mw ≤ r ∨ q = 1 - (f.bias : ℤ) - f.mw) : f.value (f.encOf r q) = r * (2 : ℚ) ^ q ∧ f.encOf r q % 2 = r % 2 := by
  obtain ⟨k, hk⟩ : ∃ k, 2 ^ f.mw = 2 * k := by
    obtain ⟨j, hj⟩ : ∃ j, f.mw = j + 1 := Nat.exists_eq_succ_of_ne_zero (by have := regular.mantissa; omega)
    exact ⟨2 ^ j, by rw [hj, Nat.pow_succ, Nat.mul_comm]⟩
  rw [Nat.pow_succ] at top
  unfold FFmt.encOf
  split
  next small =>
    obtain rfl := normal.resolve_left (by omega)
    exact ⟨f.value_subnormal small, rfl⟩
  next large =>
    have field : (q + f.mw + f.bias).toNat ≠ 0 := by omega
    have even : ((q + f.mw + f.bias).toNat * 2 ^ f.mw) % 2 = 0 := by rw [hk, Nat.mul_left_comm, Nat.mul_mod_right]
    refine ⟨?_, by omega⟩
    rcases Nat.lt_or_ge (r - 2 ^ f.mw) (2 ^ f.mw) with inside | border
    · rw [f.value_normal field inside, Nat.add_sub_cancel' (by omega)]
      congr 2
      omega
    · have full : r = 2 ^ f.mw * 2 := by omega
      have carry : (q + f.mw + f.bias).toNat * 2 ^ f.mw + (r - 2 ^ f.mw) = ((q + f.mw + f.bias).toNat + 1) * 2 ^ f.mw + 0 := by
        rw [Nat.add_mul]
        omega
      have next : (((q + f.mw + f.bias).toNat + 1 : Nat) : ℤ) - f.bias - f.mw = q + 1 := by omega
      rw [carry, f.value_normal (Nat.succ_ne_zero _) (Nat.two_pow_pos _), next, two_zpow_succ, full]
      push_cast
      ring

theorem FFmt.value_least_normal (f : FFmt) : f.value (2 ^ f.mw) = (2 : ℚ) ^ (1 - (f.bias : ℤ)) := by
  have value := f.value_normal one_ne_zero (Nat.two_pow_pos f.mw)
  rw [Nat.one_mul, Nat.add_zero] at value
  rw [value, Nat.cast_pow, Nat.cast_ofNat, ← zpow_natCast, ← zpow_add₀ two_ne_zero]
  congr 1
  push_cast
  ring

/-- Beside a binade, a finite value is a multiple of the unit of its grid or lies below it. -/
theorem FFmt.value_on_grid (f : FFmt) (enc : Nat) (l : ℤ) :
    (∃ j : Nat, f.value enc = j * (2 : ℚ) ^ (l - f.mw)) ∨ f.value enc < (2 : ℚ) ^ l := by
  obtain ⟨s, e, value, small, -⟩ := f.value_units enc
  by_cases le : l - f.mw ≤ e
  · refine .inl ⟨s * 2 ^ (e - (l - f.mw)).toNat, ?_⟩
    rw [value, ← scaled_eq s le, div_mul_cancel₀ _ (by positivity)]
  · refine .inr ?_
    rw [value]
    calc (s : ℚ) * (2 : ℚ) ^ e < (2 : ℚ) ^ ((f.mw : ℤ) + 1) * (2 : ℚ) ^ e :=
          mul_lt_mul_of_pos_right (by exact_mod_cast small) (by positivity)
      _ = (2 : ℚ) ^ ((f.mw : ℤ) + 1 + e) := (zpow_add₀ two_ne_zero _ _).symm
      _ ≤ (2 : ℚ) ^ l := zpow_le_zpow_right₀ (by norm_num) (by omega)

theorem FFmt.value_on_least_grid (f : FFmt) (enc : Nat) : ∃ j : Nat, f.value enc = j * (2 : ℚ) ^ (1 - (f.bias : ℤ) - f.mw) := by
  obtain ⟨s, e, value, -, le⟩ := f.value_units enc
  exact ⟨s * 2 ^ (e - (1 - (f.bias : ℤ) - f.mw)).toNat, by rw [value, ← scaled_eq s le, div_mul_cancel₀ _ (by positivity)]⟩

/-! ### The grid of a value -/

/-- The exponent of the leading bit of a value. -/
def Num.lead (n : Num) : ℤ := n.e + bitLen n.m - 1

/-- The exponent of the unit that a value of a leading bit is rounded to. -/
def FFmt.grid (f : FFmt) (lead : ℤ) : ℤ := (if lead < 1 - (f.bias : ℤ) then 1 - (f.bias : ℤ) else lead) - f.mw

/-- A finite value is a multiple of the unit of a grid, or lies below the grid's binade. -/
theorem FFmt.value_on_grid_of (f : FFmt) (enc : Nat) (lead : ℤ) :
    (∃ j : Nat, f.value enc = j * (2 : ℚ) ^ f.grid lead) ∨ (f.grid lead = lead - f.mw ∧ f.value enc < (2 : ℚ) ^ lead) := by
  unfold FFmt.grid
  split
  next => exact .inl (f.value_on_least_grid enc)
  next => exact (f.value_on_grid enc lead).imp id fun below => ⟨rfl, below⟩

theorem two_pow_le_of_bitLen {m : Nat} (h : m ≠ 0) : 2 ^ (bitLen m - 1) ≤ m ∧ 1 ≤ bitLen m := by
  rw [bitLen, if_neg h]
  exact ⟨Nat.log2_self_le h, by omega⟩

theorem standsFor_rat {n : Num} (exact' : n.st = false) : n.standsFor n.rat := by
  unfold Num.standsFor
  rw [exact', if_neg Bool.false_ne_true]

/-- A value lies in the binade of its leading bit. -/
theorem Num.lead_spec {n : Num} {x : ℚ} (stands : n.standsFor x) (nonzero : n.m ≠ 0) :
    (2 : ℚ) ^ n.lead ≤ |x| ∧ |x| < (2 : ℚ) ^ (n.lead + 1) := by
  obtain ⟨low, pos⟩ := two_pow_le_of_bitLen nonzero
  have high := lt_two_pow_bitLen n.m
  have unit : (0 : ℚ) < (2 : ℚ) ^ n.e := by positivity
  obtain ⟨-, exact', sticky⟩ := Num.standsFor_magnitude stands
  have bounds : (n.m : ℚ) * (2 : ℚ) ^ n.e ≤ |x| ∧ |x| < ((n.m : ℚ) + 1) * (2 : ℚ) ^ n.e := by
    cases st : n.st
    · rw [exact' st]
      exact ⟨le_rfl, mul_lt_mul_of_pos_right (by linarith) unit⟩
    · exact ⟨(sticky st).1.le, (sticky st).2⟩
  constructor
  · calc (2 : ℚ) ^ n.lead = (2 : ℚ) ^ (bitLen n.m - 1) * (2 : ℚ) ^ n.e := by
          rw [← zpow_natCast, ← zpow_add₀ two_ne_zero, Num.lead]
          congr 1
          omega
      _ ≤ n.m * (2 : ℚ) ^ n.e := mul_le_mul_of_nonneg_right (by exact_mod_cast low) unit.le
      _ ≤ |x| := bounds.1
  · calc |x| < ((n.m : ℚ) + 1) * (2 : ℚ) ^ n.e := bounds.2
      _ ≤ (2 : ℚ) ^ bitLen n.m * (2 : ℚ) ^ n.e := mul_le_mul_of_nonneg_right (by exact_mod_cast high) unit.le
      _ = (2 : ℚ) ^ (n.lead + 1) := by
          rw [← zpow_natCast, ← zpow_add₀ two_ne_zero, Num.lead]
          congr 1
          omega

/-- The binade of a value is one only. -/
theorem binade_unique {y : ℚ} {k l : ℤ} (hk : (2 : ℚ) ^ k ≤ y ∧ y < (2 : ℚ) ^ (k + 1)) (hl : (2 : ℚ) ^ l ≤ y ∧ y < (2 : ℚ) ^ (l + 1)) :
    k = l := by
  have below := (zpow_lt_zpow_iff_right₀ (by norm_num : (1 : ℚ) < 2)).1 (hk.1.trans_lt hl.2)
  have above := (zpow_lt_zpow_iff_right₀ (by norm_num : (1 : ℚ) < 2)).1 (hl.1.trans_lt hk.2)
  omega

theorem magLe_iff (b a : Nat) (j i : ℤ) : magLe b j a i = true ↔ (b : ℚ) * (2 : ℚ) ^ j ≤ a * (2 : ℚ) ^ i := by
  unfold magLe
  split
  next le =>
    rw [decide_eq_true_iff, ← div_le_div_iff_of_pos_right (c := (2 : ℚ) ^ j) (by positivity), scaled_eq a le,
      mul_div_cancel_right₀ _ (by positivity), Nat.cast_le]
  next gt =>
    rw [decide_eq_true_iff, ← div_le_div_iff_of_pos_right (c := (2 : ℚ) ^ i) (by positivity), scaled_eq b (by omega),
      mul_div_cancel_right₀ _ (by positivity), Nat.cast_le]

/-- A count that a rounding answers is bounded by the counts that bound the magnitude. -/
theorem roundAt_bounds (mode : Mode) {n : Num} {q : ℤ} {x : ℚ} (stands : n.standsFor x) (fine : n.st = true → n.e < q) (j : Nat) :
    (|x| ≤ j * (2 : ℚ) ^ q → (roundAt mode n q).1 ≤ j) ∧ (j * (2 : ℚ) ^ q ≤ |x| → j ≤ (roundAt mode n q).1) := by
  obtain ⟨round, -⟩ := roundAt_roundsTo mode stands fine
  have unit : (0 : ℚ) < (2 : ℚ) ^ q := by positivity
  rw [(Num.standsFor_magnitude stands).1, signedRat_div] at round
  unfold signedRat signedInt at round
  rw [← div_le_iff₀ unit, ← le_div_iff₀ unit]
  split at round
  · refine ⟨fun h => ?_, fun h => ?_⟩
    · have := le_roundsTo (a := -(j : ℤ)) round (by push_cast; linarith)
      omega
    · have := roundsTo_le (b := -(j : ℤ)) round (by push_cast; linarith)
      omega
  · exact ⟨fun h => by exact_mod_cast roundsTo_le (b := (j : ℤ)) round (by exact_mod_cast h),
      fun h => by exact_mod_cast le_roundsTo (a := (j : ℤ)) round (by exact_mod_cast h)⟩

/-! ### What is written of a finite value that is not zero (R90, R91) -/

/-- The flags of a rounded result. -/
def roundFlags (inexact tiny : Bool) : Flags := fgIf inexact fgInexact ||| fgIf (tiny && inexact) fgUnder

/-- The magnitude of a value rounded as if the exponent had no bound. -/
def FFmt.free (f : FFmt) (mode : Mode) (n : Num) : ℚ := ((roundAt mode n (n.lead - f.mw)).1 : ℚ) * (2 : ℚ) ^ (n.lead - f.mw)

/-- What is written depends on the sign, the leading bit and two roundings. -/
theorem writeNum_of_ne (f : FFmt) (mode : Mode) (sat : Bool) {n : Num} (nonzero : n.m ≠ 0) :
    writeNum f mode sat n = if f.free mode n ≤ f.value f.maxEnc then
        (withSign f n.neg (f.encOf (roundAt mode n (f.grid n.lead)).1 (f.grid n.lead)),
          roundFlags (roundAt mode n (f.grid n.lead)).2 (decide (f.free mode n < (2 : ℚ) ^ (1 - (f.bias : ℤ)))))
      else overflowFp f mode sat n.neg := by
  have bounded : magLe (roundAt mode n (n.lead - f.mw)).1 (n.lead - f.mw) (magNum f false f.maxEnc).m (magNum f false f.maxEnc).e = true ↔
      f.free mode n ≤ f.value f.maxEnc := by
    rw [magLe_iff, f.value_eq, FFmt.free]
  have tiny : (!magLe 1 (1 - (f.bias : ℤ)) (roundAt mode n (n.lead - f.mw)).1 (n.lead - f.mw)) =
      decide (f.free mode n < (2 : ℚ) ^ (1 - (f.bias : ℤ))) := by
    rw [Bool.eq_iff_iff, Bool.not_eq_true', ← Bool.not_eq_true, magLe_iff, decide_eq_true_iff, not_le, Nat.cast_one, one_mul, FFmt.free]
  have unfolded : writeNum f mode sat n = if !magLe (roundAt mode n (n.lead - f.mw)).1 (n.lead - f.mw) (magNum f false f.maxEnc).m
        (magNum f false f.maxEnc).e then overflowFp f mode sat n.neg
    else (withSign f n.neg (f.encOf (roundAt mode n (f.grid n.lead)).1 (f.grid n.lead)), roundFlags (roundAt mode n (f.grid n.lead)).2
      (!magLe 1 (1 - (f.bias : ℤ)) (roundAt mode n (n.lead - f.mw)).1 (n.lead - f.mw))) := by
    rw [writeNum, if_neg (by simp [nonzero])]
    rfl
  rw [unfolded, tiny]
  by_cases h : f.free mode n ≤ f.value f.maxEnc
  · rw [if_pos h, bounded.2 h]
    rfl
  · rw [if_neg h, Bool.eq_false_iff.2 (mt bounded.1 h)]
    rfl

section

variable {f : FFmt} (regular : f.Regular) (mode : Mode) {n : Num} (nonzero : n.m ≠ 0) (exact' : n.st = false)
include regular nonzero exact'

/-- The count written has its value among the encodings, and is the larger of the units where the value is a normal one. -/
theorem value_written : f.value (f.encOf (roundAt mode n (f.grid n.lead)).1 (f.grid n.lead)) =
      (roundAt mode n (f.grid n.lead)).1 * (2 : ℚ) ^ f.grid n.lead ∧
    f.encOf (roundAt mode n (f.grid n.lead)).1 (f.grid n.lead) % 2 = (roundAt mode n (f.grid n.lead)).1 % 2 := by
  have stands := standsFor_rat exact'
  obtain ⟨low, -⟩ := Num.lead_spec stands nonzero
  unfold FFmt.grid
  split
  next tiny =>
    exact FFmt.value_encOf regular (roundAt_le (by push_cast; unfold Num.lead at tiny; omega)) (le_refl _) (.inr rfl)
  next =>
    refine FFmt.value_encOf regular (roundAt_le (by push_cast; unfold Num.lead; omega)) (by omega) (.inl ?_)
    refine (roundAt_bounds mode stands (fun st => absurd (exact'.symm.trans st) Bool.false_ne_true) _).2 ?_
    calc ((2 ^ f.mw : Nat) : ℚ) * (2 : ℚ) ^ (n.lead - f.mw) = (2 : ℚ) ^ n.lead := by
          rw [Nat.cast_pow, Nat.cast_ofNat, ← zpow_natCast, ← zpow_add₀ two_ne_zero]
          congr 1
          omega
      _ ≤ |n.rat| := low

/-- A value that rounds within the finite range is written as a finite encoding. -/
theorem encOf_le_maxEnc (bounded : f.free mode n ≤ f.value f.maxEnc) :
    f.encOf (roundAt mode n (f.grid n.lead)).1 (f.grid n.lead) ≤ f.maxEnc := by
  obtain ⟨value, -⟩ := value_written regular mode nonzero exact'
  by_cases tiny : n.lead < 1 - (f.bias : ℤ)
  · have grid : f.grid n.lead = 1 - (f.bias : ℤ) - f.mw := by rw [FFmt.grid, if_pos tiny]
    rw [grid]
    exact (encOf_le_of_tiny (roundAt_le (by unfold Num.lead at tiny; omega))).trans regular.normal
  · have grid : f.grid n.lead = n.lead - f.mw := by rw [FFmt.grid, if_neg tiny]
    rw [← f.value_strictMono.le_iff_le, value, grid]
    exact bounded

omit regular in
/-- A value within the finite range rounds within it. -/
theorem free_le_max (within : |n.rat| ≤ f.value f.maxEnc) : f.free mode n ≤ f.value f.maxEnc := by
  rw [FFmt.free]
  have stands := standsFor_rat exact'
  obtain ⟨low, -⟩ := Num.lead_spec stands nonzero
  rcases f.value_on_grid f.maxEnc n.lead with ⟨j, value⟩ | below
  · rw [value] at within ⊢
    refine mul_le_mul_of_nonneg_right ?_ (by positivity)
    exact_mod_cast (roundAt_bounds mode stands (fun st => absurd (exact'.symm.trans st) Bool.false_ne_true) j).1 within
  · exact absurd (low.trans within) (not_le.2 below)

omit regular in
/-- Between a value and any finite encoding's lies a point of the value's grid. -/
theorem grid_between (neg : Bool) (e : Nat) : ∃ j : ℤ, ((magNum f neg e).rat ≤ j * (2 : ℚ) ^ f.grid n.lead ∧ j * (2 : ℚ) ^ f.grid n.lead ≤ n.rat) ∨
    (n.rat ≤ j * (2 : ℚ) ^ f.grid n.lead ∧ j * (2 : ℚ) ^ f.grid n.lead ≤ (magNum f neg e).rat) := by
  have stands := standsFor_rat exact'
  obtain ⟨low, -⟩ := Num.lead_spec stands nonzero
  rcases f.value_on_grid_of e n.lead with ⟨j, value⟩ | ⟨grid, below⟩
  · refine ⟨signedInt neg j, ?_⟩
    rw [magNum_rat, value, ← signedRat_mul, signedRat_cast]
    rcases le_total n.rat ((signedInt neg j : ℚ) * (2 : ℚ) ^ f.grid n.lead) with le | ge
    · exact .inr ⟨le, le_rfl⟩
    · exact .inl ⟨le_rfl, ge⟩
  · have point : ((signedInt n.neg (2 ^ f.mw) : ℤ) : ℚ) * (2 : ℚ) ^ f.grid n.lead = signedRat n.neg ((2 : ℚ) ^ n.lead) := by
      rw [← signedRat_cast, signedRat_mul, grid, Nat.cast_pow, Nat.cast_ofNat, ← zpow_natCast, ← zpow_add₀ two_ne_zero]
      congr 2
      omega
    refine ⟨signedInt n.neg (2 ^ f.mw), ?_⟩
    have bounds : |(magNum f neg e).rat| < (2 : ℚ) ^ n.lead := by rwa [magNum_rat, abs_signedRat _ (f.value_nonneg e)]
    rw [abs_lt] at bounds
    rw [point, (Num.standsFor_magnitude stands).1]
    unfold signedRat
    split
    · exact .inr ⟨by linarith, by linarith⟩
    · exact .inl ⟨by linarith, by linarith⟩

end

/-! ### A rounding to a grid is the best of the finite encodings (R89) -/

/-- A finite encoding lies beyond a point of the grid of x as seen from x, or on it. -/
def FFmt.Gridded (f : FFmt) (x : ℚ) (q : ℤ) : Prop := ∀ neg e, ∃ j : ℤ,
  ((magNum f neg e).rat ≤ j * (2 : ℚ) ^ q ∧ j * (2 : ℚ) ^ q ≤ x) ∨ (x ≤ j * (2 : ℚ) ^ q ∧ j * (2 : ℚ) ^ q ≤ (magNum f neg e).rat)

/-- No integer is nearer than the one that a value rounds to, and of two as near the even one is taken. -/
theorem roundsTo_nearest {x : ℚ} {k : ℤ} (h : roundsTo .rne x k) (j : ℤ) :
    |x - k| ≤ |x - j| ∧ (|x - k| = |x - j| → j ≠ k → k % 2 = 0) := by
  obtain ⟨near, even⟩ := h
  refine ⟨?_, fun same ne => even ?_⟩
  · rcases eq_or_ne j k with rfl | ne
    · exact le_rfl
    · linarith [one_le_distances (x := x) ne]
  · linarith [one_le_distances (x := x) ne]

section

variable {f : FFmt} {x : ℚ} {q k : ℤ} (grid : f.Gridded x q)
include grid

theorem rounded_nearest (round : roundsTo .rne (x / (2 : ℚ) ^ q) k) (neg : Bool) (e : Nat) :
    |k * (2 : ℚ) ^ q - x| ≤ |(magNum f neg e).rat - x| ∧
      (|k * (2 : ℚ) ^ q - x| = |(magNum f neg e).rat - x| → (magNum f neg e).rat ≠ k * (2 : ℚ) ^ q → k % 2 = 0) := by
  have unit : (0 : ℚ) < (2 : ℚ) ^ q := by positivity
  have scaled (j : ℤ) : |j * (2 : ℚ) ^ q - x| = |x / (2 : ℚ) ^ q - j| * (2 : ℚ) ^ q := by
    rw [← abs_of_pos unit, ← abs_mul, abs_of_pos unit, sub_mul, div_mul_cancel₀ _ unit.ne', abs_sub_comm]
  obtain ⟨j, between⟩ := grid neg e
  obtain ⟨near, even⟩ := roundsTo_nearest round j
  have nearer : |k * (2 : ℚ) ^ q - x| ≤ |j * (2 : ℚ) ^ q - x| := by
    rw [scaled, scaled]
    exact mul_le_mul_of_nonneg_right near unit.le
  have further : |j * (2 : ℚ) ^ q - x| ≤ |(magNum f neg e).rat - x| ∧
      (|j * (2 : ℚ) ^ q - x| = |(magNum f neg e).rat - x| → (magNum f neg e).rat = j * (2 : ℚ) ^ q) := by
    rcases between with ⟨low, high⟩ | ⟨low, high⟩
    · rw [abs_of_nonpos (by linarith), abs_of_nonpos (by linarith)]
      exact ⟨by linarith, fun same => by linarith⟩
    · rw [abs_of_nonneg (by linarith), abs_of_nonneg (by linarith)]
      exact ⟨by linarith, fun same => by linarith⟩
  refine ⟨nearer.trans further.1, fun same ne => even ?_ ?_⟩
  · have tie : |k * (2 : ℚ) ^ q - x| = |j * (2 : ℚ) ^ q - x| := le_antisymm nearer (same ▸ further.1)
    rw [scaled, scaled] at tie
    exact mul_right_cancel₀ unit.ne' tie
  · rintro rfl
    exact ne (further.2 (le_antisymm further.1 same.ge))

theorem rounded_down (round : roundsTo .rdn (x / (2 : ℚ) ^ q) k) : k * (2 : ℚ) ^ q ≤ x ∧
    ∀ neg e, (magNum f neg e).rat ≤ x → (magNum f neg e).rat ≤ k * (2 : ℚ) ^ q := by
  have unit : (0 : ℚ) < (2 : ℚ) ^ q := by positivity
  refine ⟨?_, fun neg e below => ?_⟩
  · obtain rfl : k = ⌊x / (2 : ℚ) ^ q⌋ := round
    exact (le_div_iff₀ unit).1 (Int.floor_le _)
  · obtain ⟨j, between⟩ := grid neg e
    have point : (magNum f neg e).rat ≤ j * (2 : ℚ) ^ q ∧ j * (2 : ℚ) ^ q ≤ x :=
      between.elim id fun ⟨low, high⟩ => ⟨below.trans low, high.trans below⟩
    have le : (j : ℚ) ≤ k := by exact_mod_cast le_roundsTo round ((le_div_iff₀ unit).2 point.2)
    exact point.1.trans (mul_le_mul_of_nonneg_right le unit.le)

theorem rounded_up (round : roundsTo .rup (x / (2 : ℚ) ^ q) k) : x ≤ k * (2 : ℚ) ^ q ∧
    ∀ neg e, x ≤ (magNum f neg e).rat → k * (2 : ℚ) ^ q ≤ (magNum f neg e).rat := by
  have unit : (0 : ℚ) < (2 : ℚ) ^ q := by positivity
  refine ⟨?_, fun neg e above => ?_⟩
  · obtain rfl : k = ⌈x / (2 : ℚ) ^ q⌉ := round
    exact (div_le_iff₀ unit).1 (Int.le_ceil _)
  · obtain ⟨j, between⟩ := grid neg e
    have point : x ≤ j * (2 : ℚ) ^ q ∧ j * (2 : ℚ) ^ q ≤ (magNum f neg e).rat :=
      between.elim (fun ⟨low, high⟩ => ⟨above.trans low, high.trans above⟩) id
    have le : (k : ℚ) ≤ j := by exact_mod_cast roundsTo_le round ((div_le_iff₀ unit).2 point.1)
    exact (mul_le_mul_of_nonneg_right le unit.le).trans point.2

theorem rounded_toward_zero (round : roundsTo .rtz (x / (2 : ℚ) ^ q) k) : |k * (2 : ℚ) ^ q| ≤ |x| ∧
    ∀ e, (magNum f false e).rat ≤ |x| → (magNum f false e).rat ≤ |k * (2 : ℚ) ^ q| := by
  have unit : (0 : ℚ) < (2 : ℚ) ^ q := by positivity
  rcases le_or_gt 0 x with nonneg | negative
  · have down : roundsTo .rdn (x / (2 : ℚ) ^ q) k := round.trans (if_pos (div_nonneg nonneg unit.le))
    have sign : (0 : ℚ) ≤ k * (2 : ℚ) ^ q := mul_nonneg
      (by exact_mod_cast le_roundsTo (a := 0) down (by rw [Int.cast_zero]; exact div_nonneg nonneg unit.le)) unit.le
    rw [abs_of_nonneg nonneg, abs_of_nonneg sign]
    obtain ⟨below, best⟩ := rounded_down grid down
    exact ⟨below, best false⟩
  · have up : roundsTo .rup (x / (2 : ℚ) ^ q) k := round.trans (if_neg (not_le.2 (div_neg_of_neg_of_pos negative unit)))
    have sign : (k : ℚ) * (2 : ℚ) ^ q ≤ 0 := mul_nonpos_of_nonpos_of_nonneg
      (by exact_mod_cast roundsTo_le (b := 0) up (by rw [Int.cast_zero]; exact (div_neg_of_neg_of_pos negative unit).le)) unit.le
    rw [abs_of_neg negative, abs_of_nonpos sign]
    obtain ⟨above, best⟩ := rounded_up grid up
    refine ⟨neg_le_neg above, fun e within => ?_⟩
    have mirrored : (magNum f true e).rat = -(magNum f false e).rat := by rw [magNum_rat, magNum_rat]; rfl
    have := best true e (by rw [mirrored]; linarith)
    linarith

end

end Sys2Proof.Machine
end

section
/-! RoundingIsCorrect (O24): the finite results, tiny and overflowing ones, sticky values, infinities and NaNs. -/

namespace Sys2Proof.Machine

/-! ### Encodings with a sign -/

theorem decodeFp_withSign {f : FFmt} (regular : f.Regular) (neg : Bool) {enc : Nat} (h : enc ≤ f.maxEnc) :
    decodeFp f (withSign f neg enc) = .fin (magNum f neg enc) := by
  have small : enc < 2 ^ (f.ew + f.mw) := h.trans_lt regular.room
  have sign : (withSign f neg enc / 2 ^ (f.ew + f.mw) % 2 == 1) = neg := by
    cases neg
    · rw [withSign, if_neg Bool.false_ne_true, Nat.div_eq_of_lt small]
      rfl
    · rw [withSign, if_pos rfl, Nat.add_div_left _ (Nat.two_pow_pos _), Nat.div_eq_of_lt small]
      rfl
  have low : withSign f neg enc % 2 ^ (f.ew + f.mw) = enc := by
    unfold withSign
    split
    · rw [Nat.add_mod_left, Nat.mod_eq_of_lt small]
    · exact Nat.mod_eq_of_lt small
  simp only [decodeFp, sign, low, if_pos h]

theorem magNum_neg (f : FFmt) (neg : Bool) (enc : Nat) : (magNum f neg enc).neg = neg := by
  unfold magNum
  dsimp only
  split <;> rfl

theorem withSign_parity {f : FFmt} (regular : f.Regular) (neg : Bool) (enc : Nat) : withSign f neg enc % 2 = enc % 2 := by
  obtain ⟨k, hk⟩ : ∃ k, f.ew + f.mw = k + 1 := Nat.exists_eq_succ_of_ne_zero (by have := regular.mantissa; omega)
  unfold withSign
  split
  · rw [hk, Nat.pow_succ]
    omega
  · rfl

theorem signedInt_parity (neg : Bool) (c : Nat) : signedInt neg c % 2 = 0 ↔ c % 2 = 0 := by
  unfold signedInt
  split <;> omega

/-! ### Finite results (R90) -/

theorem gridded_of_zero (f : FFmt) : f.Gridded 0 (1 - (f.bias : ℤ) - f.mw) := fun neg e => by
  obtain ⟨j, value⟩ := f.value_on_least_grid e
  refine ⟨signedInt neg j, ?_⟩
  rw [magNum_rat, value, ← signedRat_mul, signedRat_cast]
  rcases le_total 0 ((signedInt neg j : ℚ) * (2 : ℚ) ^ (1 - (f.bias : ℤ) - f.mw)) with le | ge
  · exact .inr ⟨le, le_rfl⟩
  · exact .inl ⟨le_rfl, ge⟩

/-- What is written of a value within the finite range: its rounding to a grid that no finite encoding lies within. -/
structure Written (f : FFmt) (mode : Mode) (n : Num) (r : Nat × Flags) (c : Nat) (q : ℤ) (enc : Nat) (inexact tiny : Bool) : Prop where
  result : r = (withSign f n.neg enc, roundFlags inexact tiny)
  finite : enc ≤ f.maxEnc
  value : (magNum f n.neg enc).rat = signedInt n.neg c * (2 : ℚ) ^ q
  parity : enc % 2 = c % 2
  round : roundsTo mode (n.rat / (2 : ℚ) ^ q) (signedInt n.neg c)
  differs : inexact = true ↔ (signedInt n.neg c : ℚ) * (2 : ℚ) ^ q ≠ n.rat
  grid : f.Gridded n.rat q

theorem written_of_within {f : FFmt} (regular : f.Regular) (mode : Mode) (sat : Bool) {n : Num} (exact' : n.st = false)
    (within : |n.rat| ≤ f.value f.maxEnc) : ∃ c q enc inexact tiny, Written f mode n (writeNum f mode sat n) c q enc inexact tiny := by
  by_cases zero : n.m = 0
  · have rat : n.rat = 0 := by simp [Num.rat, zero]
    have least : f.value 0 = 0 := by rw [f.value_subnormal (Nat.two_pow_pos _), Nat.cast_zero, zero_mul]
    have none' : signedInt n.neg 0 = 0 := by
      unfold signedInt
      split <;> rfl
    refine ⟨0, 1 - (f.bias : ℤ) - f.mw, 0, false, false, ⟨?_, Nat.zero_le _, ?_, rfl, ?_, ?_, ?_⟩⟩
    · rw [writeNum, if_pos (by simp [zero, exact'])]
      rfl
    · rw [magNum_rat, least, none', Int.cast_zero, zero_mul]
      unfold signedRat
      split <;> norm_num
    · rw [rat, none', zero_div]
      exact_mod_cast roundsTo_int mode 0
    · simp [rat, none']
    · rw [rat]
      exact gridded_of_zero f
  · obtain ⟨value, parity⟩ := value_written regular mode zero exact'
    have bounded := free_le_max mode zero exact' within
    obtain ⟨round, differs⟩ := roundAt_roundsTo mode (q := f.grid n.lead) (standsFor_rat exact')
      (fun st => absurd (exact'.symm.trans st) Bool.false_ne_true)
    refine ⟨_, _, _, _, _, ⟨(writeNum_of_ne f mode sat zero).trans (if_pos bounded), encOf_le_maxEnc regular mode zero exact' bounded,
      ?_, parity, round, differs, grid_between zero exact'⟩⟩
    rw [magNum_rat, value, ← signedRat_cast, signedRat_mul]

theorem roundFlags_inexact (inexact tiny : Bool) : (roundFlags inexact tiny).getLsbD 0 = inexact := by
  cases inexact <;> cases tiny <;> decide

theorem roundFlags_under (inexact tiny : Bool) : (roundFlags inexact tiny).getLsbD 1 = (tiny && inexact) := by
  cases inexact <;> cases tiny <;> decide

theorem roundFlags_above (inexact tiny : Bool) {b : Nat} (h : 2 ≤ b) : (roundFlags inexact tiny).getLsbD b = false := by
  rcases Nat.lt_or_ge b 6 with small | large
  · interval_cases b <;> cases inexact <;> cases tiny <;> decide
  · exact BitVec.getLsbD_of_ge _ _ large

/-! ### Rounding as if the exponent had no bound (R91) -/

section

variable {f : FFmt} (regular : f.Regular) (mode : Mode) (sat : Bool) {n : Num} {l k : ℤ} (exact' : n.st = false)
  (low : (2 : ℚ) ^ l ≤ |n.rat|) (high : |n.rat| < (2 : ℚ) ^ (l + 1)) (round : roundsTo mode (n.rat / (2 : ℚ) ^ (l - f.mw)) k)
include low

theorem nonzero_of_binade : n.m ≠ 0 := by
  intro zero
  have rat : n.rat = 0 := by simp [Num.rat, zero]
  rw [rat, abs_zero] at low
  exact absurd low (not_le.2 (by positivity))

include exact' high

theorem lead_of_binade : n.lead = l :=
  binade_unique (Num.lead_spec (standsFor_rat exact') (nonzero_of_binade low)) ⟨low, high⟩

include round

/-- The count of the unbounded rounding. -/
theorem free_eq : f.free mode n = |(k : ℚ)| * (2 : ℚ) ^ (l - f.mw) := by
  rw [FFmt.free, lead_of_binade exact' low high]
  obtain ⟨free, -⟩ := roundAt_roundsTo mode (q := l - f.mw) (standsFor_rat exact') (fun st => absurd (exact'.symm.trans st) Bool.false_ne_true)
  rw [roundsTo_unique round free, abs_signedInt]

/-- A value whose unbounded rounding is in the finite range is written with the rounding's flags. -/
theorem writeNum_bounded (bounded : |(k : ℚ)| * (2 : ℚ) ^ (l - f.mw) ≤ f.value f.maxEnc) :
    writeNum f mode sat n = (withSign f n.neg (f.encOf (roundAt mode n (f.grid l)).1 (f.grid l)),
      roundFlags (roundAt mode n (f.grid l)).2 (decide (|(k : ℚ)| * (2 : ℚ) ^ (l - f.mw) < (2 : ℚ) ^ (1 - (f.bias : ℤ))))) := by
  have free := free_eq mode exact' low high round
  have written := writeNum_of_ne f mode sat (nonzero_of_binade low)
  rw [free, lead_of_binade exact' low high] at written
  exact written.trans (if_pos bounded)

/-- A value whose unbounded rounding exceeds the finite range overflows. -/
theorem writeNum_unbounded (above : f.value f.maxEnc < |(k : ℚ)| * (2 : ℚ) ^ (l - f.mw)) :
    writeNum f mode sat n = overflowFp f mode sat n.neg := by
  have free := free_eq mode exact' low high round
  have written := writeNum_of_ne f mode sat (nonzero_of_binade low)
  rw [free] at written
  exact written.trans (if_neg (not_le.2 above))

include regular

/-- A value above the largest finite one that rounds within the range is written as that one, INEXACT alone (R91). -/
theorem writeNum_to_max (bounded : |(k : ℚ)| * (2 : ℚ) ^ (l - f.mw) ≤ f.value f.maxEnc) (above : f.value f.maxEnc < |n.rat|) :
    writeNum f mode sat n = (withSign f n.neg f.maxEnc, 0b000001#6) := by
  have nonzero := nonzero_of_binade low
  have lead := lead_of_binade exact' low high
  have free := free_eq mode exact' low high round
  have stands := standsFor_rat exact'
  have bounds := roundAt_bounds mode (q := l - f.mw) stands (fun st => absurd (exact'.symm.trans st) Bool.false_ne_true)
  have unit : (0 : ℚ) < (2 : ℚ) ^ (l - f.mw) := by positivity
  have normal : (2 : ℚ) ^ (1 - (f.bias : ℤ)) ≤ f.value f.maxEnc := (f.value_least_normal).ge.trans (f.value_strictMono.monotone regular.normal)
  rw [FFmt.free, lead] at free
  rw [← free] at bounded
  have reached : ((roundAt mode n (l - f.mw)).1 : ℚ) * (2 : ℚ) ^ (l - f.mw) = f.value f.maxEnc := by
    refine le_antisymm bounded ?_
    rcases f.value_on_grid f.maxEnc l with ⟨j, value⟩ | below
    · rw [value] at above ⊢
      exact mul_le_mul_of_nonneg_right (by exact_mod_cast (bounds j).2 above.le) unit.le
    · have leading : ((2 ^ f.mw : Nat) : ℚ) * (2 : ℚ) ^ (l - f.mw) = (2 : ℚ) ^ l := by
        rw [Nat.cast_pow, Nat.cast_ofNat, ← zpow_natCast, ← zpow_add₀ two_ne_zero]
        congr 1
        omega
      have least : ((2 ^ f.mw : Nat) : ℚ) ≤ (roundAt mode n (l - f.mw)).1 := by
        exact_mod_cast (bounds (2 ^ f.mw)).2 (leading.le.trans low)
      have := mul_le_mul_of_nonneg_right least unit.le
      linarith
  have grid : f.grid l = l - f.mw := by
    have : (2 : ℚ) ^ (1 - (f.bias : ℤ)) < (2 : ℚ) ^ (l + 1) := (normal.trans_lt above).trans high
    have := (zpow_lt_zpow_iff_right₀ (by norm_num : (1 : ℚ) < 2)).1 this
    rw [FFmt.grid, if_neg (by omega)]
  obtain ⟨value, -⟩ := value_written regular mode nonzero exact'
  rw [lead, grid, reached] at value
  have inexact : (roundAt mode n (l - f.mw)).2 = true := by
    obtain ⟨-, differs⟩ := roundAt_roundsTo mode (q := l - f.mw) stands (fun st => absurd (exact'.symm.trans st) Bool.false_ne_true)
    refine differs.2 fun same => above.ne ?_
    rw [← same, abs_mul, abs_signedInt, abs_of_pos unit, reached]
  rw [writeNum_bounded mode sat exact' low high round (free ▸ bounded), grid, f.value_strictMono.injective value, inexact, ← free, reached,
    decide_eq_false (not_lt.2 normal)]
  rfl

end

/-! ### The obligation -/

/-- Which formats have a NaN and infinities (03 Table 2). -/
theorem FFmt.specials_of_code {code : Nat} {f : FFmt} (h : ffmt code = some f) : (f.hasNan = true ↔ code ≠ 13) ∧
    (f.hasInf = true ↔ code ≠ 9 ∧ code ≠ 13) ∧ (code = 9 → f.nan = 0x7F) ∧ (code = 13 → f.maxEnc = 7) := by
  unfold ffmt at h
  split at h
  all_goals cases h
  all_goals decide

/-- An overflow without saturation in a format with NaNs (03 Table 4). -/
theorem overflowFp_unsaturated {f : FFmt} (has : f.hasNan = true) (mode : Mode) (neg : Bool) : overflowFp f mode false neg =
    if mode = .rtz ∨ (mode = .rdn ∧ neg = false) ∨ (mode = .rup ∧ neg = true) then (withSign f neg f.maxEnc, 0b000101#6)
    else if f.hasInf then (withSign f neg (f.maxEnc + 1), 0b000101#6) else (f.nan, 0b000101#6) := by
  have flags : fgOver ||| fgInexact = 0b000101#6 := rfl
  unfold overflowFp
  rw [flags]
  cases mode <;> cases neg <;> simp [has]

section

variable {code : Nat} {f : FFmt} (h : ffmt code = some f)
include h

theorem overflowFp_of_code (mode : Mode) (sat neg : Bool) :
    overflowFp f mode sat neg = if sat ∨ code = 13 then (withSign f neg f.maxEnc, 0b100101#6)
      else if mode = .rtz ∨ (mode = .rdn ∧ neg = false) ∨ (mode = .rup ∧ neg = true) then (withSign f neg f.maxEnc, 0b000101#6)
      else if code = 9 then (0x7F, 0b000101#6) else (withSign f neg (f.maxEnc + 1), 0b000101#6) := by
  obtain ⟨hasNan, hasInf, nan, -⟩ := FFmt.specials_of_code h
  by_cases clamp : sat = true ∨ code = 13
  · rw [if_pos clamp]
    rcases clamp with saturated | noNan
    · unfold overflowFp
      dsimp only
      rw [if_pos saturated]
      rfl
    · have : f.hasNan = false := Bool.eq_false_iff.2 fun has => hasNan.1 has noNan
      cases sat <;> simp only [overflowFp, this] <;> rfl
  · obtain ⟨unsaturated, finite⟩ := not_or.1 clamp
    have has := hasNan.2 finite
    rw [if_neg clamp, Bool.eq_false_iff.2 unsaturated, overflowFp_unsaturated has]
    congr 1
    by_cases nine : code = 9
    · rw [if_pos nine, if_neg (mt hasInf.1 (by simp [nine])), nan nine]
    · rw [if_neg nine, if_pos (hasInf.2 ⟨nine, finite⟩)]

theorem writeInf_of_code (sat neg : Bool) :
    writeInf f sat neg = if code = 13 then (withSign f neg 7, 0b110000#6)
      else if sat then (withSign f neg f.maxEnc, 0b100000#6)
      else if code = 9 then (0x7F, 0b010000#6) else (withSign f neg (f.maxEnc + 1), 0) := by
  obtain ⟨hasNan, hasInf, nan, max⟩ := FFmt.specials_of_code h
  unfold writeInf
  by_cases noNan : code = 13
  · have : ¬ f.hasNan = true := fun has => hasNan.1 has noNan
    rw [if_neg this, if_neg this, if_neg (mt hasInf.1 (by simp [noNan])), if_pos noNan, max noNan]
    cases sat <;> rfl
  · rw [if_pos (hasNan.2 noNan), if_pos (hasNan.2 noNan), if_neg noNan]
    congr 1
    by_cases nine : code = 9
    · rw [if_neg (mt hasInf.1 (by simp [nine])), if_pos nine, nan nine]
      rfl
    · rw [if_pos (hasInf.2 ⟨nine, noNan⟩), if_neg nine]

theorem writeNan_of_code (neg : Bool) : writeNan f neg = if code = 13 then (withSign f neg 7, 0b010000#6) else (f.nan, 0) := by
  obtain ⟨hasNan, -, -, max⟩ := FFmt.specials_of_code h
  unfold writeNan
  by_cases noNan : code = 13
  · rw [if_neg fun has => hasNan.1 has noNan, if_pos noNan, max noNan]
    rfl
  · rw [if_pos (hasNan.2 noNan), if_neg noNan]

end

/-- A sticky value is rounded to units above its own as each exact value that it stands for. -/
theorem roundAt_sticky (mode : Mode) {n m : Num} {q : ℤ} (exact' : m.st = false) (stands : n.standsFor m.rat)
    (fine : n.e < q) : roundAt mode n q = roundAt mode m q := by
  obtain ⟨round, differs⟩ := roundAt_roundsTo mode (q := q) stands fun _ => fine
  obtain ⟨round', differs'⟩ := roundAt_roundsTo mode (q := q) (standsFor_rat exact') fun st => absurd (exact'.symm.trans st) Bool.false_ne_true
  have same := roundsTo_unique round round'
  refine Prod.ext ?_ (Bool.eq_iff_iff.2 ?_)
  · rw [← natAbs_signedInt n.neg (roundAt mode n q).1, same, natAbs_signedInt]
  · rw [differs, differs', same]

/-- A value with its sticky mark is written as each exact value that it stands for. -/
theorem writeNum_sticky (f : FFmt) (mode : Mode) (sat : Bool) {n m : Num} (sticky : n.st = true) (exact' : m.st = false) (sign : n.neg = m.neg)
    (wide : 2 ^ (f.mw + 2) ≤ n.m) (stands : n.standsFor m.rat) : writeNum f mode sat n = writeNum f mode sat m := by
  have nonzero : n.m ≠ 0 := fun zero => absurd (zero ▸ wide) (Nat.not_le.2 (Nat.two_pow_pos _))
  have nonzero' : m.m ≠ 0 := by
    intro zero
    obtain ⟨-, -, within⟩ := Num.standsFor_magnitude stands
    have rat : m.rat = 0 := by simp [Num.rat, zero]
    have low := (within sticky).1
    rw [rat, abs_zero] at low
    exact absurd low (not_lt.2 (by positivity))
  have lead : n.lead = m.lead := binade_unique (Num.lead_spec stands nonzero) (Num.lead_spec (standsFor_rat exact') nonzero')
  have length : f.mw + 2 < bitLen n.m := (Nat.pow_lt_pow_iff_right (by decide)).1 (wide.trans_lt (lt_two_pow_bitLen n.m))
  have fine : n.e < n.lead - f.mw := by unfold Num.lead; omega
  have fine' : n.e < f.grid n.lead := by
    unfold FFmt.grid
    split <;> omega
  have free : f.free mode n = f.free mode m := by
    rw [FFmt.free, FFmt.free, roundAt_sticky mode exact' stands fine, lead]
  rw [writeNum_of_ne f mode sat nonzero, writeNum_of_ne f mode sat nonzero', free, roundAt_sticky mode exact' stands fine', lead, sign]

/-- Settles O24: a value within the finite range by its grid, one beyond by its unbounded rounding, a sticky one by what it stands for. -/
theorem roundingIsCorrect : Obligations.RoundingIsCorrect := by
  intro code f mode sat known signed big
  have regular := FFmt.regular_of_code known
  refine ⟨fun n exact' within => ?_, fun n l k exact' low high round => ?_, fun n m sticky exact' sign wide stands =>
    writeNum_sticky f mode sat sticky exact' sign wide stands, fun neg => ⟨writeInf_of_code known sat neg, writeNan_of_code known neg⟩⟩
  · obtain ⟨c, q, enc, inexact, tiny, written⟩ := written_of_within regular mode sat exact' within
    intro r
    have result : r = (withSign f n.neg enc, roundFlags inexact tiny) := written.result
    have even : signedInt n.neg c % 2 = 0 → r.1 % 2 = 0 := by
      rw [result, withSign_parity regular, written.parity, signedInt_parity]
      exact id
    rw [result] at even ⊢
    refine ⟨magNum f n.neg enc, decodeFp_withSign regular _ written.finite, magNum_neg f n.neg enc, ?_⟩
    rw [written.value]
    have round := written.round
    refine ⟨fun nearest neg e _ => ?_, fun zero => ?_, fun down => ?_, fun up => ?_, ?_, fun b hb => roundFlags_above _ _ hb⟩
    · subst nearest
      obtain ⟨near, tie⟩ := rounded_nearest written.grid round neg e
      exact ⟨near, fun same ne => even (tie same ne)⟩
    · subst zero
      obtain ⟨below, best⟩ := rounded_toward_zero written.grid round
      exact ⟨below, fun e _ => best e⟩
    · subst down
      obtain ⟨below, best⟩ := rounded_down written.grid round
      exact ⟨below, fun neg e _ => best neg e⟩
    · subst up
      obtain ⟨above, best⟩ := rounded_up written.grid round
      exact ⟨above, fun neg e _ => best neg e⟩
    · rw [roundFlags_inexact]
      exact written.differs
  · intro free r
    refine ⟨fun bounded => ⟨?_, fun above => writeNum_to_max regular mode sat exact' low high round bounded above⟩, fun above => ?_⟩
    · have written : r = _ := writeNum_bounded mode sat exact' low high round bounded
      rw [written, roundFlags_under, roundFlags_inexact, Bool.and_eq_true, decide_eq_true_iff]
    · have written : r = _ := writeNum_unbounded mode sat exact' low high round above
      rw [written, overflowFp_of_code known]
      rfl

end Sys2Proof.Machine
end

section
/-! Selection, signs and comparison of floating-point elements (O26, 03 R85, 05 R171 and R173). -/

namespace Sys2Proof.Machine

/-! ### The order of values (R85) -/

theorem ltVal_fin (a b : Num) : ltVal (.fin a) (.fin b) = true ↔ a.rat < b.rat := by
  have unit : (0 : ℚ) < (2 : ℚ) ^ (if a.e < b.e then a.e else b.e) := by positivity
  rw [ltVal, decide_eq_true_iff, ← numUnits_mul a (q := if a.e < b.e then a.e else b.e) (by split <;> omega),
    ← numUnits_mul b (q := if a.e < b.e then a.e else b.e) (by split <;> omega), mul_lt_mul_iff_left₀ unit, Int.cast_lt]

theorem eqVal_fin (a b : Num) : eqVal (.fin a) (.fin b) = true ↔ a.rat = b.rat := by
  have unit : (0 : ℚ) < (2 : ℚ) ^ (if a.e < b.e then a.e else b.e) := by positivity
  rw [eqVal, beq_iff_eq, ← numUnits_mul a (q := if a.e < b.e then a.e else b.e) (by split <;> omega),
    ← numUnits_mul b (q := if a.e < b.e then a.e else b.e) (by split <;> omega), mul_left_inj' unit.ne', Int.cast_inj]

/-- The order of finite and infinite values is that of the rationals with the infinities at its ends. -/
def FVal.ext : FVal → WithTop (WithBot ℚ)
  | .nan _ => ⊤
  | .inf s => if s then ((⊥ : WithBot ℚ) : WithTop (WithBot ℚ)) else ⊤
  | .fin n => ((n.rat : WithBot ℚ) : WithTop (WithBot ℚ))

theorem ltVal_iff {x y : FVal} (hx : isNan x = false) (hy : isNan y = false) : ltVal x y = true ↔ x.ext < y.ext := by
  cases x with
  | nan _ => exact absurd hx.symm Bool.false_ne_true
  | inf p =>
    cases y with
    | nan _ => exact absurd hy.symm Bool.false_ne_true
    | inf q => cases p <;> cases q <;> simp [ltVal, FVal.ext]
    | fin b =>
      cases p
      · simp [ltVal, FVal.ext]
      · exact iff_of_true rfl (WithTop.coe_lt_coe.2 (WithBot.bot_lt_coe _))
  | fin a =>
    cases y with
    | nan _ => exact absurd hy.symm Bool.false_ne_true
    | inf q => cases q <;> simp [ltVal, FVal.ext]
    | fin b => simp [ltVal_fin, FVal.ext]

theorem eqVal_iff {x y : FVal} (hx : isNan x = false) (hy : isNan y = false) : eqVal x y = true ↔ x.ext = y.ext := by
  cases x with
  | nan _ => exact absurd hx.symm Bool.false_ne_true
  | inf p =>
    cases y with
    | nan _ => exact absurd hy.symm Bool.false_ne_true
    | inf q => cases p <;> cases q <;> simp [eqVal, FVal.ext]
    | fin b => cases p <;> simp [eqVal, FVal.ext]
  | fin a =>
    cases y with
    | nan _ => exact absurd hy.symm Bool.false_ne_true
    | inf q => cases q <;> simp [eqVal, FVal.ext]
    | fin b => simp [eqVal_fin, FVal.ext]

theorem isNan_of_ltVal {x y : FVal} (h : ltVal x y = true) : isNan x = false ∧ isNan y = false := by
  cases x <;> cases y <;> simp [isNan, ltVal] at h ⊢

theorem isNan_of_eqVal {x y : FVal} (h : eqVal x y = true) : isNan x = false ∧ isNan y = false := by
  cases x <;> cases y <;> simp [isNan, eqVal] at h ⊢

/-! ### The lesser and the greater of two (R85) -/

/-- x is no greater than y, -0 below +0. -/
def FVal.below (x y : FVal) : Prop := ltVal y x = false ∧ (eqVal x y = true → signOf y = true → signOf x = true)

/-- x is chosen before y as the lesser. -/
def FVal.precedes (x y : FVal) : Bool := ltVal x y || (eqVal x y && signOf x && !signOf y)

section

variable {x y : FVal} (hx : isNan x = false) (hy : isNan y = false)
include hx

theorem below_refl : x.below x := ⟨Bool.eq_false_iff.2 fun h => lt_irrefl _ ((ltVal_iff hx hx).1 h), fun _ => id⟩

include hy

theorem below_of_precedes (h : x.precedes y = true) : x.below y := by
  rw [FVal.precedes, Bool.or_eq_true, Bool.and_eq_true, Bool.and_eq_true, ltVal_iff hx hy, eqVal_iff hx hy] at h
  refine ⟨Bool.eq_false_iff.2 fun less => ?_, fun same _ => ?_⟩
  · rw [ltVal_iff hy hx] at less
    exact h.elim (fun greater => lt_asymm less greater) fun ⟨⟨same, _⟩, _⟩ => less.ne same.symm
  · rw [eqVal_iff hx hy] at same
    exact h.elim (fun less => absurd same less.ne) fun ⟨⟨_, sign⟩, _⟩ => sign

theorem below_of_not_precedes (h : x.precedes y = false) : y.below x := by
  rw [FVal.precedes, Bool.or_eq_false_iff] at h
  obtain ⟨notLess, notSame⟩ := h
  refine ⟨notLess, fun same sign => ?_⟩
  rw [eqVal_iff hy hx, eq_comm, ← eqVal_iff hx hy] at same
  simpa [same, sign] using notSame

theorem ltVal_or_eqVal : (ltVal x y || eqVal x y) = !ltVal y x := by
  rw [Bool.eq_iff_iff, Bool.or_eq_true, Bool.not_eq_true', ← Bool.not_eq_true, ltVal_iff hx hy, eqVal_iff hx hy, ltVal_iff hy hx, not_lt,
    le_iff_lt_or_eq]

end

theorem selectFp_nan {f : FFmt} {max : Bool} {a b : Nat} (h : isNan (decodeFp f a) = true ∨ isNan (decodeFp f b) = true) :
    selectFp f max a b = f.nan := by
  unfold selectFp
  dsimp only
  rw [if_pos (by rwa [Bool.or_eq_true])]

theorem selectFp_eq {f : FFmt} {max : Bool} {a b : Nat} (ha : isNan (decodeFp f a) = false) (hb : isNan (decodeFp f b) = false) :
    selectFp f max a b = if (decodeFp f a).precedes (decodeFp f b) = max then b else a := by
  unfold selectFp
  dsimp only
  rw [if_neg (by simp [ha, hb])]
  simp only [beq_iff_eq]
  rfl

/-- The lesser of two values that are no NaN is one of them and no greater than either. -/
theorem selectFp_min {f : FFmt} {a b : Nat} (ha : isNan (decodeFp f a) = false) (hb : isNan (decodeFp f b) = false) :
    let r := selectFp f false a b
    (r = a ∨ r = b) ∧ (decodeFp f r).below (decodeFp f a) ∧ (decodeFp f r).below (decodeFp f b) := by
  rw [selectFp_eq ha hb]
  cases less : (decodeFp f a).precedes (decodeFp f b)
  · exact ⟨.inr rfl, below_of_not_precedes ha hb less, below_refl hb⟩
  · exact ⟨.inl rfl, below_refl ha, below_of_precedes ha hb less⟩

/-- The greater of two values that are no NaN is one of them and no less than either. -/
theorem selectFp_max {f : FFmt} {a b : Nat} (ha : isNan (decodeFp f a) = false) (hb : isNan (decodeFp f b) = false) :
    let r := selectFp f true a b
    (r = a ∨ r = b) ∧ (decodeFp f a).below (decodeFp f r) ∧ (decodeFp f b).below (decodeFp f r) := by
  rw [selectFp_eq ha hb]
  cases less : (decodeFp f a).precedes (decodeFp f b)
  · exact ⟨.inl rfl, below_refl ha, below_of_not_precedes ha hb less⟩
  · exact ⟨.inr rfl, below_of_precedes ha hb less, below_refl hb⟩

theorem selectFp_lt {f : FFmt} (fits : f.Fits) (max : Bool) {a b : Nat} (ha : a < 2 ^ f.width) (hb : b < 2 ^ f.width) :
    selectFp f max a b < 2 ^ f.width := by
  unfold selectFp
  dsimp only
  split
  · exact fits.nan
  · split
    · exact hb
    · exact ha

/-- Inverting the top bit of a number of k + 1 bits. -/
theorem xor_top {x k : Nat} (h : x < 2 ^ (k + 1)) : x ^^^ 2 ^ k = (2 ^ k + x) % 2 ^ (k + 1) := by
  refine Nat.eq_of_testBit_eq fun i => ?_
  rw [Nat.testBit_xor, Nat.testBit_mod_two_pow, Nat.testBit_two_pow]
  rcases Nat.lt_trichotomy i k with lt | rfl | gt
  · rw [Nat.testBit_two_pow_add_gt lt]
    simp [lt.ne', Nat.lt_succ_of_lt lt]
  · rw [Nat.testBit_two_pow_add_eq]
    simp
  · rw [Nat.testBit_lt_two_pow (h.trans_le (Nat.pow_le_pow_right (by decide) gt))]
    simp [gt.ne, Nat.not_lt.2 (Nat.succ_le_of_lt gt)]

/-- What VFNEG makes of an encoding: the canonical NaN of a NaN, else its sign bit inverted (R173). -/
def flipSign (f : FFmt) (x : Nat) : Nat := if isNan (decodeFp f x) then f.nan else x ^^^ 2 ^ (f.ew + f.mw)

/-- What VFABS makes of an encoding: the canonical NaN of a NaN, else its sign bit cleared (R173). -/
def clearSign (f : FFmt) (x : Nat) : Nat := if isNan (decodeFp f x) then f.nan else x % 2 ^ (f.ew + f.mw)

theorem FFmt.width_succ (f : FFmt) : f.width = f.ew + f.mw + 1 := by
  unfold FFmt.width
  omega

section

variable {f : FFmt} (fits : f.Fits) {x : Nat}
include fits

theorem clearSign_lt : clearSign f x < 2 ^ f.width := by
  unfold clearSign
  split
  · exact fits.nan
  · exact lt_two_pow_of_le (Nat.mod_lt _ (Nat.two_pow_pos _)) (by rw [f.width_succ]; omega)

theorem flipSign_lt (h : x < 2 ^ f.width) : flipSign f x < 2 ^ f.width := by
  unfold flipSign
  split
  · exact fits.nan
  · exact Nat.xor_lt_two_pow h (Nat.pow_lt_pow_right (by decide) (by rw [f.width_succ]; omega))

end

/-! ### Lanes without flags and lanes of predicates (R156, R159) -/

theorem mergeLanes_eq (t : Strand) (pg : PReg) (W w : Nat) (old : Vec) (f : Nat → Nat) :
    mergeLanes t pg W w old f = (mergeFlags t pg W w old fun i => (f i, 0)).1 := by
  rw [mergeFlags_fst, mergeLanes]
  refine congrArg (ofElems w) (List.map_congr_left fun i _ => ?_)
  unfold laneResult
  split <;> rfl

theorem elemAt_mergeLanes (t : Strand) (pg : PReg) {W w : Nat} (old : Vec) {f : Nat → Nat} (wide : w ≤ W) (bound : ∀ i, f i < 2 ^ w) {i : Nat}
    (hi : i < 512 / W) : elemAt w (mergeLanes t pg W w old f) i = if laneActive t pg W i then f i else elemAt w old i := by
  rw [mergeLanes_eq, elemAt_mergeFlags t pg old wide bound hi]
  unfold laneResult
  split <;> rfl

theorem getLsbD_putBit {m : Nat} (w : BitVec m) (b : Nat) (v : Bool) {i : Nat} (hi : i < m) :
    (putBit w b v).getLsbD i = if i = b then v else w.getLsbD i := by
  rw [putBit, getLsbD_putBits _ _ hi]
  by_cases same : i = b
  · subst same
    simp
  · rw [if_neg (by omega), if_neg same]

theorem getLsbD_foldl_putBit (g : Nat → Bool) (p : Nat → Nat) (l : List Nat) (acc : Word) {q : Nat} (hq : q < 64) :
    (l.foldl (fun acc i => if g i then putBit acc (p i) true else acc) acc).getLsbD q = true ↔
      acc.getLsbD q = true ∨ ∃ j ∈ l, q = p j ∧ g j = true := by
  induction l generalizing acc with
  | nil => simp
  | cons j l ih =>
    rw [List.foldl_cons, ih]
    cases hg : g j
    · simp [hg]
    · rw [if_pos rfl, getLsbD_putBit _ _ _ hq]
      by_cases same : q = p j
      · simp [same, hg]
      · simp [same]

/-- A predicate result has a lane's bit where its test holds, and no other (R156). -/
theorem getLsbD_lanesPred (W : Nat) (g : Nat → Bool) {q : Nat} (hq : q < 64) :
    (lanesPred W g).getLsbD q = true ↔ ∃ j, j < 512 / W ∧ q = W / 8 * j ∧ g j = true := by
  rw [lanesPred, getLsbD_foldl_putBit g _ _ _ hq]
  simp

/-! ### The instructions -/

theorem fmtBits_lanes {c : Nat} (h6 : 6 ≤ c) (h10 : c ≤ 10) : fmtBits c = 8 ∨ fmtBits c = 16 ∨ fmtBits c = 32 := by
  interval_cases c <;> decide

/-- Between two of the floating widths there is a whole number of lanes, the predicate bits of which lie within a predicate. -/
theorem predicate_bits {W : Nat} (h : W = 8 ∨ W = 16 ∨ W = 32) {j : Nat} (hj : j < 512 / W) : W / 8 * j < 64 ∧ W / 8 ≠ 0 := by
  rcases h with rfl | rfl | rfl <;> omega

section

variable {s : State} {et : FpEt} (agent : s.agent = .strand) (unbound : s.unbound)
include agent unbound

/-- A selecting form completes with its lanes and consumes a prefix that overrides nothing (R55, R173). -/
theorem fpSelect_completes (i : Instr) (d a b : VReg) (pg : PReg) (f : FFmt → Nat → Nat → Nat)
    (admitted : stPP s.strand.status = true → acceptNone (overrides s.strand.status) = true) :
    s.fpSelect i et d a b pg f = .next (s.past { s.strand.setV d (mergeLanes s.strand pg (fmtBits (fpFmt et)) (fmtBits (fpFmt et))
      (s.strand.getV d) fun j => f (ffmtOf (fpFmt et)) (elemAt (fmtBits (fpFmt et)) (s.strand.getV a) j)
        (elemAt (fmtBits (fpFmt et)) (s.strand.getV b) j)) with status := setPP s.strand.status false }) :=
  State.vecWrite_completes agent unbound (fun pending => by rw [← overrides_of_pending pending]; exact admitted pending) rfl

/-- A comparison completes with its predicate and consumes its prefix (R55, R171). -/
theorem fpCmp_completes (i : Instr) (d : PReg) (a b : VReg) (pg : PReg) (g : FVal → FVal → Bool)
    (admitted : stPP s.strand.status = true → acceptCompare (overrides s.strand.status) = true) :
    s.fpCmp i et d a b pg g = .next (s.past { s.strand.setP d (comparePred s.strand pg
      (Nat.max (fmtBits (arithFa s.strand et)) (fmtBits (arithFb s.strand et))) fun j =>
        g (fpElem (arithFa s.strand et) (s.strand.getV a) j) (fpElem (arithFb s.strand et) (s.strand.getV b) j)) with
      status := setPP s.strand.status false }) :=
  State.runVec_of_unbound (g := fun u => u.setP d _) agent unbound
    (fun pending => by rw [← overrides_of_pending pending]; exact admitted pending) rfl

end

/-- Settles O26: the order of values by the rationals, then one frame for the selecting forms and one for the comparisons. -/
theorem floatingSelectAndCompare : Obligations.FloatingSelectAndCompare := by
  refine ⟨fun a b _ _ => ⟨ltVal_fin a b, eqVal_fin a b, rfl, fun p q => ⟨rfl, rfl, rfl, rfl, rfl, rfl, rfl⟩⟩,
    fun s et d a b pd pg agent unbound => ?_⟩
  intro t o inherits done f w act A B nan lanes picks below' fa fb W x y bits
  obtain ⟨lo, hi⟩ := fpFmt_mem et
  obtain ⟨fits, width⟩ := ffmtOf_fits lo hi
  refine ⟨fun none' => ?_, fun formats => ?_⟩
  · have admitted (pending : stPP t.status = true) : acceptNone o = true := by
      obtain ⟨hfd, hrm, hsat⟩ := inherits pending
      obtain ⟨hfa, hfb⟩ := none' pending
      simp [acceptNone, modesNone, hfa, hfb, hfd, hrm, hsat]
    have fill (i : Instr) (a b : VReg) (g : FFmt → Nat → Nat → Nat) (p : Nat → Nat → Prop) (h : exec i s = s.fpSelect i et d a b pg g)
        (bound : ∀ j, g f (elemAt w (t.getV a) j) (elemAt w (t.getV b) j) < 2 ^ w)
        (lane : ∀ j, p j (g f (elemAt w (t.getV a) j) (elemAt w (t.getV b) j))) : lanes i p := by
      refine ⟨_, h.trans (fpSelect_completes agent unbound i d a b pg g admitted), fun j hj => ?_⟩
      rw [elemAt_mergeLanes t pg _ (le_refl w) bound hj]
      refine ⟨fun active => ?_, fun idle => if_neg (mt (laneActive_iff ..).1 idle)⟩
      rw [if_pos ((laneActive_iff ..).2 active)]
      exact lane j
    have small (v : Vec) (j : Nat) : elemAt w v j < 2 ^ f.width := (elemAt_lt w v j).trans_eq (congrArg (2 ^ ·) width.symm)
    have nan_lt : f.nan < 2 ^ w := fits.nan.trans_eq (congrArg (2 ^ ·) width)
    have top : w = f.ew + f.mw + 1 := width.symm.trans f.width_succ
    refine ⟨?_, ?_, ?_, ?_⟩
    · refine fill _ a b (fun f x y => selectFp f false x y) _ rfl (fun j =>
        (selectFp_lt fits _ (small _ j) (small _ j)).trans_eq (congrArg (2 ^ ·) width)) fun j => ?_
      by_cases some : nan (A j) ∨ nan (B j)
      · exact (if_pos some).mpr (selectFp_nan some)
      · obtain ⟨ha, hb⟩ := not_or.1 some
        exact (if_neg some).mpr (selectFp_min (Bool.eq_false_iff.2 ha) (Bool.eq_false_iff.2 hb))
    · refine fill _ a b (fun f x y => selectFp f true x y) _ rfl (fun j =>
        (selectFp_lt fits _ (small _ j) (small _ j)).trans_eq (congrArg (2 ^ ·) width)) fun j => ?_
      by_cases some : nan (A j) ∨ nan (B j)
      · exact (if_pos some).mpr (selectFp_nan some)
      · obtain ⟨ha, hb⟩ := not_or.1 some
        exact (if_neg some).mpr (selectFp_max (Bool.eq_false_iff.2 ha) (Bool.eq_false_iff.2 hb))
    · obtain ⟨r, completes, elems⟩ := fill (.vfabs et d a pg) a a (fun f x _ => clearSign f x) (fun j r => r = clearSign f (A j)) rfl
        (fun j => (clearSign_lt fits).trans_eq (congrArg (2 ^ ·) width)) fun j => rfl
      refine ⟨r, completes, fun j hj => ⟨fun active => ((elems j hj).1 active).trans ?_, (elems j hj).2⟩⟩
      rw [top]
      rfl
    · obtain ⟨r, completes, elems⟩ := fill (.vfneg et d a pg) a a (fun f x _ => flipSign f x) (fun j r => r = flipSign f (A j)) rfl
        (fun j => (flipSign_lt fits (small _ j)).trans_eq (congrArg (2 ^ ·) width)) fun j => rfl
      refine ⟨r, completes, fun j hj => ⟨fun active => ((elems j hj).1 active).trans ?_, (elems j hj).2⟩⟩
      have flipped := xor_top (x := A j) (k := f.ew + f.mw) ((elemAt_lt w _ j).trans_eq (congrArg (2 ^ ·) top))
      rw [top, Nat.add_sub_cancel, Nat.add_comm (A j), ← flipped]
      rfl
  · have admitted (pending : stPP t.status = true) : acceptCompare o = true := by
      obtain ⟨hfd, hrm, hsat⟩ := inherits pending
      obtain ⟨hfa, hfb⟩ := formats pending
      rw [acceptCompare, (fieldIn_iff ..).2 hfa, (fieldIn_iff ..).2 hfb]
      simp [modesNone, hfd, hrm, hsat]
    have inForce {o : Nat} (h : stPP t.status = true → o = 31 ∨ 6 ≤ o ∧ o ≤ 10) (clear : stPP t.status = false → o = 31) :
        fmtBits (effFmt o (fpFmt et)) = 8 ∨ fmtBits (effFmt o (fpFmt et)) = 16 ∨ fmtBits (effFmt o (fpFmt et)) = 32 := by
      have known : o = 31 ∨ 6 ≤ o ∧ o ≤ 10 := by
        cases pending : stPP t.status
        · exact .inl (clear pending)
        · exact h pending
      obtain ⟨lo, hi⟩ := effFmt_mem et (le_refl 10) known
      exact fmtBits_lanes lo hi
    have widths : W = 8 ∨ W = 16 ∨ W = 32 := by
      have left : fmtBits fa = 8 ∨ fmtBits fa = 16 ∨ fmtBits fa = 32 :=
        inForce (fun pending => (formats pending).1) fun clear => congrArg Overrides.fa (overrides_of_clear clear)
      have right : fmtBits fb = 8 ∨ fmtBits fb = 16 ∨ fmtBits fb = 32 :=
        inForce (fun pending => (formats pending).2) fun clear => congrArg Overrides.fb (overrides_of_clear clear)
      exact (max_choice (fmtBits fa) (fmtBits fb)).elim (fun (h : W = _) => h.symm ▸ left) fun (h : W = _) => h.symm ▸ right
    have compare (i : Instr) (test g : FVal → FVal → Bool) (h : exec i s = s.fpCmp i et pd a b pg g)
        (same : ∀ x y, g x y = true ↔ isNan x = false ∧ isNan y = false ∧ test x y = true) : bits i test := by
      refine ⟨_, h.trans (fpCmp_completes agent unbound i pd a b pg g admitted), fun j hj => ?_, fun q hq => ?_⟩
      · obtain ⟨inside, unit⟩ := predicate_bits widths hj
        rw [comparePred, getLsbD_lanesPred _ _ inside]
        constructor
        · rintro ⟨i, -, bit, tested⟩
          obtain rfl : j = i := Nat.eq_of_mul_eq_mul_left (Nat.pos_of_ne_zero unit) bit
          obtain ⟨active, holds⟩ := Bool.and_eq_true_iff.1 tested
          exact ⟨(laneActive_iff ..).1 active, (same _ _).1 holds⟩
        · rintro ⟨active, holds⟩
          exact ⟨j, hj, rfl, Bool.and_eq_true_iff.2 ⟨(laneActive_iff ..).2 active, (same _ _).2 holds⟩⟩
      · rcases Nat.lt_or_ge q 64 with inside | outside
        · refine Bool.eq_false_iff.2 fun set => ?_
          rw [comparePred, getLsbD_lanesPred _ _ inside] at set
          obtain ⟨i, -, rfl, -⟩ := set
          exact hq (Nat.mul_mod_right _ _)
        · exact BitVec.getLsbD_of_ge _ _ outside
    refine ⟨compare _ eqVal eqVal rfl fun x y => ?_, compare _ ltVal ltVal rfl fun x y => ?_,
      compare _ (fun x y => !ltVal y x) (fun x y => ltVal x y || eqVal x y) rfl fun x y => ?_⟩
    · exact ⟨fun h => ⟨(isNan_of_eqVal h).1, (isNan_of_eqVal h).2, h⟩, fun ⟨_, _, h⟩ => h⟩
    · exact ⟨fun h => ⟨(isNan_of_ltVal h).1, (isNan_of_ltVal h).2, h⟩, fun ⟨_, _, h⟩ => h⟩
    · refine ⟨fun h => ?_, fun ⟨hx, hy, h⟩ => (ltVal_or_eqVal hx hy).trans h⟩
      obtain ⟨hx, hy⟩ := (Bool.or_eq_true_iff.1 h).elim isNan_of_ltVal isNan_of_eqVal
      exact ⟨hx, hy, (ltVal_or_eqVal hx hy).symm.trans h⟩

end Sys2Proof.Machine
end

section
/-! Conversions to integers, scales and codes (O28, 03 R80, R81, R83 and R101 to R105). -/

namespace Sys2Proof.Machine

/-! ### Integers (R80, R81) -/

/-- `roundAt` to whole units. -/
theorem roundAt_whole (mode : Mode) {n : Num} {x : ℚ} (stands : n.standsFor x) (fine : n.st = true → n.e < 0) {k : ℤ}
    (round : roundsTo mode x k) : signedInt n.neg (roundAt mode n 0).1 = k ∧ ((roundAt mode n 0).2 = true ↔ (k : ℚ) ≠ x) := by
  obtain ⟨rounded, differs⟩ := roundAt_roundsTo mode (q := 0) stands fine
  rw [zpow_zero, div_one] at rounded
  rw [zpow_zero, mul_one] at differs
  have same := roundsTo_unique rounded round
  exact ⟨same, same ▸ differs⟩

theorem toIntClamped_fin (mode : Mode) (lo hi : ℤ) {n : Num} {k : ℤ} (exact' : n.st = false) (round : roundsTo mode n.rat k) :
    toIntClamped mode lo hi (.fin n) = if k < lo then (lo, fgInvalid ||| fgSat ||| fgInexact)
      else if hi < k then (hi, fgInvalid ||| fgSat ||| fgInexact) else (k, if (k : ℚ) = n.rat then 0 else fgInexact) := by
  obtain ⟨count, inexact⟩ := roundAt_whole mode (standsFor_rat exact') (fun st => absurd (exact'.symm.trans st) Bool.false_ne_true) round
  have flag : fgIf (roundAt mode n 0).2 fgInexact = if (k : ℚ) = n.rat then 0 else fgInexact := by
    unfold fgIf
    by_cases same : (k : ℚ) = n.rat
    · rw [if_pos same, if_neg fun set => inexact.1 set same]
    · rw [if_neg same, if_pos (inexact.2 same)]
  rw [← flag, ← count]
  rfl

theorem intVal_rat (k : ℤ) : ∃ n : Num, intVal k = .fin n ∧ n.st = false ∧ n.rat = k := by
  refine ⟨_, rfl, rfl, ?_⟩
  have sign : signedInt (decide (k < 0)) k.natAbs = k := by
    unfold signedInt
    split
    next neg => rw [decide_eq_true_eq] at neg; omega
    next pos => rw [decide_eq_true_eq] at pos; omega
  rw [Num.rat_eq_signedRat, zpow_zero, mul_one, signedRat_cast, sign]

/-! ### Scales (R83, R102) -/

theorem decodeE8m0_value {b : Nat} (small : b < 256) (number : b ≠ 255) : ∃ n : Num, decodeE8m0 b = .fin n ∧ n.neg = false ∧ n.st = false ∧
    n.rat = (2 : ℚ) ^ ((b : ℤ) - 127) := by
  refine ⟨{ neg := false, m := 1, e := (b : ℤ) - 127 }, ?_, rfl, rfl, ?_⟩
  · rw [decodeE8m0, Nat.mod_eq_of_lt small, if_neg number]
  · simp [Num.rat]

theorem isZero_iff_eqVal {v : FVal} (number : isNan v = false) : isZero v = true ↔ eqVal v (.fin { neg := false, m := 0, e := 0 }) = true := by
  cases v with
  | nan _ => exact absurd number.symm Bool.false_ne_true
  | inf _ => exact iff_of_false Bool.false_ne_true Bool.false_ne_true
  | fin n =>
    have zero : ({ neg := false, m := 0, e := 0 } : Num).rat = 0 := by simp [Num.rat]
    rw [eqVal_fin, zero, Num.rat_eq_signedRat, isZero, beq_iff_eq]
    unfold signedRat
    have unit : (2 : ℚ) ^ n.e ≠ 0 := by positivity
    split <;> simp [unit]

/-! ### Quotients (R104, R174) -/

theorem bitLen_pos {m : Nat} (h : m ≠ 0) : 0 < bitLen m := by
  rw [bitLen, if_neg h]
  exact Nat.succ_pos _

theorem Num.rat_abs (n : Num) : |n.rat| = n.m * (2 : ℚ) ^ n.e := by
  rw [Num.rat_eq_signedRat, abs_signedRat _ (by positivity)]

theorem signedRat_div_signedRat (p q : Bool) (y z : ℚ) : signedRat p y / signedRat q z = signedRat (p != q) (y / z) := by
  unfold signedRat
  cases p <;> cases q <;> simp [neg_div, div_neg]

/-- The quotient of two values in units of the least that `divNum` forms. -/
theorem quotient_units (a b : Num) (k : Nat) : a.rat / b.rat =
    signedRat (a.neg != b.neg) (((a.m * 2 ^ k : Nat) : ℚ) / b.m * (2 : ℚ) ^ (a.e - b.e - k)) := by
  have unit : (2 : ℚ) ^ b.e ≠ 0 := by positivity
  rw [a.rat_eq_signedRat, b.rat_eq_signedRat, signedRat_div_signedRat, zpow_sub₀ two_ne_zero, zpow_sub₀ two_ne_zero]
  congr 1
  push_cast
  field_simp
  rw [zpow_natCast]

/-- A quotient in units of which 2^k make one of the dividend's over the divisor's. -/
def divUnits (a b : Num) (k : Nat) : Num :=
  { neg := a.neg != b.neg
    m := a.m * 2 ^ k / b.m
    e := a.e - b.e - k
    st := a.m * 2 ^ k % b.m != 0 }

theorem divNum_eq {a b : Num} (h : a.m ≠ 0) : divNum a b = divUnits a b (bitLen b.m + 80) := if_neg h

theorem divUnits_standsFor (a b : Num) (k : Nat) (nonzero : b.m ≠ 0) : (divUnits a b k).standsFor (a.rat / b.rat) := by
  have positive : 0 < b.m := Nat.pos_of_ne_zero nonzero
  have divisor : (0 : ℚ) < b.m := by exact_mod_cast positive
  have unit : (0 : ℚ) < (2 : ℚ) ^ (a.e - b.e - k) := by positivity
  rw [quotient_units a b k, divUnits, Num.standsFor]
  generalize a.m * 2 ^ k = N
  have split : (N : ℚ) = b.m * (N / b.m : Nat) + (N % b.m : Nat) := by exact_mod_cast (Nat.div_add_mod N b.m).symm
  by_cases whole : N % b.m = 0
  · have same : ((N / b.m : Nat) : ℚ) = N / b.m := by
      rw [whole, Nat.cast_zero, add_zero] at split
      rw [split, mul_div_cancel_left₀ _ divisor.ne']
    simp only [whole, bne_self_eq_false, Bool.false_eq_true, if_false]
    rw [Num.rat_eq_signedRat, ← same]
  · have rest : (0 : ℚ) < (N % b.m : Nat) := by exact_mod_cast Nat.pos_of_ne_zero whole
    have room : ((N % b.m : Nat) : ℚ) < b.m := by exact_mod_cast Nat.mod_lt N positive
    have quotient : 0 < (N : ℚ) / b.m := div_pos (by have := Nat.cast_nonneg (α := ℚ) (N / b.m); nlinarith) divisor
    have low : ((N / b.m : Nat) : ℚ) < N / b.m := by
      rw [lt_div_iff₀ divisor]
      linarith
    have high : (N : ℚ) / b.m < (N / b.m : Nat) + 1 := by
      rw [div_lt_iff₀ divisor]
      linarith
    rw [if_pos (by simpa using whole), abs_signedRat _ (mul_pos quotient unit).le]
    refine ⟨?_, mul_lt_mul_of_pos_right low unit, mul_lt_mul_of_pos_right high unit⟩
    unfold signedRat
    split
    · exact neg_lt_zero.2 (mul_pos quotient unit)
    · exact mul_pos quotient unit

theorem rat_of_zero {a : Num} (h : a.m = 0) : a.rat = 0 := by simp [Num.rat, h]

section

variable (a : Num) {b : Num} (nonzero : b.m ≠ 0)

theorem divNum_neg : (divNum a b).neg = (a.neg != b.neg) := by
  unfold divNum
  split <;> rfl

include nonzero

/-- A quotient by a value that is not zero is exact or has its sticky mark. -/
theorem divNum_standsFor : (divNum a b).standsFor (a.rat / b.rat) := by
  by_cases zero : a.m = 0
  · have formed : divNum a b = { neg := a.neg != b.neg, m := 0, e := 0 } := if_pos zero
    rw [formed, rat_of_zero zero, zero_div, Num.standsFor, if_neg Bool.false_ne_true]
    exact rat_of_zero rfl
  · rw [divNum_eq zero]
    generalize bitLen b.m + 80 = k
    exact divUnits_standsFor a b k nonzero

omit nonzero in
theorem divNum_sticky_iff : (divNum a b).st = true ↔ ¬ b.m ∣ a.m * 2 ^ (bitLen b.m + 80) := by
  by_cases zero : a.m = 0
  · have formed : divNum a b = { neg := a.neg != b.neg, m := 0, e := 0 } := if_pos zero
    rw [formed]
    exact iff_of_false Bool.false_ne_true (by simp [zero])
  · rw [divNum_eq zero, divUnits, bne_iff_ne, ne_eq, Nat.dvd_iff_mod_eq_zero]

/-- A quotient with its sticky mark has many digits. -/
theorem divNum_wide (sticky : (divNum a b).st = true) : 2 ^ 80 ≤ (divNum a b).m ∧ (divNum a b).e = a.e - b.e - (bitLen b.m + 80 : Nat) := by
  have zero : a.m ≠ 0 := fun zero => (divNum_sticky_iff a).1 sticky (by simp [zero])
  rw [divNum_eq zero]
  refine ⟨?_, rfl⟩
  rw [divUnits, Nat.le_div_iff_mul_le (Nat.pos_of_ne_zero nonzero)]
  calc 2 ^ 80 * b.m ≤ 2 ^ 80 * 2 ^ bitLen b.m := Nat.mul_le_mul_left _ (lt_two_pow_bitLen b.m).le
    _ = 2 ^ (bitLen b.m + 80) := by rw [← Nat.pow_add, Nat.add_comm]
    _ ≤ a.m * 2 ^ (bitLen b.m + 80) := Nat.le_mul_of_pos_left _ (Nat.pos_of_ne_zero zero)

end

/-! ### Codes (R101, R104) -/

/-- A power of two beyond a number's length adds no divisor to a product. -/
theorem dvd_of_dvd_two_pow {b a j k : Nat} (nonzero : b ≠ 0) (wide : bitLen b ≤ k) (h : b ∣ a * 2 ^ j) : b ∣ a * 2 ^ k := by
  obtain ⟨v, o, odd, rfl⟩ := Nat.exists_eq_two_pow_mul_odd nonzero
  have small : v ≤ k := by
    have : 2 ^ v < 2 ^ bitLen (2 ^ v * o) :=
      (Nat.le_mul_of_pos_right _ odd.pos).trans_lt (lt_two_pow_bitLen _)
    have := (Nat.pow_lt_pow_iff_right (by decide)).1 this
    omega
  have left : o ∣ a := (Nat.Coprime.dvd_of_dvd_mul_right (odd.coprime_two_right.pow_right j) ((Nat.dvd_mul_left o _).trans h))
  rw [Nat.mul_comm (2 ^ v)]
  exact Nat.mul_dvd_mul left (Nat.pow_dvd_pow 2 small)

/-- A quotient of many digits is no integer, whatever its unit. -/
theorem divNum_sticky_ne_int (a : Num) {b : Num} (nonzero : b.m ≠ 0) (sticky : (divNum a b).st = true) (large : 0 ≤ (divNum a b).e) (j : ℤ) :
    (j : ℚ) ≠ a.rat / b.rat := by
  intro same
  obtain ⟨-, unit⟩ := divNum_wide a nonzero sticky
  refine (divNum_sticky_iff a).1 sticky (dvd_of_dvd_two_pow (j := (a.e - b.e).toNat) nonzero (by omega) ⟨j.natAbs, ?_⟩)
  have divisor : (0 : ℚ) < b.m := by exact_mod_cast Nat.pos_of_ne_zero nonzero
  have magnitude : (j.natAbs : ℚ) = a.m * 2 ^ (a.e - b.e).toNat / b.m := by
    have scaled : (2 : ℚ) ^ (a.e - b.e).toNat = (2 : ℚ) ^ a.e / (2 : ℚ) ^ b.e := by
      rw [← zpow_natCast, ← zpow_sub₀ two_ne_zero]
      congr 1
      omega
    rw [Nat.cast_natAbs, Int.cast_abs, same, abs_div, Num.rat_abs, Num.rat_abs, scaled]
    field_simp
  rw [eq_div_iff divisor.ne'] at magnitude
  have product : j.natAbs * b.m = a.m * 2 ^ (a.e - b.e).toNat := by exact_mod_cast magnitude
  rw [← product, Nat.mul_comm]

/-- i held within lo to hi. -/
def clamped (lo hi i : ℤ) : ℤ := if i < lo then lo else if hi < i then hi else i

theorem clamped_eq {lo hi : ℤ} (le : lo ≤ hi) (i : ℤ) : clamped lo hi i = max lo (min hi i) ∧ (clamped lo hi i ≠ i ↔ i < lo ∨ hi < i) := by
  unfold clamped
  split
  · omega
  · split <;> omega

/-- A value that is rounded and then clamped gives the clamped rounding of what it stands for. -/
theorem roundAt_clamped (mode : Mode) {n : Num} {x : ℚ} {k lo hi : ℤ} (stands : n.standsFor x) (round : roundsTo mode x k) (le : lo ≤ hi)
    (low : -2 ^ 80 < lo) (high : hi < 2 ^ 80) (wide : n.st = true → 2 ^ 80 ≤ n.m) (whole : n.st = true → 0 ≤ n.e → ∀ j : ℤ, (j : ℚ) ≠ x) :
    let i := signedInt n.neg (roundAt mode n 0).1
    clamped lo hi i = max lo (min hi k) ∧ (clamped lo hi i ≠ i ↔ k < lo ∨ hi < k) ∧ ((roundAt mode n 0).2 = true ↔ (k : ℚ) ≠ x) := by
  intro i
  by_cases fine : n.st = true → n.e < 0
  · obtain ⟨same, inexact⟩ := roundAt_whole mode stands fine round
    have ik : i = k := same
    rw [ik]
    exact ⟨(clamped_eq le k).1, (clamped_eq le k).2, inexact⟩
  · obtain ⟨sticky, large⟩ := Classical.not_imp.1 fine
    have large : 0 ≤ n.e := by omega
    obtain ⟨sign, -, within⟩ := Num.standsFor_magnitude stands
    have far : (2 : ℚ) ^ 80 ≤ |x| := by
      have unit : (1 : ℚ) ≤ (2 : ℚ) ^ n.e := one_le_zpow₀ (by norm_num) large
      have digits : (2 : ℚ) ^ 80 ≤ n.m := by exact_mod_cast wide sticky
      exact (digits.trans (le_mul_of_one_le_right (Nat.cast_nonneg _) unit)).trans (within sticky).1.le
    have rounded : roundAt mode n 0 = (n.m * 2 ^ (n.e - 0).toNat, true) := by rw [roundAt, if_pos large, sticky]
    have count : (2 : ℤ) ^ 80 ≤ (roundAt mode n 0).1 := by
      rw [rounded]
      exact_mod_cast (wide sticky).trans (Nat.le_mul_of_pos_right _ (Nat.two_pow_pos _))
    refine ⟨?_, ?_, iff_of_true (by rw [rounded]) (whole sticky large k)⟩
    all_goals
      rw [sign] at round
      unfold signedRat at round
      have ends := clamped_eq le i
      have signed : i = if n.neg then -((roundAt mode n 0).1 : ℤ) else ((roundAt mode n 0).1 : ℤ) := rfl
      split at round
      next neg =>
        have := roundsTo_le (b := -2 ^ 80) round (by push_cast; linarith)
        rw [if_pos neg] at signed
        omega
      next pos =>
        have := le_roundsTo (a := 2 ^ 80) round (by push_cast; linarith)
        rw [if_neg pos] at signed
        omega

/-! ### Quantisation (R104) -/

/-- The formats of codes that are floating-point ones. -/
def floatingCode (fd : Nat) : Prop := fd = 9 ∨ fd = 10 ∨ fd = 13

/-- A floating-point code is the quotient written once; a NaN or a scale that is a NaN or zero is handled apart. -/
theorem quantCode_floating {fd : Nat} {f : FFmt} (known : ffmt fd = some f) (floating : floatingCode fd) (mode : Mode) (sat e8 : Bool)
    (x : FVal) (scale : Nat) : quantCode fd mode sat e8 x scale =
      if isNan x then (if fd = 13 then ((if signOf x then 15 else 7), fgInvalid) else (f.nan, 0))
      else if isNan (scaleVal e8 scale) || isZero (scaleVal e8 scale) then (0, fgInvalid)
      else writeFp f mode sat (divScale x (scaleVal e8 scale)) := by
  rcases floating with rfl | rfl | rfl
  all_goals cases known
  · rfl
  · rfl
  · have nan : (writeNan fpE2m1 (signOf x)).1 = if signOf x then 15 else 7 := by cases signOf x <;> rfl
    rw [← nan]
    rfl

/-- The width of an integer code (R101). -/
def codeWidth (fd : Nat) : Nat := if fd = 12 then 3 else 4

section

variable {fd : Nat} (integer : fd = 11 ∨ fd = 12) (mode : Mode) (sat e8 : Bool) (scale : Nat)
include integer

theorem quantCode_integer_invalid {x : FVal} (h : isNan x = true ∨ isNan (scaleVal e8 scale) = true ∨ isZero (scaleVal e8 scale) = true) :
    quantCode fd mode sat e8 x scale = (0, fgInvalid) := by
  have group : quantCode fd mode sat e8 x scale = quantise fd mode sat e8 x scale := by rcases integer with rfl | rfl <;> rfl
  have notFloating : fd ≠ 13 := by omega
  rw [group, quantise]
  by_cases nan : isNan x = true
  · rw [if_pos nan, if_neg notFloating]
  · rw [if_neg nan, if_pos (by simpa [nan] using h)]

variable {b : Num} (number : scaleVal e8 scale = .fin b) (nonzero : b.m ≠ 0)
include number nonzero

theorem quantCode_integer_inf (p : Bool) : quantCode fd mode sat e8 (.inf p) scale =
    (wrapInt (codeWidth fd) (if p != b.neg then -((2 ^ (codeWidth fd - 1) : Nat) : ℤ) else (2 ^ (codeWidth fd - 1) : Nat) - 1),
      fgInvalid ||| fgSat) := by
  have zero : isZero (.fin b) = false := by simpa [isZero] using nonzero
  rcases integer with rfl | rfl
  all_goals
    simp only [quantCode, quantise, isGroup, number, zero, isNan, divScale, signOf]
    rfl

/-- An integer code is the quotient rounded and clamped. -/
theorem quantCode_integer_fin (a : Num) :
    let i := signedInt (divNum a b).neg (roundAt mode (divNum a b) 0).1
    let c := clamped (-((2 ^ (codeWidth fd - 1) : Nat) : ℤ)) ((2 ^ (codeWidth fd - 1) : Nat) - 1) i
    quantCode fd mode sat e8 (.fin a) scale =
      (wrapInt (codeWidth fd) c, fgIf (c != i) fgSat ||| fgIf (roundAt mode (divNum a b) 0).2 fgInexact) := by
  have zero : isZero (.fin b) = false := by simpa [isZero] using nonzero
  rcases integer with rfl | rfl
  all_goals
    simp only [quantCode, quantise, isGroup, number, zero, isNan, divScale]
    rfl

end

/-! ### The clauses of the obligation -/

theorem floating_quantisation {fd : Nat} {f : FFmt} (known : ffmt fd = some f) (floating : floatingCode fd) (mode : Mode) (sat e8 : Bool)
    (scale : Nat) :
    (∀ p, quantCode fd mode sat e8 (.nan p) scale = if fd = 13 then (if p then 15 else 7, fgInvalid) else (f.nan, 0)) ∧
    (∀ x, isNan x = false → (isNan (scaleVal e8 scale) = true ∨ eqVal (scaleVal e8 scale) (.fin { neg := false, m := 0, e := 0 }) = true) →
      quantCode fd mode sat e8 x scale = (0, fgInvalid)) ∧
    ∀ b : Num, scaleVal e8 scale = .fin b → b.m ≠ 0 →
      (∀ p, quantCode fd mode sat e8 (.inf p) scale = writeFp f mode sat (.inf (p != b.neg))) ∧
      ∀ a : Num, a.st = false → ∃ q : Num, quantCode fd mode sat e8 (.fin a) scale = writeFp f mode sat (.fin q) ∧
        q.neg = (a.neg != b.neg) ∧ q.standsFor (a.rat / b.rat) ∧ (q.st = true → 2 ^ 32 ≤ q.m) := by
  have code (x : FVal) := quantCode_floating known floating mode sat e8 x scale
  refine ⟨fun p => ?_, fun x number bad => ?_, fun b scaled nonzero => ?_⟩
  · exact (code _).trans (if_pos rfl)
  · rw [code, if_neg (by simp [number]), if_pos ?_]
    rw [Bool.or_eq_true]
    by_cases nan : isNan (scaleVal e8 scale) = true
    · exact .inl nan
    · exact .inr ((isZero_iff_eqVal (Bool.eq_false_iff.2 nan)).2 (bad.resolve_left nan))
  · have usable : (isNan (scaleVal e8 scale) || isZero (scaleVal e8 scale)) = false := by
      rw [scaled]
      simpa [isNan, isZero] using nonzero
    refine ⟨fun p => ?_, fun a _ => ⟨divNum a b, ?_, divNum_neg a, divNum_standsFor a nonzero, fun sticky => ?_⟩⟩
    · rw [code, usable, scaled]
      rfl
    · rw [code, usable, scaled]
      rfl
    · exact le_trans (by norm_num) (divNum_wide a nonzero sticky).1

theorem integer_quantisation {fd : Nat} (integer : fd = 11 ∨ fd = 12) (mode : Mode) (sat e8 : Bool) (scale : Nat) :
    let w := if fd = 11 then 4 else 3
    let lo : Int := -(2 ^ (w - 1))
    let hi : Int := 2 ^ (w - 1) - 1
    let code (k : Int) : Nat := (k % (2 ^ w : Nat)).toNat
    (∀ x, (isNan x = true ∨ isNan (scaleVal e8 scale) = true ∨
        eqVal (scaleVal e8 scale) (.fin { neg := false, m := 0, e := 0 }) = true) →
      quantCode fd mode sat e8 x scale = (0, fgInvalid)) ∧
    ∀ b : Num, scaleVal e8 scale = .fin b → b.m ≠ 0 →
      (∀ p, quantCode fd mode sat e8 (.inf p) scale = (code (if p = b.neg then hi else lo), fgInvalid ||| fgSat)) ∧
      ∀ (a : Num) (k : Int), a.st = false → roundsTo mode (a.rat / b.rat) k → quantCode fd mode sat e8 (.fin a) scale =
        (code (max lo (min hi k)), (if k < lo ∨ hi < k then fgSat else 0) ||| if (k : ℚ) = a.rat / b.rat then 0 else fgInexact) := by
  intro w lo hi code
  have width : codeWidth fd = w := by rcases integer with rfl | rfl <;> rfl
  have low : -((2 ^ (codeWidth fd - 1) : Nat) : ℤ) = lo := by rcases integer with rfl | rfl <;> rfl
  have high : ((2 ^ (codeWidth fd - 1) : Nat) : ℤ) - 1 = hi := by rcases integer with rfl | rfl <;> rfl
  refine ⟨fun x bad => quantCode_integer_invalid integer mode sat e8 scale ?_, fun b scaled nonzero => ⟨fun p => ?_, fun a k _ round => ?_⟩⟩
  · by_cases nan : isNan (scaleVal e8 scale) = true
    · exact .inr (.inl nan)
    · rw [isZero_iff_eqVal (Bool.eq_false_iff.2 nan)]
      exact bad
  · rw [quantCode_integer_inf integer mode sat e8 scale scaled nonzero, low, high, width]
    have sign : (if p != b.neg then lo else hi) = if p = b.neg then hi else lo := by cases p <;> cases b.neg <;> rfl
    rw [sign]
    rfl
  · have bounds : lo ≤ hi ∧ -2 ^ 80 < lo ∧ hi < 2 ^ 80 := by rcases integer with rfl | rfl <;> decide
    obtain ⟨value, saturated, inexact⟩ := roundAt_clamped mode (divNum_standsFor a nonzero) round bounds.1 bounds.2.1 bounds.2.2
      (fun sticky => (divNum_wide a nonzero sticky).1) (divNum_sticky_ne_int a nonzero)
    have result := quantCode_integer_fin integer mode sat e8 scale scaled nonzero a
    rw [low, high, width] at result
    have sat' : fgIf (clamped lo hi (signedInt (divNum a b).neg (roundAt mode (divNum a b) 0).1) !=
        signedInt (divNum a b).neg (roundAt mode (divNum a b) 0).1) fgSat = if k < lo ∨ hi < k then fgSat else 0 :=
      if_congr (by rw [bne_iff_ne, saturated]) rfl rfl
    have inexact' : fgIf (roundAt mode (divNum a b) 0).2 fgInexact = if (k : ℚ) = a.rat / b.rat then 0 else fgInexact :=
      (if_congr inexact rfl rfl).trans (ite_not _ _ _)
    rw [result, sat', inexact', value]
    rfl

end Sys2Proof.Machine
end

section
/-! The conversions, quantisation and dequantisation, and that the special functions and reductions complete (O28, 05 R174 to R181). -/

namespace Sys2Proof.Machine

/-! ### Results with flags -/

/-- A write of a vector register and of flags, by a strand without stream registers (R55, R97, R161). -/
theorem State.vecFlags_completes {s : State} {i : Instr} {srcs : List VReg} {accepts : Overrides → Bool}
    {f : Strand → Raises (Strand → Strand)} {d : VReg} {r : Vec × Flags} (agent : s.agent = .strand) (unbound : s.unbound)
    (prefixed : stPP s.strand.status = true → accepts (overrides s.strand.status) = true) (h : f s.strand = .ok (writeVF d r)) :
    s.runVec i srcs [d] accepts f = .next (s.past { s.strand.setV d r.1 with
      status := setPP (orFlags s.strand.status r.2) false }) :=
  State.runVec_of_unbound (g := writeVF d r) agent unbound
    (fun pending => by rw [← overrides_of_pending pending]; exact prefixed pending) h

/-- What a merged result with flags is, lane by lane. -/
theorem mergeFlags_fills (t : Strand) (pg : PReg) {W w : Nat} (old : Vec) {f : Nat → Nat × Flags} (wide : w ≤ W)
    (bound : ∀ i, (f i).1 < 2 ^ w) :
    (∀ j, j < 512 / W → (pg = 0 ∨ (t.getP pg).getLsbD (W / 8 * j) = true → elemAt w (mergeFlags t pg W w old f).1 j = (f j).1) ∧
      (¬ (pg = 0 ∨ (t.getP pg).getLsbD (W / 8 * j) = true) → elemAt w (mergeFlags t pg W w old f).1 j = elemAt w old j)) ∧
    (∀ q, w * (512 / W) ≤ q → (mergeFlags t pg W w old f).1.getLsbD q = false) ∧
    ∀ b, (mergeFlags t pg W w old f).2.getLsbD b = true ↔
      ∃ j, j < 512 / W ∧ (pg = 0 ∨ (t.getP pg).getLsbD (W / 8 * j) = true) ∧ (f j).2.getLsbD b = true := by
  refine ⟨fun j hj => ?_, fun q hq => mergeFlags_above t pg old wide hq, fun b => ?_⟩
  · rw [elemAt_mergeFlags t pg old wide bound hj, laneResult, ← laneActive_iff]
    exact ⟨fun active => by rw [if_pos active], fun idle => by rw [if_neg idle]⟩
  · rw [mergeFlags_flags]
    simp only [laneActive_iff]

/-- A format field that a pending prefix leaves or sets is left where none is pending (R55). -/
theorem field_inForce {st : Word} {g : Overrides → Nat} (left : g {} = 31) {P : Prop} (h : stPP st = true → g (overrides st) = 31 ∨ P) :
    g (overrides st) = 31 ∨ P := by
  cases pending : stPP st
  · exact .inl (by rw [overrides_of_clear pending, left])
  · exact h pending

theorem wrapInt_lt (w : Nat) (i : ℤ) : wrapInt w i < 2 ^ w := by
  have positive : (0 : ℤ) < (2 ^ w : Nat) := by exact_mod_cast Nat.two_pow_pos w
  have low := Int.emod_nonneg i positive.ne'
  have high := Int.emod_lt_of_pos i positive
  unfold wrapInt
  omega

theorem writeFp_lt_fmtBits {c : Nat} (h : 6 ≤ c ∧ c ≤ 10) (mode : Mode) (sat : Bool) (v : FVal) :
    (writeFp (ffmtOf c) mode sat v).1 < 2 ^ fmtBits c := by
  obtain ⟨fits, width⟩ := ffmtOf_fits h.1 h.2
  exact (writeFp_lt fits mode sat v).trans_eq (congrArg (2 ^ ·) width)

theorem effFmt_range {o dflt lo hi : Nat} (inside : lo ≤ dflt ∧ dflt ≤ hi) (h : o = 31 ∨ lo ≤ o ∧ o ≤ hi) :
    lo ≤ effFmt o dflt ∧ effFmt o dflt ≤ hi := by
  unfold effFmt
  split
  · exact inside
  next other => exact h.resolve_left other

/-! ### The prefixes that the entries accept (R182) -/

theorem fieldScale_iff (f : Nat) : fieldScale f = true ↔ f = 31 ∨ f = 9 ∨ f = 16 := by
  simp [fieldScale, or_assoc]

theorem acceptCvtInt_iff (o : Overrides) : acceptCvtInt o = true ↔ o.fa = 31 ∧ o.fb = 31 ∧ (o.fd = 31 ∨ 6 ≤ o.fd ∧ o.fd ≤ 10) := by
  simp only [acceptCvtInt, Bool.and_eq_true, beq_iff_eq, fieldIn_iff, and_assoc]

theorem acceptCvtFp_iff (o : Overrides) : acceptCvtFp o = true ↔ o.fa = 31 ∧ o.fb = 31 ∧ (o.fd = 31 ∨ 1 ≤ o.fd ∧ o.fd ≤ 10) := by
  simp only [acceptCvtFp, Bool.and_eq_true, beq_iff_eq, fieldIn_iff, and_assoc]

theorem acceptQuant_iff (o : Overrides) : acceptQuant o = true ↔
    o.fa = 31 ∧ (o.fb = 31 ∨ o.fb = 9 ∨ o.fb = 16) ∧ (o.fd = 31 ∨ 9 ≤ o.fd ∧ o.fd ≤ 13) := by
  simp only [acceptQuant, Bool.and_eq_true, beq_iff_eq, fieldIn_iff, fieldScale_iff, and_assoc]

theorem acceptDeq_iff (o : Overrides) : acceptDeq o = true ↔
    (o.fa = 31 ∨ 9 ≤ o.fa ∧ o.fa ≤ 13) ∧ (o.fb = 31 ∨ o.fb = 9 ∨ o.fb = 16) ∧ o.fd = 31 := by
  simp only [acceptDeq, Bool.and_eq_true, beq_iff_eq, fieldIn_iff, fieldScale_iff, and_assoc]

theorem acceptSpecial_iff (o : Overrides) : acceptSpecial o = true ↔ o.fa = 31 ∧ o.fb = 31 ∧ (o.fd = 31 ∨ 6 ≤ o.fd ∧ o.fd ≤ 8) := by
  simp only [acceptSpecial, Bool.and_eq_true, beq_iff_eq, fieldIn_iff, and_assoc]

/-! ### Codes (R101, R104) -/

/-- E2M1 with the overflow of a saturating format that has a NaN. -/
def saturatingE2m1 : FFmt := { fpE2m1 with hasNan := true }

theorem saturatingE2m1_fits : saturatingE2m1.Fits := ⟨by decide, by decide, by decide, rfl⟩

/-- E2M1, which has neither NaN nor infinity, always saturates. -/
theorem writeNum_e2m1 (mode : Mode) (sat : Bool) (n : Num) : (writeNum fpE2m1 mode sat n).1 = (writeNum saturatingE2m1 mode true n).1 := by
  have overflow : (overflowFp fpE2m1 mode sat n.neg).1 = (overflowFp saturatingE2m1 mode true n.neg).1 := by cases sat <;> rfl
  unfold writeNum
  split
  · rfl
  · dsimp only
    split
    · rw [overflow]
      exact (if_pos ‹_›).symm ▸ rfl
    · exact (if_neg ‹_›).symm ▸ rfl

theorem writeFp_e2m1_lt (mode : Mode) (sat : Bool) (v : FVal) : (writeFp fpE2m1 mode sat v).1 < 2 ^ 4 := by
  cases v with
  | nan neg =>
    change (writeNan fpE2m1 neg).1 < 2 ^ 4
    cases neg <;> decide
  | inf neg =>
    change (writeInf fpE2m1 sat neg).1 < 2 ^ 4
    cases neg <;> cases sat <;> decide
  | fin n =>
    rw [writeFp, writeNum_e2m1]
    exact writeNum_lt saturatingE2m1_fits mode true n

/-- An integer code fits its width. -/
theorem quantise_integer_lt {fd : Nat} (integer : fd = 11 ∨ fd = 12) (mode : Mode) (sat e8 : Bool) (x : FVal) (scale : Nat) :
    (quantise fd mode sat e8 x scale).1 < 2 ^ codeWidth fd := by
  have notFloating : fd ≠ 13 := by omega
  unfold quantise
  dsimp only
  rw [if_neg notFloating, if_neg notFloating]
  split
  · exact Nat.two_pow_pos _
  · split
    · exact Nat.two_pow_pos _
    · split
      · exact wrapInt_lt _ _
      · exact wrapInt_lt _ _
      · exact Nat.two_pow_pos _

/-- A floating-point code fits its width. -/
theorem quantCode_floating_lt {fd : Nat} {f : FFmt} (known : ffmt fd = some f) (floating : floatingCode fd) {w : Nat} (wide : 4 ≤ w)
    (nan : fd ≠ 13 → f.nan < 2 ^ w) (mode : Mode) (sat e8 : Bool) (written : ∀ v, (writeFp f mode sat v).1 < 2 ^ w) (x : FVal) (scale : Nat) :
    (quantCode fd mode sat e8 x scale).1 < 2 ^ w := by
  have four : 15 < 2 ^ w := lt_two_pow_of_le (k := 4) (by decide) wide
  rw [quantCode_floating known floating]
  split
  · split
    · exact lt_of_le_of_lt (by split <;> omega) four
    next other => exact nan other
  · split
    · exact Nat.two_pow_pos _
    · exact written _

/-- A code fits its width. -/
theorem quantCode_lt {fd : Nat} (known : 9 ≤ fd ∧ fd ≤ 13) (mode : Mode) (sat e8 : Bool) (x : FVal) (scale : Nat) :
    (quantCode fd mode sat e8 x scale).1 < 2 ^ codeBits fd := by
  obtain rfl | rfl | rfl | rfl | rfl : fd = 9 ∨ fd = 10 ∨ fd = 11 ∨ fd = 12 ∨ fd = 13 := by omega
  · exact quantCode_floating_lt (f := ffmtOf 9) rfl (.inl rfl) (by decide) (fun _ => by decide) mode sat e8
      (writeFp_lt_fmtBits ⟨by decide, by decide⟩ mode sat) x scale
  · exact quantCode_floating_lt (f := ffmtOf 10) rfl (.inr (.inl rfl)) (by decide) (fun _ => by decide) mode sat e8
      (writeFp_lt_fmtBits ⟨by decide, by decide⟩ mode sat) x scale
  · exact quantise_integer_lt (.inl rfl) mode sat e8 x scale
  · exact quantise_integer_lt (.inr rfl) mode sat e8 x scale
  · exact quantCode_floating_lt (f := fpE2m1) rfl (.inr (.inr rfl)) (by decide) (fun other => absurd rfl other) mode sat e8
      (writeFp_e2m1_lt mode sat) x scale

theorem elemAt_zero (w i : Nat) : elemAt w 0 i = 0 := by
  simp [elemAt]

/-- Merged into a register of zeros, an inactive lane is zero. -/
theorem mergeFlags_zero (t : Strand) (pg : PReg) (W w : Nat) (f : Nat → Nat × Flags) : mergeFlags t pg W w 0 f =
    (ofElems w (((List.range (512 / W)).map fun i => if laneActive t pg W i then f i else (0, 0)).map (·.1)),
      ((List.range (512 / W)).map fun i => if laneActive t pg W i then f i else (0, 0)).foldl (fun acc r => acc ||| r.2) 0) := by
  simp only [mergeFlags, elemAt_zero]

/-- A field of a field. -/
theorem field_of_field (x s n k w : Nat) (h : k + w ≤ n) : x / 2 ^ s % 2 ^ n / 2 ^ k % 2 ^ w = x / 2 ^ (s + k) % 2 ^ w := by
  refine Nat.eq_of_testBit_eq fun i => ?_
  simp only [Nat.testBit_mod_two_pow, Nat.testBit_div_two_pow]
  by_cases inside : i < w
  · simp [inside, show i + k < n by omega, show i + k + s = i + (s + k) by omega]
  · simp [inside]

theorem elemAt_eq (w : Nat) (v : Vec) (i : Nat) : elemAt w v i = v.toNat / 2 ^ (w * i) % 2 ^ w := by
  rw [elemAt, BitVec.extractLsb'_toNat, Nat.shiftRight_eq_div_pow, Nat.mul_comm]

/-- A group code is a field of its group, and the group of its register (R101). -/
theorem group_field (v : Vec) (i bytes w : Nat) (fits : w * 32 = 8 * bytes) :
    (v.extractLsb' (8 * bytes * (i / 32)) (8 * bytes)).toNat / 2 ^ (w * (i % 32)) % 2 ^ w = elemAt w v i := by
  have place : 8 * bytes * (i / 32) + w * (i % 32) = w * i := by
    rw [← fits, Nat.mul_assoc, ← Nat.mul_add, Nat.div_add_mod]
  rw [BitVec.extractLsb'_toNat, Nat.shiftRight_eq_div_pow, field_of_field, place, elemAt_eq]
  have : i % 32 + 1 ≤ 32 := Nat.mod_lt _ (by decide)
  calc w * (i % 32) + w = w * (i % 32 + 1) := by ring
    _ ≤ w * 32 := Nat.mul_le_mul_left _ this
    _ = 8 * bytes := fits

/-- The codes of a register lie one after another, groups of 32 included (R101). -/
theorem packedCode_eq {f : Nat} (known : 9 ≤ f ∧ f ≤ 13) (v : Vec) (i : Nat) : packedCode f v i = elemAt (codeBits f) v i := by
  obtain rfl | rfl | rfl | rfl | rfl : f = 9 ∨ f = 10 ∨ f = 11 ∨ f = 12 ∨ f = 13 := by omega
  · rfl
  · rfl
  · exact group_field v i 16 4 rfl
  · exact group_field v i 12 3 rfl
  · exact group_field v i 16 4 rfl

/-- The value of a code (R101). -/
theorem code_value {f : Nat} (known : 9 ≤ f ∧ f ≤ 13) (c : Nat) : (if isGroup f then codeVal f c else decodeFp (ffmtOf f) c) =
    if f = 11 ∨ f = 12 then intVal (BitVec.ofNat (codeBits f) c).toInt else decodeFp (ffmtOf f) c := by
  obtain rfl | rfl | rfl | rfl | rfl : f = 9 ∨ f = 10 ∨ f = 11 ∨ f = 12 ∨ f = 13 := by omega
  · rfl
  · rfl
  · exact congrArg intVal (sextNat_eq 4 c)
  · exact congrArg intVal (sextNat_eq 3 c)
  · rfl

/-! ### The instructions -/

/-- An instruction fills the lanes of its destination with results that raise flags, and consumes its prefix (R55, R97, R158, R159). -/
def Fills (s : State) (d : VReg) (pg : PReg) (i : Instr) (W w : Nat) (f : Nat → Nat × Flags) : Prop :=
  ∃ (r : Vec) (fl : Flags), Completes i s { s.strand.setV d r with status := setPP (orFlags s.strand.status fl) false } ∧
    (∀ j, j < 512 / W → (pg = 0 ∨ (s.strand.getP pg).getLsbD (W / 8 * j) = true → elemAt w r j = (f j).1) ∧
      (¬ (pg = 0 ∨ (s.strand.getP pg).getLsbD (W / 8 * j) = true) → elemAt w r j = elemAt w (s.strand.getV d) j)) ∧
    (∀ q, w * (512 / W) ≤ q → r.getLsbD q = false) ∧
    ∀ b, fl.getLsbD b = true ↔ ∃ j, j < 512 / W ∧ (pg = 0 ∨ (s.strand.getP pg).getLsbD (W / 8 * j) = true) ∧ (f j).2.getLsbD b = true

theorem Fills.congr {s : State} {d : VReg} {pg : PReg} {i : Instr} {W w : Nat} {f g : Nat → Nat × Flags} (h : Fills s d pg i W w f)
    (same : ∀ j, f j = g j) : Fills s d pg i W w g := funext same ▸ h

/-- Lane j of VCVT of MSUB (R80, R179). -/
def cvtLane (et : FpEt) (fd : Nat) (mode : Mode) (sat : Bool) (v : Vec) (j : Nat) : Nat × Flags :=
  let bits := elemAt (fmtBits (fpFmt et)) v j
  let x := decodeFp (ffmtOf (fpFmt et)) bits
  if fd < 6 then
    let k := toIntClamped mode (intRange fd).1 (intRange fd).2 x
    (wrapInt (fmtBits fd) k.1, k.2)
  else if fd = fpFmt et then (if isNan x then (ffmtOf (fpFmt et)).nan else bits, 0)
  else writeFp (ffmtOf fd) mode sat x

theorem cvtLane_lt (et : FpEt) {fd : Nat} (range : fd ≤ 10) (mode : Mode) (sat : Bool) (v : Vec) (j : Nat) :
    (cvtLane et fd mode sat v j).1 < 2 ^ fmtBits fd := by
  unfold cvtLane
  dsimp only
  split
  · exact wrapInt_lt _ _
  · split
    next copied =>
      subst copied
      obtain ⟨fits, width⟩ := ffmtOf_fits (fpFmt_mem et).1 (fpFmt_mem et).2
      split
      · exact fits.nan.trans_eq (congrArg (2 ^ ·) width)
      · exact elemAt_lt ..
    next => exact writeFp_lt_fmtBits ⟨by omega, range⟩ mode sat _

theorem intRange_eq (fd : Nat) : intRange fd =
    (if fd = 5 then 0 else -(2 ^ (fmtBits fd - 1)), if fd = 5 then 255 else 2 ^ (fmtBits fd - 1) - 1) := by
  unfold intRange
  split
  · rfl
  · push_cast
    rfl

/-- Lane j of VDEQ: the product of a code and its scale (R102, R181). -/
def deqLane (et : FpEt) (fa : Nat) (e8 : Bool) (mode : Mode) (sat : Bool) (v scales : Vec) (j : Nat) : Nat × Flags :=
  let code := packedCode fa v j
  let cv := if isGroup fa then codeVal fa code else decodeFp (ffmtOf fa) code
  let x := mulVal cv (scaleVal e8 (elemAt 8 scales (j / 32)))
  let w := writeFp (ffmtOf (fpFmt et)) mode sat x.1
  (w.1, x.2 ||| w.2)

section

variable {s : State} {d a b : VReg} {pg : PReg} (agent : s.agent = .strand) (unbound : s.unbound)
include agent unbound

/-- An instruction that writes merged lanes and their flags. -/
theorem fills_of_runVec {i : Instr} {srcs : List VReg} {accepts : Overrides → Bool} {g : Strand → Raises (Strand → Strand)} {W w : Nat}
    {f : Nat → Nat × Flags} (h : exec i s = s.runVec i srcs [d] accepts g)
    (prefixed : stPP s.strand.status = true → accepts (overrides s.strand.status) = true)
    (result : g s.strand = .ok (writeVF d (mergeFlags s.strand pg W w (s.strand.getV d) f))) (wide : w ≤ W) (bound : ∀ j, (f j).1 < 2 ^ w) :
    Fills s d pg i W w f :=
  ⟨_, _, h.trans (State.vecFlags_completes agent unbound prefixed result), mergeFlags_fills s.strand pg _ wide bound⟩

theorem vcvtInt_fills (et : IntEt) {fd : Nat} (format : effFmt (overrides s.strand.status).fd 8 = fd) (range : 6 ≤ fd ∧ fd ≤ 10)
    (prefixed : stPP s.strand.status = true → acceptCvtInt (overrides s.strand.status) = true) :
    Fills s d pg (.vcvtInt et d a pg) (max (etBits et) (fmtBits fd)) (fmtBits fd) fun j =>
      writeFp (ffmtOf fd) (effMode s.strand.status) (effSat s.strand.status) (intVal (intLane et (s.strand.getV a) j)) := by
  subst format
  refine Fills.congr (fills_of_runVec agent unbound rfl prefixed rfl (le_max_right _ _) fun j => writeFp_lt_fmtBits range _ _ _) fun j => ?_
  rw [etVal_elemAt]

theorem vcvtFp_fills (et : FpEt) {fd : Nat} (format : effFmt (overrides s.strand.status).fd (if fpFmt et = 8 then 6 else 8) = fd)
    (range : fd ≤ 10) (prefixed : stPP s.strand.status = true → acceptCvtFp (overrides s.strand.status) = true) :
    Fills s d pg (.vcvtFp et d a pg) (max (fmtBits (fpFmt et)) (fmtBits fd)) (fmtBits fd)
      (cvtLane et fd (effMode s.strand.status) (effSat s.strand.status) (s.strand.getV a)) := by
  subst format
  exact fills_of_runVec agent unbound rfl prefixed rfl (le_max_right _ _) fun j => cvtLane_lt et range _ _ _ _

theorem vdeq_fills (et : FpEt) {fa : Nat} {e8 : Bool} (format : effFmt (overrides s.strand.status).fa 11 = fa)
    (scale : (effFmt (overrides s.strand.status).fb 16 == 16) = e8)
    (prefixed : stPP s.strand.status = true → acceptDeq (overrides s.strand.status) = true) :
    Fills s d pg (.vdeq et d a b pg) (fmtBits (fpFmt et)) (fmtBits (fpFmt et))
      (deqLane et fa e8 (effMode s.strand.status) (effSat s.strand.status) (s.strand.getV a) (s.strand.getV b)) := by
  subst format scale
  exact fills_of_runVec agent unbound rfl prefixed rfl (le_refl _) fun j => writeFp_lt_fmtBits (fpFmt_mem et) _ _ _

/-- VQUANT writes the codes of the active elements, code 0 for the others (R180). -/
theorem vquant_completes (et : FpEt) {fd : Nat} {e8 : Bool} (format : effFmt (overrides s.strand.status).fd 11 = fd)
    (scale : (effFmt (overrides s.strand.status).fb 16 == 16) = e8)
    (prefixed : stPP s.strand.status = true → acceptQuant (overrides s.strand.status) = true) :
    let q (j : Nat) : Nat × Flags := quantCode fd (effMode s.strand.status) (effSat s.strand.status) e8
      (fpElem (fpFmt et) (s.strand.getV a) j) (elemAt 8 (s.strand.getV b) 0)
    let r := mergeFlags s.strand pg (fmtBits (fpFmt et)) (codeBits fd) 0 q
    Completes (.vquant et d a b pg) s { s.strand.setV d r.1 with status := setPP (orFlags s.strand.status r.2) false } := by
  subst format scale
  intro q r
  have result : r = mergeFlags s.strand pg (fmtBits (fpFmt et)) (codeBits (effFmt (overrides s.strand.status).fd 11)) 0 q := rfl
  rw [result, mergeFlags_zero]
  exact State.vecFlags_completes agent unbound prefixed rfl

/-- A special function of each active element (R174). -/
theorem fpSpecial_fills {i : Instr} {et : FpEt} {f : SpecialFn} {fd : Nat} (h : exec i s = s.fpSpecial i et d a pg f)
    (format : effFmt (overrides s.strand.status).fd (fpFmt et) = fd) (range : 6 ≤ fd ∧ fd ≤ 10)
    (prefixed : stPP s.strand.status = true → acceptSpecial (overrides s.strand.status) = true) :
    Fills s d pg i (max (fmtBits (fpFmt et)) (fmtBits fd)) (fmtBits fd) fun j =>
      let x := f.value (fpElem (fpFmt et) (s.strand.getV a) j)
      let w := writeFp (ffmtOf fd) (effMode s.strand.status) (effSat s.strand.status) x.1
      (w.1, x.2 ||| w.2) := by
  subst format
  exact fills_of_runVec agent unbound h prefixed rfl (le_max_right _ _) fun j => writeFp_lt_fmtBits range _ _ _

end

/-- The lanes of VFRSUM: the values of the active elements, without flags (R109). -/
def sumLanes (t : Strand) (et : FpEt) (a : VReg) (pg : PReg) : List (Option (FVal × Flags)) :=
  (activeVals t (fpFmt et) a pg).map fun o => o.map fun b => (decodeFp (ffmtOf (fpFmt et)) b, (0 : Flags))

/-- The root of the tree of VFRSUM, +0 where no lane is active (R108, R109). -/
def sumRoot (t : Strand) (et : FpEt) (a : VReg) (pg : PReg) : FVal × Flags :=
  (treeRoot (sumNode (effMode t.status)) (treeDepth (sumLanes t et a pg).length) (sumLanes t et a pg)).getD
    (.fin { neg := false, m := 0, e := 0 }, 0)

/-- What VFRMAX and VFRMIN write (R177). -/
def extremeResult (t : Strand) (et : FpEt) (a : VReg) (pg : PReg) (max : Bool) : Nat :=
  (treeRoot (selectFp (ffmtOf (fpFmt et)) max) (treeDepth (activeVals t (fpFmt et) a pg).length) (activeVals t (fpFmt et) a pg)).elim
    (withSign (ffmtOf (fpFmt et)) max ((ffmtOf (fpFmt et)).maxEnc + 1)) fun x => selectFp (ffmtOf (fpFmt et)) max x x

section

variable {s : State} {et : FpEt} {d a : VReg} {pg : PReg} (agent : s.agent = .strand) (unbound : s.unbound)
include agent unbound

/-- VFRSUM writes the root of its tree, rounded once more (R177). -/
theorem vfrsum_completes {fd : Nat} (format : effFmt (overrides s.strand.status).fd (fpFmt et) = fd)
    (prefixed : stPP s.strand.status = true → acceptSpecial (overrides s.strand.status) = true) :
    let root := sumRoot s.strand et a pg
    let w := writeFp (ffmtOf fd) (effMode s.strand.status) (effSat s.strand.status) root.1
    Completes (.vfrsum et d a pg) s { s.strand.setV d (BitVec.ofNat 512 w.1) with
      status := setPP (orFlags s.strand.status (root.2 ||| w.2)) false } := by
  subst format
  intro root w
  exact State.vecFlags_completes (r := (BitVec.ofNat 512 w.1, root.2 ||| w.2)) agent unbound prefixed rfl

/-- VFRMAX and VFRMIN write the selected element (R177). -/
theorem fpReduce_completes {i : Instr} {max : Bool} (h : exec i s = s.fpReduce i et d a pg max)
    (prefixed : stPP s.strand.status = true → acceptNone (overrides s.strand.status) = true) :
    Completes i s { s.strand.setV d (BitVec.ofNat 512 (extremeResult s.strand et a pg max)) with
      status := setPP s.strand.status false } := by
  refine h.trans (State.vecWrite_completes agent unbound (fun pending => by rw [← overrides_of_pending pending]; exact prefixed pending) ?_)
  unfold extremeResult
  dsimp only
  cases treeRoot (selectFp (ffmtOf (fpFmt et)) max) (treeDepth (activeVals s.strand (fpFmt et) a pg).length)
    (activeVals s.strand (fpFmt et) a pg) <;> rfl

end

/-- Settles O28: integers, scales and codes by their lemmas, then each conversion by the frame of results with flags. -/
theorem floatingConversions : Obligations.FloatingConversions := by
  refine ⟨fun mode lo hi x => ⟨fun nan => ?_, fun p => rfl, fun n k => toIntClamped_fin mode lo hi⟩, intVal_rat, fun b small => ⟨?_, decodeE8m0_value small⟩,
    fun fd f mode sat e8 scale known floating => floating_quantisation known floating mode sat e8 scale,
    fun fd mode sat e8 scale integer => integer_quantisation integer mode sat e8 scale, ?_⟩
  · cases x with
    | nan _ => rfl
    | inf _ => exact absurd nan Bool.false_ne_true
    | fin _ => exact absurd nan Bool.false_ne_true
  · rintro rfl
    rfl
  · intro s et it d a b pg agent unbound t o mode sat act admits fills src ws x int bits e8
    have e8_eq : (effFmt o.fb 16 == 16) = e8 := by
      unfold effFmt
      by_cases left : o.fb = 31
      · rw [if_pos left]
        simp [e8, left]
      · rw [if_neg left]
        simp [e8, left]
    refine ⟨fun admitted => ?_, fun admitted => ?_, fun admitted => ?_, fun admitted => ?_, fun clear => ⟨?_, ?_⟩⟩
    · intro fd
      refine vcvtInt_fills agent unbound it (fd := fd) rfl
        (effFmt_range (by decide) (field_inForce rfl fun pending => (admitted pending).2.2)) fun pending => ?_
      obtain ⟨hfa, hfb, hfd⟩ := admitted pending
      exact (acceptCvtInt_iff o).2 ⟨hfa.resolve_right id, hfb.resolve_right id, hfd⟩
    · intro fd wd lo hi
      have format : effFmt o.fd (if fpFmt et = 8 then 6 else 8) = fd := by
        have default : fpFmt et = 8 ↔ et = .f32 := by cases et <;> decide
        unfold effFmt
        simp only [default]
        rfl
      have range : 1 ≤ fd ∧ fd ≤ 10 := effFmt_range (by split <;> decide) (field_inForce rfl fun pending => (admitted pending).2.2)
      refine (vcvtFp_fills agent unbound et format range.2 fun pending => ?_).congr fun j => ?_
      · obtain ⟨hfa, hfb, hfd⟩ := admitted pending
        exact (acceptCvtFp_iff o).2 ⟨hfa.resolve_right id, hfb.resolve_right id, hfd⟩
      · unfold cvtLane
        rw [intRange_eq]
        rfl
    · intro fd q
      have range : 9 ≤ fd ∧ fd ≤ 13 := effFmt_range (by decide) (field_inForce rfl fun pending => (admitted pending).2.2)
      have narrow : codeBits fd ≤ ws := by
        have : codeBits fd ≤ 8 := by unfold codeBits; split_ifs <;> decide
        have : ws = 8 ∨ ws = 16 ∨ ws = 32 := fmtBits_lanes (fpFmt_mem et).1 (fpFmt_mem et).2
        omega
      have bound (j : Nat) : (q j).1 < 2 ^ codeBits fd := quantCode_lt range mode sat e8 _ _
      obtain ⟨-, above, flags⟩ := mergeFlags_fills t pg (W := ws) 0 narrow bound
      refine ⟨_, _, vquant_completes agent unbound et (fd := fd) rfl e8_eq fun pending => ?_, fun j hj => ?_, above, flags⟩
      · obtain ⟨hfa, hfb, hfd⟩ := admitted pending
        exact (acceptQuant_iff o).2 ⟨hfa.resolve_right id, hfb, hfd⟩
      · refine (elemAt_mergeFlags t pg (W := ws) 0 narrow bound hj).trans ?_
        unfold laneResult
        split
        · rfl
        · exact elemAt_zero _ _
    · intro fa
      have range : 9 ≤ fa ∧ fa ≤ 13 := effFmt_range (by decide) (field_inForce rfl fun pending => (admitted pending).1)
      refine (vdeq_fills agent unbound et (fa := fa) rfl e8_eq fun pending => ?_).congr fun j => ?_
      · obtain ⟨hfa, hfb, hfd⟩ := admitted pending
        exact (acceptDeq_iff o).2 ⟨hfa, hfb, hfd.resolve_right id⟩
      · unfold deqLane
        dsimp only
        rw [packedCode_eq range, code_value range]
        rfl
    · have none' {P : Prop} (pending : stPP t.status = true) : P := absurd (clear.symm.trans pending) Bool.false_ne_true
      have inherited : effFmt o.fd (fpFmt et) = fpFmt et := if_pos (congrArg Overrides.fd (overrides_of_clear clear))
      have special {i : Instr} {f : SpecialFn} (h : exec i s = s.fpSpecial i et d a pg f) :
          ∃ (r : Vec) (fl : Flags), Completes i s { t.setV d r with status := setPP (orFlags t.status fl) false } := by
        obtain ⟨r, fl, completes, -⟩ := fpSpecial_fills agent unbound h inherited (fpFmt_mem et) none'
        exact ⟨r, fl, completes⟩
      simp only [List.forall_mem_cons]
      exact ⟨special (f := .exp2) rfl, special (f := .rcp) rfl, special (f := .rsq) rfl, special (f := .log2) rfl,
        ⟨_, _, vfrsum_completes agent unbound inherited none'⟩, List.forall_mem_nil _⟩
    · have none' {P : Prop} (pending : stPP t.status = true) : P := absurd (clear.symm.trans pending) Bool.false_ne_true
      have extreme {i : Instr} {max : Bool} (h : exec i s = s.fpReduce i et d a pg max) : ∃ r : Vec, Completes i s (t.setV d r) := by
        have completes := fpReduce_completes agent unbound h none'
        rw [setPP_of_clear clear] at completes
        exact ⟨_, completes⟩
      simp only [List.forall_mem_cons]
      exact ⟨extreme (max := true) rfl, extreme (max := false) rfl, List.forall_mem_nil _⟩

end Sys2Proof.Machine
end

section
/-! The trees of VFRSUM, VFRMAX and VFRMIN, reciprocals and reciprocal roots (O27, 03 R108 and R109, 05 R174 and R177). -/

namespace Sys2Proof.Machine

/-! ### VFRSUM by levels (R109) -/

theorem treeRoot_eq {α : Type} (op : α → α → α) : ∀ (n : Nat) (l : List (Option α)), treeRoot op n l = ((treeLevel op)^[n] l)[0]?.join
  | 0, l => by
    rw [treeRoot, List.head?_eq_getElem?]
    rfl
  | n + 1, l => by
    rw [treeRoot, treeRoot_eq op n]
    rfl

theorem treeLevel_iterate_length {α : Type} (op : α → α → α) {n : Nat} : ∀ (l : Nat) {lanes : List (Option α)}, lanes.length = 2 ^ n →
    l ≤ n → ((treeLevel op)^[l] lanes).length = 2 ^ (n - l)
  | 0, lanes, len, _ => len
  | l + 1, lanes, len, le => by
    rw [Function.iterate_succ_apply', treeLevel_length, treeLevel_iterate_length op l len (by omega),
      show n - l = (n - (l + 1)) + 1 by omega, Nat.pow_succ]
    omega

/-- Node j of level l of the tree. -/
def treeAt {α : Type} (op : α → α → α) (lanes : List (Option α)) (l j : Nat) : Option α := ((treeLevel op)^[l] lanes)[j]?.join

/-- A node of a level joins the two below it. -/
theorem treeAt_succ {α : Type} (op : α → α → α) {n : Nat} {lanes : List (Option α)} (len : lanes.length = 2 ^ n) {l j : Nat}
    (h : j < 2 ^ n / 2 ^ (l + 1)) : treeAt op lanes (l + 1) j = treeNode op (treeAt op lanes l (2 * j)) (treeAt op lanes l (2 * j + 1)) := by
  have le : l + 1 ≤ n := by
    by_contra gt
    rw [Nat.div_eq_of_lt (Nat.pow_lt_pow_right (by decide) (by omega))] at h
    exact Nat.not_lt_zero _ h
  rw [Nat.pow_div le (by decide)] at h
  have inside : 2 * j + 1 < ((treeLevel op)^[l] lanes).length := by
    rw [treeLevel_iterate_length op l len (by omega), show n - l = (n - (l + 1)) + 1 by omega, Nat.pow_succ]
    omega
  unfold treeAt
  rw [Function.iterate_succ_apply', treeLevel_getElem? _ _ inside]

theorem fpLanes_pow (et : FpEt) : 512 / fmtBits (fpFmt et) = 2 ^ treeDepth (512 / fmtBits (fpFmt et)) := by
  cases et <;> decide

theorem activeVals_length (t : Strand) (f : Nat) (a : VReg) (pg : PReg) : (activeVals t f a pg).length = 512 / fmtBits f := by
  rw [activeVals, List.length_map, List.length_range]

theorem sumLanes_length (t : Strand) (et : FpEt) (a : VReg) (pg : PReg) : (sumLanes t et a pg).length = 512 / fmtBits (fpFmt et) := by
  rw [sumLanes, List.length_map, activeVals_length]

/-- The lanes of VFRSUM: the value of an active element, nothing for another. -/
theorem sumLanes_at (t : Strand) (et : FpEt) (a : VReg) (pg : PReg) {j : Nat} (h : j < 512 / fmtBits (fpFmt et)) :
    treeAt (sumNode (effMode t.status)) (sumLanes t et a pg) 0 j =
      if laneActive t pg (fmtBits (fpFmt et)) j then some (fpElem (fpFmt et) (t.getV a) j, 0) else none := by
  have lane : (sumLanes t et a pg)[j]? = some (if laneActive t pg (fmtBits (fpFmt et)) j then some (fpElem (fpFmt et) (t.getV a) j, 0)
      else none) := by
    rw [sumLanes, activeVals, List.map_map, List.getElem?_map, List.getElem?_range h, Option.map_some, Function.comp_apply]
    split <;> rfl
  unfold treeAt
  rw [Function.iterate_zero, id, lane]
  rfl

/-! ### VFRMAX and VFRMIN (R177) -/

theorem decodeFp_nan (et : FpEt) : isNan (decodeFp (ffmtOf (fpFmt et)) (ffmtOf (fpFmt et)).nan) = true := by
  cases et <;> decide

theorem mem_activeVals {t : Strand} {f : Nat} {a : VReg} {pg : PReg} {x : Nat} : x ∈ (activeVals t f a pg).reduceOption ↔
    ∃ j, j < 512 / fmtBits f ∧ laneActive t pg (fmtBits f) j = true ∧ elemAt (fmtBits f) (t.getV a) j = x := by
  simp only [List.reduceOption_mem_iff, activeVals, List.mem_map, List.mem_range, Option.ite_none_right_eq_some, Option.some.injEq]

/-- The selection that stands for a set of encodings: a NaN if one is a NaN, else one of them that bounds the others. -/
def Selected (f : FFmt) (max : Bool) (seg : List Nat) (r : Nat) : Prop :=
  if ∃ x ∈ seg, isNan (decodeFp f x) = true then isNan (decodeFp f r) = true
  else r ∈ seg ∧ ∀ x ∈ seg, if max then (decodeFp f x).ext ≤ (decodeFp f r).ext else (decodeFp f r).ext ≤ (decodeFp f x).ext

theorem selectFp_ext {f : FFmt} {max : Bool} {a b : Nat} (ha : isNan (decodeFp f a) = false) (hb : isNan (decodeFp f b) = false) :
    (selectFp f max a b = a ∨ selectFp f max a b = b) ∧ ∀ x, x = a ∨ x = b →
      if max then (decodeFp f x).ext ≤ (decodeFp f (selectFp f max a b)).ext else (decodeFp f (selectFp f max a b)).ext ≤ (decodeFp f x).ext := by
  have number {r : Nat} (h : r = a ∨ r = b) : isNan (decodeFp f r) = false := by
    rcases h with rfl | rfl
    · exact ha
    · exact hb
  have le {x y : Nat} (hx : x = a ∨ x = b) (hy : y = a ∨ y = b) (h : (decodeFp f x).below (decodeFp f y)) :
      (decodeFp f x).ext ≤ (decodeFp f y).ext :=
    not_lt.1 fun less => Bool.false_ne_true (h.1.symm.trans ((ltVal_iff (number hy) (number hx)).2 less))
  cases max
  · obtain ⟨one, left, right⟩ := selectFp_min ha hb
    refine ⟨one, fun x hx => ?_⟩
    rcases hx with rfl | rfl
    · exact le one (.inl rfl) left
    · exact le one (.inr rfl) right
  · obtain ⟨one, left, right⟩ := selectFp_max ha hb
    refine ⟨one, fun x hx => ?_⟩
    rcases hx with rfl | rfl
    · exact le (.inl rfl) one left
    · exact le (.inr rfl) one right

/-- A node selects of what its two sides select. -/
theorem Selected.node {f : FFmt} (canonical : isNan (decodeFp f f.nan) = true) {max : Bool} {left right : List Nat} {a b : Nat}
    (ha : Selected f max left a) (hb : Selected f max right b) : Selected f max (left ++ right) (selectFp f max a b) := by
  have isNumber {seg : List Nat} {r : Nat} (none' : ¬ ∃ x ∈ seg, isNan (decodeFp f x) = true) (h : r ∈ seg) : isNan (decodeFp f r) = false :=
    Bool.eq_false_iff.2 fun nan => none' ⟨r, h, nan⟩
  unfold Selected at ha hb ⊢
  by_cases some : ∃ x ∈ left ++ right, isNan (decodeFp f x) = true
  · rw [if_pos some]
    have one : isNan (decodeFp f a) = true ∨ isNan (decodeFp f b) = true := by
      obtain ⟨x, hx, nan⟩ := some
      refine (List.mem_append.1 hx).imp (fun inLeft => ?_) fun inRight => ?_
      · rwa [if_pos ⟨x, inLeft, nan⟩] at ha
      · rwa [if_pos ⟨x, inRight, nan⟩] at hb
    rw [selectFp_nan one]
    exact canonical
  · have noLeft : ¬ ∃ x ∈ left, isNan (decodeFp f x) = true := fun ⟨x, hx, nan⟩ => some ⟨x, List.mem_append_left _ hx, nan⟩
    have noRight : ¬ ∃ x ∈ right, isNan (decodeFp f x) = true := fun ⟨x, hx, nan⟩ => some ⟨x, List.mem_append_right _ hx, nan⟩
    rw [if_neg noLeft] at ha
    rw [if_neg noRight] at hb
    obtain ⟨aIn, aBounds⟩ := ha
    obtain ⟨bIn, bBounds⟩ := hb
    obtain ⟨one, bounds⟩ := selectFp_ext (max := max) (isNumber noLeft aIn) (isNumber noRight bIn)
    rw [if_neg some]
    have selected : selectFp f max a b ∈ left ++ right := List.mem_append.2
      (one.imp (fun (h : selectFp f max a b = a) => h.symm ▸ aIn) fun (h : selectFp f max a b = b) => h.symm ▸ bIn)
    refine ⟨selected, fun x hx => ?_⟩
    have toA := bounds a (.inl rfl)
    have toB := bounds b (.inr rfl)
    cases max
    · exact (List.mem_append.1 hx).elim (fun h => le_trans toA (aBounds x h)) fun h => le_trans toB (bBounds x h)
    · exact (List.mem_append.1 hx).elim (fun h => le_trans (aBounds x h) toA) fun h => le_trans (bBounds x h) toB

theorem Selected.single (f : FFmt) (max : Bool) (a : Nat) : Selected f max [a] a := by
  unfold Selected
  split
  next some =>
    obtain ⟨x, hx, nan⟩ := some
    rwa [List.mem_singleton.1 hx] at nan
  next =>
    refine ⟨List.mem_singleton_self a, fun x hx => ?_⟩
    rw [List.mem_singleton.1 hx]
    cases max <;> exact le_refl _

/-- What VFRMAX and VFRMIN select of the active elements (R108, R177). -/
theorem extremeResult_spec (t : Strand) (et : FpEt) (a : VReg) (pg : PReg) (max : Bool) :
    let f := ffmtOf (fpFmt et)
    let seg := (activeVals t (fpFmt et) a pg).reduceOption
    let r := extremeResult t et a pg max
    if ∃ x ∈ seg, isNan (decodeFp f x) = true then r = f.nan
    else if seg = [] then r = withSign f max (f.maxEnc + 1)
    else r ∈ seg ∧ ∀ x ∈ seg, if max then (decodeFp f x).ext ≤ (decodeFp f r).ext else (decodeFp f r).ext ≤ (decodeFp f x).ext := by
  intro f seg r
  have len : (activeVals t (fpFmt et) a pg).length = 2 ^ treeDepth (activeVals t (fpFmt et) a pg).length := by
    rw [activeVals_length]
    exact fpLanes_pow et
  have root := treeRoot_summary (P := Selected f max) (op := selectFp f max) (Selected.single f max)
    (fun left right a b => Selected.node (decodeFp_nan et)) len
  have result : r = (treeRoot (selectFp f max) (treeDepth (activeVals t (fpFmt et) a pg).length) (activeVals t (fpFmt et) a pg)).elim
    (withSign f max (f.maxEnc + 1)) fun x => selectFp f max x x := rfl
  rw [result]
  generalize treeRoot (selectFp f max) _ _ = o at root
  cases o with
  | none =>
    have empty : seg = [] := root
    rw [if_neg (by simp [empty]), if_pos empty]
    rfl
  | some x =>
    have selected : Selected f max seg x := root
    unfold Selected at selected
    split
    next some =>
      rw [if_pos some] at selected
      exact selectFp_nan (.inl selected)
    next none' =>
      rw [if_neg none'] at selected
      have number : isNan (decodeFp f x) = false := Bool.eq_false_iff.2 fun nan => none' ⟨x, selected.1, nan⟩
      have same : selectFp f max x x = x := by
        rw [selectFp_eq number number]
        split <;> rfl
      rw [if_neg (List.ne_nil_of_mem selected.1), Option.elim_some, same]
      exact selected

/-! ### Reciprocals (R174) -/

theorem Num.rat_ne_zero {u : Num} (h : u.m ≠ 0) : u.rat ≠ 0 := by
  rw [← abs_pos, Num.rat_abs]
  have : (0 : ℚ) < u.m := by exact_mod_cast Nat.pos_of_ne_zero h
  positivity

/-- The product of two values of one sign, in units. -/
theorem Num.rat_mul_rat {n u : Num} (same : n.neg = u.neg) : n.rat * u.rat = n.m * (2 : ℚ) ^ n.e * |u.rat| := by
  rw [Num.rat_abs, n.rat_eq_signedRat, u.rat_eq_signedRat, same]
  unfold signedRat
  split <;> ring

theorem bitLen_two_pow (l : Nat) : bitLen (2 ^ l) = l + 1 := by
  unfold bitLen
  rw [if_neg (Nat.two_pow_pos l).ne', Nat.log2_two_pow]

/-- A value that stands for the reciprocal of u, and its next neighbour. -/
theorem Num.standsFor_inverse {n u : Num} (nonzero : u.m ≠ 0) (sign : n.neg = u.neg) (stands : n.standsFor (1 / u.rat)) :
    (n.st = false → n.rat * u.rat = 1) ∧
      (n.st = true → n.rat * u.rat < 1 ∧ 1 < Num.rat { n with m := n.m + 1 } * u.rat) := by
  obtain ⟨-, exact', sticky⟩ := Num.standsFor_magnitude stands
  have uPos : 0 < |u.rat| := abs_pos.2 (Num.rat_ne_zero nonzero)
  have inverse : |1 / u.rat| * |u.rat| = 1 := by
    rw [← abs_mul, one_div_mul_cancel (Num.rat_ne_zero nonzero), abs_one]
  refine ⟨fun st => ?_, fun st => ?_⟩
  · rw [Num.rat_mul_rat sign, ← exact' st, inverse]
  · obtain ⟨low, high⟩ := sticky st
    refine ⟨?_, ?_⟩
    · rw [Num.rat_mul_rat sign, ← inverse]
      exact mul_lt_mul_of_pos_right low uPos
    · rw [Num.rat_mul_rat (n := { n with m := n.m + 1 }) sign, ← inverse]
      push_cast
      exact mul_lt_mul_of_pos_right high uPos

/-- The value formed of 1 / u and, where it is not exact, its next neighbour. -/
theorem rcp_bracket {a u n : Num} (nonzero : u.m ≠ 0) (one : a = { neg := false, m := 1, e := 0 }) (formed : divNum a u = n) :
    n.neg = u.neg ∧ (∀ l, u.m = 2 ^ l → n.st = false) ∧ (n.st = false → n.rat * u.rat = 1) ∧
      (n.st = true → n.rat * u.rat < 1 ∧ 1 < Num.rat { n with m := n.m + 1 } * u.rat) := by
  have value : a.rat = 1 := by simp [one, Num.rat]
  have stands := divNum_standsFor a nonzero
  have sign := divNum_neg a (b := u)
  have sticky := divNum_sticky_iff a (b := u)
  rw [value, formed] at stands
  rw [formed, one, Bool.false_bne] at sign
  rw [formed, one, one_mul] at sticky
  refine ⟨sign, fun l power => Bool.eq_false_iff.2 fun st => sticky.1 st ?_, Num.standsFor_inverse nonzero sign stands⟩
  rw [power, bitLen_two_pow]
  exact pow_dvd_pow 2 (by omega)

end Sys2Proof.Machine
end

section
/-! Reciprocal roots and logarithms of powers of two (O27, 05 R174 and R175). -/

namespace Sys2Proof.Machine

/-! ### Square roots -/

/-- The bits from 2^i down complete the root. -/
theorem sqrtBits_spec (q : Nat) : ∀ (i r : Nat), r * r ≤ q → q < (r + 2 ^ i) * (r + 2 ^ i) →
    sqrtBits q i r * sqrtBits q i r ≤ q ∧ q < (sqrtBits q i r + 1) * (sqrtBits q i r + 1)
  | 0, _, low, high => ⟨low, high⟩
  | i + 1, r, low, high => by
    unfold sqrtBits
    split
    next fits =>
      refine sqrtBits_spec q i _ fits (high.trans_eq ?_)
      rw [Nat.add_assoc, ← Nat.two_mul, ← Nat.pow_succ']
    next above => exact sqrtBits_spec q i r low (not_le.1 above)

theorem sqrtNat_eq (q : Nat) : sqrtNat q = Nat.sqrt q := by
  have wide : q < (0 + 2 ^ (bitLen q / 2 + 1)) * (0 + 2 ^ (bitLen q / 2 + 1)) := by
    rw [Nat.zero_add, ← Nat.pow_add]
    exact (lt_two_pow_bitLen q).trans_le (Nat.pow_le_pow_right (by decide) (by omega))
  exact Nat.eq_sqrt.2 (sqrtBits_spec q _ 0 (Nat.zero_le q) wide)

/-! ### Reciprocal roots (R174) -/

/-- The value formed of the reciprocal root of m 2^(2h). -/
def rootNum (m : Nat) (h : ℤ) : Num :=
  let k := bitLen m + 60
  let r := sqrtNat (2 ^ (2 * k) / m)
  { neg := false, m := r, e := -h - k, st := r * r != 2 ^ (2 * k) / m || 2 ^ (2 * k) % m != 0 }

/-- The exponent is made even before the root is formed. -/
theorem rsqNum_even {n : Num} (even : n.e % 2 = 0) : rsqNum n = rootNum n.m (n.e / 2) := by
  unfold rsqNum
  simp only [even, ne_eq, not_true_eq_false, if_false]
  rfl

theorem rsqNum_odd {n : Num} (odd : n.e % 2 ≠ 0) : rsqNum n = rootNum (2 * n.m) ((n.e - 1) / 2) := by
  unfold rsqNum
  simp only [odd, ne_eq, not_false_eq_true, if_true]
  rfl

section

variable {m k r : Nat} (nonzero : m ≠ 0) (root : r = Nat.sqrt (2 ^ (2 * k) / m))
include nonzero root

theorem root_mul_le : r * r * m ≤ 2 ^ (2 * k) :=
  (Nat.le_div_iff_mul_le (Nat.pos_of_ne_zero nonzero)).1 (root ▸ Nat.sqrt_le _)

theorem lt_root_succ_mul : 2 ^ (2 * k) < (r + 1) * (r + 1) * m :=
  (Nat.div_lt_iff_lt_mul (Nat.pos_of_ne_zero nonzero)).1 (root ▸ Nat.lt_succ_sqrt _)

omit root in
theorem root_exact_iff : (r * r != 2 ^ (2 * k) / m || 2 ^ (2 * k) % m != 0) = false ↔ r * r * m = 2 ^ (2 * k) := by
  simp only [Bool.or_eq_false_iff, bne_eq_false_iff_eq]
  refine ⟨fun ⟨square, divides⟩ => ?_, fun product => ?_⟩
  · rw [square]
    exact Nat.div_mul_cancel (Nat.dvd_of_mod_eq_zero divides)
  · rw [← product]
    exact ⟨(Nat.mul_div_cancel _ (Nat.pos_of_ne_zero nonzero)).symm, Nat.mul_mod_left _ _⟩

end

/-- The square of a multiple of the unit of the root, times m 2^(2h). -/
theorem root_units (m r k : Nat) (h : ℤ) :
    ((r : ℚ) * (2 : ℚ) ^ (-h - (k : ℤ))) ^ 2 * (m * (2 : ℚ) ^ (2 * h)) = (r * r * m : Nat) / (2 ^ (2 * k) : Nat) := by
  have unit : ((2 : ℚ) ^ (-h - (k : ℤ))) ^ 2 * (2 : ℚ) ^ (2 * h) = 1 / (2 : ℚ) ^ (2 * k) := by
    rw [← zpow_natCast, ← zpow_mul, ← zpow_add₀ two_ne_zero, one_div, ← zpow_natCast, ← zpow_neg]
    congr 1
    push_cast
    ring
  push_cast
  calc _ = (r : ℚ) * r * m * (((2 : ℚ) ^ (-h - (k : ℤ))) ^ 2 * (2 : ℚ) ^ (2 * h)) := by ring
    _ = _ := by rw [unit]; ring

/-- The value formed of a reciprocal root and, where it is not exact, its next neighbour. -/
theorem rootNum_bracket {m : Nat} (nonzero : m ≠ 0) (h : ℤ) {x : ℚ} (value : x = m * (2 : ℚ) ^ (2 * h)) {n : Num} (formed : rootNum m h = n) :
    n.neg = false ∧ (∀ j, m = 2 ^ (2 * j) → n.st = false) ∧ (n.st = false → n.rat ^ 2 * x = 1) ∧
      (n.st = true → n.rat ^ 2 * x < 1 ∧ 1 < Num.rat { n with m := n.m + 1 } ^ 2 * x) := by
  generalize hk : bitLen m + 60 = k
  generalize root : Nat.sqrt (2 ^ (2 * k) / m) = r
  have shape : n = { neg := false, m := r, e := -h - k, st := r * r != 2 ^ (2 * k) / m || 2 ^ (2 * k) % m != 0 } := by
    rw [← formed, ← root, ← hk, ← sqrtNat_eq]
    rfl
  have low := root_mul_le nonzero root.symm
  have high := lt_root_succ_mul nonzero root.symm
  have exact' := root_exact_iff (k := k) (r := r) nonzero
  have square (r' : Nat) : Num.rat { n with m := r' } ^ 2 * x = (r' * r' * m : Nat) / (2 ^ (2 * k) : Nat) := by
    rw [value, ← root_units m r' k h, shape]
    simp [Num.rat]
  have unit : (0 : ℚ) < (2 ^ (2 * k) : Nat) := by exact_mod_cast Nat.two_pow_pos _
  have self : n.rat ^ 2 * x = (r * r * m : Nat) / (2 ^ (2 * k) : Nat) := (by rw [shape] : n = { n with m := r }) ▸ square r
  have st : n.st = (r * r != 2 ^ (2 * k) / m || 2 ^ (2 * k) % m != 0) := by rw [shape]
  refine ⟨by rw [shape], fun j power => ?_, fun clear => ?_, fun sticky => ⟨?_, ?_⟩⟩
  · rw [st, exact'.2]
    have narrow : j ≤ k := by
      have := bitLen_two_pow (2 * j)
      rw [← power] at this
      omega
    have twice : k - j + (k - j) + 2 * j = 2 * k := by omega
    have r_eq : r = 2 ^ (k - j) := by
      rw [← root, power, Nat.pow_div (by omega) (by decide), show 2 * k - 2 * j = (k - j) * 2 by omega, Nat.pow_mul]
      exact Nat.sqrt_eq' _
    rw [r_eq, power, ← Nat.pow_add, ← Nat.pow_add, twice]
  · rw [self, exact'.1 (st ▸ clear), div_self unit.ne']
  · rw [self, div_lt_one unit]
    exact_mod_cast lt_of_le_of_ne low fun same => by rw [st, exact'.2 same] at sticky; exact Bool.false_ne_true sticky
  · have next : n.m + 1 = r + 1 := by rw [shape]
    rw [next, square, one_lt_div unit]
    exact_mod_cast high

/-- VRSQ of a positive finite value (R174). -/
theorem rsqNum_bracket {u n : Num} (nonzero : u.m ≠ 0) (positive : u.neg = false) (formed : rsqNum u = n) :
    n.neg = false ∧ (∀ l : Nat, u.m = 2 ^ l → (u.e + l) % 2 = 0 → n.st = false) ∧ (n.st = false → n.rat ^ 2 * u.rat = 1) ∧
      (n.st = true → n.rat ^ 2 * u.rat < 1 ∧ 1 < Num.rat { n with m := n.m + 1 } ^ 2 * u.rat) := by
  have value : u.rat = u.m * (2 : ℚ) ^ u.e := by rw [u.rat_eq_signedRat, positive]; rfl
  by_cases even : u.e % 2 = 0
  · rw [rsqNum_even even] at formed
    obtain ⟨sign, square, bracket⟩ := rootNum_bracket nonzero (u.e / 2) (x := u.rat)
      (by rw [value, show 2 * (u.e / 2) = u.e by omega]) formed
    refine ⟨sign, fun l power evenSum => square (l / 2) ?_, bracket⟩
    rw [power, show 2 * (l / 2) = l by omega]
  · rw [rsqNum_odd even] at formed
    obtain ⟨sign, square, bracket⟩ := rootNum_bracket (m := 2 * u.m) (by omega) ((u.e - 1) / 2) (x := u.rat)
      (by
        rw [value, show 2 * ((u.e - 1) / 2) = u.e - 1 by omega, zpow_sub_one₀ two_ne_zero]
        push_cast
        ring) formed
    refine ⟨sign, fun l power evenSum => square ((l + 1) / 2) ?_, bracket⟩
    rw [power, ← Nat.pow_succ', show 2 * ((l + 1) / 2) = l + 1 by omega]

/-! ### Logarithms of powers of two, and powers of whole exponents (R174) -/

theorem log2Num_two_pow {u : Num} {l : Nat} (power : u.m = 2 ^ l) :
    log2Num u = { neg := decide (u.e + l < 0), m := (u.e + l).natAbs, e := 0 } := by
  unfold log2Num
  simp only [power, bitLen_two_pow, Nat.add_sub_cancel, if_true]

theorem Num.lead_rat {n : Num} (nonzero : n.m ≠ 0) : (2 : ℚ) ^ n.lead ≤ |n.rat| ∧ |n.rat| < (2 : ℚ) ^ (n.lead + 1) :=
  have stands : ({ n with st := false } : Num).standsFor n.rat := by
    rw [Num.standsFor, if_neg Bool.false_ne_true]
    rfl
  Num.lead_spec (n := { n with st := false }) stands nonzero

/-- A value is below 2^k where its leading bit is. -/
theorem Num.lead_lt_iff {n : Num} (nonzero : n.m ≠ 0) (k : ℤ) : n.lead < k ↔ |n.rat| < (2 : ℚ) ^ k := by
  obtain ⟨low, high⟩ := Num.lead_rat nonzero
  refine ⟨fun less => high.trans_le (zpow_le_zpow_right₀ one_le_two less), fun less => ?_⟩
  exact (zpow_lt_zpow_iff_right₀ one_lt_two).1 (low.trans_lt less)

/-- The power of a number of units of 2^-320 (log 11). -/
def expUnits (n : ℤ) : Num :=
  let i := n.fdiv (2 ^ fxBits : Nat)
  let f := n - i * (2 ^ fxBits : Nat)
  if f = 0 then { neg := false, m := 1, e := i }
  else { neg := false, m := expFx (f.toNat * ln2Fx / 2 ^ fxBits), e := i - fxBits, st := true }

theorem exp2Num_near {u : Num} (nonzero : u.m ≠ 0) (near : |u.rat| < (2 : ℚ) ^ (16 : ℤ)) :
    exp2Num u = expUnits (numUnits u (-(fxBits : ℤ))) := by
  have small := (Num.lead_lt_iff nonzero 16).2 near
  unfold Num.lead at small
  unfold exp2Num
  rw [if_neg nonzero, if_neg (by omega)]
  rfl

theorem exp2Num_far {u : Num} (far : (2 : ℚ) ^ (16 : ℤ) ≤ |u.rat|) : exp2Num u =
    if u.neg then { neg := false, m := 1, e := -20000, st := true } else { neg := false, m := 1, e := 20000 } := by
  have nonzero : u.m ≠ 0 := fun zero => by
    rw [rat_of_zero zero, abs_zero] at far
    exact absurd far (not_le.2 (by positivity))
  have large := mt (Num.lead_lt_iff nonzero 16).1 (not_lt.2 far)
  unfold Num.lead at large
  unfold exp2Num
  rw [if_neg nonzero, if_pos (by omega)]

theorem expUnits_whole (k : ℤ) : expUnits (k * (2 ^ fxBits : Nat)) = { neg := false, m := 1, e := k } := by
  have unit : ((2 ^ fxBits : Nat) : ℤ) ≠ 0 := by exact_mod_cast (Nat.two_pow_pos fxBits).ne'
  unfold expUnits
  simp only [Int.mul_fdiv_cancel _ unit, sub_self, if_true]

/-- The units of 2^-320 of a value. -/
theorem numUnits_fx {u : Num} (fine : -(fxBits : ℤ) ≤ u.e) : (numUnits u (-(fxBits : ℤ)) : ℚ) = u.rat * (2 ^ fxBits : Nat) := by
  rw [← numUnits_mul u fine, mul_assoc, zpow_neg, zpow_natCast]
  push_cast
  rw [inv_mul_cancel₀ (by positivity), mul_one]

/-- VEXP2 of a whole number (R174). -/
theorem exp2Num_whole {u : Num} {k : ℤ} (fine : -(fxBits : ℤ) ≤ u.e) (whole : u.rat = k) (low : -1024 ≤ k) (high : k ≤ 1024) :
    exp2Num u = { neg := false, m := 1, e := k } := by
  by_cases zero : u.m = 0
  · have : k = 0 := by
      rw [rat_of_zero zero] at whole
      exact_mod_cast whole.symm
    rw [exp2Num, if_pos zero, this]
  · have near : |u.rat| < (2 : ℚ) ^ (16 : ℤ) := by
      have : |k| ≤ 1024 := abs_le.2 ⟨low, high⟩
      rw [whole, ← Int.cast_abs]
      calc ((|k| : ℤ) : ℚ) ≤ (1024 : ℤ) := by exact_mod_cast this
        _ < (2 : ℚ) ^ (16 : ℤ) := by norm_num
    have units : numUnits u (-(fxBits : ℤ)) = k * (2 ^ fxBits : Nat) := by
      have := numUnits_fx fine
      rw [whole] at this
      exact_mod_cast this
    rw [exp2Num_near zero near, units, expUnits_whole]

end Sys2Proof.Machine
end

section
/-! How near the evaluation to 320 fraction bits comes to the exponential and the logarithm (O27, log 11). -/

namespace Sys2Proof.Machine

/-! ### Numbers of units of 2^-320 -/

/-- The number that n units of 2^-320 are. -/
noncomputable def fx (n : Nat) : ℝ := n / 2 ^ fxBits

/-- One unit. -/
noncomputable def fxUnit : ℝ := 1 / 2 ^ fxBits

theorem fxUnit_pos : 0 < fxUnit := by unfold fxUnit; positivity

theorem fxUnit_le : fxUnit ≤ 1 / 2 ^ 100 :=
  one_div_le_one_div_of_le (by positivity) (pow_le_pow_right₀ one_le_two (by decide))

theorem fx_nonneg (n : Nat) : 0 ≤ fx n := by unfold fx; positivity

theorem fx_add (m n : Nat) : fx (m + n) = fx m + fx n := by
  unfold fx
  push_cast
  ring

theorem fx_one : fx (2 ^ fxBits) = 1 := by
  unfold fx
  push_cast
  exact div_self (by positivity)

theorem fx_mono {m n : Nat} (h : m ≤ n) : fx m ≤ fx n := by
  unfold fx
  gcongr

theorem nat_div_bounds (a b : Nat) : ((a / b : Nat) : ℝ) ≤ a / b ∧ (a : ℝ) / b < (a / b : Nat) + 1 := by
  refine ⟨Nat.cast_div_le, ?_⟩
  rcases Nat.eq_zero_or_pos b with rfl | positive
  · simp
  · rw [div_lt_iff₀ (by exact_mod_cast positive)]
    exact_mod_cast Nat.lt_mul_of_div_lt (Nat.lt_succ_self (a / b)) positive

/-- A division of units rounds down by less than one. -/
theorem fx_div (n b : Nat) : fx (n / b) ≤ fx n / b ∧ fx n / b - fxUnit ≤ fx (n / b) := by
  obtain ⟨low, high⟩ := nat_div_bounds n b
  have shape : fx n / b = (n / b : ℝ) / 2 ^ fxBits := by unfold fx; ring
  rw [shape]
  unfold fx fxUnit
  refine ⟨by gcongr, ?_⟩
  rw [← sub_div]
  gcongr
  linarith

/-- A product of units, and a quotient of that, rounds down by less than one. -/
theorem fx_mul_div (m n b : Nat) :
    fx (m * n / 2 ^ fxBits / b) ≤ fx m * fx n / b ∧ fx m * fx n / b - fxUnit ≤ fx (m * n / 2 ^ fxBits / b) := by
  have product : fx (m * n) / (2 ^ fxBits * b : Nat) = fx m * fx n / b := by
    unfold fx
    push_cast
    ring
  rw [Nat.div_div_eq_div_mul, ← product]
  exact fx_div (m * n) (2 ^ fxBits * b)

theorem fx_mul (m n : Nat) : fx (m * n / 2 ^ fxBits) ≤ fx m * fx n ∧ fx m * fx n - fxUnit ≤ fx (m * n / 2 ^ fxBits) := by
  simpa using fx_mul_div m n 1

theorem foldl_range_add (g : Nat → Nat) : ∀ n, (List.range n).foldl (fun acc k => acc + g k) 0 = ∑ k ∈ Finset.range n, g k
  | 0 => rfl
  | n + 1 => by
    rw [List.range_succ, List.foldl_append, foldl_range_add g n, Finset.sum_range_succ]
    rfl

theorem fx_sum (g : Nat → Nat) (n : Nat) : fx (∑ k ∈ Finset.range n, g k) = ∑ k ∈ Finset.range n, fx (g k) := by
  unfold fx
  push_cast
  rw [Finset.sum_div]

/-- A sum of terms, each from below within an error. -/
theorem sum_near {x y : Nat → ℝ} {e : ℝ} {n : Nat} (h : ∀ k < n, x k ≤ y k ∧ y k - e ≤ x k) :
    ∑ k ∈ Finset.range n, x k ≤ ∑ k ∈ Finset.range n, y k ∧
      ∑ k ∈ Finset.range n, y k - n * e ≤ ∑ k ∈ Finset.range n, x k := by
  refine ⟨Finset.sum_le_sum fun k hk => (h k (Finset.mem_range.1 hk)).1, ?_⟩
  calc ∑ k ∈ Finset.range n, y k - n * e = ∑ k ∈ Finset.range n, (y k - e) := by simp
    _ ≤ ∑ k ∈ Finset.range n, x k := Finset.sum_le_sum fun k hk => (h k (Finset.mem_range.1 hk)).2

/-! ### ln 2 -/

theorem ln2Fx_near : |fx ln2Fx - Real.log 2| ≤ 341 * fxUnit := by
  have terms : fx ln2Fx = ∑ k ∈ Finset.range 340, fx (2 ^ fxBits / ((k + 1) * 2 ^ (k + 1))) := by
    rw [← fx_sum, ← foldl_range_add]
    rfl
  have near := sum_near (x := fun k => fx (2 ^ fxBits / ((k + 1) * 2 ^ (k + 1)))) (y := fun k => (1 / 2 : ℝ) ^ (k + 1) / (k + 1))
    (e := fxUnit) (n := 340) fun k _ => by
      have := fx_div (2 ^ fxBits) ((k + 1) * 2 ^ (k + 1))
      rw [fx_one] at this
      have shape : (1 : ℝ) / ((k + 1) * 2 ^ (k + 1) : Nat) = (1 / 2 : ℝ) ^ (k + 1) / (k + 1) := by
        push_cast
        rw [one_div_pow, div_div, mul_comm]
      rwa [shape] at this
  rw [← terms] at near
  have series := Real.abs_log_sub_add_sum_range_le (x := 1 / 2) (by norm_num [abs_of_pos]) 340
  have half : Real.log (1 - 1 / 2) = - Real.log 2 := by
    rw [show (1 : ℝ) - 1 / 2 = 2⁻¹ by norm_num, Real.log_inv]
  rw [half] at series
  have tail : |(1 / 2 : ℝ)| ^ (340 + 1) / (1 - |1 / 2|) ≤ fxUnit := by
    rw [abs_of_pos (by norm_num : (0 : ℝ) < 1 / 2), pow_succ, mul_div_assoc, show (1 / 2 : ℝ) / (1 - 1 / 2) = 1 by norm_num, mul_one, one_div_pow]
    exact one_div_le_one_div_of_le (by positivity) (pow_le_pow_right₀ one_le_two (by decide))
  have := abs_le.1 (series.trans tail)
  refine abs_le.2 ⟨?_, ?_⟩ <;> push_cast at * <;> linarith [fxUnit_pos]

theorem log_two_bounds : 1 / 2 ≤ Real.log 2 ∧ Real.log 2 ≤ 7 / 10 := by
  have := Real.log_two_gt_d9
  have := Real.log_two_lt_d9
  constructor <;> linarith

theorem small_errors : 10000000 * fxUnit ≤ 1 / 2 ^ 76 ∧ 10000000 * fxUnit ≤ 1 / 10 ^ 6 := by
  have := fxUnit_le
  constructor <;> norm_num at * <;> linarith

theorem ln2Fx_bounds : 1 / 2 ≤ fx ln2Fx ∧ fx ln2Fx ≤ 3 / 4 := by
  have := abs_le.1 ln2Fx_near
  have := small_errors.2
  have := Real.log_two_gt_d9
  have := Real.log_two_lt_d9
  have := fxUnit_pos
  constructor <;> norm_num at * <;> linarith

/-! ### The exponential -/

/-- Term k of the power series, rounded down. -/
def expTerm (x : Nat) : Nat → Nat
  | 0 => 2 ^ fxBits
  | k + 1 => expTerm x k * x / 2 ^ fxBits / (k + 1)

theorem expFx_eq (x : Nat) : expFx x = ∑ k ∈ Finset.range 90, expTerm x k := by
  have steps (n : Nat) : (List.range n).foldl (fun p k => (p.1 + p.2, p.2 * x / 2 ^ fxBits / (k + 1))) ((0 : Nat), 2 ^ fxBits) =
      (∑ k ∈ Finset.range n, expTerm x k, expTerm x n) := by
    induction n with
    | zero => rfl
    | succ n ih =>
      rw [List.range_succ, List.foldl_append, ih, Finset.sum_range_succ]
      rfl
  rw [expFx, steps]

/-- Each term is at most one unit further from its real value than the term before it. -/
theorem expTerm_near {x : Nat} (small : fx x ≤ 1) : ∀ k, fx (expTerm x k) ≤ fx x ^ k / k.factorial ∧
    fx x ^ k / k.factorial - k * fxUnit ≤ fx (expTerm x k)
  | 0 => by simp [expTerm, fx_one]
  | k + 1 => by
    obtain ⟨low, high⟩ := expTerm_near small k
    obtain ⟨low', high'⟩ := fx_mul_div (expTerm x k) x (k + 1)
    have nonneg := fx_nonneg x
    have unit := fxUnit_pos
    have ratio : 0 ≤ fx x / ((k + 1 : Nat) : ℝ) := by positivity
    have ratio_le : fx x / ((k + 1 : Nat) : ℝ) ≤ 1 := by
      rw [div_le_one (by positivity)]
      push_cast
      linarith [(Nat.cast_nonneg k : (0 : ℝ) ≤ k)]
    have step : fx x ^ (k + 1) / (k + 1).factorial = fx x ^ k / k.factorial * (fx x / ((k + 1 : Nat) : ℝ)) := by
      rw [Nat.factorial_succ]
      push_cast
      field_simp
      exact pow_succ ..
    have shape : fx (expTerm x k) * fx x / ((k + 1 : Nat) : ℝ) = fx (expTerm x k) * (fx x / ((k + 1 : Nat) : ℝ)) := mul_div_assoc ..
    rw [shape] at low' high'
    rw [step, expTerm]
    refine ⟨low'.trans (mul_le_mul_of_nonneg_right low ratio), le_trans ?_ high'⟩
    have lower := mul_le_mul_of_nonneg_right high ratio
    have errors : (k : ℝ) * fxUnit * (fx x / ((k + 1 : Nat) : ℝ)) ≤ k * fxUnit := mul_le_of_le_one_right (by positivity) ratio_le
    rw [sub_mul] at lower
    push_cast at *
    linarith

theorem expFx_near {x : Nat} (small : fx x ≤ 1) : |fx (expFx x) - Real.exp (fx x)| ≤ 8101 * fxUnit := by
  have unit := fxUnit_pos
  have near := sum_near (x := fun k => fx (expTerm x k)) (y := fun k => fx x ^ k / k.factorial) (e := 90 * fxUnit) (n := 90) fun k hk => by
    obtain ⟨low, high⟩ := expTerm_near small k
    have : (k : ℝ) ≤ 90 := by exact_mod_cast hk.le
    refine ⟨low, le_trans ?_ high⟩
    nlinarith
  rw [← fx_sum, ← expFx_eq] at near
  have series := Real.exp_bound (x := fx x) (by rwa [abs_of_nonneg (fx_nonneg x)]) (n := 90) (by decide)
  have tail : |fx x| ^ 90 * ((Nat.succ 90 : ℝ) / ((Nat.factorial 90 : ℝ) * (90 : ℕ))) ≤ fxUnit := by
    have power : |fx x| ^ 90 ≤ 1 := by
      rw [abs_of_nonneg (fx_nonneg x)]
      exact pow_le_one₀ (fx_nonneg x) small
    have factorial : 2 ^ fxBits * (Nat.succ 90) ≤ Nat.factorial 90 * 90 := by decide +kernel
    have ratio : (Nat.succ 90 : ℝ) / ((Nat.factorial 90 : ℝ) * (90 : ℕ)) ≤ fxUnit := by
      unfold fxUnit
      rw [div_le_div_iff₀ (by positivity) (by positivity), one_mul, mul_comm]
      exact_mod_cast factorial
    calc _ ≤ 1 * fxUnit := mul_le_mul power ratio (by positivity) zero_le_one
      _ = fxUnit := one_mul _
  have := abs_le.1 (series.trans tail)
  refine abs_le.2 ⟨?_, ?_⟩ <;> push_cast at * <;> linarith

/-- The exponential of two near arguments. -/
theorem exp_near {a b e : ℝ} (h : |a - b| ≤ e) (small : e ≤ 1) : |Real.exp a - Real.exp b| ≤ Real.exp b * (2 * e) := by
  have factor : Real.exp a - Real.exp b = Real.exp b * (Real.exp (a - b) - 1) := by
    rw [mul_sub, ← Real.exp_add, mul_one]
    ring_nf
  rw [factor, abs_mul, abs_of_pos (Real.exp_pos b)]
  refine mul_le_mul_of_nonneg_left ((Real.abs_exp_sub_one_le (h.trans small)).trans ?_) (Real.exp_pos b).le
  linarith

/-- The fractional power of two that is formed of f units. -/
theorem expFx_power {f : Nat} (below : f < 2 ^ fxBits) :
    |fx (expFx (f * ln2Fx / 2 ^ fxBits)) - (2 : ℝ) ^ fx f| ≤ (2 : ℝ) ^ fx f / 2 ^ 64 := by
  have unit := fxUnit_pos
  obtain ⟨error, error'⟩ := small_errors
  have f_nonneg := fx_nonneg f
  have f_le : fx f ≤ 1 := (fx_mono below.le).trans_eq fx_one
  obtain ⟨l_low, l_high⟩ := ln2Fx_bounds
  obtain ⟨low, high⟩ := fx_mul f ln2Fx
  have ln2 := abs_le.1 ln2Fx_near
  have argument : fx (f * ln2Fx / 2 ^ fxBits) ≤ 1 := by nlinarith
  have series := abs_le.1 (expFx_near argument)
  have shift : |fx (f * ln2Fx / 2 ^ fxBits) - Real.log 2 * fx f| ≤ 342 * fxUnit := by
    refine abs_le.2 ⟨?_, ?_⟩ <;> nlinarith
  have power : (2 : ℝ) ^ fx f = Real.exp (Real.log 2 * fx f) := Real.rpow_def_of_pos two_pos _
  have one : 1 ≤ (2 : ℝ) ^ fx f := Real.one_le_rpow one_le_two f_nonneg
  have moved := abs_le.1 (exp_near shift (by norm_num at *; linarith))
  rw [← power] at moved
  have total : 8101 * fxUnit + (2 : ℝ) ^ fx f * (2 * (342 * fxUnit)) ≤ (2 : ℝ) ^ fx f / 2 ^ 64 := by
    have : (2 : ℝ) ^ fx f * (10000 * fxUnit) ≤ (2 : ℝ) ^ fx f * (1 / 2 ^ 64) :=
      mul_le_mul_of_nonneg_left (by norm_num at *; linarith) (by linarith)
    nlinarith
  refine abs_le.2 ⟨?_, ?_⟩ <;> linarith

/-! ### The logarithm -/

/-- Term k of the sum without its divisor: the power of z, rounded down. -/
def lnPower (z : Nat) : Nat → Nat
  | 0 => z
  | k + 1 => lnPower z k * (z * z / 2 ^ fxBits) / 2 ^ fxBits

theorem lnFx_eq (num den : Nat) : lnFx num den =
    2 * ∑ k ∈ Finset.range 120, lnPower ((num - den) * 2 ^ fxBits / (num + den)) k / (2 * k + 1) := by
  generalize hz : (num - den) * 2 ^ fxBits / (num + den) = z
  have steps (n : Nat) : (List.range n).foldl (fun p k => (p.1 + p.2 / (2 * k + 1), p.2 * (z * z / 2 ^ fxBits) / 2 ^ fxBits)) ((0 : Nat), z) =
      (∑ k ∈ Finset.range n, lnPower z k / (2 * k + 1), lnPower z n) := by
    induction n with
    | zero => rfl
    | succ n ih =>
      rw [List.range_succ, List.foldl_append, ih, Finset.sum_range_succ]
      rfl
  rw [lnFx, hz]
  exact congrArg (fun p => 2 * p.1) (steps 120)

section

variable {z : Nat} {r : ℝ} (low : fx z ≤ r) (high : r - fxUnit ≤ fx z) (nonneg : 0 ≤ r) (small : r ≤ 1 / 3)
include low high nonneg small

theorem fx_square_near : fx (z * z / 2 ^ fxBits) ≤ r ^ 2 ∧ r ^ 2 - 2 * fxUnit ≤ fx (z * z / 2 ^ fxBits) := by
  obtain ⟨low', high'⟩ := fx_mul z z
  have := fx_nonneg z
  have := fxUnit_pos
  constructor <;> nlinarith

theorem lnPower_near : ∀ k, fx (lnPower z k) ≤ r ^ (2 * k + 1) ∧ r ^ (2 * k + 1) - (3 * k + 1) * fxUnit ≤ fx (lnPower z k)
  | 0 => by simpa [lnPower] using And.intro low high
  | k + 1 => by
    obtain ⟨lowK, highK⟩ := lnPower_near k
    obtain ⟨lowS, highS⟩ := fx_square_near low high nonneg small
    obtain ⟨low', high'⟩ := fx_mul (lnPower z k) (z * z / 2 ^ fxBits)
    have unit := fxUnit_pos
    have power : 0 ≤ r ^ (2 * k + 1) := by positivity
    have power_le : r ^ (2 * k + 1) ≤ 1 := pow_le_one₀ nonneg (by linarith)
    have square_le : r ^ 2 ≤ 1 := pow_le_one₀ nonneg (by linarith)
    have step : r ^ (2 * (k + 1) + 1) = r ^ (2 * k + 1) * r ^ 2 := by ring
    have sNonneg := fx_nonneg (z * z / 2 ^ fxBits)
    have pNonneg := fx_nonneg (lnPower z k)
    rw [step, lnPower]
    refine ⟨low'.trans (mul_le_mul lowK lowS sNonneg power), le_trans ?_ high'⟩
    have first : (r ^ (2 * k + 1) - fx (lnPower z k)) * r ^ 2 ≤ (3 * k + 1) * fxUnit :=
      (mul_le_of_le_one_right (by linarith) square_le).trans (by linarith)
    have second : fx (lnPower z k) * (r ^ 2 - fx (z * z / 2 ^ fxBits)) ≤ 2 * fxUnit :=
      (mul_le_of_le_one_left (by linarith) (lowK.trans power_le)).trans (by linarith)
    push_cast
    linarith

end

theorem fx_scaled (n : Nat) : fx (n * 2 ^ fxBits) = n := by
  unfold fx
  push_cast
  exact mul_div_cancel_right₀ _ (by positivity)

/-- The series of the logarithm after 120 terms. -/
theorem log_series_tail {r : ℝ} (nonneg : 0 ≤ r) (small : r ≤ 1 / 3) : |r| ^ (2 * 120 + 1) / (1 - r ^ 2) ≤ fxUnit := by
  have square : r ^ 2 ≤ 1 / 9 := by nlinarith
  have power : r ^ (2 * 120) ≤ fxUnit := by
    calc r ^ (2 * 120) = (r ^ 2) ^ 120 := pow_mul ..
      _ ≤ ((1 / 2) ^ 3) ^ 120 := pow_le_pow_left₀ (by positivity) (square.trans (by norm_num)) _
      _ = 1 / 2 ^ (3 * 120) := by rw [← pow_mul, one_div_pow]
      _ ≤ fxUnit := one_div_le_one_div_of_le (by positivity) (pow_le_pow_right₀ one_le_two (by decide))
  rw [abs_of_nonneg nonneg, div_le_iff₀ (by linarith), pow_succ]
  exact mul_le_mul power (by linarith) nonneg fxUnit_pos.le

theorem lnFx_near {num den : Nat} (positive : 0 < den) (low : den ≤ num) (high : num < 2 * den) :
    |fx (lnFx num den) - Real.log (num / den)| ≤ 90000 * fxUnit := by
  have unit := fxUnit_pos
  have denPos : (0 : ℝ) < den := by exact_mod_cast positive
  have numLow : (den : ℝ) ≤ num := by exact_mod_cast low
  have numHigh : (num : ℝ) < 2 * den := by exact_mod_cast high
  obtain ⟨r, hr⟩ : ∃ r : ℝ, r = (num - den) / (num + den) := ⟨_, rfl⟩
  have nonneg : 0 ≤ r := hr ▸ div_nonneg (by linarith) (by linarith)
  have small : r ≤ 1 / 3 := by
    rw [hr, div_le_iff₀ (by linarith)]
    linarith
  have quotient := fx_div ((num - den) * 2 ^ fxBits) (num + den)
  rw [fx_scaled, Nat.cast_sub low, Nat.cast_add, ← hr] at quotient
  have near := sum_near (x := fun k => fx (lnPower ((num - den) * 2 ^ fxBits / (num + den)) k / (2 * k + 1)))
    (y := fun k : Nat => r ^ (2 * k + 1) / (2 * k + 1 : ℝ)) (e := 362 * fxUnit) (n := 120) fun k hk => by
      obtain ⟨lowK, highK⟩ := lnPower_near quotient.1 quotient.2 nonneg small k
      obtain ⟨low', high'⟩ := fx_div (lnPower ((num - den) * 2 ^ fxBits / (num + den)) k) (2 * k + 1)
      have divisor : (1 : ℝ) ≤ (2 * k + 1 : Nat) := by exact_mod_cast Nat.le_add_left 1 _
      have bound : (k : ℝ) ≤ 120 := by exact_mod_cast hk.le
      have cast : (2 * k + 1 : ℝ) = (2 * k + 1 : Nat) := by push_cast; ring
      rw [cast]
      have errors : (r ^ (2 * k + 1) - fx (lnPower ((num - den) * 2 ^ fxBits / (num + den)) k)) / (2 * k + 1 : Nat) ≤ 361 * fxUnit :=
        (div_le_self (by linarith) divisor).trans (by nlinarith)
      rw [sub_div] at errors
      refine ⟨low'.trans (div_le_div_of_nonneg_right lowK (by linarith)), le_trans ?_ high'⟩
      linarith
  rw [← fx_sum] at near
  have series := Real.sum_range_sub_log_div_le (x := r) (by rw [abs_of_nonneg nonneg]; linarith) 120
  have ratio : (1 + r) / (1 - r) = num / den := by
    rw [div_eq_div_iff (by linarith) denPos.ne', hr]
    have : (num : ℝ) + den ≠ 0 := by linarith
    field_simp
    ring
  rw [ratio] at series
  have tail := abs_le.1 (series.trans (log_series_tail nonneg small))
  rw [lnFx_eq, two_mul, fx_add]
  refine abs_le.2 ⟨?_, ?_⟩ <;> push_cast at * <;> linarith

/-- A quotient of units, in units. -/
theorem fx_quotient (a b : Nat) : fx (a * 2 ^ fxBits / b) ≤ fx a / fx b ∧ fx a / fx b - fxUnit ≤ fx (a * 2 ^ fxBits / b) := by
  have ratio : fx a / fx b = a / b := by
    unfold fx
    exact div_div_div_cancel_right₀ (by positivity) _ _
  have := fx_div (a * 2 ^ fxBits) b
  rwa [fx_scaled, ← ratio] at this

/-- The binary logarithm that is formed of a fraction from 1 to 2. -/
theorem log2Fx_near {num den : Nat} (positive : 0 < den) (low : den ≤ num) (high : num < 2 * den) :
    |fx (lnFx num den * 2 ^ fxBits / ln2Fx) - Real.logb 2 (num / den)| ≤ 1000000 * fxUnit := by
  have unit := fxUnit_pos
  have denPos : (0 : ℝ) < den := by exact_mod_cast positive
  obtain ⟨twoLow, twoHigh⟩ := log_two_bounds
  obtain ⟨lLow, lHigh⟩ := ln2Fx_bounds
  have ln := abs_le.1 (lnFx_near positive low high)
  have ln2 := abs_le.1 ln2Fx_near
  obtain ⟨below, above⟩ := fx_quotient (lnFx num den) ln2Fx
  have nonneg : 0 ≤ Real.log (num / den) := Real.log_nonneg ((one_le_div denPos).2 (by exact_mod_cast low))
  have bound : Real.log (num / den) ≤ Real.log 2 := Real.log_le_log (div_pos (by
    have : (den : ℝ) ≤ num := by exact_mod_cast low
    linarith) denPos) ((div_le_iff₀ denPos).2 (by exact_mod_cast high.le))
  have ratio : |fx (lnFx num den) / fx ln2Fx - Real.logb 2 (num / den)| ≤ 900000 * fxUnit := by
    rw [Real.logb, div_sub_div _ _ (by linarith) (by linarith), abs_div, abs_of_pos (mul_pos (by linarith) (by linarith) : 0 < fx ln2Fx * Real.log 2),
      div_le_iff₀ (mul_pos (by linarith) (by linarith))]
    have product : 1 / 4 ≤ fx ln2Fx * Real.log 2 := by nlinarith
    have : |fx (lnFx num den) * Real.log 2 - fx ln2Fx * Real.log (num / den)| ≤ 90000 * fxUnit + 341 * fxUnit := by
      have split : fx (lnFx num den) * Real.log 2 - fx ln2Fx * Real.log (num / den) =
          (fx (lnFx num den) - Real.log (num / den)) * Real.log 2 - (fx ln2Fx - Real.log 2) * Real.log (num / den) := by ring
      rw [split]
      refine (abs_sub _ _).trans (add_le_add ?_ ?_)
      · rw [abs_mul, abs_of_nonneg (by linarith : 0 ≤ Real.log 2)]
        exact (mul_le_of_le_one_right (abs_nonneg _) (by linarith)).trans (abs_le.2 ln)
      · rw [abs_mul, abs_of_nonneg nonneg]
        exact (mul_le_of_le_one_right (abs_nonneg _) (by linarith)).trans (abs_le.2 ln2)
    nlinarith
  have := abs_le.1 ratio
  refine abs_le.2 ⟨?_, ?_⟩ <;> linarith

end Sys2Proof.Machine
end

section
/-! The special functions and floating reductions (O27, 05 R174 to R177). -/

namespace Sys2Proof.Machine

/-! ### Inexact powers and logarithms (R174, log 11) -/

theorem Num.rat_cast (n : Num) : ((n.rat : ℚ) : ℝ) = (if n.neg then -1 else 1) * n.m * (2 : ℝ) ^ n.e := by
  unfold Num.rat
  split <;> push_cast <;> ring

/-- The power of N units of 2^-320. -/
theorem expUnits_near {N : ℤ} {x : ℝ} (value : x = N / 2 ^ fxBits) :
    (expUnits N).neg = false ∧ |((expUnits N).rat : ℝ) - (2 : ℝ) ^ x| ≤ (2 : ℝ) ^ x / 2 ^ 64 := by
  have unit : 0 < ((2 ^ fxBits : Nat) : ℤ) := by exact_mod_cast Nat.two_pow_pos fxBits
  obtain ⟨i, hi⟩ : ∃ i, i = N.fdiv (2 ^ fxBits : Nat) := ⟨_, rfl⟩
  obtain ⟨f, hf⟩ : ∃ f : Nat, N - i * (2 ^ fxBits : Nat) = f := by
    refine Int.eq_ofNat_of_zero_le ?_
    rw [hi, Int.fdiv_eq_ediv_of_nonneg _ unit.le]
    have := Int.ediv_mul_le N unit.ne'
    linarith
  have below : f < 2 ^ fxBits := by
    have : N < (i + 1) * (2 ^ fxBits : Nat) := by
      rw [hi, Int.fdiv_eq_ediv_of_nonneg _ unit.le]
      exact Int.lt_ediv_add_one_mul_self N unit
    zify
    push_cast at *
    linarith
  have split : x = i + fx f := by
    have : (N : ℝ) = i * 2 ^ fxBits + f := by
      have : N = i * (2 ^ fxBits : Nat) + f := by omega
      exact_mod_cast this
    rw [value, this, fx, add_div, mul_div_cancel_right₀ _ (by positivity)]
  have power : (2 : ℝ) ^ x = (2 : ℝ) ^ i * (2 : ℝ) ^ fx f := by
    rw [split, Real.rpow_add two_pos, Real.rpow_intCast]
  have formed : expUnits N = if (f : ℤ) = 0 then { neg := false, m := 1, e := i }
      else { neg := false, m := expFx (f * ln2Fx / 2 ^ fxBits), e := i - fxBits, st := true } := by
    rw [expUnits]
    simp only [← hi, hf, Int.toNat_natCast]
  rw [formed]
  split
  next zero =>
    refine ⟨rfl, ?_⟩
    have : fx f = 0 := by rw [Int.natCast_eq_zero.1 zero, fx, Nat.cast_zero, zero_div]
    have value' : (((⟨false, 1, i, false⟩ : Num).rat : ℚ) : ℝ) = (2 : ℝ) ^ x := by
      rw [power, this, Num.rat_cast, Real.rpow_zero]
      simp
    rw [value', sub_self, abs_zero]
    positivity
  next =>
    refine ⟨rfl, ?_⟩
    have value' : (((⟨false, expFx (f * ln2Fx / 2 ^ fxBits), i - fxBits, true⟩ : Num).rat : ℚ) : ℝ) =
        (2 : ℝ) ^ i * fx (expFx (f * ln2Fx / 2 ^ fxBits)) := by
      rw [Num.rat_cast, zpow_sub₀ two_ne_zero, zpow_natCast, fx]
      simp only [Bool.false_eq_true, if_false]
      ring
    rw [value', power, ← mul_sub, abs_mul, abs_of_pos (by positivity : (0 : ℝ) < (2 : ℝ) ^ i), mul_div_assoc]
    exact mul_le_mul_of_nonneg_left (expFx_power below) (by positivity)

/-- VEXP2 within 2^16. -/
theorem exp2Num_approx {u : Num} (fine : -(fxBits : ℤ) ≤ u.e) (near : |u.rat| < (2 : ℚ) ^ (16 : ℤ)) :
    (exp2Num u).neg = false ∧ |((exp2Num u).rat : ℝ) - (2 : ℝ) ^ (u.rat : ℝ)| ≤ (2 : ℝ) ^ (u.rat : ℝ) / 2 ^ 64 := by
  by_cases zero : u.m = 0
  · rw [exp2Num, if_pos zero, rat_of_zero zero]
    refine ⟨rfl, ?_⟩
    rw [Num.rat_cast]
    simp
  · rw [exp2Num_near zero near]
    refine expUnits_near ?_
    rw [eq_div_iff (by positivity)]
    have := numUnits_fx fine
    exact_mod_cast this.symm

/-- VEXP2 beyond 2^16 lies beyond every format's range. -/
theorem exp2Num_beyond {u : Num} (far : (2 : ℚ) ^ (16 : ℤ) ≤ |u.rat|) :
    (exp2Num u).neg = false ∧ (0 < u.rat → (2 : ℚ) ^ 1000 ≤ (exp2Num u).rat) ∧
      (u.rat < 0 → 0 < (exp2Num u).rat ∧ (exp2Num u).rat ≤ 1 / (2 : ℚ) ^ 1000) := by
  have magnitude : (0 : ℚ) ≤ u.m * (2 : ℚ) ^ u.e := by positivity
  rw [exp2Num_far far]
  cases negative : u.neg
  · have value : u.rat = u.m * (2 : ℚ) ^ u.e := by rw [u.rat_eq_signedRat, negative]; rfl
    rw [← value] at magnitude
    refine ⟨rfl, fun _ => ?_, fun below => absurd below (not_lt.2 magnitude)⟩
    simp only [Num.rat, Bool.false_eq_true, if_false, Nat.cast_one, one_mul]
    rw [← zpow_natCast]
    exact zpow_le_zpow_right₀ one_le_two (by decide)
  · have value : u.rat = -(u.m * (2 : ℚ) ^ u.e) := by rw [u.rat_eq_signedRat, negative]; rfl
    refine ⟨rfl, fun above => absurd above (not_lt.2 (by rw [value]; exact neg_nonpos.2 magnitude)), fun _ => ?_⟩
    simp only [Num.rat, if_true, Bool.false_eq_true, if_false, Nat.cast_one, one_mul]
    rw [one_div, ← zpow_natCast, ← zpow_neg]
    exact ⟨by positivity, zpow_le_zpow_right₀ one_le_two (by decide)⟩

/-- The number of v units of 2^-320 with a sticky mark lies within one unit of them. -/
theorem log_units_near (v : ℤ) : |((if 0 ≤ v then { neg := false, m := v.natAbs, e := -(fxBits : Int), st := true }
      else { neg := true, m := v.natAbs - 1, e := -(fxBits : Int), st := true } : Num).rat : ℝ) - v / 2 ^ fxBits| ≤ fxUnit := by
  have unit := fxUnit_pos
  have scale : (2 : ℝ) ^ (-(fxBits : ℤ)) = fxUnit := by rw [fxUnit, zpow_neg, zpow_natCast, one_div]
  have units : (v : ℝ) / 2 ^ fxBits = v * fxUnit := by rw [fxUnit]; ring
  rw [units]
  split
  next nonneg =>
    have : ((v.natAbs : ℕ) : ℝ) = v := by rw [Nat.cast_natAbs, abs_of_nonneg nonneg]
    rw [Num.rat_cast, scale, this]
    simpa using unit.le
  next negative =>
    have : ((v.natAbs - 1 : ℕ) : ℝ) = -v - 1 := by
      have : ((v.natAbs - 1 : ℕ) : ℤ) = -v - 1 := by omega
      exact_mod_cast this
    rw [Num.rat_cast, scale, this]
    have difference : (-1 : ℝ) * (-v - 1) * fxUnit - v * fxUnit = fxUnit := by ring
    simp only [if_true]
    rw [difference, abs_of_pos unit]

/-- VLOG2 of a positive value. -/
theorem log2Num_near {u : Num} (nonzero : u.m ≠ 0) (positive : u.neg = false) :
    |((log2Num u).rat : ℝ) - Real.logb 2 (u.rat : ℝ)| ≤ 1 / 2 ^ 64 := by
  have value : (u.rat : ℝ) = u.m * (2 : ℝ) ^ u.e := by
    rw [Num.rat_cast, positive]
    simp
  obtain ⟨l, hl⟩ : ∃ l, l = bitLen u.m - 1 := ⟨_, rfl⟩
  obtain ⟨low, length⟩ := two_pow_le_of_bitLen nonzero
  have high := lt_two_pow_bitLen u.m
  rw [← hl] at low
  rw [show bitLen u.m = l + 1 by omega, Nat.pow_succ'] at high
  have mPos : (0 : ℝ) < u.m := by exact_mod_cast Nat.pos_of_ne_zero nonzero
  have lead : Real.logb 2 (u.rat : ℝ) = (u.e + l : ℤ) + Real.logb 2 (u.m / (2 ^ l : Nat)) := by
    have : (u.rat : ℝ) = (2 : ℝ) ^ (u.e + l) * (u.m / (2 ^ l : Nat)) := by
      rw [value, zpow_add₀ two_ne_zero, zpow_natCast]
      push_cast
      field_simp
    rw [this, Real.logb_mul (by positivity) (by positivity), ← Real.rpow_intCast, Real.logb_rpow two_pos (by norm_num)]
  by_cases power : u.m = 2 ^ l
  · rw [log2Num_two_pow power, lead, power, div_self (by positivity), Real.logb_one, add_zero, Num.rat_cast]
    have : (if decide (u.e + (l : ℤ) < 0) = true then -1 else 1) * ((u.e + (l : ℤ)).natAbs : ℝ) * (2 : ℝ) ^ (0 : ℤ) = (u.e + l : ℤ) := by
      simp only [zpow_zero, mul_one, Nat.cast_natAbs, decide_eq_true_eq]
      split
      next negative => rw [abs_of_neg negative]; push_cast; ring
      next nonneg => rw [abs_of_nonneg (not_lt.1 nonneg), one_mul]
    rw [this, sub_self, abs_zero]
    positivity
  · obtain ⟨v, hv⟩ : ∃ v : ℤ, v = (u.e + l) * (2 ^ fxBits : Nat) + (lnFx u.m (2 ^ l) * 2 ^ fxBits / ln2Fx : Nat) := ⟨_, rfl⟩
    have formed : log2Num u = if 0 ≤ v then { neg := false, m := v.natAbs, e := -(fxBits : Int), st := true }
        else { neg := true, m := v.natAbs - 1, e := -(fxBits : Int), st := true } := by
      rw [log2Num]
      simp only [← hl, if_neg power, ← hv]
    have units : (v : ℝ) / 2 ^ fxBits = (u.e + l : ℤ) + fx (lnFx u.m (2 ^ l) * 2 ^ fxBits / ln2Fx) := by
      have : (v : ℝ) = (u.e + l : ℤ) * 2 ^ fxBits + (lnFx u.m (2 ^ l) * 2 ^ fxBits / ln2Fx : Nat) := by
        rw [hv, Int.cast_add, Int.cast_mul, Int.cast_natCast, Int.cast_natCast, Nat.cast_pow, Nat.cast_ofNat]
      rw [this, add_div, mul_div_cancel_right₀ _ (by positivity), fx]
    have rounding := abs_le.1 (log_units_near v)
    have fraction := abs_le.1 (log2Fx_near (Nat.two_pow_pos l) low high)
    have errors : fxUnit + 1000000 * fxUnit ≤ 1 / 2 ^ 64 := by
      have := small_errors.1
      norm_num at this ⊢
      linarith
    rw [formed, lead]
    rw [units] at rounding
    refine abs_le.2 ⟨?_, ?_⟩ <;> linarith

end Sys2Proof.Machine
end

section
/-! The special functions and floating reductions are settled (O27, 05 R174 to R177). -/

namespace Sys2Proof.Machine

theorem isNan_of_mem_activeVals {t : Strand} {f : Nat} {a : VReg} {pg : PReg} (g : FFmt) :
    (∃ x ∈ (activeVals t f a pg).reduceOption, isNan (decodeFp g x) = true) ↔
      ∃ j, j < 512 / fmtBits f ∧ laneActive t pg (fmtBits f) j = true ∧ isNan (decodeFp g (elemAt (fmtBits f) (t.getV a) j)) = true := by
  simp only [mem_activeVals]
  constructor
  · rintro ⟨x, ⟨j, hj, active, rfl⟩, nan⟩
    exact ⟨j, hj, active, nan⟩
  · rintro ⟨j, hj, active, nan⟩
    exact ⟨_, ⟨j, hj, active, rfl⟩, nan⟩

theorem activeVals_eq_nil {t : Strand} {f : Nat} {a : VReg} {pg : PReg} :
    (activeVals t f a pg).reduceOption = [] ↔ ¬ ∃ j, j < 512 / fmtBits f ∧ laneActive t pg (fmtBits f) j = true := by
  rw [List.eq_nil_iff_forall_not_mem]
  simp only [mem_activeVals]
  constructor
  · rintro none' ⟨j, hj, active⟩
    exact none' _ ⟨j, hj, active, rfl⟩
  · rintro none' x ⟨j, hj, active, -⟩
    exact none' ⟨j, hj, active⟩

/-- The infinity that stands for no element (R108). -/
theorem extreme_identity (et : FpEt) (max : Bool) : withSign (ffmtOf (fpFmt et)) max ((ffmtOf (fpFmt et)).maxEnc + 1) =
    (ffmtOf (fpFmt et)).maxEnc + 1 + if max then 2 ^ (fmtBits (fpFmt et) - 1) else 0 := by
  cases et <;> cases max <;> rfl

/-- VFRMAX and VFRMIN lane by lane (R177): `le` is the order in which no active element comes before the one that is written. -/
theorem extreme_picks (t : Strand) (et : FpEt) (a : VReg) (pg : PReg) (max : Bool) {le : FVal → FVal → Prop}
    (bounds : ∀ r y, isNan r = false → isNan y = false → (if max then y.ext ≤ r.ext else r.ext ≤ y.ext) → le r y) :
    let f := ffmtOf (fpFmt et)
    let w := fmtBits (fpFmt et)
    let r := extremeResult t et a pg max
    let act (j : Nat) : Prop := pg = 0 ∨ (t.getP pg).getLsbD (w / 8 * j) = true
    let x (j : Nat) : FVal := decodeFp f (elemAt w (t.getV a) j)
    if ∃ j, j < 512 / w ∧ act j ∧ isNan (x j) = true then r = f.nan
    else if ∃ j, j < 512 / w ∧ act j then
      (∃ j, j < 512 / w ∧ act j ∧ r = elemAt w (t.getV a) j) ∧ ∀ j, j < 512 / w → act j → le (decodeFp f r) (x j)
    else r = f.maxEnc + 1 + if max then 2 ^ (w - 1) else 0 := by
  intro f w r act x
  have spec := extremeResult_spec t et a pg max
  simp only [isNan_of_mem_activeVals, activeVals_eq_nil, laneActive_iff, ite_not] at spec
  rw [extreme_identity] at spec
  split
  next nan =>
    rw [if_pos nan] at spec
    exact spec
  next number =>
    rw [if_neg number] at spec
    split
    next some' =>
      rw [if_pos some'] at spec
      obtain ⟨selected, extreme⟩ := spec
      obtain ⟨k, hk, active, value⟩ := mem_activeVals.1 selected
      have isNumber {j : Nat} (hj : j < 512 / w) (active : act j) : isNan (x j) = false :=
        Bool.eq_false_iff.2 fun nan => number ⟨j, hj, active, nan⟩
      refine ⟨⟨k, hk, (laneActive_iff ..).1 active, value.symm⟩, fun j hj activeJ => bounds _ _ ?_ (isNumber hj activeJ) ?_⟩
      · rw [show r = elemAt w (t.getV a) k from value.symm]
        exact isNumber hk ((laneActive_iff ..).1 active)
      · exact extreme _ (mem_activeVals.2 ⟨j, hj, (laneActive_iff ..).2 activeJ, rfl⟩)
    next none' =>
      rw [if_neg none'] at spec
      exact spec

/-- What is not below in the order of values. -/
theorem ltVal_false {x y : FVal} (hx : isNan x = false) (hy : isNan y = false) (h : y.ext ≤ x.ext) : ltVal x y = false :=
  Bool.eq_false_iff.2 fun less => absurd ((ltVal_iff hx hy).1 less) (not_lt.2 h)

/-- The tree of VFRSUM by levels, and its root (R108, R109). -/
theorem sumRoot_levels (t : Strand) (et : FpEt) (a : VReg) (pg : PReg) :
    let w := fmtBits (fpFmt et)
    let V := treeAt (sumNode (effMode t.status)) (sumLanes t et a pg)
    (∀ j, j < 512 / w → V 0 j = if laneActive t pg w j then some (fpElem (fpFmt et) (t.getV a) j, 0) else none) ∧
      (∀ l j, j < 512 / w / 2 ^ (l + 1) → V (l + 1) j = treeNode (sumNode (effMode t.status)) (V l (2 * j)) (V l (2 * j + 1))) ∧
      sumRoot t et a pg = (V (Nat.log2 (512 / w)) 0).getD (.fin { neg := false, m := 0, e := 0 }, 0) := by
  intro w V
  have len : (sumLanes t et a pg).length = 2 ^ treeDepth (512 / w) := (sumLanes_length t et a pg).trans (fpLanes_pow et)
  have depth : treeDepth (512 / w) = Nat.log2 (512 / w) := rfl
  refine ⟨fun j hj => sumLanes_at t et a pg hj, fun l j hj => treeAt_succ _ len ?_, ?_⟩
  · rwa [← fpLanes_pow et]
  · rw [sumRoot, sumLanes_length, treeRoot_eq, ← depth]
    rfl

/-- The values of the special functions where they are exact, bracketed or near (R174, R175, log 11). -/
theorem special_values :
    (∀ (u : Num) (k : Int), -320 ≤ u.e → u.rat = k → -1024 ≤ k → k ≤ 1024 →
      SpecialFn.exp2.value (.fin u) = (.fin { neg := false, m := 1, e := k }, 0)) ∧
    (∀ u : Num, u.st = false → -320 ≤ u.e → |u.rat| < 2 ^ 16 → ∃ n : Num,
      SpecialFn.exp2.value (.fin u) = (.fin n, 0) ∧ n.neg = false ∧
      |(n.rat : ℝ) - (2 : ℝ) ^ (u.rat : ℝ)| ≤ (2 : ℝ) ^ (u.rat : ℝ) / 2 ^ 64) ∧
    (∀ u : Num, u.st = false → 2 ^ 16 ≤ |u.rat| → ∃ n : Num, SpecialFn.exp2.value (.fin u) = (.fin n, 0) ∧
      n.neg = false ∧ (0 < u.rat → (2 : ℚ) ^ 1000 ≤ n.rat) ∧ (u.rat < 0 → 0 < n.rat ∧ n.rat ≤ 1 / (2 : ℚ) ^ 1000)) ∧
    ∀ u : Num, u.m ≠ 0 → u.st = false →
      (∃ n : Num, SpecialFn.rcp.value (.fin u) = (.fin n, 0) ∧ n.neg = u.neg ∧ (∀ l, u.m = 2 ^ l → n.st = false) ∧
        (n.st = false → n.rat * u.rat = 1) ∧
        (n.st = true → n.rat * u.rat < 1 ∧ 1 < Num.rat { n with m := n.m + 1 } * u.rat)) ∧
      (u.neg = true → SpecialFn.rsq.value (.fin u) = (.nan false, fgInvalid) ∧
        SpecialFn.log2.value (.fin u) = (.nan false, fgInvalid)) ∧
      (u.neg = false → (∃ n : Num, SpecialFn.rsq.value (.fin u) = (.fin n, 0) ∧ n.neg = false ∧
          (∀ l : Nat, u.m = 2 ^ l → (u.e + l) % 2 = 0 → n.st = false) ∧ (n.st = false → n.rat ^ 2 * u.rat = 1) ∧
          (n.st = true → n.rat ^ 2 * u.rat < 1 ∧ 1 < Num.rat { n with m := n.m + 1 } ^ 2 * u.rat)) ∧
        (∀ l : Nat, u.m = 2 ^ l → SpecialFn.log2.value (.fin u) =
          (.fin { neg := decide (u.e + l < 0), m := (u.e + l).natAbs, e := 0 }, 0)) ∧
        ∃ n : Num, SpecialFn.log2.value (.fin u) = (.fin n, 0) ∧ |(n.rat : ℝ) - Real.logb 2 (u.rat : ℝ)| ≤ 1 / 2 ^ 64) := by
  have power : (2 : ℚ) ^ 16 = (2 : ℚ) ^ (16 : ℤ) := by norm_num
  rw [power]
  refine ⟨fun u k fine whole low high => ?_, fun u _ fine near => ⟨_, rfl, exp2Num_approx fine near⟩,
    fun u _ far => ⟨_, rfl, exp2Num_beyond far⟩, fun u nonzero _ => ⟨?_, fun negative => ?_, fun positive => ?_⟩⟩
  · rw [SpecialFn.value, exp2Num_whole fine whole low high]
  · exact ⟨_, by rw [SpecialFn.value, if_neg nonzero], rcp_bracket nonzero rfl rfl⟩
  · simp only [SpecialFn.value, if_neg nonzero, negative, if_true, and_self]
  · have root : SpecialFn.rsq.value (.fin u) = (.fin (rsqNum u), 0) := by
      simp only [SpecialFn.value, if_neg nonzero, positive, Bool.false_eq_true, if_false]
    have log : SpecialFn.log2.value (.fin u) = (.fin (log2Num u), 0) := by
      simp only [SpecialFn.value, if_neg nonzero, positive, Bool.false_eq_true, if_false]
    exact ⟨⟨_, root, rsqNum_bracket nonzero positive rfl⟩, fun l two => log.trans (by rw [log2Num_two_pow two]),
      _, log, log2Num_near nonzero positive⟩

/-- Settles O27: the special functions by their values, VFRSUM by the levels of its tree, VFRMAX and VFRMIN by what the tree selects. -/
theorem floatingFunctionsAndReductions : Obligations.FloatingFunctionsAndReductions := by
  intro s et d a pg agent unbound t o mode sat act fills admitted fa fd w x put special picks
  have range : 6 ≤ fd ∧ fd ≤ 10 := effFmt_range (fpFmt_mem et) (field_inForce rfl fun pending => by
    obtain ⟨-, -, hfd⟩ := admitted pending
    exact hfd.imp_right fun h => ⟨h.1, by omega⟩)
  have accepts (pending : stPP t.status = true) : acceptSpecial o = true := (acceptSpecial_iff o).2 (admitted pending)
  have function {i : Instr} {f : SpecialFn} (h : exec i s = s.fpSpecial i et d a pg f) : special i f :=
    fpSpecial_fills agent unbound h rfl range accepts
  obtain ⟨whole, near, far, values⟩ := special_values
  refine ⟨function rfl, function rfl, function rfl, function rfl, fun neg => ⟨rfl, rfl, rfl, rfl⟩, fun neg e => ⟨rfl, rfl, rfl, rfl⟩,
    rfl, rfl, rfl, rfl, rfl, rfl, fun neg => rfl, whole, near, far, values, ?_, fun nothing => ?_⟩
  · obtain ⟨leaves, nodes, root⟩ := sumRoot_levels t et a pg
    refine ⟨treeAt (sumNode mode) (sumLanes t et a pg), fun j hj => ?_, fun l j hj => ?_, ?_⟩
    · rw [leaves j hj, if_congr (laneActive_iff ..) rfl rfl]
      exact ⟨fun active => if_pos active, fun idle => if_neg idle⟩
    · rw [nodes l j hj]
      cases treeAt (sumNode mode) (sumLanes t et a pg) l (2 * j) <;>
        cases treeAt (sumNode mode) (sumLanes t et a pg) l (2 * j + 1) <;> rfl
    · have completes := vfrsum_completes (a := a) (d := d) (pg := pg) agent unbound (et := et) (fd := fd) rfl accepts
      rw [root] at completes
      exact completes
  · have none' (pending : stPP t.status = true) : acceptNone o = true := by
      obtain ⟨hfa, hfb, -⟩ := admitted pending
      obtain ⟨hfd, hrm, hsat⟩ := nothing pending
      simp [acceptNone, modesNone, hfa, hfb, hfd, hrm, hsat]
    exact ⟨⟨_, fpReduce_completes agent unbound (max := true) rfl none', extreme_picks t et a pg true fun r y hr hy => ltVal_false hr hy⟩,
      _, fpReduce_completes agent unbound (max := false) rfl none', extreme_picks t et a pg false fun r y hr hy => ltVal_false hy hr⟩

end Sys2Proof.Machine
end

section
/-! The scalar registers and the integer instructions (O8 to O12): a write of one x register, and the values that 04 Table 9 and Table 10
give for it. -/

namespace Sys2Proof.Machine

/-- Settles O8: a register read after a write. -/
theorem zeroRegister : Obligations.ZeroRegister := fun t _ _ v =>
  ⟨rfl, rfl, t.getX_setX_self v, t.getX_setX_ne v⟩

/-- An instruction of the frame that writes one x register completes with the value that the frame computes. -/
theorem completes_of_runX {s : State} {i : Instr} {d : XReg} {v : Word} (f : Strand → Word) (plain : s.plain)
    (frame : exec i s = s.runX i d f) (value : f s.strand = v) : Completes i s (s.strand.setX d v) := by
  rw [Completes, frame, State.runX_completes d f plain, value]

/-! ### Sums and bitwise operations (R137) -/

theorem add_sext12 (x : Word) (imm : BitVec 12) : x + sext12 imm = BitVec.ofInt 64 (x.toInt + imm.toInt) := by
  rw [BitVec.ofInt_add, BitVec.ofInt_toInt]
  rfl

theorem getLsbD_sext12 (imm : BitVec 12) {i : Nat} (hi : i < 64) :
    (sext12 imm).getLsbD i = if i < 12 then imm.getLsbD i else imm.getLsbD 11 := by
  rw [sext12, BitVec.getLsbD_signExtend, decide_eq_true hi, Bool.true_and, BitVec.msb_eq_getLsbD_last]

/-- Settles O9: each instruction is a write of one register, whose value is a sum or, bit by bit, a bitwise result. -/
theorem sumsAndLogic : Obligations.SumsAndLogic := by
  intro s d a b imm plain t x y
  have writes {i : Instr} {v : Word} (f : Strand → Word) := completes_of_runX (i := i) (d := d) (v := v) f plain
  refine ⟨writes (fun t => t.getX a + sext12 imm) rfl (add_sext12 x imm), writes (fun t => t.getX a + t.getX b) rfl ?sum,
    writes (fun t => t.getX a - t.getX b) rfl ?difference,
    ⟨_, writes (fun t => t.getX a ^^^ sext12 imm) rfl rfl, fun i hi => ?xori⟩,
    ⟨_, writes (fun t => t.getX a ||| sext12 imm) rfl rfl, fun i hi => ?ori⟩,
    ⟨_, writes (fun t => t.getX a &&& sext12 imm) rfl rfl, fun i hi => ?andi⟩,
    ⟨_, writes (fun t => t.getX a ^^^ t.getX b) rfl rfl, fun i _ => ?xor⟩,
    ⟨_, writes (fun t => t.getX a ||| t.getX b) rfl rfl, fun i _ => ?or⟩,
    ⟨_, writes (fun t => t.getX a &&& t.getX b) rfl rfl, fun i _ => ?and⟩⟩
  case sum => rw [BitVec.ofNat_add, BitVec.ofNat_toNat, BitVec.ofNat_toNat, BitVec.setWidth_eq, BitVec.setWidth_eq]
  case difference =>
    rw [Int.sub_eq_add_neg, BitVec.ofInt_add, BitVec.ofInt_neg, BitVec.ofInt_toInt, BitVec.ofInt_toInt, ← BitVec.sub_eq_add_neg]
  case xori => rw [BitVec.getLsbD_xor, getLsbD_sext12 imm hi]
  case ori => rw [BitVec.getLsbD_or, getLsbD_sext12 imm hi]
  case andi => rw [BitVec.getLsbD_and, getLsbD_sext12 imm hi]
  case xor => rw [BitVec.getLsbD_xor]
  case or => rw [BitVec.getLsbD_or]
  case and => rw [BitVec.getLsbD_and]

/-! ### Shifts, comparisons and extrema (R137) -/

theorem shiftLeft_eq_mul (x : Word) (n : Nat) : x <<< n = BitVec.ofNat 64 (x.toNat * 2 ^ n) := by
  apply BitVec.eq_of_toNat_eq
  rw [BitVec.toNat_shiftLeft, Nat.shiftLeft_eq, BitVec.toNat_ofNat]

theorem ushiftRight_eq_div (x : Word) (n : Nat) : x >>> n = BitVec.ofNat 64 (x.toNat / 2 ^ n) := by
  apply BitVec.eq_of_toNat_eq
  rw [BitVec.toNat_ushiftRight, Nat.shiftRight_eq_div_pow, BitVec.toNat_ofNat,
    Nat.mod_eq_of_lt (Nat.lt_of_le_of_lt (Nat.div_le_self ..) x.isLt)]

theorem sshiftRight_eq_div (x : Word) (n : Nat) : x.sshiftRight n = BitVec.ofInt 64 (x.toInt / (2 ^ n : Nat)) := by
  rw [BitVec.sshiftRight_eq, Int.shiftRight_eq_div_pow]

/-- The shift amount of a register form is its value modulo 64. -/
theorem shamt_eq (w : Word) : shamt w = w.toNat % 64 := by
  rw [shamt, BitVec.extractLsb'_toNat, Nat.shiftRight_zero]

theorem toInt_sext12 (imm : BitVec 12) : (sext12 imm).toInt = imm.toInt := BitVec.toInt_signExtend_of_le (by decide)

theorem flagWord_decide (p : Prop) [Decidable p] : flagWord (decide p) = if p then 1 else 0 := by
  simp only [flagWord, decide_eq_true_eq]

/-- The smaller of two registers, by values that order them as the test does and that determine the register. -/
theorem ite_lt_eq_min {α : Type} [LinearOrder α] {val : Word → α} {word : α → Word} (inv : ∀ w, word (val w) = w) (x y : Word) :
    (if val y < val x then y else x) = word (min (val x) (val y)) := by
  split
  next lt => rw [min_eq_right lt.le, inv]
  next ge => rw [min_eq_left (not_lt.1 ge), inv]

theorem ite_lt_eq_max {α : Type} [LinearOrder α] {val : Word → α} {word : α → Word} (inv : ∀ w, word (val w) = w) (x y : Word) :
    (if val x < val y then y else x) = word (max (val x) (val y)) := by
  split
  next lt => rw [max_eq_right lt.le, inv]
  next ge => rw [max_eq_left (not_lt.1 ge), inv]

theorem ofNat_toNat_word (w : Word) : BitVec.ofNat 64 w.toNat = w := by rw [BitVec.ofNat_toNat, BitVec.setWidth_eq]

/-! ### Counts (R137) -/

theorem bitLen_le_of_lt {m n : Nat} (h : m < 2 ^ n) : bitLen m ≤ n := by
  by_cases zero : m = 0
  · simp [bitLen, zero]
  · obtain ⟨low, pos⟩ := two_pow_le_of_bitLen zero
    have : bitLen m - 1 < n := (Nat.pow_lt_pow_iff_right (by decide)).1 (low.trans_lt h)
    omega

/-- The leading zeros of a word are those above its highest one bit. -/
theorem leadingZeros_spec (x : Word) : x.toNat < 2 ^ (64 - (64 - bitLen x.toNat)) ∧
    (64 - bitLen x.toNat < 64 → 2 ^ (63 - (64 - bitLen x.toNat)) ≤ x.toNat) := by
  have short : bitLen x.toNat ≤ 64 := bitLen_le_of_lt x.isLt
  refine ⟨?_, fun some_bit => ?_⟩
  · rw [Nat.sub_sub_self short]
    exact lt_two_pow_bitLen _
  · have nonzero : x.toNat ≠ 0 := fun zero => by simp [bitLen, zero] at some_bit
    rw [show 63 - (64 - bitLen x.toNat) = bitLen x.toNat - 1 by omega]
    exact (two_pow_le_of_bitLen nonzero).1

/-- The trailing zeros of a word are those below its lowest one bit. -/
theorem trailing_spec (n : Nat) (x : Word) : trailing n x ≤ n ∧ (∀ i, i < trailing n x → x.getLsbD i = false) ∧
    (trailing n x < n → x.getLsbD (trailing n x) = true) := by
  unfold trailing
  cases found : (List.range n).find? x.getLsbD with
  | none => exact ⟨le_rfl, fun i hi => by simpa using List.find?_range_eq_none.1 found i hi, fun h => absurd h (lt_irrefl n)⟩
  | some i =>
    obtain ⟨one, inside, zeros⟩ := List.find?_range_eq_some.1 found
    exact ⟨(List.mem_range.1 inside).le, fun j hj => by simpa using zeros j hj, fun _ => one⟩

theorem foldl_count (p : Nat → Bool) (l : List Nat) (acc : Nat) :
    l.foldl (fun acc i => if p i then acc + 1 else acc) acc = acc + l.countP p := by
  induction l generalizing acc with
  | nil => rfl
  | cons i l ih =>
    rw [List.foldl_cons, ih, List.countP_cons]
    split <;> omega

theorem popcount_eq_countP {n : Nat} (w : BitVec n) : popcount w = (List.range n).countP fun i => w.getLsbD i := by
  rw [popcount, foldl_count, Nat.zero_add]

theorem upper_eq (u : BitVec 20) : upper u = BitVec.ofInt 64 (u.toInt * 4096) := by
  rw [upper, BitVec.signExtend, BitVec.toInt_append_zero, mul_comm]
  rfl

/-- Settles O10: each instruction is a write of one register; its value by the lemmas on shifts, comparisons, extrema and counts. -/
theorem shiftsComparesCounts : Obligations.ShiftsComparesCounts := by
  intro s d a b imm sh u plain t x y n
  have writes {i : Instr} {v : Word} (f : Strand → Word) := completes_of_runX (i := i) (d := d) (v := v) f plain
  have amount : shamt y = n := shamt_eq y
  refine ⟨writes (fun t => t.getX a <<< sh.toNat) rfl (shiftLeft_eq_mul ..),
    writes (fun t => t.getX a >>> sh.toNat) rfl (ushiftRight_eq_div ..),
    writes (fun t => (t.getX a).sshiftRight sh.toNat) rfl (sshiftRight_eq_div ..),
    writes (fun t => t.getX a <<< shamt (t.getX b)) rfl ((shiftLeft_eq_mul ..).trans (by rw [amount])),
    writes (fun t => t.getX a >>> shamt (t.getX b)) rfl ((ushiftRight_eq_div ..).trans (by rw [amount])),
    writes (fun t => (t.getX a).sshiftRight (shamt (t.getX b))) rfl ((sshiftRight_eq_div ..).trans (by rw [amount])),
    writes (fun t => flagWord ((t.getX a).slt (sext12 imm))) rfl ((flagWord_decide _).trans (by rw [toInt_sext12])),
    writes (fun t => flagWord ((t.getX a).ult (sext12 imm))) rfl (flagWord_decide _),
    writes (fun t => flagWord ((t.getX a).slt (t.getX b))) rfl (flagWord_decide _),
    writes (fun t => flagWord ((t.getX a).ult (t.getX b))) rfl (flagWord_decide _),
    writes (fun t => if (t.getX b).slt (t.getX a) then t.getX b else t.getX a) rfl ?min,
    writes (fun t => if (t.getX b).ult (t.getX a) then t.getX b else t.getX a) rfl ?minu,
    writes (fun t => if (t.getX a).slt (t.getX b) then t.getX b else t.getX a) rfl ?max,
    writes (fun t => if (t.getX a).ult (t.getX b) then t.getX b else t.getX a) rfl ?maxu,
    ⟨64 - bitLen x.toNat, Nat.sub_le .., writes (fun t => w64 (64 - bitLen (t.getX a).toNat)) rfl rfl, leadingZeros_spec x⟩,
    ⟨trailing 64 x, (trailing_spec 64 x).1, writes (fun t => w64 (trailing 64 (t.getX a))) rfl rfl, (trailing_spec 64 x).2⟩,
    writes (fun t => w64 (popcount (t.getX a))) rfl (congrArg w64 (popcount_eq_countP x)),
    writes (fun _ => upper u) rfl (upper_eq u),
    writes (fun t => t.pc + upper u) rfl (congrArg (t.pc + ·) (upper_eq u))⟩
  case min => simpa only [BitVec.slt, decide_eq_true_eq] using ite_lt_eq_min (fun w => BitVec.ofInt_toInt) x y
  case minu => simpa only [BitVec.ult, decide_eq_true_eq] using ite_lt_eq_min ofNat_toNat_word x y
  case max => simpa only [BitVec.slt, decide_eq_true_eq] using ite_lt_eq_max (fun w => BitVec.ofInt_toInt) x y
  case maxu => simpa only [BitVec.ult, decide_eq_true_eq] using ite_lt_eq_max ofNat_toNat_word x y

/-! ### Products and quotients (R137, R138) -/

theorem highWord_eq (p : Int) : highWord p = BitVec.ofInt 64 (p / 2 ^ 64) := by
  rw [highWord, Int.fdiv_eq_ediv_of_nonneg _ (by decide)]

theorem mul_eq_ofInt (x y : Word) : x * y = BitVec.ofInt 64 (x.toInt * y.toInt) := by
  rw [BitVec.ofInt_mul, BitVec.ofInt_toInt, BitVec.ofInt_toInt]

theorem highWord_natCast (n : Nat) : highWord n = BitVec.ofNat 64 (n / 2 ^ 64) := by
  rw [highWord_eq, ← BitVec.ofInt_natCast]
  norm_cast

section

variable {y : Word} (x : Word) (nonzero : y ≠ 0)
include nonzero

theorem divWord_of_ne_zero : divWord x y = BitVec.ofInt 64 (x.toInt.tdiv y.toInt) := if_neg nonzero
theorem divuWord_of_ne_zero : divuWord x y = BitVec.ofNat 64 (x.toNat / y.toNat) := if_neg nonzero
theorem remWord_of_ne_zero : remWord x y = BitVec.ofInt 64 (x.toInt.tmod y.toInt) := if_neg nonzero
theorem remuWord_of_ne_zero : remuWord x y = BitVec.ofNat 64 (x.toNat % y.toNat) := if_neg nonzero

end

/-- Settles O11: each instruction is a write of one register, whose value is a half of the exact product or what a divisor that is not
zero gives. -/
theorem productsAndQuotients : Obligations.ProductsAndQuotients := by
  intro s d a b plain t x y
  have writes {i : Instr} {v : Word} (f : Strand → Word) := completes_of_runX (i := i) (d := d) (v := v) f plain
  exact ⟨writes (fun t => t.getX a * t.getX b) rfl (mul_eq_ofInt x y),
    writes (fun t => highWord ((t.getX a).toInt * (t.getX b).toInt)) rfl (highWord_eq _),
    writes (fun t => highWord ((t.getX a).toInt * ((t.getX b).toNat : Int))) rfl (highWord_eq _),
    writes (fun t => highWord (((t.getX a).toNat * (t.getX b).toNat : Nat) : Int)) rfl (highWord_natCast _),
    fun nonzero =>
      ⟨writes (fun t => divWord (t.getX a) (t.getX b)) rfl (divWord_of_ne_zero x nonzero),
       writes (fun t => divuWord (t.getX a) (t.getX b)) rfl (divuWord_of_ne_zero x nonzero),
       writes (fun t => remWord (t.getX a) (t.getX b)) rfl (remWord_of_ne_zero x nonzero),
       writes (fun t => remuWord (t.getX a) (t.getX b)) rfl (remuWord_of_ne_zero x nonzero)⟩⟩

/-- Settles O12: the four quotients and remainders complete with the values of `divWord` to `remuWord`, which a zero divisor and the
overflow decide. -/
theorem divisionBoundaries : Obligations.DivisionBoundaries := by
  intro s d a b plain t x
  have quotient : Completes (.div d a b) s (t.setX d (divWord x (t.getX b))) :=
    completes_of_runX (fun t => divWord (t.getX a) (t.getX b)) plain rfl rfl
  have quotientU : Completes (.divu d a b) s (t.setX d (divuWord x (t.getX b))) :=
    completes_of_runX (fun t => divuWord (t.getX a) (t.getX b)) plain rfl rfl
  have remainder : Completes (.rem d a b) s (t.setX d (remWord x (t.getX b))) :=
    completes_of_runX (fun t => remWord (t.getX a) (t.getX b)) plain rfl rfl
  have remainderU : Completes (.remu d a b) s (t.setX d (remuWord x (t.getX b))) :=
    completes_of_runX (fun t => remuWord (t.getX a) (t.getX b)) plain rfl rfl
  refine ⟨fun zero => ?_, fun least minusOne => ?_, ⟨_, quotient⟩, ⟨_, quotientU⟩, ⟨_, remainder⟩, ⟨_, remainderU⟩⟩
  · rw [zero] at quotient quotientU remainder remainderU
    exact ⟨quotient, quotientU, remainder, remainderU⟩
  · rw [minusOne, least] at quotient quotientU remainder remainderU
    rw [least]
    exact ⟨quotient, remainder, quotientU, remainderU⟩

end Sys2Proof.Machine
end

section
/-! Transfers of control within a compartment (O13) and the control registers (O32). -/

namespace Sys2Proof.Machine

/-! ### Branches and jumps (R59, R139, R140) -/

/-- What a transfer of i to a target does: it leaves the strand u at the target, or raises the cause of the first condition of R58 that
fails, as BranchesAndJumps says it. -/
def Goes (s : State) (i : Instr) (target : Word) (u : Strand) : Prop :=
  let p := s.strand.pcc
  let det := capDetail opPcc 0 (target.extractLsb' 0 48)
  if p.tag = false then Traps i s cTag det
  else if cOty p.img ≠ 0 then Traps i s cSealed det
  else if ¬ (cFmt p.img = 3 ∧ cRankm1 p.img = 0 ∧ cStr p.img 0 = 1) then Traps i s cFormat det
  else if (cPrm p.img).getLsbD 4 = false then Traps i s cPerm det
  else if ¬ (target.toNat % 4 = 0 ∧ target.toNat + 4 ≤ 4 * cExt p.img 0) then Traps i s cBounds det
  else exec i s = .next (s.setStrand { u with pc := target })

theorem need_ok {b : Bool} (c : BitVec 8) (d : BitVec 56) (h : b = true) : need b c d = .ok () := if_pos h

theorem need_error {b : Bool} (c : BitVec 8) (d : BitVec 56) (h : ¬ b = true) : need b c d = .error { cause := c, detail := d } := if_neg h

/-- A permission of one bit is granted where the image has the bit. -/
theorem grants_twoPow (c : Vec) {b : Nat} (hb : b < 16) : grants c (BitVec.twoPow 16 b) = (cPrm c).getLsbD b := by
  have nonzero : BitVec.twoPow 16 b ≠ 0 := fun zero => by
    have bit : (BitVec.twoPow 16 b).getLsbD b = true := by simp [hb]
    simp [zero] at bit
  rw [Bool.eq_iff_iff, grants_iff, BitVec.and_twoPow]
  cases (cPrm c).getLsbD b
  · simpa using nonzero.symm
  · simp

theorem runJump_error {s : State} {i : Instr} {f : Strand → Raises Strand} {x : Trap} (plain : s.plain)
    (frame : exec i s = s.runJump i f) (h : f s.strand = .error x) : exec i s = .next (s.takeTrap x) := by
  rw [frame]
  exact State.run_error plain (by simp only [h, bind, Except.bind])

theorem runJump_ok {s : State} {i : Instr} {f : Strand → Raises Strand} {u : Strand} (plain : s.plain)
    (frame : exec i s = s.runJump i f) (h : f s.strand = .ok u) : exec i s = .next (s.setStrand u) := by
  rw [frame]
  exact State.run_ok plain (by simp only [h, bind, Except.bind])

/-- A frame that tests its target by R58 and then leaves u there is a transfer. -/
theorem goes_of_runJump {s : State} {i : Instr} {f : Strand → Raises Strand} {target : Word} {u : Strand} (plain : s.plain)
    (frame : exec i s = s.runJump i f)
    (tests : f s.strand = checkFetch s.strand.pcc target >>= fun _ => .ok { u with pc := target }) : Goes s i target u := by
  have fails {cause : BitVec 8} (h : checkFetch s.strand.pcc target =
      .error { cause, detail := capDetail opPcc 0 (target.extractLsb' 0 48) }) :
      Traps i s cause (capDetail opPcc 0 (target.extractLsb' 0 48)) := runJump_error plain frame (by rw [tests, h]; rfl)
  let at' : Strand := { s.strand with pc := target }
  unfold Goes
  dsimp only
  split
  · next untagged => exact fails (checkFetch_untagged (t := at') untagged)
  rename_i tag
  replace tag := Bool.eq_true_of_not_eq_false tag
  split
  · next sealed' => exact fails (checkFetch_sealed (t := at') tag sealed')
  rename_i unsealed
  replace unsealed := not_not.1 unsealed
  split
  · next form => exact fails (checkFetch_misformed (t := at') tag unsealed (Bool.eq_false_iff.2 fun h => form ((codeForm_iff _).1 h)))
  rename_i form
  replace form := (codeForm_iff _).2 (not_not.1 form)
  split
  · next denied => exact fails (checkFetch_ungranted (t := at') tag unsealed form ((grants_twoPow _ (by decide)).trans denied))
  rename_i exe
  have granted := (grants_twoPow s.strand.pcc.img (b := 4) (by decide)).trans (Bool.eq_true_of_not_eq_false exe)
  have decided : checkFetch s.strand.pcc target = need (target.toNat % 4 == 0 &&
      decide (target.toNat + 4 ≤ 4 * cExt s.strand.pcc.img 0)) cBounds (capDetail opPcc 0 (target.extractLsb' 0 48)) :=
    checkFetch_offset (t := at') tag unsealed form granted
  have offset : (target.toNat % 4 == 0 && decide (target.toNat + 4 ≤ 4 * cExt s.strand.pcc.img 0)) = true ↔
      target.toNat % 4 = 0 ∧ target.toNat + 4 ≤ 4 * cExt s.strand.pcc.img 0 := by
    rw [Bool.and_eq_true_iff, beq_iff_eq, decide_eq_true_iff]
  split
  · next outside => exact fails (decided.trans (need_error _ _ fun h => outside (offset.1 h)))
  · next inside =>
    exact runJump_ok plain frame (by rw [tests, decided.trans (need_ok _ _ (offset.2 (not_not.1 inside)))]; rfl)

theorem branchOff_eq (off : BitVec 11) : branchOff off = BitVec.ofInt 64 (4 * off.toInt) := by
  rw [branchOff, BitVec.signExtend, BitVec.toInt_append_zero]
  rfl

theorem jalOff_eq (off : BitVec 19) : jalOff off = BitVec.ofInt 64 (4 * off.toInt) := by
  rw [jalOff, BitVec.signExtend, BitVec.toInt_append_zero]
  rfl

/-- A jump within a plain strand's own pcc tests its target and changes the pc alone. -/
theorem Strand.jump_own {t : Strand} (clear : stPP t.status = false) (target : Word) :
    t.jump t.pcc target = checkFetch t.pcc target >>= fun _ => .ok { t with pc := target } := by
  rw [Strand.jump, setPP_of_clear clear]

theorem Strand.setX_jumped (t : Strand) (target : Word) (d : XReg) (v : Word) :
    ({ t with pc := target } : Strand).setX d v = { t.setX d v with pc := target } := by
  unfold Strand.setX
  split <;> rfl

section

variable {s : State} (plain : s.plain)
include plain

/-- A conditional branch transfers where its test holds, and else goes on to the next word. -/
theorem branch_spec {i : Instr} {a b : XReg} {off : BitVec 11} (test : Word → Word → Bool) {taken : Prop}
    (frame : exec i s = s.runBranch i a b off test) (tests : test (s.strand.getX a) (s.strand.getX b) = true ↔ taken) :
    (taken → Goes s i (s.strand.pc + BitVec.ofInt 64 (4 * off.toInt)) s.strand) ∧ (¬ taken → Completes i s s.strand) := by
  refine ⟨fun holds => goes_of_runJump plain frame ?_, fun fails => ?_⟩
  · rw [if_pos (tests.2 holds), branchOff_eq]
    exact Strand.jump_own plain.2 _
  · refine (runJump_ok plain frame (if_neg fun h => fails (tests.1 h))).trans ?_
    rw [State.past, Strand.next, setPP_of_clear plain.2]

/-- A jump that links transfers to its target with the next word's offset in xd. -/
theorem jump_spec {i : Instr} (d : XReg) (target : Strand → Word) (frame : exec i s = s.runJump i fun t => do
      let u ← t.jump t.pcc (target t)
      .ok (u.setX d (t.pc + 4))) : Goes s i (target s.strand) (s.strand.setX d (s.strand.pc + 4)) := by
  refine goes_of_runJump plain frame ?_
  rw [Strand.jump_own plain.2, ← Strand.setX_jumped]
  cases checkFetch s.strand.pcc (target s.strand) <;> rfl

end

/-- Settles O13: the six branches by their tests, and the two jumps. -/
theorem branchesAndJumps : Obligations.BranchesAndJumps := by
  intro s d a b off joff imm plain t x y p goes branch
  refine ⟨branch_spec plain (fun x y => x == y) rfl beq_iff_eq, branch_spec plain (fun x y => x != y) rfl bne_iff_ne,
    branch_spec plain (fun x y => x.slt y) rfl BitVec.slt_iff_toInt_lt, branch_spec plain (fun x y => !x.slt y) rfl ?ge,
    branch_spec plain (fun x y => x.ult y) rfl BitVec.ult_iff_toNat_lt, branch_spec plain (fun x y => !x.ult y) rfl ?geu, ?jal,
    jump_spec plain d (fun t => (t.getX a + sext12 imm) &&& ~~~1) rfl⟩
  case ge => rw [Bool.not_eq_true', ← Bool.not_eq_true, BitVec.slt_iff_toInt_lt, not_lt]
  case geu => rw [Bool.not_eq_true', ← Bool.not_eq_true, BitVec.ult_iff_toNat_lt, not_lt]
  case jal =>
    have jumps := jump_spec plain (i := .jal d joff) d (fun t => t.pc + jalOff joff) rfl
    rw [jalOff_eq] at jumps
    exact jumps

/-! ### Control registers (R141 to R147) -/

/-- Past the word: a strand left at its pc, its prefixed mark clear, moves on. -/
theorem State.past_eq_next {s : State} {u : Strand} (pc : u.pc = s.strand.pc) (clear : stPP u.status = false) :
    s.past u = s.setStrand u.next := by
  rw [State.past, Strand.next, pc, setPP_of_clear clear]

section

variable {s : State} (plain : s.plain)
include plain

theorem csrrd_completes {n : BitVec 12} {v : Word} (d : XReg) (strands : isServiceCsr n = false) (value : s.csr n = some v) :
    Completes (.csrrd d n) s (s.strand.setX d v) := by
  change execCsrrd d n s = _
  unfold execCsrrd
  rw [plain.1]
  refine State.runAny_ok plain.1 ?_
  rw [strands, plain.2, value, State.past_eq_next (by simp) (by simpa using plain.2)]
  rfl

theorem csrwr_completes {n : BitVec 12} {v : Word} (a : XReg) (strands : isServiceCsr n = false) (listed : s.csr n = some v)
    (clear : stPP (s.strand.csrWrite n (s.strand.getX a)).status = false)
    (pc : (s.strand.csrWrite n (s.strand.getX a)).pc = s.strand.pc) :
    Completes (.csrwr n a) s (s.strand.csrWrite n (s.strand.getX a)) := by
  change execCsrwr n a s = _
  unfold execCsrwr
  rw [plain.1]
  refine State.runAny_ok plain.1 ?_
  rw [strands, plain.2, listed, State.past_eq_next pc clear]
  rfl

/-- A strand that names a service register raises PRIV (R51). -/
theorem csr_service {n : BitVec 12} (d a : XReg) (service : isServiceCsr n = true) :
    Traps (.csrrd d n) s cPriv (wordDetail (.csrrd d n)) ∧ Traps (.csrwr n a) s cPriv (wordDetail (.csrwr n a)) := by
  constructor
  · change execCsrrd d n s = _
    unfold execCsrrd
    rw [plain.1]
    exact State.runAny_error plain.1 (by rw [service]; rfl)
  · change execCsrwr n a s = _
    unfold execCsrwr
    rw [plain.1]
    exact State.runAny_error plain.1 (by rw [service]; rfl)

/-- A number that is not listed raises ILLEGAL_INSN (R141). -/
theorem csr_unlisted {n : BitVec 12} (d a : XReg) (strands : isServiceCsr n = false) (unlisted : s.csr n = none) :
    Traps (.csrrd d n) s cIllegal (wordDetail (.csrrd d n)) ∧ Traps (.csrwr n a) s cIllegal (wordDetail (.csrwr n a)) := by
  constructor
  · change execCsrrd d n s = _
    unfold execCsrrd
    rw [plain.1]
    exact State.runAny_error plain.1 (by rw [strands, plain.2, unlisted]; rfl)
  · change execCsrwr n a s = _
    unfold execCsrwr
    rw [plain.1]
    exact State.runAny_error plain.1 (by rw [strands, plain.2, unlisted]; rfl)

end

/-- The service registers are the numbers 0x800 to 0x8FF. -/
theorem isServiceCsr_iff (n : BitVec 12) : isServiceCsr n = true ↔ 0x800 ≤ n.toNat ∧ n.toNat ≤ 0x8FF := by
  rw [isServiceCsr, beq_iff_eq, ← BitVec.toNat_inj, BitVec.extractLsb'_toNat, Nat.shiftRight_eq_div_pow]
  have := n.isLt
  change n.toNat / 256 % 16 = 8 ↔ _
  omega

/-- A number that is not listed is none of the strands' and none of the service's. -/
theorem csr_of_unlisted (s : State) {n : BitVec 12} (unlisted : csrListed n = false) : isServiceCsr n = false ∧ s.csr n = none := by
  simp only [csrListed, Bool.or_eq_false_iff, beq_eq_false_iff_ne] at unlisted
  obtain ⟨⟨⟨⟨⟨⟨⟨⟨status, livemask⟩, faultinfo⟩, xcyc⟩, cycle⟩, time⟩, core⟩, gen⟩, service⟩ := unlisted
  refine ⟨beq_eq_false_iff_ne.2 service, ?_⟩
  exact (if_neg status).trans <| (if_neg livemask).trans <| (if_neg faultinfo).trans <| (if_neg xcyc).trans <|
    (if_neg cycle).trans <| (if_neg time).trans <| (if_neg core).trans (if_neg gen)

/-- A field laid above zeros is its value in units of its place. -/
theorem toNat_putBits_zero {m n lo : Nat} (x : BitVec n) (fits : lo + n ≤ m) : (putBits (0 : BitVec m) lo x).toNat = 2 ^ lo * x.toNat := by
  have small : 2 ^ lo * x.toNat < 2 ^ m := calc
    2 ^ lo * x.toNat < 2 ^ lo * 2 ^ n := Nat.mul_lt_mul_of_pos_left x.isLt (Nat.two_pow_pos lo)
    _ = 2 ^ (lo + n) := (Nat.pow_add ..).symm
    _ ≤ 2 ^ m := Nat.pow_le_pow_right (by decide) fits
  have wide : x.toNat % 2 ^ m = x.toNat :=
    Nat.mod_eq_of_lt (Nat.lt_of_le_of_lt (Nat.le_mul_of_pos_left _ (Nat.two_pow_pos lo)) small)
  simp [putBits, Nat.shiftLeft_eq, wide, Nat.mul_comm x.toNat, Nat.mod_eq_of_lt small]

/-- A field laid below a value in units of its end is added to it. -/
theorem toNat_putBits_low {m n y : Nat} {w : BitVec m} (x : BitVec n) (high : w.toNat = 2 ^ n * y) (fits : 2 ^ n * y + 2 ^ n ≤ 2 ^ m) :
    (putBits w 0 x).toNat = 2 ^ n * y + x.toNat := by
  have small : 2 ^ n * y + x.toNat < 2 ^ m := (Nat.add_lt_add_left x.isLt _).trans_le fits
  have word : putBits w 0 x = BitVec.ofNat m (2 ^ n * y + x.toNat) := by
    apply BitVec.eq_of_getLsbD_eq
    intro i hi
    rw [getLsbD_putBits _ _ hi, BitVec.getLsbD_ofNat, decide_eq_true hi, Bool.true_and, Nat.testBit_two_pow_mul_add _ x.isLt,
      ← BitVec.testBit_toNat w, high, Nat.testBit_two_pow_mul]
    by_cases below : i < n
    · rw [if_pos ⟨Nat.zero_le i, by omega⟩, if_pos below]
      exact BitVec.testBit_toNat x |>.symm
    · rw [if_neg (by omega), if_neg below, decide_eq_true (Nat.not_lt.1 below), Bool.true_and]
  rw [word, BitVec.toNat_ofNat, Nat.mod_eq_of_lt small]

/-- XCYC: INPH above XC (R378). -/
theorem xcyc_toNat (s : State) (k : Nat) : (putBits (putBit (0 : Word) 12 (s.core k).inPhase) 0 (BitVec.ofNat 12 (s.xc k))).toNat =
    if (s.core k).inPhase then 4096 + s.xc k % 4096 else 0 := by
  have inph : (putBit (0 : Word) 12 (s.core k).inPhase).toNat = 2 ^ 12 * (s.core k).inPhase.toNat := by
    rw [putBit, toNat_putBits_zero _ (by decide), BitVec.toNat_ofBool]
  rw [toNat_putBits_low _ inph (by have := (s.core k).inPhase.toNat_le; omega), BitVec.toNat_ofNat]
  unfold Core.inPhase State.xc
  split <;> rfl

/-- COREID: the index of the tenant's partition above the number of the core (R147). -/
theorem coreid_toNat (i k : Nat) :
    (putBits (putBits (0 : Word) 10 (BitVec.ofNat 2 i)) 0 (BitVec.ofNat 10 k)).toNat = i % 4 * 1024 + k % 1024 := by
  have index := toNat_putBits_zero (m := 64) (lo := 10) (BitVec.ofNat 2 i) (by decide)
  rw [toNat_putBits_low _ index (by have := (BitVec.ofNat 2 i).isLt; omega), BitVec.toNat_ofNat, BitVec.toNat_ofNat, Nat.mul_comm]
  rfl

theorem getLsbD_statusRw {b : Nat} (hb : b < 64) : statusRw.getLsbD b = decide (b < 9) := by
  change ((BitVec.allOnes 9).setWidth 64).getLsbD b = _
  rw [BitVec.getLsbD_setWidth, decide_eq_true hb, Bool.true_and, BitVec.getLsbD_allOnes]

theorem getLsbD_livemaskRw {b : Nat} (hb : b < 64) : livemaskRw.getLsbD b = decide (b < 48) := by
  change ((BitVec.allOnes 48).setWidth 64).getLsbD b = _
  rw [BitVec.getLsbD_setWidth, decide_eq_true hb, Bool.true_and, BitVec.getLsbD_allOnes]

/-- A CSRWR of STATUS replaces its low nine bits alone. -/
theorem getLsbD_statusWrite (w x : Word) {b : Nat} (hb : b < 64) :
    ((w &&& ~~~statusRw) ||| (x &&& statusRw)).getLsbD b = if b < 9 then x.getLsbD b else w.getLsbD b := by
  simp only [BitVec.getLsbD_or, BitVec.getLsbD_and, BitVec.getLsbD_not, getLsbD_statusRw hb, hb]
  by_cases low : b < 9 <;> simp [low]

/-- Settles O32: the reads by the value of each register, the writes by the bits they replace, then the numbers that raise, and FMT. -/
theorem controlRegisters : Obligations.ControlRegisters := by
  intro s d a n plain t x k reads
  have read {n : BitVec 12} {v : Word} := csrrd_completes plain (n := n) (v := v) d
  have readOnly {n : BitVec 12} {v : Word} (strands : isServiceCsr n = false) (listed : s.csr n = some v)
      (kept : t.csrWrite n x = t) : Completes (.csrwr n a) s t := by
    have writes := csrwr_completes plain a strands listed
    change _ → (t.csrWrite n x).pc = t.pc → Completes _ s (t.csrWrite n x) at writes
    rw [kept] at writes
    exact writes plain.2 rfl
  have statusBits {b : Nat} := getLsbD_statusWrite t.status x (b := b)
  refine ⟨read rfl (congrArg some (setPP_of_clear plain.2)), read rfl rfl, read rfl rfl, ⟨_, read rfl rfl, xcyc_toNat s k⟩,
    read rfl rfl, read rfl rfl, ⟨_, read rfl rfl, coreid_toNat _ k⟩, read rfl rfl,
    ⟨_, csrwr_completes plain a rfl rfl ((statusBits (by decide)).trans plain.2) rfl, fun b => statusBits⟩,
    ⟨_, csrwr_completes plain a rfl rfl plain.2 rfl, fun b hb => ?livemask⟩, fun r listed => ?readOnly,
    fun low high => csr_service plain d a ((isServiceCsr_iff n).2 ⟨low, high⟩),
    fun unlisted => csr_unlisted plain d a (csr_of_unlisted s unlisted).1 (csr_of_unlisted s unlisted).2,
    fun fd fa fb rm sat known mode sats => ?fmt⟩
  case livemask => rw [BitVec.getLsbD_and, getLsbD_livemaskRw hb, Bool.and_comm]
  case readOnly =>
    simp only [List.mem_cons, List.not_mem_nil, or_false] at listed
    rcases listed with rfl | rfl | rfl | rfl | rfl | rfl
    all_goals exact readOnly rfl rfl rfl
  case fmt =>
    have ok := (fmtCodes_iff fd fa fb rm sat).2 ⟨known fa (by simp), known fb (by simp), known fd (by simp), mode, sats⟩
    exact ⟨_, fmt_pends plain ok, (getLsbD_pendingStatus t.status _ (by decide)).trans (if_pos rfl)⟩

end Sys2Proof.Machine
end

section
/-! The fields of a capability image after one was written (R115), and the checks of an operand in their order (R123). -/

namespace Sys2Proof.Machine

/-! ### Bits and fields of a word with a field laid in -/

theorem getLsbD_putBits_outside {m n lo i : Nat} (w : BitVec m) (x : BitVec n) (h : i < lo ∨ lo + n ≤ i) :
    (putBits w lo x).getLsbD i = w.getLsbD i := by
  by_cases hi : i < m
  · rw [getLsbD_putBits w x hi, if_neg (by omega)]
  · rw [BitVec.getLsbD_of_ge _ _ (not_lt.1 hi), BitVec.getLsbD_of_ge _ _ (not_lt.1 hi)]

theorem extractLsb'_putBits_same {m n lo : Nat} (w : BitVec m) (x : BitVec n) (fits : lo + n ≤ m) :
    (putBits w lo x).extractLsb' lo n = x := by
  apply BitVec.eq_of_getLsbD_eq
  intro i hi
  rw [BitVec.getLsbD_extractLsb', decide_eq_true hi, Bool.true_and, getLsbD_putBits w x (by omega), if_pos (by omega),
    Nat.add_sub_cancel_left]

theorem extractLsb'_putBits_outside {m n lo a k : Nat} (w : BitVec m) (x : BitVec n) (h : a + k ≤ lo ∨ lo + n ≤ a) :
    (putBits w lo x).extractLsb' a k = w.extractLsb' a k := by
  apply BitVec.eq_of_getLsbD_eq
  intro i hi
  rw [BitVec.getLsbD_extractLsb', BitVec.getLsbD_extractLsb', getLsbD_putBits_outside w x (by omega)]

/-! ### Each field after a write of another -/

section

variable {n lo : Nat} (c : Vec) (x : BitVec n)

theorem cBase_putBits (h : 56 ≤ lo) : cBase (putBits c lo x) = cBase c :=
  congrArg BitVec.toNat (extractLsb'_putBits_outside c x (by omega))

theorem cExt_putBits {k : Nat} (h : 64 + 32 * k + 32 ≤ lo ∨ lo + n ≤ 64 + 32 * k) : cExt (putBits c lo x) k = cExt c k :=
  congrArg BitVec.toNat (extractLsb'_putBits_outside c x h)

theorem cStr_putBits {k : Nat} (h : 192 + 48 * k + 48 ≤ lo ∨ lo + n ≤ 192 + 48 * k) : cStr (putBits c lo x) k = cStr c k :=
  congrArg BitVec.toInt (extractLsb'_putBits_outside c x h)

theorem cFmt_putBits (h : 392 ≤ lo ∨ lo + n ≤ 384) : cFmt (putBits c lo x) = cFmt c :=
  congrArg BitVec.toNat (extractLsb'_putBits_outside c x h)

theorem cRankm1_putBits (h : 394 ≤ lo ∨ lo + n ≤ 392) : cRankm1 (putBits c lo x) = cRankm1 c :=
  congrArg BitVec.toNat (extractLsb'_putBits_outside c x h)

theorem cScp_putBits (h : 396 ≤ lo ∨ lo + n ≤ 394) : cScp (putBits c lo x) = cScp c := extractLsb'_putBits_outside c x h

theorem cPrm_putBits (h : 416 ≤ lo ∨ lo + n ≤ 400) : cPrm (putBits c lo x) = cPrm c := extractLsb'_putBits_outside c x h

end

/-! ### Each field after a write of its own -/

section

variable (c : Vec)

theorem cBase_setBase (b : Int) : (cBase (setBase c b) : Int) = b % 2 ^ 56 := by
  rw [cBase, setBase, extractLsb'_putBits_same _ _ (by decide), BitVec.toNat_ofInt,
    Int.toNat_of_nonneg (Int.emod_nonneg _ (by decide))]
  rfl

theorem cExt_setExt {k v : Nat} (hk : k < 4) (hv : v < 2 ^ 32) : cExt (setExt c k v) k = v := by
  rw [cExt, setExt, extractLsb'_putBits_same _ _ (by omega), BitVec.toNat_ofNat, Nat.mod_eq_of_lt hv]

theorem cExt_setExt_ne {j k : Nat} (v : Nat) (h : j ≠ k) : cExt (setExt c k v) j = cExt c j := cExt_putBits _ _ (by omega)

theorem cStr_setStr {k : Nat} (b : BitVec 48) (hk : k < 4) : cStr (setStr c k b.toInt) k = b.toInt := by
  rw [cStr, setStr, extractLsb'_putBits_same _ _ (by omega), BitVec.ofInt_toInt]

theorem cStr_setStr_ne {j k : Nat} (v : Int) (h : j ≠ k) : cStr (setStr c k v) j = cStr c j := cStr_putBits _ _ (by omega)

theorem cRankm1_setRankm1 {r : Nat} (h : r < 4) : cRankm1 (setRankm1 c r) = r := by
  rw [cRankm1, setRankm1, extractLsb'_putBits_same _ _ (by decide), BitVec.toNat_ofNat, Nat.mod_eq_of_lt h]

theorem cScp_setScp (v : BitVec 2) : cScp (setScp c v) = v := extractLsb'_putBits_same _ _ (by decide)

theorem cPrm_setPrm (v : BitVec 16) : cPrm (setPrm c v) = v := extractLsb'_putBits_same _ _ (by decide)

theorem cOty_setOty (v : BitVec 16) : cOty (setOty c v) = v := extractLsb'_putBits_same _ _ (by decide)

theorem cExt_lt (k : Nat) : cExt c k < 2 ^ 32 := (c.extractLsb' (64 + 32 * k) 32).isLt

theorem cRankm1_lt : cRankm1 c < 4 := (c.extractLsb' 392 2).isLt

end

theorem isGroup_iff (f : Nat) : isGroup f = true ↔ f = 11 ∨ f = 12 ∨ f = 13 := by
  simp only [isGroup, Bool.or_eq_true, beq_iff_eq, or_assoc]

theorem not_isGroup {f : Nat} (h : ¬ (f = 11 ∨ f = 12 ∨ f = 13)) : isGroup f = false :=
  Bool.eq_false_iff.2 fun g => h ((isGroup_iff f).1 g)

/-! ### The checks of an operand (R123) -/

/-- c[r] passes steps 1 to 3 of R123. -/
def Strand.held (t : Strand) (r : CReg) : Prop :=
  (t.getC r).rev = false ∧ (t.getC r).tag = true ∧ (cScp (t.getC r).img = 2 ∨ cOwn (t.getC r).img = t.comp)

section

variable {c : CapReg} {k : BitVec 16} {o : BitVec 5}

theorem checkHeld_revoked (rev : c.rev = true) : checkHeld c k o = .error { cause := cRevoked, detail := capDetail o } := if_pos rev

theorem checkHeld_untagged (rev : c.rev = false) (tag : c.tag = false) :
    checkHeld c k o = .error { cause := cTag, detail := capDetail o } := by
  rw [checkHeld, rev, tag]
  rfl

theorem checkHeld_foreign (rev : c.rev = false) (tag : c.tag = true) (foreign : cScp c.img ≠ 2 ∧ cOwn c.img ≠ k) :
    checkHeld c k o = .error { cause := cScope, detail := capDetail o } := by
  rw [checkHeld, rev, tag, bne_iff_ne.2 foreign.1, bne_iff_ne.2 foreign.2]
  rfl

theorem checkHeld_ok (rev : c.rev = false) (tag : c.tag = true) (own : cScp c.img = 2 ∨ cOwn c.img = k) : checkHeld c k o = .ok c.img := by
  have kept : (cScp c.img != 2 && cOwn c.img != k) = false := by
    rw [Bool.and_eq_false_iff, bne_eq_false_iff_eq, bne_eq_false_iff_eq]
    exact own
  rw [checkHeld, rev, tag, kept]
  rfl

theorem checkUnsealed_of_fault {f : Trap} (h : checkHeld c k o = .error f) : checkUnsealed c k o = .error f := by
  rw [checkUnsealed, h]
  rfl

theorem checkUnsealed_of_held {i : Vec} (h : checkHeld c k o = .ok i) :
    checkUnsealed c k o = (need (cOty i == 0) cSealed (capDetail o) >>= fun _ => .ok i) := by
  rw [checkUnsealed, h]
  rfl

theorem checkUnsealed_sealed {i : Vec} (h : checkHeld c k o = .ok i) (sealed' : cOty i ≠ 0) :
    checkUnsealed c k o = .error { cause := cSealed, detail := capDetail o } := by
  rw [checkUnsealed_of_held h, beq_eq_false_iff_ne.2 sealed', need_false_bind]

theorem checkUnsealed_ok {i : Vec} (h : checkHeld c k o = .ok i) (unsealed : cOty i = 0) : checkUnsealed c k o = .ok i := by
  rw [checkUnsealed_of_held h, beq_iff_eq.2 unsealed, need_true_bind]

/-- Past the checks of an unsealed operand, its form and then its permissions decide. -/
theorem checkOpnd_of_unsealed {i : Vec} (form : Vec → Bool) (perm : BitVec 16) (h : checkUnsealed c k o = .ok i) :
    checkOpnd c k o form perm = (do
      need (decide (cFmt i ≤ 16) && form i) cFormat (capDetail o)
      need (grants i perm) cPerm (capDetail o)
      .ok i) := by
  rw [checkOpnd, h]
  rfl

end

theorem checkHeld_of_held {t : Strand} {r : CReg} (h : t.held r) : checkHeld (t.getC r) t.comp (opC r) = .ok (t.getC r).img :=
  checkHeld_ok h.1 h.2.1 h.2.2

/-- A usable operand passes the checks of an unsealed one. -/
theorem checkUnsealed_of_usable {t : Strand} {r : CReg} {p : BitVec 16} (h : t.usable r p) :
    checkUnsealed (t.getC r) t.comp (opC r) = .ok (t.getC r).img := by
  obtain ⟨rev, tag, own, unsealed, -, -⟩ := h
  exact checkUnsealed_ok (checkHeld_ok rev tag own) unsealed

end Sys2Proof.Machine
end

section
/-! Capabilities read, derived, sealed and unsealed, and the calls and returns of compartments (O14 to O17). -/

namespace Sys2Proof.Machine

/-! ### The frame of register instructions -/

theorem runReg_error {s : State} {i : Instr} {f : Strand → Raises Strand} {x : Trap} (plain : s.plain)
    (frame : exec i s = s.runReg i f) (h : f s.strand = .error x) : exec i s = .next (s.takeTrap x) := by
  rw [frame]
  exact State.run_error plain (by simp only [h, bind, Except.bind])

theorem completes_of_runReg {s : State} {i : Instr} {f : Strand → Raises Strand} {u : Strand} (plain : s.plain)
    (frame : exec i s = s.runReg i f) (h : f s.strand = .ok u) (pc : u.pc = s.strand.pc) (clear : stPP u.status = false) :
    Completes i s u := by
  rw [Completes, frame]
  exact State.runReg_completes plain h pc clear

/-! ### Reads (R125) -/

theorem extractLsb'_eq_ofNat {m : Nat} (c : BitVec m) (lo n : Nat) : c.extractLsb' lo n = BitVec.ofNat n (c.toNat / 2 ^ lo) := by
  rw [BitVec.extractLsb', Nat.shiftRight_eq_div_pow]

theorem cBase_eq (c : Vec) : cBase c = c.toNat % 2 ^ 56 := by
  rw [cBase, BitVec.extractLsb'_toNat, Nat.shiftRight_zero]

theorem cExt_eq (c : Vec) (k : Nat) : cExt c k = c.toNat / 2 ^ (64 + 32 * k) % 2 ^ 32 := by
  rw [cExt, BitVec.extractLsb'_toNat, Nat.shiftRight_eq_div_pow]

theorem cStr_eq (c : Vec) (k : Nat) : cStr c k = (BitVec.ofNat 48 (c.toNat / 2 ^ (192 + 48 * k))).toInt := by
  rw [cStr, extractLsb'_eq_ofNat]

/-- CGETF reads the half of the image from byte 48 or 56 on. -/
theorem fieldHalf_place (w : BitVec 1) : 384 + 64 * w.toNat = 8 * if w = 0 then 48 else 56 := by
  revert w
  decide

/-- Settles O14: CGETB to CTAG write a field as a number, and CMOV copies a register. -/
theorem capabilityReads : Obligations.CapabilityReads := by
  intro s d cd a axis w plain t c n
  have writes {i : Instr} {v : Word} (f : Strand → Word) := completes_of_runX (i := i) (d := d) (v := v) f plain
  refine ⟨writes (fun t => ((t.getC a).img.extractLsb' 0 56).setWidth 64) rfl ?base,
    writes (fun t => w64 (cExt (t.getC a).img axis.toNat)) rfl (congrArg w64 (cExt_eq ..)),
    writes (fun t => BitVec.ofInt 64 (cStr (t.getC a).img axis.toNat)) rfl (congrArg (BitVec.ofInt 64) (cStr_eq ..)),
    writes (fun t => (t.getC a).img.extractLsb' (384 + 64 * w.toNat) 64) rfl ?field,
    writes (fun t => if (t.getC a).tag && !(t.getC a).rev then 1 else 0) rfl ?tag,
    completes_of_runReg (f := fun t => .ok (t.setC cd (t.getC a))) plain rfl rfl rfl plain.2⟩
  case base => exact (BitVec.ofNat_toNat 64 _).symm.trans (congrArg (BitVec.ofNat 64) (cBase_eq c.img))
  case field => exact (extractLsb'_eq_ofNat ..).trans (by rw [fieldHalf_place])
  case tag => exact if_congr (by rw [Bool.and_eq_true, Bool.not_eq_true']) rfl rfl

/-! ### Derivations (R126 to R129) -/

/-- What an instruction that checks c[d] as an unsealed operand does: it raises the first cause of R123 that applies, and else `ok`
holds, as CapabilityDerivations says it. -/
def Checked (s : State) (d : CReg) (i : Instr) (ok : Prop) : Prop :=
  let t := s.strand
  let c := (t.getC d).img
  if (t.getC d).rev = true then Traps i s cRevoked (capDetail (opC d))
  else if (t.getC d).tag = false then Traps i s cTag (capDetail (opC d))
  else if cScp c ≠ 2 ∧ cOwn c ≠ t.comp then Traps i s cScope (capDetail (opC d))
  else if cOty c ≠ 0 then Traps i s cSealed (capDetail (opC d))
  else ok

theorem checked_of_runReg {s : State} {d : CReg} {i : Instr} {ok : Prop} (g : Strand → Vec → Raises Strand) (plain : s.plain)
    (frame : exec i s = s.runReg i fun t => checkUnsealed (t.getC d) t.comp (opC d) >>= g t)
    (passes : (∀ x, g s.strand (s.strand.getC d).img = .error x → exec i s = .next (s.takeTrap x)) →
      (∀ u, g s.strand (s.strand.getC d).img = .ok u → u.pc = s.strand.pc → stPP u.status = false → Completes i s u) → ok) :
    Checked s d i ok := by
  have raises {x : Trap} (h : checkUnsealed (s.strand.getC d) s.strand.comp (opC d) = .error x) : exec i s = .next (s.takeTrap x) :=
    runReg_error plain frame (by rw [h]; rfl)
  unfold Checked
  dsimp only
  split
  · next rev => exact raises (checkUnsealed_of_fault (checkHeld_revoked rev))
  rename_i rev
  replace rev := Bool.eq_false_iff.2 rev
  split
  · next tag => exact raises (checkUnsealed_of_fault (checkHeld_untagged rev tag))
  rename_i tag
  replace tag := Bool.eq_true_of_not_eq_false tag
  split
  · next foreign => exact raises (checkUnsealed_of_fault (checkHeld_foreign rev tag foreign))
  rename_i own
  have held := checkHeld_ok (o := opC d) rev tag (by rwa [not_and_or, not_not, not_not] at own)
  split
  · next sealed' => exact raises (checkUnsealed_sealed held sealed')
  · next unsealed =>
    have checks : (checkUnsealed (s.strand.getC d) s.strand.comp (opC d) >>= g s.strand) = g s.strand (s.strand.getC d).img := by
      rw [checkUnsealed_ok held (not_not.1 unsealed)]
      rfl
    exact passes (fun x h => runReg_error plain frame (checks.trans h)) fun u h => completes_of_runReg plain frame (checks.trans h)

/-- A derivation tests its range and then, of a group-scaled format, that it keeps whole groups. -/
theorem derivation_eq {α : Type} {range whole : Bool} {W P : Prop} [Decidable W] [Decidable P] (fmt : Nat) (hw : range = true ↔ ¬ W)
    (hp : whole = true ↔ ¬ P) (detail : BitVec 56) (x : α) :
    (do
      need range cWiden detail
      if isGroup fmt then
        need whole cFormat detail
      .ok x : Raises α) =
    if W then .error { cause := cWiden, detail }
    else if (fmt = 11 ∨ fmt = 12 ∨ fmt = 13) ∧ P then .error { cause := cFormat, detail } else .ok x := by
  by_cases w : W
  · rw [if_pos w, need_error _ _ fun h => hw.1 h w]
    rfl
  rw [if_neg w, need_ok _ _ (hw.2 w)]
  by_cases part : (fmt = 11 ∨ fmt = 12 ∨ fmt = 13) ∧ P
  · rw [if_pos part, (isGroup_iff fmt).2 part.1, need_error _ _ fun h => hp.1 h part.2]
    rfl
  rw [if_neg part]
  by_cases group : fmt = 11 ∨ fmt = 12 ∨ fmt = 13
  · rw [(isGroup_iff fmt).2 group, need_ok _ _ (hp.2 fun p => part ⟨group, p⟩)]
    rfl
  · rw [not_isGroup group]
    rfl

section

variable (c : Vec) (o : BitVec 5) (axis : BitVec 2) (a b : Nat)

theorem sliceImg_eq : sliceImg c o axis a b =
    if cRankm1 c < axis.toNat ∨ b = 0 ∨ cExt c axis.toNat < a + b then .error { cause := cWiden, detail := capDetail o axis }
    else if (cFmt c = 11 ∨ cFmt c = 12 ∨ cFmt c = 13) ∧ (a * cStr c axis.toNat % 32 ≠ 0 ∨ (axis.toNat = 0 ∧ b % 32 ≠ 0)) then
      .error { cause := cFormat, detail := capDetail o axis }
    else .ok (setExt (moveBase c axis.toNat a) axis.toNat b) := by
  refine derivation_eq _ ?_ ?_ _ _
  · simp only [Bool.and_eq_true, decide_eq_true_eq]
    omega
  · simp only [Bool.and_eq_true, Bool.or_eq_true, beq_iff_eq, bne_iff_ne]
    omega

theorem narrowImg_eq : narrowImg c o axis a =
    if cRankm1 c < axis.toNat ∨ cExt c axis.toNat ≤ a then .error { cause := cWiden, detail := capDetail o axis }
    else if (cFmt c = 11 ∨ cFmt c = 12 ∨ cFmt c = 13) ∧ (axis.toNat = 0 ∨ a * cStr c axis.toNat % 32 ≠ 0) then
      .error { cause := cFormat, detail := capDetail o axis }
    else .ok (if cRankm1 c = 0 then setExt (moveBase c axis.toNat a) 0 1 else dropAxis (moveBase c axis.toNat a) axis.toNat) := by
  refine derivation_eq _ ?_ ?_ _ _
  · simp only [Bool.and_eq_true, decide_eq_true_eq]
    omega
  · simp only [Bool.and_eq_true, beq_iff_eq, bne_iff_ne]
    omega

/-! The fields of the images derived. -/

/-- Moving the base changes BASE alone. -/
theorem moveBase_eq (k : Nat) : ∃ v : Int, moveBase c k a = setBase c v ∧ v = if isGroup (cFmt c) then
    cBase c + a * cStr c k / 32 * (groupBytes (cFmt c) : Nat) else cBase c + a * cStr c k * (Machine.sizeOf (cFmt c) : Nat) := by
  unfold moveBase
  split <;> exact ⟨_, rfl, rfl⟩

theorem cBase_moveBase (k : Nat) : (cBase (moveBase c k a) : Int) = if cFmt c = 11 ∨ cFmt c = 12 ∨ cFmt c = 13
    then (cBase c + a * cStr c k / 32 * (if cFmt c = 12 then 12 else 16)) % 2 ^ 56
    else (cBase c + a * cStr c k * (Machine.sizeOf (cFmt c) : Nat)) % 2 ^ 56 := by
  obtain ⟨v, move, value⟩ := moveBase_eq c a k
  rw [move, cBase_setBase, value, groupBytes]
  simp only [isGroup_iff]
  split_ifs <;> rfl

end

theorem moveBase_above (c : Vec) (a k : Nat) {i : Nat} (h : 56 ≤ i) : (moveBase c k a).getLsbD i = c.getLsbD i := by
  obtain ⟨v, move, -⟩ := moveBase_eq c a k
  rw [move, setBase, getLsbD_putBits_outside _ _ (by omega)]

theorem cExt_moveBase (c : Vec) (a k j : Nat) : cExt (moveBase c k a) j = cExt c j := by
  obtain ⟨v, move, -⟩ := moveBase_eq c a k
  rw [move, setBase, cExt_putBits _ _ (by omega)]

theorem cStr_moveBase (c : Vec) (a k j : Nat) : cStr (moveBase c k a) j = cStr c j := by
  obtain ⟨v, move, -⟩ := moveBase_eq c a k
  rw [move, setBase, cStr_putBits _ _ (by omega)]

theorem cRankm1_moveBase (c : Vec) (a k : Nat) : cRankm1 (moveBase c k a) = cRankm1 c := by
  obtain ⟨v, move, -⟩ := moveBase_eq c a k
  rw [move, setBase, cRankm1_putBits _ _ (by omega)]

theorem cBase_setExt (c : Vec) (k v : Nat) : cBase (setExt c k v) = cBase c := cBase_putBits _ _ (by omega)

/-- Axis j taken over from the next one. -/
def axisDown (c : Vec) (j : Nat) : Vec := setStr (setExt c j (cExt c (j + 1))) j (cStr c (j + 1))

/-- The axes from k on, below n, taken over from the next ones (R128). -/
def axesDown (c : Vec) (k n : Nat) : Vec := (List.range n).foldl (fun acc j => if k ≤ j then axisDown acc j else acc) c

theorem dropAxis_eq (c : Vec) (k : Nat) :
    dropAxis c k = setRankm1 (setStr (setExt (axesDown c k 3) 3 1) 3 0) (cRankm1 c - 1) := rfl

theorem axesDown_succ (c : Vec) (k n : Nat) :
    axesDown c k (n + 1) = if k ≤ n then axisDown (axesDown c k n) n else axesDown c k n := by
  rw [axesDown, List.range_succ, List.foldl_append]
  rfl

section

variable (c : Vec) {j i k : Nat}

theorem cExt_axisDown (hj : j < 4) (hi : i < 4) : cExt (axisDown c j) i = if i = j then cExt c (j + 1) else cExt c i := by
  rw [axisDown, setStr, cExt_putBits _ _ (by omega)]
  split
  · next same => rw [same, cExt_setExt _ hj (cExt_lt ..)]
  · next ne => exact cExt_setExt_ne _ _ ne

theorem cStr_axisDown (hj : j < 4) : cStr (axisDown c j) i = if i = j then cStr c (j + 1) else cStr c i := by
  rw [axisDown]
  split
  · next same => rw [same]; exact cStr_setStr _ _ hj
  · next ne => rw [cStr_setStr_ne _ _ ne, setExt, cStr_putBits _ _ (by omega)]

theorem axisDown_outside (hj : j < 4) (h : i < 64 ∨ 384 ≤ i) : (axisDown c j).getLsbD i = c.getLsbD i := by
  rw [axisDown, setStr, getLsbD_putBits_outside _ _ (by omega), setExt, getLsbD_putBits_outside _ _ (by omega)]

theorem cExt_axesDown (k : Nat) {n : Nat} (hn : n ≤ 3) (hi : i < 4) :
    cExt (axesDown c k n) i = if k ≤ i ∧ i < n then cExt c (i + 1) else cExt c i := by
  induction n generalizing i with
  | zero => exact (if_neg fun h => Nat.not_lt_zero _ h.2).symm
  | succ n ih =>
    have here := ih (i := i) (by omega) hi
    have above := ih (i := n + 1) (by omega) (by omega)
    rw [axesDown_succ]
    split
    · rw [cExt_axisDown _ (by omega) hi, here, above]
      grind
    · rw [here]
      grind

theorem cStr_axesDown (k : Nat) {n : Nat} (hn : n ≤ 3) :
    cStr (axesDown c k n) i = if k ≤ i ∧ i < n then cStr c (i + 1) else cStr c i := by
  induction n generalizing i with
  | zero => exact (if_neg fun h => Nat.not_lt_zero _ h.2).symm
  | succ n ih =>
    have here := ih (i := i) (by omega)
    have above := ih (i := n + 1) (by omega)
    rw [axesDown_succ]
    split
    · rw [cStr_axisDown _ (by omega), here, above]
      grind
    · rw [here]
      grind

theorem axesDown_outside (k : Nat) {n : Nat} (hn : n ≤ 3) (h : i < 64 ∨ 384 ≤ i) : (axesDown c k n).getLsbD i = c.getLsbD i := by
  induction n with
  | zero => rfl
  | succ n ih =>
    rw [axesDown_succ]
    split
    · rw [axisDown_outside _ (by omega) h, ih (by omega)]
    · exact ih (by omega)

/-! What dropping an axis leaves of the axes, and what it changes at all. -/

theorem cExt_dropAxis (hk : k < 4) (hi : i < 4) :
    cExt (dropAxis c k) i = if i < k then cExt c i else if i < 3 then cExt c (i + 1) else 1 := by
  rw [dropAxis_eq, setRankm1, cExt_putBits _ _ (by omega), setStr, cExt_putBits _ _ (by omega)]
  by_cases last : i = 3
  · rw [last, cExt_setExt _ (by decide) (by decide), if_neg (by omega), if_neg (by decide)]
  · rw [cExt_setExt_ne _ _ last, cExt_axesDown c k le_rfl hi]
    grind

theorem cStr_dropAxis (hk : k < 4) (hi : i < 4) :
    cStr (dropAxis c k) i = if i < k then cStr c i else if i < 3 then cStr c (i + 1) else 0 := by
  rw [dropAxis_eq, setRankm1, cStr_putBits _ _ (by omega)]
  by_cases last : i = 3
  · rw [last, show (0 : Int) = (0#48).toInt from rfl, cStr_setStr _ _ (by decide), if_neg (by omega), if_neg (by decide)]
  · rw [cStr_setStr_ne _ _ last, setExt, cStr_putBits _ _ (by omega), cStr_axesDown c k le_rfl]
    grind

theorem dropAxis_outside (k : Nat) (h : i < 64 ∨ (384 ≤ i ∧ i < 392) ∨ 394 ≤ i) : (dropAxis c k).getLsbD i = c.getLsbD i := by
  rw [dropAxis_eq, setRankm1, getLsbD_putBits_outside _ _ (by omega), setStr, getLsbD_putBits_outside _ _ (by omega), setExt,
    getLsbD_putBits_outside _ _ (by omega), axesDown_outside c k le_rfl (by omega)]

theorem cBase_dropAxis (k : Nat) : cBase (dropAxis c k) = cBase c := by
  refine congrArg BitVec.toNat (BitVec.eq_of_getLsbD_eq fun i hi => ?_)
  rw [BitVec.getLsbD_extractLsb', BitVec.getLsbD_extractLsb', dropAxis_outside c k (by omega)]

theorem cRankm1_dropAxis (k : Nat) : cRankm1 (dropAxis c k) = cRankm1 c - 1 := by
  rw [dropAxis_eq, cRankm1_setRankm1 _ (by have := cRankm1_lt c; omega)]

end

/-! What CPERM leaves of the permissions and the scope. -/

theorem cPrm_permImg (c : Vec) (x : Word) : cPrm (permImg c x) = cPrm c &&& BitVec.ofNat 16 (x.toNat % 2 ^ 14) := by
  have mask : (x.extractLsb' 0 14).setWidth 16 = BitVec.ofNat 16 (x.toNat % 2 ^ 14) := by
    rw [← BitVec.ofNat_toNat, BitVec.extractLsb'_toNat, Nat.shiftRight_zero]
  unfold permImg
  dsimp only
  split_ifs
  · rw [cPrm_setPrm, mask]
  · rw [setScp, cPrm_putBits _ _ (by omega), cPrm_setPrm, mask]
  · rw [cPrm_setPrm, mask]

theorem cScp_permImg (c : Vec) (x : Word) : (cScp (permImg c x)).toNat =
    if x.toNat / 2 ^ 16 % 4 = 3 then (cScp c).toNat else min (cScp c).toNat (x.toNat / 2 ^ 16 % 4) := by
  have asked : (x.extractLsb' 16 2).toNat = x.toNat / 2 ^ 16 % 4 := by rw [BitVec.extractLsb'_toNat, Nat.shiftRight_eq_div_pow]
  have same (p : BitVec 16) : cScp (setPrm c p) = cScp c := cScp_putBits _ _ (by omega)
  have keeps : x.extractLsb' 16 2 = 3 ↔ x.toNat / 2 ^ 16 % 4 = 3 := by rw [← asked, ← BitVec.toNat_inj]; rfl
  unfold permImg
  dsimp only
  by_cases three : x.extractLsb' 16 2 = 3
  · rw [if_pos three, if_pos (keeps.1 three), same]
  rw [if_neg three, if_neg (mt keeps.2 three), same, asked]
  split
  · next lower => rw [cScp_setScp, asked, min_eq_right lower.le]
  · next higher => rw [same, min_eq_left (not_lt.1 higher)]

/-- CPERM changes the bits of PRM and SCP alone. -/
theorem permImg_outside (c : Vec) (x : Word) {i : Nat} (h : i < 394 ∨ (396 ≤ i ∧ i < 400) ∨ 416 ≤ i) :
    (permImg c x).getLsbD i = c.getLsbD i := by
  have same (p : BitVec 16) : (setPrm c p).getLsbD i = c.getLsbD i := getLsbD_putBits_outside _ _ (by omega)
  unfold permImg
  dsimp only
  split
  · exact same _
  split
  · rw [setScp, getLsbD_putBits_outside _ _ (by omega), same]
  · exact same _

/-! The two outcomes of a derivation, and the obligation. -/

/-- c[d] becomes a tagged image with the property p. -/
def Derives (s : State) (d : CReg) (i : Instr) (p : Vec → Prop) : Prop :=
  ∃ img, Completes i s (s.strand.setC d { img, tag := true }) ∧ p img

section

variable {s : State} {d : CReg} {i : Instr} {f : Strand → Vec → Raises Vec} (plain : s.plain) (frame : exec i s = s.runDerive i d f)
include plain frame

theorem checked_of_runDerive {ok : Prop} (passes : (∀ x, f s.strand (s.strand.getC d).img = .error x → exec i s = .next (s.takeTrap x)) →
    (∀ img, f s.strand (s.strand.getC d).img = .ok img → Completes i s (s.strand.setC d { img, tag := true })) → ok) :
    Checked s d i ok := by
  refine checked_of_runReg (fun t c => f t c >>= fun img => .ok (t.setC d { img, tag := true })) plain frame fun raises completes => ?_
  exact passes (fun x h => raises x (by rw [h]; rfl)) fun img h => completes _ (by rw [h]; rfl) rfl plain.2

theorem derives_of_checks {axis : BitVec 2} {W P : Prop} [Decidable W] [Decidable P] {img : Vec} {p : Vec → Prop}
    (value : f s.strand (s.strand.getC d).img =
      if W then .error { cause := cWiden, detail := capDetail (opC d) axis }
      else if (cFmt (s.strand.getC d).img = 11 ∨ cFmt (s.strand.getC d).img = 12 ∨ cFmt (s.strand.getC d).img = 13) ∧ P then
        .error { cause := cFormat, detail := capDetail (opC d) axis }
      else .ok img) (fields : ¬ W → p img) :
    let c := (s.strand.getC d).img
    Checked s d i (if W then Traps i s cWiden (capDetail (opC d) axis)
      else if (cFmt c = 11 ∨ cFmt c = 12 ∨ cFmt c = 13) ∧ P then Traps i s cFormat (capDetail (opC d) axis)
      else Derives s d i p) := by
  refine checked_of_runDerive plain frame fun raises writes => ?_
  split
  · next w => exact raises _ (value.trans (if_pos w))
  rename_i inside
  rw [if_neg inside] at value
  split
  · next part => exact raises _ (value.trans (if_pos part))
  · next whole => exact ⟨img, writes _ (value.trans (if_neg whole)), fields inside⟩

end

theorem linearOf_eq (c : Vec) (o : BitVec 5) (x : Word) : linearOf c o x.toNat =
    if x.toNat < cExt c 0 * cExt c 1 * cExt c 2 * cExt c 3 then .ok (elemAddr c
      (x.toNat % cExt c 0, x.toNat / cExt c 0 % cExt c 1, x.toNat / cExt c 0 / cExt c 1 % cExt c 2,
        x.toNat / cExt c 0 / cExt c 1 / cExt c 2 % cExt c 3))
    else .error { cause := cBounds, detail := capDetail o 0 (x.extractLsb' 0 48) } := by
  rw [extractLsb'_eq_ofNat, pow_zero, Nat.div_one, Nat.div_div_eq_div_mul, Nat.div_div_eq_div_mul]
  rfl

/-- Settles O15: the operand's checks come first, and then the derivation's own tests decide between its causes and its image. -/
theorem capabilityDerivations : Obligations.CapabilityDerivations := by
  intro s d xd a b axis plain t c x y k checked writes group moved
  refine ⟨?cidx, ?cslice, ?cnarrow, ?cperm⟩
  case cidx =>
    refine checked_of_runReg (fun t c => linearOf c (opC d) (t.getX a).toNat >>= fun addr => .ok (t.setX xd (w64 addr)))
      plain (i := .cidx xd d a) rfl fun raises completes => ?_
    rw [linearOf_eq] at raises completes
    split
    · next inside =>
      rw [if_pos inside] at completes
      exact completes _ rfl (Strand.setX_pc ..) (by simpa using plain.2)
    · next outside =>
      rw [if_neg outside] at raises
      exact raises _ rfl
  case cslice =>
    refine derives_of_checks (f := fun t c => sliceImg c (opC d) axis (t.getX a).toNat (t.getX b).toNat) plain rfl
      (sliceImg_eq c (opC d) axis x y) fun inside => ⟨?_, fun j hj => ?_, fun i hi => ?_⟩
    · exact (congrArg Nat.cast (cBase_setExt ..)).trans (cBase_moveBase ..)
    · split
      · next same =>
        rw [same]
        exact cExt_setExt _ axis.isLt (by have := cExt_lt c k; omega)
      · next other => rw [cExt_setExt_ne _ _ other, cExt_moveBase]
    · have := axis.isLt
      rw [setExt, getLsbD_putBits_outside _ _ (by omega)]
      exact moveBase_above c x k (by omega)
  case cnarrow =>
    refine derives_of_checks (f := fun t c => narrowImg c (opC d) axis (t.getX a).toNat) plain rfl (narrowImg_eq c (opC d) axis x) fun inside => ?_
    have hk : k < 4 := axis.isLt
    by_cases one : cRankm1 c = 0
    · rw [if_pos one]
      refine ⟨?_, ?_, fun j hj => ?_, fun j hj => ?_, fun i hi => ?_⟩
      · exact (congrArg Nat.cast (cBase_setExt ..)).trans (cBase_moveBase ..)
      · rw [setExt, cRankm1_putBits _ _ (by omega), cRankm1_moveBase, one]
      · rw [if_pos one]
        split
        · next zero => rw [zero, cExt_setExt _ (by decide) (by decide)]
        · next other => rw [cExt_setExt_ne _ _ other, cExt_moveBase]
      · rw [setExt, cStr_putBits _ _ (by omega), cStr_moveBase, if_pos (.inl one)]
      · rw [setExt, getLsbD_putBits_outside _ _ (by omega), moveBase_above c x k (by omega)]
    · rw [if_neg one]
      refine ⟨?_, ?_, fun j hj => ?_, fun j hj => ?_, fun i hi => ?_⟩
      · exact (congrArg Nat.cast (cBase_dropAxis ..)).trans (cBase_moveBase ..)
      · rw [cRankm1_dropAxis, cRankm1_moveBase]
      · rw [if_neg one, cExt_dropAxis _ hk hj, cExt_moveBase, cExt_moveBase]
      · simp only [one, false_or]
        rw [cStr_dropAxis _ hk hj, cStr_moveBase, cStr_moveBase]
      · rw [dropAxis_outside _ _ (by omega), moveBase_above c x k (by omega)]
  case cperm =>
    refine checked_of_runDerive (i := .cperm d a) (f := fun t c => .ok (permImg c (t.getX a))) plain rfl fun _ writes => ?_
    exact ⟨_, writes _ rfl, cPrm_permImg .., cScp_permImg .., fun i hi => permImg_outside _ _ hi⟩

end Sys2Proof.Machine
end

section
/-! Sealing and unsealing (O16), and the calls and returns of compartments (O17). -/

namespace Sys2Proof.Machine

theorem ok_bind {α β : Type} (a : α) (f : α → Raises β) : ((.ok a : Raises α) >>= f) = f a := rfl

theorem error_bind {α β : Type} (x : Trap) (f : α → Raises β) : ((.error x : Raises α) >>= f) = .error x := rfl

/-! ### Sealing and unsealing (R130, R131) -/

theorem keyCovers_iff (k : Vec) (ty : Nat) : keyCovers k ty = true ↔ ty < 0xFFF0 ∧ cBase k ≤ ty ∧ ty < cBase k + cExt k 0 := by
  simp only [keyCovers, Bool.and_eq_true, decide_eq_true_eq, and_assoc]

/-- A held, unsealed key of the form of R130 with the permission of bit b passes its checks. -/
theorem checkOpnd_key {t : Strand} {r : CReg} {b : Nat} (hb : b < 16) (held : t.held r) (unsealed : cOty (t.getC r).img = 0)
    (fmt : cFmt (t.getC r).img = 0) (rank : cRankm1 (t.getC r).img = 0) (perm : (cPrm (t.getC r).img).getLsbD b = true) :
    checkOpnd (t.getC r) t.comp (opC r) keyForm (BitVec.twoPow 16 b) = .ok (t.getC r).img := by
  have form : (decide (cFmt (t.getC r).img ≤ 16) && keyForm (t.getC r).img) = true := by
    rw [keyForm, fmt, rank]
    rfl
  rw [checkOpnd_of_unsealed _ _ (checkUnsealed_ok (checkHeld_of_held held) unsealed), need_ok _ _ form,
    need_ok _ _ ((grants_twoPow _ hb).trans perm)]
  rfl

/-- c[d] becomes its own image with another object type. -/
theorem retyped {s : State} {d : CReg} {i : Instr} {v : BitVec 16} {ty : Nat} (value : v.toNat = ty)
    (h : Completes i s (s.strand.setC d { img := setOty (s.strand.getC d).img v, tag := true })) :
    ∃ img, Completes i s (s.strand.setC d { img, tag := true }) ∧ (cOty img).toNat = ty ∧
      ∀ j, (j < 416 ∨ 432 ≤ j) → img.getLsbD j = (s.strand.getC d).img.getLsbD j :=
  ⟨_, h, (congrArg BitVec.toNat (cOty_setOty ..)).trans value, fun _ hj => getLsbD_putBits_outside _ _ hj⟩

section

variable {s : State} {d b : CReg} (a : XReg) (plain : s.plain)
include plain

/-- Past the checks of its key, CWRAP checks c[d] and whether the key covers the type. -/
theorem cwrap_past_key {u : Strand} (key : checkOpnd (s.strand.getC b) s.strand.comp (opC b) keyForm pSeal = .ok (s.strand.getC b).img) :
    let value : Raises Strand := do
      let c ← checkUnsealed (s.strand.getC d) s.strand.comp (opC d)
      need ((s.strand.getX a).toNat != 0 && keyCovers (s.strand.getC b).img (s.strand.getX a).toNat) cPerm (capDetail (opC b))
      .ok (s.strand.setC d { img := setOty c (BitVec.ofNat 16 (s.strand.getX a).toNat), tag := true })
    (∀ x, value = .error x → exec (.cwrap d b a) s = .next (s.takeTrap x)) ∧
      (value = .ok u → u.pc = s.strand.pc → stPP u.status = false → Completes (.cwrap d b a) s u) := by
  have frame : exec (.cwrap d b a) s = execCwrap d b a s := rfl
  refine ⟨fun x h => runReg_error plain frame ?_, fun h => completes_of_runReg plain frame ?_⟩ <;>
  · dsimp only
    rw [key, ok_bind]
    exact h

/-- Past the checks of its key, CUNWRAP checks c[d], that it is sealed, and whether the key covers its type. -/
theorem cunwrap_past_key {u : Strand}
    (key : checkOpnd (s.strand.getC b) s.strand.comp (opC b) keyForm pUnseal = .ok (s.strand.getC b).img) :
    let value : Raises Strand := do
      let c ← checkHeld (s.strand.getC d) s.strand.comp (opC d)
      need (cOty c != 0) cSealed (capDetail (opC d))
      need (keyCovers (s.strand.getC b).img (cOty c).toNat) cPerm (capDetail (opC b))
      .ok (s.strand.setC d { img := setOty c 0, tag := true })
    (∀ x, value = .error x → exec (.cunwrap d b) s = .next (s.takeTrap x)) ∧
      (value = .ok u → u.pc = s.strand.pc → stPP u.status = false → Completes (.cunwrap d b) s u) := by
  have frame : exec (.cunwrap d b) s = execCunwrap d b s := rfl
  refine ⟨fun x h => runReg_error plain frame ?_, fun h => completes_of_runReg plain frame ?_⟩ <;>
  · rw [key, ok_bind]
    exact h

end

/-- Settles O16: the key's checks come first, then the operand's seal, then whether the key covers the type. -/
theorem sealingAndUnsealing : Obligations.SealingAndUnsealing := by
  intro s d b a plain t k c held key covers writes
  constructor
  · intro ⟨kheld, kplain, kfmt, krank, kperm⟩ dheld
    have past {u : Strand} := cwrap_past_key (u := u) (d := d) a plain (checkOpnd_key (b := 5) (by decide) kheld kplain kfmt krank kperm)
    have covered : ((t.getX a).toNat != 0 && keyCovers k (t.getX a).toNat) = true ↔ covers (t.getX a).toNat := by
      rw [Bool.and_eq_true, bne_iff_ne, keyCovers_iff]
    refine ⟨fun sealed' => ?_, fun unsealed ok => ?_, fun unsealed no => ?_⟩
    · exact (past (u := t)).1 _ (by rw [checkUnsealed_sealed (checkHeld_of_held dheld) sealed', error_bind])
    · refine retyped (v := BitVec.ofNat 16 (t.getX a).toNat) ?_ (past.2 ?_ rfl plain.2)
      · have := ok.2.1
        rw [BitVec.toNat_ofNat, Nat.mod_eq_of_lt (by omega)]
      · rw [checkUnsealed_ok (checkHeld_of_held dheld) unsealed, ok_bind, need_ok _ _ (covered.2 ok), ok_bind]
    · exact (past (u := t)).1 _ (by
        rw [checkUnsealed_ok (checkHeld_of_held dheld) unsealed, ok_bind, need_error _ _ (mt covered.1 no), error_bind])
  · intro ⟨kheld, kplain, kfmt, krank, kperm⟩ dheld
    have past {u : Strand} := cunwrap_past_key (u := u) (d := d) plain (checkOpnd_key (b := 6) (by decide) kheld kplain kfmt krank kperm)
    have nonzero (h : (cOty c).toNat ≠ 0) : cOty c ≠ 0 := fun zero => h (congrArg BitVec.toNat zero)
    have sealed_iff : (cOty c != 0) = true ↔ cOty c ≠ 0 := bne_iff_ne
    refine ⟨fun unsealed => ?_, fun ok => ?_, fun sealed' no => ?_⟩
    · exact (past (u := t)).1 _ (by
        rw [checkHeld_of_held dheld, ok_bind, need_error _ _ fun h => sealed_iff.1 h unsealed, error_bind])
    · refine retyped (v := 0) rfl (past.2 ?_ rfl plain.2)
      rw [checkHeld_of_held dheld, ok_bind, need_ok _ _ (sealed_iff.2 (nonzero ok.1)), ok_bind, need_ok _ _ ((keyCovers_iff ..).2 ok.2), ok_bind]
    · have uncovered (h : keyCovers k (cOty c).toNat = true) : False :=
        no ⟨fun zero => sealed' (BitVec.eq_of_toNat_eq zero), (keyCovers_iff ..).1 h⟩
      exact (past (u := t)).1 _ (by
        rw [checkHeld_of_held dheld, ok_bind, need_ok _ _ (sealed_iff.2 sealed'), ok_bind, need_error _ _ uncovered, error_bind])

/-! ### Compartment calls and returns (R132, R133) -/

theorem Strand.getC_nullC (t : Strand) (lo hi : Nat) (r : CReg) :
    (t.nullC lo hi).getC r = if lo ≤ r.toNat ∧ r.toNat ≤ hi then nullCap else t.getC r := by
  simp [Strand.nullC, Strand.getC]

theorem stComp_setComp (w : Word) (k : BitVec 16) : stComp (setComp w k) = k := extractLsb'_putBits_same _ _ (by decide)

theorem getLsbD_setComp (w : Word) (k : BitVec 16) {i : Nat} (h : i < 38 ∨ 54 ≤ i) : (setComp w k).getLsbD i = w.getLsbD i :=
  getLsbD_putBits_outside _ _ h

theorem cOty_putBits {n lo : Nat} (c : Vec) (x : BitVec n) (h : 432 ≤ lo ∨ lo + n ≤ 416) : cOty (putBits c lo x) = cOty c :=
  extractLsb'_putBits_outside c x h

/-- A transfer into a tagged, unsealed code capability whose words hold the target goes there (R58). -/
theorem Strand.jump_into {t : Strand} {img : Vec} {target : Word} (clear : stPP t.status = false) (unsealed : cOty img = 0)
    (form : cFmt img = 3 ∧ cRankm1 img = 0 ∧ cStr img 0 = 1) (exe : (cPrm img).getLsbD 4 = true) (aligned : target.toNat % 4 = 0)
    (inside : target.toNat + 4 ≤ 4 * cExt img 0) :
    t.jump { img, tag := true } target = .ok { t with pc := target, pcc := { img, tag := true } } := by
  let at' : Strand := { t with pc := target, pcc := { img, tag := true } }
  have offset := checkFetch_offset (t := at') rfl unsealed ((codeForm_iff _).2 form) ((grants_twoPow _ (by decide)).trans exe)
  have ok : checkFetch { img, tag := true } target = .ok () := by
    refine offset.trans (need_ok _ _ ?_)
    rw [Bool.and_eq_true, beq_iff_eq, decide_eq_true_iff]
    exact ⟨aligned, inside⟩
  rw [Strand.jump, ok, ok_bind, setPP_of_clear clear]

theorem grants_invoke_exe {c : Vec} (exe : (cPrm c).getLsbD 4 = true) (invoke : (cPrm c).getLsbD 7 = true) :
    grants c (pInvoke ||| pExe) = true := by
  have both (p : BitVec 16) : p &&& BitVec.twoPow 16 7 = BitVec.twoPow 16 7 → p &&& BitVec.twoPow 16 4 = BitVec.twoPow 16 4 →
      p &&& (pInvoke ||| pExe) = pInvoke ||| pExe := fun h7 h4 => by
    change p &&& (BitVec.twoPow 16 7 ||| BitVec.twoPow 16 4) = BitVec.twoPow 16 7 ||| BitVec.twoPow 16 4
    rw [BitVec.and_or_distrib_left, h7, h4]
  exact (grants_iff ..).2 (both _ ((grants_iff ..).1 ((grants_twoPow c (by decide)).trans invoke))
    ((grants_iff ..).1 ((grants_twoPow c (by decide)).trans exe)))

/-- What a call leaves: the caller's data and its return sentry sealed in c13 and c14, and the callee's data in c15 (R132). -/
def Strand.called (t : Strand) (b : Vec) : Strand :=
  (((t.nullC 8 12).setC 13 (if (t.getC 15).tag then { t.getC 15 with img := setOty (t.getC 15).img 0xFFFE } else t.getC 15)).setC 14
    { t.pcc with img := setOty (setStr t.pcc.img 1 (t.pc + 4).toInt) 0xFFFF }).setC 15 { img := setOty b 0, tag := true }

/-- What a return leaves: the caller's data unsealed in c15 (R133). -/
def Strand.returned (t : Strand) : Strand :=
  (t.nullC 8 14).setC 15 (if (t.getC 13).tag then { t.getC 13 with img := setOty (t.getC 13).img 0 } else nullCap)

/-- The strand u inside the code img, for its owner, at the offset pc. -/
def Strand.inside (u : Strand) (img : Vec) (pc : Word) (owner : BitVec 16) : Strand :=
  { u with pc, pcc := { img, tag := true }, status := setComp u.status owner }

section

variable (t u : Strand) (img : Vec) (pc : Word) (owner : BitVec 16)

theorem Strand.inside_pc : (u.inside img pc owner).pc = pc := rfl
theorem Strand.inside_pcc : (u.inside img pc owner).pcc = { img, tag := true } := rfl
theorem Strand.inside_status : (u.inside img pc owner).status = setComp u.status owner := rfl
theorem Strand.getC_inside (r : CReg) : (u.inside img pc owner).getC r = u.getC r := rfl

theorem Strand.setC_sid (r : CReg) (v : CapReg) : (t.setC r v).sid = t.sid := rfl

theorem Strand.inside_called (b : Vec) :
    { (t.called b).inside img pc owner with pc := t.pc, pcc := t.pcc, status := t.status, c := t.c } = t := by
  simp [inside, called, nullC, setC_sid]

theorem Strand.inside_returned :
    { t.returned.inside img pc owner with pc := t.pc, pcc := t.pcc, status := t.status, c := t.c } = t := by
  simp [inside, returned, nullC, setC_sid]

end

theorem ne_of_toNat_lt {n : Nat} {r q : BitVec n} (h : r.toNat < q.toNat) : r ≠ q := fun same => by
  rw [same] at h
  exact Nat.lt_irrefl _ h

section

variable (t : Strand) {r : CReg}

theorem Strand.called_status (b : Vec) : (t.called b).status = t.status := by
  rw [called, setC_status, setC_status, setC_status, nullC]

theorem Strand.returned_status : t.returned.status = t.status := by
  rw [returned, setC_status, nullC]

theorem getC_called_low (b : Vec) (h : r.toNat ≤ 12) : (t.called b).getC r = if 8 ≤ r.toNat then nullCap else t.getC r := by
  have below {q : CReg} (hq : 13 ≤ q.toNat) : r ≠ q := ne_of_toNat_lt (by omega)
  rw [Strand.called, Strand.getC_setC_ne _ _ (below (by decide)), Strand.getC_setC_ne _ _ (below (by decide)),
    Strand.getC_setC_ne _ _ (below (by decide)), Strand.getC_nullC]
  exact if_congr (and_iff_left h) rfl rfl

theorem getC_called_13 (b : Vec) : (t.called b).getC 13 =
    if (t.getC 15).tag then { t.getC 15 with img := setOty (t.getC 15).img 0xFFFE } else t.getC 15 := by
  rw [Strand.called, Strand.getC_setC_ne _ _ (by decide), Strand.getC_setC_ne _ _ (by decide), Strand.getC_setC_self]

theorem getC_called_14 (b : Vec) :
    (t.called b).getC 14 = { t.pcc with img := setOty (setStr t.pcc.img 1 (t.pc + 4).toInt) 0xFFFF } := by
  rw [Strand.called, Strand.getC_setC_ne _ _ (by decide), Strand.getC_setC_self]

theorem getC_called_15 (b : Vec) : (t.called b).getC 15 = { img := setOty b 0, tag := true } := by
  rw [Strand.called, Strand.getC_setC_self]

theorem getC_returned_15 :
    t.returned.getC 15 = if (t.getC 13).tag then { t.getC 13 with img := setOty (t.getC 13).img 0 } else nullCap := by
  rw [Strand.returned, Strand.getC_setC_self]

theorem getC_returned_low (h : r.toNat ≤ 14) : t.returned.getC r = if 8 ≤ r.toNat then nullCap else t.getC r := by
  have below : r ≠ 15 := ne_of_toNat_lt (by change _ < 15; omega)
  rw [Strand.returned, Strand.getC_setC_ne _ _ below, Strand.getC_nullC]
  exact if_congr (and_iff_left h) rfl rfl

end

/-- CCALL goes to the first word of a sealed pair's code, the caller's state put aside (R132). -/
theorem ccall_enters {s : State} {ca cb : CReg} (plain : s.plain) (aheld : s.strand.held ca) (bheld : s.strand.held cb)
    (low : 1 ≤ (cOty (s.strand.getC ca).img).toNat) (high : (cOty (s.strand.getC ca).img).toNat ≤ 0xFFEF)
    (pair : cOty (s.strand.getC cb).img = cOty (s.strand.getC ca).img)
    (form : cFmt (s.strand.getC ca).img = 3 ∧ cRankm1 (s.strand.getC ca).img = 0 ∧ cStr (s.strand.getC ca).img 0 = 1)
    (word : 1 ≤ cExt (s.strand.getC ca).img 0) (exe : (cPrm (s.strand.getC ca).img).getLsbD 4 = true)
    (invoke : (cPrm (s.strand.getC ca).img).getLsbD 7 = true) (bfmt : cFmt (s.strand.getC cb).img ≤ 16)
    (binvoke : (cPrm (s.strand.getC cb).img).getLsbD 7 = true)
    (data : (s.strand.getC 15).tag = true → cOty (s.strand.getC 15).img = 0) :
    exec (.ccall ca cb) s = .next (s.setStrand ((s.strand.called (s.strand.getC cb).img).inside (setOty (s.strand.getC ca).img 0) 0
      (cOwn (s.strand.getC ca).img))) := by
  have frame : exec (.ccall ca cb) s = execCcall ca cb s := rfl
  have clear : stPP (s.strand.called (s.strand.getC cb).img).status = false := (congrArg stPP (Strand.called_status ..)).trans plain.2
  have jumps : (s.strand.called (s.strand.getC cb).img).jump { img := setOty (s.strand.getC ca).img 0, tag := true } 0 =
      .ok { s.strand.called (s.strand.getC cb).img with pc := 0, pcc := { img := setOty (s.strand.getC ca).img 0, tag := true } } := by
    refine Strand.jump_into clear (cOty_setOty ..) ⟨?_, ?_, ?_⟩ ?_ rfl ?_
    · rw [setOty, cFmt_putBits _ _ (by omega)]
      exact form.1
    · rw [setOty, cRankm1_putBits _ _ (by omega)]
      exact form.2.1
    · rw [setOty, cStr_putBits _ _ (by omega)]
      exact form.2.2
    · rw [setOty, cPrm_putBits _ _ (by omega)]
      exact exe
    · rw [setOty, cExt_putBits _ _ (by omega)]
      exact Nat.mul_le_mul_left 4 word
  have types : (decide (1 ≤ (cOty (s.strand.getC ca).img).toNat) && decide ((cOty (s.strand.getC ca).img).toNat ≤ 0xFFEF)) = true := by
    rw [decide_eq_true low, decide_eq_true high]
    rfl
  have unsealed : (!(s.strand.getC 15).tag || cOty (s.strand.getC 15).img == 0) = true := by
    rw [Bool.or_eq_true, Bool.not_eq_true', beq_iff_eq, ← Bool.not_eq_true]
    exact (em _).symm.imp_right data
  refine runJump_ok plain frame ?_
  have called : grants (s.strand.getC cb).img pInvoke = true := (grants_twoPow _ (b := 7) (by decide)).trans binvoke
  rw [checkHeld_of_held aheld, ok_bind, need_ok _ _ types, ok_bind, need_ok _ _ ((codeForm_iff _).2 form), ok_bind,
    need_ok _ _ (grants_invoke_exe exe invoke), ok_bind, need_ok _ _ (decide_eq_true word), ok_bind, checkHeld_of_held bheld, ok_bind,
    need_ok _ _ (beq_iff_eq.2 pair), ok_bind, need_ok _ _ (decide_eq_true bfmt), ok_bind, need_ok _ _ called, ok_bind]
  dsimp only
  rw [need_ok _ _ unsealed, ok_bind]
  change (Strand.jump (s.strand.called (s.strand.getC cb).img) _ _ >>= _) = _
  rw [jumps, ok_bind, Strand.inside]

section

variable {s : State} (plain : s.plain) (rev : (s.strand.getC 14).rev = false)
include plain rev

theorem cret_untagged (untagged : (s.strand.getC 14).tag = false) : Traps .cret s cTag (capDetail (opC 14)) := by
  have frame : exec .cret s = execCret s := rfl
  refine runJump_error plain frame ?_
  dsimp only
  rw [rev, Bool.not_false, need_true, ok_bind, need_error _ _ (Bool.eq_false_iff.1 untagged), error_bind]

theorem cret_unsentried (tag : (s.strand.getC 14).tag = true) (other : cOty (s.strand.getC 14).img ≠ 0xFFFF) :
    Traps .cret s cSealed (capDetail (opC 14)) := by
  have frame : exec .cret s = execCret s := rfl
  refine runJump_error plain frame ?_
  dsimp only
  rw [rev, Bool.not_false, need_true, ok_bind, need_ok _ _ tag, ok_bind, need_error _ _ (mt beq_iff_eq.1 other), error_bind]

/-- CRET goes to the offset in its sentry, the caller's data taken up again (R133). -/
theorem cret_returns (tag : (s.strand.getC 14).tag = true) (sentry : cOty (s.strand.getC 14).img = 0xFFFF)
    (drev : (s.strand.getC 13).rev = false) (data : (s.strand.getC 13).tag = true → cOty (s.strand.getC 13).img = 0xFFFE)
    (form : cFmt (s.strand.getC 14).img = 3 ∧ cRankm1 (s.strand.getC 14).img = 0 ∧ cStr (s.strand.getC 14).img 0 = 1)
    (exe : (cPrm (s.strand.getC 14).img).getLsbD 4 = true) (aligned : (BitVec.ofInt 64 (cStr (s.strand.getC 14).img 1)).toNat % 4 = 0)
    (inside : (BitVec.ofInt 64 (cStr (s.strand.getC 14).img 1)).toNat + 4 ≤ 4 * cExt (s.strand.getC 14).img 0) :
    exec .cret s = .next (s.setStrand (s.strand.returned.inside (setStr (setOty (s.strand.getC 14).img 0) 1 0)
      (BitVec.ofInt 64 (cStr (s.strand.getC 14).img 1)) (cOwn (s.strand.getC 14).img))) := by
  have frame : exec .cret s = execCret s := rfl
  have clear : stPP s.strand.returned.status = false := (congrArg stPP (Strand.returned_status ..)).trans plain.2
  have jumps := Strand.jump_into (t := s.strand.returned) (img := setStr (setOty (s.strand.getC 14).img 0) 1 0)
    (target := BitVec.ofInt 64 (cStr (s.strand.getC 14).img 1)) clear
    (by rw [setStr, cOty_putBits _ _ (by omega), cOty_setOty])
    (by
      rw [setStr, cFmt_putBits _ _ (by omega), cRankm1_putBits _ _ (by omega), cStr_putBits _ _ (by omega), setOty,
        cFmt_putBits _ _ (by omega), cRankm1_putBits _ _ (by omega), cStr_putBits _ _ (by omega)]
      exact form)
    (by rwa [setStr, cPrm_putBits _ _ (by omega), setOty, cPrm_putBits _ _ (by omega)]) aligned
    (by rwa [setStr, cExt_putBits _ _ (by omega), setOty, cExt_putBits _ _ (by omega)])
  have returns : (!(s.strand.getC 13).tag || cOty (s.strand.getC 13).img == 0xFFFE) = true := by
    rw [Bool.or_eq_true, Bool.not_eq_true', beq_iff_eq, ← Bool.not_eq_true]
    exact (em _).symm.imp_right data
  refine runJump_ok plain frame ?_
  dsimp only
  rw [rev, Bool.not_false, need_true, ok_bind, need_ok _ _ tag, ok_bind, need_ok _ _ (beq_iff_eq.2 sentry), ok_bind,
    need_ok _ _ ((Bool.not_eq_true' _).mpr drev), ok_bind, need_ok _ _ returns, ok_bind]
  change (Strand.jump s.strand.returned _ _ >>= _) = _
  rw [jumps, ok_bind, Strand.inside]

end

/-- The registers after a call, as CompartmentCallAndReturn says them. -/
theorem Strand.called_spec (t : Strand) (a b : Vec) :
    let u := (t.called b).inside (setOty a 0) 0 (cOwn a)
    u.pc = 0 ∧ u.pcc = { img := setOty a 0, tag := true } ∧ stComp u.status = cOwn a ∧
      (∀ i, i < 38 ∨ 54 ≤ i → u.status.getLsbD i = t.status.getLsbD i) ∧
      (∀ r : CReg, r.toNat < 8 → u.getC r = t.getC r) ∧
      (∀ r : CReg, 8 ≤ r.toNat → r.toNat ≤ 12 → u.getC r = nullCap) ∧
      u.getC 13 = (if (t.getC 15).tag = true then { t.getC 15 with img := setOty (t.getC 15).img 0xFFFE } else t.getC 15) ∧
      u.getC 14 = { t.pcc with img := setOty (setStr t.pcc.img 1 (t.pc + 4).toInt) 0xFFFF } ∧
      u.getC 15 = { img := setOty b 0, tag := true } ∧
      { u with pc := t.pc, pcc := t.pcc, status := t.status, c := t.c } = t := by
  refine ⟨inside_pc _ _ _ _, inside_pcc _ _ _ _, stComp_setComp .., fun i hi => ?_, fun r hr => ?_, fun r hr hr' => ?_,
    (getC_inside ..).trans (getC_called_13 ..), (getC_inside ..).trans (getC_called_14 ..),
    (getC_inside ..).trans (getC_called_15 ..), inside_called t _ _ _ b⟩
  · exact (getLsbD_setComp _ _ hi).trans (congrArg (BitVec.getLsbD · i) (called_status ..))
  · exact (getC_inside ..).trans <| (getC_called_low t b (by omega)).trans (if_neg (by omega))
  · exact (getC_inside ..).trans <| (getC_called_low t b hr').trans (if_pos hr)

/-- The registers after a return, as CompartmentCallAndReturn says them. -/
theorem Strand.returned_spec (t : Strand) (img : Vec) (target : Word) (owner : BitVec 16) :
    let u := t.returned.inside img target owner
    u.pc = target ∧ u.pcc = { img, tag := true } ∧ stComp u.status = owner ∧
      (∀ i, i < 38 ∨ 54 ≤ i → u.status.getLsbD i = t.status.getLsbD i) ∧
      (∀ r : CReg, r.toNat < 8 → u.getC r = t.getC r) ∧
      (∀ r : CReg, 8 ≤ r.toNat → r.toNat ≤ 14 → u.getC r = nullCap) ∧
      u.getC 15 = (if (t.getC 13).tag = true then { t.getC 13 with img := setOty (t.getC 13).img 0 } else nullCap) ∧
      { u with pc := t.pc, pcc := t.pcc, status := t.status, c := t.c } = t := by
  refine ⟨inside_pc _ _ _ _, inside_pcc _ _ _ _, stComp_setComp .., fun i hi => ?_, fun r hr => ?_, fun r hr hr' => ?_,
    (getC_inside ..).trans (getC_returned_15 ..), inside_returned t _ _ _⟩
  · exact (getLsbD_setComp _ _ hi).trans (congrArg (BitVec.getLsbD · i) (returned_status ..))
  · exact (getC_inside ..).trans <| (getC_returned_low t (by omega)).trans (if_neg (by omega))
  · exact (getC_inside ..).trans <| (getC_returned_low t hr').trans (if_pos hr)

/-- Settles O17: CCALL and CRET through their checks in order; the registers they leave are read off. -/
theorem compartmentCallAndReturn : Obligations.CompartmentCallAndReturn := by
  refine ⟨fun s ca cb plain => ?_, fun s plain => ?_⟩
  · intro t a b held aheld bheld low high pair fmt rank stride word exe invoke bfmt binvoke data
    exact ⟨_, ccall_enters plain aheld bheld low high pair ⟨fmt, rank, stride⟩ word exe invoke bfmt binvoke data,
      Strand.called_spec s.strand (s.strand.getC ca).img (s.strand.getC cb).img⟩
  · intro t e d target
    refine ⟨cret_untagged plain, cret_unsentried plain, fun rev tag sentry drev data fmt rank stride exe aligned inside => ?_⟩
    exact ⟨_, cret_returns plain rev tag sentry drev data ⟨fmt, rank, stride⟩ exe aligned inside,
      Strand.returned_spec s.strand _ _ _⟩

end Sys2Proof.Machine
end

section
/-! Operands of scalar accesses and the places of near bytes (07 R215, R219 to R222), with the scalar loads (O36). -/

namespace Sys2Proof.Machine

/-! ### The operand of a scalar access (R219 to R222) -/

theorem grants_of_usable {t : Strand} {a : CReg} {p : BitVec 16} (h : t.usable a p) : grants (t.getC a).img p = true := by
  obtain ⟨-, -, -, -, -, perm⟩ := h
  exact (grants_iff ..).2 perm

theorem fmt_le_of_usable {t : Strand} {a : CReg} {p : BitVec 16} (h : t.usable a p) : decide (cFmt (t.getC a).img ≤ 16) = true := by
  obtain ⟨-, -, -, -, fmt, -⟩ := h
  exact decide_eq_true fmt

theorem scalarForm_ok {c : Vec} (cnt : cFmt c ≠ 14) (plainFmt : ¬ (cFmt c = 11 ∨ cFmt c = 12 ∨ cFmt c = 13)) : scalarForm c = true := by
  rw [scalarForm, not_isGroup plainFmt, bne_iff_ne.2 (show cFmt c ≠ fCnt from cnt)]
  rfl

/-- A usable operand of a plain format passes the checks of a scalar access. -/
theorem scalarCap_ok {t : Strand} {a : CReg} {p : BitVec 16} (h : t.usable a p) (cnt : cFmt (t.getC a).img ≠ 14)
    (plainFmt : ¬ (cFmt (t.getC a).img = 11 ∨ cFmt (t.getC a).img = 12 ∨ cFmt (t.getC a).img = 13)) :
    scalarCap t a p = .ok (t.getC a).img := by
  rw [scalarCap, checkUnsealed_of_usable h, ok_bind, need_ok _ _ (fmt_le_of_usable h), ok_bind, need_ok _ _ (grants_of_usable h), ok_bind,
    need_ok _ _ (scalarForm_ok cnt plainFmt), ok_bind]

theorem toNat_toInt_of_nonneg {n : Nat} {b : BitVec n} (h : 0 ≤ b.toInt) : b.toInt.toNat = b.toNat := by
  have lt := b.isLt
  have cond := BitVec.toInt_eq_toNat_cond b
  split at cond <;> omega

theorem elemAddr_lt (c : Vec) (i : Idx) : elemAddr c i < 2 ^ 56 := by
  have := Int.emod_lt_of_pos (elemAddrInt c i) (show (0 : Int) < (2 ^ 56 : Nat) by decide)
  have := Int.emod_nonneg (elemAddrInt c i) (show ((2 ^ 56 : Nat) : Int) ≠ 0 by decide)
  unfold elemAddr
  omega

section

variable {t : Strand} {c : Vec} {size va : Nat} {m : MemOpnd}

theorem opndAt_lt (at' : opndAt t c size m va) : va < 2 ^ 56 := by
  obtain ⟨-, -, reach⟩ := at'
  cases m with
  | off imm =>
    obtain ⟨-, -, -, rfl⟩ := reach
    exact Nat.mod_lt _ (by decide)
  | idx r =>
    obtain ⟨-, -, rfl⟩ := reach
    exact elemAddr_lt ..

/-- The address of an operand that reaches one. -/
theorem memAddr_of_opndAt (o : BitVec 5) (at' : opndAt t c size m va) : memAddr t c o size m = .ok va := by
  obtain ⟨-, -, reach⟩ := at'
  cases m with
  | off imm =>
    obtain ⟨unit, low, high, rfl⟩ := reach
    have inside : (decide (0 ≤ imm.toInt) && decide (imm.toInt + size ≤ cExt c 0 * Machine.sizeOf (cFmt c))) = true := by
      rw [decide_eq_true low, decide_eq_true high]
      rfl
    rw [memAddr, rowAddr, need_ok _ _ (beq_iff_eq.2 unit), ok_bind]
    dsimp only
    rw [need_ok _ _ inside, ok_bind, toNat_toInt_of_nonneg low]
  | idx r =>
    obtain ⟨width, inside, rfl⟩ := reach
    rw [memAddr, indexAddr, need_ok _ _ (beq_iff_eq.2 width), ok_bind]
    exact if_pos inside

/-- The index that DETAIL of CAP_BOUNDS names. -/
def opndIndex (t : Strand) : MemOpnd → BitVec 48
  | .off i => i.signExtend 48
  | .idx r => (t.getX r).extractLsb' 0 48

/-- An operand of the right form names an offset or an index out of its bounds. -/
def opndOutside (t : Strand) (c : Vec) (size : Nat) (m : MemOpnd) : Prop :=
  cFmt c ≠ 14 ∧ ¬ (cFmt c = 11 ∨ cFmt c = 12 ∨ cFmt c = 13) ∧ match m with
    | .off i => cStr c 0 = 1 ∧ (i.toInt < 0 ∨ cExt c 0 * Machine.sizeOf (cFmt c) < i.toInt + size)
    | .idx r => Machine.sizeOf (cFmt c) = size ∧ cExt c 0 * cExt c 1 * cExt c 2 * cExt c 3 ≤ (t.getX r).toNat

theorem memAddr_of_outside (o : BitVec 5) (out : opndOutside t c size m) :
    memAddr t c o size m = .error { cause := cBounds, detail := capDetail o 0 (opndIndex t m) } := by
  obtain ⟨-, -, beyond⟩ := out
  cases m with
  | off imm =>
    obtain ⟨unit, beyond⟩ := beyond
    have no : ¬ (decide (0 ≤ imm.toInt) && decide (imm.toInt + size ≤ cExt c 0 * Machine.sizeOf (cFmt c))) = true := by
      rw [Bool.and_eq_true, decide_eq_true_iff, decide_eq_true_iff]
      omega
    rw [memAddr, rowAddr, need_ok _ _ (beq_iff_eq.2 unit), ok_bind]
    dsimp only
    rw [need_error _ _ no]
    rfl
  | idx r =>
    obtain ⟨width, beyond⟩ := beyond
    rw [memAddr, indexAddr, need_ok _ _ (beq_iff_eq.2 width), ok_bind]
    exact if_neg (not_lt.2 beyond)

end

/-! ### Near addresses (R200, R215) -/

/-- A near address lies in the scratchpad of the core or in the vault of its cluster. -/
theorem nearAddr_cases {k va : Nat} (lt : va < 2 ^ 56) (near : nearAddr k va = true) :
    (∃ o, o < 0x20000 ∧ k < 1024 ∧ va = 0xF0 * 2 ^ 48 + 0x20000 * k + o ∧ windowOf va = .spad k o) ∨
      ∃ o, o < 0x200000 ∧ k / 8 < 128 ∧ va = 0xF1 * 2 ^ 48 + 0x200000 * (k / 8) + o ∧ windowOf va = .vault (k / 8) o := by
  unfold nearAddr at near
  split at near
  · next j o w =>
    rw [beq_iff_eq] at near
    subst near
    refine .inl ⟨o, ?_⟩
    unfold windowOf at w
    dsimp only at w
    split_ifs at w with h1 h2 h3 h4 h5 h6
    injection w with hj ho
    refine ⟨by omega, by omega, by omega, ?_⟩
    unfold windowOf
    simp only [h3, h4, hj, ho]
    rfl
  · next v o w =>
    rw [beq_iff_eq] at near
    subst near
    refine .inr ⟨o, ?_⟩
    unfold windowOf at w
    dsimp only at w
    split_ifs at w with h1 h2 h3 h4 h5 h6
    injection w with hj ho
    refine ⟨by omega, by omega, by omega, ?_⟩
    unfold windowOf
    simp only [h5, h6, hj, ho]
    rfl
  · cases near

theorem nearWindow_of_nearAddr {k va : Nat} (lt : va < 2 ^ 56) (near : nearAddr k va = true) : nearWindow va := by
  obtain ⟨o, -, -, -, w⟩ | ⟨o, -, -, -, w⟩ := nearAddr_cases lt near
  · exact ⟨k, o, .inl w⟩
  · exact ⟨k / 8, o, .inr w⟩

theorem not_hostAddr_of_near {k va : Nat} (lt : va < 2 ^ 56) (near : nearAddr k va = true) : hostAddr va = false := by
  obtain ⟨o, -, -, -, w⟩ | ⟨o, -, -, -, w⟩ := nearAddr_cases lt near <;>
  · rw [hostAddr, w]

/-- The place some bytes after another. -/
def Place.after (p : Place) (q : Nat) : Place := { flat := p.flat + q, home := p.home }

section

variable {s : State} {t va va' q acc acc' : Nat} {n : Need} {ctr ctr' : Bool} {p p' : Place} {k o : Nat}

theorem placeOf_spad_after (w : windowOf va = .spad k o) (w' : windowOf va' = .spad k (o + q)) (h : s.placeOf t va n ctr acc = .ok p)
    (h' : s.placeOf t va' n ctr' acc' = .ok p') : p' = p.after q := by
  unfold State.placeOf at h h'
  rw [w] at h
  rw [w'] at h'
  dsimp only at h h'
  cases part : s.partOf t k with
  | none => rw [part] at h; cases h
  | some i =>
    rw [part] at h h'
    dsimp only at h h'
    split at h
    · split at h'
      · rw [← Except.ok.inj h, ← Except.ok.inj h', Place.after, Nat.add_assoc _ o q]
      · cases h'
    · cases h

theorem placeOf_vault_after (w : windowOf va = .vault k o) (w' : windowOf va' = .vault k (o + q)) (h : s.placeOf t va n ctr acc = .ok p)
    (h' : s.placeOf t va' n ctr' acc' = .ok p') : p' = p.after q := by
  have at' {a o ac : Nat} {c : Bool} {r : Place} (w : windowOf a = .vault k o) (h : s.placeOf t a n c ac = .ok r) :
      r = { flat := Config.vaultFlat + 0x200000 * k + o, home := .vault k } := by
    unfold State.placeOf at h
    rw [w] at h
    dsimp only at h
    split at h
    · split at h
      · exact (Except.ok.inj h).symm
      · cases h
    · cases h
  rw [at' w h, at' w' h', Place.after, Nat.add_assoc _ o q]

end

/-- The bytes of a near run lie one after another. -/
theorem near_after {s : State} {t k va q acc acc' : Nat} {n : Need} {p p' : Place} (lt : va < 2 ^ 56) (hq : q < 2 ^ 40)
    (first : nearAddr k va = true) (near : nearAddr k ((va + q) % 2 ^ 56) = true) (h : s.placeOf t va n false acc = .ok p)
    (h' : s.placeOf t ((va + q) % 2 ^ 56) n false acc' = .ok p') : p' = p.after q := by
  have lt' : (va + q) % 2 ^ 56 < 2 ^ 56 := Nat.mod_lt _ (by decide)
  obtain ⟨o, ho, hk, e, w⟩ | ⟨o, ho, hk, e, w⟩ := nearAddr_cases lt first
  · obtain ⟨o', ho', hk', e', w'⟩ | ⟨o', ho', hk', e', w'⟩ := nearAddr_cases lt' near
    · have : o' = o + q := by omega
      exact placeOf_spad_after w (this ▸ w') h h'
    · omega
  · obtain ⟨o', ho', hk', e', w'⟩ | ⟨o', ho', hk', e', w'⟩ := nearAddr_cases lt' near
    · omega
    · have : o' = o + q := by omega
      exact placeOf_vault_after w (this ▸ w') h h'

/-- A map that nowhere fails. -/
theorem mapM_ok {α β : Type} {f : α → Raises β} {g : α → β} {l : List α} (h : ∀ a ∈ l, f a = .ok (g a)) : l.mapM f = .ok (l.map g) := by
  induction l with
  | nil => rfl
  | cons a l ih =>
    rw [List.mapM_cons, h a List.mem_cons_self, ok_bind, ih fun b hb => h b (List.mem_cons_of_mem _ hb)]
    rfl

section

variable {s : State} {va n : Nat} {P : Nat → Place} (lt : va < 2 ^ 56) (some' : 0 < n) (near : s.nearAt va n P)
include lt near

theorem nearAt_zero (some' : 0 < n) : nearAddr s.cur va = true ∧ s.placeOf s.ten va needR false va = .ok (P 0) := by
  have first := (near.1 0 some').1
  have place := near.2 0 some'
  rw [Nat.add_zero, Nat.mod_eq_of_lt lt] at first place
  exact ⟨first, place⟩

theorem nearAt_after {q : Nat} (hq : q < n) (small : n ≤ 64) : P q = (P 0).after q := by
  obtain ⟨first, place⟩ := nearAt_zero lt near (by omega)
  exact near_after lt (by omega) first (near.1 q hq).1 place (near.2 q hq)

/-- The places of a near run. -/
theorem placesOf_of_nearAt (some' : 0 < n) (small : n ≤ 64) : s.placesOf s.ten va n needR = .ok ((List.range n).map P) := by
  obtain ⟨first, place⟩ := nearAt_zero lt near some'
  rw [State.placesOf, place, ok_bind, near.2 (n - 1) (by omega), ok_bind]
  split
  · refine congrArg Except.ok (List.map_congr_left fun q hq => ?_)
    exact (nearAt_after lt near (List.mem_range.1 hq) small).symm
  · exact mapM_ok fun q hq => near.2 q (List.mem_range.1 hq)

theorem reachOf_of_nearAt (some' : 0 < n) : reachOf s.cur va n = .near := by
  rw [reachOf, (nearAt_zero lt near some').1, (near.1 (n - 1) (by omega)).1]
  rfl

omit lt in
/-- Near bytes lie in a scratchpad or a vault, whose cells no cache keeps. -/
theorem home_of_nearAt {q : Nat} (hq : q < n) : (P q).home.sliceNo = none := by
  obtain ⟨-, k, home⟩ := State.placeOf_near (nearWindow_of_nearAddr (Nat.mod_lt _ (by decide)) (near.1 q hq).1) (near.2 q hq)
  obtain home | home := home <;>
  · rw [home]
    rfl

omit lt in
/-- Near bytes are read from memory itself. -/
theorem readPlaces_of_nearAt (t acc : Nat) :
    s.readPlaces t acc ((List.range n).map P) = .ok (s, (List.range n).map fun q => memGet s.mem (P q).flat) := by
  have touched : s.touch t acc ((List.range n).map P) = .ok s := State.touch_direct t acc fun p hp => by
    obtain ⟨q, hq, rfl⟩ := List.mem_map.1 hp
    exact ⟨home_of_nearAt near (List.mem_range.1 hq), (near.1 q (List.mem_range.1 hq)).2⟩
  rw [State.readPlaces, touched, ok_bind, List.map_map]
  refine congrArg (fun bs => Except.ok (s, bs)) (List.map_congr_left fun q hq => ?_)
  rw [Function.comp_apply, State.peekByte, home_of_nearAt near (List.mem_range.1 hq)]

end

/-- Without posted stores a strand reads what is at the places. -/
theorem State.readOwn_of_idle {s : State} {t acc : Nat} {ps : List Place} {bs : List Byte} (k : Nat) (idle : (s.core k).posted = [])
    (long : bs.length = ps.length) (read : s.readPlaces t acc ps = .ok (s, bs)) : s.readOwn k t acc ps = .ok (s, bs) := by
  have own (f : Nat) : (s.core k).forwards f = none := by
    rw [Core.forwards, idle]
    rfl
  rw [State.readOwn, read, ok_bind]
  refine congrArg (fun bs => Except.ok (s, bs)) ?_
  simp only [own, Option.getD_none]
  exact List.map_snd_zip (by omega)

/-- Without posted stores no atomic of the strand's own comes first. -/
theorem State.atomsFirst_of_idle {s : State} {k : Nat} (done : State) (fs : List Nat) (f : State → Raises State)
    (idle : (s.core k).posted = []) : s.atomsFirst done k fs f = f done := by
  rw [State.atomsFirst, idle]
  rfl

/-! ### Scalar loads (R222) -/

theorem extend_eq (signed : Bool) (bs : List Byte) : extend signed bs = loadedWord bs.length signed (bytesNat bs) := by
  cases signed with
  | true =>
    rw [loadedWord, if_pos rfl, BitVec.signExtend, ← sextNat_eq]
    rfl
  | false => rfl

section

variable {s : State} {i : Instr} {size : Nat} {signed : Bool} {d : XReg} {a : CReg} {m : MemOpnd} (plain : s.plain)
  (frame : exec i s = s.runLoad i size signed d a m)
include plain frame

theorem load_near {va : Nat} {P : Nat → Place} (usable : s.strand.usable a 0x0001) (idle : (s.core s.cur).posted = [])
    (some' : 0 < size) (small : size ≤ 64) (at' : opndAt s.strand (s.strand.getC a).img size m va) (near : s.nearAt va size P) :
    Completes i s (s.strand.setX d (loadedWord size signed (s.valueAt size P))) := by
  have lt := opndAt_lt at'
  have read := State.readOwn_of_idle s.cur idle (by simp) (readPlaces_of_nearAt near s.ten va)
  rw [Completes, frame]
  refine State.run_ok plain ?_
  dsimp only
  rw [show pLd = 0x0001 from rfl, scalarCap_ok usable at'.1 at'.2.1, ok_bind, memAddr_of_opndAt (opC a) at', ok_bind,
    reachOf_of_nearAt lt near some']
  dsimp only
  rw [placesOf_of_nearAt lt near some' small, ok_bind, State.atomsFirst_of_idle _ _ _ idle, read, ok_bind, extend_eq, List.length_map,
    List.length_range, State.past_eq_next (by simp) (by simpa using plain.2)]
  rfl

theorem load_outside (usable : s.strand.usable a 0x0001) (out : opndOutside s.strand (s.strand.getC a).img size m) :
    Traps i s 0x11 (capDetail (opC a) 0 (opndIndex s.strand m)) := by
  rw [Traps, frame]
  refine State.run_error plain ?_
  dsimp only
  rw [show pLd = 0x0001 from rfl, scalarCap_ok usable out.1 out.2.1, ok_bind, memAddr_of_outside (opC a) out, error_bind]
  rfl

end

/-- Settles O36: the operand reaches an address or names what is out of bounds, and near bytes are those of memory. -/
theorem scalarLoads : Obligations.ScalarLoads := by
  intro s d a imm x plain idle t c outside index load
  have loads {i : Instr} {size : Nat} {signed : Bool} {m : MemOpnd} (some' : 0 < size) (small : size ≤ 64)
      (frame : exec i s = s.runLoad i size signed d a m) : load i size signed m := fun usable =>
    ⟨fun va P at' near => load_near plain frame usable idle some' small at' near, fun out => load_outside plain frame usable out⟩
  refine ⟨loads ?_ ?_ rfl, loads ?_ ?_ rfl, loads ?_ ?_ rfl, loads ?_ ?_ rfl, loads ?_ ?_ rfl, loads ?_ ?_ rfl, loads ?_ ?_ rfl,
    loads ?_ ?_ rfl, loads ?_ ?_ rfl, loads ?_ ?_ rfl, loads ?_ ?_ rfl, loads ?_ ?_ rfl, loads ?_ ?_ rfl, loads ?_ ?_ rfl⟩ <;>
  decide

end Sys2Proof.Machine
end

section
/-! Strands that end for a far access or for a translation (07 R216, R217, 10 R314), with the far scalar accesses (O42). -/

namespace Sys2Proof.Machine

/-! ### A strand that ends leaves its core and a bookmark -/

theorem Strand.next_of_clear {t : Strand} (clear : stPP t.status = false) : t.next = { t with pc := t.pc + 4 } := by
  rw [Strand.next, setPP_of_clear clear]

/-- The executing strand has left its core, memory and the other cores as they were, and its bookmark b is with a holder. -/
def State.Ended (s : State) (b : Bookmark) (holder : Holder) (s' : State) : Prop :=
  (s'.core s.cur).mode = .saving ∧ (s'.core s.cur).strand = {} ∧ s'.mem = s.mem ∧ s'.tags = s.tags ∧
    (∀ j, j ≠ s.cur → s'.core j = s.core j) ∧ ∃ h ∈ s'.bms, h.holder = holder ∧ h.cluster = s.cur / 8 ∧ h.bm = b

/-- The state that a drained strand leaves at its end with its bookmark in a room. -/
def State.leftBy (s : State) (b : Bookmark) (r : Room) : State :=
  (s.vacate s.cur .saving (0 + ceilDiv b.slots 2)).hold b .ready (s.cur / 8) s.cycle r

section

variable {s : State} {kind : WKind} {extra : BitVec 48} {wcap : BitVec 4} {warg : Word} {bind advance : Bool} {r : Room}

theorem State.endStrand_leaves {t : Strand} {b : Bookmark} (full : BitVec 56) (holder : State → Nat → Raises State) (drained : s.drained)
    (out : (s.core s.cur).inPhase = false) (left : (if advance then s.strand.next else s.strand) = t)
    (bookmark : s.mkBookmark s.cur t kind (liveSaved t extra) wcap warg bind = b)
    (room : s.roomFor (s.cur / 8) t.tenant b.slots = some r) :
    s.endStrand kind false extra wcap warg bind advance full holder = holder (s.leftBy b r) s.nextId := by
  unfold State.endStrand State.endAfter
  dsimp only
  rw [if_neg (by rw [out]; exact Bool.false_ne_true), State.drain_of_drained drained]
  simp only [left, Bool.false_eq_true, if_false, bookmark]
  rw [room]
  rfl

end

theorem mem_updWhere {α : Type} {l : List α} {p : α → Bool} (f : α → α) {x : α} (h : x ∈ l) (hp : p x = true) : f x ∈ updWhere l p f :=
  List.mem_map.2 ⟨x, h, if_pos hp⟩

section

variable (s : State) (b : Bookmark) (r : Room)

/-- The bookmark that the strand leaves, not yet given to its holder. -/
def State.leftHeld : Held :=
  { id := s.nextId, bm := b, holder := .ready, cluster := s.cur / 8, stamp := s.cycle, room := r
    entered := (s.vacate s.cur .saving (0 + ceilDiv b.slots 2)).cycle }

theorem State.leftHeld_mem : s.leftHeld b r ∈ (s.leftBy b r).bms := by
  obtain ⟨-, -, -, nextId⟩ := s.vacate_mem s.cur .saving (0 + ceilDiv b.slots 2)
  rw [State.leftBy, State.hold_bms, nextId]
  exact List.mem_append_right _ (List.mem_singleton.2 rfl)

/-- Given to its holder, the bookmark is what the strand's end leaves. -/
theorem State.ended_of_leftBy {s' : State} {holder : Holder} (cores : s'.cores = (s.leftBy b r).cores) (mem : s'.mem = (s.leftBy b r).mem)
    (tags : s'.tags = (s.leftBy b r).tags) (held : ∃ h ∈ s'.bms, h.holder = holder ∧ h.cluster = s.cur / 8 ∧ h.bm = b) :
    s.Ended b holder s' := by
  have core (k : Nat) : s'.core k = (s.vacate s.cur .saving (0 + ceilDiv b.slots 2)).core k := by
    rw [State.core, cores]
    rfl
  obtain ⟨mode, strand⟩ := s.vacate_core s.cur .saving (0 + ceilDiv b.slots 2)
  obtain ⟨vmem, vtags, -, -⟩ := s.vacate_mem s.cur .saving (0 + ceilDiv b.slots 2)
  refine ⟨?_, ?_, mem.trans vmem, tags.trans vtags, fun j hj => ?_, held⟩
  · rw [core, mode]
  · rw [core, strand]
  · rw [core, State.vacate_core_ne _ _ _ hj]

end

/-! ### Far ends (R216) -/

theorem State.mkBookmark_fields (s : State) (k : Nat) (t : Strand) (kind : WKind) (saved : BitVec 48) (wcap : BitVec 4) (warg : Word)
    (bind : Bool) :
    let b := s.mkBookmark k t kind saved wcap warg bind
    b.kind = kind ∧ b.strand.pc = t.pc ∧ b.strand.x = t.x ∧ b.wcap = wcap ∧ b.warg = warg ∧ b.bind = bind ∧ b.saved = saved := by
  unfold State.mkBookmark maskStrand
  exact ⟨rfl, rfl, rfl, rfl, rfl, rfl, rfl⟩

section

variable (s : State) (va : Nat) (space : BitVec 2) (index : Nat) (dest : BitVec 48)

theorem liveSaved_next (t : Strand) (extra : BitVec 48) : liveSaved t.next extra = liveSaved t extra := rfl

/-- The FAR bookmark of the executing strand. -/
def State.farBookmark : Bookmark :=
  s.mkBookmark s.cur s.strand.next .far (liveSaved s.strand dest) 0 (farWarg va space index) false

variable {s va space index dest} {r : Room} {op : FarOp}

theorem State.farEnd_leaves (full : BitVec 56) (holder : State → Nat → Raises State) (clear : stPP s.strand.status = false)
    (drained : s.drained) (out : (s.core s.cur).inPhase = false) {b : Bookmark} (bookmark : s.farBookmark va space index dest = b)
    (room : s.roomFor (s.cur / 8) s.strand.tenant b.slots = some r) :
    s.endStrand .far false dest 0 (farWarg va space index) false true full holder = holder (s.leftBy b r) s.nextId := by
  have tenant : s.strand.next.tenant = s.strand.tenant := by rw [Strand.next_of_clear clear]; rfl
  have saved : liveSaved s.strand.next dest = liveSaved s.strand dest := liveSaved_next ..
  exact State.endStrand_leaves full holder drained out (if_pos rfl) (by rw [saved]; exact bookmark) (by rw [tenant]; exact room)

theorem State.endFar_ended {b : Bookmark} (due : Nat) (clear : stPP s.strand.status = false) (drained : s.drained)
    (out : (s.core s.cur).inPhase = false) (bookmark : s.farBookmark va space index dest = b)
    (room : s.roomFor (s.cur / 8) s.strand.tenant b.slots = some r) :
    ∃ s', s.endFar va space index dest op due = .ok s' ∧ s.Ended b (.far va op) s' := by
  have given := mem_updWhere (p := fun h => h.id == s.nextId) (fun h => { h with holder := .far va op, due }) (s.leftHeld_mem b r)
    (beq_self_eq_true _)
  exact ⟨_, State.farEnd_leaves 0 _ clear drained out bookmark room, s.ended_of_leftBy b r rfl rfl rfl ⟨_, given, rfl, rfl, rfl⟩⟩

theorem State.endFarTook_ended {b : Bookmark} (took : List Nat) (clear : stPP s.strand.status = false) (drained : s.drained)
    (out : (s.core s.cur).inPhase = false) (bookmark : s.farBookmark va space index dest = b)
    (room : s.roomFor (s.cur / 8) s.strand.tenant b.slots = some r) :
    ∃ s', s.endFarTook took va space index dest op = .ok s' ∧ s.Ended b (.far va op) s' := by
  have given := mem_updWhere (p := fun h => h.id == s.nextId) (fun h => { h with holder := .far va op }) (s.leftHeld_mem b r)
    (beq_self_eq_true _)
  have noted := mem_updWhere (p := fun h => h.id == s.nextId) (fun h => { h with took }) given (beq_self_eq_true _)
  exact ⟨_, State.farEnd_leaves 0 _ clear drained out bookmark room, s.ended_of_leftBy b r rfl rfl rfl ⟨_, noted, rfl, rfl, rfl⟩⟩

theorem farWarg_toNat : (farWarg va space index).toNat = (space.toNat * 64 + index % 32) * 2 ^ 56 + va % 2 ^ 56 := by
  have low : (BitVec.ofNat 56 va).toNat = va % 2 ^ 56 := BitVec.toNat_ofNat ..
  have reg : (BitVec.ofNat 5 index).toNat = index % 32 := BitVec.toNat_ofNat ..
  have high : (space ++ 0#1 ++ BitVec.ofNat 5 index : BitVec 8).toNat = space.toNat * 64 + index % 32 := by
    rw [BitVec.toNat_append, BitVec.toNat_append, reg, ← Nat.shiftLeft_add_eq_or_of_lt (by omega), BitVec.toNat_ofNat, Nat.zero_mod,
      Nat.or_zero, Nat.shiftLeft_eq, Nat.shiftLeft_eq]
    omega
  rw [farWarg, BitVec.toNat_append, high, low, ← Nat.shiftLeft_add_eq_or_of_lt (Nat.mod_lt _ (by decide)), Nat.shiftLeft_eq]

/-- A register that the long-latency end has to save is among the saved ones, unless it is bound (R145). -/
theorem getLsbD_liveSaved {t : Strand} {q : Nat} (hq : q < 48) (wanted : dest.getLsbD q = true)
    (unbound : (t.sbound.setWidth 48 <<< 40).getLsbD q = false) : (liveSaved t dest).getLsbD q = true := by
  rw [liveSaved, BitVec.getLsbD_and, BitVec.getLsbD_or, wanted, BitVec.getLsbD_not, unbound, decide_eq_true hq, Bool.or_true]
  rfl

/-- An instruction whose drained strand leaves its FAR bookmark ends far. -/
theorem endsFar_of_ended {i : Instr} (ends : s.drained → (s.core s.cur).inPhase = false → ∀ b r, s.farBookmark va space index dest = b →
      s.roomFor (s.cur / 8) s.strand.tenant b.slots = some r → ∃ s', exec i s = .next s' ∧ s.Ended b (.far va op) s') :
    EndsFar i s va space index dest op := by
  intro drained out r room
  obtain ⟨s', run, mode, strand, mem, tags, others, h, hin, holder, cluster, bm⟩ := ends drained out _ r rfl room
  have low := Nat.mod_lt va (show 0 < 2 ^ 56 by decide)
  refine ⟨s', run, mode, strand, mem, tags, others, h, hin, holder, cluster, ?_⟩
  obtain ⟨kind, pc, x, -, warg, bind, saved⟩ :=
    s.mkBookmark_fields s.cur s.strand.next .far (liveSaved s.strand dest) 0 (farWarg va space index) false
  rw [bm, State.farBookmark, warg, saved, farWarg_toNat]
  exact ⟨kind, pc, x, by omega, by omega, bind, fun q hq wanted unbound => getLsbD_liveSaved hq wanted unbound⟩

theorem endsFar_of_run {i : Instr} {f : State → Raises State} (due : Nat) (plain : s.plain) (frame : exec i s = s.run i f)
    (h : f s = s.endFar va space index dest op due) : EndsFar i s va space index dest op := by
  refine endsFar_of_ended fun drained out b r bookmark room => ?_
  obtain ⟨s', ends, ended⟩ := State.endFar_ended due plain.2 drained out bookmark room
  exact ⟨s', by rw [frame]; exact State.run_ok plain (h.trans ends), ended⟩

end

/-! ### Waits for a translation (R206, R217) -/

theorem State.endXlate_ended {s : State} {va : Nat} {b : Bookmark} {r : Room} (drained : s.drained) (out : (s.core s.cur).inPhase = false)
    (bookmark : s.mkBookmark s.cur s.strand .xlate (liveSaved s.strand 0) 0 (w64 va) false = b)
    (room : s.roomFor (s.cur / 8) s.strand.tenant b.slots = some r) :
    ∃ s', s.endXlate va = .ok s' ∧ s.Ended b (.xlate va) s' := by
  obtain ⟨walks, turn, same⟩ :=
    State.walkers_eq ((s.leftBy b r).setHolder s.nextId (.xlate va)) ((s.leftBy b r).cur / 512)
  have given := mem_updWhere (p := fun h => h.id == s.nextId) (fun h => { h with holder := .xlate va }) (s.leftHeld_mem b r)
    (beq_self_eq_true _)
  exact ⟨_, (State.endStrand_leaves 0 _ drained out (if_neg Bool.false_ne_true) bookmark room).trans (congrArg Except.ok same),
    s.ended_of_leftBy b r rfl rfl rfl ⟨_, given, rfl, rfl, rfl⟩⟩

theorem endsWaiting_of_run {s : State} {i : Instr} {f : State → Raises State} {va : Nat} (plain : s.plain) (frame : exec i s = s.run i f)
    (h : f s = s.endXlate va) : EndsWaiting i s .xlate 0 (BitVec.ofNat 64 va) (.xlate va) := by
  intro drained out r room
  obtain ⟨s', ends, mode, strand, mem, tags, others, x, hin, holder, cluster, bm⟩ := State.endXlate_ended drained out rfl room
  refine ⟨s', by rw [frame]; exact State.run_ok plain (h.trans ends), mode, strand, mem, tags, others, x, hin, holder, cluster, ?_⟩
  rw [bm]
  obtain ⟨kind, pc, x, wcap, warg, bind, -⟩ := s.mkBookmark_fields s.cur s.strand .xlate (liveSaved s.strand 0) 0 (w64 va) false
  exact ⟨kind, pc, x, wcap, warg, bind⟩

/-! ### Far scalar loads and atomics (R215, R216, R227, R228) -/

theorem reachOf_of_not_near {k va : Nat} (n : Nat) (away : nearAddr k va = false) : reachOf k va n = .host ∨ reachOf k va n = .far := by
  rw [reachOf, away, Bool.false_and, if_neg Bool.false_ne_true]
  split
  · exact .inl rfl
  · exact .inr rfl

theorem load_far {s : State} {i : Instr} {size va : Nat} {signed : Bool} {d : XReg} {a : CReg} {m : MemOpnd} (plain : s.plain)
    (frame : exec i s = s.runLoad i size signed d a m) (usable : s.strand.usable a 0x0001) (away : nearAddr s.cur va = false)
    (at' : opndAt s.strand (s.strand.getC a).img size m va) : EndsFar i s va 0 d.toNat 0 (.load size signed) := by
  refine endsFar_of_run 0 plain frame ?_
  dsimp only
  rw [show pLd = 0x0001 from rfl, scalarCap_ok usable at'.1 at'.2.1, ok_bind, memAddr_of_opndAt (opC a) at', ok_bind]
  obtain reach | reach := reachOf_of_not_near size away <;>
  · rw [reach]

/-- The operations of data atomics that host memory supports (R228). -/
def AmoOp.onHost (op : AmoOp) : Prop := op = .add ∨ op = .swap ∨ op = .cas

section

variable {s : State} {i : Instr} {op : AmoOp} {w : Bool} {d b : XReg} {a : CReg} (plain : s.plain)
  (frame : exec i s = s.runAmo i op w d a b) (usable : s.strand.usable a 0x0003)
  (fmt : cFmt (s.strand.getC a).img = if w then 4 else 3) (aligned : cBase (s.strand.getC a).img % amoBytes w = 0)

include usable fmt in
/-- A usable operand of an atomic's width passes its checks. -/
theorem amoCap_ok : checkOpnd (s.strand.getC a) s.strand.comp (opC a) (fun c => cFmt c == if w then fInt64 else fInt32) (pLd ||| pSt) =
    .ok (s.strand.getC a).img := by
  have form : (decide (cFmt (s.strand.getC a).img ≤ 16) && cFmt (s.strand.getC a).img == if w then fInt64 else fInt32) = true := by
    rw [fmt_le_of_usable usable, Bool.true_and, beq_iff_eq]
    exact fmt
  rw [checkOpnd_of_unsealed _ _ (checkUnsealed_of_usable usable), need_ok _ _ form, ok_bind,
    need_ok _ _ (show grants _ (pLd ||| pSt) = true from grants_of_usable usable), ok_bind]

theorem hostSupports_iff (host : Bool) : (!host || op == .add || op == .swap || op == .cas) = true ↔ (host = true → op.onHost) := by
  simp only [Bool.or_eq_true, Bool.not_eq_true', beq_iff_eq, AmoOp.onHost]
  cases host
  · simp
  · simp [or_assoc]

include plain frame usable fmt aligned

theorem atomic_far (ends : if hostAddr (cBase (s.strand.getC a).img) = true then op.onHost else d ≠ 0) :
    EndsFar i s (cBase (s.strand.getC a).img) 0 d.toNat 0 (.atomic op w (s.strand.getX b) (s.strand.getX d)) := by
  refine endsFar_of_run 0 plain frame ?_
  have supported : hostAddr (cBase (s.strand.getC a).img) = true → op.onHost := fun host => by rwa [if_pos host] at ends
  have away : d ≠ 0 ∨ hostAddr (cBase (s.strand.getC a).img) = true := by
    by_cases host : hostAddr (cBase (s.strand.getC a).img) = true
    · exact .inr host
    · exact .inl (by rwa [if_neg host] at ends)
  have expect : (if d = 0 then 0 else s.strand.getX d) = s.strand.getX d := by
    split
    · next zero => rw [zero]; rfl
    · rfl
  dsimp only
  rw [amoCap_ok usable fmt, ok_bind, need_ok _ _ (beq_iff_eq.2 aligned), ok_bind, need_ok _ _ ((hostSupports_iff _).2 supported), ok_bind,
    if_pos away, expect]

theorem atomic_unsupported (host : hostAddr (cBase (s.strand.getC a).img) = true) (no : ¬ op.onHost) :
    Traps i s 0x25 (BitVec.ofNat 56 (cBase (s.strand.getC a).img)) := by
  rw [Traps, frame]
  refine State.run_error plain ?_
  dsimp only
  rw [amoCap_ok usable fmt, ok_bind, need_ok _ _ (beq_iff_eq.2 aligned), ok_bind,
    need_error _ _ fun h => no ((hostSupports_iff _).1 h host), error_bind]
  rfl

end

/-- Settles O42: loads that are not near, and atomics with a destination or in a host window. -/
theorem farAccesses : Obligations.FarAccesses := by
  intro s d b a imm x w va plain t c k ends load atomic
  have loads {size : Nat} {sg : Bool} {o i : Instr} (frameO : exec o s = s.runLoad o size sg d a (.off imm))
      (frameI : exec i s = s.runLoad i size sg d a (.idx x)) : load size sg o i := fun usable away =>
    ⟨fun at' => load_far plain frameO usable away at', fun at' => load_far plain frameI usable away at'⟩
  have atomics {op : AmoOp} {i : Instr} (frame : exec i s = s.runAmo i op w d a b) : atomic op i := fun usable fmt base aligned => by
    subst base
    exact ⟨fun away => atomic_far plain frame usable fmt aligned away, fun host no => atomic_unsupported plain frame usable fmt aligned host no⟩
  exact ⟨loads rfl rfl, loads rfl rfl, loads rfl rfl, loads rfl rfl, loads rfl rfl, loads rfl rfl, loads rfl rfl, atomics rfl, atomics rfl,
    atomics rfl, atomics rfl, atomics rfl, atomics rfl, atomics rfl, atomics rfl, atomics rfl, atomics rfl⟩

end Sys2Proof.Machine
end

section
/-! A posted entry offered to its home leaves the core that executes, and its strand, as they are (07 R217). -/

namespace Sys2Proof.Machine

/-! ### The core that executes stays the same -/

theorem cur_foldl {α : Type} {f : State → α → State} (step : ∀ (u : State) a, (f u a).cur = u.cur) (l : List α) (s : State) :
    (l.foldl f s).cur = s.cur :=
  List.foldlRecOn (motive := fun u => u.cur = s.cur) l f rfl fun u h a _ => (step u a).trans h

theorem State.writeBack_cur (s : State) (l : L2Line) : (s.writeBack l).cur = s.cur := by
  unfold State.writeBack
  split
  · rfl
  · split
    · obtain ⟨fns, pkgLog, e⟩ := s.logAt_eq 0x03 (unitAt l.place).1 (unitAt l.place).2 (some l.tenant) (w64 l.place) 0x23
      rw [e]
    · split <;> rfl

theorem State.l2Fill_cur {s u : State} {slice flat t va : Nat} (h : s.l2Fill slice flat t va = .ok u) : u.cur = s.cur := by
  unfold State.l2Fill at h
  split at h
  · cases h; rfl
  · split at h
    · cases h
    · dsimp only at h
      cases h
      split
      · rfl
      · dsimp only
        split
        · exact State.writeBack_cur { s with fresh := s.fresh + 1, l2 := _ } _
        · rfl

theorem cur_foldlM {α : Type} {f : State → α → Raises State} (step : ∀ (u : State) a v, f u a = .ok v → v.cur = u.cur) {l : List α}
    {s u : State} (h : l.foldlM f s = .ok u) : u.cur = s.cur := by
  induction l generalizing s with
  | nil => cases h; rfl
  | cons a l ih =>
    rw [List.foldlM_cons] at h
    cases e : f s a with
    | error x => rw [e] at h; cases h
    | ok v => rw [e] at h; exact (ih h).trans (step s a v e)

theorem State.touch_cur {s u : State} {t va : Nat} {ps : List Place} (h : s.touch t va ps = .ok u) : u.cur = s.cur := by
  refine cur_foldlM (fun b p b' e => ?_) h
  split at e
  · exact State.l2Fill_cur e
  · split at e
    · cases e
    · cases e; rfl

theorem State.readPlaces_cur {s u : State} {t va : Nat} {ps : List Place} {bs : List Byte} (h : s.readPlaces t va ps = .ok (u, bs)) :
    u.cur = s.cur := by
  unfold State.readPlaces at h
  cases e : s.touch t va ps with
  | error f => rw [e] at h; cases h
  | ok v => rw [e] at h; cases h; exact State.touch_cur e

theorem State.pokeByte_cur (s : State) (t : Nat) (p : Place) (b : Byte) : (s.pokeByte t p b).cur = s.cur := by
  unfold State.pokeByte
  split <;> rfl

theorem State.replaced_cur (s : State) (fs : List Nat) : (s.replaced fs).cur = s.cur := by
  unfold State.replaced
  split <;> rfl

theorem State.writePlaces_cur {s u : State} {t va : Nat} {ps : List (Place × Byte)} (h : s.writePlaces t va ps = .ok u) :
    u.cur = s.cur := by
  unfold State.writePlaces at h
  cases e : (s.replaced (ps.map (·.1.flat))).touch t va (ps.map (·.1)) with
  | error f => rw [e] at h; cases h
  | ok v =>
    rw [e] at h
    cases h
    have poked : (ps.foldl (fun s p => s.pokeByte t p.1 p.2) v).cur = v.cur := cur_foldl (fun u p => u.pokeByte_cur t p.1 p.2) ps v
    exact poked.trans ((State.touch_cur e).trans (s.replaced_cur _))

theorem State.writeGranule_cur {s u : State} {t va : Nat} {p : Place} {img : Vec} {tag : Bool}
    (h : s.writeGranule t va p img tag = .ok u) : u.cur = s.cur := by
  unfold State.writeGranule at h
  dsimp only at h
  generalize e : s.writePlaces t va _ = r at h
  cases r with
  | error f => cases h
  | ok v =>
    have wrote := State.writePlaces_cur e
    cases home : p.home.sliceNo with
    | none => rw [home] at h; cases h; exact wrote
    | some k => rw [home] at h; cases h; exact wrote

theorem State.atomicAt_cur {s u : State} {t va n : Nat} {p : Place} {op : AmoOp} {wide : Bool} {b x : Word}
    (h : s.atomicAt t va p op wide b x = .ok (u, n)) : u.cur = s.cur := by
  unfold State.atomicAt at h
  dsimp only at h
  cases e : s.readPlaces t va (p.run (amoBytes wide)) with
  | error f => rw [e] at h; cases h
  | ok r =>
    obtain ⟨v, bs⟩ := r
    rw [e] at h
    change (State.writePlaces v t va _ >>= _) = _ at h
    generalize e' : v.writePlaces t va _ = r at h
    cases r with
    | error f => cases h
    | ok w => cases h; exact (State.writePlaces_cur e').trans (State.readPlaces_cur e)

theorem State.putWord_cur (s : State) (place : Nat) (v : Word) : (s.putWord place v).cur = s.cur := by
  unfold State.putWord
  split <;> rfl

theorem State.syncHome_cur (s : State) (cell : Nat) : (s.syncHome cell).cur = s.cur := by
  unfold State.syncHome
  split
  · rfl
  · exact s.putWord_cur ..

theorem State.collectSlip_cur (s : State) (t va : Nat) (v : Word) : (s.collectSlip t va v).cur = s.cur := by
  unfold State.collectSlip
  split
  · split <;> rfl
  · rfl

theorem State.sendCans_cur (s : State) (port t : Nat) (payload : List Word) : (s.sendCans port t payload).cur = s.cur := by
  unfold State.sendCans
  split <;> rfl

theorem State.answerWatches_cur (s : State) (cell : Nat) (v : Word) : (s.answerWatches cell v).cur = s.cur :=
  cur_foldl (fun (u : State) (w : Watch) => u.sendCans_cur w.port w.owner [w64 w.op, 3, v]) _ { s with watches := _ }

theorem State.pump_cur (s : State) (fn fuel : Nat) : (s.pump fn fuel).cur = s.cur := by
  induction fuel generalizing s with
  | zero => rfl
  | succ fuel ih =>
    unfold State.pump
    dsimp only
    split
    · split
      · rfl
      · exact ih _
    · rfl

theorem State.fallback_cur (s : State) (op : CtrOp) : (s.fallback op).state.cur = s.cur := by
  unfold State.fallback
  split
  · rfl
  · split
    · exact State.pump_cur (State.updFn (s.keepWord op.place) op.tenant _) op.tenant _
    · rfl

theorem State.toHost_cur {s : State} {op : CtrOp} (kind : op.kind.adds) : (s.toHost op).state.cur = s.cur := by
  unfold State.toHost
  obtain ⟨a, kind | kind⟩ := kind
  all_goals
    rw [kind]
    dsimp only
  · split
    · rfl
    · split
      · exact State.fallback_cur (s.keepWord op.place) op
      · rfl
  · split
    · exact State.fallback_cur (s.keepWord op.place) op
    · rfl

theorem State.ats_cur {s u : State} {fn flat : Nat} {n : Need} (h : s.ats fn flat n = some u) : u.cur = s.cur := by
  unfold State.ats at h
  dsimp only at h
  split at h
  · cases h; rfl
  · split at h
    · cases h; rfl
    · cases h

/-- The state that an attempt to reach a place leaves. -/
def HostReach.stateOr (s : State) : HostReach → State
  | .ok u => u
  | .page u _ => u
  | .refused _ => s
  | .halted => s

theorem State.reach_cur (s : State) (fn : Nat) (p : Place) (n : Need) : ((s.reach fn p n).stateOr s).cur = s.cur := by
  unfold State.reach
  split
  · split
    · next v found =>
      split
      · rfl
      · split
        · rfl
        · exact State.ats_cur found
    · unfold State.askPage
      split
      · rfl
      · split <;> rfl
  · rfl

theorem State.atHost_cur {s : State} {op : CtrOp} (kind : op.kind.adds) : (s.atHost op).state.cur = s.cur := by
  have reached : (HomeAnswer.state (match s.reach op.tenant { flat := op.place, home := .host } needRW with
      | .ok s => s.toHost op
      | .page s _ => .held s
      | .refused cause => .refused s cause
      | .halted => .held s)).cur = s.cur := by
    have tried := s.reach_cur op.tenant { flat := op.place, home := .host } needRW
    generalize s.reach op.tenant { flat := op.place, home := .host } needRW = r at tried
    cases r with
    | ok u => exact (State.toHost_cur kind).trans tried
    | page u g => exact tried
    | refused cause => rfl
    | halted => rfl
  unfold State.atHost
  obtain ⟨a, kind | kind⟩ := kind
  all_goals
    rw [kind]
    exact reached

theorem State.atPeer_cur {s : State} {op : CtrOp} (port : Nat) (kind : op.kind.adds) : (s.atPeer port op).state.cur = s.cur := by
  unfold State.atPeer
  obtain ⟨a, kind | kind⟩ := kind
  all_goals
    rw [kind]
    rfl

/-! ### The strands that run stay the same -/

/-- The same core executes, and every core has the strand that it had. -/
def State.SameRun (s u : State) : Prop := u.cur = s.cur ∧ ∀ k, (u.core k).strand = (s.core k).strand

theorem State.SameRun.refl (s : State) : s.SameRun s := ⟨rfl, fun _ => rfl⟩

theorem State.SameRun.trans {s u v : State} (h : s.SameRun u) (g : u.SameRun v) : s.SameRun v :=
  ⟨g.1.trans h.1, fun k => (g.2 k).trans (h.2 k)⟩

theorem State.Aside.sameRun {s u : State} (h : s.Aside u) (cur : u.cur = s.cur) : s.SameRun u := ⟨cur, fun k => by rw [h.core]⟩

theorem State.updCore_sameRun (s : State) (j : Nat) {f : Core → Core} (keeps : ∀ c, (f c).strand = c.strand) :
    s.SameRun (s.updCore j f) := by
  refine ⟨rfl, fun k => ?_⟩
  by_cases same : k = j
  · subst same
    rw [State.core_updCore_self, keeps]
  · rw [State.core_updCore_ne _ _ same]

theorem State.releaseAfter_sameRun (s : State) (late id : Nat) (b : Bool) : s.SameRun (s.releaseAfter late id b) := by
  unfold State.releaseAfter
  split
  · exact State.SameRun.refl s
  · dsimp only
    split
    · exact State.updCore_sameRun { s with bms := _ } _ fun _ => rfl
    · exact ⟨rfl, fun _ => rfl⟩

theorem State.releaseWaiter_sameRun (s : State) (v : Word) (late id : Nat) : s.SameRun (s.releaseWaiter v late id) := by
  unfold State.releaseWaiter
  split
  · dsimp only
    split
    · exact ((State.collectSlip_aside ..).sameRun (State.collectSlip_cur ..)).trans (State.releaseAfter_sameRun _ _ _ _)
    · exact State.releaseAfter_sameRun _ _ _ _
  · exact State.SameRun.refl s

theorem State.releaseAll_sameRun (s : State) (cell : Nat) (v : Word) (ids : List Nat) : s.SameRun (s.releaseAll cell v ids) :=
  List.foldlRecOn (motive := s.SameRun) ids.zipIdx _ (State.SameRun.refl s) fun u h _ _ => h.trans (u.releaseWaiter_sameRun _ _ _)

theorem State.seen_sameRun (s : State) (cell : Nat) (before v : Word) : s.SameRun (s.seen cell before v) := by
  have answered := (s.answerWatches_aside cell v).sameRun (s.answerWatches_cur cell v)
  unfold State.seen
  dsimp only
  split
  · exact answered
  · refine State.SameRun.trans ?_ ((State.syncHome_aside ..).sameRun (State.syncHome_cur ..))
    split
    · exact answered
    · exact answered.trans (State.releaseAll_sameRun _ _ _ _)

theorem State.applyCell_sameRun {s u : State} {cell va : Nat} {new : Word} (h : s.applyCell cell va new = .ok u) : s.SameRun u := by
  unfold State.applyCell at h
  dsimp only at h
  generalize List.any (s.distances cell (s.cellVal cell)) _ = wraps at h
  cases wraps with
  | true => rw [if_pos rfl] at h; cases h
  | false =>
    rw [if_neg Bool.false_ne_true] at h
    rw [← Except.ok.inj h]
    exact ((s.putWord_aside cell new).sameRun (s.putWord_cur cell new)).trans (State.seen_sameRun _ _ _ _)

/-- An operation at a cell's home that keeps VALUE itself. -/
theorem State.applied_sameRun (s : State) (flat va : Nat) (new : Word) :
    s.SameRun (if s.badAt flat = true then HomeAnswer.refused s cIntegrity
      else (s.retest flat).appliedOr ((s.retest flat).applyCell flat va new)).state := by
  split
  · exact State.SameRun.refl s
  · have tested : s.SameRun (s.retest flat) := State.seen_sameRun _ _ _ _
    cases e : (s.retest flat).applyCell flat va new with
    | ok u => exact tested.trans (State.applyCell_sameRun e)
    | error f => exact tested

theorem State.atHome_sameRun {s : State} {op : CtrOp} (p : Place) (kind : op.kind.adds) : s.SameRun (s.atHome op p).state := by
  have near := s.applied_sameRun p.flat op.va (op.kind.newValue ((s.retest p.flat).cellVal p.flat))
  have host := (State.atHost_aside (s := s) kind).sameRun (State.atHost_cur kind)
  have peer := fun q => (State.atPeer_aside (s := s) q kind).sameRun (State.atPeer_cur q kind)
  obtain ⟨a, kind | kind⟩ := kind
  all_goals
    rw [kind] at near
    unfold State.atHome
    rw [kind]
    dsimp only
    split
    · exact State.SameRun.refl s
    · split
      · exact State.SameRun.refl s
      · cases home : p.home with
        | host => exact host
        | peer q =>
          dsimp only
          split
          · exact State.SameRun.refl s
          · exact peer q
        | spad k => exact near
        | vault k => exact near
        | channel k => exact near
        | slice k => exact near
        | hostSlice k => exact near

theorem State.acceptedOr_sameRun {s : State} {r : Raises State} (h : ∀ u, r = .ok u → s.SameRun u) : s.SameRun (s.acceptedOr r).state := by
  cases r with
  | ok u => exact h u rfl
  | error f => exact State.SameRun.refl s

theorem State.acceptEntry_sameRun (s : State) (k : Nat) (e : Posted) : s.SameRun (s.acceptEntry k e).state := by
  unfold State.acceptEntry
  dsimp only
  split
  · exact State.SameRun.refl s
  split
  · exact State.SameRun.refl s
  split
  · exact State.SameRun.refl s
  cases entry : e.op with
  | data cells => exact State.acceptedOr_sameRun fun u h => (State.writePlaces_aside h).sameRun (State.writePlaces_cur h)
  | cap p img tag => exact State.acceptedOr_sameRun fun u h => (State.writeGranule_aside h).sameRun (State.writeGranule_cur h)
  | atomic p op wide b x =>
    refine State.acceptedOr_sameRun (r := (s.atomicAt e.tenant e.va p op wide b x).map (·.1)) fun u h => ?_
    cases done : s.atomicAt e.tenant e.va p op wide b x with
    | error f => rw [done] at h; cases h
    | ok r => rw [done] at h; cases h; exact (State.atomicAt_aside done).sameRun (State.atomicAt_cur done)
  | counter p max arg =>
    have adds : (if max = true then CtrKind.max arg else CtrKind.add arg).adds := by
      cases max with
      | true => exact ⟨arg, .inr rfl⟩
      | false => exact ⟨arg, .inl rfl⟩
    have home := State.atHome_sameRun (s := { s with nextId := s.nextId + 1 }) (op :=
      { id := s.nextId, place := p.flat, va := e.va, kind := if max = true then .max arg else .add arg, tenant := e.tenant
        gen := e.gen, origin := .posted k }) p adds
    dsimp only
    split
    all_goals
      next answer =>
        rw [answer] at home
        exact home

/-- Offering an entry to its home leaves the executing core and the strands as they are. -/
theorem State.acceptAt_sameRun (s : State) (k i : Nat) : s.SameRun (s.acceptAt k i).1 := by
  unfold State.acceptAt
  dsimp only
  split
  · exact State.SameRun.refl s
  next e _ =>
  split
  · exact State.SameRun.refl s
  have offered := s.acceptEntry_sameRun k e
  split
  · next u a =>
    rw [a] at offered
    exact offered.trans (u.updCore_sameRun k fun _ => rfl)
  · next u cause a =>
    rw [a] at offered
    have gone : u.SameRun (u.updCore k fun c => { c with posted := c.posted.eraseIdx i }) := u.updCore_sameRun k fun _ => rfl
    exact (offered.trans gone).trans (State.updCore_sameRun _ k fun _ => rfl)
  · next u id a =>
    rw [a] at offered
    exact offered.trans (u.updCore_sameRun k fun _ => rfl)
  · next u a =>
    rw [a] at offered
    exact offered.trans (u.updCore_sameRun k fun _ => rfl)

end Sys2Proof.Machine
end

section
/-! Posted stores (07 R217), with the scalar stores (O37). -/

namespace Sys2Proof.Machine

/-! ### The bytes of a store -/

theorem natBytes_eq (n v : Nat) : natBytes n v = (List.range n).map fun q => BitVec.ofNat 8 (v / 256 ^ q) := by
  induction n generalizing v with
  | zero => rfl
  | succ n ih =>
    rw [natBytes, ih, List.range_succ_eq_map, List.map_cons, List.map_map, pow_zero, Nat.div_one]
    refine congrArg _ (List.map_congr_left fun q _ => ?_)
    rw [Function.comp_apply, Nat.div_div_eq_div_mul, Nat.pow_succ']

/-- Byte q of a store of v, with its address. -/
def storeByte (va v q : Nat) : Nat × Byte := ((va + q) % 2 ^ 56, BitVec.ofNat 8 (v / 256 ^ q))

theorem storeByte_va (va v q : Nat) : (storeByte va v q).1 = (va + q) % 2 ^ 56 := rfl

theorem bytesAt_eq (va n v : Nat) : bytesAt va n v = (List.range n).map (storeByte va v) := by
  rw [bytesAt, natBytes_eq, ← List.map_prod_left_eq_zip, List.map_map]
  rfl

/-- The places of a store's bytes, found one by one. -/
theorem storePlaces_ok {s : State} {t va size : Nat} {bs : Bytes} {cells : List (Place × Byte)} (long : cells.length = bs.length)
    (found : ∀ i b, bs[i]? = some b → ∃ p, cells[i]? = some (p, b.2) ∧
      s.placeOf t b.1 needW false (if size = 0 then va else ((bs[i / size * size]?).map (·.1)).getD va) = .ok p) :
    s.storePlaces t va bs size = .ok cells := by
  have each (b : (Nat × Byte) × Nat) (hb : b ∈ bs.zipIdx) :
      (do
        let p ← s.placeOf t b.1.1 needW false (if size = 0 then va else ((bs[b.2 / size * size]?).map (·.1)).getD va)
        .ok (p, b.1.2) : Raises (Place × Byte)) = .ok ((cells[b.2]?).getD ({ flat := 0, home := .host }, 0)) := by
    obtain ⟨p, cell, place⟩ := found b.2 b.1 (List.mem_zipIdx_iff_getElem?.1 hb)
    rw [place, ok_bind, cell]
    rfl
  rw [State.storePlaces, mapM_ok each]
  refine congrArg Except.ok (List.ext_getElem? fun i => ?_)
  rw [List.getElem?_map, List.getElem?_zipIdx, Option.map_map]
  cases hb : bs[i]? with
  | none => rw [List.getElem?_eq_none (long ▸ List.getElem?_eq_none_iff.1 hb)]; rfl
  | some b =>
    obtain ⟨p, cell, -⟩ := found i b hb
    simp [cell]

/-! ### An entry put into the queue (R217) -/

/-- u with an entry of a tenant put last into core k's queue. -/
def State.enqueued (u : State) (k t va : Nat) (op : PostOp) (vas : List Nat) : State :=
  ({ u with nextId := u.nextId + 1 }).updCore k fun c =>
    { c with posted := c.posted ++ [({ no := u.nextId, va, vas, op, tenant := t, gen := u.gen t } : Posted)] }

/-- An operation that no counter's home bounds. -/
def PostOp.unbounded (op : PostOp) : Prop := ∀ p max arg, op ≠ .counter p max arg

/-- s where its queue has room, and else s with the oldest entry offered to its home. -/
def State.roomMade (s : State) : State := if (s.core s.cur).posted.length < 32 then s else (s.acceptAt s.cur 0).1

theorem State.roomMade_sameRun (s : State) : s.SameRun s.roomMade := by
  unfold State.roomMade
  split
  · exact State.SameRun.refl s
  · exact s.acceptAt_sameRun s.cur 0

theorem State.SameRun.strand {s u : State} (h : s.SameRun u) : u.strand = s.strand := by
  rw [State.strand, h.1, h.2]
  rfl

theorem State.SameRun.ten {s u : State} (h : s.SameRun u) : u.ten = s.ten := congrArg Strand.tenant h.strand

theorem PostOp.data_unbounded (cells : List (Place × Byte)) : (PostOp.data cells).unbounded := fun _ _ _ h => by cases h

theorem State.enqueue_eq (s : State) (va : Nat) {op : PostOp} (vas : List Nat) (free : op.unbounded) : s.enqueue s.cur s.ten va op vas =
    if (s.roomMade.core s.cur).posted.length < 32 then (s.roomMade.enqueued s.cur s.ten va op vas, true) else (s.roomMade, false) := by
  cases op with
  | counter p max arg => exact absurd rfl (free p max arg)
  | data cells => rfl
  | cap p img tag => rfl
  | atomic p op wide b expect => rfl

theorem State.enqueue_of_room {s : State} (va : Nat) {op : PostOp} (vas : List Nat) (free : op.unbounded) (room : s.queueRoom) :
    s.enqueue s.cur s.ten va op vas = (s.enqueued s.cur s.ten va op vas, true) := by
  have made : s.roomMade = s := if_pos room
  rw [State.enqueue_eq s va vas free, made, if_pos room]

/-- The executing strand moves on past the store that it has posted. -/
theorem State.adv_enqueued {s : State} (clear : stPP s.strand.status = false) (va : Nat) (op : PostOp) (vas : List Nat) :
    (s.enqueued s.cur s.ten va op vas).adv = s.posts va op vas := by
  have strand : (s.enqueued s.cur s.ten va op vas).strand = s.strand := by
    rw [State.strand, State.enqueued]
    simp
    rfl
  rw [State.adv, strand, Strand.next_of_clear clear]
  unfold State.enqueued State.posts State.setStrand State.updCore
  simp only [State.setCore_cur, State.core_setCore_self, State.setCore_setCore]
  rfl

/-! ### How a store ends (R216, R217) -/

section

variable {s : State} {va size : Nat} {bs : Bytes} (done : State) (adv : State → State)

/-- A store outside the host window, its bytes translated, goes into the queue or waits resident for it. -/
theorem State.storeBytes_posted {cells : List (Place × Byte)} (nonempty : bs ≠ []) (ours : ∀ b ∈ bs, hostAddr b.1 = false)
    (hits : ∀ b ∈ bs, translated b.1 = true → s.tlbHit (s.cur / 8) s.ten b.1 = true) (places : s.storePlaces s.ten va bs size = .ok cells) :
    s.storeBytes done va bs adv size =
      if (s.enqueue s.cur s.ten va (.data cells) (bs.map (·.1))).2 then
        .ok (adv (done.enqueue s.cur s.ten va (.data cells) (bs.map (·.1))).1)
      else .ok (s.enqueue s.cur s.ten va (.data cells) (bs.map (·.1))).1.resident := by
  have noHost : (bs.any fun b => hostAddr b.1) = false := List.any_eq_false.2 fun b hb => by rw [ours b hb]; exact Bool.false_ne_true
  have noMiss : (bs.find? fun b => translated b.1 && !s.tlbHit (s.cur / 8) s.ten b.1) = none := List.find?_eq_none.2 fun b hb => by
    cases h : translated b.1 with
    | false => exact Bool.false_ne_true
    | true => rw [hits b hb h]; exact Bool.false_ne_true
  unfold State.storeBytes
  dsimp only
  rw [if_neg (by rwa [List.isEmpty_iff]), noHost, if_neg Bool.false_ne_true, noMiss]
  dsimp only
  rw [places, ok_bind]

/-- A store of which a byte lies in a host window goes on its way as a whole. -/
theorem State.storeBytes_far (host : ∃ b ∈ bs, hostAddr b.1 = true) :
    s.storeBytes done va bs adv size = s.endFarFrom done va 0 0 0 (.store bs size) := by
  have nonempty : bs ≠ [] := by
    obtain ⟨b, hb, -⟩ := host
    exact List.ne_nil_of_mem hb
  unfold State.storeBytes
  dsimp only
  rw [if_neg (by rwa [List.isEmpty_iff]), if_pos (List.any_eq_true.2 host)]

/-- A store whose first untranslated byte is b waits for its translation. -/
theorem State.storeBytes_misses {b : Nat × Byte} (ours : ∀ b ∈ bs, hostAddr b.1 = false)
    (miss : (bs.find? fun b => translated b.1 && !s.tlbHit (s.cur / 8) s.ten b.1) = some b) :
    s.storeBytes done va bs adv size = s.endXlate b.1 := by
  have nonempty : bs ≠ [] := List.ne_nil_of_mem (List.mem_of_find?_eq_some miss)
  have noHost : (bs.any fun b => hostAddr b.1) = false := List.any_eq_false.2 fun b hb => by rw [ours b hb]; exact Bool.false_ne_true
  unfold State.storeBytes
  dsimp only
  rw [if_neg (by rwa [List.isEmpty_iff]), noHost, if_neg Bool.false_ne_true, miss]

/-- A drained strand's far access that consumes strips ends from the state that has consumed them. -/
theorem State.endFarFrom_of_drained (drained : s.drained) (va : Nat) (space : BitVec 2) (index : Nat) (dest : BitVec 48) (op : FarOp) :
    ∃ took, s.endFarFrom done va space index dest op = done.endFarTook took va space index dest op := by
  unfold State.endFarFrom
  dsimp only
  rw [State.drain_of_drained drained]
  cases (s.core s.cur).inPhase <;> exact ⟨_, rfl⟩

end

/-! ### Scalar stores (R222) -/

section

variable {s : State} {i : Instr} {size va : Nat} {r : XReg} {a : CReg} {m : MemOpnd} (plain : s.plain)
  (frame : exec i s = s.runStore i size r a m) (usable : s.strand.usable a 0x0002)
  (at' : opndAt s.strand (s.strand.getC a).img size m va)

/-- The bytes that a scalar store writes. -/
def State.storedBytes (s : State) (r : XReg) (size va : Nat) : Bytes := (List.range size).map (storeByte va (s.strand.getX r).toNat)

/-- Byte q of a scalar store at a place. -/
def State.storedCell (s : State) (r : XReg) (P : Nat → Place) (q : Nat) : Place × Byte :=
  (P q, BitVec.ofNat 8 ((s.strand.getX r).toNat / 256 ^ q))

theorem State.storedBytes_vas (s : State) (r : XReg) (size va : Nat) : (s.storedBytes r size va).map (·.1) = vasFrom va size :=
  List.map_map ..

theorem State.storedBytes_forall (p : Nat → Prop) (h : ∀ q, q < size → p ((va + q) % 2 ^ 56)) : ∀ b ∈ s.storedBytes r size va, p b.1 := by
  intro b hb
  obtain ⟨q, hq, rfl⟩ := List.mem_map.1 hb
  exact h q (List.mem_range.1 hq)

theorem State.storedBytes_exists (p : Nat → Prop) (h : ∃ q, q < size ∧ p ((va + q) % 2 ^ 56)) : ∃ b ∈ s.storedBytes r size va, p b.1 := by
  obtain ⟨q, hq, holds⟩ := h
  exact ⟨storeByte va (s.strand.getX r).toNat q, List.mem_map_of_mem (List.mem_range.2 hq), holds⟩

theorem State.storePlaces_scalar {P : Nat → Place} (reaches : s.reaches va size needW P) :
    s.storePlaces s.ten va (s.storedBytes r size va) 0 = .ok ((List.range size).map (s.storedCell r P)) := by
  refine storePlaces_ok (by simp [State.storedBytes]) fun i b hb => ?_
  obtain ⟨hi, rfl⟩ := List.getElem?_eq_some_iff.1 hb
  have inside : i < size := by simpa [State.storedBytes] using hi
  have byte : (s.storedBytes r size va)[i] = storeByte va (s.strand.getX r).toNat i := by simp [State.storedBytes]
  refine ⟨P i, ?_, ?_⟩
  · rw [byte, List.getElem?_map, List.getElem?_range inside]
    rfl
  · rw [byte]
    exact reaches i inside

include usable at' in
theorem runStore_reaches : (do
    let c ← scalarCap s.strand a pSt
    let va ← memAddr s.strand c (opC a) size m
    s.storeBytes s va (bytesAt va size (s.strand.getX r).toNat) State.adv) = s.storeBytes s va (s.storedBytes r size va) State.adv := by
  rw [show pSt = 0x0002 from rfl, scalarCap_ok usable at'.1 at'.2.1, ok_bind, memAddr_of_opndAt (opC a) at', ok_bind, bytesAt_eq]
  rfl

include plain frame usable at'

/-- A scalar store whose bytes are translated is put into the queue once it has room. -/
theorem store_queued {P : Nat → Place} (some' : 0 < size) (posts : s.postsAt va size needW P) : exec i s =
    if s.roomMade.queueRoom then
      .next (s.roomMade.posts va (.data ((List.range size).map (s.storedCell r P))) (vasFrom va size))
    else .next s.roomMade.resident := by
  have nonempty : s.storedBytes r size va ≠ [] := by simp [State.storedBytes]; omega
  have ours := s.storedBytes_forall (r := r) (fun a => hostAddr a = false) fun q hq => (posts.1 q hq).1
  have hits := s.storedBytes_forall (r := r) (fun a => translated a = true → s.tlbHit (s.cur / 8) s.ten a = true) fun q hq => (posts.1 q hq).2
  have same := s.roomMade_sameRun
  have clear : stPP s.roomMade.strand.status = false := by rw [same.strand]; exact plain.2
  have queued : (s.roomMade.enqueued s.roomMade.cur s.ten va (.data ((List.range size).map (s.storedCell r P))) (vasFrom va size)).adv =
      s.roomMade.posts va (.data ((List.range size).map (s.storedCell r P))) (vasFrom va size) := by
    rw [← State.adv_enqueued clear, same.ten]
  have stored := (runStore_reaches usable at').trans (State.storeBytes_posted s State.adv nonempty ours hits
    (State.storePlaces_scalar (r := r) posts.2))
  rw [State.storedBytes_vas, State.enqueue_eq s va _ (PostOp.data_unbounded _), ← same.1] at stored
  split at stored
  · next room =>
    rw [if_pos room, frame, ← queued]
    exact State.run_ok plain (stored.trans (if_pos rfl))
  · next full =>
    rw [if_neg full, frame]
    exact State.run_ok plain (stored.trans (if_neg Bool.false_ne_true))

theorem store_misses {q : Nat} (hq : q < size) (ours : ∀ j, j < size → hostAddr ((va + j) % 2 ^ 56) = false)
    (before : ∀ j, j < q → translated ((va + j) % 2 ^ 56) = true → s.tlbHit (s.cur / 8) s.ten ((va + j) % 2 ^ 56) = true)
    (needs : translated ((va + q) % 2 ^ 56) = true) (miss : s.tlbHit (s.cur / 8) s.ten ((va + q) % 2 ^ 56) = false) :
    EndsWaiting i s .xlate 0 (BitVec.ofNat 64 ((va + q) % 2 ^ 56)) (.xlate ((va + q) % 2 ^ 56)) := by
  have first : ((s.storedBytes r size va).find? fun b => translated b.1 && !s.tlbHit (s.cur / 8) s.ten b.1) =
      some (storeByte va (s.strand.getX r).toNat q) := by
    have found : ((List.range size).find? ((fun b : Nat × Byte => translated b.1 && !s.tlbHit (s.cur / 8) s.ten b.1) ∘
        storeByte va (s.strand.getX r).toNat)) = some q := by
      refine List.find?_range_eq_some.2 ⟨?_, List.mem_range.2 hq, fun j hj => ?_⟩
      · simp only [Function.comp_apply, storeByte, needs, miss]
        rfl
      · simp only [Function.comp_apply, storeByte]
        cases h : translated ((va + j) % 2 ^ 56) with
        | false => rfl
        | true => rw [before j hj h]; rfl
    rw [State.storedBytes, List.find?_map, found]
    rfl
  refine endsWaiting_of_run plain frame ((runStore_reaches usable at').trans ?_)
  rw [State.storeBytes_misses s State.adv (s.storedBytes_forall (r := r) (fun a => hostAddr a = false) ours) first, storeByte_va]

theorem store_far (host : ∃ q, q < size ∧ hostAddr ((va + q) % 2 ^ 56) = true) :
    EndsFar i s va 0 0 0 (.store (s.storedBytes r size va)) := by
  have inside := s.storedBytes_exists (r := r) (fun a => hostAddr a = true) host
  refine endsFar_of_ended fun drained out b r' bookmark room => ?_
  obtain ⟨took, far⟩ := State.endFarFrom_of_drained s drained va 0 0 0 (.store (s.storedBytes r size va))
  obtain ⟨s', ends, ended⟩ := State.endFarTook_ended took plain.2 drained out bookmark room
  refine ⟨s', ?_, ended⟩
  have far_store := (runStore_reaches (r := r) usable at').trans (State.storeBytes_far s State.adv inside)
  rw [far, ends] at far_store
  rw [frame]
  exact State.run_ok plain far_store

end

/-- Settles O37: what the queue, the cluster TLB and the host window make of the bytes of a scalar store. -/
theorem scalarStores : Obligations.ScalarStores := by
  intro s r a imm x plain t c byte store
  have stores {i : Instr} {size : Nat} {m : MemOpnd} (some' : 0 < size) (frame : exec i s = s.runStore i size r a m) : store i size m := by
    intro va P usable at'
    refine ⟨fun room posts => ?_, fun full posts => ?_, fun q hq ours before needs miss => ?_, fun host => ?_⟩
    · have made : s.roomMade = s := if_pos room
      have queued := store_queued plain frame usable at' some' posts
      rw [made, if_pos room] at queued
      exact queued
    · have made : s.roomMade = (s.acceptAt s.cur 0).1 := if_neg full
      have queued := store_queued plain frame usable at' some' posts
      rw [made] at queued
      exact ⟨fun still => queued.trans (if_neg still), fun room => queued.trans (if_pos room)⟩
    · exact store_misses plain frame usable at' hq ours before needs miss
    · exact store_far plain frame usable at' host
  exact ⟨stores (by decide) rfl, stores (by decide) rfl, stores (by decide) rfl, stores (by decide) rfl, stores (by decide) rfl,
    stores (by decide) rfl, stores (by decide) rfl, stores (by decide) rfl⟩

end Sys2Proof.Machine
end

section
/-! Capability loads and stores (O38; 07 R223, R224). -/

namespace Sys2Proof.Machine

/-! ### The operand (R223) -/

section

variable {t : Strand} {a : CReg} {m : MemOpnd} {va : Nat} {p : BitVec 16}

theorem fmt_of_sizeOf_64 {f : Nat} (h : Machine.sizeOf f = 64) : f = 15 := by
  unfold Machine.sizeOf at h
  split_ifs at h <;> omega

/-- A usable operand that reaches 64 bytes passes the checks of CLC and CSC. -/
theorem granuleCap_ok (usable : t.usable a p) (at' : opndAt t (t.getC a).img 64 m va) : granuleCap t a m p = .ok (t.getC a).img := by
  obtain ⟨cnt, plainFmt, reach⟩ := at'
  have form := (Bool.and_eq_true ..).mpr ⟨fmt_le_of_usable usable, scalarForm_ok cnt plainFmt⟩
  cases m with
  | off imm =>
    obtain ⟨unit, -⟩ := reach
    rw [granuleCap, checkUnsealed_of_usable usable, ok_bind, need_ok _ _ ((Bool.and_eq_true ..).mpr ⟨form, beq_iff_eq.2 unit⟩), ok_bind,
      need_ok _ _ (grants_of_usable usable), ok_bind]
  | idx r =>
    obtain ⟨width, -⟩ := reach
    have cap : cFmt (t.getC a).img = fCap := fmt_of_sizeOf_64 width
    rw [granuleCap, checkUnsealed_of_usable usable, ok_bind]
    dsimp only
    rw [need_ok _ _ ((Bool.and_eq_true ..).mpr ⟨form, beq_iff_eq.2 cap⟩), ok_bind, need_ok _ _ (grants_of_usable usable), ok_bind]

variable {c : Vec}

theorem capAddr_ok (o : BitVec 5) (at' : opndAt t c 64 m va) (aligned : va % 64 = 0) : capAddr t c o m = .ok va := by
  rw [capAddr, memAddr_of_opndAt o at', ok_bind, need_ok _ _ (beq_iff_eq.2 aligned), ok_bind]

theorem capAddr_misaligned (o : BitVec 5) (at' : opndAt t c 64 m va) (off : va % 64 ≠ 0) :
    capAddr t c o m = .error { cause := cFormat, detail := capDetail o } := by
  rw [capAddr, memAddr_of_opndAt o at', ok_bind, need_error _ _ (mt beq_iff_eq.1 off), error_bind]

end

/-! ### CLC (R223) -/

/-- Without posted stores a strand's access finds none of its own before it. -/
theorem State.ownFirst_of_idle {s : State} {k : Nat} (fs : List Nat) (f : State → Raises State) (idle : (s.core k).posted = []) :
    s.ownFirst k fs f = f s := by
  have settled : s.settle k fs = s := by
    rw [State.settle, idle]
    rfl
  rw [State.ownFirst, settled, idle]
  rfl

/-- A near granule is read whole from memory. -/
theorem State.readGranule_of_nearAt {s : State} {va : Nat} {P : Nat → Place} (lt : va < 2 ^ 56) (near : s.nearAt va 64 P) :
    s.readGranule s.ten va (P 0) = .ok (s, BitVec.ofNat 512 (s.valueAt 64 P), s.tags.contains ((P 0).flat / 64)) := by
  have places : ((List.range 64).map fun i => ({ flat := (P 0).flat + i, home := (P 0).home } : Place)) = (List.range 64).map P :=
    List.map_congr_left fun q hq => (nearAt_after lt near (List.mem_range.1 hq) le_rfl).symm
  rw [State.readGranule]
  dsimp only
  rw [places, readPlaces_of_nearAt near, ok_bind]
  dsimp only
  rw [State.tagAt, home_of_nearAt near (by decide)]
  rfl

section

variable {s : State} {i : Instr} {d a : CReg} {m : MemOpnd} {va : Nat} (plain : s.plain) (frame : exec i s = s.runClc i d a m)
  (usable : s.strand.usable a 0x0001) (at' : opndAt s.strand (s.strand.getC a).img 64 m va)
include plain frame usable at'

theorem clc_misaligned (off : va % 64 ≠ 0) : Traps i s 0x14 (capDetail (opC a)) := by
  rw [Traps, frame]
  refine State.run_error plain ?_
  dsimp only
  rw [show pLd = 0x0001 from rfl, granuleCap_ok usable at', ok_bind, capAddr_misaligned _ at' off, error_bind]
  rfl

theorem clc_near (aligned : va % 64 = 0) {P : Nat → Place} (near : s.nearAt va 64 P) (idle : (s.core s.cur).posted = [])
    (calm : (s.tenant s.ten).sweepPending = false) :
    Completes i s (s.strand.setC d { img := BitVec.ofNat 512 (s.valueAt 64 P)
                                     tag := s.tags.contains ((P 0).flat / 64) && (cPrm (s.strand.getC a).img).getLsbD 2 }) := by
  have lt := opndAt_lt at'
  have ldc : grants (s.strand.getC a).img pLdc = (cPrm (s.strand.getC a).img).getLsbD 2 := grants_twoPow _ (b := 2) (by decide)
  have unchecked (tag : Bool) (img : Vec) : s.checkMiss s.ten tag img = none := by rw [State.checkMiss, calm, Bool.and_false]; rfl
  have sound (tag : Bool) (img : Vec) : s.checkFails s.ten tag img = false := by rw [State.checkFails, calm, Bool.and_false]; rfl
  have unmarked (img : Vec) : s.revoked s.ten img = false := by rw [State.revoked, calm]; rfl
  rw [Completes, frame]
  refine State.run_ok plain ?_
  dsimp only
  rw [show pLd = 0x0001 from rfl, granuleCap_ok usable at', ok_bind, capAddr_ok _ at' aligned, ok_bind, reachOf_of_nearAt lt near (by decide)]
  dsimp only
  rw [(nearAt_zero lt near (by decide)).2, ok_bind, State.ownFirst_of_idle _ _ idle, State.readGranule_of_nearAt lt near, ok_bind]
  dsimp only
  rw [unchecked]
  dsimp only
  rw [sound, Bool.not_false, need_true, ok_bind, State.clcImage, unmarked, Bool.not_false, Bool.and_true, ldc]
  exact congrArg Except.ok (State.past_eq_next (Strand.setC_pc ..) plain.2).symm

theorem clc_far (aligned : va % 64 = 0) (away : nearAddr s.cur va = false) :
    EndsFar i s va 1 d.toNat (saveC d) (.capLoad ((cPrm (s.strand.getC a).img).getLsbD 2)) := by
  have ldc : grants (s.strand.getC a).img pLdc = (cPrm (s.strand.getC a).img).getLsbD 2 := grants_twoPow _ (b := 2) (by decide)
  refine endsFar_of_run 0 plain frame ?_
  dsimp only
  rw [show pLd = 0x0001 from rfl, granuleCap_ok usable at', ok_bind, capAddr_ok _ at' aligned, ok_bind, ldc]
  obtain reach | reach := reachOf_of_not_near 64 away <;>
  · rw [reach]

end

/-! ### CSC (R224) -/

theorem reachOf_of_host {k va : Nat} (n : Nat) (lt : va < 2 ^ 56) (host : hostAddr va = true) : reachOf k va n = .host := by
  have away : nearAddr k va = false := Bool.eq_false_iff.2 fun near => by
    rw [not_hostAddr_of_near lt near] at host
    cases host
  rw [reachOf, away, host]
  rfl

section

variable {s : State} {va n : Nat} {need : Need} {P : Nat → Place} (lt : va < 2 ^ 56) (some' : 0 < n) (posts : s.postsAt va n need P)
include lt some' posts

theorem reachOf_of_postsAt (k : Nat) : reachOf k va n = .near ∨ reachOf k va n = .far := by
  have first := (posts.1 0 some').1
  rw [Nat.add_zero, Nat.mod_eq_of_lt lt] at first
  rw [reachOf, first, (posts.1 (n - 1) (by omega)).1]
  split
  · exact .inl rfl
  · exact .inr rfl

theorem held2_of_postsAt : s.held2 s.ten va n = true := by
  have first := (posts.1 0 some').2
  have last := (posts.1 (n - 1) (by omega)).2
  rw [Nat.add_zero, Nat.mod_eq_of_lt lt] at first
  have holds {x : Nat} (h : translated x = true → s.tlbHit (s.cur / 8) s.ten x = true) :
      (!translated x || s.tlbHit (s.cur / 8) s.ten x) = true := by
    cases hx : translated x with
    | false => rfl
    | true => rw [h hx]; rfl
  exact (Bool.and_eq_true ..).mpr ⟨holds first, holds last⟩

end

section

variable {s : State} {i : Instr} {r a : CReg} {m : MemOpnd} {va : Nat} (plain : s.plain) (frame : exec i s = s.runCsc i r a m)
  (usable : s.strand.usable a 0x0002) (at' : opndAt s.strand (s.strand.getC a).img 64 m va) (aligned : va % 64 = 0)

theorem stc_iff (c : CapReg) (img : Vec) : (!c.tag || grants img pStc) = true ↔ (c.tag = true → (cPrm img).getLsbD 3 = true) := by
  rw [show grants img pStc = (cPrm img).getLsbD 3 from grants_twoPow _ (b := 3) (by decide), Bool.or_eq_true,
    Bool.not_eq_true', ← Bool.not_eq_true, or_iff_not_imp_left, not_not]

theorem stlocal_iff (c : CapReg) (img : Vec) : (!(c.tag && cScp c.img == 0) || grants img pStlocal) = true ↔
    (c.tag = true → cScp c.img = 0 → (cPrm img).getLsbD 12 = true) := by
  rw [show grants img pStlocal = (cPrm img).getLsbD 12 from grants_twoPow _ (b := 12) (by decide), Bool.or_eq_true,
    Bool.not_eq_true', ← Bool.not_eq_true, Bool.and_eq_true, beq_iff_eq, or_iff_not_imp_left, not_not, and_imp]

include plain frame usable at' aligned

theorem csc_ungranted (tag : (s.strand.getC r).tag = true) (stc : (cPrm (s.strand.getC a).img).getLsbD 3 = false) :
    Traps i s 0x12 (capDetail (opC a)) := by
  have no : ¬ (!(s.strand.getC r).tag || grants (s.strand.getC a).img pStc) = true := fun h => by
    rw [(stc_iff ..).1 h tag] at stc
    cases stc
  rw [Traps, frame]
  refine State.run_error plain ?_
  dsimp only
  rw [show pSt = 0x0002 from rfl, granuleCap_ok usable at', ok_bind, capAddr_ok _ at' aligned, ok_bind, need_error _ _ no, error_bind]
  rfl

theorem csc_local (tag : (s.strand.getC r).tag = true) (stc : (cPrm (s.strand.getC a).img).getLsbD 3 = true)
    (scope : cScp (s.strand.getC r).img = 0) (stlocal : (cPrm (s.strand.getC a).img).getLsbD 12 = false) :
    Traps i s 0x16 (capDetail (opC a)) := by
  have no : ¬ (!((s.strand.getC r).tag && cScp (s.strand.getC r).img == 0) || grants (s.strand.getC a).img pStlocal) = true := fun h => by
    rw [(stlocal_iff ..).1 h tag scope] at stlocal
    cases stlocal
  rw [Traps, frame]
  refine State.run_error plain ?_
  dsimp only
  rw [show pSt = 0x0002 from rfl, granuleCap_ok usable at', ok_bind, capAddr_ok _ at' aligned, ok_bind,
    need_ok _ _ ((stc_iff ..).2 fun _ => stc), ok_bind, need_error _ _ no, error_bind]
  rfl

variable (may : (s.strand.getC r).tag = true → (cPrm (s.strand.getC a).img).getLsbD 3 = true ∧
  (cScp (s.strand.getC r).img = 0 → (cPrm (s.strand.getC a).img).getLsbD 12 = true))
include may

theorem csc_posts {P : Nat → Place} (posts : s.postsAt va 64 needW P) (room : s.queueRoom) :
    Posts i s va (.cap (P 0) (s.strand.getC r).img (s.strand.getC r).tag) := by
  have lt := opndAt_lt at'
  have place := posts.2 0 (by decide)
  rw [Nat.add_zero, Nat.mod_eq_of_lt lt] at place
  have queued := State.enqueue_of_room (s := s) va [va] (op := .cap (P 0) (s.strand.getC r).img (s.strand.getC r).tag)
    (fun _ _ _ h => by cases h) room
  rw [Posts, frame]
  refine State.run_ok plain ?_
  dsimp only
  rw [show pSt = 0x0002 from rfl, granuleCap_ok usable at', ok_bind, capAddr_ok _ at' aligned, ok_bind,
    need_ok _ _ ((stc_iff ..).2 fun tag => (may tag).1), ok_bind, need_ok _ _ ((stlocal_iff ..).2 fun tag => (may tag).2), ok_bind]
  have posted : s.postThen s.ten va (.cap (P 0) (s.strand.getC r).img (s.strand.getC r).tag) State.adv =
      .ok (s.posts va (.cap (P 0) (s.strand.getC r).img (s.strand.getC r).tag)) := by
    rw [State.postThen, queued]
    dsimp only
    rw [if_pos rfl, State.adv_enqueued plain.2]
  obtain reach | reach := reachOf_of_postsAt lt (by decide) posts s.cur <;>
  · rw [reach]
    dsimp only
    rw [if_pos (held2_of_postsAt lt (by decide) posts), place, ok_bind, posted]

theorem csc_far (host : hostAddr va = true) : EndsFar i s va 0 0 0 (.capStore (s.strand.getC r).img) := by
  refine endsFar_of_run 0 plain frame ?_
  dsimp only
  rw [show pSt = 0x0002 from rfl, granuleCap_ok usable at', ok_bind, capAddr_ok _ at' aligned, ok_bind,
    need_ok _ _ ((stc_iff ..).2 fun tag => (may tag).1), ok_bind, need_ok _ _ ((stlocal_iff ..).2 fun tag => (may tag).2), ok_bind,
    reachOf_of_host 64 (opndAt_lt at') host]

end

/-- Settles O38: a granule is loaded with the tag that LDC lets through, and stored where STC and STLOCAL allow it. -/
theorem capabilityLoadsAndStores : Obligations.CapabilityLoadsAndStores := by
  intro s d a imm x plain t c v load store
  have loads {i : Instr} {m : MemOpnd} (frame : exec i s = s.runClc i d a m) : load i m := fun va P usable at' =>
    ⟨fun off => clc_misaligned plain frame usable at' off,
      fun aligned near idle calm => clc_near plain frame usable at' aligned near idle calm,
      fun aligned away => clc_far plain frame usable at' aligned away⟩
  have stores {i : Instr} {m : MemOpnd} (frame : exec i s = s.runCsc i d a m) : store i m := fun va P usable at' aligned =>
    ⟨fun tag stc => csc_ungranted plain frame usable at' aligned tag stc,
      fun tag stc scope stlocal => csc_local plain frame usable at' aligned tag stc scope stlocal,
      fun may => ⟨fun posts room => csc_posts plain frame usable at' aligned may posts room,
        fun host => csc_far plain frame usable at' aligned may host⟩⟩
  exact ⟨loads rfl, loads rfl, stores rfl, stores rfl⟩

end Sys2Proof.Machine
end

section
/-! What a vector load or store reaches (07 R225, R226), where no vector register is bound. -/

namespace Sys2Proof.Machine

/-! ### The executing core written as it is -/

/-- The state after an instruction has consumed no strip: the executing core is written as it was. -/
def State.rewritten (s : State) : State := s.setCore s.cur (s.core s.cur)

section

variable (s : State)

theorem State.core_rewritten (k : Nat) : s.rewritten.core k = s.core k := by
  unfold State.rewritten
  by_cases h : k = s.cur
  · rw [h, State.core_setCore_self]
  · rw [State.core_setCore_ne _ _ h]

theorem State.cur_rewritten : s.rewritten.cur = s.cur := rfl

theorem State.strand_rewritten : s.rewritten.strand = s.strand := by
  rw [State.strand, State.core_rewritten]
  rfl

theorem State.ten_rewritten : s.rewritten.ten = s.ten := congrArg Strand.tenant s.strand_rewritten

theorem State.gen_rewritten (t : Nat) : s.rewritten.gen t = s.gen t := rfl

theorem State.partOf_rewritten (t k : Nat) : s.rewritten.partOf t k = s.partOf t k :=
  State.partOf_congr (s.gen_rewritten t) (by rw [State.core_rewritten]) (by rw [State.core_rewritten]) (by rw [State.core_rewritten])

theorem State.roomFor_rewritten (cluster t n : Nat) : s.rewritten.roomFor cluster t n = s.roomFor cluster t n := by
  have reserve : s.rewritten.reserveSlots t = s.reserveSlots t := State.reserveSlots_congr rfl fun k => s.partOf_rewritten t k
  unfold State.roomFor State.closedFits State.closedCap
  rw [reserve]
  rfl

theorem State.setCore_rewritten (c : Core) : s.rewritten.setCore s.cur c = s.setCore s.cur c := State.setCore_setCore ..

theorem State.drained_rewritten {s : State} (drained : s.drained) : s.rewritten.drained := by
  unfold State.drained
  rw [State.cur_rewritten, State.core_rewritten]
  exact drained

/-- Near bytes are found alike. -/
theorem State.placeOf_rewritten {va : Nat} (near : nearWindow va) (t : Nat) (n : Need) (ctr : Bool) (acc : Nat) :
    s.rewritten.placeOf t va n ctr acc = s.placeOf t va n ctr acc := by
  obtain ⟨k, o, w | w⟩ := near
  · unfold State.placeOf
    rw [w]
    dsimp only
    rw [State.partOf_rewritten, State.core_rewritten]
  · unfold State.placeOf
    rw [w]
    rfl

theorem State.nearAt_rewritten {s : State} {va n : Nat} {P : Nat → Place} (near : s.nearAt va n P) : s.rewritten.nearAt va n P := by
  refine ⟨near.1, fun q hq => ?_⟩
  rw [State.ten_rewritten, State.placeOf_rewritten s (nearWindow_of_nearAddr (Nat.mod_lt _ (by decide)) (near.1 q hq).1)]
  exact near.2 q hq

/-- The executing core with an entry put last into its queue and its strand moved on. -/
def Core.posting (c : Core) (e : Posted) : Core := { c with posted := c.posted ++ [e], strand := { c.strand with pc := c.strand.pc + 4 } }

theorem State.posts_eq (va : Nat) (op : PostOp) (vas : List Nat) : s.posts va op vas =
    { s.setCore s.cur ((s.core s.cur).posting { no := s.nextId, va, vas, op, tenant := s.ten, gen := s.gen s.ten }) with
      nextId := s.nextId + 1 } := rfl

/-- An entry posted and the strand moved on, from the state written as it was. -/
theorem State.posts_rewritten (va : Nat) (op : PostOp) (vas : List Nat) : s.rewritten.posts va op vas = s.posts va op vas := by
  rw [State.posts_eq, State.posts_eq, State.cur_rewritten, State.core_rewritten, State.ten_rewritten, State.gen_rewritten,
    State.setCore_rewritten]
  rfl

/-- What ends the strand from the state written as it was ends it from the state itself. -/
theorem State.ended_of_rewritten {s s' : State} {b : Bookmark} {holder : Holder} (h : s.rewritten.Ended b holder s') : s.Ended b holder s' := by
  obtain ⟨mode, strand, mem, tags, others, held⟩ := h
  exact ⟨mode, strand, mem, tags, fun j hj => (others j hj).trans (s.core_rewritten j), held⟩

theorem State.farBookmark_rewritten (va : Nat) (space : BitVec 2) (index : Nat) (dest : BitVec 48) :
    s.rewritten.farBookmark va space index dest = s.farBookmark va space index dest := by
  rw [State.farBookmark, State.strand_rewritten]
  rfl

end

/-- A far access of an instruction that has consumed no strip. -/
theorem State.endFarFrom_ended {s : State} {va : Nat} {space : BitVec 2} {index : Nat} {dest : BitVec 48} {op : FarOp} {b : Bookmark} {r : Room}
    (clear : stPP s.strand.status = false) (drained : s.drained) (out : (s.core s.cur).inPhase = false)
    (bookmark : s.farBookmark va space index dest = b) (room : s.roomFor (s.cur / 8) s.strand.tenant b.slots = some r) :
    ∃ s', s.endFarFrom s.rewritten va space index dest op = .ok s' ∧ s.Ended b (.far va op) s' := by
  obtain ⟨took, far⟩ := State.endFarFrom_of_drained s.rewritten drained va space index dest op
  obtain ⟨s', ends, ended⟩ := State.endFarTook_ended (s := s.rewritten) (op := op) took (by rw [State.strand_rewritten]; exact clear)
    (State.drained_rewritten drained) (by rw [State.core_rewritten]; exact out) ((s.farBookmark_rewritten ..).trans bookmark)
    (by rw [State.roomFor_rewritten, State.strand_rewritten]; exact room)
  exact ⟨s', far.trans ends, State.ended_of_rewritten ended⟩

end Sys2Proof.Machine
end

section
/-! Vector loads (O39; 07 R225, R226). -/

namespace Sys2Proof.Machine

/-! ### The checks and the lanes of a vector access (R225) -/

section

variable {t : Strand} {a : CReg} {p : BitVec 16} {kind : VmKind} {ew : Ew} {pg : PReg} (usable : t.usable a p)
include usable

/-- A usable operand whose elements have the access's width passes its checks. -/
theorem vmCap_lanes (width : Machine.sizeOf (cFmt (t.getC a).img) * 8 = ewBits ew) (cnt : cFmt (t.getC a).img ≠ 14)
    (plainFmt : ¬ (cFmt (t.getC a).img = 11 ∨ cFmt (t.getC a).img = 12 ∨ cFmt (t.getC a).img = 13)) :
    vmCap t a kind ew pg p = .ok (t.getC a).img := by
  have form : vmForm (t.getC a).img kind ew pg = true := by
    rw [vmForm, fmt_le_of_usable usable, not_isGroup plainFmt, bne_iff_ne.2 (show cFmt (t.getC a).img ≠ fCnt from cnt), Nat.mul_comm, width]
    exact beq_self_eq_true _
  rw [vmCap, checkUnsealed_of_usable usable, ok_bind, need_ok _ _ form, ok_bind, need_ok _ _ (grants_of_usable usable), ok_bind]

theorem vmForm_group (group : isGroup (cFmt (t.getC a).img) = true) :
    vmForm (t.getC a).img .linear ew pg = true ↔ ew = .z8 ∧ pg = 0 := by
  have cnt : cFmt (t.getC a).img ≠ fCnt := fun cnt => by
    rw [cnt] at group
    exact absurd group (by decide)
  rw [vmForm, fmt_le_of_usable usable, group, bne_iff_ne.2 cnt]
  simp

/-- A usable operand of a group-scaled format passes the checks of VLD.Z8 and VST.Z8 without a predicate. -/
theorem vmCap_groups (group : isGroup (cFmt (t.getC a).img) = true) (shape : ew = .z8 ∧ pg = 0) :
    vmCap t a .linear ew pg p = .ok (t.getC a).img := by
  rw [vmCap, checkUnsealed_of_usable usable, ok_bind, need_ok _ _ ((vmForm_group usable group).2 shape), ok_bind,
    need_ok _ _ (grants_of_usable usable), ok_bind]

theorem vmCap_refused (group : isGroup (cFmt (t.getC a).img) = true) (other : ¬ (ew = .z8 ∧ pg = 0)) :
    vmCap t a .linear ew pg p = .error { cause := cFormat, detail := capDetail (opC a) } := by
  rw [vmCap, checkUnsealed_of_usable usable, ok_bind, need_error _ _ (mt (vmForm_group usable group).1 other), error_bind]

end

/-- Units j of an access, each with its address. -/
def unitsAt (l : List Nat) (va : Nat → Nat) : List (Nat × Nat) := l.map fun j => (j, va j)

/-- The lanes that an access governs with bits of g each, of n. -/
def governedLanes (t : Strand) (pg : PReg) (g n : Nat) : List Nat := (List.range n).filter (laneActive t pg g)

theorem mem_governedLanes (t : Strand) (pg : PReg) (g n j : Nat) :
    j ∈ governedLanes t pg g n ↔ j < n ∧ (pg = 0 ∨ (t.getP pg).getLsbD (g / 8 * j) = true) := by
  rw [governedLanes, List.mem_filter, List.mem_range, laneActive_iff]

section

variable {t : Strand} {c : Vec} {o : BitVec 5} {kind : VmKind} {ew : Ew} {m : VmIdx} {pg : PReg}

/-- The access of lanes that all lie inside the shape. -/
theorem vmAccess_lanes {n g : Nat} {va : Nat → Nat} (lanes : lanesOf kind ew = { n, gov := g, w := ewBits ew })
    (width : Machine.sizeOf (cFmt c) * 8 = ewBits ew) (plainFmt : ¬ (cFmt c = 11 ∨ cFmt c = 12 ∨ cFmt c = 13))
    (reach : ∀ j ∈ governedLanes t pg g n, laneAddr c o kind (m.at t { n, gov := g, w := ewBits ew } j) j = .ok (va j)) :
    vmAccess t c o kind ew m pg =
      .ok { units := unitsAt (governedLanes t pg g n) va, size := ewBits ew / 8, n, merge := true } := by
  have units : vmLanes t c o kind { n, gov := g, w := ewBits ew } m pg = .ok (unitsAt (governedLanes t pg g n) va) := by
    rw [vmLanes]
    refine mapM_ok fun j hj => ?_
    rw [reach j hj, ok_bind]
  rw [vmAccess, not_isGroup plainFmt, if_neg Bool.false_ne_true, lanes]
  dsimp only
  rw [need_ok _ _ (beq_iff_eq.2 ((Nat.mul_comm ..).trans width)), ok_bind, units, ok_bind]

/-- The address of a group from the index x on. -/
def groupAt (c : Vec) (x j : Nat) : Nat := elemAddr c (decompose c (x + 32 * j))

/-- The groups that one access moves: 5 of 12 bytes, or 4 of 16 (R226). -/
def groupCount (c : Vec) : Nat := if cFmt c = 12 then 5 else 4

/-- The groups from x on, of those that one access moves, that begin inside the shape. -/
def groupsInside (c : Vec) (x : Nat) : List Nat := (List.range (groupCount c)).filter fun j => decide (x + 32 * j < cCount c)

section

variable (r : XReg) (group : isGroup (cFmt c) = true)
include group

theorem vmAccess_groups (shape : ew = .z8 ∧ pg = 0) (whole : (t.getX r).toNat % 32 = 0) (inside : (t.getX r).toNat < cCount c) :
    vmAccess t c o .linear ew (.x r) pg =
      .ok { units := unitsAt (groupsInside c (t.getX r).toNat) (groupAt c (t.getX r).toNat), size := groupBytes (cFmt c)
            n := groupCount c, merge := false } := by
  have form : (VmKind.linear == .linear && ew == .z8 && pg == 0 && (t.getX r).toNat % 32 == 0) = true := by
    rw [shape.1, shape.2, whole]
    rfl
  rw [vmAccess, if_pos group, vmGroups, VmIdx.at]
  dsimp only
  rw [need_ok _ _ form, ok_bind, need_ok _ _ (decide_eq_true inside), ok_bind, ok_bind]
  rfl

theorem vmAccess_unaligned (part : (t.getX r).toNat % 32 ≠ 0) :
    vmAccess t c o .linear ew (.x r) pg = .error { cause := cFormat, detail := capDetail o } := by
  have no : ¬ (VmKind.linear == .linear && ew == .z8 && pg == 0 && (t.getX r).toNat % 32 == 0) = true := by
    rw [Bool.and_eq_true, beq_iff_eq]
    exact fun h => part h.2
  rw [vmAccess, if_pos group, vmGroups, VmIdx.at]
  dsimp only
  rw [need_error _ _ no, error_bind, error_bind]

theorem vmAccess_beyond (shape : ew = .z8 ∧ pg = 0) (whole : (t.getX r).toNat % 32 = 0) (beyond : cCount c ≤ (t.getX r).toNat) :
    vmAccess t c o .linear ew (.x r) pg =
      .error { cause := cBounds, detail := capDetail o 0 (BitVec.ofNat 48 (t.getX r).toNat) } := by
  have form : (VmKind.linear == .linear && ew == .z8 && pg == 0 && (t.getX r).toNat % 32 == 0) = true := by
    rw [shape.1, shape.2, whole]
    rfl
  rw [vmAccess, if_pos group, vmGroups, VmIdx.at]
  dsimp only
  rw [need_ok _ _ form, ok_bind, need_error _ _ (by rw [decide_eq_true_iff]; omega), error_bind, error_bind]

end

end

/-! ### Lane addresses by kind (07 Table 3) -/

section

variable (t : Strand) (c : Vec) (o : BitVec 5) (ew : Ew) (j : Nat)

theorem laneAddr_linear (x : Nat) (inside : x + j < cCount c) : laneAddr c o .linear x j = .ok (elemAddr c (decompose c (x + j))) :=
  if_pos inside

theorem laneAddr_axis (k x : Nat) (inside : x < cCount c) (shape : inShape c (stepIdx (decompose c x) k j) = true) :
    laneAddr c o (.axis k) x j = .ok (elemAddr c (stepIdx (decompose c x) k j)) :=
  (if_pos inside).trans (if_pos shape)

theorem laneAddr_gather (x : Nat) (inside : x < cCount c) : laneAddr c o .gather x j = .ok (elemAddr c (decompose c x)) := if_pos inside

/-- The 32-bit lane index of a gather or scatter. -/
def gatherLane (y : VReg) : Nat := if ewBits ew = 64 then elemAt 64 (t.getV y) j % 2 ^ 32 else elemAt 32 (t.getV y) j

theorem lanesOf_gather : lanesOf .gather ew =
    { n := if ewBits ew = 64 then 8 else 16, gov := if ewBits ew = 64 then 64 else 32, w := ewBits ew } := by
  cases ew <;> rfl

theorem gatherLane_eq (y : VReg) (n : Nat) :
    (VmIdx.v y).at t { n, gov := if ewBits ew = 64 then 64 else 32, w := ewBits ew } j = gatherLane t ew j y := by
  rw [VmIdx.at, gatherLane]
  dsimp only
  split
  · rfl
  · exact Nat.mod_eq_of_lt (elemAt_lt ..)

end

/-! ### Near loads -/

theorem valueAt_lt (s : State) (n : Nat) (P : Nat → Place) : s.valueAt n P < 256 ^ n := by
  have lt := bytesNat_lt ((List.range n).map fun q => memGet s.mem (P q).flat)
  rwa [List.length_map, List.length_range] at lt

/-- Near units read in order, where nothing is posted. -/
theorem readUnits_near {s : State} {size : Nat} {va : Nat → Nat} {P : Nat → Nat → Place} (some' : 0 < size) (small : size ≤ 64)
    (idle : (s.core s.cur).posted = []) {l : List Nat} (lt : ∀ j ∈ l, va j < 2 ^ 56) (near : ∀ j ∈ l, s.nearAt (va j) size (P j)) :
    s.readUnits size (unitsAt l va) = .ok (s, l.map fun j => (j, s.valueAt size (P j))) := by
  induction l with
  | nil => rfl
  | cons j l ih =>
    have here := near j List.mem_cons_self
    have read := State.readOwn_of_idle s.cur idle (by simp) (readPlaces_of_nearAt here s.ten (va j))
    have rest := ih (fun k hk => lt k (List.mem_cons_of_mem _ hk)) fun k hk => near k (List.mem_cons_of_mem _ hk)
    rw [unitsAt] at rest
    rw [unitsAt, List.map_cons, State.readUnits, placesOf_of_nearAt (lt j List.mem_cons_self) here some' small, ok_bind, read, ok_bind]
    dsimp only
    rw [rest, ok_bind]
    rfl

/-- Whether an access of n bytes at va is near. -/
def nearUnit (k va n : Nat) : Bool := nearAddr k va && nearAddr k ((va + (n - 1)) % 2 ^ 56)

theorem reachOf_ne_near (k va n : Nat) : (reachOf k va n != .near) = !nearUnit k va n := by
  rw [reachOf, nearUnit]
  split
  · next near => rw [near]; rfl
  · next away =>
    rw [Bool.eq_false_iff.2 away]
    split <;> rfl

theorem nearUnit_of_nearAt {s : State} {va n : Nat} {P : Nat → Place} (lt : va < 2 ^ 56) (some' : 0 < n) (near : s.nearAt va n P) :
    nearUnit s.cur va n = true :=
  (Bool.and_eq_true ..).mpr ⟨(nearAt_zero lt near some').1, (near.1 (n - 1) (by omega)).1⟩

/-- The unit found for a number among units that each have one. -/
theorem find?_units {α : Type} (l : List Nat) (f : Nat → α) (i : Nat) :
    (l.map fun j => (j, f j)).find? (fun g => g.1 == i) = if i ∈ l then some (i, f i) else none := by
  induction l with
  | nil => rfl
  | cons j l ih =>
    rw [List.map_cons, List.find?_cons]
    by_cases here : j = i
    · subst here
      rw [beq_self_eq_true, if_pos List.mem_cons_self]
    · rw [beq_false_of_ne here, ih]
      exact if_congr (by rw [List.mem_cons, or_iff_right fun h => here h.symm]) rfl rfl

section

variable (old : Vec) {l : List Nat} {f : Nat → Nat} {size n : Nat} {units : List (Nat × Nat)} {merge : Bool}

/-- The elements after a load: what was read, and of the others what they were, or zero. -/
theorem elemAt_result (fits : 8 * size * n ≤ 512) (bound : ∀ j ∈ l, f j < 256 ^ size) {i : Nat} (hi : i < n) :
    elemAt (8 * size) (VmAccess.result { units, size, n, merge } old (l.map fun j => (j, f j))) i =
      if i ∈ l then f i else if merge then elemAt (8 * size) old i else 0 := by
  have power : (2 : Nat) ^ (8 * size) = 256 ^ size := by rw [Nat.pow_mul]
  rw [VmAccess.result, elemAt_ofElems (by simpa using fits) i (by simpa using hi), List.getElem_map, List.getElem_range, find?_units]
  split
  · next hit =>
    split at hit
    · next inside =>
      injection hit with hit
      rw [if_pos inside, ← hit, power]
      exact Nat.mod_eq_of_lt (bound i inside)
    · cases hit
  · next miss =>
    split at miss
    · cases miss
    · next outside =>
      rw [if_neg outside]
      split
      · exact Nat.mod_eq_of_lt (elemAt_lt ..)
      · exact Nat.zero_mod _

theorem result_above (got : List (Nat × Nat)) (fits : 8 * size * n ≤ 512) {q : Nat} (above : n * (8 * size) ≤ q) :
    (VmAccess.result { units, size, n, merge } old got).getLsbD q = false := by
  rw [VmAccess.result]
  refine ofElems_above (by simpa using fits) q ?_
  rw [List.length_map, List.length_range, Nat.mul_comm]
  exact above

end

section

variable {s : State} {i : Instr} {kind : VmKind} {ew : Ew} {d : VReg} {a : CReg} {m : VmIdx} {pg : PReg} (plain : s.plain)
  (unbound : s.unbound) (frame : exec i s = s.runVld i kind ew d a m pg)

theorem State.withSources_rewritten {s : State} (unbound : s.unbound) (srcs : List VReg) (f : State → State → Strand → Raises State) :
    s.withSources srcs f = f s s.rewritten s.strand := State.withSources_of_unbound unbound srcs f

include plain unbound frame

theorem vld_traps {x : Trap} (h : (vmCap s.strand a kind ew pg pLd >>= fun c => vmAccess s.strand c (opC a) kind ew m pg) = .error x) :
    exec i s = .next (s.takeTrap x) := by
  have free : (s.strand.boundOf d).isNone = true := by rw [State.boundOf_of_unbound unbound]; rfl
  rw [frame]
  refine State.runAny_error plain.1 ?_
  rw [need_ok _ _ free, ok_bind, plain.2, Bool.not_false, need_true, ok_bind, State.withSources_rewritten unbound]
  cases cap : vmCap s.strand a kind ew pg pLd with
  | error y =>
    rw [cap, error_bind] at h
    rw [error_bind]
    exact congrArg _ (Except.error.inj h)
  | ok c =>
    rw [cap, ok_bind] at h
    rw [ok_bind, h, error_bind]

variable {c : Vec} (cap : vmCap s.strand a kind ew pg pLd = .ok c) {l : List Nat} {va : Nat → Nat} {size n : Nat} {merge : Bool}
  (access : vmAccess s.strand c (opC a) kind ew m pg = .ok { units := unitsAt l va, size, n, merge })
include cap access

theorem vld_near {P : Nat → Nat → Place} (some' : 0 < size) (small : size ≤ 64) (lt : ∀ j ∈ l, va j < 2 ^ 56)
    (idle : (s.core s.cur).posted = []) (near : ∀ j ∈ l, s.nearAt (va j) size (P j)) :
    Completes i s (s.strand.setV d (VmAccess.result { units := unitsAt l va, size, n, merge } (s.strand.getV d)
      (l.map fun j => (j, s.valueAt size (P j))))) := by
  have free : (s.strand.boundOf d).isNone = true := by rw [State.boundOf_of_unbound unbound]; rfl
  have allNear : (unitsAt l va).find? (fun u => reachOf s.cur u.2 size != .near) = none := by
    refine List.find?_eq_none.2 fun u hu => ?_
    obtain ⟨j, hj, rfl⟩ := List.mem_map.1 hu
    rw [reachOf_ne_near, nearUnit_of_nearAt (lt j hj) some' (near j hj)]
    exact Bool.false_ne_true
  have idle' : (s.rewritten.core s.rewritten.cur).posted = [] := by rw [State.cur_rewritten, State.core_rewritten]; exact idle
  have read := readUnits_near some' small idle' lt fun j hj => State.nearAt_rewritten (near j hj)
  rw [Completes, frame]
  refine State.runAny_ok plain.1 ?_
  rw [need_ok _ _ free, ok_bind, plain.2, Bool.not_false, need_true, ok_bind, State.withSources_rewritten unbound, cap, ok_bind, access,
    ok_bind]
  dsimp only
  rw [allNear]
  dsimp only
  rw [State.atomsFirst_of_idle _ _ _ idle, read, ok_bind]
  dsimp only
  rw [State.past_eq_next (by simp) (by simpa using plain.2)]
  exact congrArg Except.ok (State.setStrand_rewritten s fun t => (t.setV d _).next)

theorem vld_far {j : Nat} (first : (l.find? fun j => !nearUnit s.cur (va j) size) = some j) :
    EndsFar i s (va j) 2 d.toNat (saveV d) (.vecLoad size n merge (unitsAt l va)) := by
  have free : (s.strand.boundOf d).isNone = true := by rw [State.boundOf_of_unbound unbound]; rfl
  have away : (unitsAt l va).find? (fun u => reachOf s.cur u.2 size != .near) = some (j, va j) := by
    rw [unitsAt, List.find?_map]
    simp only [Function.comp_def, reachOf_ne_near]
    rw [first]
    rfl
  refine endsFar_of_ended fun drained out b r bookmark room => ?_
  obtain ⟨s', ends, ended⟩ := State.endFarFrom_ended (op := .vecLoad size n merge (unitsAt l va)) plain.2 drained out bookmark room
  refine ⟨s', ?_, ended⟩
  rw [frame]
  refine State.runAny_ok plain.1 ?_
  rw [need_ok _ _ free, ok_bind, plain.2, Bool.not_false, need_true, ok_bind, State.withSources_rewritten unbound, cap, ok_bind, access,
    ok_bind]
  dsimp only
  rw [away]
  exact ends

end

/-! ### Loads of lanes and of groups -/

theorem ewBytes (ew : Ew) : 8 * (ewBits ew / 8) = ewBits ew ∧ 0 < ewBits ew / 8 ∧ ewBits ew / 8 ≤ 64 := by
  cases ew <;> decide

theorem lanesOf_fits (kind : VmKind) (ew : Ew) : (lanesOf kind ew).n * ewBits ew ≤ 512 := by
  cases kind with
  | gather => cases ew <;> decide
  | linear => exact Nat.div_mul_le_self ..
  | axis k => exact Nat.div_mul_le_self ..

section

variable {s : State} {i : Instr} {kind : VmKind} {ew : Ew} {d : VReg} {a : CReg} {m : VmIdx} {pg : PReg} (plain : s.plain)
  (unbound : s.unbound) (frame : exec i s = s.runVld i kind ew d a m pg) (usable : s.strand.usable a 0x0001)
  (width : Machine.sizeOf (cFmt (s.strand.getC a).img) * 8 = ewBits ew) (cnt : cFmt (s.strand.getC a).img ≠ 14)
  (plainFmt : ¬ (cFmt (s.strand.getC a).img = 11 ∨ cFmt (s.strand.getC a).img = 12 ∨ cFmt (s.strand.getC a).img = 13))
  {n g : Nat} {idx : Nat → Idx} (lanes : lanesOf kind ew = { n, gov := g, w := ewBits ew })
  (reach : ∀ j ∈ governedLanes s.strand pg g n, laneAddr (s.strand.getC a).img (opC a) kind
    (m.at s.strand { n, gov := g, w := ewBits ew } j) j = .ok (elemAddr (s.strand.getC a).img (idx j)))
include plain unbound frame usable width cnt plainFmt lanes reach

theorem vld_lanes_near {P : Nat → Nat → Place} (idle : (s.core s.cur).posted = [])
    (near : ∀ j ∈ governedLanes s.strand pg g n, s.nearAt (elemAddr (s.strand.getC a).img (idx j)) (ewBits ew / 8) (P j)) :
    ∃ r, Completes i s (s.strand.setV d r) ∧
      (∀ j, j < n → elemAt (ewBits ew) r j =
        if j ∈ governedLanes s.strand pg g n then s.valueAt (ewBits ew / 8) (P j) else elemAt (ewBits ew) (s.strand.getV d) j) ∧
      ∀ q, n * ewBits ew ≤ q → r.getLsbD q = false := by
  obtain ⟨bytes, some', small⟩ := ewBytes ew
  have fits : ewBits ew * n ≤ 512 := by
    have fits := lanesOf_fits kind ew
    rw [lanes] at fits
    rwa [Nat.mul_comm]
  have access := vmAccess_lanes lanes width plainFmt reach
  refine ⟨_, vld_near plain unbound frame (vmCap_lanes usable width cnt plainFmt) access some' small (fun j _ => elemAddr_lt ..) idle near,
    fun j hj => ?_, fun q above => ?_⟩
  · have element := elemAt_result (s.strand.getV d) (units := unitsAt (governedLanes s.strand pg g n) fun j =>
      elemAddr (s.strand.getC a).img (idx j)) (merge := true) (f := fun j => s.valueAt (ewBits ew / 8) (P j))
      (l := governedLanes s.strand pg g n) (by rwa [bytes]) (fun j _ => valueAt_lt ..) hj
    rw [bytes] at element
    exact element
  · exact result_above _ _ (by rwa [bytes]) (by rwa [bytes])

theorem vld_lanes_far {j : Nat} (first : ((governedLanes s.strand pg g n).find? fun j =>
      !nearUnit s.cur (elemAddr (s.strand.getC a).img (idx j)) (ewBits ew / 8)) = some j) :
    EndsFar i s (elemAddr (s.strand.getC a).img (idx j)) 2 d.toNat (saveV d) (.vecLoad (ewBits ew / 8) n true
      (unitsAt (governedLanes s.strand pg g n) fun j => elemAddr (s.strand.getC a).img (idx j))) :=
  vld_far plain unbound frame (vmCap_lanes usable width cnt plainFmt) (vmAccess_lanes lanes width plainFmt reach) first

end

theorem groupBytes_bounds (f : Nat) : 0 < groupBytes f ∧ groupBytes f ≤ 64 := by
  unfold groupBytes
  split <;> decide

theorem groups_fit (c : Vec) : 8 * groupBytes (cFmt c) * groupCount c ≤ 512 := by
  unfold groupBytes groupCount
  split <;> decide

section

variable {s : State} {i : Instr} {ew : Ew} {d : VReg} {a : CReg} {x : XReg} {pg : PReg} (plain : s.plain)
  (unbound : s.unbound) (frame : exec i s = s.runVld i .linear ew d a (.x x) pg) (usable : s.strand.usable a 0x0001)
  (group : isGroup (cFmt (s.strand.getC a).img) = true)
include plain unbound frame usable group

theorem vld_groups_refused (other : ¬ (ew = .z8 ∧ pg = 0 ∧ (s.strand.getX x).toNat % 32 = 0)) :
    Traps i s 0x14 (capDetail (opC a)) := by
  refine vld_traps plain unbound frame ?_
  by_cases shape : ew = .z8 ∧ pg = 0
  · have part : (s.strand.getX x).toNat % 32 ≠ 0 := fun whole => other ⟨shape.1, shape.2, whole⟩
    rw [show pLd = 0x0001 from rfl, vmCap_groups usable group shape, ok_bind, vmAccess_unaligned x group part]
    rfl
  · rw [show pLd = 0x0001 from rfl, vmCap_refused usable group shape, error_bind]
    rfl

variable (shape : ew = .z8 ∧ pg = 0) (whole : (s.strand.getX x).toNat % 32 = 0)
include shape whole

theorem vld_groups_beyond (beyond : cCount (s.strand.getC a).img ≤ (s.strand.getX x).toNat) :
    Traps i s 0x11 (capDetail (opC a) 0 (BitVec.ofNat 48 (s.strand.getX x).toNat)) := by
  refine vld_traps plain unbound frame ?_
  rw [show pLd = 0x0001 from rfl, vmCap_groups usable group shape, ok_bind, vmAccess_beyond x group shape whole beyond]
  rfl

variable (inside : (s.strand.getX x).toNat < cCount (s.strand.getC a).img)
include inside

theorem vld_groups_near {P : Nat → Nat → Place} (idle : (s.core s.cur).posted = [])
    (near : ∀ j ∈ groupsInside (s.strand.getC a).img (s.strand.getX x).toNat,
      s.nearAt (groupAt (s.strand.getC a).img (s.strand.getX x).toNat j) (groupBytes (cFmt (s.strand.getC a).img)) (P j)) :
    ∃ r, Completes i s (s.strand.setV d r) ∧
      (∀ j, j < groupCount (s.strand.getC a).img → elemAt (8 * groupBytes (cFmt (s.strand.getC a).img)) r j =
        if j ∈ groupsInside (s.strand.getC a).img (s.strand.getX x).toNat then s.valueAt (groupBytes (cFmt (s.strand.getC a).img)) (P j)
        else 0) ∧
      ∀ q, groupCount (s.strand.getC a).img * (8 * groupBytes (cFmt (s.strand.getC a).img)) ≤ q → r.getLsbD q = false := by
  obtain ⟨some', small⟩ := groupBytes_bounds (cFmt (s.strand.getC a).img)
  refine ⟨_, vld_near plain unbound frame (vmCap_groups usable group shape) (vmAccess_groups x group shape whole inside) some' small
    (fun j _ => elemAddr_lt ..) idle near, fun j hj => ?_, fun q above => result_above _ _ (groups_fit _) above⟩
  exact elemAt_result _ (f := fun j => s.valueAt (groupBytes (cFmt (s.strand.getC a).img)) (P j)) (groups_fit _)
    (fun j _ => valueAt_lt ..) hj

theorem vld_groups_far {j : Nat} (first : ((groupsInside (s.strand.getC a).img (s.strand.getX x).toNat).find? fun j =>
      !nearUnit s.cur (groupAt (s.strand.getC a).img (s.strand.getX x).toNat j) (groupBytes (cFmt (s.strand.getC a).img))) = some j) :
    EndsFar i s (groupAt (s.strand.getC a).img (s.strand.getX x).toNat j) 2 d.toNat (saveV d)
      (.vecLoad (groupBytes (cFmt (s.strand.getC a).img)) (groupCount (s.strand.getC a).img) false
        (unitsAt (groupsInside (s.strand.getC a).img (s.strand.getX x).toNat) (groupAt (s.strand.getC a).img (s.strand.getX x).toNat))) :=
  vld_far plain unbound frame (vmCap_groups usable group shape) (vmAccess_groups x group shape whole inside) first

end

/-- Settles O39: the lanes or groups that an access reaches are read from near memory as a whole, or end the strand at the first far one. -/
theorem vectorLoads : Obligations.VectorLoads := by
  intro s ew d y a x pg plain unbound t c w base act along lin lane count ng gg fits near load i gb m X inside at'
  have loads {i : Instr} {kind : VmKind} {v : VmIdx} {n g : Nat} {ok : Nat → Prop} {idx : Nat → Idx}
      (frame : exec i s = s.runVld i kind ew d a v pg) (lanes : lanesOf kind ew = { n, gov := g, w := ewBits ew })
      (addr : ∀ j, ok j → inShape c (idx j) = true → laneAddr c (opC a) kind (v.at t { n, gov := g, w := ewBits ew } j) j =
        .ok (elemAddr c (idx j))) : load i n g ok idx := by
    intro ⟨usable, width, cnt, plainFmt⟩ shape va l
    have reach (j : Nat) (hj : j ∈ governedLanes t pg g n) := (mem_governedLanes t pg g n j).1 hj
    have addrs (j : Nat) (hj : j ∈ governedLanes t pg g n) :=
      addr j (shape j (reach j hj).1 (reach j hj).2).1 (shape j (reach j hj).1 (reach j hj).2).2
    refine ⟨fun P idle near => ?_, fun j first => vld_lanes_far plain unbound frame usable width cnt plainFmt lanes addrs first⟩
    obtain ⟨r, completes, elements, above⟩ := vld_lanes_near plain unbound frame usable width cnt plainFmt lanes addrs idle
      fun j hj => near j (reach j hj).1 (reach j hj).2
    refine ⟨r, completes, fun j hj => ⟨fun active => ?_, fun passive => ?_⟩, above⟩
    · exact (elements j hj).trans (if_pos ((mem_governedLanes t pg g n j).2 ⟨hj, active⟩))
    · exact (elements j hj).trans (if_neg fun h => passive (reach j h).2)
  refine ⟨fun usable group => ⟨fun other => vld_groups_refused plain unbound rfl usable group other, fun z8 all whole =>
    ⟨fun beyond => vld_groups_beyond plain unbound rfl usable group ⟨z8, all⟩ whole beyond, fun inside => ⟨fun P idle near => ?_,
      fun j first => vld_groups_far plain unbound rfl usable group ⟨z8, all⟩ whole inside first⟩⟩⟩, ?_, ?_, ?_, ?_, ?_⟩
  · exact vld_groups_near plain unbound rfl usable group ⟨z8, all⟩ whole inside idle near
  · exact loads rfl rfl fun j ok _ => laneAddr_linear c (opC a) j _ ok
  · exact loads rfl rfl fun j ok shape => laneAddr_axis c (opC a) j 1 _ ok shape
  · exact loads rfl rfl fun j ok shape => laneAddr_axis c (opC a) j 2 _ ok shape
  · exact loads rfl rfl fun j ok shape => laneAddr_axis c (opC a) j 3 _ ok shape
  · refine loads rfl (lanesOf_gather ew) fun j ok _ => ?_
    rw [gatherLane_eq]
    exact laneAddr_gather c (opC a) j _ ok

end Sys2Proof.Machine
end

section
/-! Vector stores (O40; 07 R217, R225, R226). -/

namespace Sys2Proof.Machine

/-! ### The bytes of a vector store -/

/-- The elements of runs of one length laid end to end. -/
theorem getElem?_flatMap_uniform {α β : Type} {f : α → List β} {n : Nat} (long : ∀ a, (f a).length = n) (l : List α) (i : Nat) {q : Nat}
    (hq : q < n) : (l.flatMap f)[i * n + q]? = l[i]?.bind fun a => (f a)[q]? := by
  induction l generalizing i with
  | nil => rfl
  | cons a l ih =>
    rw [List.flatMap_cons, List.getElem?_append]
    cases i with
    | zero => rw [Nat.zero_mul, Nat.zero_add, if_pos (long a ▸ hq)]; rfl
    | succ i =>
      rw [Nat.succ_mul, if_neg (by rw [long]; omega), long, show i * n + n + q - n = i * n + q by omega, ih]
      rfl

/-- The bytes that a vector store writes: of each lane in turn, `size` bytes of its value at its address. -/
def laneBytes (l : List Nat) (size : Nat) (va val : Nat → Nat) : Bytes :=
  l.flatMap fun j => (List.range size).map (storeByte (va j) (val j))

/-- The bytes of a vector store with their places. -/
def laneCells (l : List Nat) (size : Nat) (val : Nat → Nat) (P : Nat → Nat → Place) : List (Place × Byte) :=
  l.flatMap fun j => (List.range size).map fun q => (P j q, BitVec.ofNat 8 (val j / 256 ^ q))

section

variable (l : List Nat) {size : Nat} (va val : Nat → Nat)

theorem bytesAt_units : ((unitsAt l va).flatMap fun u => bytesAt u.2 size (val u.1)) = laneBytes l size va val := by
  rw [unitsAt, List.flatMap_map, laneBytes]
  exact congrArg (fun f => l.flatMap f) (funext fun j => bytesAt_eq ..)

theorem laneBytes_vas : (laneBytes l size va val).map (·.1) = l.flatMap fun j => vasFrom (va j) size := by
  rw [laneBytes, List.map_flatMap]
  exact congrArg (fun f => l.flatMap f) (funext fun j => List.map_map ..)

theorem mem_laneBytes {b : Nat × Byte} : b ∈ laneBytes l size va val ↔ ∃ j ∈ l, ∃ q, q < size ∧ storeByte (va j) (val j) q = b := by
  simp only [laneBytes, List.mem_flatMap, List.mem_map, List.mem_range]

theorem getElem?_laneBytes (i : Nat) {q : Nat} (hq : q < size) :
    (laneBytes l size va val)[i * size + q]? = l[i]?.map fun j => storeByte (va j) (val j) q := by
  rw [laneBytes, getElem?_flatMap_uniform (fun j => by rw [List.length_map, List.length_range]) l i hq, Option.map_eq_bind]
  refine congrArg _ (funext fun j => ?_)
  rw [List.getElem?_map, List.getElem?_range hq]
  rfl

theorem getElem?_laneCells (P : Nat → Nat → Place) (i : Nat) {q : Nat} (hq : q < size) :
    (laneCells l size val P)[i * size + q]? = l[i]?.map fun j => (P j q, BitVec.ofNat 8 (val j / 256 ^ q)) := by
  rw [laneCells, getElem?_flatMap_uniform (fun j => by rw [List.length_map, List.length_range]) l i hq, Option.map_eq_bind]
  refine congrArg _ (funext fun j => ?_)
  rw [List.getElem?_map, List.getElem?_range hq]
  rfl

/-- The places of the bytes of each lane, its own address named in what a byte raises. -/
theorem storePlaces_lanes {s : State} {P : Nat → Nat → Place} (first : Nat) (some' : 0 < size) (lt : ∀ j ∈ l, va j < 2 ^ 56)
    (reaches : ∀ j ∈ l, s.reaches (va j) size needW (P j)) :
    s.storePlaces s.ten first (laneBytes l size va val) size = .ok (laneCells l size val P) := by
  refine storePlaces_ok (by simp [laneCells, laneBytes]) fun i b hb => ?_
  have hq : i % size < size := Nat.mod_lt _ some'
  have split : i / size * size + i % size = i := Nat.div_add_mod' i size
  have head := getElem?_laneBytes l va val (i / size) some'
  rw [Nat.add_zero] at head
  rw [← split, getElem?_laneBytes l va val _ hq] at hb
  obtain ⟨j, lane, rfl⟩ := Option.map_eq_some_iff.1 hb
  have hj : j ∈ l := List.mem_of_getElem? lane
  refine ⟨P j (i % size), ?_, ?_⟩
  · have cell := getElem?_laneCells l val P (i / size) hq
    rw [split, lane] at cell
    exact cell
  · rw [if_neg some'.ne', head, lane]
    have start : (storeByte (va j) (val j) 0).1 = va j := Nat.mod_eq_of_lt (lt j hj)
    change s.placeOf s.ten (storeByte (va j) (val j) (i % size)).1 needW false (storeByte (va j) (val j) 0).1 = _
    rw [start]
    exact reaches j hj (i % size) hq

end

/-! ### How a vector store ends -/

section

variable {s : State} {i : Instr} {kind : VmKind} {ew : Ew} {v : VReg} {a : CReg} {m : VmIdx} {pg : PReg} (plain : s.plain)
  (unbound : s.unbound) (frame : exec i s = s.runVst i kind ew v a m pg)
include plain unbound frame

theorem vst_traps {x : Trap} (h : (vmCap s.strand a kind ew pg pSt >>= fun c => vmAccess s.strand c (opC a) kind ew m pg) = .error x) :
    exec i s = .next (s.takeTrap x) := by
  rw [frame]
  refine State.runAny_error plain.1 ?_
  rw [plain.2, Bool.not_false, need_true, ok_bind, State.withSources_rewritten unbound]
  cases cap : vmCap s.strand a kind ew pg pSt with
  | error y =>
    rw [cap, error_bind] at h
    rw [error_bind]
    exact congrArg _ (Except.error.inj h)
  | ok c =>
    rw [cap, ok_bind] at h
    rw [ok_bind, h, error_bind]

variable {c : Vec} (cap : vmCap s.strand a kind ew pg pSt = .ok c) {l : List Nat} {va : Nat → Nat} {size n : Nat} {merge : Bool}
  (access : vmAccess s.strand c (opC a) kind ew m pg = .ok { units := unitsAt l va, size, n, merge })
include cap access

theorem vst_stores {s' : State} (stored : s.storeBytes s.rewritten ((unitsAt l va).headD (0, 0)).2
    (laneBytes l size va (elemAt (8 * size) (s.strand.getV v))) State.adv size = .ok s') : exec i s = .next s' := by
  rw [frame]
  refine State.runAny_ok plain.1 ?_
  rw [plain.2, Bool.not_false, need_true, ok_bind, State.withSources_rewritten unbound, cap, ok_bind, access, ok_bind]
  dsimp only
  rw [bytesAt_units]
  exact stored

theorem vst_nothing (none' : l = []) : Completes i s s.strand := by
  refine vst_stores plain unbound frame cap access (s' := s.past s.strand) ?_
  rw [none', State.past_eq_next rfl plain.2]
  exact congrArg Except.ok (State.setStrand_rewritten s Strand.next)

variable {j : Nat} {rest : List Nat} (lanes : l = j :: rest)
include lanes

theorem vst_posts (some' : 0 < size) {P : Nat → Nat → Place} (lt : ∀ j ∈ l, va j < 2 ^ 56) (room : s.queueRoom)
    (posts : ∀ j ∈ l, s.postsAt (va j) size needW (P j)) :
    Posts i s (va j) (.data (laneCells l size (elemAt (8 * size) (s.strand.getV v)) P)) (l.flatMap fun j => vasFrom (va j) size) := by
  refine vst_stores plain unbound frame cap access ?_
  generalize elemAt (8 * size) (s.strand.getV v) = val
  have byte {p : Nat → Prop} (h : ∀ k ∈ l, ∀ q, q < size → p ((va k + q) % 2 ^ 56)) : ∀ b ∈ laneBytes l size va val, p b.1 := by
    intro b hb
    obtain ⟨k, hk, q, hq, rfl⟩ := (mem_laneBytes l va val).1 hb
    exact h k hk q hq
  have nonempty : laneBytes l size va val ≠ [] :=
    List.ne_nil_of_mem ((mem_laneBytes l va val).2 ⟨j, lanes ▸ List.mem_cons_self, 0, some', rfl⟩)
  have ours := byte (p := fun x => hostAddr x = false) fun k hk q hq => ((posts k hk).1 q hq).1
  have hits := byte (p := fun x => translated x = true → s.tlbHit (s.cur / 8) s.ten x = true) fun k hk q hq => ((posts k hk).1 q hq).2
  have places := storePlaces_lanes l va val (s := s) (va j) some' lt fun k hk => (posts k hk).2
  have head : ((unitsAt l va).headD (0, 0)).2 = va j := by rw [lanes]; rfl
  have room' : s.rewritten.queueRoom := by
    unfold State.queueRoom
    rw [State.cur_rewritten, State.core_rewritten]
    exact room
  have queued := State.enqueue_of_room (s := s.rewritten) (va j) (l.flatMap fun j => vasFrom (va j) size)
    (PostOp.data_unbounded (laneCells l size val P)) room'
  have clear : stPP s.rewritten.strand.status = false := by rw [State.strand_rewritten]; exact plain.2
  have posted := State.adv_enqueued clear (va j) (.data (laneCells l size val P)) (l.flatMap fun j => vasFrom (va j) size)
  rw [State.cur_rewritten, State.ten_rewritten] at queued posted
  rw [head, State.storeBytes_posted _ _ nonempty ours hits places, laneBytes_vas,
    State.enqueue_of_room _ _ (PostOp.data_unbounded _) room, if_pos rfl, queued, posted, State.posts_rewritten]

theorem vst_far (host : ∃ k ∈ l, ∃ q, q < size ∧ hostAddr ((va k + q) % 2 ^ 56) = true) :
    EndsFar i s (va j) 0 0 0 (.store (laneBytes l size va (elemAt (8 * size) (s.strand.getV v))) size) := by
  have head : ((unitsAt l va).headD (0, 0)).2 = va j := by rw [lanes]; rfl
  have inside : ∃ b ∈ laneBytes l size va (elemAt (8 * size) (s.strand.getV v)), hostAddr b.1 = true := by
    obtain ⟨k, hk, q, hq, h⟩ := host
    exact ⟨_, (mem_laneBytes l va _).2 ⟨k, hk, q, hq, rfl⟩, h⟩
  refine endsFar_of_ended fun drained out b r bookmark room => ?_
  obtain ⟨s', ends, ended⟩ := State.endFarFrom_ended (op := .store (laneBytes l size va (elemAt (8 * size) (s.strand.getV v))) size)
    plain.2 drained out bookmark room
  refine ⟨s', vst_stores plain unbound frame cap access ?_, ended⟩
  rw [head, State.storeBytes_far _ _ inside]
  exact ends

end

/-- Settles O40: the bytes of the lanes or groups that an access reaches are posted as one entry, or end the strand. -/
theorem vectorStores : Obligations.VectorStores := by
  intro s ew v y a x pg plain unbound t c w base act along lin lane count ng gg fits puts store i m X
  have put {i : Instr} {kind : VmKind} {z : VmIdx} {l : List Nat} {va : Nat → Nat} {size n : Nat} {merge : Bool} (some' : 0 < size)
      (frame : exec i s = s.runVst i kind ew v a z pg) (cap : vmCap t a kind ew pg pSt = .ok c)
      (access : vmAccess t c (opC a) kind ew z pg = .ok { units := unitsAt l va, size, n, merge }) (lt : ∀ j ∈ l, va j < 2 ^ 56) :
      puts i l size va := by
    refine ⟨fun none' => vst_nothing plain unbound frame cap access none', fun j rest lanes => ⟨fun P room posts => ?_, fun host => ?_⟩⟩
    · exact vst_posts plain unbound frame cap access lanes some' lt room posts
    · exact vst_far plain unbound frame cap access lanes host
  have stores {i : Instr} {kind : VmKind} {z : VmIdx} {n g : Nat} {ok : Nat → Prop} {idx : Nat → Idx}
      (frame : exec i s = s.runVst i kind ew v a z pg) (lanes : lanesOf kind ew = { n, gov := g, w := ewBits ew })
      (addr : ∀ j, ok j → inShape c (idx j) = true → laneAddr c (opC a) kind (z.at t { n, gov := g, w := ewBits ew } j) j =
        .ok (elemAddr c (idx j))) : store i n g ok idx := by
    intro ⟨usable, width, cnt, plainFmt⟩ shape
    have addrs (j : Nat) (hj : j ∈ governedLanes t pg g n) : laneAddr c (opC a) kind (z.at t { n, gov := g, w := ewBits ew } j) j =
        .ok (elemAddr c (idx j)) := by
      obtain ⟨low, active⟩ := (mem_governedLanes t pg g n j).1 hj
      exact addr j (shape j low active).1 (shape j low active).2
    exact put (ewBytes ew).2.1 frame (vmCap_lanes usable width cnt plainFmt) (vmAccess_lanes lanes width plainFmt addrs)
      fun j _ => elemAddr_lt ..
  refine ⟨fun usable group => ⟨fun other => ?_, fun z8 all whole => ⟨fun beyond => ?_, fun inside => ?_⟩⟩, ?_, ?_, ?_, ?_, ?_⟩
  · refine vst_traps plain unbound (i := .vst ew v a x pg) (m := .x x) rfl ?_
    by_cases shape : ew = .z8 ∧ pg = 0
    · have part : (t.getX x).toNat % 32 ≠ 0 := fun whole => other ⟨shape.1, shape.2, whole⟩
      rw [show pSt = 0x0002 from rfl, vmCap_groups usable group shape, ok_bind, vmAccess_unaligned x group part]
      rfl
    · rw [show pSt = 0x0002 from rfl, vmCap_refused usable group shape, error_bind]
      rfl
  · refine vst_traps plain unbound (i := .vst ew v a x pg) (m := .x x) rfl ?_
    rw [show pSt = 0x0002 from rfl, vmCap_groups usable group ⟨z8, all⟩, ok_bind, vmAccess_beyond x group ⟨z8, all⟩ whole beyond]
    rfl
  · exact put (groupBytes_bounds (cFmt c)).1 rfl (vmCap_groups usable group ⟨z8, all⟩) (vmAccess_groups x group ⟨z8, all⟩ whole inside)
      fun j _ => elemAddr_lt ..
  · exact stores rfl rfl fun j ok _ => laneAddr_linear c (opC a) j _ ok
  · exact stores rfl rfl fun j ok shape => laneAddr_axis c (opC a) j 1 _ ok shape
  · exact stores rfl rfl fun j ok shape => laneAddr_axis c (opC a) j 2 _ ok shape
  · exact stores rfl rfl fun j ok shape => laneAddr_axis c (opC a) j 3 _ ok shape
  · refine stores rfl (lanesOf_gather ew) fun j ok _ => ?_
    rw [gatherLane_eq]
    exact laneAddr_gather c (opC a) j _ ok

end Sys2Proof.Machine
end
